-- ==== Sys2Proof/Word.lean ====
section
/-!
DEFINITION. The word types of the KV2 model: bytes, 32-bit registers, 64-bit instruction words and addresses.
Bit 0 is the least significant bit (R4).
-/
namespace Sys2Proof

/-- One byte of memory. -/
abbrev Byte := BitVec 8
/-- One group register, or one lane of a v-register (R10). -/
abbrev W32 := BitVec 32
/-- A 64-bit address, register pair or instruction word (R10, R51). -/
abbrev W64 := BitVec 64

end Sys2Proof
end

