-- ==== Sys2Proof/Machine/Map.lean ====
section
/-!
DEFINITION. Sparse maps as sorted lists of key and value, and sparse byte memory in one canonical form. Everything of the
machine that is numbered (registers, groups, cores, lines, entries) is held in one of these.
-/
namespace Sys2Proof.Machine

/-- A sparse map: keys strictly rising. -/
abbrev FMap (V : Type) := List (Nat × V)

variable {V : Type}

/-- The value at a key, if the map lists it. -/
def mget? : FMap V → Nat → Option V
  | [], _ => none
  | (k, v) :: m, n => if n = k then some v else mget? m n

/-- The value at a key, or the default. -/
def mget (m : FMap V) (d : V) (n : Nat) : V := (mget? m n).getD d

/-- Put a value at a key, keeping the keys in rising order. -/
def mput : FMap V → Nat → V → FMap V
  | [], n, x => [(n, x)]
  | (k, v) :: m, n, x =>
    if n < k then (n, x) :: (k, v) :: m else if n = k then (n, x) :: m else (k, v) :: mput m n x

/-- Remove a key. -/
def mdel : FMap V → Nat → FMap V
  | [], _ => []
  | (k, v) :: m, n => if n = k then mdel m n else (k, v) :: mdel m n

/-- Put a value, or remove the key where the value is the one an unlisted key reads as. -/
def mset [DecidableEq V] (m : FMap V) (d : V) (n : Nat) (x : V) : FMap V := if x = d then mdel m n else mput m n x

/-- Change the value at a listed key. -/
def mupd (m : FMap V) (n : Nat) (f : V → V) : FMap V :=
  match mget? m n with
  | some v => mput m n (f v)
  | none => m

/-- Change the value at a key, starting from the default where it is not listed. -/
def mmod (m : FMap V) (d : V) (n : Nat) (f : V → V) : FMap V := mput m n (f (mget m d n))

/-- Change every value. -/
def mmap {W : Type} (f : Nat → V → W) : FMap V → FMap W
  | [] => []
  | (k, v) :: m => (k, f k v) :: mmap f m

/-- Keep the entries that pass. -/
def mfilter (p : Nat → V → Bool) : FMap V → FMap V
  | [] => []
  | (k, v) :: m => if p k v then (k, v) :: mfilter p m else mfilter p m

/-- The keys in rising order. -/
def mkeys (m : FMap V) : List Nat := m.map (·.1)

/-- The values in key order. -/
def mvals (m : FMap V) : List V := m.map (·.2)

/-- The first entry that passes. -/
def mfind (p : Nat → V → Bool) : FMap V → Option (Nat × V)
  | [] => none
  | (k, v) :: m => if p k v then some (k, v) else mfind p m

/-- The keys are strictly rising and all lie above `lo`, where one is given. -/
def risingFrom (lo : Option Nat) : FMap V → Bool
  | [] => true
  | (k, _) :: m => (match lo with | none => true | some l => decide (l < k)) && risingFrom (some k) m

/-- The canonical form: strictly rising keys, and no entry that holds the default. -/
def canonical [DecidableEq V] (d : V) (m : FMap V) : Bool := risingFrom none m && m.all (fun e => decide (e.2 ≠ d))

/-! ## Byte memory -/

/-- Byte-addressed storage. An unlisted byte reads as zero (log 6 for HBM; R148 for scratchpad and ACM). -/
abbrev Cells := FMap Byte

/-- Read one byte. -/
def cget (m : Cells) (a : Nat) : Byte := mget m 0 a

/-- Write one byte, keeping the canonical form. -/
def cset (m : Cells) (a : Nat) (b : Byte) : Cells := mset m 0 a b

/-- Read `n` bytes from `a`. -/
def cread (m : Cells) (a n : Nat) : List Byte := (List.range n).map (fun i => cget m (a + i))

/-- Write bytes from `a`. -/
def cwrite : Cells → Nat → List Byte → Cells
  | m, _, [] => m
  | m, a, b :: bs => cwrite (cset m a b) (a + 1) bs

/-- A memory is in canonical form. -/
def Memory.wf (m : Cells) : Bool := canonical 0 m

/-! ## Sets of numbers -/

def sadd (s : List Nat) (n : Nat) : List Nat := if s.contains n then s else n :: s
def srem (s : List Nat) (n : Nat) : List Nat := s.filter (· != n)

end Sys2Proof.Machine
end

