-- ==== Sys2Proof/Machine/Bits.lean ====
section
/-!
DEFINITION. Bit fields, sign extension and byte order (R4), shared by every later file.
-/
namespace Sys2Proof.Machine

/-- Bits `lo` to `lo + n - 1` of a number. -/
def bitsN (x lo n : Nat) : Nat := x / 2 ^ lo % 2 ^ n

/-- Bit `i` of a number. -/
def bitN (x i : Nat) : Bool := x / 2 ^ i % 2 == 1

/-- The two's complement value of the low `w` bits. -/
def sgn (w x : Nat) : Int := if x % 2 ^ w < 2 ^ (w - 1) then (x % 2 ^ w : Nat) else (x % 2 ^ w : Nat) - (2 ^ w : Nat)

/-- An integer taken modulo 2^w. -/
def wrap (w : Nat) (x : Int) : Nat := (x % (2 ^ w : Nat)).toNat

/-- The bytes of a number, least significant first (R4). -/
def toBytes : Nat → Nat → List Byte
  | 0, _ => []
  | n + 1, x => BitVec.ofNat 8 x :: toBytes n (x / 256)

/-- The number that bytes make, least significant first (R4). -/
def ofBytes : List Byte → Nat
  | [] => 0
  | b :: bs => b.toNat + 256 * ofBytes bs

/-- Signed imm8 (R62, R63). -/
def simm8 (b : BitVec 8) : Int := b.toInt

/-- The lanes 0 to 31. -/
def lanes : List Nat := List.range 32

/-- A mask of the lanes that pass. -/
def maskOf (p : Nat → Bool) : W32 := BitVec.ofNat 32 ((List.range 32).foldr (fun l acc => (if p l then 1 else 0) + 2 * acc) 0)

/-- Lane `l` of a mask. -/
def laneIn (m : W32) (l : Nat) : Bool := m.getLsbD l

/-- The lanes of a mask in rising order. -/
def lanesOf (m : W32) : List Nat := lanes.filter (laneIn m)

/-- The number of ones among the low `n` bits. -/
def popCount : Nat → Nat → Nat
  | 0, _ => 0
  | n + 1, x => x % 2 + popCount n (x / 2)

/-- Zero bits above the highest one of a `w`-bit value; `w` for zero. -/
def clz (w x : Nat) : Nat := if x = 0 then w else w - 1 - Nat.log2 x

/-- The bits of a `w`-bit value in reverse order. -/
def bitReverse : Nat → Nat → Nat
  | 0, _ => 0
  | n + 1, x => (x % 2) * 2 ^ n + bitReverse n (x / 2)

/-- Division toward zero (R89). -/
def truncDiv (a b : Int) : Int := Int.tdiv a b

end Sys2Proof.Machine
end

