-- ==== Sys2Proof/Machine/Cipher.lean ====
section
/-!
DEFINITION. AES-XTS-256 as the memory controllers apply it to a 64-byte sector (R331). The spec names the cipher and not its steps: they are
those of FIPS 197 and IEEE 1619 (log 3).
-/
namespace Sys2Proof.Machine

/-! ## Bytes of GF(2^8) -/

/-- The S-box and its inverse, entry `i` in bits 8 * i to 8 * i + 7. -/
def aesBox : Nat :=
  0x16bb54b00f2d99416842e6bf0d89a18cdf2855cee9871e9b948ed9691198f8e19e1dc186b95735610ef6034866b53e708a8bbd4b1f74dde8c6b4a61c2e2578ba08ae7a65eaf4566ca94ed58d6d37c8e779e4959162acd3c25c2406490a3a32e0db0b5ede14b8ee4688902a22dc4f816073195d643d7ea7c41744975fec130ccdd2f3ff1021dab6bcf5389d928f40a351a89f3c507f02f94585334d43fbaaefd0cf584c4a39becb6a5bb1fc20ed00d153842fe329b3d63b52a05a6e1b1a2c830975b227ebe28012079a059618c323c7041531d871f1e5a534ccf73f362693fdb7c072a49cafa2d4adf04759fa7dc982ca76abd7fe2b670130c56f6bf27b777c63
def aesUnbox : Nat :=
  0x7d0c2155631469e126d677ba7e042b17619953833cbbebc8b0f52aae4d3be0a0ef9cc9939f7ae52d0d4ab519a97f51605fec8027591012b131c7078833a8dd1ff45acd78fec0db9a2079d2c64b3e56fc1bbe18aa0e62b76f89c5291d711af1476edf751ce837f9e28535ade72274ac9673e6b4f0cecff297eadc674f4111913a6b8a130103bdafc1020f3fca8f1e2cd00645b3b80558e4f70ad3bc8c00abd890849d8da75746155edab9edfd5048706c92b6655dcc5ca4d41698688664f6f87225d18b6d49a25b76b224d92866a12e084ec3fa420b954cee3d23c2a632947b54cbe9dec444438e3487ff2f9b8239e37cfbd7f3819ea340bf38a53630d56a0952
def boxAt (box b : Nat) : Nat := bitsN box (8 * b) 8

/-- Twice a byte. -/
def xtime (b : Nat) : Nat := if b < 128 then 2 * b else (2 * b) ^^^ 0x11B

/-- A byte times a constant below 16. -/
def gmul (k b : Nat) : Nat :=
  let b2 := xtime b
  let b4 := xtime b2
  (if bitN k 0 then b else 0) ^^^ (if bitN k 1 then b2 else 0) ^^^ (if bitN k 2 then b4 else 0) ^^^ (if bitN k 3 then xtime b4 else 0)

/-! ## One block of 16 bytes -/

def xorList (a b : List Nat) : List Nat := List.zipWith (· ^^^ ·) a b

/-- Byte `r + 4 * c` of the block stands in row `r` of column `c`. -/
def shiftRows (l : List Nat) : List Nat := (List.range 16).map (fun i => l.getD (i % 4 + 4 * ((i / 4 + i % 4) % 4)) 0)
def unshiftRows (l : List Nat) : List Nat := (List.range 16).map (fun i => l.getD (i % 4 + 4 * ((i / 4 + 4 - i % 4) % 4)) 0)

/-- Each column times the polynomial whose coefficients by row distance are `ks`. -/
def mixBy (ks l : List Nat) : List Nat :=
  (List.range 16).map (fun i => (List.range 4).foldl (fun acc r => acc ^^^ gmul (ks.getD ((r + 4 - i % 4) % 4) 0) (l.getD (4 * (i / 4) + r) 0)) 0)

/-- The next word of the key schedule, from the words so far with the newest first. -/
def nextWord (i : Nat) (ws : List (List Nat)) : List Nat :=
  let t := ws.headD []
  let u := if i % 8 = 0 then
      xorList (((t.drop 1 ++ t.take 1)).map (boxAt aesBox)) [2 ^ (i / 8 - 1), 0, 0, 0]
    else if i % 8 = 4 then t.map (boxAt aesBox) else t
  xorList (ws.getD 7 []) u

/-- The 15 round keys of a 32-byte key. -/
def roundKeys (key : List Nat) : List (List Nat) :=
  let w0 := (List.range 8).map (fun i => (key.drop (4 * i)).take 4)
  let ws := ((List.range 52).foldl (fun ws i => nextWord (i + 8) ws :: ws) w0.reverse).reverse
  (List.range 15).map (fun i => ((ws.drop (4 * i)).take 4).flatten)

def aesRound (st k : List Nat) : List Nat := xorList (mixBy [2, 3, 1, 1] (shiftRows (st.map (boxAt aesBox)))) k
def aesUnround (st k : List Nat) : List Nat := mixBy [14, 11, 13, 9] (xorList ((unshiftRows st).map (boxAt aesUnbox)) k)

/-- Encrypt and decrypt one block under round keys. -/
def aesEnc (ks : List (List Nat)) (b : List Nat) : List Nat :=
  let st := ((ks.drop 1).take 13).foldl aesRound (xorList b (ks.headD []))
  xorList (shiftRows (st.map (boxAt aesBox))) (ks.getD 14 [])
def aesDec (ks : List (List Nat)) (b : List Nat) : List Nat :=
  let st := (((ks.drop 1).take 13).reverse).foldl aesUnround (xorList b (ks.getD 14 []))
  xorList ((unshiftRows st).map (boxAt aesUnbox)) (ks.headD [])

/-! ## XTS over a sector (R331) -/

/-- The next block's tweak. -/
def nextTweak (t : Nat) : Nat := if t < 2 ^ 127 then 2 * t else (2 * t) % 2 ^ 128 ^^^ 0x87

def natBytes (n x : Nat) : List Nat := (toBytes n x).map BitVec.toNat
def bytesNat (l : List Nat) : Nat := ofBytes (l.map (BitVec.ofNat 8))

/-- The tweaks of the four blocks of a sector: its number is PA[49:6]; the tweak key is the second half of the material (R331, R339). -/
def tweaks (mat : BitVec 512) (sec : Nat) : List Nat :=
  let t0 := bytesNat (aesEnc (roundKeys (natBytes 32 (mat.toNat / 2 ^ 256))) (natBytes 16 (sec % 2 ^ 44)))
  [t0, nextTweak t0, nextTweak (nextTweak t0), nextTweak (nextTweak (nextTweak t0))]

/-- A sector put through the cipher block by block. -/
def xts (blk : List (List Nat) → List Nat → List Nat) (mat : BitVec 512) (sec : Nat) (bytes : List Byte) : List Byte :=
  let ks := roundKeys (natBytes 32 (mat.toNat % 2 ^ 256))
  (((List.range 4).zip (tweaks mat sec)).flatMap (fun x =>
    let t := natBytes 16 x.2
    xorList (blk ks (xorList (((bytes.drop (16 * x.1)).take 16).map BitVec.toNat) t)) t)).map (BitVec.ofNat 8)

def xtsEnc (mat : BitVec 512) (sec : Nat) (bytes : List Byte) : List Byte := xts aesEnc mat sec bytes
def xtsDec (mat : BitVec 512) (sec : Nat) (bytes : List Byte) : List Byte := xts aesDec mat sec bytes

end Sys2Proof.Machine
end

