-- ==== Sys2Proof/Config.lean ====
section
/-!
DEFINITION. What an implementation fixes and the spec does not, and the free values: constants with no body, of which
nothing can be proved (assumption log 1 to 5).
-/
namespace Sys2Proof.Config

/-- A fresh free value: the `n`-th value the spec leaves open (log 1). -/
opaque freeValue : Nat → BitVec 64

/-- CAP.REV.STEP, the silicon stepping, which R343 says the manual does not fix (log 2). -/
opaque revStep : BitVec 8

/-- The bytes of an SPDM 1.3 MEASUREMENTS response over a nonce, whose format is SPDM's own (R339, log 4). -/
opaque attestResponse : Nat → List (BitVec 8) → List (BitVec 8)

/-- EB of a quantile sketch whose exact bound does not fit its 8 bytes: the spec does not say what it then holds (log 37). -/
opaque ebOver : Nat → BitVec 64

/-- The rank of a lane among the lanes of one store that write the same bytes: they write in an order that is not stated (R170). The
first two arguments name the store: 0 and its number, or in a DET context, whose results do not differ from run to run (R304), its
group's GSID plus 1 and the group's word count (log 76). -/
opaque laneRank : Nat → Nat → Nat → BitVec 64

/-- Whether a packet whose bytes have been written since the kernel started is received as it stood then (R54): by kernel, group, number of
the group's fetch and address (log 79). -/
opaque oldPacket : Nat → Nat → Nat → Nat → Bool

end Sys2Proof.Config
end

