-- ==== Sys2Proof/Syntax.lean ====
section
/-!
DEFINITION. The abstract syntax of everything the opcode table names: the 207 program instructions (R71, one constructor
for each sub-mode the table lists), and the events, messages, services and command-list commands of the pod.
-/
namespace Sys2Proof

/-- The control fields of every word (R57): chain bit, STALL, WAIT mask, SETK. -/
structure Ctl where
  c : BitVec 1
  stall : BitVec 3
  wait : BitVec 12
  setk : BitVec 4
  deriving DecidableEq, Repr

/-- NOP: the operand bits, which R69 requires to be zero. -/
structure FmtNOP where
  rest : BitVec 36
  deriving DecidableEq, Repr

/-- PFX (R67). -/
structure FmtPFX where
  mp : BitVec 3
  mz : BitVec 1
  rnd : BitVec 3
  sat : BitVec 1
  cr : BitVec 8
  rest : BitVec 20
  deriving DecidableEq, Repr

/-- V3 (R62); `gd` is GN above GP. -/
structure FmtV3 where
  gd : BitVec 4
  d : BitVec 8
  a : BitVec 8
  b : BitVec 8
  t : BitVec 4
  m : BitVec 4
  deriving DecidableEq, Repr

/-- VI (R62). -/
structure FmtVI where
  gd : BitVec 4
  d : BitVec 8
  a : BitVec 8
  imm : BitVec 16
  deriving DecidableEq, Repr

/-- S3 (R63); `gd` is the q-guard. -/
structure FmtS3 where
  gd : BitVec 4
  d : BitVec 8
  a : BitVec 8
  b : BitVec 8
  fn : BitVec 8
  deriving DecidableEq, Repr

/-- SI (R63). -/
structure FmtSI where
  gd : BitVec 4
  d : BitVec 8
  a : BitVec 8
  imm : BitVec 16
  deriving DecidableEq, Repr

/-- BR (R64). -/
structure FmtBR where
  gd : BitVec 4
  off : BitVec 24
  fn : BitVec 8
  deriving DecidableEq, Repr

/-- VB (R64); `gd` is PN above LP. -/
structure FmtVB where
  gd : BitVec 4
  toff : BitVec 16
  roff : BitVec 16
  deriving DecidableEq, Repr

/-- M (R65). -/
structure FmtM where
  gd : BitVec 4
  data : BitVec 8
  addr : BitVec 8
  swz : BitVec 3
  sz : BitVec 3
  hint : BitVec 2
  off : BitVec 8
  deriving DecidableEq, Repr

/-- MO (R65). -/
structure FmtMO where
  gd : BitVec 4
  data : BitVec 8
  addr : BitVec 8
  scope : BitVec 3
  sz : BitVec 3
  ord : BitVec 2
  off : BitVec 8
  deriving DecidableEq, Repr

/-- X, the atomic format (R66). -/
structure FmtX where
  gd : BitVec 4
  d : BitVec 8
  addr : BitVec 8
  b : BitVec 8
  aop : BitVec 4
  scope : BitVec 3
  wide : BitVec 1
  deriving DecidableEq, Repr

/-- A, the asynchronous and system format (R67); `gd` is the q-guard. -/
structure FmtA where
  gd : BitVec 4
  fb : BitVec 8
  st : BitVec 8
  eng : BitVec 4
  batch : BitVec 4
  fn : BitVec 8
  deriving DecidableEq, Repr

/-- How far the summary unit or the matrix array of a core runs: 0 to the end of the operation at its head, else one part of it, which
its meaning numbers (R200, R249, R258, log 83). -/
structure UnitRun where
  core : Nat
  n : Nat
  deriving DecidableEq, Repr

/-- One direction of the die link of a package: the package, and the die that sends (R329). -/
structure LinkDir where
  pkg : Nat
  die : Nat
  deriving DecidableEq, Repr

/-- Where a double-bit SRAM error lies (R152). -/
inductive SramSite where
  /-- an L1 line of a core: core, line number -/
  | l1 (core line : Nat)
  /-- a TLB entry of a core: core, page number -/
  | tlb (core page : Nat)
  /-- a v-register of one lane: group, register, lane -/
  | vreg (g reg lane : Nat)
  /-- a g-register: group, register -/
  | greg (g reg : Nat)
  /-- a lane predicate in one lane: group, predicate, lane -/
  | preg (g p lane : Nat)
  /-- a group predicate: group, predicate -/
  | qreg (g q : Nat)
  /-- a 32-bit granule of scratchpad: block, rank, offset -/
  | scratch (b rank off : Nat)
  /-- a 32-bit granule of ACM: block, rank, offset -/
  | acm (b rank off : Nat)
  /-- reconvergence stack, completion counter or engine-queue entry of a group -/
  | groupFatal (g : Nat)
  deriving DecidableEq, Repr

/-- Where a monitor request comes from (R338, R339). -/
inductive SvcSrc where
  | ring (cx : Nat)
  | mailbox (pkg : Nat)
  deriving DecidableEq, Repr

/-- One request to the Serow monitor (R338, R339): OP and the three arguments. -/
structure SvcReq where
  src : SvcSrc
  op : Nat
  arg0 : BitVec 64
  arg1 : BitVec 64
  arg2 : BitVec 64
  deriving DecidableEq, Repr

/-- One access of the host or a CXL device (R340): the package, the address, and the bytes written, or none for a read of
`len` bytes. -/
structure HostAccess where
  pkg : Nat
  pa : Nat
  len : Nat
  bytes : Option (List Byte)
  deriving DecidableEq, Repr

/-- One transfer that arrives over Ultra Ethernet from another pod (R398): the receiving die and channel, the sender as ENT names it
(die id and pod), its tag, its place among the transfers with that tag, and its bytes. -/
structure UePacket where
  die : Nat
  ch : Nat
  peer : Nat
  tag : Nat
  idx : Nat
  bytes : List Byte
  deriving DecidableEq, Repr

/-- The instructions, events, messages and services of the opcode table, one constructor per row.
The program instructions carry the control fields of R57 and the raw operand fields of their format (R61 to R67);
the other rows carry what names the place they happen at. -/
inductive Instr where
  | nop (c : Ctl) (f : FmtNOP)
  | pfx (c : Ctl) (f : FmtPFX)
  | gmov (c : Ctl) (f : FmtS3)
  | gmovi (c : Ctl) (f : FmtSI)
  | gmovh (c : Ctl) (f : FmtSI)
  | gadd (c : Ctl) (f : FmtS3)
  | gsub (c : Ctl) (f : FmtS3)
  | gmul (c : Ctl) (f : FmtS3)
  | gmulh (c : Ctl) (f : FmtS3)
  | gdiv (c : Ctl) (f : FmtS3)
  | grem (c : Ctl) (f : FmtS3)
  | gand (c : Ctl) (f : FmtS3)
  | gor (c : Ctl) (f : FmtS3)
  | gxor (c : Ctl) (f : FmtS3)
  | gnot (c : Ctl) (f : FmtS3)
  | gshl (c : Ctl) (f : FmtS3)
  | gshr (c : Ctl) (f : FmtS3)
  | gsar (c : Ctl) (f : FmtS3)
  | grot (c : Ctl) (f : FmtS3)
  | gmin (c : Ctl) (f : FmtS3)
  | gmax (c : Ctl) (f : FmtS3)
  | gcmp (c : Ctl) (f : FmtS3)
  | gsel (c : Ctl) (f : FmtS3)
  | glea (c : Ctl) (f : FmtS3)
  | gpopc (c : Ctl) (f : FmtS3)
  | gclz (c : Ctl) (f : FmtS3)
  | gbfx (c : Ctl) (f : FmtS3)
  | gbfi (c : Ctl) (f : FmtS3)
  | qop (c : Ctl) (f : FmtS3)
  | sread (c : Ctl) (f : FmtS3)
  | swrite (c : Ctl) (f : FmtS3)
  | setfmt (c : Ctl) (f : FmtS3)
  | getfmt (c : Ctl) (f : FmtS3)
  | bra (c : Ctl) (f : FmtBR)
  | brx (c : Ctl) (f : FmtS3)
  | call (c : Ctl) (f : FmtBR)
  | ret (c : Ctl) (f : FmtS3)
  | vbr (c : Ctl) (f : FmtVB)
  | vbrk (c : Ctl) (f : FmtVB)
  | vexit (c : Ctl) (f : FmtS3)
  | waitk (c : Ctl) (f : FmtS3)
  | yield (c : Ctl) (f : FmtS3)
  | sleep (c : Ctl) (f : FmtSI)
  | exit (c : Ctl) (f : FmtS3)
  | tail (c : Ctl) (f : FmtS3)
  | trap (c : Ctl) (f : FmtSI)
  | bkpt (c : Ctl) (f : FmtS3)
  | vmov (c : Ctl) (f : FmtV3)
  | vmovi (c : Ctl) (f : FmtVI)
  | vmoviHi (c : Ctl) (f : FmtVI)
  | vmoviZ (c : Ctl) (f : FmtVI)
  | vmoviRep (c : Ctl) (f : FmtVI)
  | vadd (c : Ctl) (f : FmtV3)
  | vsub (c : Ctl) (f : FmtV3)
  | vmul (c : Ctl) (f : FmtV3)
  | vmulh (c : Ctl) (f : FmtV3)
  | vmad (c : Ctl) (f : FmtV3)
  | vdiv (c : Ctl) (f : FmtV3)
  | vrem (c : Ctl) (f : FmtV3)
  | vand (c : Ctl) (f : FmtV3)
  | vor (c : Ctl) (f : FmtV3)
  | vxor (c : Ctl) (f : FmtV3)
  | vnot (c : Ctl) (f : FmtV3)
  | vshl (c : Ctl) (f : FmtV3)
  | vshr (c : Ctl) (f : FmtV3)
  | vsar (c : Ctl) (f : FmtV3)
  | vmin (c : Ctl) (f : FmtV3)
  | vmax (c : Ctl) (f : FmtV3)
  | vabs (c : Ctl) (f : FmtV3)
  | vcmp (c : Ctl) (f : FmtV3)
  | vsel (c : Ctl) (f : FmtV3)
  | vpopc (c : Ctl) (f : FmtV3)
  | vclz (c : Ctl) (f : FmtV3)
  | vbrev (c : Ctl) (f : FmtV3)
  | vbfx (c : Ctl) (f : FmtV3)
  | vbfi (c : Ctl) (f : FmtV3)
  | vprmt (c : Ctl) (f : FmtV3)
  | vdot4 (c : Ctl) (f : FmtV3)
  | pop (c : Ctl) (f : FmtV3)
  | fadd (c : Ctl) (f : FmtV3)
  | fsub (c : Ctl) (f : FmtV3)
  | fmul (c : Ctl) (f : FmtV3)
  | ffma (c : Ctl) (f : FmtV3)
  | fmin (c : Ctl) (f : FmtV3)
  | fmax (c : Ctl) (f : FmtV3)
  | fminn (c : Ctl) (f : FmtV3)
  | fmaxn (c : Ctl) (f : FmtV3)
  | fcmp (c : Ctl) (f : FmtV3)
  | fclass (c : Ctl) (f : FmtV3)
  | fclassKey (c : Ctl) (f : FmtV3)
  | fabs (c : Ctl) (f : FmtV3)
  | fneg (c : Ctl) (f : FmtV3)
  | frnd (c : Ctl) (f : FmtV3)
  | fdot2 (c : Ctl) (f : FmtV3)
  | fcvt (c : Ctl) (f : FmtV3)
  | fpack (c : Ctl) (f : FmtV3)
  | funpk (c : Ctl) (f : FmtV3)
  | fscl (c : Ctl) (f : FmtV3)
  | xrcp (c : Ctl) (f : FmtV3)
  | xrsq (c : Ctl) (f : FmtV3)
  | xsqrt (c : Ctl) (f : FmtV3)
  | xexp2 (c : Ctl) (f : FmtV3)
  | xlog2 (c : Ctl) (f : FmtV3)
  | xsin (c : Ctl) (f : FmtV3)
  | xcos (c : Ctl) (f : FmtV3)
  | xtanh (c : Ctl) (f : FmtV3)
  | xsig (c : Ctl) (f : FmtV3)
  | lshf (c : Ctl) (f : FmtV3)
  | lbc (c : Ctl) (f : FmtV3)
  | lvoteAll (c : Ctl) (f : FmtV3)
  | lvoteAny (c : Ctl) (f : FmtV3)
  | lvoteUni (c : Ctl) (f : FmtV3)
  | lvoteBal (c : Ctl) (f : FmtV3)
  | lred (c : Ctl) (f : FmtV3)
  | lscan (c : Ctl) (f : FmtV3)
  | lmatch (c : Ctl) (f : FmtV3)
  | lcmpr (c : Ctl) (f : FmtV3)
  | xsend (c : Ctl) (f : FmtV3)
  | xrecv (c : Ctl) (f : FmtV3)
  | vfromg (c : Ctl) (f : FmtV3)
  | vtog (c : Ctl) (f : FmtV3)
  | vtogFirst (c : Ctl) (f : FmtV3)
  | ld (c : Ctl) (f : FmtM)
  | st (c : Ctl) (f : FmtM)
  | lds (c : Ctl) (f : FmtM)
  | sts (c : Ctl) (f : FmtM)
  | ldsc (c : Ctl) (f : FmtM)
  | stsc (c : Ctl) (f : FmtM)
  | lda (c : Ctl) (f : FmtMO)
  | ldaRng (c : Ctl) (f : FmtMO)
  | stl (c : Ctl) (f : FmtMO)
  | fence (c : Ctl) (f : FmtMO)
  | prf (c : Ctl) (f : FmtM)
  | cpy (c : Ctl) (f : FmtA)
  | bseal (c : Ctl) (f : FmtA)
  | bwait (c : Ctl) (f : FmtA)
  | waita (c : Ctl) (f : FmtM)
  | waitaSp (c : Ctl) (f : FmtM)
  | cinvL1 (c : Ctl) (f : FmtM)
  | cinvAll (c : Ctl) (f : FmtM)
  | cwb (c : Ctl) (f : FmtM)
  | nbarv (c : Ctl) (f : FmtM)
  | nbsync (c : Ctl) (f : FmtM)
  | nbwait (c : Ctl) (f : FmtM)
  | tbinit (c : Ctl) (f : FmtM)
  | tbarv (c : Ctl) (f : FmtM)
  | tbexp (c : Ctl) (f : FmtM)
  | tbwait (c : Ctl) (f : FmtM)
  | tbinv (c : Ctl) (f : FmtM)
  | cbarv (c : Ctl) (f : FmtM)
  | cbsync (c : Ctl) (f : FmtM)
  | phadv (c : Ctl) (f : FmtM)
  | phwaitNbr (c : Ctl) (f : FmtM)
  | phwaitAll (c : Ctl) (f : FmtM)
  | sealv (c : Ctl) (f : FmtM)
  | reuse (c : Ctl) (f : FmtM)
  | drop (c : Ctl) (f : FmtM)
  | rdhintFloor (c : Ctl) (f : FmtM)
  | rdhintCeil (c : Ctl) (f : FmtM)
  | rdhintClear (c : Ctl) (f : FmtM)
  | rdhintQuery (c : Ctl) (f : FmtM)
  | atom (c : Ctl) (f : FmtX)
  | atomf (c : Ctl) (f : FmtX)
  | cas (c : Ctl) (f : FmtX)
  | casXchg (c : Ctl) (f : FmtX)
  | red (c : Ctl) (f : FmtX)
  | oapp (c : Ctl) (f : FmtX)
  | odecl (c : Ctl) (f : FmtX)
  | skred (c : Ctl) (f : FmtX)
  | skinit (c : Ctl) (f : FmtA)
  | skadd (c : Ctl) (f : FmtA)
  | skmrg (c : Ctl) (f : FmtA)
  | skcmp (c : Ctl) (f : FmtA)
  | skq (c : Ctl) (f : FmtA)
  | skrank (c : Ctl) (f : FmtA)
  | sktop (c : Ctl) (f : FmtA)
  | skdc (c : Ctl) (f : FmtA)
  | rngkSet (c : Ctl) (f : FmtA)
  | rngkSeek (c : Ctl) (f : FmtA)
  | rngkRead (c : Ctl) (f : FmtA)
  | rngv (c : Ctl) (f : FmtA)
  | rngu (c : Ctl) (f : FmtA)
  | sgumb (c : Ctl) (f : FmtA)
  | stopk (c : Ctl) (f : FmtA)
  | mxm (c : Ctl) (f : FmtA)
  | mxmt (c : Ctl) (f : FmtA)
  | mxmg (c : Ctl) (f : FmtA)
  | acld (c : Ctl) (f : FmtA)
  | acst (c : Ctl) (f : FmtA)
  | acz (c : Ctl) (f : FmtA)
  | cbld (c : Ctl) (f : FmtA)
  | qsplit (c : Ctl) (f : FmtA)
  | wrsig (c : Ctl) (f : FmtA)
  | mcst (c : Ctl) (f : FmtA)
  | cpyr (c : Ctl) (f : FmtA)
  | coll (c : Ctl) (f : FmtA)
  | clrun (c : Ctl) (f : FmtA)
  | launch (c : Ctl) (f : FmtA)
  | lqryQueue (c : Ctl) (f : FmtA)
  | lqrySys (c : Ctl) (f : FmtA)
  | spapp (c : Ctl) (f : FmtA)
  | spverExact (c : Ctl) (f : FmtA)
  | spverProb (c : Ctl) (f : FmtA)
  | spacc (c : Ctl) (f : FmtA)
  | sprst (c : Ctl) (f : FmtA)
  | moduleReset
  | pickerIssue (p : Nat)
  | logSlotFree (cx : Nat)
  | watchdogExpiry (g : Nat)
  | sleepEnd (g : Nat)
  | yieldEnd (g : Nat)
  | memAccessComplete (g : Nat) (a : Nat) (r : Nat)
  | loadFillReturn (g : Nat) (a : Nat) (r : Nat)
  | wcBufferTimeout (p : Nat) (n : Nat)
  | trackerEntryRetire (p : Nat) (n : Nat)
  | completionWordRetry (cx : Nat)
  | blockPlace (die : Nat) (cx : Nat) (core : Nat)
  | blockStart (b : Nat)
  | clusterReserve (die : Nat) (cx : Nat) (core : Nat)
  | clusterRetry (die : Nat) (k : Nat)
  | preempt (b : Nat)
  | restore (b : Nat) (core : Nat)
  | copyPieceWrite (core : Nat) (op : Nat) (n : Nat)
  | copyFaultStop (core : Nat) (op : Nat)
  | summaryOpRun (r : UnitRun)
  | matrixOpRun (r : UnitRun)
  | matrixOpFault (core : Nat)
  | sramSingleBitError (core : Nat)
  | sramDoubleBitError (site : SramSite)
  | scrubPass (core : Nat)
  | hbmCorrectedError (pkg : Nat)
  | hbmUncorrectableError (sector : Nat)
  | patrolScrub (pkg : Nat)
  | keySlotError (pkg : Nat) (slot : Nat)
  | dieLinkFlitCrcFail (l : LinkDir)
  | dieLinkRetrainEnd (pkg : Nat) (ok : Bool)
  | powerSample (pkg : Nat) (watts : Nat) (degC : Nat)
  | thermalLimit (pkg : Nat)
  | ualinkPortRetrain (port : Nat)
  | portDown (port : Nat)
  | podReset
  | svcReplay (q : SvcReq)
  | svcInval (q : SvcReq)
  | svcCtxstart (q : SvcReq)
  | svcCtxstop (q : SvcReq)
  | svcKeyload (q : SvcReq)
  | svcKeyclr (q : SvcReq)
  | svcPlimit (q : SvcReq)
  | svcAttest (q : SvcReq)
  | svcGrant (q : SvcReq)
  | svcUnknown (q : SvcReq)
  | cxlMemAccess (h : HostAccess)
  | cxlCacheSnoop (h : HostAccess)
  | waitaWake (g : Nat)
  | oappGrant (g : Nat)
  | orderedAtomicGrant (g : Nat)
  | lqExchange (cx : Nat)
  | commitRoundStart (cx : Nat)
  | commitRoundComplete (cx : Nat)
  | intervalEnd (die : Nat)
  | directoryEntryError (line : Nat) (lost : Bool)
  | msgReqs (id : Nat)
  | msgReqx (id : Nat)
  | msgUpg (id : Nat)
  | msgPext (id : Nat)
  | msgEvn (id : Nat)
  | msgEvd (id : Nat)
  | msgSnpshr (id : Nat)
  | msgSnpinv (id : Nat)
  | msgSnpmask (id : Nat)
  | msgSnpmerge (id : Nat)
  | msgInv (id : Nat)
  | msgAck (id : Nat)
  | msgAckd (id : Nat)
  | msgDatas (id : Nat) (vic : Option Nat)
  | msgDatasn (id : Nat)
  | msgDatae (id : Nat) (vic : Option Nat)
  | msgDatap (id : Nat) (vic : Option Nat)
  | msgEvack (id : Nat)
  | msgAtomf (id : Nat)
  | msgAtomr (id : Nat)
  | msgRdu (id : Nat)
  | msgRdur (id : Nat)
  | msgWru (id : Nat)
  | msgWrua (id : Nat)
  | msgPut (id : Nat)
  | msgPuta (id : Nat)
  | msgSig (id : Nat)
  | msgMcd (id : Nat)
  | msgRdc (id : Nat)
  | msgRdr (id : Nat)
  | reductionDeadline (setid : Nat) (chunk : Nat)
  | msgRsv (id : Nat)
  | msgGnt (id : Nat)
  | grantWithdraw (id : Nat)
  | msgNak (id : Nat)
  | nakBackoffExpiry (sk : Nat)
  | fabricAck (id : Nat)
  | reservedMessageDrop (id : Nat)
  | chamoisOpStart (die : Nat) (ch : Nat)
  | clSend (die : Nat) (ch : Nat)
  | clRecv (die : Nat) (ch : Nat)
  | clReduce (die : Nat) (ch : Nat)
  | clCopy (die : Nat) (ch : Nat)
  | clMcast (die : Nat) (ch : Nat)
  | clWaitb (die : Nat) (ch : Nat)
  | clSignal (die : Nat) (ch : Nat)
  | clArrive (die : Nat) (ch : Nat)
  | clLoop (die : Nat) (ch : Nat)
  | clEndloop (die : Nat) (ch : Nat)
  | clRange (die : Nat) (ch : Nat)
  | clEnd (die : Nat) (ch : Nat)
  | ualinkPortRetrainEnd (port : Nat)
  | linkLevelReplay (port : Nat)
  | completionPoint (g : Nat) (n : Nat)
  | copyEngineOpStart (core : Nat)
  | fallbackWatchdogLimit (die : Nat) (ch : Nat)
  | ultraEthernetDelivery (q : UePacket)
  | spdmSecureSessionMessage (pkg : Nat) (session : Nat) (handle : Nat) (key : BitVec 512)
  | nonWindowRequestDrop (pkg : Nat)
  deriving DecidableEq, Repr

end Sys2Proof
end

