-- ==== Sys2Proof/Machine/State.lean ====
section
/-!
DEFINITION. The state of a whole pod as plain data: every group, block, core, die, package, context and fabric structure
the spec names, the memory, the caches and the directory, and the queue of outside occurrences. Numbers that name things:
a package is its index in the pod; a die is 2 * package + die; a core is 64 * die + core; a partition is 8 * core +
partition; a context is 64 * package + context id; a block, kernel or cluster has its own number; a group is 512 * block
number + group index.
-/
namespace Sys2Proof.Machine

/-! ## Groups -/

/-- A reconvergence-stack entry (R17). -/
structure Entry where
  pc : W64
  rpc : W64
  mask : W32
  brk : W32
  fmt : W32
  s : Bool
  deriving DecidableEq, Repr

/-- One register write that an instruction makes when it completes. A poisoned write marks the register (R153). -/
inductive RegWr where
  /-- v-register, lane, value, poisoned -/
  | v (reg lane : Nat) (val : W32) (bad : Bool)
  /-- g-register, value, poisoned -/
  | g (reg : Nat) (val : W32) (bad : Bool)
  /-- lane predicate, lane, value -/
  | p (idx lane : Nat) (val : Bool)
  /-- group predicate, value -/
  | q (idx : Nat) (val : Bool)
  /-- FMT -/
  | fmt (val : W32)
  /-- lane status bits, and whether an enabled trap is among them (R14, R25) -/
  | stat (lane : Nat) (bits : Byte) (trap : Bool)
  /-- status bits cleared in every lane (R14) -/
  | statClear (bits : Byte)
  /-- sr.fstat (R15) -/
  | fstat (val : W32)
  deriving DecidableEq, Repr

/-- An issued instruction that has not completed (R59, R60): `due` is the first cycle whose issues see its writes for a fixed
latency, none for a variable latency; `setk` is its SETK field. -/
structure Pend where
  id : Nat
  due : Option Nat
  setk : Nat
  wr : List RegWr
  deriving DecidableEq, Repr

/-- What an access does at its location. -/
inductive MemOp where
  | load
  | store
  /-- an atomic of R308 and R310: floating, AOP code, and whether it returns the old value; code 8 is CAS, 9 its exchange -/
  | atom (float : Bool) (code : Nat) (ret : Bool)
  deriving DecidableEq, Repr

/-- Where an access goes: generic memory, or scratchpad (each request names its block and rank). -/
inductive Space where
  | generic
  | scratch
  deriving DecidableEq, Repr

/-- One lane's part of an access: its addresses and, for a store or an atomic, its operand bytes. -/
structure LaneAcc where
  lane : Nat
  va : Nat
  pa : Nat
  data : List Byte
  bad : Bool
  deriving DecidableEq, Repr

/-- How far a request has come. -/
inductive ReqStage where
  | waiting
  | performed
  | done
  deriving DecidableEq, Repr

/-- One request of an access: the lanes whose bytes lie in one 256-byte line (R163), or the lanes that reach one scratchpad
(`line` is then 16 * block + rank), cut where single-copy atomic pieces end; the key id and page policy; the line's bytes and poisoned
sectors as read once performed; whether an invalidation took effect while the fill was outstanding (R165). -/
structure Req where
  line : Nat
  key : Nat
  pol : Nat
  lanes : List LaneAcc
  /-- the bytes of each lane's part, and where they lie within the lane's access: an access wider than the single-copy atomic size is
  made of several requests (R161, R285) -/
  n : Nat
  off : Nat
  piece : Nat
  stage : ReqStage
  data : BitVec 2048
  bad : BitVec 4
  noInstall : Bool
  /-- the home has read the line for it, and that data is under way (R277) -/
  asked : Bool
  deriving DecidableEq, Repr

/-- An outstanding lane access of a group. -/
structure Access where
  id : Nat
  setk : Nat
  op : MemOp
  space : Space
  size : Nat
  dst : Nat
  hint : Nat
  scope : Nat
  ord : Nat
  swz : Nat
  reqs : List Req
  deriving DecidableEq, Repr

/-- What holds a group's issue. Each case names the instruction that waits by the hold's `pc` and `setk`. -/
inductive HoldKind where
  /-- SLEEP until a cycle (R106) -/
  | sleep (till : Nat)
  /-- YIELD: the groups that must issue first, or until a cycle (R105) -/
  | yield (others : List Nat) (till : Nat)
  /-- WAITK (R104) -/
  | waitk (k thr : Nat)
  /-- NBARV, NBSYNC, CBARV or CBSYNC before its arrival is counted (R186, R235) -/
  | arrive (cluster : Bool) (id count : Nat) (sync : Bool)
  /-- the wait of NBSYNC, NBWAIT or CBSYNC for a parity (R187); `sync` when its own arrival is counted -/
  | parity (cluster : Bool) (id : Nat) (par sync : Bool)
  /-- PHADV before its arrival (R237) -/
  | phArrive (la : Nat)
  /-- PHADV in its hold, with the count after its arrival, and whether that arrival advanced it (R237) -/
  | phHold (la : Nat) (p : W32) (full : Bool)
  /-- PHWAIT: every core or the neighbours, and gD (R238) -/
  | phWait (all : Bool) (gd : Nat)
  /-- TBARV before its update (R197) -/
  | tbArrive (off bytes : Nat)
  /-- TBWAIT: word, parity, gD (R198) -/
  | tbWait (off : Nat) (par : Bool) (gd : Nat)
  /-- WAITA (R178): scratchpad or generic, address, size, gD, the old value -/
  | waita (sp : Bool) (addr size gd old : Nat)
  /-- BWAIT (R183) -/
  | bwait (eng batch st : Nat)
  /-- FENCE that waits for earlier accesses (R175): one without `.t` stands beside the other holds, since it holds only M- and
  A-class issue -/
  | fence (ord scope : Nat) (trap : Bool)
  /-- STL with release before it issues (R173) -/
  | release
  /-- EXIT draining the group's work (R107) -/
  | exiting
  /-- TAIL waiting for a tracker entry (R108) -/
  | tailWait
  /-- TAIL after step 1 -/
  | tailing
  /-- OAPP waiting for its turns (R317) -/
  | oapp (acc : Nat)
  /-- an ordered atomic waiting for lower GSIDs (R318) -/
  | ordered (acc : Nat)
  /-- SKRED until its merge is performed: destination, source bytes, and what its coins draw on (R320) -/
  | skred (va : Nat) (src : List Byte) (w gsid : W32) (gk : BitVec 128)
  /-- SPAPP, SPACC or SPRST in a DET context, waiting for lower GSIDs: opcode, FN, frame, ST (R371) -/
  | spec (opc fn : Nat) (frame : List W32) (st : Nat)
  /-- SEAL waiting for its release (R283) -/
  | seal (d : Nat) (base len : Nat)
  /-- REUSE waiting for the drain (R283) -/
  | reuse (base gd : Nat)
  /-- LAUNCH waiting for its release (R355) -/
  | launch (lr st : Nat)
  /-- cache maintenance until every line is handled (R177) -/
  | maint
  deriving DecidableEq, Repr

/-- A hold of a group: since when it is counted, the address of the waiting instruction and its SETK field. -/
structure Hold where
  kind : HoldKind
  since : Nat
  pc : W64
  setk : Nat
  deriving DecidableEq, Repr

/-- One operation of a batch or an open set (R183): complete, and its fault code (0 when it did not fail). -/
structure OpRef where
  id : Nat
  done : Bool
  code : Nat
  deriving DecidableEq, Repr

/-- What a write held until its quantum commits does at commit (R300). -/
inductive DetOp where
  /-- a fixed write -/
  | write (bytes : List Byte)
  /-- RED: opcode kind (floating), code and operand (R308) -/
  | red (float : Bool) (code : Nat) (bytes : List Byte)
  /-- SKRED: the destination and its physical pieces (address, length, key), and the source object's bytes (R320); no coin is
  kept, since an RNG-mode sketch is refused in a DET context (R204) -/
  | skred (va : Nat) (pieces : List (Nat × Nat × Nat)) (src : List Byte)
  /-- the invalidations of a rollback: physical pieces (address, length) (R371) -/
  | rollback (pieces : List (Nat × Nat))
  deriving DecidableEq, Repr

/-- A buffered write of a DET context: the pod physical address, page policy, key id, program position, quantum, whether it is an ordered
atomic's, and the engine operation whose BWAIT gives its quantum, if any (R300, R303). -/
structure DetWr where
  pa : Nat
  pol : Nat
  key : Nat
  pos : Nat
  quantum : Option Nat
  ordered : Bool
  eng : Option Nat
  units : Nat
  op : DetOp
  deriving DecidableEq, Repr

/-- Why a group that is otherwise resident does not issue. -/
inductive Stop where
  | running
  /-- suspended on a replayable fault whose record has this SEQ (R26) -/
  | replay (seq : Nat)
  /-- a replayable fault waiting for a free fault-log slot (R337) -/
  | logWait
  /-- stopped and saved by pre-emption (R31, R358) -/
  | saved
  /-- the block is terminated, or the group has ended -/
  | ended
  deriving DecidableEq, Repr

/-- What a fault record says about a fault (R337). -/
structure FaultInfo where
  code : Nat
  flags : Nat
  va : Nat
  lanes : W32
  imm : Nat
  deriving DecidableEq, Repr

/-- The state of a group (R10, R12, R17, R24 to R31, R145, R153, R183, R203, R280, R299). -/
structure Group where
  ctx : Nat := 0
  block : Nat := 0
  idx : Nat := 0
  rank : Nat := 0
  part : Nat := 0
  slot : Nat := 0
  startAt : Nat := 0
  stop : Stop := .ended
  /-- the fault a group in `logWait` waits to report, or a group in `replay` is suspended on -/
  waiting : Option FaultInfo := none
  pc : W64 := 0
  nv : Nat := 256
  v : FMap W32 := []
  g : FMap W32 := []
  p : FMap W32 := []
  q : BitVec 8 := 0
  k : FMap Nat := []
  fmt : W32 := 0x21
  am : W32 := 0xFFFFFFFF
  xm : W32 := 0
  stack : List Entry := []
  sc : Nat := 0
  nest : FMap Nat := []
  astat : FMap Byte := []
  trap : W32 := 0
  /-- lanes removed by DIV_DEPTH whose trap-pending bit stands (R19, R25) -/
  ddp : W32 := 0
  fstat : W32 := 0
  fpc : W64 := 0
  badV : List Nat := []
  badG : List Nat := []
  badP : List Nat := []
  /-- in the handler, before its first report point (R26) -/
  inHandler : Bool := false
  /-- `inHandler` as the report point that waits found it -/
  hadHandler : Bool := false
  /-- the handler was entered with every lane exited and the stack empty, and ends with EXIT (R25) -/
  afterEnd : Bool := false
  pend : List Pend := []
  acc : List Access := []
  hold : Option Hold := none
  /-- the hold of the other word of a chain of which both words wait (R56) -/
  hold2 : Option Hold := none
  /-- a FENCE without `.t` that has not completed: it holds M- and A-class issue only (R175) -/
  fence : Option Hold := none
  /-- the chain of which a word holds the group: the first word's address, and the number from which its register writes are counted;
  they complete when the hold ends, and not at all when the held word faults (R24, R56) -/
  chain : Option (W64 × Nat) := none
  /-- the packet being issued from, as it was received: its address, its bytes, and whether they are poisoned (R51, R54) -/
  packet : Option (Nat × List Byte × Bool) := none
  /-- how many packets the group has received -/
  fetches : Nat := 0
  lastIssue : Option Nat := none
  /-- the last cycle in which the group was seen ineligible or issued (R145) -/
  fresh : Nat := 0
  /-- since when the group counts as waiting to issue (R30) -/
  waitFrom : Nat := 0
  pfx : Option FmtPFX := none
  /-- open sets by engine class, and batches by 16 * class + number (R183) -/
  openSets : FMap (List OpRef) := []
  batches : FMap (List OpRef) := []
  gk : BitVec 128 := 0
  gpos : W64 := 0
  gsid : W32 := 0
  /-- what RNGK sets, from the cycle after its issue on (R203): cycle, GK, GPOS, GSID -/
  gnext : Option (Nat × BitVec 128 × W64 × W32) := none
  rdcnt : W64 := 0
  detCount : Nat := 0
  quantum : Nat := 0
  /-- the quantum was ended early for the waiting instruction that issues next (R299) -/
  early : Bool := false
  /-- how many commit rounds had completed when the group began its quantum (R300) -/
  qRound : Nat := 0
  /-- the group has ended its quantum and waits for a commit round that started after this number of rounds (R301) -/
  detHold : Option Nat := none
  detBuf : List DetWr := []
  deriving DecidableEq, Repr

/-! ## Blocks, clusters, kernels -/

/-- A named or cluster barrier (R185, R235). -/
structure NBar where
  arr : Nat := 0
  exp : Nat := 0
  nph : Bool := false
  deriving DecidableEq, Repr

/-- An XSEND or XRECV waiting in a transfer slot (R138): the group, its pending instruction, the register count, and for a
send the values by register and lane. -/
structure XWait where
  g : Nat
  pend : Nat
  pc : W64
  n : Nat
  send : Bool
  base : Nat
  mask : W32
  vals : List (Nat × Nat × W32)
  /-- the guard, read again when the instruction issues again after a save -/
  gd : BitVec 4
  deriving DecidableEq, Repr

/-- The local memories of one core's share of a block (R147 to R149, R191): bytes, poisoned 4-byte granules, sync tags of
8-byte words (1 LIVE, 2 INVAL, 3 CLOB), and S_b. -/
structure Local where
  sp : Cells := []
  spBad : List Nat := []
  tags : FMap Nat := []
  acm : Cells := []
  acmBad : List Nat := []
  sb : Nat := 0
  deriving DecidableEq, Repr

/-- How far a block has come. -/
inductive BlockStage where
  /-- placed, its allocations being cleared (R148) -/
  | placed
  | running
  /-- saved by pre-emption, unplaced again (R358) -/
  | saved
  /-- every group ended, or terminated and drained -/
  | ended
  deriving DecidableEq, Repr

/-- A block (R141, R185, R203). `cores` lists its cores by rank. -/
structure Block where
  ctx : Nat := 0
  kernel : Nat := 0
  lin : Nat := 0
  x : Nat := 0
  y : Nat := 0
  z : Nat := 0
  cores : List Nat := []
  cluster : Option Nat := none
  crank : Nat := 0
  stage : BlockStage := .placed
  clearAt : Nat := 0
  placedAt : Nat := 0
  local' : FMap Local := []
  nb : FMap NBar := []
  xfer : FMap (List XWait) := []
  /-- terminated under step 3 of R26, with this code -/
  term : Option Nat := none
  /-- the codebook tables of each rank while the block is saved (R259, R358) -/
  codebooks : FMap (FMap (BitVec 16)) := []
  deriving DecidableEq, Repr

/-- A cluster (R227, R235, R236): phase counts and arrival counts by rank. -/
structure Cluster where
  ctx : Nat := 0
  die : Nat := 0
  x0 : Nat := 0
  y0 : Nat := 0
  w : Nat := 1
  h : Nat := 1
  fused : Bool := false
  blocks : List Nat := []
  cores : List Nat := []
  cb : FMap NBar := []
  phn : FMap W32 := []
  parr : FMap Nat := []
  deriving DecidableEq, Repr

/-- One role of a kernel (R86): groups, v-registers, entry offset. -/
structure Role where
  groups : Nat := 0
  vregs : Nat := 0
  entry : Nat := 0
  deriving DecidableEq, Repr

/-- A launched kernel: its launch record (R346) and kernel descriptor (R86, R347), and how far it has come. -/
structure Kernel where
  ctx : Nat := 0
  kd : Nat := 0
  lr : Nat := 0
  cw : Nat := 0
  gk : BitVec 128 := 0
  gx : Nat := 1
  gy : Nat := 1
  gz : Nat := 1
  groups : Nat := 1
  cls : Nat := 0
  pow : Nat := 1
  memTag : Nat := 1
  queue : Nat := 0
  phase : Nat := 0
  after : List Nat := []
  text : Nat := 0
  entry : Nat := 0
  handler : Option Nat := none
  scratch : Nat := 0
  spd : Nat := 0
  acm : Nat := 0
  cw' : Nat := 1
  ch' : Nat := 1
  fused : Bool := false
  fwd : Bool := false
  det : Bool := false
  roles : List Role := []
  hasRoles : Bool := false
  launchAt : Nat := 0
  order : Nat := 0
  next : Nat := 0
  byp : Nat := 0
  endedBlocks : Nat := 0
  nterm : Nat := 0
  code : Option Nat := none
  /-- every block has ended and the completion word still waits to be written (R349) -/
  cwWaiting : Bool := false
  /-- TAIL of the fault log when that write was last tried -/
  cwTail : Nat := 0
  finished : Bool := false
  deriving DecidableEq, Repr

/-! ## Engines of a core -/

/-- One operation in a core's engine queue: opcode, class, who issued it, its ENG and FN fields, the 16 frame registers and
FMT as read at issue, and its address. `extra` holds what else was read at issue (register columns, destination lists, reduction
records). `pieces` lists the pieces already written, `sent` the messages still unanswered, `fail` a failure. -/
structure EngOp where
  id : Nat
  opc : Nat
  cls : Nat
  gid : Nat
  block : Nat
  rank : Nat
  ctx : Nat
  eng : Nat
  fn : Nat
  fmt : W32
  frame : List W32
  extra : List (Nat × Nat)
  st : Nat
  setk : Nat
  pc : W64
  /-- its program position, in counted words (R300) -/
  pos : Nat
  started : Bool
  pieces : List Nat
  sent : List Nat
  signalled : Bool
  fail : Option Nat
  units : Nat
  /-- a matrix operation: the rows done, the chunks done of elements of the present row, and what those elements held before it (R49, R253,
  R255, R258); an element is 256 * row + column -/
  prog : Nat := 0
  part : FMap Nat := []
  keep : FMap Nat := []
  /-- a summary operation: the 64-byte pieces it has read, and what it still has to write: space, address, bytes, result registers (R200) -/
  latch : List (Nat × List Byte) := []
  out : Option (Bool × Nat × List Byte × List (Nat × Nat)) := none
  deriving DecidableEq, Repr

/-- One translation a TLB holds (R150, R335): first page address, page size, physical base and the entry's attribute bits. -/
structure TlbEnt where
  va : Nat
  size : Nat
  pa : Nat
  w : Bool
  x : Bool
  pol : Nat
  rdh : Nat
  key : Nat
  deriving DecidableEq, Repr

/-- An L1 line (R160): valid sectors, 256 bytes, key id, virtual line address, and the group that filled it when sealed (R281). -/
structure L1Line where
  sectors : BitVec 4
  data : BitVec 2048
  bad : BitVec 4
  key : Nat
  va : Nat
  first : Bool
  sealedBy : Option Nat
  deriving DecidableEq, Repr

/-- A core (R140, R146, R150, R151, R301, R303, R313). -/
structure Core where
  split : Nat := 0
  l1 : FMap L1Line := []
  tlb : List TlbEnt := []
  tlb2 : List TlbEnt := []
  ce : Nat := 0
  copyQ : List EngOp := []
  mxQ : List EngOp := []
  skQ : List EngOp := []
  colQ : List EngOp := []
  codebook : FMap (BitVec 16) := []
  pred : FMap Nat := []
  /-- commit-buffer units taken (R303) -/
  units : Nat := 0
  lq : W32 := 0xFFFFFFFF
  cq : W32 := 0
  reservedBy : Option Nat := none
  deriving DecidableEq, Repr

/-- A write-combining buffer (R162): group, physical line and its virtual address, bytes written by offset, first and last write cycle,
key id, policy. -/
structure WcBuf where
  g : Nat
  line : Nat
  va : Nat
  bytes : List (Nat × Byte)
  first : Nat
  last : Nat
  key : Nat
  pol : Nat
  deriving DecidableEq, Repr

/-- A retirement-tracker entry (R108): the group TAIL ended, whose outstanding accesses stay with it, and its block. -/
structure TrackEnt where
  id : Nat
  block : Nat
  g : Nat
  deriving DecidableEq, Repr

/-- A partition (R143 to R145, R162). `busy` gives each pipe the first cycle it is free. -/
structure Part where
  pickedAt : Option Nat := none
  busy : FMap Nat := []
  /-- the groups that were eligible in the cycle of the last pick (R105) -/
  el : List Nat := []
  /-- the LRED or LSCAN that occupies L until it completes: group and pending instruction (R144) -/
  lBusy : Option (Nat × Nat) := none
  wc : List WcBuf := []
  tracker : List TrackEnt := []
  rr : Nat := 0
  deriving DecidableEq, Repr

/-! ## Lines, directory, messages -/

/-- The state of an L2 line on a die (R267); H is the home copy. -/
inductive LineSt where
  | s | e | m | o | p | h
  deriving DecidableEq, Repr

/-- An L2 line: state, 256 bytes, which bytes differ from below (dirty; for P and M the written mask of R274), poisoned sectors,
key id, marked to be replaced first. -/
structure Line where
  st : LineSt
  data : BitVec 2048
  dirty : BitVec 256
  bad : BitVec 4
  key : Nat
  first : Bool
  deriving DecidableEq, Repr

/-- The directory states of R268. -/
inductive DirSt where
  | i | s | em | o | p
  deriving DecidableEq, Repr

/-- A directory entry (R268): state, owner, sharers by pointer or by group of 8, the exact copy count, transfers, holders and
masks when privatised (R274), age for replacement, and whether its last tracked data is lost. -/
structure DirEnt where
  st : DirSt
  own : Nat
  cm : Bool
  ptrs : List Nat
  coarse : BitVec 32
  cnt : Nat
  xf : Nat
  /-- the index of the line in the privatisation table of its home, in P -/
  pix : Nat
  holders : List (Nat × BitVec 256)
  used : Nat
  deriving DecidableEq, Repr

/-- What a busy home line waits for (R269, R270): the request served, the dies that have still to answer, whether a mask probe
is open, and an eviction of the entry. -/
structure Txn where
  req : Nat
  tid : Nat
  typ : Nat
  from' : Nat
  mask : BitVec 256
  waits : List Nat
  probe : Bool
  evict : Bool
  deriving DecidableEq, Repr

/-- A Bynen or die-link message (R269, R382): id order is sending order. -/
structure Msg where
  typ : Nat
  src : Nat
  dst : Nat
  cls : Nat
  hi : Bool
  rsvd : Bool
  last : Bool
  ctx : Nat
  tid : Nat
  seq : Option Nat
  addr : Nat
  aux : Nat
  mask : BitVec 256
  data : List Byte
  deriving DecidableEq, Repr

/-- A replication region entry (R278). -/
structure Region where
  rd : Nat := 0
  floor : Nat := 0
  ceil : Nat := 7
  rr : Nat := 0
  na : Nat := 0
  wr : Nat := 0
  lastRr : Nat := 0
  lastNa : Nat := 0
  lastWr : Nat := 0
  lowered : Bool := false
  used : Nat := 0
  deriving DecidableEq, Repr

/-- A seal table entry (R281). Its count of sealed L1 lines on a die is the number of them that stand. -/
structure Seal where
  base : Nat
  len : Nat
  draining : Bool
  deriving DecidableEq, Repr

/-- A reservation of landing space for a transfer (R385): the dies, the bytes asked for, since when it is granted, and the engine
operation that asked. -/
structure Rsv where
  src : Nat
  dst : Nat
  bytes : Nat
  granted : Option Nat
  op : Nat
  deriving DecidableEq, Repr

/-- The sending side of one message sequence (R384, R386): next SEQ, consecutive NAKs, the refused SEQ and since when. -/
structure SendSeq where
  next : Nat := 0
  naks : Nat := 0
  refused : Option Nat := none
  since : Nat := 0
  deriving DecidableEq, Repr

/-- The receiving side of one message sequence: next expected SEQ, and the SEQ it refuses from (R385). -/
structure RecvSeq where
  next : Nat := 0
  refused : Option Nat := none
  deriving DecidableEq, Repr

/-- A port (R379). -/
inductive PortSt where
  | up
  | retraining (since : Nat)
  | down
  deriving DecidableEq, Repr

/-- One chunk of a reduction set at its root (R391): contributions by rank, the ranks that take its result, since when its head
is there, and what the check covers (P, DT, LEN). -/
structure RedChunk where
  parts : FMap (List Byte) := []
  wants : List Nat := []
  head : Nat := 0
  check : Nat := 0
  deriving DecidableEq, Repr

/-- A running reduction set at its root (R390, R391): participants, bytes, the dies of the ranks that have contributed, its open
chunks, the chunks combined, the lowest chunk it failed at, the ranks that have been told, and whether a fallback goes on
with the chunks below (R410). -/
structure RedSet where
  p : Nat := 0
  len : Nat := 0
  dies : FMap Nat := []
  chunks : FMap RedChunk := []
  got : List Nat := []
  failedAt : Option Nat := none
  told : List Nat := []
  coll : Bool := false
  deriving DecidableEq, Repr

/-! ## The Chamois engine -/

/-- A started transfer of a channel (R385, R398, R407, R412, R413): sent or received, its peer (die id and pod), its tag, its place
among the transfers with that peer and tag, the memory it reads or fills as runs of address and length, bytes computed or gathered by
the engine, the contribution it fills, the barrier and bytes it counts, whether it has been matched, and then: the die and number of the
transfer it is matched with, its length in bytes, those that have left or landed, and those that have been acknowledged. -/
structure ChXfer where
  id : Nat
  send : Bool
  peer : Nat
  tag : Nat
  idx : Nat
  runs : List (Nat × Nat)
  data : Option (List Byte)
  into : Option Nat
  tb : Nat
  count : Nat
  matched : Bool
  mate : Nat × Nat := (0, 0)
  len : Nat := 0
  pos : Nat := 0
  acked : Nat := 0
  deriving DecidableEq, Repr

/-- A Chamois channel (R397, R406, R411 to R417): its running operation (core and number), what it read at its start, the
command position, the open loops (position of the LOOP, iterations, index), the record's range, its transfers, how many
sends and receives each peer and tag has had, the contributions landed by group rank, the chunk a fallback starts at and
since when, and the failure that waits for started commands. -/
structure Chan where
  op : Option (Nat × Nat) := none
  desc : List Byte := []
  mesh : List Byte := []
  pos : Nat := 0
  loops : List (Nat × Nat × Nat) := []
  range : Nat × Nat := (0, 0)
  xfers : List ChXfer := []
  sends : FMap Nat := []
  recvs : FMap Nat := []
  got : FMap (List Byte) := []
  landed : List Nat := []
  combined : Bool := false
  fallback : Option Nat := none
  since : Nat := 0
  ending : Option Nat := none
  deriving DecidableEq, Repr

/-- A die (R265, R352, R354, R397). -/
structure Die where
  chans : FMap Chan := []
  regions : FMap Region := []
  intervals : Nat := 0
  attempts : Nat := 0
  /-- the record whose cluster reservation failed, its consecutive failures, and the cycle of the retry -/
  retry : FMap (Nat × Nat) := []
  /-- the lines on which the die's home slices last performed an atomic, and the die it came from, newest first (R313) -/
  lastAtom : List (Nat × Nat) := []
  deriving DecidableEq, Repr

/-! ## Packages and contexts -/

/-- A CXL.mem window (R340). -/
structure CxlWin where
  base : Nat
  len : Nat
  key : Nat
  deriving DecidableEq, Repr

/-- A package: key slots (R331), power (R342), mailbox and telemetry (R339, R344), the pod error record (R387), state. `samples`
are the 100 microsecond power samples of the last millisecond; `calm` counts samples since the average stayed low. -/
structure Pkg where
  keys : FMap (BitVec 512) := []
  badKeys : List Nat := []
  sessions : FMap (BitVec 512) := []
  plimit : Nat := 2700
  mhz : Nat := 1300
  /-- the clocks before the present one, newest first: the cycle at which each ended, and its MHz (R5) -/
  clocks : List (Nat × Nat) := []
  samples : List Nat := []
  calm : Nat := 0
  degC : Nat := 0
  hdrm : Nat := 0
  resetAt : Nat := 0
  time : Nat := 0
  hbmCe : Nat := 0
  drops : Nat := 0
  /-- host accesses outside every window (R340) -/
  rejects : Nat := 0
  /-- what the last read of the host returned (R340) -/
  hostData : List Byte := []
  windows : FMap CxlWin := []
  errs : List (List Byte) := []
  /-- how often the flit under way from die 0 and from die 1 of the package has failed its check in a row (R329) -/
  fails : FMap Nat := []
  linkRetrain : Bool := false
  fatal : Bool := false
  msi : Nat := 0
  reply : List (Nat × Nat) := []
  deriving DecidableEq, Repr

/-- A stream of ordered append (R317). -/
structure Stream where
  wide : Bool := false
  running : Option Nat := none
  turns : List (Nat × Nat) := []
  deriving DecidableEq, Repr

/-- A context (R333, R350, R353, R300, R301). -/
structure Ctx where
  pkg : Nat := 0
  root : Nat := 0
  tkey : Nat := 0
  det : Bool := false
  quantum : Nat := 256
  fsvc : Nat := 0
  wdog : Nat := 0
  keyGrant : BitVec 128 := 0
  log : Nat := 0
  svc : Nat := 0
  grants : FMap (Nat × Nat) := []
  queues : FMap (List Nat) := []
  placed : FMap Nat := []
  phase : Nat := 0
  seals : List Seal := []
  streams : FMap Stream := []
  launches : Nat := 0
  /-- commit rounds: how many have started, the frontier and start of the one that runs, the last frontier -/
  rounds : Nat := 0
  round : Option Nat := none
  lastF : Nat := 0
  /-- what the bytes a round wrote held before it: round, address, byte, oldest first (R300) -/
  undo : List (Nat × Nat × Byte) := []
  /-- the frontier formed by the last exchange; all ones is unbounded (R301) -/
  front : Nat := 0
  /-- a CTXSTOP has begun (R339) -/
  stopping : Bool := false
  deriving DecidableEq, Repr

/-! ## The machine -/

/-- What memory, its caches and the messages under way held when a kernel started: the packets it may still receive (R54). -/
structure Snap where
  mem : List Host.Cell := []
  cipher : FMap (BitVec 512) := []
  badMem : List Nat := []
  l2 : FMap Line := []
  victims : FMap Line := []
  dir : FMap DirEnt := []
  net : FMap Msg := []
  deriving DecidableEq, Repr

/-- Why an issue is being probed, and what it raised: a chain first runs with faults recorded, not delivered (R24, R29). -/
structure Probe where
  on : Bool := false
  raised : Option FaultInfo := none
  /-- a transfer slot whose waiting instruction takes the mismatch of a word that faulted (R138): block, slot -/
  partner : Option (Nat × Nat) := none
  deriving DecidableEq, Repr

/-- The state of the pod. -/
structure State where
  /-- cycles of the arithmetic clock since the pod's reset (R5, R13) -/
  clock : Nat := 0
  /-- what happens from outside or by free timing, oldest first -/
  inputs : List Instr := []
  /-- groups chosen to issue next, in this cycle -/
  turn : List Nat := []
  /-- the group whose instruction is being executed -/
  cur : Nat := 0
  probe : Probe := {}
  /-- the next free number for a thing that needs one -/
  nextId : Nat := 1
  /-- how many free values have been taken (log 1) -/
  free : Nat := 0
  /-- packages in the pod (R377), and the pod's own index (R13) -/
  packages : Nat := 1
  podIndex : Nat := 0
  mem : List Host.Cell := []
  /-- key material a 64-byte sector was stored under; absent for plaintext (R331) -/
  cipher : FMap (BitVec 512) := []
  /-- poisoned 64-byte sectors of memory (R344) -/
  badMem : List Nat := []
  l2 : FMap Line := []
  victims : FMap Line := []
  /-- victim buffers that have answered a snoop: gone, but taken until EvAck (R271, R272) -/
  spent : List Nat := []
  dir : FMap DirEnt := []
  busy : FMap Txn := []
  net : FMap Msg := []
  retryStore : FMap Msg := []
  sendSeq : FMap SendSeq := []
  recvSeq : FMap RecvSeq := []
  rsvs : FMap Rsv := []
  redSets : FMap RedSet := []
  ports : FMap PortSt := []
  pkgs : FMap Pkg := []
  dies : FMap Die := []
  cores : FMap Core := []
  parts : FMap Part := []
  ctxs : FMap Ctx := []
  kernels : FMap Kernel := []
  /-- memory as it was when each kernel started (R54) -/
  starts : FMap Snap := []
  clusters : FMap Cluster := []
  blocks : FMap Block := []
  groups : FMap Group := []
  deriving DecidableEq, Repr

/-- Why the machine stops with a fault. None is raised: every fault of the spec is delivered as R26 says, which is a next
state. The constructor stands for a state that the spec gives no next step (safe). -/
inductive Fault where
  /-- nothing raises it: kept so that the type is inhabited (safe) -/
  | stuck
  deriving DecidableEq, Repr

/-- Why the machine refuses. -/
inductive Refusal where
  /-- raised by an arm of `exec` whose instruction has no meaning yet (safe) -/
  | notModelled (mnemonic : String)
  deriving DecidableEq, Repr

/-- The machine right after reset: every table empty, every register at the value its default gives (log 5), nothing in memory. -/
def State.reset : State := {}

end Sys2Proof.Machine
end

