-- ==== Sys2Proof/Machine/Regs.lean ====
section
/-!
DEFINITION. Named reads and writes of the state: one accessor for every table and every register. The hard-wired
predicates p7 and q7 and the register numbers of pairs live here (R10, R11, R13, R16).
-/
namespace Sys2Proof.Machine

/-! ## Tables -/

def State.grp (s : State) (g : Nat) : Group := mget s.groups {} g
def State.setGrp (s : State) (g : Nat) (gr : Group) : State := { s with groups := mput s.groups g gr }
def State.modGrp (s : State) (g : Nat) (f : Group → Group) : State := { s with groups := mput s.groups g (f (s.grp g)) }
def State.blk (s : State) (b : Nat) : Block := mget s.blocks {} b
def State.modBlk (s : State) (b : Nat) (f : Block → Block) : State := { s with blocks := mput s.blocks b (f (s.blk b)) }
def State.krn (s : State) (k : Nat) : Kernel := mget s.kernels {} k
def State.modKrn (s : State) (k : Nat) (f : Kernel → Kernel) : State := { s with kernels := mput s.kernels k (f (s.krn k)) }
def State.clu (s : State) (c : Nat) : Cluster := mget s.clusters {} c
def State.modClu (s : State) (c : Nat) (f : Cluster → Cluster) : State := { s with clusters := mput s.clusters c (f (s.clu c)) }
def State.core (s : State) (c : Nat) : Core := mget s.cores {} c
def State.modCore (s : State) (c : Nat) (f : Core → Core) : State := { s with cores := mput s.cores c (f (s.core c)) }
def State.part (s : State) (p : Nat) : Part := mget s.parts {} p
def State.modPart (s : State) (p : Nat) (f : Part → Part) : State := { s with parts := mput s.parts p (f (s.part p)) }
def State.die (s : State) (d : Nat) : Die := mget s.dies {} d
def State.modDie (s : State) (d : Nat) (f : Die → Die) : State := { s with dies := mput s.dies d (f (s.die d)) }
def State.pkg (s : State) (p : Nat) : Pkg := mget s.pkgs {} p
def State.modPkg (s : State) (p : Nat) (f : Pkg → Pkg) : State := { s with pkgs := mput s.pkgs p (f (s.pkg p)) }
def State.ctx (s : State) (c : Nat) : Ctx := mget s.ctxs {} c
def State.modCtx (s : State) (c : Nat) (f : Ctx → Ctx) : State := { s with ctxs := mput s.ctxs c (f (s.ctx c)) }

/-- The group whose instruction is executed. -/
def State.me (s : State) : Group := s.grp s.cur

/-- A fresh free value (log 1): the step advances the counter. -/
def State.freeVal (s : State) : W64 := Config.freeValue s.free
def State.tickFree (s : State) (n : Nat) : State := { s with free := s.free + n }

/-! ## Places -/

/-- The block of a group, and a group's key. -/
def blockOf (g : Nat) : Nat := g / 512
def gkey (b idx : Nat) : Nat := 512 * b + idx
/-- The groups of a block, by key. -/
def State.groupsOf (s : State) (b : Nat) : List Nat := (mkeys s.groups).filter (fun g => blockOf g == b)
/-- The core of a group, its die and its package. -/
def State.coreOf (s : State) (g : Nat) : Nat := ((s.blk (blockOf g)).cores[(s.grp g).rank]?).getD 0
def dieOfCore (c : Nat) : Nat := c / 64
def pkgOfDie (d : Nat) : Nat := d / 2
def State.dieOf (s : State) (g : Nat) : Nat := dieOfCore (s.coreOf g)
def State.pkgOf (s : State) (g : Nat) : Nat := pkgOfDie (s.dieOf g)
/-- The local memories of a rank of a block. -/
def Block.loc (b : Block) (rank : Nat) : Local := mget b.local' {} rank
def State.modLoc (s : State) (b rank : Nat) (f : Local → Local) : State :=
  s.modBlk b (fun bl => { bl with local' := mput bl.local' rank (f (bl.loc rank)) })
/-- The kernel and context of a group. -/
def State.kernelOf (s : State) (g : Nat) : Kernel := s.krn (s.blk (blockOf g)).kernel
def State.ctxOf (s : State) (g : Nat) : Ctx := s.ctx (s.grp g).ctx

/-- The holds of a group: one, or in a chain one for each word (R56). -/
def Group.holds (g : Group) : List Hold := g.hold.toList ++ g.hold2.toList

/-- The group has a slot and has not ended. -/
def Group.live (g : Group) : Bool := g.stop != .ended
/-- The group's context is a DET context. -/
def State.isDet (s : State) (g : Nat) : Bool := (s.ctxOf g).det

/-! ## Group registers -/

def Group.rg (g : Group) (n : Nat) : W32 := mget g.g 0 n
/-- The pair gN.d. -/
def Group.rgd (g : Group) (n : Nat) : W64 := g.rg (n + 1) ++ g.rg n
/-- g0 to g255 hold their canonical form: a register that is zero is not listed. -/
def Group.wg (g : Group) (n : Nat) (x : W32) : Group :=
  { g with g := mset g.g 0 n x, badG := srem g.badG n }

/-! ## Lane registers: v-register N of lane l is held at 32 N + l -/

def Group.rv (g : Group) (n l : Nat) : W32 := mget g.v 0 (32 * n + l)
/-- The pair vN.d of a lane. -/
def Group.rvd (g : Group) (n l : Nat) : W64 := g.rv (n + 1) l ++ g.rv n l
def Group.wv (g : Group) (n l : Nat) (x : W32) (bad : Bool) : Group :=
  { g with v := mset g.v 0 (32 * n + l) x, badV := if bad then sadd g.badV (32 * n + l) else srem g.badV (32 * n + l) }
/-- A v-register of a lane is poisoned (R153). -/
def Group.vBad (g : Group) (n l : Nat) : Bool := g.badV.contains (32 * n + l)
def Group.gBad (g : Group) (n : Nat) : Bool := g.badG.contains n

/-! ## Predicates: p7 and q7 read true and discard writes (R11) -/

def Group.pm (g : Group) (i : Nat) : W32 := if i = 7 then 0xFFFFFFFF else mget g.p 0 i
def Group.rp (g : Group) (i l : Nat) : Bool := laneIn (g.pm i) l
def Group.wp (g : Group) (i l : Nat) (b : Bool) : Group :=
  if i = 7 then g
  else { g with p := mset g.p 0 i (if b then g.pm i ||| (1#32 <<< l) else g.pm i &&& ~~~(1#32 <<< l)) }
def Group.rq (g : Group) (i : Nat) : Bool := i = 7 || g.q.getLsbD i
def Group.wq (g : Group) (i : Nat) (b : Bool) : Group :=
  if i = 7 then g else { g with q := if b then g.q ||| (1#8 <<< i) else g.q &&& ~~~(1#8 <<< i) }

/-- The value of a 4-bit q-guard (R61). -/
def Group.qGuard (g : Group) (gd : BitVec 4) : Bool := g.rq (gd.toNat % 8) != (gd.toNat ≥ 8)
/-- The value of a lane guard in a lane (R16). -/
def Group.pGuard (g : Group) (gd : BitVec 4) (l : Nat) : Bool := g.rp (gd.toNat % 8) l != (gd.toNat ≥ 8)
/-- Active and not exited. -/
def Group.run (g : Group) : W32 := g.am &&& ~~~g.xm
/-- The lanes that take part under a guard (R16). -/
def Group.part' (g : Group) (gd : BitVec 4) : List Nat := (lanesOf g.run).filter (g.pGuard gd)

/-! ## Counters and status -/

def Group.kc (g : Group) (i : Nat) : Nat := mget g.k 0 i
/-- Increment the counter a SETK field selects (R12). -/
def Group.kInc (g : Group) (setk : Nat) : Group :=
  if setk = 0 then g else { g with k := mset g.k 0 (setk - 1) (g.kc (setk - 1) + 1) }
def Group.kDec (g : Group) (setk : Nat) : Group :=
  if setk = 0 then g else { g with k := mset g.k 0 (setk - 1) (g.kc (setk - 1) - 1) }

/-- Sticky status bits of a lane (R14). -/
def Group.stat (g : Group) (l : Nat) : Byte := mget g.astat 0 l
/-- The OR over the lanes, as sr.astat reads (R14). -/
def Group.astatAll (g : Group) : W32 := (lanes.foldl (fun a l => a ||| g.stat l) 0#8).zeroExtend 32
/-- The status bits: IV, DZ, OF, UF, NX, IDZ, DD, SAT (R14). -/
abbrev Stat := BitVec 8
def stIV : Stat := 1
def stDZ : Stat := 2
def stOF : Stat := 4
def stUF : Stat := 8
def stNX : Stat := 16
def stIDZ : Stat := 32
def stDD : Stat := 64
def stSAT : Stat := 128
/-- The bits whose trap enable in FMT[27:24] is set (R25): IV, DZ, OF, IDZ. -/
def trapBits (fmt : W32) : Stat :=
  (if fmt.getLsbD 24 then stIV else 0) ||| (if fmt.getLsbD 25 then stDZ else 0) |||
  (if fmt.getLsbD 26 then stOF else 0) ||| (if fmt.getLsbD 27 then stIDZ else 0)
/-- Set status bits in a lane, and with `trap` its trap-pending bit (R14, R25). -/
def Group.raiseStat (g : Group) (l : Nat) (st : Stat) (trap : Bool) : Group :=
  if st = 0 then g
  else { g with
    astat := mset g.astat 0 l (g.stat l ||| st)
    trap := if trap then g.trap ||| (1#32 <<< l) else g.trap }

/-- The status that an instruction sets in a lane when it completes, under the trap enables that it read at issue (R25, R59). -/
def statWr (fmt : W32) (l : Nat) (st : Stat) : List RegWr :=
  if st = 0 then [] else [.stat l st (st &&& trapBits fmt != 0)]

/-- Clear status bits in every lane (R14). -/
def clearStat (g : Group) (m : Byte) : Group :=
  { g with astat := lanes.foldl (fun x l => mset x 0 l (mget x 0 l &&& ~~~m)) g.astat }

/-- A status code: CODE and V, REC clear (R15). -/
def statusVal (code : Nat) : W32 := BitVec.ofNat 32 (code + 64)
def Group.status (g : Group) (code : Nat) : Group := { g with fstat := statusVal code }

/-! ## Applying register writes -/

def Group.apply1 (g : Group) : RegWr → Group
  | .v n l x bad => g.wv n l x bad
  | .g n x bad => let g' := g.wg n x; { g' with badG := if bad then sadd g'.badG n else g'.badG }
  | .p i l b => { g.wp i l b with badP := srem g.badP (32 * i + l) }
  | .q i b => { g.wq i b with badP := srem g.badP (256 + i) }
  | .fmt x => { g with fmt := x }
  | .stat l st t => g.raiseStat l st t
  | .statClear m => clearStat g m
  | .fstat x => { g with fstat := x }

def Group.applyAll (g : Group) (ws : List RegWr) : Group := ws.foldl Group.apply1 g

/-- Complete one issued instruction: its writes, then its counter (R60). -/
def Group.complete (g : Group) (p : Pend) : Group :=
  let g := { g with pend := g.pend.filter (fun q => q.id != p.id) }
  (g.applyAll p.wr).kDec p.setk

/-- A word of a chain holds the group, and these writes are the chain's: they stand or fall with the held word (R24, R56). -/
def Group.chained (g : Group) (p : Pend) : Bool :=
  match g.chain with
  | some c => g.hold.isSome && decide (c.2 ≤ p.id)
  | none => false

/-- Complete every fixed-latency instruction whose latency has passed, in the order in which they complete (R59, R60, log 11). -/
def settleGo (now : Nat) : List Pend → Group → Group
  | [], g => g
  | p :: ps, g =>
    match p.due with
    | some d => settleGo now ps (if d ≤ now && !g.chained p then g.complete p else g)
    | none => settleGo now ps g

/-- Insert by completion cycle. -/
def insPend (p : Pend) : List Pend → List Pend
  | [] => [p]
  | q :: qs => if p.due.getD 0 < q.due.getD 0 then p :: q :: qs else q :: insPend p qs

def Group.settle (g : Group) (now : Nat) : Group :=
  settleGo now (g.pend.foldl (fun acc p => insPend p acc) []) g

end Sys2Proof.Machine
end

