-- ==== Sys2Proof/Machine/Mem.lean ====
section
/-!
DEFINITION. Physical memory: homes and slices (R265, R330), encryption (R331, R332), poison (R153, R344), home copies and
remote L2 copies (R266, R267), and the one-step coherent read and write that engines, walkers, the dispatcher and the
monitor use (log 20). Lane accesses to lines homed elsewhere go through the messages of Machine/Coh.lean.
-/
namespace Sys2Proof.Machine

/-! ## The address map -/

def localOf (pa : Nat) : Nat := pa % 2 ^ 43
def pkgOfPa (pa : Nat) : Nat := pa / 2 ^ 43 % 128
/-- HBM, 768 GiB (R330). -/
def isHbm (pa : Nat) : Bool := localOf pa < 0xC000000000
/-- Host memory and CXL devices (R330). -/
def isHost (pa : Nat) : Bool := 0x40000000000 ≤ localOf pa
/-- The home die: PA[21] chooses the die in HBM, host memory is die 0 (R265, R330). -/
def homeDie (pa : Nat) : Nat := 2 * pkgOfPa pa + (if isHbm pa && bitN pa 21 then 1 else 0)
/-- The L2 slice of an address (R265). -/
def sliceOf (pa : Nat) : Nat := (bitsN pa 8 6 ^^^ bitsN pa 14 6) ^^^ (bitsN pa 20 6 ^^^ bitsN pa 26 6)
/-- The 256-byte line of an address, and the key under which a die's copy is held. -/
def lineOf (pa : Nat) : Nat := pa / 256
def atDie (die line : Nat) : Nat := die * 2 ^ 42 + line

/-! ## Bytes of a line -/

def lineByte (d : BitVec 2048) (i : Nat) : Byte := d.extractLsb' (8 * i) 8
def lineSet (d : BitVec 2048) (i : Nat) (b : Byte) : BitVec 2048 :=
  (d &&& ~~~((0xFF#2048) <<< (8 * i))) ||| ((b.zeroExtend 2048) <<< (8 * i))
/-- Write bytes into a line from offset `i`. -/
def lineWrite : BitVec 2048 → Nat → List Byte → BitVec 2048
  | d, _, [] => d
  | d, i, b :: bs => lineWrite (lineSet d i b) (i + 1) bs
def lineRead (d : BitVec 2048) (i n : Nat) : List Byte := (List.range n).map (fun j => lineByte d (i + j))
/-- The mask of `n` bytes from offset `i`. -/
def byteMask (i n : Nat) : BitVec 256 := (BitVec.ofNat 256 (2 ^ n - 1)) <<< i
/-- Bytes of `a` where the mask is set, of `b` elsewhere. -/
def lineMerge (mask : BitVec 256) (a b : BitVec 2048) : BitVec 2048 :=
  (List.range 256).foldl (fun d i => if mask.getLsbD i then lineSet d i (lineByte a i) else d) b
/-- The sectors that `n` bytes from offset `i` touch. -/
def sectorMask (i n : Nat) : BitVec 4 :=
  (List.range 4).foldl (fun m k => if i < 64 * (k + 1) && 64 * k < i + n then m ||| (1#4 <<< k) else m) 0

/-! ## Memory behind the caches -/

/-- The key material of a key id in a package; none for slot 0, which is plaintext (R331). -/
def State.keyMat (s : State) (pkg key : Nat) : Option (BitVec 512) := if key = 0 then none else some (mget (s.pkg pkg).keys 0 key)

/-- What a sector that was stored under one key reads as under another: the bytes as they stand in HBM, decrypted by the reader's key. Plaintext
is neither encrypted nor decrypted (R331). -/
def crossKey (w r : Option (BitVec 512)) (sec : Nat) (bytes : List Byte) : List Byte :=
  let raw := match w with
    | some k => xtsEnc k sec bytes
    | none => bytes
  match r with
  | some k => xtsDec k sec raw
  | none => raw

/-- A sector of memory read under a key. State holds what was written, and the key it was stored under. -/
def dramSector (s : State) (sec key : Nat) : List Byte :=
  let bytes := (List.range 64).map (fun i => cget s.mem (64 * sec + i))
  let w := mget? s.cipher sec
  let r := s.keyMat (pkgOfPa (64 * sec)) key
  if w = r then bytes else crossKey w r sec bytes

/-- One byte of memory read under a key (R331, R332). -/
def dramByte (s : State) (pa key : Nat) : Byte :=
  if mget? s.cipher (pa / 64) = s.keyMat (pkgOfPa pa) key then cget s.mem pa else (dramSector s (pa / 64) key).getD (pa % 64) 0

/-- Write bytes that lie in one 64-byte sector under a key: the whole sector is stored under that key afterwards (R331). -/
def dramWrite (s : State) (pa key : Nat) (bytes : List Byte) : State :=
  let sec := pa / 64
  let r := s.keyMat (pkgOfPa pa) key
  let s1 := if mget? s.cipher sec = r then s
    else { s with
      mem := cwrite s.mem (64 * sec) (dramSector s sec key)
      cipher := match r with
        | some k => mput s.cipher sec k
        | none => mdel s.cipher sec }
  { s1 with
    mem := cwrite s1.mem pa bytes
    badMem := if bytes.length = 64 then srem s1.badMem sec else s1.badMem }

/-- Write bytes anywhere in memory, sector by sector. -/
def dramWriteAll (s : State) (key : Nat) (cells : List (Nat × Byte)) : State :=
  cells.foldl (fun s c => dramWrite s c.1 key [c.2]) s

/-- The 256 bytes of a line in memory and its poisoned sectors. -/
def dramLine (s : State) (line key : Nat) : BitVec 2048 × BitVec 4 :=
  (BitVec.ofNat 2048 (ofBytes ((List.range 4).flatMap (fun k => dramSector s (4 * line + k) key))),
   (List.range 4).foldl (fun m k => if s.badMem.contains (4 * line + k) then m ||| (1#4 <<< k) else m) 0)

/-! ## Home copies -/

/-- Write the dirty bytes of a home copy to memory and mark it clean (R177, R331). -/
def writeBack (s : State) (line : Nat) : State :=
  let h := atDie (homeDie (256 * line)) line
  match mget? s.l2 h with
  | some l =>
    let cells := (List.range 256).filterMap (fun i => if l.dirty.getLsbD i then some (256 * line + i, lineByte l.data i) else none)
    let s := dramWriteAll s l.key cells
    let whole := fun (k : Nat) => (l.dirty.extractLsb' (64 * k) 64 == BitVec.allOnes 64)
    { s with
      l2 := mput s.l2 h { l with dirty := 0 }
      badMem := (List.range 4).foldl (fun b k =>
        if l.bad.getLsbD k then sadd b (4 * line + k) else if whole k then srem b (4 * line + k) else b) s.badMem }
  | none => s

/-- Make the home hold a copy of the line under a key, writing back a copy under another key first (R331). -/
def homeFill (s : State) (line key : Nat) : State :=
  let h := atDie (homeDie (256 * line)) line
  let fresh := fun (s : State) =>
    let d := dramLine s line key
    { s with l2 := mput s.l2 h { st := .h, data := d.1, dirty := 0, bad := d.2, key := key, first := false } }
  match mget? s.l2 h with
  | some l => if l.key = key then s else fresh (writeBack s line)
  | none => fresh s

/-- The home copy's bytes, read without changing the state. -/
def homeData (s : State) (line key : Nat) : BitVec 2048 × BitVec 4 :=
  match mget? s.l2 (atDie (homeDie (256 * line)) line) with
  | some l => if l.key = key then (l.data, l.bad) else
      let s := writeBack s line
      dramLine s line key
  | none => dramLine s line key

/-! ## Remote copies -/

/-- A die's copy of a line: in its slice or in a victim buffer (R271). -/
def copyAt (s : State) (die line : Nat) : Option Line :=
  match mget? s.l2 (atDie die line) with
  | some l => some l
  | none => if s.spent.contains (atDie die line) then none else mget? s.victims (atDie die line)

def dropCopy (s : State) (die line : Nat) : State :=
  { s with
    l2 := mdel s.l2 (atDie die line)
    -- a victim buffer is gone, and stays taken until EvAck (R271)
    spent := if (mget? s.victims (atDie die line)).isSome then sadd s.spent (atDie die line) else s.spent }

/-- The dies that the directory entry says may hold a copy, in die order. -/
def DirEnt.sharers (e : DirEnt) : List Nat :=
  if e.cm then (List.range 256).filter (fun d => e.coarse.getLsbD (d / 8)) else e.ptrs

/-- The bytes that a message carries for its line, and the poisoned sectors and key id of its AUX. -/
def msgLine (m : Msg) : BitVec 2048 := BitVec.ofNat 2048 (ofBytes m.data)
def msgBad (m : Msg) : BitVec 4 := BitVec.ofNat 4 m.aux
def msgKey (m : Msg) : Nat := m.aux / 16

/-- Answers with data about a line that are still on their way home, oldest first. -/
def answersOf (s : State) (line : Nat) : List Msg :=
  (mvals s.net).filter (fun m => m.typ == 0x0D && m.addr / 256 == line)

/-- The current bytes of a line in coherence order under the key of its copies: the owner's, or each privatised holder's masked bytes, over what
is on its way home, over the home copy. -/
def curSame (s : State) (line key : Nat) : BitVec 2048 × BitVec 4 :=
  let h := (answersOf s line).foldl (fun (d : BitVec 2048 × BitVec 4) (m : Msg) =>
    (lineMerge m.mask (msgLine m) d.1, d.2 ||| msgBad m)) (homeData s line key)
  match mget? s.dir line with
  | none => h
  | some e =>
    match e.st with
    | .em | .o => match copyAt s e.own line with
      | some l => if l.key = key then (l.data, l.bad) else h
      | none => h
    | .p => e.holders.foldl (fun (d : BitVec 2048 × BitVec 4) (x : Nat × BitVec 256) => match copyAt s x.1 line with
        | some l => (lineMerge l.dirty l.data d.1, d.2 ||| l.bad)
        | none => d) h
    | _ => h

/-- The request of a die for a line is under way: as a message, as the transaction it opened, or as the answer to it. -/
def missOut (s : State) (d line : Nat) : Bool :=
  s.net.any (fun e => e.2.addr / 256 == line &&
    ((e.2.src == d && (1 ≤ e.2.typ && e.2.typ ≤ 4)) || (e.2.dst == d && (0x0E ≤ e.2.typ && e.2.typ ≤ 0x11)))) ||
  (match mget? s.busy line with
   | some t => t.from' == d
   | none => false)

/-- Remove the sealed L1 lines of a die that hold the line (R281). -/
def dropSealed (s : State) (die line : Nat) : State :=
  { s with cores := mmap (fun c co => if dieOfCore c == die then
      match mget? co.l1 line with
      | some l => if l.sealedBy.isSome then { co with l1 := mdel co.l1 line } else co
      | none => co
    else co) s.cores }

/-- Merge bytes that come home into the home copy, marked dirty. -/
def mergeHome (s : State) (line key : Nat) (mask : BitVec 256) (data : BitVec 2048) (bad : BitVec 4) : State :=
  if mask = 0 then s
  else
    let s := homeFill s line key
    { s with l2 := mupd s.l2 (atDie (homeDie (256 * line)) line) (fun h =>
        { h with data := lineMerge mask data h.data, dirty := h.dirty ||| mask, bad := h.bad ||| bad }) }

/-- The dies that a directory entry records as holding a copy. -/
def DirEnt.dies (e : DirEnt) : List Nat :=
  match e.st with
  | .em => [e.own]
  | .o => e.own :: e.sharers
  | .p => e.holders.map (fun (x : Nat × BitVec 256) => x.1)
  | _ => e.sharers

/-- A message that a transaction of the line has under way: snoops, answers, and data that would install a copy. -/
def inTransaction (line : Nat) (m : Msg) : Bool :=
  m.addr / 256 == line && ((0x07 ≤ m.typ && m.typ ≤ 0x0E) || m.typ == 0x10 || m.typ == 0x11)

/-- Bring every copy of a line home and remove it, in one step (R169, R177, R331, log 20). A transaction under way ends without its grant: its
requester asks again. With `keep` the sealed L1 lines stay, as CINV leaves them (R177). -/
def collapseWith (keep : Bool) (s : State) (line : Nat) : State :=
  let noSeal := fun (s : State) (d : Nat) => if keep then s else dropSealed s d line
  match mget? s.dir line with
  | none => s
  | some e =>
    let s := (answersOf s line).foldl (fun s m => mergeHome s line (msgKey m) m.mask (msgLine m) (msgBad m)) s
    let s := e.dies.foldl (fun s d => match copyAt s d line with
      | some l => mergeHome (noSeal (dropCopy s d line) d) line l.key l.dirty l.data l.bad
      | none => noSeal s d) s
    { s with
      dir := mdel s.dir line
      busy := mdel s.busy line
      net := mfilter (fun _ m => !inTransaction line m) s.net
      retryStore := mfilter (fun _ m => !inTransaction line m) s.retryStore }

def collapse (s : State) (line : Nat) : State := collapseWith false s line

/-- A copy of the line, at its home or at another die, is held under another key. -/
def otherKey (s : State) (line key : Nat) : Bool :=
  (match mget? s.l2 (atDie (homeDie (256 * line)) line) with
   | some l => l.key != key
   | none => false) ||
  (match mget? s.dir line with
   | some e => e.dies.any (fun d => match copyAt s d line with
     | some l => l.key != key
     | none => false)
   | none => false)

/-- The current bytes of a line under a key: copies under another key are written back first (R331). -/
def curLine (s : State) (line key : Nat) : BitVec 2048 × BitVec 4 :=
  if otherKey s line key then dramLine (writeBack (collapse s line) line) line key else curSame s line key

/-! ## Regions (R277 to R279) -/

def regionOf (pa : Nat) : Nat := pa / 2 ^ 21

def Region.pinned (r : Region) : Bool := r.floor != 0 || r.ceil != 7

/-- The set of a region: bits above the one that chooses its home die, so that each die uses all 256 sets (R278, log 81). -/
def regionSet (n : Nat) : Nat := n / 2 % 256

/-- Make room in the region table: 16-way sets, the least recently used unpinned entry leaves (R278); none when every way is pinned. -/
def regionRoom (d : Die) (n : Nat) : Option Die :=
  let set := d.regions.filter (fun e => regionSet e.1 == regionSet n)
  if set.length < 16 then some d
  else
    let free := set.filter (fun e => !e.2.pinned)
    let oldest := free.foldl (fun m e => min m e.2.used) (free.headD (0, {})).2.used
    (free.find? (fun e => e.2.used == oldest)).map (fun e => { d with regions := mdel d.regions e.1 })

/-- Count at the region of an address, allocating its entry with the request's RD hint where a way can be had. -/
def countRegion (s : State) (pa rdh : Nat) (f : Region → Region) : State :=
  if !isHbm pa then s
  else s.modDie (homeDie pa) (fun d =>
    let n := regionOf pa
    let d := if (mget? d.regions n).isSome then d
      else match regionRoom d n with
        | some d => { d with regions := mput d.regions n { rd := rdh } }
        | none => d
    { d with regions := mupd d.regions n (fun r => { f r with used := s.clock }) })

/-- WR + 1; at 8 within an interval RD falls once (R279). -/
def Region.wrote (r : Region) : Region :=
  let w := min (r.wr + 1) 65535
  if w = 8 && !r.lowered then { r with wr := w, rd := max r.floor (r.rd - 1), lowered := true } else { r with wr := w }

/-- A store by a core of the home die that removed a remote copy counts in WR (R278). -/
def countHomeStore (s : State) (pa : Nat) : State :=
  if isHbm pa then s.modDie (homeDie pa) (fun d => { d with regions := mupd d.regions (regionOf pa) Region.wrote }) else s

/-! ## The one-step coherent accesses -/

/-- Bytes of memory itself, and whether a sector read is poisoned. -/
def memRead (s : State) (pa n key : Nat) : List Byte × Bool :=
  ((List.range n).map (fun i => dramByte s (pa + i) key), (List.range n).any (fun i => s.badMem.contains ((pa + i) / 64)))

/-- Read bytes that lie in one line, with the value current in coherence order, and whether a sector read is poisoned. -/
def cohRead (s : State) (pa n key : Nat) : List Byte × Bool :=
  match mget? s.dir (lineOf pa), mget? s.l2 (atDie (homeDie pa) (lineOf pa)) with
  | none, none => memRead s pa n key
  | _, _ =>
    let d := curLine s (lineOf pa) key
    (lineRead d.1 (pa % 256) n, (d.2 &&& sectorMask (pa % 256) n) != 0)

/-- Write bytes that lie in one line at the home, after every other copy has been removed (R169). A write that covers a whole
sector clears its poison. `bad` marks the sectors written as poisoned. -/
def cohWrite (s : State) (pa key : Nat) (bytes : List Byte) : State :=
  let line := lineOf pa
  let had := (mget? s.dir line).isSome
  let s := homeFill (collapse s line) line key
  let s := { s with l2 := mupd s.l2 (atDie (homeDie pa) line) (fun l =>
    { l with
      data := lineWrite l.data (pa % 256) bytes
      dirty := l.dirty ||| byteMask (pa % 256) bytes.length
      bad := (List.range 4).foldl (fun m k =>
        if pa % 256 ≤ 64 * k && 64 * (k + 1) ≤ pa % 256 + bytes.length then m &&& ~~~(1#4 <<< k) else m) l.bad }) }
  if had then countHomeStore s pa else s

/-- Cut `n` bytes from `a` into pieces that each lie in one 256-byte line: address, offset from `a`, length. -/
def linePieces (a n : Nat) : List (Nat × Nat × Nat) :=
  (List.range (if n = 0 then 0 else (a + (n - 1)) / 256 - a / 256 + 1)).map (fun i =>
    let lo := max a (256 * (a / 256 + i))
    let hi := min (a + n) (256 * (a / 256 + i + 1))
    (lo, lo - a, hi - lo))

/-- Read any bytes coherently: UC and WC pages read memory itself (R161). -/
def physRead (s : State) (pol pa n key : Nat) : List Byte × Bool :=
  if pol = 0 then
    (linePieces pa n).foldl (fun r p => let x := cohRead s p.1 p.2.2 key; (r.1 ++ x.1, r.2 || x.2)) ([], false)
  else memRead s pa n key

/-- Write any bytes coherently, line by line; UC and WC pages write memory itself. -/
def physWrite (s : State) (pol pa key : Nat) (bytes : List Byte) : State :=
  if pol = 0 then
    (linePieces pa bytes.length).foldl (fun s p => cohWrite s p.1 key ((bytes.drop p.2.1).take p.2.2)) s
  else
    (List.range ((pa % 64 + bytes.length + 63) / 64)).foldl (fun s i =>
      let lo := max pa (64 * (pa / 64 + i))
      let hi := min (pa + bytes.length) (64 * (pa / 64 + i + 1))
      dramWrite s lo key ((bytes.drop (lo - pa)).take (hi - lo))) s

end Sys2Proof.Machine
end

