-- ==== Sys2Proof/Machine/Net.lean ====
section
/-!
DEFINITION. The pod fabric as a carrier of messages: ports and routes (R377 to R379), message classes and sequences (R382 to
R384), refusals and resends (R385, R386). What a message does at its destination is in the later files.
-/
namespace Sys2Proof.Machine

/-! ## Message types and classes (R383) -/

def tReqS : Nat := 0x01
def tReqX : Nat := 0x02
def tUpg : Nat := 0x03
def tPExt : Nat := 0x04
def tEvN : Nat := 0x05
def tEvD : Nat := 0x06
def tSnpShr : Nat := 0x07
def tSnpInv : Nat := 0x08
def tSnpMask : Nat := 0x09
def tSnpMerge : Nat := 0x0A
def tInv : Nat := 0x0B
def tAck : Nat := 0x0C
def tAckD : Nat := 0x0D
def tDataS : Nat := 0x0E
def tDataSN : Nat := 0x0F
def tDataE : Nat := 0x10
def tDataP : Nat := 0x11
def tEvAck : Nat := 0x12
def tAtomF : Nat := 0x13
def tAtomR : Nat := 0x14
def tRdU : Nat := 0x15
def tRdUR : Nat := 0x16
def tWrU : Nat := 0x17
def tWrUA : Nat := 0x18
def tPut : Nat := 0x20
def tPutA : Nat := 0x21
def tSig : Nat := 0x22
def tMcd : Nat := 0x23
def tRdc : Nat := 0x24
def tRdr : Nat := 0x25
def tRsv : Nat := 0x30
def tGnt : Nat := 0x31

/-- CLS of a type: 0 REQ, 1 SNP, 2 RSP, 3 BULK, 4 RED. -/
def clsOf (t : Nat) : Nat :=
  if t ≤ 0x06 || t = 0x13 || t = 0x15 || t = 0x17 then 0
  else if t ≤ 0x0B then 1
  else if t ≤ 0x18 || t ≥ 0x30 then 2
  else if t ≤ 0x23 then 3 else 4

/-- The types with a code of their own; all others are reserved. -/
def knownType (t : Nat) : Bool :=
  (1 ≤ t && t ≤ 0x18) || (0x20 ≤ t && t ≤ 0x25) || (0x30 ≤ t && t ≤ 0x33)

/-- Reservation messages, NAK and ACK carry no SEQ. -/
def sequenced (t : Nat) : Bool := t < 0x30

/-! ## Ports and routes (R377 to R379) -/

/-- The ports of a package that lead to a package of its board, or to the same position of another board. -/
def portsTo (a b : Nat) : List Nat :=
  if a / 8 = b / 8 then
    let k := if b % 8 < a % 8 then b % 8 else b % 8 - 1
    [36 * a + 3 * k, 36 * a + 3 * k + 1, 36 * a + 3 * k + 2]
  else
    let k := if b / 8 < a / 8 then b / 8 else b / 8 - 1
    [36 * a + 21 + k]

/-- The peer links of the fixed route between two packages (R378). -/
def routeOf (packages a b : Nat) : List (Nat × Nat) :=
  if a = b then []
  else if a / 8 = b / 8 || a % 8 = b % 8 then [(a, b)]
  else
    let m := 8 * (b / 8) + a % 8
    let n := 8 * (a / 8) + b % 8
    if m < packages then [(a, m), (m, b)] else [(a, n), (n, b)]

def portOf (s : State) (p : Nat) : PortSt := mget s.ports .up p

/-- The two ends of lane `j` of a peer link. -/
def linkEnds (l : Nat × Nat) (j : Nat) : Nat × Nat := ((portsTo l.1 l.2).getD j 0, (portsTo l.2 l.1).getD j 0)

def linkDownAt (s : State) (l : Nat × Nat) (j : Nat) : Bool :=
  portOf s (linkEnds l j).1 == .down || portOf s (linkEnds l j).2 == .down

def linkBusyAt (s : State) (l : Nat × Nat) (j : Nat) : Bool :=
  let r := fun (p : PortSt) => match p with | .retraining _ => true | _ => false
  r (portOf s (linkEnds l j).1) || r (portOf s (linkEnds l j).2)

/-- Every port of a peer link is down (R379). -/
def linkDown (s : State) (l : Nat × Nat) : Bool := (List.range (portsTo l.1 l.2).length).all (linkDownAt s l)

/-- The port a message takes on a peer link: N mod 3 on a board link, else the next one up in ascending order (R378, R379). -/
def portFor (s : State) (l : Nat × Nat) (n : Nat) : Option Nat :=
  let k := (portsTo l.1 l.2).length
  if linkDown s l then none
  else if linkDownAt s l (n % k) then (List.range k).find? (fun j => !linkDownAt s l j)
  else some (n % k)

/-- N of a message: its line number, or its chunk index (R378). -/
def routeNumber (m : Msg) : Nat := if m.cls = 4 then bitsN m.addr 32 24 else lineOf m.addr

/-- Some port on the route is retraining, so the message waits. -/
def routeWaits (s : State) (m : Msg) : Bool :=
  (routeOf s.packages (pkgOfDieN m.src) (pkgOfDieN m.dst)).any (fun l => match portFor s l (routeNumber m) with
    | some j => linkBusyAt s l j
    | none => false)
where pkgOfDieN (d : Nat) : Nat := d / 2

/-- The packages a detour around a peer link may cross (R379). -/
def detourVia (packages : Nat) (l : Nat × Nat) : List Nat :=
  ((if l.1 / 8 = l.2 / 8 then (List.range 8).map (8 * (l.1 / 8) + ·) else (List.range 16).map (8 * · + l.1 % 8))).filter
    (fun m => m < packages && m != l.1 && m != l.2)

/-- A detour of two or three links that are not down. -/
def hasDetour (s : State) (l : Nat × Nat) : Bool :=
  let ms := detourVia s.packages l
  ms.any (fun m => !linkDown s (l.1, m) && (!linkDown s (m, l.2) || ms.any (fun n => n != m && !linkDown s (m, n) && !linkDown s (n, l.2))))

/-- Messages can go from one package to another: each link of the route is up or has a detour (log 42). -/
def hasRoute (s : State) (a b : Nat) : Bool := (routeOf s.packages a b).all (fun l => !linkDown s l || hasDetour s l)

/-- The die links on a way through the peer links of a route, from a die of a package, as packages and the dies the message comes from there: port n
of a package belongs to die n mod 2 (R377, R378). -/
def crossingsGo (s : State) (n : Nat) : Nat → List (Nat × Nat) → Nat → List (Nat × Nat)
  | cur, [], d => if cur = d then [] else [(d / 2, cur % 2)]
  | cur, l :: ls, d => match portFor s l n with
    | none => crossingsGo s n (2 * l.2 + cur % 2) ls d
    | some j =>
      let e := linkEnds l j
      (if e.1 % 2 = cur % 2 then [] else [(l.1, cur % 2)]) ++ crossingsGo s n (2 * l.2 + e.2 % 2) ls d

/-- The die links that a message crosses. -/
def dieCrossings (s : State) (m : Msg) : List (Nat × Nat) :=
  crossingsGo s (routeNumber m) m.src (routeOf s.packages (m.src / 2) (m.dst / 2)) m.dst

/-- A message crosses a die link that is retraining (R329). -/
def dieLinkWaits (s : State) (m : Msg) : Bool := (dieCrossings s m).any (fun c => (s.pkg c.1).linkRetrain)

/-- A peer link of the route between two packages is down. -/
def routeDown (s : State) (a b : Nat) : Bool := (routeOf s.packages a b).any (linkDown s)

/-! ## Sequences (R384 to R386) -/

def seqKey (m : Msg) : Nat := 16 * (256 * m.src + m.dst) + 2 * m.cls + (if m.hi then 1 else 0)

/-- Send a message: the next SEQ of its sequence, and a place in the retry store when it goes outright to another package. -/
def post (s : State) (m : Msg) : State :=
  let id := s.nextId
  if sequenced m.typ then
    let q := mget s.sendSeq {} (seqKey m)
    let m := { m with seq := some q.next }
    { s with
      nextId := id + 1
      net := mput s.net id m
      sendSeq := mput s.sendSeq (seqKey m) { q with next := q.next + 1 }
      retryStore := if m.rsvd || m.src / 2 = m.dst / 2 then s.retryStore else mput s.retryStore id m }
  else { s with nextId := id + 1, net := mput s.net id { m with seq := none } }

/-- A message of a type from a die to a die about an address. -/
def mkMsg (typ src dst addr : Nat) : Msg :=
  { typ := typ, src := src, dst := dst, cls := clsOf typ, hi := false, rsvd := false, last := false, ctx := 0, tid := 0,
    seq := none, addr := addr, aux := 0, mask := 0, data := [] }

/-- An earlier message of the same sequence is still on its way. -/
def overtakes (s : State) (m : Msg) : Bool :=
  match m.seq with
  | none => false
  | some n => s.net.any (fun e => seqKey e.2 == seqKey m && (match e.2.seq with | some k => decide (k < n) | none => false))

/-- The message can be delivered now: of this type, next in its sequence, not refused, its route not waiting. -/
def arriving (s : State) (id typ : Nat) : Option Msg :=
  match mget? s.net id with
  | none => none
  | some m =>
    if m.typ = typ && !overtakes s m && (mget s.recvSeq {} (seqKey m)).refused.isNone && !routeWaits s m &&
        hasRoute s (m.src / 2) (m.dst / 2) && !dieLinkWaits s m then some m else none

/-- Take a message off the network at its delivery; its flits have then passed every die link on its way (R329). -/
def taken (s : State) (id : Nat) (m : Msg) : State :=
  { s with
    net := mdel s.net id
    recvSeq := match m.seq with
      | some n => mmod s.recvSeq {} (seqKey m) (fun q => { q with next := n + 1 })
      | none => s.recvSeq
    pkgs := (dieCrossings s m).foldl (fun ps c => mupd ps c.1 (fun p => { p with fails := mdel p.fails c.2 })) s.pkgs }

/-- Take a message off the network that will not be delivered. -/
def unsend (s : State) (id : Nat) : State := { s with net := mdel s.net id, retryStore := mdel s.retryStore id }

/-! ## The pod error record (R387) -/

def errCap : Nat := 4096

/-- The entry of a lost message. -/
def errEntry (s : State) (m : Msg) : List Byte :=
  toBytes 8 m.addr ++ toBytes 2 m.data.length ++ toBytes 1 m.typ ++ toBytes 1 m.src ++ toBytes 1 m.dst ++ toBytes 1 m.ctx ++
  toBytes 8 (s.clock - (s.pkg (m.src / 2)).resetAt) ++ toBytes 10 0

/-- The sending package's monitor records a message; a full record keeps its newest entries (log 43). -/
def errPut (s : State) (m : Msg) : State :=
  s.modPkg (m.src / 2) (fun p => { p with errs := (p.errs ++ [errEntry s m]).drop (p.errs.length + 1 - errCap) })

end Sys2Proof.Machine
end

