-- ==== Sys2Proof/Machine/Xlate.lean ====
section
/-!
DEFINITION. Translation: the five-level page walk and its faults (R334, R335), grants and keys (R332, R333), seals (R281), the
L1 TLB and the cluster-shared L2 TLB (R150, R335).
-/
namespace Sys2Proof.Machine

/-- A page's translation as a TLB holds it. -/
abbrev Xl := TlbEnt

/-- A failed translation: fault code and record flags (R335, R337). -/
structure XFault where
  code : Nat
  flags : Nat
  deriving DecidableEq, Repr

def flReplayable : Nat := 1
def flOutside : Nat := 2
def flSealed : Nat := 4
def flGrant : Nat := 8
def flMalformed : Nat := 16
def flWrite : Nat := 32
def flFetch : Nat := 64

/-- What an access is checked for. -/
inductive Kind where
  | read | write | fetch
  /-- cache maintenance: neither W nor X is needed (R177) -/
  | maint
  deriving DecidableEq, Repr

/-! ## The walk -/

/-- The page size of a PS code and the level its leaf stands at (R334). -/
def psSize (ps : Nat) : Nat := if ps = 0 then 2 ^ 12 else if ps = 1 then 2 ^ 16 else if ps = 2 then 2 ^ 21 else if ps = 3 then 2 ^ 29 else 2 ^ 33
def psLevel (ps : Nat) : Nat := if ps ≤ 1 then 0 else if ps ≤ 3 then 1 else 2

/-- Check one entry at its level: none to go on to the next table at the address given, or the leaf, or the fault. -/
inductive WalkStep where
  | table (pa : Nat)
  | leaf (e : TlbEnt)
  | fail (f : XFault)
  deriving DecidableEq, Repr

def malformed : WalkStep := .fail ⟨4, flMalformed⟩

/-- One entry of a table (R334, R335). -/
def walkEntry (level va e : Nat) : WalkStep :=
  if bitsN e 0 1 = 0 then .fail ⟨4, 0⟩
  else if bitsN e 57 7 ≠ 0 then malformed
  else if bitN e 3 then
    let ps := bitsN e 6 3
    if level > 2 || ps > 4 || bitsN e 4 2 = 3 || psLevel ps ≠ level then malformed
    else .leaf { va := va / psSize ps * psSize ps, size := psSize ps, pa := bitsN e 12 38 * 4096, w := bitN e 1, x := bitN e 2,
                 pol := bitsN e 4 2, rdh := bitsN e 9 3, key := bitsN e 50 7 }
  else if level = 0 || bitsN e 1 11 ≠ 0 || bitsN e 50 7 ≠ 0 then malformed
  else .table (bitsN e 12 38 * 4096)

/-- The walk from a level down, reading tables at their coherence point under TKEY (R335). -/
def walk (s : State) (tkey va : Nat) : Nat → Nat → Except XFault TlbEnt
  | level, table =>
    let a := table + 8 * bitsN va (12 + 9 * level) 9
    let r := cohRead s a 8 tkey
    if r.2 then .error ⟨0x16, 0⟩
    else match walkEntry level va (ofBytes r.1), level with
      | .leaf e, _ => .ok e
      | .fail f, _ => .error f
      | .table _, 0 => .error ⟨4, flMalformed⟩
      | .table t, l + 1 => walk s tkey va l t

/-- The TLB entry that covers an address. -/
def tlbFind (l : List TlbEnt) (va : Nat) : Option TlbEnt := l.find? (fun e => e.va ≤ va && va < e.va + e.size)

/-- The block stands on its cores. -/
def Block.resident (b : Block) : Bool := match b.stage with | .placed | .running => true | _ => false

/-- The core under which the L2 TLB of a core stands: the cores of a cluster share one, which stands under the cluster's first (R150, R335). -/
def tlb2Core (s : State) (core : Nat) : Nat :=
  match s.blocks.findSome? (fun e => if e.2.resident && e.2.cores.contains core then e.2.cluster else none) with
  | some cn => (s.clu cn).cores.headD core
  | none => core

/-- The page of an address by the L2 TLB, which alone serves matrix operands (R150, R248), or by a walk. -/
def pageOf2 (s : State) (cx core va : Nat) : Except XFault TlbEnt :=
  match tlbFind (s.core (tlb2Core s core)).tlb2 va with
  | some e => .ok e
  | none => walk s (s.ctx cx).tkey va 4 (s.ctx cx).root

/-- The page of an address for a context on a core: L1 TLB, L2 TLB, walk. -/
def pageOf (s : State) (cx core va : Nat) : Except XFault TlbEnt :=
  match tlbFind (s.core core).tlb va with
  | some e => .ok e
  | none => pageOf2 s cx core va

/-- A key id may be used by the context for the address (R332). -/
def keyOk (s : State) (cx pa key : Nat) : Bool :=
  if isHost pa then key = 0
  else key = 0 || ((s.ctx cx).keyGrant.getLsbD key && (mget? (s.pkg (s.ctx cx).pkg).keys key).isSome
    && !(s.pkg (s.ctx cx).pkg).badKeys.contains key)

/-- A leaf address lies in a grant, in a package of the pod, and not in the reserved range (R330, R335, R381). -/
def grantOk (s : State) (cx pa : Nat) : Bool :=
  (isHbm pa || isHost pa) && decide (pkgOfPa pa < s.packages) &&
  (mvals (s.ctx cx).grants).any (fun g => g.1 ≤ pa && pa < g.1 + g.2)

/-- The address lies in a range that the seal table holds (R281). -/
def sealedAt (s : State) (cx va : Nat) : Option Seal := (s.ctx cx).seals.find? (fun e => e.base ≤ va && va < e.base + e.len)

/-- Check an access to an address whose page is looked up by `page` (R156, R334, R335): the page and the physical address, or the fault with the
lowest code. -/
def translateBy (page : Nat → Except XFault TlbEnt) (s : State) (cx : Nat) (k : Kind) (va : Nat) : Except XFault (TlbEnt × Nat) :=
  let fl := (if k = .write then flWrite else 0) + (if k = .fetch then flFetch else 0)
  if va / 2 ^ 57 ≠ 0 then .error ⟨4, flOutside + fl⟩
  else match page va with
    | .error f => .error ⟨f.code, f.flags + fl⟩
    | .ok e =>
      let pa := e.pa + (va - e.va)
      if (k = .write && !e.w) || (k = .fetch && !e.x) then .error ⟨5, fl⟩
      else if !grantOk s cx pa then .error ⟨5, flGrant + fl⟩
      else if k = .write && (sealedAt s cx va).isSome then .error ⟨5, flSealed + fl⟩
      else if !keyOk s cx pa e.key then .error ⟨6, fl⟩
      else .ok (e, pa)

/-- Translate one address for a core, and for the matrix unit. -/
def translate (s : State) (cx core : Nat) (k : Kind) (va : Nat) : Except XFault (TlbEnt × Nat) := translateBy (pageOf s cx core) s cx k va
def translate2 (s : State) (cx core : Nat) (k : Kind) (va : Nat) : Except XFault (TlbEnt × Nat) := translateBy (pageOf2 s cx core) s cx k va

/-- Use an entry of a TLB of `n`: it comes first, and the one used longest ago leaves (R150, log 22). -/
def tlbUse (n : Nat) (l : List TlbEnt) (e : TlbEnt) : List TlbEnt := (e :: l.filter (fun x => x != e)).take n

/-- Keep a translation in the L2 TLB of a core: 4,096 entries (R335). -/
def tlbFill2 (s : State) (cx core va : Nat) : State :=
  match pageOf2 s cx core va with
  | .error _ => s
  | .ok e => s.modCore (tlb2Core s core) (fun c => { c with tlb2 := tlbUse 4096 c.tlb2 e })

/-- Keep a translation in a core's L1 TLB, 128 entries, and where that missed in its L2 TLB (R150, R335). -/
def tlbFill (s : State) (cx core va : Nat) : State :=
  match pageOf s cx core va with
  | .error _ => s
  | .ok e =>
    let s := if (s.core core).tlb.contains e then s else tlbFill2 s cx core va
    s.modCore core (fun c => { c with tlb := tlbUse 128 c.tlb e })

/-! ## Virtual accesses of one step: engines, walkers, the dispatcher and the monitor -/

/-- Cut a virtual range into pieces that each lie in one 4 KiB page: address, offset, length. An empty range has none. -/
def pagePieces (va n : Nat) : List (Nat × Nat × Nat) :=
  (List.range (if n = 0 then 0 else (va + (n - 1)) / 4096 - va / 4096 + 1)).map (fun i =>
    let lo := max va (4096 * (va / 4096 + i))
    let hi := min (va + n) (4096 * (va / 4096 + i + 1))
    (lo, lo - va, hi - lo))

/-- Keep the translations of a range, page by page. -/
def fillRange (fill : State → Nat → State) (s : State) (va n : Nat) : State := (pagePieces va n).foldl (fun s p => fill s p.1) s

/-- Read `n` bytes at a virtual address for a context: the bytes and whether a byte is poisoned, or the fault. -/
def virtRead (s : State) (cx core va n : Nat) : Except XFault (List Byte × Bool) :=
  (pagePieces va n).foldl (fun acc p => match acc with
    | .error f => .error f
    | .ok r => match translate s cx core .read p.1 with
      | .error f => .error f
      | .ok (e, pa) => let x := physRead s e.pol pa p.2.2 e.key; .ok (r.1 ++ x.1, r.2 || x.2)) (.ok ([], false))

/-- Check that a virtual range may be accessed. -/
def virtCheck (s : State) (cx core : Nat) (k : Kind) (va n : Nat) : Option XFault :=
  (pagePieces va n).findSome? (fun p => match translate s cx core k p.1 with
    | .error f => some f
    | .ok _ => none)

/-- The cores whose L1s are one with a core's: those of the fused cluster that is resident on it, or itself (R231). -/
def l1Cores (s : State) (core : Nat) : List Nat :=
  match (s.core core).reservedBy with
  | some cn => (s.clu cn).cores
  | none => [core]

/-- The core whose L1 holds the line of a virtual address for a core: its own, or the owning slice of a fused L1 (R231). -/
def l1Home (s : State) (core va : Nat) : Nat :=
  let cs := l1Cores s core
  (cs[(va / 256) % cs.length]?).getD core

/-- The fill of a request is outstanding: it has been performed, or its request is under way (R165). -/
def fillOut (s : State) (die : Nat) (r : Req) : Bool :=
  match r.stage with
  | .performed => true
  | .waiting => missOut s die r.line
  | .done => false

/-- Fills outstanding for a core that pass do not install (R165). -/
def markFills (s : State) (core : Nat) (p : Req → Bool) : State :=
  { s with groups := mmap (fun g gr => if s.coreOf g == core then
      { gr with acc := gr.acc.map (fun a => { a with reqs := a.reqs.map (fun r =>
          if p r && fillOut s (dieOfCore core) r then { r with noInstall := true } else r) }) } else gr) s.groups }

/-- Update the sectors of the L1 that a store or engine write of a core hits (R160, R294). A fill of the line that is still
outstanding, for any core that shares the L1, will not install its older bytes. -/
def l1Update (s : State) (core va pa : Nat) (bytes : List Byte) : State :=
  let s := { s with cores := mupd s.cores (l1Home s core va) (fun c => { c with l1 := mupd c.l1 (lineOf pa) (fun l =>
    { l with data := (List.range bytes.length).foldl (fun d i =>
        let o := pa % 256 + i
        if l.sectors.getLsbD (o / 64) then lineSet d o (bytes.getD i 0) else d) l.data }) }) }
  (l1Cores s core).foldl (fun s c => markFills s c (fun r => r.line == lineOf pa)) s

/-- A write by an engine of another die than the home asks for ownership, which counts in WR; a write that removes copies counts where it is
performed (R278). -/
def countRemote (s : State) (core pa rdh : Nat) : State :=
  if dieOfCore core = homeDie pa || (mget? s.dir (lineOf pa)).isSome then s else countRegion s pa rdh Region.wrote

/-- Write bytes at a virtual address for a context, updating the given core's L1 where it hits. -/
def virtWrite (s : State) (cx core va : Nat) (bytes : List Byte) : Except XFault State :=
  match virtCheck s cx core .write va bytes.length with
  | some f => .error f
  | none => .ok ((pagePieces va bytes.length).foldl (fun s p => match translate s cx core .write p.1 with
      | .error _ => s
      | .ok (e, pa) =>
        let b := (bytes.drop p.2.1).take p.2.2
        let s := if e.pol = 0 then (linePieces pa b.length).foldl (fun s q => countRemote s core q.1 e.rdh) s else s
        let s := physWrite s e.pol pa e.key b
        (linePieces pa b.length).foldl (fun s q => l1Update s core (p.1 + q.2.1) q.1 ((b.drop q.2.1).take q.2.2)) s) s)

def virtNat (s : State) (cx core va n : Nat) : Except XFault Nat := (virtRead s cx core va n).map (fun r => ofBytes r.1)

end Sys2Proof.Machine
end

