-- ==== Sys2Proof/Machine/Combine.lean ====
section
/-!
DEFINITION. The write-combining buffers of a partition (R162, R295).
-/
namespace Sys2Proof.Machine

/-- Write a buffer's bytes to memory, each to its line, and to the L1 of the group's core where it has come to hold the line meanwhile
(R160, R166). -/
def wcWrite (s : State) (b : WcBuf) : State :=
  b.bytes.foldl (fun s x =>
    let s := physWrite s b.pol (256 * b.line + x.1) b.key [x.2]
    if b.pol = 0 then l1Update s (s.coreOf b.g) (b.va + x.1) (256 * b.line + x.1) [x.2] else s) s

/-- Drain the buffers of a partition that pass. -/
def wcDrain (s : State) (part : Nat) (p : WcBuf → Bool) : State :=
  let bs := (s.part part).wc.filter p
  let s := s.modPart part (fun q => { q with wc := q.wc.filter (fun b => !p b) })
  bs.foldl wcWrite s

/-- Drain every buffer of a group. -/
def wcDrainGroup (s : State) (g : Nat) : State := wcDrain s (s.grp g).part (fun b => b.g == g)

def putByte (l : List (Nat × Byte)) (o : Nat) (b : Byte) : List (Nat × Byte) := mput l o b

/-- Merge a store's bytes into the buffer of its group and line, opening one where there is none; a fifth line drains the least
recently written, and a full buffer drains at once. -/
def wcMerge (s : State) (g pol key va pa : Nat) (bytes : List Byte) : State :=
  let part := (s.grp g).part
  let line := lineOf pa
  let mine := fun (b : WcBuf) => b.g == g && b.line == line
  let has := (s.part part).wc.any mine
  let s := if has || (s.part part).wc.length < 4 then s
    else
      let oldest := (s.part part).wc.foldl (fun m b => min m b.last) s.clock
      match (s.part part).wc.find? (fun b => b.last == oldest) with
      | some v => wcDrain s part (fun b => b.g == v.g && b.line == v.line)
      | none => s
  let s := if has then s
    else s.modPart part (fun q => { q with wc := q.wc ++ [⟨g, line, va / 256 * 256, [], s.clock, s.clock, key, pol⟩] })
  let s := s.modPart part (fun q => { q with wc := q.wc.map (fun b => if mine b then
    { b with bytes := (List.range bytes.length).foldl (fun l i => putByte l (pa % 256 + i) (bytes.getD i 0)) b.bytes, last := s.clock } else b) })
  wcDrain s part (fun b => mine b && b.bytes.length == 256)

end Sys2Proof.Machine
end

