-- ==== Sys2Proof/Machine/Ops.lean ====
section
/-!
DEFINITION. The shared operations of every instruction: taking a precise fault (R24 to R29) and going on after one, the fault
log (R337), ending a block (R26), issuing and completing (R12, R59, R60), guards (R61), report points (R25).
-/
namespace Sys2Proof.Machine

open Host (Outcome)

/-- The outcome type of every meaning. -/
abbrev Out := Outcome State Fault Refusal

/-! ## Fault codes (R28) -/

def fcIllegal : Nat := 0x01
def fcPrivileged : Nat := 0x02
def fcMisaligned : Nat := 0x03
def fcNotPresent : Nat := 0x04
def fcProtection : Nat := 0x05
def fcKey : Nat := 0x06
def fcScratch : Nat := 0x07
def fcDivDepth : Nat := 0x08
def fcSpill : Nat := 0x09
def fcArith : Nat := 0x0A
def fcBarReinit : Nat := 0x0B
def fcBarInvalid : Nat := 0x0C
def fcBarClobber : Nat := 0x0D
def fcBarOverflow : Nat := 0x0E
def fcMxShape : Nat := 0x0F
def fcMxRagged : Nat := 0x10
def fcMxOperand : Nat := 0x11
def fcCopy : Nat := 0x12
def fcCollLayout : Nat := 0x13
def fcCollTimeout : Nat := 0x14
def fcLinkDown : Nat := 0x15
def fcUncorrectable : Nat := 0x16
def fcRendezvous : Nat := 0x17
def fcTrap : Nat := 0x18
def fcBreakpoint : Nat := 0x19
def fcWatchdog : Nat := 0x1A
def fcSketch : Nat := 0x1B
def fcSpecRegion : Nat := 0x1C
def fcLaunch : Nat := 0x1D
def fcOrderedAppend : Nat := 0x1E
def fcQuantum : Nat := 0x1F
def fcBarCount : Nat := 0x20

/-- A fault with nothing but its code. -/
def fi (code : Nat) : FaultInfo := ⟨code, 0, 0, 0, 0⟩

/-! ## The fault log (R337) -/

inductive LogRes where
  | written (seq : Nat)
  | full
  | unwritable
  deriving DecidableEq, Repr

/-- Try to write a record; the record is built from its SEQ. Nothing is written when the log is full or a page of it fails. -/
def logTry (s : State) (cx core : Nat) (rec : Nat → List Byte) : State × LogRes :=
  let log := (s.ctx cx).log
  match virtCheck s cx core .write log 64, virtRead s cx core log 16 with
  | none, .ok (h, _) =>
    let head := ofBytes (h.take 4)
    let tail := ofBytes ((h.drop 4).take 4)
    let n := ofBytes ((h.drop 8).take 4)
    if n = 0 || (head + 2 ^ 32 - tail) % 2 ^ 32 ≥ n then (s, .full)
    else
      let slot := log + 64 + 64 * (head % n)
      match virtCheck s cx core .write slot 64 with
      | some _ => (s, .unwritable)
      | none => match virtWrite s cx core slot (rec head) with
        | .error _ => (s, .unwritable)
        | .ok s1 => match virtWrite s1 cx core log (toBytes 4 (head + 1)) with
          | .error _ => (s, .unwritable)
          | .ok s2 => (s2, .written head)
  | _, _ => (s, .unwritable)

/-- Count a record that was not written, when the header can be written (R337). -/
def logDrop (s : State) (cx core : Nat) : State :=
  let a := (s.ctx cx).log + 12
  match virtNat s cx core a 4 with
  | .error _ => s
  | .ok d => match virtWrite s cx core a (toBytes 4 (min (d + 1) (2 ^ 32 - 1))) with
    | .error _ => s
    | .ok s' => s'

/-- Write a record that does not wait for a slot: written, or dropped and counted. -/
def logPut (s : State) (cx core : Nat) (rec : Nat → List Byte) : State × Bool :=
  match logTry s cx core rec with
  | (s', .written _) => (s', true)
  | (s', _) => (logDrop s' cx core, false)

/-- The 64 bytes of a record (R337). -/
def recBytes (code flags seq : Nat) (pc : W64) (va : Nat) (lanes : W32) (gid x y z imm : Nat) : List Byte :=
  toBytes 1 code ++ toBytes 1 flags ++ toBytes 2 0 ++ toBytes 4 seq ++ toBytes 8 pc.toNat ++ toBytes 8 va ++
  toBytes 4 lanes.toNat ++ toBytes 4 gid ++ toBytes 4 x ++ toBytes 4 y ++ toBytes 4 z ++ toBytes 2 imm ++ toBytes 18 0

/-- GID of a record (R337). -/
def gidField (s : State) (g : Nat) : Nat :=
  let gr := s.grp g
  let c := s.coreOf g
  c % 64 + 64 * (dieOfCore c % 2) + 128 * (gr.part % 8) + 1024 * gr.slot + 16384 * gr.idx

/-- The record of a group's fault. -/
def groupRec (s : State) (g : Nat) (f : FaultInfo) (rep : Bool) (seq : Nat) : List Byte :=
  let b := s.blk (blockOf g)
  recBytes f.code (f.flags + (if rep then flReplayable else 0)) seq (s.grp g).pc f.va f.lanes (gidField s g) b.x b.y b.z f.imm

/-! ## Ending a block (step 3 of R26) -/

/-- The ordered accesses that a group is held for: they have not been performed, and are not when the group stops (R317, R318). -/
def Group.heldAccs (gr : Group) : List Nat := gr.holds.filterMap (fun h => match h.kind with
  | .oapp id | .ordered id => some id
  | _ => none)

/-- A group stopped for good: what it waited for is dropped, what it has under way stays. -/
def stopped (gr : Group) : Group :=
  { gr with
    stop := .ended, hold := none, hold2 := none, fence := none, chain := none, waiting := none, detHold := none
    acc := gr.acc.filter (fun a => !gr.heldAccs.contains a.id) }

/-- Commit-buffer units of one buffered write (R303). -/
def detUnits (n : Nat) : Nat := (n + 15) / 16 + 1

/-- Units that the accesses a group is held for have taken. -/
def droppedUnits (gr : Group) : Nat :=
  (gr.acc.filter (fun a => gr.heldAccs.contains a.id)).foldl (fun n a =>
    n + (a.reqs.foldl (fun m r => m + (r.lanes.filter (fun x => !x.bad)).length) 0) * detUnits a.size) 0

/-- Every group of the block stops; its outstanding accesses stay and drain, and its write-combining buffers with them. The kernel counts
the block (R349). -/
def stopBlock (s : State) (b code : Nat) : State :=
  if (s.blk b).term.isSome then s
  else
    let gs := s.groupsOf b
    let s := gs.foldl (fun s g => (wcDrainGroup s g).modCore (s.coreOf g) (fun c => { c with units := c.units - droppedUnits (s.grp g) })) s
    let s := { s with groups := mmap (fun (k : Nat) (gr : Group) => if blockOf k == b then stopped gr else gr) s.groups }
    let s := s.modBlk b (fun (bl : Block) => { bl with term := some code, xfer := [] })
    s.modKrn (s.blk b).kernel (fun (k : Kernel) => { k with
      nterm := min (k.nterm + 1) (2 ^ 24 - 1)
      code := some (match k.code with | some c => min c code | none => code) })

/-- Terminate the block of a group: the record, then the stop (R26). -/
def terminate (s : State) (g : Nat) (f : FaultInfo) : State :=
  let s := (logPut s (s.grp g).ctx (s.coreOf g) (groupRec s g f false)).1
  stopBlock s (blockOf g) f.code

/-! ## Taking a precise fault (R26) -/

/-- PAGE_NOT_PRESENT and PAGE_PROTECTION are replayable when the context has a fault service, except outside the virtual
space (step 1 of R26). -/
def replayableKind (s : State) (g : Nat) (f : FaultInfo) : Bool :=
  (f.code == fcNotPresent || f.code == fcProtection) && (s.ctxOf g).fsvc != 0 && f.flags / flOutside % 2 == 0

/-- Steps 2 and 3: the handler, or the end of the block. `rec` says whether a record is still to be written. -/
def deliverHard (s : State) (g : Nat) (f : FaultInfo) (record : Bool) : State :=
  let gr := s.grp g
  match (s.kernelOf g).handler with
  | some h =>
    if gr.inHandler then terminate s g f
    else
      let (s, ok) := if record then logPut s gr.ctx (s.coreOf g) (groupRec s g f false) else (s, false)
      s.modGrp g (fun gr => { gr with
        fpc := gr.pc, pc := BitVec.ofNat 64 h, inHandler := true, hold := none, hold2 := none, chain := none, packet := none, pfx := none
        stop := .running, waiting := none, waitFrom := s.clock
        afterEnd := gr.stack.isEmpty && gr.run == 0
        fstat := BitVec.ofNat 32 (f.code + 64 + (if ok then 128 else 0))
        trap := if f.code = fcArith || f.code = fcDivDepth then 0 else gr.trap
        ddp := if f.code = fcArith || f.code = fcDivDepth then 0 else gr.ddp })
  | none =>
    if record then terminate s g f else stopBlock s (blockOf g) f.code

/-- A group that a replayable fault suspends: it stands at the faulting instruction, and receives its packet anew. -/
def suspended (why : Stop) (f : FaultInfo) (gr : Group) : Group :=
  { gr with stop := why, hold := none, hold2 := none, chain := none, packet := none, waiting := some f, pfx := none }

/-- Deliver a precise fault at the group's PC. -/
def deliver (s : State) (g : Nat) (f : FaultInfo) : State :=
  let gr := s.grp g
  if replayableKind s g f then
    match logTry s gr.ctx (s.coreOf g) (groupRec s g f true) with
    | (s', .written seq) => s'.modGrp g (suspended (.replay seq) f)
    | (s', .full) => s'.modGrp g (suspended .logWait f)
    | (s', .unwritable) => deliverHard (logDrop s' gr.ctx (s.coreOf g)) g f false
  else deliverHard s g f true

/-- Raise a precise fault at the instruction being executed: delivered, or only noted while an issue of two words is
probed, where the lowest code counts (R24, R29, R53). -/
def raise (s : State) (f : FaultInfo) : State :=
  if s.probe.on then
    { s with probe := { s.probe with raised := some (match s.probe.raised with
        | some r => if f.code < r.code then f else r
        | none => f) } }
  else deliver s s.cur f

/-- Raise and end the instruction. -/
def fail (s : State) (code : Nat) : Out := .next (raise s (fi code))

/-- The fault with the lowest code (R29). -/
def lowest : List FaultInfo → Option FaultInfo
  | [] => none
  | f :: fs => match lowest fs with
    | none => some f
    | some r => if r.code < f.code then some r else some f

/-- Go on with the work, unless a fault stands. -/
def orFault (s : State) (fs : List FaultInfo) (k : State → Out) : Out :=
  match lowest fs with
  | some f => .next (raise s f)
  | none => k s

def faultIf (b : Bool) (code : Nat) : List FaultInfo := if b then [fi code] else []

/-! ## Issue and completion (R12, R59, R60) -/

/-- The bookkeeping of one issue: SETK, PC, the DET word count, the prefix consumed (R12, R67, R299). -/
def Group.issued (g : Group) (now setk : Nat) : Group :=
  { g.kInc setk with pc := g.pc + 8, pfx := none, chain := none, lastIssue := some now, fresh := now, waitFrom := now, detCount := g.detCount + 1 }

/-- Issue the current instruction: its register writes become visible at cycle `due`, or at its completion point. -/
def State.issue (s : State) (c : Ctl) (due : Option Nat) (wr : List RegWr) : State :=
  let setk := c.setk.toNat
  let s1 := s.modGrp s.cur (fun g =>
    let g := g.issued s.clock setk
    if setk = 0 && wr.isEmpty then g else { g with pend := g.pend ++ [⟨s.nextId, due, setk, wr⟩] })
  { s1 with nextId := s.nextId + 1 }

/-- A fixed latency of L cycles (R60). -/
def State.fixed (s : State) (c : Ctl) (L : Nat) (wr : List RegWr) : State := s.issue c (some (s.clock + L)) wr
/-- A variable latency (R60). -/
def State.variable (s : State) (c : Ctl) (wr : List RegWr) : State := s.issue c none wr
/-- An instruction that acts in no lane, or whose q-guard is false: its counter falls in the next cycle (R12). -/
def State.idle (s : State) (c : Ctl) : State := s.issue c (some (s.clock + 1)) []

/-- A transfer, an issue-stopping instruction, PRF and BSEAL complete at issue + 1, so issues from the cycle after that see it
(R60, R169, log 11). -/
def State.transfer (s : State) (c : Ctl) (wr : List RegWr) : State := s.issue c (some (s.clock + 2)) wr

/-- Issue with the counter held up by an access or an engine operation that lowers it itself. -/
def State.issueHeld (s : State) (c : Ctl) : State := s.modGrp s.cur (fun g => g.issued s.clock c.setk.toNat)

/-- Change the current group. -/
def State.modMe (s : State) (f : Group → Group) : State := s.modGrp s.cur f

/-- The current group is held from now on by the instruction at its PC; the first word of its chain may hold it already (R56). -/
def State.holdMe (s : State) (pc : W64) (setk : Nat) (k : HoldKind) : State :=
  s.modMe (fun g => match g.hold with
    | none => { g with hold := some ⟨k, s.clock, pc, setk⟩ }
    | some _ => { g with hold2 := some ⟨k, s.clock, pc, setk⟩ })

/-- The present cycle, as the waits of a group count it: a group that is stopped for a save counts none from here (R30). -/
def State.waitNow (s : State) (gr : Group) : Nat := if gr.stop = .saved then 0 else s.clock

/-- A hold ends: the counter of its instruction falls, and the hold of the chain's other word, if any, is the one that stands. -/
def endHold (s : State) (g : Nat) : State :=
  s.modGrp g (fun gr => match gr.hold with
    | some h => { (gr.kDec h.setk) with hold := gr.hold2, hold2 := none, waitFrom := s.waitNow gr }
    | none => gr)

/-- Register results of an instruction that completes at its issue: written at once, but in a chain only after both words have read
their sources (R56). -/
def State.give (s : State) (g : Nat) (wr : List RegWr) : State :=
  if s.probe.on then
    { s.modGrp g (fun gr => { gr with pend := gr.pend ++ [⟨s.nextId, some (s.clock + 1), 0, wr⟩] }) with nextId := s.nextId + 1 }
  else s.modGrp g (fun gr => gr.applyAll wr)

/-- The two holds of a chain change places. -/
def swapHolds (s : State) (g : Nat) : State := s.modGrp g (fun gr => { gr with hold := gr.hold2, hold2 := gr.hold })

/-- Poll the hold that the current instruction has just begun: the second one, where the chain's first word holds the group too (R56). -/
def pollOwn (s : State) (f : State → State) : State :=
  if s.me.hold2.isNone then f s
  else
    let t := f (swapHolds s s.cur)
    if t.me.hold2.isNone then t else swapHolds t s.cur

/-- Bring the hold that passes to the front, where the operations on holds look. -/
def focusHold (s : State) (g : Nat) (p : HoldKind → Bool) : State :=
  let gr := s.grp g
  match gr.hold2 with
  | some h => if p h.kind && !(gr.hold.any (fun x => p x.kind)) then s.modGrp g (fun gr => { gr with hold := gr.hold2, hold2 := gr.hold }) else s
  | none => s

/-- The hold of a report point (R25). -/
def HoldKind.reports (k : HoldKind) : Bool :=
  match k with
  | .arrive _ _ _ _ | .parity _ _ _ true | .phArrive _ | .phHold _ _ _ | .tbArrive _ _ | .exiting | .tailWait | .tailing => true
  | _ => false

/-- A group whose hold is undone: the held instruction stands again at its address, its counter and its place in its quantum as before,
and a report point has not been performed. A chain stands again at its first word, without the register writes of either word (R24). -/
def undoHold (gr : Group) : Group :=
  match gr.hold with
  | none => gr
  | some h =>
    let gr1 := (gr.kDec h.setk).kDec ((gr.hold2.map (·.setk)).getD 0)
    let back := gr.holds.any (fun x => x.kind.reports)
    let (pc, n, gone) := match gr.chain with
      | some (a, id) => (a, 2, gr.pend.filter (fun (p : Pend) => decide (id ≤ p.id)))
      | none => (h.pc, 1, [])
    { gone.foldl (fun (x : Group) (p : Pend) => x.kDec p.setk) gr1 with
      hold := none, hold2 := none, chain := none, packet := none, pc := pc, detCount := gr.detCount - n
      pend := gr.pend.filter (fun p => !gone.contains p)
      inHandler := if back then gr.hadHandler else gr.inHandler }

/-- A held instruction raises a precise fault: it has no effect. -/
def faultHeld (s : State) (g : Nat) (f : FaultInfo) : State := deliver (s.modGrp g undoHold) g f

/-! ## Guards, register ranges, poison -/

/-- A q-guard that reads a poisoned predicate. -/
def qGuardBad (g : Group) (gd : BitVec 4) : Bool := g.badP.contains (256 + gd.toNat % 8)

/-- A lane guard that reads a poisoned predicate in a running lane. -/
def pGuardBad (g : Group) (gd : BitVec 4) : Bool :=
  (lanesOf g.run).any (fun l => g.badP.contains (32 * (gd.toNat % 8) + l))

/-- A control or A-class instruction: a false q-guard leaves only the counter (R61); poisoned sources fault (R153). -/
def ctlOp (c : Ctl) (gd : BitVec 4) (srcs : List Nat) (s : State) (k : State → Out) : Out :=
  let g := s.me
  if qGuardBad g gd then fail s fcUncorrectable
  else if !g.qGuard gd then .next (s.idle c)
  else if srcs.any g.gBad then fail s fcUncorrectable
  else k s

/-- Named v-registers lie within the allocation (R11). -/
def vRange (g : Group) (regs : List (Nat × Nat)) : Bool := regs.all (fun r => r.1 + r.2 ≤ g.nv)

/-- A source register of a lane that takes part is poisoned (R153). -/
def srcBad (g : Group) (ls : List Nat) (regs : List (Nat × Nat)) : Bool :=
  ls.any (fun l => regs.any (fun r => (List.range r.2).any (fun j => g.vBad (r.1 + j) l)))

/-! ## Report points (R25) -/

/-- The fault of a report point with trap-pending bits: DIV_DEPTH if a removed lane is pending, ARITH otherwise. -/
def reportFault (g : Group) : FaultInfo := ⟨if g.ddp = 0 then fcArith else fcDivDepth, 0, 0, g.trap, 0⟩

/-- Perform a report point unless trap-pending bits stand; a passed one ends the protected part of a handler (R26). -/
def reportPoint (s : State) (k : State → Out) : Out :=
  if s.me.trap = 0 then k (s.modMe (fun g => { g with hadHandler := g.inHandler, inHandler := false }))
  else .next (raise s (reportFault s.me))

/-- A report point that may make its lane report later, when a precise check that precedes it can first be made (R29). -/
def reportUnless (later : Bool) (s : State) (k : State → Out) : Out :=
  if later then k (s.modMe (fun g => { g with hadHandler := g.inHandler, inHandler := false })) else reportPoint s k

/-! ## Special results of batches (R183) -/

/-- Add an operation to the open set of a class. -/
def joinSet (s : State) (g cls : Nat) (r : OpRef) : State :=
  s.modGrp g (fun gr => { gr with openSets := mmod gr.openSets [] cls (· ++ [r]) })

def opDone (id code : Nat) (l : List OpRef) : List OpRef :=
  l.map (fun r => if r.id = id then { r with done := true, code := if r.code = 0 then code else r.code } else r)

/-- An engine operation completes, with a code when it failed: its entry in whatever set or batch holds it. -/
def finishOp (s : State) (g id code : Nat) : State :=
  s.modGrp g (fun gr => { gr with
    openSets := mmap (fun _ l => opDone id code l) gr.openSets
    batches := mmap (fun _ l => opDone id code l) gr.batches })

/-- Record a failure code against an operation that still runs (R193, R195). -/
def markOp (s : State) (g id code : Nat) : State :=
  let f := fun (l : List OpRef) => l.map (fun r => if r.id = id && r.code = 0 then { r with code := code } else r)
  s.modGrp g (fun gr => { gr with openSets := mmap (fun _ l => f l) gr.openSets, batches := mmap (fun _ l => f l) gr.batches })

/-- Write a result register of an engine operation when it completes. -/
def setG (s : State) (g n : Nat) (x : W32) : State := s.modGrp g (fun gr => gr.wg n x)

/-- Time from cycle `since` to cycle `till` as a fraction of microseconds, through the clocks that ended after `since`, newest first: each
cycle lasts as long as the clock it was counted at (R5). -/
def spanUs (since : Nat) : Nat → Nat → List (Nat × Nat) → Nat × Nat
  | till, mhz, [] => (till - since, mhz)
  | till, mhz, (at', old) :: cs =>
    if at' ≤ since then (till - since, mhz)
    else
      let (n, d) := spanUs since at' old cs
      ((till - at') * d + n * mhz, d * mhz)

/-- Time that has passed in whole microseconds in a package since a cycle. -/
def elapsedUs (s : State) (pkg since : Nat) : Nat :=
  let p := s.pkg pkg
  let x := spanUs since s.clock p.mhz p.clocks
  x.1 / x.2

end Sys2Proof.Machine
end

