-- ==== Sys2Proof/Machine/Order.lean ====
section
/-!
DEFINITION. What orders a group's accesses: acquires and the L1 they invalidate (R164, R165, R231), write-combining buffers
(R162, R295), clusters and the places a group reaches in them (R171, R227, R228).
-/
namespace Sys2Proof.Machine

/-! ## Clusters -/

/-- The cluster of a group's block. -/
def State.cluOf (s : State) (g : Nat) : Option Cluster := (s.blk (blockOf g)).cluster.map s.clu

/-- The cores of a group's cluster when their L1s are fused (R231). -/
def fusedCores (s : State) (g : Nat) : Option (List Nat) :=
  match s.cluOf g with
  | some c => if c.fused then some c.cores else none
  | none => none

/-- The cluster rank of a group's core (R227, R228). -/
def cluRank (s : State) (g : Nat) : Nat := (s.blk (blockOf g)).crank + (s.grp g).rank

/-- The block and rank whose scratchpad a cluster rank reaches: one block on every core, or one block for each core (R171, R228). -/
def cluTarget (s : State) (g r : Nat) : Option (Nat × Nat) :=
  let b := blockOf g
  match s.cluOf g with
  | none => none
  | some c =>
    if r ≥ c.cores.length then none
    else if (s.blk b).cores.length > 1 then some (b, r)
    else match c.blocks[r]? with
      | some b' => some (b', 0)
      | none => none

/-! ## Invalidating L1 -/

/-- Remove from a core's L1 the lines whose virtual address passes; sealed ones only when `sealedToo`. -/
def invalidateL1 (s : State) (core : Nat) (sealedToo : Bool) (p : Nat → Bool) : State :=
  let s := s.modCore core (fun c => { c with l1 := mfilter (fun _ l => !(p l.va && (sealedToo || l.sealedBy.isNone))) c.l1 })
  markFills s core (fun r => r.lanes.any (fun l => p l.va))

/-- The cores whose L1 an acquire at a scope invalidates (R164). -/
def acquireCores (s : State) (g scope : Nat) : List Nat :=
  match fusedCores s g with
  | some cs => if scope ≥ 3 then cs else []
  | none => if scope ≥ 2 || (scope = 1 && (s.blk (blockOf g)).cores.length > 1) then [s.coreOf g] else []

/-- An acquire at a scope (R164). -/
def acquire (s : State) (g scope : Nat) : State :=
  (acquireCores s g scope).foldl (fun s c => invalidateL1 s c false (fun _ => true)) s

/-- A range acquire at a scope: the lines that overlap the range (R174). -/
def acquireRange (s : State) (g scope base len : Nat) : State :=
  if len = 0 then s
  else (acquireCores s g scope).foldl (fun s c => invalidateL1 s c false (fun va => va / 256 * 256 < base + len && base < va / 256 * 256 + 256)) s

/-- A copy of a line leaves a core's L1 when another cluster or context takes the core (R231, R358). -/
def flushL1 (s : State) (core : Nat) : State := invalidateL1 s core true (fun _ => true)

/-! ## Releases -/

/-- Every earlier access of the group is performed and its buffers are drained: the release conditions (R173, R175, R188). -/
def releaseReady (s : State) (g : Nat) : Bool := (s.grp g).acc.isEmpty

end Sys2Proof.Machine
end

