-- ==== Sys2Proof/Machine/Coh.lean ====
section
/-!
DEFINITION. The home directory and the coherence messages (R268 to R279): what a home does on each request, notice and answer, and
what a die does on each snoop. A request that meets a busy line is not taken yet: it waits in the home slice (R269).
-/
namespace Sys2Proof.Machine

/-! ## Directory entries -/

def newEnt (st : DirSt) (own now : Nat) : DirEnt :=
  { st := st, own := own, cm := false, ptrs := [], coarse := 0, cnt := 0, xf := 0, pix := 0, holders := [], used := now }

/-- Add an S holder: a fifth pointer turns the entry coarse (R268). -/
def DirEnt.addS (e : DirEnt) (d : Nat) : DirEnt :=
  if e.cm then { e with coarse := e.coarse ||| (1#32 <<< (d / 8)), cnt := e.cnt + 1 }
  else if e.ptrs.contains d then e
  else if e.ptrs.length < 4 then { e with ptrs := sadd e.ptrs d, cnt := e.cnt + 1 }
  else { e with cm := true, cnt := e.cnt + 1, coarse := (d :: e.ptrs).foldl (fun m x => m ||| (1#32 <<< (x / 8))) 0, ptrs := [] }

/-- Remove an S holder. -/
def DirEnt.dropS (e : DirEnt) (d : Nat) : DirEnt :=
  { e with ptrs := srem e.ptrs d, cnt := e.cnt - 1 }

/-- The entry records the die as an S holder. -/
def DirEnt.isS (e : DirEnt) (d : Nat) : Bool := (e.st == .s || e.st == .o) && e.sharers.contains d

/-- The lines of a home die that are in P. -/
def privs (s : State) (home : Nat) : List DirEnt :=
  (s.dir.filter (fun e => e.2.st == .p && homeDie (256 * e.1) == home)).map (·.2)

/-- The privatisation table of the home die has a free entry (R274), and the lowest free index of it (R268). -/
def privRoom (s : State) (home : Nat) : Bool := (privs s home).length < 4096
def privIdx (s : State) (home : Nat) : Nat :=
  ((List.range 4096).find? (fun i => !(privs s home).any (fun e => e.pix == i))).getD 0

/-- The entries of the set of a line (R268). -/
def dirSet (s : State) (line : Nat) : List (Nat × DirEnt) :=
  s.dir.filter (fun e => e.1 % 2 ^ 18 == line % 2 ^ 18 && homeDie (256 * e.1) == homeDie (256 * line))

/-- A new entry for the line finds its set full (R273). -/
def dirFull (s : State) (line : Nat) : Bool := (mget? s.dir line).isNone && decide ((dirSet s line).length ≥ 16)

/-- The least recently used entry of the set that is not busy. -/
def dirVictim (s : State) (line : Nat) : Option (Nat × DirEnt) :=
  let free := (dirSet s line).filter (fun e => (mget? s.busy e.1).isNone)
  let oldest := free.foldl (fun m e => min m e.2.used) s.clock
  free.find? (fun e => e.2.used == oldest)

def setEnt (s : State) (line : Nat) (e : DirEnt) : State := { s with dir := mput s.dir line { e with used := s.clock } }

def delEnt (s : State) (line : Nat) : State := { s with dir := mdel s.dir line }

/-! ## Replica limits (R277) -/

def rdLimit (rd : Nat) : Nat := if rd = 0 then 0 else if rd ≤ 5 then 2 ^ (rd - 1) else if rd = 6 then 64 else 256

/-- The replica limit of a line for a request with this RD hint: host memory has none (R277). -/
def limitOf (s : State) (pa rdh : Nat) : Nat :=
  if !isHbm pa then 0
  else match mget? (s.die (homeDie pa)).regions (regionOf pa) with
    | some r => rdLimit r.rd
    | none => rdLimit rdh

/-! ## Sending -/

def dataBytes (d : BitVec 2048) : List Byte := toBytes 256 d.toNat

/-- An answer with a line: AUX holds its poisoned sectors and key id. -/
def lineMsg (typ src dst line key : Nat) (d : BitVec 2048) (bad : BitVec 4) (mask : BitVec 256) : Msg :=
  { mkMsg typ src dst (256 * line) with data := dataBytes d, aux := bad.toNat + 16 * key, mask := mask }

/-- A message of the home about a line to a die, under the number of its transaction. -/
def homeMsg (s : State) (typ dst line tid : Nat) : State :=
  post s { mkMsg typ (homeDie (256 * line)) dst (256 * line) with tid := tid }

/-- The earlier accesses of a group leave a waiting request to generic memory free to be performed (R166). -/
def laneFree (gr : Group) (a : Access) (r : Req) : Bool :=
  !(gr.acc.takeWhile (fun b => b.id != a.id)).any (fun b => b.space == .generic && b.reqs.any (fun q => q.stage == .waiting &&
    r.lanes.any (fun x => q.lanes.any (fun y => x.lane == y.lane && decide (x.pa < y.pa + q.n) && decide (y.pa < x.pa + r.n)))))

/-- The loads of a die that wait for a line now are those that data read now may serve; one that comes later asks again (R277, R290). -/
def markAsked (s : State) (d line : Nat) : State :=
  { s with groups := mmap (fun g gr => if s.dieOf g == d then
      { gr with acc := gr.acc.map (fun a => if a.op == .load && a.space == .generic then
          { a with reqs := a.reqs.map (fun r => if r.line = line && r.stage = .waiting && laneFree gr a r then { r with asked := true } else r) }
        else a) } else gr) s.groups }

/-- The home copy sent as data; `snooped` tells an atomic's predictor that an owner was snooped for it (R313). -/
def sendData (s : State) (typ dst line key tid : Nat) (snooped : Bool) : State :=
  let s := homeFill s line key
  let s := if typ = tDataSN then markAsked s dst line else s
  let d := homeData s line key
  post s { lineMsg typ (homeDie (256 * line)) dst line key d.1 d.2 0 with last := snooped, tid := tid }

/-! ## Transactions -/

def setTxn (s : State) (line : Nat) (t : Txn) : State := { s with busy := mput s.busy line t }

/-- Open a transaction: snoops to some dies and invalidations to others. -/
def openTxn (s : State) (line : Nat) (t : Txn) (msgs : List (Nat × Nat)) : State :=
  msgs.foldl (fun s m => homeMsg s m.1 m.2 line t.tid) (setTxn s line { t with waits := msgs.map (·.2) })

/-- The dies that an invalidation for another's ownership goes to: in coarse mode every die of the pod in a marked group, the home and the
requester apart (R268, R273). -/
def others (s : State) (line : Nat) (e : DirEnt) (d : Nat) : List Nat :=
  e.sharers.filter (fun x => x != d && x != homeDie (256 * line) && decide (x < 2 * s.packages))

/-- What takes every copy of a line away: Inv to the sharers, SnpInv to an owner, SnpMerge to privatised holders (R270, R273, R276). -/
def takeAway (s : State) (line : Nat) (e : DirEnt) (d : Nat) : List (Nat × Nat) :=
  match e.st with
  | .i => []
  | .s => (others s line e d).map (fun x => (tInv, x))
  | .em => [(tSnpInv, e.own)]
  | .o => (others s line e d).map (fun x => (tInv, x)) ++ (if e.own = d then [] else [(tSnpInv, e.own)])
  | .p => e.holders.map (fun x => (tSnpMerge, x.1))

/-- The home takes every copy of a line away for itself: a directory eviction, a store or a read by its own cores (R169, R273, R276). An
entry of which no die holds a copy any more goes at once. -/
def reclaim (s : State) (line : Nat) : State :=
  match mget? s.dir line with
  | none => s
  | some e =>
    let home := homeDie (256 * line)
    let t : Txn := { req := 0, tid := s.nextId % 4096, typ := tReqX, from' := home, mask := 0, waits := [], probe := false, evict := true }
    match takeAway s line e home with
    | [] => delEnt s line
    | m :: ms => openTxn s line t (m :: ms)

/-- The home asks an owner for its data: a read by one of the home's own cores (R270). -/
def homeSnoop (s : State) (line own : Nat) : State :=
  openTxn s line { req := 0, tid := s.nextId % 4096, typ := tReqS, from' := homeDie (256 * line), mask := 0, waits := [], probe := false, evict := false }
    [(tSnpShr, own)]

/-! ## Grants -/

/-- An S copy when the limit allows, else the data alone (R270, R277). -/
def grantS (s : State) (d line key tid rdh : Nat) (e : DirEnt) : State :=
  let pa := 256 * line
  if e.cnt < limitOf s pa rdh then
    sendData (setEnt s line (e.addS d)) tDataS d line key tid false
  else
    let s := countRegion s pa rdh (fun r => { r with na := min (r.na + 1) 65535 })
    sendData (if e.st = .s && e.cnt = 0 then delEnt s line else setEnt s line e) tDataSN d line key tid false

/-- Ownership to a die. `old` is the entry it takes over, which stays coarse until it returns to I (R268); `keep` when the die still holds the
line and needs no data (Upg), `snooped` when an owner gave the line up. -/
def grantX (s : State) (d line key tid xf : Nat) (old : Option DirEnt) (keep snooped : Bool) : State :=
  let s := setEnt s line { newEnt .em d s.clock with xf := min xf 7, cm := (old.map (·.cm)).getD false }
  if keep then homeMsg s tDataE d line tid else sendData s tDataE d line key tid snooped

/-- Serve a request on a line that no other die holds any more. -/
def serveFromI (s : State) (typ d line key tid rdh : Nat) : State :=
  if typ = tReqS then grantS s d line key tid rdh (newEnt .s 0 s.clock) else grantX s d line key tid 0 none false false

/-- The die still holds the S copy that its Upg names: by its pointer, or in coarse mode by the copy itself. -/
def keepsS (s : State) (e : DirEnt) (d line : Nat) : Bool :=
  if e.cm then e.isS d && (copyAt s d line).isSome else e.ptrs.contains d

/-! ## Requests at the home (R270, R275, R276) -/

/-- What is left of a request while its transaction is open: its RD hint stands in the mask of a read. -/
def txnOf (typ d key tid : Nat) (mask : BitVec 256) : Txn :=
  { req := key, tid := tid, typ := typ, from' := d, mask := mask, waits := [], probe := false, evict := false }

/-- A read request (R270). -/
def homeReqS (s : State) (d line key tid rdh : Nat) : State :=
  let t := txnOf tReqS d key tid (BitVec.ofNat 256 rdh)
  match mget? s.dir line with
  | none => serveFromI s tReqS d line key tid rdh
  | some e => match e.st with
    | .i => serveFromI s tReqS d line key tid rdh
    | .s => grantS s d line key tid rdh e
    | .em => openTxn s line t [(tSnpShr, e.own)]
    | .o => openTxn s line t [(tSnpShr, e.own)]
    | .p => openTxn s line t (takeAway s line e d)

/-- A request for ownership: ReqX, Upg, or PExt outside P (R270, R275). -/
def homeReqX (s : State) (typ d line key tid : Nat) (mask : BitVec 256) : State :=
  let t := txnOf typ d key tid mask
  match mget? s.dir line with
  | none => serveFromI s tReqX d line key tid 0
  | some e => match e.st with
    | .i => serveFromI s tReqX d line key tid 0
    | .s =>
      let m := takeAway s line e d
      if m.isEmpty then grantX s d line key tid (e.xf + 1) (some e) (typ == tUpg && keepsS s e d line) false else openTxn s line t m
    | .em =>
      if e.own = d then grantX s d line key tid e.xf (some e) false false
      else if e.xf ≥ 3 && privRoom s (homeDie (256 * line)) then openTxn s line { t with probe := true } [(tSnpMask, e.own)]
      else openTxn s line t [(tSnpInv, e.own)]
    | .o =>
      let m := takeAway s line e d
      if m.isEmpty then grantX s d line key tid (e.xf + 1) (some e) true false else openTxn s line t m
    | .p => openTxn s line t (takeAway s line e d)

/-- The masks of two holders do not meet. -/
def disjoint (a b : BitVec 256) : Bool := a &&& b == 0

/-- A holder's write outside its mask: the mask grows when the bytes are free, else the line merges (R276). -/
def homePExt (s : State) (d line key tid : Nat) (mask : BitVec 256) : State :=
  match mget? s.dir line with
  | some e =>
    if e.st = .p && e.holders.any (fun x => x.1 == d) then
      if e.holders.all (fun x => x.1 == d || disjoint x.2 mask) && e.holders.length < 4 then
        let hs := e.holders.map (fun x => if x.1 = d then (x.1, x.2 ||| mask) else x)
        let all := (hs.find? (fun x => x.1 == d)).map (·.2)
        post (setEnt s line { e with holders := hs }) { mkMsg tDataP (homeDie (256 * line)) d (256 * line) with mask := all.getD mask, tid := tid }
      else homeReqX s tPExt d line key tid mask
    else homeReqX s tPExt d line key tid mask
  | none => homeReqX s tPExt d line key tid mask

/-! ## The end of a transaction -/

/-- All answers are in: grant what was asked; an eviction frees the entry, and a read by the home's own cores needs no grant. -/
def finishTxn (s : State) (line : Nat) (t : Txn) : State :=
  let s := { s with busy := mdel s.busy line }
  let d := t.from'
  let key := t.req
  let tid := t.tid
  let rdh := t.mask.toNat
  if t.evict then delEnt s line
  else if d = homeDie (256 * line) then
    (match mget? s.dir line with
     | some e => if e.st = .em then setEnt s line { e with st := .o, cnt := 0 } else s
     | none => s)
  else match mget? s.dir line with
  | none => serveFromI s (if t.typ = tReqS then tReqS else tReqX) d line key tid rdh
  | some e =>
    if t.typ = tReqS then
      (match e.st with
       | .p | .i => serveFromI (delEnt s line) tReqS d line key tid rdh
       | .em => grantS s d line key tid rdh { e with st := .o, cnt := 0 }
       | _ => grantS s d line key tid rdh e)
    else match e.st with
      | .p | .i => serveFromI (delEnt s line) tReqX d line key tid 0
      | .s => grantX s d line key tid (e.xf + 1) (some e) (t.typ == tUpg && keepsS s e d line) false
      | .em => grantX s d line key tid (e.xf + 1) (some e) false true
      | .o => grantX s d line key tid (e.xf + 1) (some e) (e.own == d) (e.own != d)

/-- A die that answered has no copy left: it leaves the entry. -/
def leave (s : State) (line d : Nat) : State :=
  match mget? s.dir line with
  | none => s
  | some e => match e.st with
    | .em => if e.own = d then delEnt s line else s
    | .o =>
      if e.own = d then (if e.cnt = 0 then delEnt s line else { s with dir := mput s.dir line { e with st := .s } })
      else { s with dir := mput s.dir line (e.dropS d) }
    | .s =>
      let e' := e.dropS d
      if e'.cnt = 0 then delEnt s line else { s with dir := mput s.dir line e' }
    | .p =>
      let hs := e.holders.filter (fun x => x.1 != d)
      if hs.isEmpty then delEnt s line else { s with dir := mput s.dir line { e with holders := hs } }
    | .i => s

/-- An answer to the home: its data goes into the home copy, and the last answer ends the transaction. `gone` when the die
keeps no copy. -/
def homeAnswer (s : State) (m : Msg) : State :=
  let line := lineOf m.addr
  let s := if m.typ = tAckD then mergeHome s line (msgKey m) m.mask (msgLine m) (msgBad m) else s
  match mget? s.busy line with
  | none => s
  | some t =>
    if !t.waits.contains m.src then s
    else
      let waits := srem t.waits m.src
      if t.probe then
        -- the owner's mask is known: privatise, or take the line away (R275)
        let w := m.mask
        if m.typ = tAckD && !m.last && disjoint w t.mask then
          let home := homeDie (256 * line)
          let e := (mget? s.dir line).getD (newEnt .p 0 s.clock)
          let s := setEnt { s with busy := mdel s.busy line } line
            { e with st := .p, pix := privIdx s home, holders := [(m.src, w), (t.from', t.mask)] }
          let d := homeData s line t.req
          post s { lineMsg tDataP home t.from' line t.req d.1 d.2 t.mask with last := true, tid := t.tid }
        else if m.last || m.typ = tAck then finishTxn (leave s line m.src) line { t with waits := [] }
        else openTxn s line { t with probe := false } [(tSnpInv, m.src)]
      else
        -- for a read, a die that keeps no copy leaves the entry; for ownership the grant replaces the entry whole
        let s := if m.last && t.typ = tReqS && !t.evict then leave s line m.src else s
        if waits.isEmpty then finishTxn s line { t with waits := [] } else setTxn s line { t with waits := waits }

/-! ## Eviction notices at the home (R271, R272) -/

/-- The entry records the die as a holder. -/
def holds (e : DirEnt) (d : Nat) : Bool :=
  match e.st with
  | .em => e.own == d
  | .o => e.own == d || e.isS d
  | .p => e.holders.any (fun x => x.1 == d)
  | .s => e.isS d
  | .i => false

/-- EvN and EvD: the die leaves the entry, its dirty bytes go into the home copy, EvAck. A notice from a die that is no holder is
acknowledged and its data discarded. -/
def homeEvict (s : State) (m : Msg) : State :=
  let line := lineOf m.addr
  let s := match mget? s.dir line with
    | some e => if holds e m.src then
        (let s := if m.typ = tEvD then mergeHome s line (msgKey m) m.mask (msgLine m) (msgBad m) else s
         leave s line m.src) else s
    | none => s
  homeMsg s tEvAck m.src line m.tid

/-! ## Snoops at a die (R267, R271, R274) -/

/-- Data that would install a copy at a die is still on its way there: the snoop waits for it (log 32). -/
def dataComing (s : State) (d line : Nat) : Bool :=
  s.net.any (fun e => e.2.dst == d && e.2.addr / 256 == line && (e.2.typ == 0x0E || e.2.typ == 0x10 || e.2.typ == 0x11))

def setCopy (s : State) (d line : Nat) (l : Line) : State := { s with l2 := mput s.l2 (atDie d line) l }

/-- A die's answer: its dirty bytes if it has any. -/
def answer (s : State) (d line tid : Nat) (l : Option Line) (always gone : Bool) : State :=
  let home := homeDie (256 * line)
  match l with
  | some l =>
    if always || l.dirty != 0 then post s { lineMsg tAckD d home line l.key l.data l.bad l.dirty with last := gone, tid := tid }
    else post s { mkMsg tAck d home (256 * line) with last := gone, tid := tid }
  | none => post s { mkMsg tAck d home (256 * line) with last := true, tid := tid }

/-- The line leaves the die, with its sealed L1 copies. -/
def giveUp (s : State) (d line : Nat) : State := dropSealed (dropCopy s d line) d line

/-- The snoops that a line answers with its data, whether it is dirty or not. -/
def wantsData (typ : Nat) : Bool := typ == tSnpShr || typ == tSnpMask || typ == tSnpMerge

/-- The five snoops. A victim buffer answers as the line would have, and marks itself gone (R271, R272). -/
def snoop (s : State) (typ d line tid : Nat) : State :=
  match mget? s.l2 (atDie d line) with
  | some l =>
    if typ = tSnpShr then answer (setCopy s d line { l with st := .o }) d line tid (some l) true false
    else if typ = tSnpMask then answer (setCopy s d line { l with st := .p }) d line tid (some l) true false
    else if typ = tInv then answer (giveUp s d line) d line tid none false true
    else answer (giveUp s d line) d line tid (some l) (wantsData typ) true
  | none => match copyAt s d line with
    | some l => answer (giveUp s d line) d line tid (if typ = tInv then none else some l) (wantsData typ) true
    | none => answer (dropSealed s d line) d line tid none false true

/-! ## Evictions by a die (R271) -/

/-- A die has a free victim buffer in the slice of the line, and none for the line itself. -/
def victimRoom (s : State) (d line : Nat) : Bool :=
  (mget? s.victims (atDie d line)).isNone &&
  (s.victims.filter (fun e => e.1 / 2 ^ 42 == d && sliceOf (256 * (e.1 % 2 ^ 42)) == sliceOf (256 * line))).length < 32

/-- A line whose eviction sends its bytes home: M and O, and the masked bytes of a privatised line (R271, R276). -/
def Line.dirtyOut (l : Line) : Bool := l.st == .o || l.st == .m || l.st == .p || l.dirty != 0

/-- Evict a remote copy: a notice to the home; a line that is not clean waits in a victim buffer until EvAck (R271). -/
def evictCopy (s : State) (d line : Nat) : State :=
  let home := homeDie (256 * line)
  match mget? s.l2 (atDie d line) with
  | none => s
  | some l =>
    if l.st = .h || missOut s d line || (mget? s.victims (atDie d line)).isSome || (l.dirtyOut && !victimRoom s d line) then s
    else
      let tid := s.nextId % 4096
      let s' := dropSealed { s with l2 := mdel s.l2 (atDie d line) } d line
      if l.dirtyOut then
        post { s' with victims := mput s.victims (atDie d line) l } { lineMsg tEvD d home line l.key l.data l.bad l.dirty with tid := tid }
      else post s' { mkMsg tEvN d home (256 * line) with tid := tid }

/-! ## Requests by a die -/

/-- Send a request unless one is under way. -/
def request (s : State) (typ d line key rdh : Nat) (mask : BitVec 256) : State :=
  if missOut s d line then s
  else post s { mkMsg typ d (homeDie (256 * line)) (256 * line) with mask := mask, aux := rdh + 16 * key, tid := s.nextId % 4096 }

/-! ## The request, notice, answer and snoop messages -/

/-- The request gives its die a copy, so that it needs a directory entry. -/
def needsEntry (s : State) (m : Msg) : Bool :=
  m.typ == tReqX || m.typ == tUpg || m.typ == tPExt || (m.typ == tReqS && decide (0 < limitOf s m.addr (m.aux % 16)))

/-- A request at the home: it waits while the line is busy (R269), and in a full set for the eviction of an entry, which it starts where none is
under way (R273). -/
def atHome (s : State) (id typ : Nat) (act : State → Msg → State) : Out :=
  match arriving s id typ with
  | none => .next s
  | some m =>
    let line := lineOf m.addr
    if (mget? s.busy line).isSome then .next s
    else if needsEntry s m && dirFull s line then
      .next (if (dirSet s line).any (fun e => (mget? s.busy e.1).any (·.evict)) then s
        else match dirVictim s line with
          | some e => reclaim s e.1
          | none => s)
    else .next (act (taken s id m) m)

/-- A copy under another key is brought home first (R331). -/
def rekey (s : State) (line key : Nat) : State :=
  if otherKey s line key then collapse s line else s

def execMsgReqs (id : Nat) (s : State) : Out :=
  atHome s id tReqS (fun s m =>
    let s := countRegion (rekey s (lineOf m.addr) (msgKey m)) m.addr (m.aux % 16) (fun r => { r with rr := min (r.rr + 1) 65535 })
    homeReqS s m.src (lineOf m.addr) (msgKey m) m.tid (m.aux % 16))

/-- The three requests for writing count in WR (R278). -/
def writeReq (s : State) (m : Msg) : State :=
  countRegion (rekey s (lineOf m.addr) (msgKey m)) m.addr (m.aux % 16) Region.wrote

def execMsgReqx (id : Nat) (s : State) : Out :=
  atHome s id tReqX (fun s m => homeReqX (writeReq s m) tReqX m.src (lineOf m.addr) (msgKey m) m.tid m.mask)
def execMsgUpg (id : Nat) (s : State) : Out :=
  atHome s id tUpg (fun s m => homeReqX (writeReq s m) tUpg m.src (lineOf m.addr) (msgKey m) m.tid m.mask)
def execMsgPext (id : Nat) (s : State) : Out :=
  atHome s id tPExt (fun s m => homePExt (writeReq s m) m.src (lineOf m.addr) (msgKey m) m.tid m.mask)
def execMsgEvn (id : Nat) (s : State) : Out := atHome s id tEvN homeEvict
def execMsgEvd (id : Nat) (s : State) : Out := atHome s id tEvD homeEvict

/-- A snoop at its die: it waits for data of the line that is still coming. -/
def atDieMsg (s : State) (id typ : Nat) : Out :=
  match arriving s id typ with
  | none => .next s
  | some m =>
    if dataComing s m.dst (lineOf m.addr) then .next s
    else .next (snoop (taken s id m) typ m.dst (lineOf m.addr) m.tid)

def execMsgSnpshr (id : Nat) (s : State) : Out := atDieMsg s id tSnpShr
def execMsgSnpinv (id : Nat) (s : State) : Out := atDieMsg s id tSnpInv
def execMsgSnpmask (id : Nat) (s : State) : Out := atDieMsg s id tSnpMask
def execMsgSnpmerge (id : Nat) (s : State) : Out := atDieMsg s id tSnpMerge
def execMsgInv (id : Nat) (s : State) : Out := atDieMsg s id tInv

/-- An answer reaches the home. -/
def answered (s : State) (id typ : Nat) : Out :=
  match arriving s id typ with
  | none => .next s
  | some m => .next (homeAnswer (taken s id m) m)

def execMsgAck (id : Nat) (s : State) : Out := answered s id tAck
def execMsgAckd (id : Nat) (s : State) : Out := answered s id tAckD

/-- EvAck frees the victim buffer (R271). -/
def execMsgEvack (id : Nat) (s : State) : Out :=
  match arriving s id tEvAck with
  | none => .next s
  | some m => .next { taken s id m with victims := mdel s.victims (atDie m.dst (lineOf m.addr)), spent := srem s.spent (atDie m.dst (lineOf m.addr)) }

end Sys2Proof.Machine
end

