-- ==== Sys2Proof/Machine/Hold.lean ====
section
/-!
DEFINITION. What a waiting instruction has done when its wait is undone (R24, R30): its arrival at a barrier (R186, R235, R237), its place
in the order of a quantum and its commit-buffer units (R303, R317, R318, R371), its seal (R283), its tracker entry (R108).
-/
namespace Sys2Proof.Machine

/-! ## Barriers of a block and of a cluster -/

/-- A barrier by id: of the block, or of the cluster. -/
def barAt (s : State) (g : Nat) (cluster : Bool) (id : Nat) : NBar :=
  if cluster then (match s.cluOf g with | some c => mget c.cb {} id | none => {})
  else mget (s.blk (blockOf g)).nb {} id

def setBar (s : State) (g : Nat) (cluster : Bool) (id : Nat) (b : NBar) : State :=
  if cluster then (match (s.blk (blockOf g)).cluster with
    | some c => s.modClu c (fun x => { x with cb := mput x.cb id b })
    | none => s)
  else s.modBlk (blockOf g) (fun x => { x with nb := mput x.nb id b })

/-! ## Commit-buffer units (R303) -/

/-- Units of a group's core become free. -/
def freeUnits (s : State) (g n : Nat) : State := s.modCore (s.coreOf g) (fun c => { c with units := c.units - n })

/-- The lanes of an access in rising order, each with its page policy and key. -/
def accLanes (a : Access) : List (LaneAcc × Nat × Nat) :=
  lanes.flatMap (fun l => a.reqs.flatMap (fun r => (r.lanes.filter (fun x => x.lane == l)).map (fun x => (x, r.pol, r.key))))

/-- One register of a frame, and a pair. -/
def fr (f : List W32) (i : Nat) : Nat := (f.getD i 0).toNat
def frd (f : List W32) (i : Nat) : Nat := fr f i + 2 ^ 32 * fr f (i + 1)

/-- A TB field that names no barrier. -/
def noTb : Nat := 0xFFFFFFFF

/-- Commit-buffer units (R303). -/
def specUnits (opc : Nat) (f : List W32) : Nat :=
  let m := fr f 2 + (if fr f 3 = noTb then 0 else 1)
  if opc = 0xF8 then detUnits 8
  else if opc = 0xFA then detUnits 8 + (if frd f 6 = 0 || m = 0 then 0 else detUnits (4 * m))
  else if opc = 0xFB then detUnits 8 + detUnits 4
  else 0

/-! ## The frontier of a DET context (R300, R301) -/

/-- All ones: no live group bounds the frontier (R301). -/
def noBound : Nat := 2 ^ 32 - 1

/-- A group takes part in the frontier: it is live in a block that has started. -/
def counts (s : State) (cx : Nat) (e : Nat × Group) : Bool := e.2.ctx == cx && e.2.live && (s.blk (blockOf e.1)).stage != .placed

/-- The lowest quantum a group has not ended. -/
def openQuantum (g : Group) : Nat := if g.detHold.isSome then g.quantum + 1 else g.quantum

/-- The lowest quantum that some live group, of a core or of the context, has not ended. -/
def lowestOpen (s : State) (cx : Nat) (p : Nat × Group → Bool) : Nat :=
  (s.groups.filter (fun e => counts s cx e && p e)).foldl (fun m e => min m (openQuantum e.2)) noBound

/-- The frontier F as the groups stand (R300). -/
def frontier (s : State) (cx : Nat) : Nat := lowestOpen s cx (fun _ => true)

/-- LQ of a core: the lowest quantum that a live group of a DET context on it has not ended. -/
def setLq (s : State) (core : Nat) : State :=
  let n := (s.groups.filter (fun e => s.coreOf e.1 == core && (s.ctx e.2.ctx).det && counts s e.2.ctx e)).foldl (fun m e => min m (openQuantum e.2)) noBound
  if (s.core core).lq = BitVec.ofNat 32 n then s else s.modCore core (fun c => { c with lq := BitVec.ofNat 32 n })

/-! ## Taking back -/

/-- Take back what a held instruction has done: its arrival, its turn, its units (R24). -/
def takeBack (s : State) (g : Nat) (k : HoldKind) : State :=
  let units := fun (s : State) (n : Nat) => freeUnits s g n
  let dropAcc := fun (id : Nat) =>
    match (s.grp g).acc.find? (fun a => a.id == id) with
    | none => s
    | some a =>
      let n := ((accLanes a).filter (fun x => !x.1.bad)).length * detUnits a.size
      units (s.modGrp g (fun gr => { gr with acc := gr.acc.filter (fun b => b.id != id) })) n
  match k with
  | .parity cl id _ true =>
    let b := barAt s g cl id
    setBar s g cl id { b with arr := b.arr - 32, exp := if b.arr ≤ 32 then 0 else b.exp }
  | .phHold _ p full => (match (s.blk (blockOf g)).cluster with
    | some cn =>
      let r := cluRank s g
      if full || mget (s.clu cn).phn 0 r != p then s
      else s.modClu cn (fun c => { c with parr := mset c.parr 0 r (mget c.parr 0 r - 1) })
    | none => s)
  | .oapp id | .ordered id => dropAcc id
  | .spec opc _ fm _ => if s.isDet g then units s (specUnits opc fm) else s
  | .reuse base _ => s.modCtx (s.grp g).ctx (fun c => { c with seals := c.seals.map (fun e => if e.base = base then { e with draining := false } else e) })
  | .tailing => s.modPart (s.grp g).part (fun x => { x with tracker := x.tracker.filter (fun t => t.g != g) })
  | _ => s

/-- A waiting instruction of the group raises a precise fault: what it, and the chain it stands in, have done is taken back (R24). -/
def faultWait (s : State) (g : Nat) (f : FaultInfo) : State :=
  faultHeld ((s.grp g).holds.foldl (fun s h => takeBack s g h.kind) s) g f

end Sys2Proof.Machine
end

