-- ==== Sys2Proof/Machine/Local.lean ====
section
/-!
DEFINITION. The scratchpad and its barriers: swizzles (R157, R158), range checks (R149), poison (R152), plain stores and sync tags
(R191, R194), transaction-barrier words and their updates (R190 to R195).
-/
namespace Sys2Proof.Machine

/-! ## Places in a scratchpad -/

/-- The swizzle of an offset (R157): bits changed and the bits they are XORed with. -/
def swizzle (n x : Nat) : Nat :=
  let f := fun (lo w src : Nat) => x ^^^ (bitsN x src w * 2 ^ lo)
  if n = 1 then f 4 1 8 else if n = 2 then f 4 2 8 else if n = 3 then f 4 3 8 else if n = 4 then f 4 4 8
  else if n = 5 then f 4 3 7 else if n = 6 then f 4 2 6 else if n = 7 then f 2 6 8 else x

/-- Where a byte is stored: the swizzled place when it lies below S_b (R158). -/
def spPlace (sb n x : Nat) : Nat := if swizzle n x < sb then swizzle n x else x

/-- A scratchpad access of `n` bytes lies below S_b (R149). -/
def spInside (l : Local) (x n : Nat) : Bool := x + n ≤ l.sb

/-- Read bytes, and whether one of them is poisoned. -/
def spRead (l : Local) (swz x n : Nat) : List Byte × Bool :=
  let ps := (List.range n).map (fun i => spPlace l.sb swz (x + i))
  (ps.map (cget l.sp), ps.any (fun p => l.spBad.contains (p / 4)))

/-- Distinct numbers of a list, the first of each kept. -/
def distinct : List Nat → List Nat
  | [] => []
  | x :: xs => x :: (distinct xs).filter (· != x)

/-- The bytes of a write put at their places; a granule that is written whole loses its poison (R152). -/
def spPut (l : Local) (swz x : Nat) (bytes : List Byte) : Local :=
  let ps := (List.range bytes.length).map (fun i => spPlace l.sb swz (x + i))
  { l with
    sp := (ps.zip bytes).foldl (fun m e => cset m e.1 e.2) l.sp
    spBad := l.spBad.filter (fun gr => !((List.range 4).all (fun k => ps.contains (4 * gr + k)))) }

/-! ## The transaction-barrier word (R190) -/

structure TbWord where
  ph : Nat
  er : Nat
  fc : Nat
  ap : Nat
  bp : Int
  ac : Nat
  deriving DecidableEq, Repr

def tbOf (x : Nat) : TbWord := ⟨bitsN x 63 1, bitsN x 62 1, bitsN x 56 6, bitsN x 44 12, sgn 24 (bitsN x 20 24), bitsN x 8 12⟩
def tbBits (w : TbWord) : Nat :=
  w.ph * 2 ^ 63 + w.er * 2 ^ 62 + w.fc * 2 ^ 56 + w.ap * 2 ^ 44 + wrap 24 w.bp * 2 ^ 20 + w.ac * 2 ^ 8 + 0xB7

def tagLive : Nat := 1
def tagInval : Nat := 2
def tagClob : Nat := 3

def tbTag (l : Local) (off : Nat) : Nat := mget l.tags 0 (off / 8)
def tbGet (l : Local) (off : Nat) : TbWord := tbOf (ofBytes (cread l.sp off 8))
/-- A barrier word written: a write of its 8 bytes, which clears their poison (R152). -/
def tbPut (l : Local) (off : Nat) (w : TbWord) : Local :=
  { l with sp := cwrite l.sp off (toBytes 8 (tbBits w)), spBad := l.spBad.filter (fun x => x != off / 4 && x != off / 4 + 1) }
def setTag (l : Local) (off t : Nat) : Local := { l with tags := mset l.tags 0 (off / 8) t }

/-- The code of a word that is not LIVE (R195, R198). -/
def deadCode (tag : Nat) : Nat := if tag = tagClob then fcBarClobber else fcBarInvalid

/-! ## Waiters (R198) -/

/-- TBWAIT ends in a group: the code to gD, q6 for an error, an acquire at BLK scope, the counter. -/
def endTbWait (s : State) (g gd code : Nat) : State :=
  endHold (acquire (s.give g [.g gd (BitVec.ofNat 32 code) false, .q 6 (code != 0)]) g 1) g

/-- The groups of a block on a rank that wait on a word, with gD and parity. -/
def tbWaiters (s : State) (b rank off : Nat) : List (Nat × Nat × Bool) :=
  s.groups.filterMap (fun e =>
    if blockOf e.1 = b && e.2.rank = rank then
      e.2.holds.findSome? (fun h => match h.kind with
        | .tbWait o par gd => if o = off then some (e.1, gd, par) else none
        | _ => none)
    else none)

/-- Release the waiters whose parity passes. -/
def releaseTb (s : State) (b rank off code : Nat) (p : Bool → Bool) : State :=
  (tbWaiters s b rank off).foldl (fun s w => if p w.2.2 then
    endTbWait (focusHold s w.1 (fun k => match k with | .tbWait _ _ _ => true | _ => false)) w.1 w.2.1 code else s) s

/-! ## Updates (R192 to R195) -/

/-- Complete(w, code): a new phase, and the waiters of the old one released. -/
def tbComplete (s : State) (b rank off code : Nat) : State :=
  let w := tbGet ((s.blk b).loc rank) off
  let s := s.modLoc b rank (fun l => tbPut l off
    { ph := 1 - w.ph, er := if code = 0 then 0 else 1, fc := code, ap := w.ac, bp := 0, ac := w.ac })
  releaseTb s b rank off code (fun par => par == (w.ph == 1))

/-- Update(w, da, db) of a LIVE word. -/
def tbUpdate (s : State) (b rank off : Nat) (da db : Int) : State :=
  let w := tbGet ((s.blk b).loc rank) off
  let a : Int := w.ap - da
  let p := w.bp + db
  if a < 0 || p < -(2 ^ 23 : Nat) || p > (2 ^ 23 : Nat) - 1 || (a = 0 && p < 0) then tbComplete s b rank off fcBarOverflow
  else
    let s := s.modLoc b rank (fun l => tbPut l off { w with ap := a.toNat, bp := p })
    if a = 0 && p = 0 then tbComplete s b rank off 0 else s

/-- Arrive(tb, bytes) by an engine, and the code recorded against it when the word is not LIVE (R195). -/
def tbArrive (s : State) (b rank off bytes : Nat) : State × Option Nat :=
  let tag := tbTag ((s.blk b).loc rank) off
  if tag = tagLive then (tbUpdate s b rank off 0 (-(bytes : Int)), none) else (s, some (deadCode tag))

/-- An engine's error phase (R193). -/
def tbError (s : State) (b rank off code : Nat) : State :=
  if tbTag ((s.blk b).loc rank) off = tagLive then tbComplete s b rank off code else s

/-- A plain store of bytes: performed, and every LIVE word it touches becomes CLOB with its waiters released (R194). -/
def spStore (s : State) (b rank swz x : Nat) (bytes : List Byte) : State :=
  let l := (s.blk b).loc rank
  let words := distinct ((List.range bytes.length).map (fun i => spPlace l.sb swz (x + i) / 8))
  let hit := words.filter (fun w => mget l.tags 0 w == tagLive)
  let s := s.modLoc b rank (fun l => hit.foldl (fun l w => setTag l (8 * w) tagClob) (spPut l swz x bytes))
  hit.foldl (fun s w => releaseTb s b rank (8 * w) fcBarClobber (fun _ => true)) s

/-! ## ACM (R147, R148) -/

def acmRead (l : Local) (x n : Nat) : List Byte × Bool :=
  (cread l.acm x n, (List.range n).any (fun i => l.acmBad.contains ((x + i) / 4)))

def acmPut (l : Local) (x : Nat) (bytes : List Byte) : Local :=
  { l with
    acm := cwrite l.acm x bytes
    acmBad := l.acmBad.filter (fun gr => !(x ≤ 4 * gr && 4 * gr + 4 ≤ x + bytes.length)) }

end Sys2Proof.Machine
end

