-- ==== Sys2Proof/Machine/Num.lean ====
section
/-!
DEFINITION. Numbers and rounding (R32 to R46): formats, exact dyadic arithmetic, Round, special values, conversions,
block scales. A finite value is an integer times a power of two; a quotient or root is cut far below the last place and
its lowest bit made sticky, so that every rounding mode, the stochastic one included, sees the exact value.
-/
namespace Sys2Proof.Machine

/-! ## Formats (R33, R34) -/

/-- How a format encodes NaN: not at all, with all exponent bits set, or as the single e4m3 code. -/
inductive NanKind where
  | none | ieee | e4m3
  deriving DecidableEq, Repr

structure Fmt where
  eb : Nat
  mb : Nat
  bias : Nat
  nan : NanKind
  /-- one of f64, f32, f16, bf16, to which DAZ and FTZ apply (R40) -/
  lane : Bool
  deriving DecidableEq, Repr

def fF64 : Fmt := ⟨11, 52, 1023, .ieee, true⟩
def fF32 : Fmt := ⟨8, 23, 127, .ieee, true⟩
def fF16 : Fmt := ⟨5, 10, 15, .ieee, true⟩
def fBf16 : Fmt := ⟨8, 7, 127, .ieee, true⟩
def fE5m2 : Fmt := ⟨5, 2, 15, .ieee, false⟩
def fE4m3 : Fmt := ⟨4, 3, 7, .e4m3, false⟩
def fE3m2 : Fmt := ⟨3, 2, 3, .none, false⟩
def fE2m3 : Fmt := ⟨2, 3, 1, .none, false⟩
def fE2m1 : Fmt := ⟨2, 1, 1, .none, false⟩

def Fmt.width (f : Fmt) : Nat := 1 + f.eb + f.mb
/-- The exponent of the smallest normal (R33). -/
def Fmt.emin (f : Fmt) : Int := 1 - (f.bias : Int)
/-- The magnitude bits of the largest finite value. -/
def Fmt.maxBits (f : Fmt) : Nat :=
  match f.nan with
  | .ieee => (2 ^ f.eb - 1) * 2 ^ f.mb - 1
  | .e4m3 => 2 ^ (f.eb + f.mb) - 2
  | .none => 2 ^ (f.eb + f.mb) - 1
def Fmt.signBit (f : Fmt) : Nat := 2 ^ (f.eb + f.mb)
/-- The canonical NaN (R34); formats without NaN have none and give +0 (R43). -/
def Fmt.canonNan (f : Fmt) : Nat :=
  match f.nan with
  | .ieee => (2 ^ f.eb - 1) * 2 ^ f.mb + 2 ^ (f.mb - 1)
  | .e4m3 => 2 ^ (f.eb + f.mb) - 1
  | .none => 0
def Fmt.hasInf (f : Fmt) : Bool := f.nan = .ieee
def Fmt.infBits (f : Fmt) : Nat := (2 ^ f.eb - 1) * 2 ^ f.mb

/-- A decoded value: the finite value is (-1)^neg * m * 2^e. -/
inductive FV where
  | nan (neg quiet : Bool) (pay : Nat)
  | inf (neg : Bool)
  | num (neg : Bool) (m : Nat) (e : Int)
  deriving DecidableEq, Repr

def FV.isNan : FV → Bool | .nan _ _ _ => true | _ => false
def FV.isSnan : FV → Bool | .nan _ q _ => !q | _ => false
def FV.isInf : FV → Bool | .inf _ => true | _ => false
def FV.isZero : FV → Bool | .num _ m _ => m == 0 | _ => false
def FV.neg : FV → Bool | .nan n _ _ => n | .inf n => n | .num n _ _ => n

/-- Decode bits, reading a subnormal of a lane format as zero under DAZ (R33, R40). -/
def unpack (f : Fmt) (daz : Bool) (x : Nat) : FV :=
  let neg := bitN x (f.eb + f.mb)
  let e := bitsN x f.mb f.eb
  let m := bitsN x 0 f.mb
  if f.nan = .ieee && e = 2 ^ f.eb - 1 then
    (if m = 0 then .inf neg else .nan neg (bitN m (f.mb - 1)) m)
  else if f.nan = .e4m3 && e = 15 && m = 7 then .nan neg true 7
  else if e = 0 then .num neg (if daz && f.lane then 0 else m) (f.emin - f.mb)
  else .num neg (2 ^ f.mb + m) ((e : Int) - f.bias - f.mb)

/-- The rounding environment of an instruction: mode 1 to 6 (R37), DAZ, FTZ, NANP, saturation. -/
structure FEnv where
  rm : Nat
  daz : Bool
  ftz : Bool
  nanp : Bool
  sat : Bool
  deriving DecidableEq, Repr

/-- RNE, subnormals kept, canonical NaNs: the environment of the matrix array, the fabric and the atomics (R49, R50, R308). -/
def envRne : FEnv := ⟨1, false, false, false, false⟩

/-! ## NaN results (R41) -/

/-- A NaN operand quieted and converted to a format, keeping the most significant payload bits. -/
def quietTo (src dst : Fmt) (neg : Bool) (pay : Nat) : Nat :=
  let sg := if neg then dst.signBit else 0
  match dst.nan with
  | .none => 0
  | .e4m3 => sg + dst.canonNan
  | .ieee =>
    let p := if dst.mb ≤ src.mb then (pay / 2 ^ (src.mb - dst.mb)) % 2 ^ (dst.mb - 1) + 2 ^ (dst.mb - 1)
      else (pay % 2 ^ (src.mb - 1)) * 2 ^ (dst.mb - src.mb) + 2 ^ (dst.mb - 1)
    sg + dst.infBits + p

/-- The NaN an operation produces from its operands in order (R41). -/
def nanResult (env : FEnv) (dst : Fmt) : List (Fmt × FV) → Nat
  | [] => dst.canonNan
  | (src, .nan n _ p) :: rest => if env.nanp then quietTo src dst n p else nanResult env dst rest
  | _ :: rest => nanResult env dst rest

/-- IV for a signalling NaN among the operands (R41). -/
def snanStat (ops : List FV) : Stat := if ops.any FV.isSnan then stIV else 0

/-! ## Rounding (R37 to R40) -/

/-- Round m * 2^(e - u) to an integer in a mode: the integer and whether it is exact. `c` is the coin of R38. -/
def roundInt (rm : Nat) (neg : Bool) (c m : Nat) (sh : Int) : Nat × Bool :=
  if 0 ≤ sh then (m * 2 ^ sh.toNat, true)
  else
    let k := (-sh).toNat
    let lo := m / 2 ^ k
    let r := m % 2 ^ k
    let half := 2 ^ (k - 1)
    let up := if rm = 1 then r > half || (r == half && lo % 2 == 1)
      else if rm = 2 then false
      else if rm = 3 then neg && r != 0
      else if rm = 4 then !neg && r != 0
      else if rm = 5 then r ≥ half
      else decide (c < r * 2 ^ 24 / 2 ^ k)
    (if up then lo + 1 else lo, r == 0)

/-- Bits of n * 2^u, where u is the exponent of the last place that the format has there. -/
def packMag (f : Fmt) (n : Nat) (u : Int) : Nat :=
  if n < 2 ^ f.mb then n
  else
    let l := Nat.log2 n - f.mb
    let m := n / 2 ^ l
    ((u + l - (f.emin - f.mb) + 1).toNat) * 2 ^ f.mb + (m - 2 ^ f.mb)

/-- The overflow result (R39): bits and status. -/
def overflowRes (env : FEnv) (f : Fmt) (neg : Bool) : Nat × Stat :=
  let sg := if neg then f.signBit else 0
  let mx := sg + f.maxBits
  let big := if f.hasInf then sg + f.infBits else if f.nan = .e4m3 then sg + f.canonNan else mx
  if env.sat then (mx, stOF ||| stNX ||| stSAT)
  else
    let toMax := env.rm = 2 || (env.rm = 3 && !neg) || (env.rm = 4 && neg)
    (if toMax then mx else big, stOF ||| stNX)

/-- Round a nonzero exact value to a format (R37 to R40): bits and status. -/
def roundTo (env : FEnv) (f : Fmt) (c : Nat) (neg : Bool) (m : Nat) (e : Int) : Nat × Stat :=
  let E : Int := (Nat.log2 m : Int) + e
  let sg := if neg then f.signBit else 0
  let u := (if E < f.emin then f.emin else E) - f.mb
  -- |x| above the largest finite value: SR decides as RNE (R38)
  let mx := unpack f false f.maxBits
  let above := match mx with
    | .num _ xm xe => if e ≤ xe then decide (m > xm * 2 ^ (xe - e).toNat) else decide (m * 2 ^ (e - xe).toNat > xm)
    | _ => false
  let rm := if env.rm = 6 && above then 1 else env.rm
  let (n, exact) := roundInt rm neg c m (e - u)
  let ovf := match mx with
    | .num _ xm xe => if u ≤ xe then decide (n > xm * 2 ^ (xe - u).toNat) else decide (n * 2 ^ (u - xe).toNat > xm)
    | _ => false
  if ovf then overflowRes env f neg
  else
    -- tininess after rounding with unbounded exponent range
    let uU := E - f.mb
    let (nU, _) := roundInt rm neg c m (e - uU)
    let tiny := decide ((Nat.log2 nU : Int) + uU < f.emin)
    if tiny && env.ftz && f.lane then (sg, stUF ||| stNX)
    else (sg + packMag f n u, if exact then 0 else if tiny then stUF ||| stNX else stNX)

/-- A zero with a sign. -/
def zeroOf (f : Fmt) (neg : Bool) : Nat := if neg then f.signBit else 0

/-- Round any decoded value to a format; infinities and NaNs by R41 and R43. `src` is the format it was decoded from. -/
def roundFV (env : FEnv) (src f : Fmt) (c : Nat) (x : FV) : Nat × Stat :=
  match x with
  | .num n 0 _ => (zeroOf f n, 0)
  | .num n m e => roundTo env f c n m e
  | .inf n =>
    let sg := if n then f.signBit else 0
    match f.nan with
    | .ieee => (sg + f.infBits, 0)
    | .e4m3 => if env.sat then (sg + f.maxBits, stIV ||| stSAT) else (sg + f.canonNan, stIV)
    | .none => (sg + f.maxBits, if env.sat then stIV ||| stSAT else stIV)
  | .nan n q p =>
    match f.nan with
    | .none => (0, stIV)
    | _ => (if env.nanp then quietTo src f n p else f.canonNan, if q then 0 else stIV)

/-! ## Exact values -/

/-- An exact dyadic value m * 2^e. -/
structure Dy where
  m : Int
  e : Int
  deriving DecidableEq, Repr

def Dy.zero : Dy := ⟨0, 0⟩
def Dy.add (a b : Dy) : Dy :=
  if a.e ≤ b.e then ⟨a.m + b.m * 2 ^ (b.e - a.e).toNat, a.e⟩ else ⟨a.m * 2 ^ (a.e - b.e).toNat + b.m, b.e⟩
def Dy.mul (a b : Dy) : Dy := ⟨a.m * b.m, a.e + b.e⟩
def Dy.negate (a : Dy) : Dy := ⟨-a.m, a.e⟩
def Dy.lt (a b : Dy) : Bool := decide ((a.add b.negate).m < 0)
def Dy.le (a b : Dy) : Bool := decide ((a.add b.negate).m ≤ 0)
/-- The exact value of a finite number. -/
def FV.dy : FV → Dy
  | .num n m e => ⟨if n then -(m : Int) else m, e⟩
  | _ => Dy.zero

/-- Round an exact value; a zero result has the sign given. -/
def roundDy (env : FEnv) (f : Fmt) (c : Nat) (x : Dy) (zeroNeg : Bool) : Nat × Stat :=
  if x.m = 0 then (zeroOf f zeroNeg, 0) else roundTo env f c (decide (x.m < 0)) x.m.natAbs x.e

/-- The sign of an exact zero sum (R42): kept when both are -0, else +0, or -0 under RDN. -/
def sumZeroNeg (rm : Nat) (a b : Bool) : Bool := (a && b) || (a != b && rm = 3)

/-! ## Lane arithmetic (R42, R119 to R124) -/

/-- Invalid: the NaN of the operands, with IV. -/
def invalid (env : FEnv) (f : Fmt) (ops : List FV) : Nat × Stat :=
  (nanResult env f (ops.map (fun x => (f, x))), stIV)

/-- A NaN operand stands: the propagated NaN. -/
def nanOut (env : FEnv) (f : Fmt) (ops : List FV) : Nat × Stat :=
  (nanResult env f (ops.map (fun x => (f, x))), snanStat ops)

def infOf (f : Fmt) (neg : Bool) : Nat := (if neg then f.signBit else 0) + f.infBits

/-- a + b. -/
def fAdd (env : FEnv) (f : Fmt) (c : Nat) (a b : FV) : Nat × Stat :=
  if a.isNan || b.isNan then nanOut env f [a, b]
  else match a, b with
    | .inf x, .inf y => if x = y then (infOf f x, 0) else invalid env f [a, b]
    | .inf x, _ => (infOf f x, 0)
    | _, .inf y => (infOf f y, 0)
    | _, _ =>
      let z := if a.isZero && b.isZero then sumZeroNeg env.rm a.neg b.neg else decide (env.rm = 3)
      roundDy env f c (a.dy.add b.dy) z

/-- The value with its sign inverted, NaNs unchanged. -/
def FV.flip : FV → FV
  | .num n m e => .num (!n) m e
  | .inf n => .inf (!n)
  | x => x

/-- a - b; NaN operands keep their order and sign. -/
def fSub (env : FEnv) (f : Fmt) (c : Nat) (a b : FV) : Nat × Stat := fAdd env f c a b.flip

/-- a * b. -/
def fMul (env : FEnv) (f : Fmt) (c : Nat) (a b : FV) : Nat × Stat :=
  if a.isNan || b.isNan then nanOut env f [a, b]
  else
    let sg := a.neg != b.neg
    if a.isInf || b.isInf then (if a.isZero || b.isZero then invalid env f [a, b] else (infOf f sg, 0))
    else roundDy env f c (a.dy.mul b.dy) sg

/-- a * b + d, rounded once; NaN order a, b, d (R119). -/
def fFma (env : FEnv) (f : Fmt) (c : Nat) (a b d : FV) : Nat × Stat :=
  let badMul := (a.isInf && b.isZero) || (a.isZero && b.isInf)
  if a.isNan || b.isNan || d.isNan then
    let r := nanOut env f [a, b, d]
    (r.1, if badMul then r.2 ||| stIV else r.2)
  else if badMul then invalid env f [a, b, d]
  else
    let sg := a.neg != b.neg
    if a.isInf || b.isInf then
      (match d with
       | .inf y => if y = sg then (infOf f sg, 0) else invalid env f [a, b, d]
       | _ => (infOf f sg, 0))
    else match d with
      | .inf y => (infOf f y, 0)
      | _ =>
        let z := if (a.isZero || b.isZero) && d.isZero then sumZeroNeg env.rm sg d.neg else decide (env.rm = 3)
        roundDy env f c ((a.dy.mul b.dy).add d.dy) z

/-- Compare two numbers that are not NaN, infinities included: less than. -/
def fvLt (a b : FV) : Bool :=
  match a, b with
  | .inf x, .inf y => x && !y
  | .inf x, _ => x
  | _, .inf y => !y
  | _, _ => a.dy.lt b.dy

/-- Order with -0 below +0 (R120). -/
def fvBelow (a b : FV) : Bool := fvLt a b || (a.isZero && b.isZero && a.neg && !b.neg)

/-- The bits of a value that is not rounded: the original bits, or a signed zero for a subnormal read under DAZ. -/
def keepBits (f : Fmt) (bits : Nat) (v : FV) : Nat := if v.isZero then zeroOf f v.neg else bits

/-- FMIN, FMAX (numbers win) and FMINN, FMAXN (NaN propagates) (R120). -/
def fMinMax (env : FEnv) (f : Fmt) (isMax nanWins : Bool) (x y : Nat) : Nat × Stat :=
  let a := unpack f env.daz x
  let b := unpack f env.daz y
  let st := snanStat [a, b]
  if a.isNan && b.isNan || (nanWins && (a.isNan || b.isNan)) then nanOut env f [a, b]
  else if a.isNan then (keepBits f y b, st)
  else if b.isNan then (keepBits f x a, st)
  else
    let takeB := if isMax then fvBelow a b else fvBelow b a
    (if takeB then keepBits f y b else keepBits f x a, st)

/-- FSCL: a * 2^n (R119). -/
def fScale (env : FEnv) (f : Fmt) (c : Nat) (x : Nat) (n : Int) : Nat × Stat :=
  let a := unpack f env.daz x
  match a with
  | .nan _ _ _ => nanOut env f [a]
  | .inf s => (infOf f s, 0)
  | .num s m e => if m = 0 then (zeroOf f s, 0) else
      -- a scale far outside the range cannot change the result further
      let lim : Int := 2 * (2 ^ f.eb : Nat) + 200
      roundTo env f c s m (e + (if n > lim then lim else if n < -lim then -lim else n))

/-- FDOT2: a0 b0 + a1 b1 + d into f32, one rounding; NaN order a0, b0, a1, b1, d (R124). -/
def fDot2 (env : FEnv) (src : Fmt) (c : Nat) (a0 b0 a1 b1 d : FV) : Nat × Stat :=
  let bad := fun (a b : FV) => (a.isInf && b.isZero) || (a.isZero && b.isInf)
  let ops : List (Fmt × FV) := [(src, a0), (src, b0), (src, a1), (src, b1), (fF32, d)]
  let anyBad := bad a0 b0 || bad a1 b1
  if ops.any (fun o => o.2.isNan) then
    (nanResult env fF32 ops, (if anyBad then stIV else 0) ||| snanStat (ops.map (·.2)))
  else if anyBad then (fF32.canonNan, stIV)
  else
    let p := fun (a b : FV) => if a.isInf || b.isInf then FV.inf (a.neg != b.neg)
      else let x := a.dy.mul b.dy; FV.num (a.neg != b.neg) x.m.natAbs x.e
    let terms := [p a0 b0, p a1 b1, d]
    let infs := terms.filter FV.isInf
    match infs with
    | i :: rest => if rest.all (fun j => j.neg == i.neg) then (infOf fF32 i.neg, 0) else (fF32.canonNan, stIV)
    | [] =>
      let z := if terms.all FV.isZero then
          (if terms.all FV.neg then true else if terms.any FV.neg then decide (env.rm = 3) else false)
        else decide (env.rm = 3)
      roundDy env fF32 c (terms.foldl (fun acc t => acc.add t.dy) Dy.zero) z

/-! ## Comparison, classes, keys (R121, R122) -/

/-- The eight conditions of FCMP: truth and status. -/
def fCmp (env : FEnv) (f : Fmt) (cc x y : Nat) : Bool × Stat :=
  let a := unpack f env.daz x
  let b := unpack f env.daz y
  let un := a.isNan || b.isNan
  let st := if snanStat [a, b] != 0 || (un && 2 ≤ cc && cc ≤ 5) then stIV else 0
  let lt := !un && fvLt a b
  let gt := !un && fvLt b a
  let eq := !un && !lt && !gt
  ((if cc = 0 then eq else if cc = 1 then !eq else if cc = 2 then lt else if cc = 3 then lt || eq else if cc = 4 then gt
    else if cc = 5 then gt || eq else if cc = 6 then un else !un), st)

/-- The class mask of R122. -/
def fClass (f : Fmt) (x : Nat) : Nat :=
  match unpack f false x with
  | .nan _ q _ => if q then 2 else 1
  | .inf n => if n then 4 else 512
  | .num n m _ =>
    if m = 0 then (if n then 32 else 64)
    else if m < 2 ^ f.mb then (if n then 16 else 128)
    else (if n then 8 else 256)

/-- The total-order key of R122. -/
def fKey (f : Fmt) (x : Nat) : Nat :=
  let w := f.width
  match unpack f false x with
  | .nan _ _ _ => 2 ^ w - 1
  | _ => if bitN x (w - 1) then 2 ^ w - 1 - x % 2 ^ w else x % 2 ^ w + 2 ^ (w - 1)

/-! ## Integers (R43, R123, R125) -/

/-- FRND: to an integral value in the same format (R123). -/
def fRound (env : FEnv) (f : Fmt) (c : Nat) (x : Nat) : Nat × Stat :=
  let a := unpack f env.daz x
  match a with
  | .nan _ _ _ => nanOut env f [a]
  | .inf s => (infOf f s, 0)
  | .num s m e =>
    if m = 0 then (zeroOf f s, 0)
    else
      let (n, exact) := roundInt env.rm s c m e
      if n = 0 then (zeroOf f s, if exact then 0 else stNX)
      else ((roundTo { env with rm := 2, ftz := false } f 0 s n 0).1, if exact then 0 else stNX)

/-- The range of an integer type code (R32, R68): width and signedness. -/
def intType (t : Nat) : Nat × Bool :=
  if t = 1 then (32, true) else if t = 2 then (32, false) else if t = 3 then (64, true) else (64, false)

/-- Float to integer, always saturating (R43). -/
def fToInt (env : FEnv) (f : Fmt) (c : Nat) (x t : Nat) : Nat × Stat :=
  let (w, signed) := intType t
  let lo : Int := if signed then -(2 ^ (w - 1) : Nat) else 0
  let hi : Int := if signed then (2 ^ (w - 1) : Nat) - 1 else (2 ^ w : Nat) - 1
  match unpack f env.daz x with
  | .nan _ _ _ => (0, stIV)
  | .inf s => (wrap w (if s then lo else hi), stIV)
  | .num s m e =>
    -- a tiny source, one below the least normal number of its format, rounds to 0 in every mode (log 85)
    if m ≠ 0 && m < 2 ^ f.mb && e = f.emin - f.mb then (0, stNX)
    else
    let (n, exact) := roundInt env.rm s c m e
    let v : Int := if s then -(n : Int) else n
    if v < lo then (wrap w lo, stIV)
    else if v > hi then (wrap w hi, stIV)
    else (wrap w v, if exact then 0 else stNX)

/-- Integer to float (R125). -/
def intToF (env : FEnv) (f : Fmt) (c : Nat) (x t : Nat) : Nat × Stat :=
  let (w, signed) := intType t
  let v : Int := if signed then sgn w x else (x % 2 ^ w : Nat)
  if v = 0 then (0, 0) else roundTo env f c (decide (v < 0)) v.natAbs 0

/-- Float to float (R43). A subnormal bf16 that DAZ has not flushed widens to a subnormal f32, which FTZ flushes with UF and NX as any tiny result
(R40, log 88). -/
def fToF (env : FEnv) (src dst : Fmt) (c : Nat) (x : Nat) : Nat × Stat := roundFV env src dst c (unpack src env.daz x)

/-! ## Quotients and roots, with a sticky last bit -/

/-- a / b of positive dyadics, cut to at least `bits` bits, with the last bit sticky. -/
def quot (am : Nat) (ae : Int) (bm : Nat) (be : Int) (bits : Nat) : Nat × Int :=
  let k := bits + Nat.log2 bm + 1
  let n := am * 2 ^ k
  (2 * (n / bm) + (if n % bm = 0 then 0 else 1), ae - be - k - 1)

/-- The integer square root, bit by bit from the top. -/
def isqrtGo : Nat → Nat → Nat → Nat
  | 0, _, r => r
  | k + 1, x, r => if (r + 2 ^ k) * (r + 2 ^ k) ≤ x then isqrtGo k x (r + 2 ^ k) else isqrtGo k x r
def isqrt (x : Nat) : Nat := isqrtGo (Nat.log2 x / 2 + 1) x 0

/-- The square root of a positive dyadic with at least `bits` bits and a sticky last bit. -/
def rootOf (m : Nat) (e : Int) (bits : Nat) : Nat × Int :=
  let k := 2 * bits + (if (e - 2 * (bits : Int)) % 2 = 0 then 0 else 1)
  let n := m * 2 ^ k
  let r := isqrt n
  (2 * r + (if r * r = n then 0 else 1), (e - k) / 2 - 1)

/-! ## Block scales (R44) and the codebook (R46, R47) -/

/-- A block scale: sx8 (1) or e8 (2); none for a NaN scale. -/
def scaleVal (kind x : Nat) : Option Dy :=
  if kind = 2 then (if x = 255 then none else some ⟨1, (x : Int) - 127⟩)
  else if x ≥ 0xF8 then none
  else if x / 8 = 0 then some ⟨x % 8, -17⟩
  else some ⟨8 + (x % 8 : Nat), (x / 8 : Nat) - 18⟩

/-- The squared norm class s(c) of a magnitude code (R47). -/
def codeNorm (c : Nat) : Nat := if c = 0 then 0 else if c = 1 then 2 else if c = 2 then 6 else 12

/-- All vectors of `n` codes whose norm classes sum to `t`, in lexicographic order, first element most significant, as table words. -/
def codeVecs : Nat → Nat → Nat → List Nat
  | 0, _, t => if t = 0 then [0] else []
  | n + 1, i, t => (List.range 4).flatMap (fun c =>
      if codeNorm c ≤ t then (codeVecs n (i + 1) (t - codeNorm c)).map (fun r => c * 4 ^ i + r) else [])

/-- Table 0 of the cb2 codebook (R47): vectors by squared norm, ties lexicographic, the first 256. -/
def codebook0 : List Nat := ((List.range 6).flatMap (fun k => codeVecs 8 0 (2 * k))).take 256

/-- The eight weights of a cb2 index through a table entry, doubled so that they are odd integers (R46). -/
def cb2Weights (index entry : Nat) : List Int :=
  (List.range 8).map (fun i =>
    let mag : Int := (2 * bitsN entry (2 * i) 2 + 1 : Nat)
    let neg := if i < 7 then bitN index (i + 1) else popCount 7 (index / 2) % 2 == 1
    if neg then -mag else mag)

/-! ## Sums in a fixed tree (R50) -/

/-- One level of the tree: pairs combine, an odd last one passes up. -/
def treeLevel {A : Type} (op : A → A → A) : List A → List A
  | a :: b :: rest => op a b :: treeLevel op rest
  | l => l

/-- The whole tree; `fuel` levels are enough for 2^fuel values. -/
def treeFold {A : Type} (op : A → A → A) : Nat → List A → List A
  | 0, l => l
  | n + 1, l => match l with
    | [] => []
    | [a] => [a]
    | l => treeFold op n (treeLevel op l)

/-- f32 addition as the fabric does it: RNE, canonical NaN. -/
def addF32 (a b : Nat) : Nat := (fAdd envRne fF32 0 (unpack fF32 false a) (unpack fF32 false b)).1

end Sys2Proof.Machine
end

