-- ==== Sys2Proof/Machine/Access.lean ====
section
/-!
DEFINITION. How the requests of lane accesses are performed (R160 to R169, R285 to R297): order within a group, the L1, the copies
of remote dies, uncached and write-combined memory, atomics (R306 to R315), the deterministic view (R300 to R302), and the
return of data to registers.
-/
namespace Sys2Proof.Machine

/-! ## Requests of an access -/

/-- The access with this id, and the group that holds it. -/
def findAcc (s : State) (id : Nat) : Option (Nat × Access) :=
  s.groups.findSome? (fun e => (e.2.acc.find? (fun a => a.id == id)).map (fun a => (e.1, a)))

/-- A waiting request: `n` bytes of each lane, from byte `off` of its access, in the piece of the line that starts at `piece`. -/
def newReq (line key pol n off piece : Nat) (lanes : List LaneAcc) : Req :=
  { line := line, key := key, pol := pol, lanes := lanes, n := n, off := off, piece := piece, stage := .waiting, data := 0, bad := 0,
    noInstall := false, asked := false }

/-- Two requests are the same piece of one line. -/
def sameReq (r q : Req) : Bool := r.line == q.line && r.key == q.key && r.pol == q.pol && r.piece == q.piece

def setReq (s : State) (g id : Nat) (r : Req) : State :=
  s.modGrp g (fun gr => { gr with acc := gr.acc.map (fun a => if a.id = id then
    { a with reqs := a.reqs.map (fun q => if sameReq q r then r else q) } else a) })

/-- The last request of an access is done: its counter falls, and the acquire of an LDA takes effect, which held later accesses till now (R60,
R173). -/
def closeAcc (s : State) (g id : Nat) : State :=
  match (s.grp g).acc.find? (fun a => a.id == id) with
  | none => s
  | some a =>
    if a.reqs.all (fun r => r.stage == .done) then
      let s := s.modGrp g (fun gr => { gr with acc := gr.acc.filter (fun b => b.id != id) }.kDec a.setk)
      if a.op = .load && a.ord = 1 then acquire s g a.scope else s
    else s

/-- A request is done. -/
def doneReq (s : State) (g id : Nat) (r : Req) : State := closeAcc (setReq s g id { r with stage := .done }) g id

/-- The byte mask of a request within its line, and the sectors it touches. -/
def reqMask (r : Req) : BitVec 256 := r.lanes.foldl (fun m l => m ||| byteMask (l.pa % 256) r.n) 0
def reqSectors (r : Req) : BitVec 4 := r.lanes.foldl (fun m l => m ||| sectorMask (l.pa % 256) r.n) 0

/-- Write the bytes a lane loaded to its registers: whole registers, a narrow load zero-extended (R170); `bad` says which of them
is poisoned (R153). -/
def loadRegs (dst size lane : Nat) (bytes : List Byte) (bad : Nat → Bool) : List RegWr :=
  (List.range ((size + 3) / 4)).map (fun j => .v (dst + j) lane (BitVec.ofNat 32 (ofBytes (((bytes.take size).drop (4 * j)).take 4))) (bad j))

/-! ## Order within a group (R166, R168, R296, R314) -/

def overlap (a n b m : Nat) : Bool := a < b + m && b < a + n

/-- Two lane accesses of one lane meet at a generic address, or are both uncached stores. -/
def laneMeets (a b : Access) (r q : Req) : Bool :=
  r.lanes.any (fun x => q.lanes.any (fun y => x.lane == y.lane &&
    (overlap x.pa r.n y.pa q.n || (r.pol == 1 && q.pol == 1 && a.op != .load && b.op != .load))))

def isAtom (op : MemOp) : Bool := match op with | .atom _ _ _ => true | _ => false

/-- The places of an access in one scratchpad. -/
def spPlaces (s : State) (a : Access) (r : Req) : List Nat :=
  let l := (s.blk (r.line / 16)).loc (r.line % 16)
  r.lanes.flatMap (fun x => (List.range r.n).map (fun i => spPlace l.sb a.swz (x.pa + i)))

/-- An earlier access of the group keeps this request from being performed. -/
def keptBack (s : State) (g : Nat) (a : Access) (r : Req) : Bool :=
  ((s.grp g).acc.takeWhile (fun b => b.id != a.id)).any (fun b => b.reqs.any (fun q =>
    q.stage == .waiting &&
    (match a.space, b.space with
     | .generic, .generic => laneMeets a b r q
     | .scratch, .scratch =>
       q.line == r.line &&
       ((isAtom a.op && isAtom b.op && laneMeets a b r q) ||
        ((s.kernelOf g).fwd && b.op == .store && !isAtom a.op && (spPlaces s a r).any (spPlaces s b q).contains))
     | _, _ => false)))

/-! ## Atomics (R308 to R310) -/

/-- The format of a floating atomic's elements and their number. -/
def atomFmt (code size : Nat) : Fmt × Nat :=
  if code = 1 then (fF16, 2) else if code = 2 then (fBf16, 2) else if size = 8 then (fF64, 1) else (fF32, 1)

/-- One floating step: add, min or max, subnormals kept, canonical NaNs (R308). -/
def atomFloat (code size old b : Nat) : Nat :=
  let (f, n) := atomFmt code size
  let w := f.width
  (List.range n).foldr (fun i acc =>
    let x := bitsN old (w * i) w
    let y := bitsN b (w * i) w
    let z := if code = 3 then (fMinMax envRne f false false x y).1
      else if code = 4 then (fMinMax envRne f true false x y).1
      else (fAdd envRne f 0 (unpack f false x) (unpack f false y)).1
    z % 2 ^ w + 2 ^ w * acc) 0

/-- One integer step (R308). -/
def atomInt (code size old b : Nat) : Nat :=
  let w := 8 * size
  if code = 0 then (old + b) % 2 ^ w
  else if code = 1 then old &&& b
  else if code = 2 then old ||| b
  else if code = 3 then old ^^^ b
  else if code = 4 then (if sgn w b < sgn w old then b else old)
  else if code = 5 then (if sgn w old < sgn w b then b else old)
  else if code = 6 then min old b
  else max old b

/-- The new value of an atomic, or none where a CAS fails and makes no write (R310). -/
def atomNew (float : Bool) (code size old : Nat) (operand : List Byte) : Option Nat :=
  if code = 8 then
    (if old = ofBytes (operand.take size) then some (ofBytes ((operand.drop size).take size)) else none)
  else if code = 9 then some (ofBytes (operand.take size))
  else if float then some (atomFloat code size old (ofBytes (operand.take size)))
  else some (atomInt code size old (ofBytes (operand.take size)))

/-- The lanes of a request in turn, over any memory that can be read and written: the old values and their poison (R308, R311). -/
def atomLanes {M : Type} (float : Bool) (code size : Nat) (rd : M → Nat → List Byte × Bool) (wr : M → Nat → List Byte → M) :
    List LaneAcc → M → M × List (Nat × List Byte × Bool)
  | [], m => (m, [])
  | l :: ls, m =>
    let x := rd m l.pa
    let m' := if x.2 then m
      else match atomNew float code size (ofBytes x.1) l.data with
        | some n => wr m l.pa (toBytes size n)
        | none => m
    let rest := atomLanes float code size rd wr ls m'
    (rest.1, (l.lane, x.1, x.2) :: rest.2)

/-- A returning atomic writes its old values. -/
def atomRegs (a : Access) (olds : List (Nat × List Byte × Bool)) : List RegWr :=
  match a.op with
  | .atom _ _ true => olds.flatMap (fun o => loadRegs a.dst a.size o.1 o.2.1 (fun _ => o.2.2))
  | _ => []

/-! ## The deterministic view (R300, R302) -/

/-- One byte as the last commit round before the group's quantum left it, under the group's own fixed buffered writes. -/
def detByte (s : State) (g pa : Nat) (b : Byte) : Byte :=
  let gr := s.grp g
  let c := s.ctxOf g
  let old := match c.undo.find? (fun u => gr.qRound < u.1 && u.2.1 == pa) with
    | some u => u.2.2
    | none => b
  gr.detBuf.foldl (fun acc w => match w.op with
    | .write bytes => if w.quantum.isSome && w.pa ≤ pa && pa < w.pa + bytes.length then bytes.getD (pa - w.pa) 0 else acc
    | _ => acc) old

/-- The bytes a group reads in a DET context. -/
def detBytes (s : State) (g pa : Nat) (bs : List Byte) : List Byte :=
  (List.range bs.length).map (fun i => detByte s g (pa + i) (bs.getD i 0))

/-- Commit-buffer units of a core, 256 KiB in 16-byte units (R303). -/
def detCap : Nat := 16384

/-- Buffer a write of the current quantum. -/
def detPut (s : State) (g : Nat) (w : DetWr) : State :=
  (s.modGrp g (fun gr => { gr with detBuf := gr.detBuf ++ [w] })).modCore (s.coreOf g) (fun c => { c with units := c.units + w.units })

/-! ## Reading and writing a remote die's copy -/

/-- The copy may serve a read or a write of the masked bytes. -/
def copyReads (l : Line) (mask : BitVec 256) : Bool := l.st != .p || mask &&& ~~~l.dirty == 0
def copyWrites (l : Line) (mask : BitVec 256) : Bool := l.st == .e || l.st == .m || (l.st == .p && mask &&& ~~~l.dirty == 0)

/-- Write bytes in a copy: a write to E makes M, with no message (R267). A whole sector loses its poison. -/
def copyPut (l : Line) (o : Nat) (bytes : List Byte) : Line :=
  { l with
    st := if l.st = .e then .m else l.st
    data := lineWrite l.data o bytes
    dirty := l.dirty ||| byteMask o bytes.length
    bad := (List.range 4).foldl (fun m k => if o ≤ 64 * k && 64 * (k + 1) ≤ o + bytes.length then m &&& ~~~(1#4 <<< k) else m) l.bad }

/-- Ask for what a write to a line needs: ownership, or more of the mask. -/
def askWrite (s : State) (d line key rdh : Nat) (mask : BitVec 256) : State :=
  match mget? s.l2 (atDie d line) with
  | none => request s tReqX d line key rdh mask
  | some l =>
    if l.st = .p then request s tPExt d line key rdh mask
    else request s tUpg d line key rdh mask

/-- The line of a request as its die holds it, where the die is not its home. -/
def remoteCopy (s : State) (g : Nat) (r : Req) : Option Line := mget? s.l2 (atDie (s.dieOf g) r.line)

/-! ## Performing one request -/

/-- HI is set for a group of a class-0 block (R382). -/
def hiOf (s : State) (g : Nat) : Bool := (s.kernelOf g).cls == 0

/-- The line of a request in virtual addresses. -/
def reqVa (r : Req) : Nat := match r.lanes with | [] => 0 | l :: _ => l.va / 256 * 256

/-- A message of an access to the home of its line; TID names the access. -/
def accMsg (s : State) (g typ : Nat) (a : Access) (r : Req) : Msg :=
  { mkMsg typ (s.dieOf g) (homeDie (256 * r.line)) (256 * r.line + r.piece) with hi := hiOf s g, tid := a.id, aux := r.pol + 16 * r.key }

/-- The message of an access about a piece of its line is already on its way, or its answer is. -/
def accOut (s : State) (a : Access) (r : Req) : Bool :=
  s.net.any (fun e => e.2.tid == a.id && e.2.addr == 256 * r.line + r.piece && (0x13 ≤ e.2.typ && e.2.typ ≤ 0x18))

def sendAcc (s : State) (a : Access) (r : Req) (m : Msg) : State := if accOut s a r then s else post s m

/-- A load is performed: what it read is kept until its data returns. -/
def readDone (s : State) (g : Nat) (a : Access) (r : Req) (d : BitVec 2048 × BitVec 4) : State :=
  setReq s g a.id { r with stage := .performed, data := d.1, bad := d.2 }

/-- A core's L1 sectors leave it, the sealed ones apart, and what its outstanding fills of the line read before is not installed. -/
def dropSectors (s : State) (core va line : Nat) (sec : BitVec 4) (sealedToo : Bool) : State :=
  let s := s.modCore (l1Home s core va) (fun c =>
    match mget? c.l1 line with
    | some l =>
      let left := l.sectors &&& ~~~sec
      if l.sealedBy.isSome && !sealedToo then c
      else { c with l1 := if left = 0 then mdel c.l1 line else mput c.l1 line { l with sectors := left } }
    | none => c)
  (l1Cores s core).foldl (fun s c => markFills s c (fun r => r.line == line && (reqSectors r &&& sec) != 0)) s

/-- A load of COH memory is served at an L2 slice. An older L1 copy of its sector leaves, so that no later load of the group goes back behind it
(R286). -/
def readSlice (s : State) (g : Nat) (a : Access) (r : Req) (d : BitVec 2048 × BitVec 4) : State :=
  readDone (dropSectors s (s.coreOf g) (reqVa r) r.line (reqSectors r) false) g a r d

/-- A line as memory holds it (UC, WC). -/
def rawLine (s : State) (r : Req) : BitVec 2048 × BitVec 4 := dramLine s r.line r.key

/-- The RD hint of a request's page (R269, R334). -/
def rdhOf (s : State) (g : Nat) (r : Req) : Nat :=
  match pageOf s (s.grp g).ctx (s.coreOf g) (reqVa r) with
  | .ok e => e.rdh
  | .error _ => 0

/-- A copy is filled for a load that marks it to be replaced first (R160). -/
def firstHint (hint : Nat) : Bool := hint == 1 || hint == 3

/-- A read by a core of the home die (R266, R270, R276): an owner is asked for its data and privatised bytes are merged first; then the home slice
holds the line. -/
def readHome (s : State) (g : Nat) (a : Access) (r : Req) : State :=
  if (mget? s.dir r.line).isSome && otherKey s r.line r.key then collapse s r.line
  else if (mget? s.busy r.line).isSome then s
  else
    let serve :=
      let had := (mget? s.l2 (atDie (homeDie (256 * r.line)) r.line)).isSome
      let s := homeFill s r.line r.key
      let s := if had then s
        else { s with l2 := mupd s.l2 (atDie (homeDie (256 * r.line)) r.line) (fun l => { l with first := firstHint a.hint }) }
      readSlice s g a r (homeData s r.line r.key)
    match mget? s.dir r.line with
    | none => serve
    | some e => match e.st with
      | .em => homeSnoop s r.line e.own
      | .p => reclaim s r.line
      | _ => serve

/-- The L1 holds every sector of a request under its key. -/
def l1Hit (s : State) (g : Nat) (r : Req) : Option L1Line :=
  match mget? (s.core (l1Home s (s.coreOf g) (reqVa r))).l1 r.line with
  | some l => if l.key = r.key && (reqSectors r &&& ~~~l.sectors) == 0 then some l else none
  | none => none

/-- A die-link transfer to the other die of the package waits while that link retrains (R329). -/
def linkHeld (s : State) (d home : Nat) : Bool := d != home && d / 2 == home / 2 && (s.pkg (d / 2)).linkRetrain

def tryLoad (s : State) (g : Nat) (a : Access) (r : Req) : State :=
  let d := s.dieOf g
  let home := homeDie (256 * r.line)
  if s.isDet g then
    if linkHeld s d home then s else
    let cur := if r.pol = 0 then curLine s r.line r.key else rawLine s r
    let data := r.lanes.foldl (fun x l => lineWrite x (l.pa % 256) (detBytes s g l.pa (lineRead cur.1 (l.pa % 256) r.n))) cur.1
    readDone s g a r (data, cur.2)
  else match (if r.pol = 0 && a.hint ≤ 1 then l1Hit s g r else none) with
  | some l => readDone s g a { r with noInstall := true } (l.data, l.bad)
  | none =>
    if r.pol ≠ 0 then
      (if d / 2 = home / 2 then (if linkHeld s d home then s else readDone s g a r (rawLine s r)) else sendAcc s a r (accMsg s g tRdU a r))
    else if d = home then readHome s g a r
    else
      let ask := request s tReqS d r.line r.key (rdhOf s g r) 0
      match mget? s.l2 (atDie d r.line) with
      | some l =>
        if l.key ≠ r.key then collapse s r.line
        else if copyReads l (reqMask r) then readSlice s g a r (l.data, l.bad)
        else ask
      | none => ask

/-- The stored bytes reach the L1 of the core where it holds the line (R160). -/
def storeL1 (s : State) (g : Nat) (r : Req) : State :=
  r.lanes.foldl (fun s l => l1Update s (s.coreOf g) l.va l.pa l.data) s

/-- A write by a core of the home die waits until every remote copy has been removed (R169, R270). -/
def clearHome (s : State) (line : Nat) (k : State → State) : State :=
  if (mget? s.busy line).isSome then s
  else if (mget? s.dir line).isSome then countHomeStore (reclaim s line) (256 * line)
  else k s

def tryStore (s : State) (g : Nat) (a : Access) (r : Req) : State :=
  let d := s.dieOf g
  let home := homeDie (256 * r.line)
  let ask := askWrite s d r.line r.key (rdhOf s g r) (reqMask r)
  if r.pol = 2 || (r.pol = 0 && a.hint = 3) then
    let s := r.lanes.foldl (fun s l => wcMerge s g r.pol r.key l.va l.pa l.data) s
    doneReq (if r.pol = 0 then storeL1 s g r else s) g a.id r
  else if r.pol = 1 then
    (if d / 2 = home / 2 then
      (if linkHeld s d home then s else doneReq (r.lanes.foldl (fun s l => physWrite s 1 l.pa r.key l.data) s) g a.id r)
     else
      let data := r.lanes.foldl (fun x l => lineWrite x (l.pa % 256) l.data) 0
      sendAcc s a r { accMsg s g tWrU a r with mask := reqMask r, data := dataBytes data })
  else if d = home then
    clearHome s r.line (fun s => doneReq (storeL1 (r.lanes.foldl (fun s l => cohWrite s l.pa r.key l.data) s) g r) g a.id r)
  else match mget? s.l2 (atDie d r.line) with
    | some l =>
      if l.key ≠ r.key then collapse s r.line
      else if copyWrites l (reqMask r) then
        let l' := r.lanes.foldl (fun l x => copyPut l (x.pa % 256) x.data) l
        doneReq (storeL1 (setCopy s d r.line l') g r) g a.id r
      else ask
    | none => ask

/-- The predictor entry of a line (R313). -/
def predAt (s : State) (g line : Nat) : Nat := mget (s.core (s.coreOf g)).pred 0 (line % 64)
def predMove (s : State) (g line : Nat) (up : Bool) : State :=
  let n := predAt s g line
  s.modCore (s.coreOf g) (fun c => { c with pred := mset c.pred 0 (line % 64) (if up then min 3 (n + 1) else n - 1) })

/-- The last 32 lines of each slice on which the home performed an atomic, newest first (R313). -/
def noteAtom (l : List (Nat × Nat)) (line die : Nat) : List (Nat × Nat) :=
  let mine := fun (e : Nat × Nat) => sliceOf (256 * e.1) == sliceOf (256 * line)
  let old := l.filter (fun e => e.1 != line)
  (line, die) :: ((old.filter mine).take 31 ++ old.filter (fun e => !mine e))

/-- The die whose atomic the home performed last on a line, as far as it remembers. -/
def lastAtomOf (l : List (Nat × Nat)) (line : Nat) : Option Nat := (l.find? (fun e => e.1 == line)).map (·.2)

/-- An atomic at the home of its line: every other copy removed, then lane by lane. The home remembers the die that performed
last (R313). -/
def atomHome (s : State) (die : Nat) (float : Bool) (code size : Nat) (r : Req) : State × List (Nat × List Byte × Bool) :=
  let s := if r.pol = 0 then collapse s r.line else s
  let x := atomLanes float code size (fun s pa => physRead s r.pol pa size r.key) (fun s pa b => physWrite s r.pol pa r.key b) r.lanes s
  (x.1.modDie (homeDie (256 * r.line)) (fun d => { d with lastAtom := noteAtom d.lastAtom r.line die }), x.2)

/-- An atomic is done: its old values to registers, the touched sectors out of the L1 of the issuing core (R312). -/
def atomDone (s : State) (g : Nat) (a : Access) (r : Req) (olds : List (Nat × List Byte × Bool)) : State :=
  let s := s.modGrp g (fun gr => gr.applyAll (atomRegs a olds))
  doneReq (dropSectors s (s.coreOf g) (reqVa r) r.line (reqSectors r) true) g a.id r

/-- The operands of an atomic as a message carries them: lane, offset and bytes in a row. -/
def atomPayload (r : Req) : List Byte := r.lanes.flatMap (fun l => toBytes 1 l.lane ++ toBytes 1 (l.pa % 256) ++ l.data)

/-- A generic atomic (R306, R313): at the home of its line, or near in the copy its die owns, or far by a message to the home. Host memory
and uncached memory have no near form. -/
def tryAtom (s : State) (g : Nat) (a : Access) (r : Req) (float : Bool) (code : Nat) (owned : Option Bool) : State :=
  let d := s.dieOf g
  let home := homeDie (256 * r.line)
  let mask := reqMask r
  let atHome := fun (s : State) => let x := atomHome s d float code a.size r; atomDone x.1 g a r x.2
  if r.pol ≠ 0 && d / 2 = home / 2 then (if linkHeld s d home then s else atHome s)
  else if d = home then clearHome s r.line atHome
  else if r.pol ≠ 0 || !isHbm (256 * r.line) || (owned.isNone && predAt s g r.line ≥ 2 && !missOut s d r.line) || accOut s a r then
    sendAcc s a r { accMsg s g tAtomF a r with data := atomPayload r, mask := BitVec.ofNat 256 (a.size + 16 * code + (if float then 256 else 0)) }
  else
    let ask := askWrite s d r.line r.key (rdhOf s g r) mask
    match mget? s.l2 (atDie d r.line) with
    | some l =>
      if l.key ≠ r.key then collapse s r.line
      else if copyWrites l mask then
        let x := atomLanes float code a.size
          (fun (l : Line) pa => (lineRead l.data (pa % 256) a.size, (l.bad &&& sectorMask (pa % 256) a.size) != 0))
          (fun l pa b => copyPut l (pa % 256) b) r.lanes l
        let s := setCopy s d r.line x.1
        atomDone (match owned with
          | some up => if up then predMove s g r.line true else s
          | none => if l.st = .p then s else predMove s g r.line false) g a r x.2
      else ask
    | none => ask

/-- A scratchpad request: performed whole, in lane order; a load writes its registers at once, granule by granule (R153). -/
def tryScratch (s : State) (g : Nat) (a : Access) (r : Req) : State :=
  let b := r.line / 16
  let rank := r.line % 16
  match a.op with
  | .load =>
    let l := (s.blk b).loc rank
    let wr := r.lanes.flatMap (fun x => loadRegs a.dst r.n x.lane (spRead l a.swz x.pa r.n).1
      (fun j => (spRead l a.swz (x.pa + 4 * j) (min 4 r.n)).2))
    doneReq (s.modGrp g (fun gr => gr.applyAll wr)) g a.id r
  | .store => doneReq (r.lanes.foldl (fun s x => spStore s b rank a.swz x.pa x.data) s) g a.id r
  | .atom float code _ =>
    let x := atomLanes float code a.size (fun s pa => spRead ((s.blk b).loc rank) 0 pa a.size)
      (fun s pa bytes => spStore s b rank 0 pa bytes) r.lanes s
    doneReq (x.1.modGrp g (fun gr => gr.applyAll (atomRegs a x.2))) g a.id r

/-- Perform one waiting request, or send what it needs. `owned` says that ownership has just arrived, and whether an owner was
snooped for it. -/
def tryReq (s : State) (g : Nat) (a : Access) (r : Req) (owned : Option Bool) : State :=
  if r.stage ≠ .waiting || keptBack s g a r then s
  else match a.space with
    | .scratch => tryScratch s g a r
    | .generic =>
      -- the group's own write-combining bytes of the line go first (R166)
      let s := wcDrain s (s.grp g).part (fun b => b.g == g && b.line == r.line && !(a.op == .store && (r.pol == 2 || a.hint == 3)))
      match a.op with
      | .load => tryLoad s g a r
      | .store => tryStore s g a r
      -- in a DET context the ordered-append unit performs atomics (R318)
      | .atom float code _ => if s.isDet g then s else tryAtom s g a r float code owned

/-! ## Data returns -/

/-- The lines a core's L1 can hold: what scratchpad leaves of its 1 MiB (R140, R146). -/
def l1Cap (c : Core) : Nat := (2 ^ 20 - c.split) / 256

/-- Make room for one more line in a core's L1: a line marked to be replaced first leaves, else the lowest; a sealed line leaves only as R281
says (log 82). None when every line is sealed. -/
def l1Room (c : Core) : Option Core :=
  if c.l1.length < l1Cap c then some c
  else
    let free := c.l1.filter (fun e => e.2.sealedBy.isNone)
    match free.find? (fun e => e.2.first) with
    | some e => some { c with l1 := mdel c.l1 e.1 }
    | none => free.head?.map (fun e => { c with l1 := mdel c.l1 e.1 })

/-- Put a sector of a line in a core's L1. A line is sealed as a whole, so an ordinary line gives way to a sealed one (R281). -/
def l1Put (c : Core) (line : Nat) (new : L1Line) : Core :=
  match mget? c.l1 line with
  | some l =>
    if l.key = new.key && l.sealedBy.isSome = new.sealedBy.isSome then
      { c with l1 := mput c.l1 line { l with
          sectors := l.sectors ||| new.sectors
          data := (List.range 256).foldl (fun d i => if new.sectors.getLsbD (i / 64) then lineSet d i (lineByte new.data i) else d) l.data
          bad := (l.bad &&& ~~~new.sectors) ||| new.bad } }
    else if l.key = new.key && l.sealedBy.isSome then c
    else { c with l1 := mput c.l1 line new }
  | none => match l1Room c with
    | some c => { c with l1 := mput c.l1 line new }
    | none => c

/-- Install a returned load in the L1 (R160, R163, R165, R281). -/
def installL1 (s : State) (g : Nat) (a : Access) (r : Req) : State :=
  if r.noInstall || r.pol ≠ 0 || a.hint ≥ 2 || a.op ≠ .load || s.isDet g then s
  else
    let sec := reqSectors r
    let sealer := match sealedAt s (s.grp g).ctx (reqVa r) with
      | some e => if e.draining then none else some g
      | none => none
    s.modCore (l1Home s (s.coreOf g) (reqVa r)) (fun c => l1Put c r.line
      { sectors := sec, data := r.data, bad := r.bad &&& sec, key := r.key, va := reqVa r, first := a.hint == 1, sealedBy := sealer })

/-- The registers that a request's part of a lane's access goes to: the bytes from `off` on, up to the access's own size. -/
def partRegs (a : Access) (r : Req) (lane : Nat) (bytes : List Byte) (bad : Bool) : List RegWr :=
  loadRegs (a.dst + r.off / 4) (min r.n (a.size - r.off)) lane bytes (fun _ => bad)

/-- A performed load writes its registers and is done (R165, R170, R174). -/
def returnLoad (s : State) (g : Nat) (a : Access) (r : Req) : State :=
  let rd := fun (l : LaneAcc) => lineRead r.data (l.pa % 256) r.n
  let wr := r.lanes.flatMap (fun l => partRegs a r l.lane (rd l) ((r.bad &&& sectorMask (l.pa % 256) r.n) != 0))
  let s := installL1 s g a r
  let s := s.modGrp g (fun gr => gr.applyAll wr)
  let s := if a.ord = 3 then r.lanes.foldl (fun s l =>
      acquireRange s g a.scope (ofBytes (((rd l).drop 8).take 8)) (ofBytes (((rd l).drop 16).take 8))) s
    else s
  doneReq s g a.id r

/-- A request of a group by access id and position. -/
def reqAt (s : State) (g aid i : Nat) : Option (Access × Req) :=
  match (s.grp g).acc.find? (fun a => a.id == aid) with
  | some a => (a.reqs[i]?).map (fun r => (a, r))
  | none => none

/-- MEM_ACCESS_COMPLETE: a request is performed at its point (R165, R169, R170). -/
def execMemAccessComplete (g a r : Nat) (s : State) : Out :=
  match reqAt s g a r with
  | some (x, q) => .next (tryReq s g x q none)
  | none => .next s

/-- LOAD_FILL_RETURN: the data of a performed load returns (R165). -/
def execLoadFillReturn (g a r : Nat) (s : State) : Out :=
  match reqAt s g a r with
  | some (x, q) => if q.stage = .performed then .next (returnLoad s g x q) else .next s
  | none => .next s

/-! ## Data messages (R267, R270, R275, R277) -/

/-- The waiting requests of a die's groups for a line. -/
def waitingFor (s : State) (die line : Nat) : List (Nat × Nat × Nat) :=
  s.groups.flatMap (fun e =>
    if s.dieOf e.1 = die then e.2.acc.flatMap (fun a => (List.range a.reqs.length).filterMap (fun i => match a.reqs[i]? with
      | some r => if r.line = line && r.stage = .waiting && a.space = .generic && r.pol = 0 then some (e.1, a.id, i) else none
      | none => none)) else [])

/-- What the requests that wait for a line and pass can do now, they do. -/
def settleLine (s : State) (die line : Nat) (owned : Option Bool) (p : Access → Req → Bool) : State :=
  (waitingFor s die line).foldl (fun s w => match reqAt s w.1 w.2.1 w.2.2 with
    | some (a, r) => if p a r then tryReq s w.1 a r owned else s
    | none => s) s

/-- Every load that waits for a line at a die marks it to be replaced first (R160). -/
def firstFor (s : State) (die line : Nat) : Bool :=
  let ws := (waitingFor s die line).filterMap (fun w => reqAt s w.1 w.2.1 w.2.2)
  !ws.isEmpty && ws.all (fun x => x.1.op == .load && firstHint x.1.hint)

/-- Install a copy at a die, an older line leaving first when one is named; with no free victim buffer the data waits (R271). -/
def withVictim (s : State) (d : Nat) (vic : Option Nat) (k : State → Out) : Out :=
  match vic with
  | none => k s
  | some v =>
    if homeDie (256 * v) = d || (mget? s.l2 (atDie d v)).isNone || missOut s d v then k s
    else
      let s' := evictCopy s d v
      if (mget? s'.l2 (atDie d v)).isNone then k s' else .next s

/-- The copy that data brings to its die. -/
def copyOf (s : State) (m : Msg) (st : LineSt) (dirty : BitVec 256) : Line :=
  { st := st, data := msgLine m, dirty := dirty, bad := msgBad m, key := msgKey m, first := firstFor s m.dst (lineOf m.addr) }

def execMsgDatas (id : Nat) (vic : Option Nat) (s : State) : Out :=
  match arriving s id tDataS with
  | none => .next s
  | some m => withVictim s m.dst vic (fun s =>
      let s := setCopy (taken s id m) m.dst (lineOf m.addr) (copyOf s m .s 0)
      .next (settleLine s m.dst (lineOf m.addr) none (fun a _ => a.op == .load)))

/-- DataSN: the loads for which the home read the line take the data, and nothing stays (R277). A load that came later asks again (R290). -/
def execMsgDatasn (id : Nat) (s : State) : Out :=
  match arriving s id tDataSN with
  | none => .next s
  | some m =>
    let line := lineOf m.addr
    let s := taken s id m
    let kept := mget? s.l2 (atDie m.dst line)
    let s := settleLine (setCopy s m.dst line (copyOf s m .s 0)) m.dst line none (fun a r => a.op == .load && r.asked)
    .next { s with l2 := match kept with
      | some l => mput s.l2 (atDie m.dst line) l
      | none => mdel s.l2 (atDie m.dst line) }

/-- DataE: ownership, with the data omitted where the die still holds the line (R270). -/
def execMsgDatae (id : Nat) (vic : Option Nat) (s : State) : Out :=
  match arriving s id tDataE with
  | none => .next s
  | some m => withVictim s m.dst vic (fun s =>
      let line := lineOf m.addr
      let s := taken s id m
      let s := if m.data.isEmpty then
          (match mget? s.l2 (atDie m.dst line) with
           | some l => setCopy s m.dst line { l with st := if l.dirty = 0 then .e else .m }
           | none => s)
        else setCopy s m.dst line (copyOf s m .e 0)
      .next (settleLine s m.dst line (some m.last) (fun _ _ => true)))

/-- DataP: the line privatised with a mask, or the mask of a holder extended (R275, R276). -/
def execMsgDatap (id : Nat) (vic : Option Nat) (s : State) : Out :=
  match arriving s id tDataP with
  | none => .next s
  | some m => withVictim s m.dst vic (fun s =>
      let line := lineOf m.addr
      let s := taken s id m
      let s := if m.data.isEmpty then
          (match mget? s.l2 (atDie m.dst line) with
           | some l => setCopy s m.dst line { l with st := .p, dirty := m.mask }
           | none => s)
        else setCopy s m.dst line (copyOf s m .p m.mask)
      .next (settleLine s m.dst line (some m.last) (fun _ _ => true)))

/-! ## Far atomics and uncached accesses of other packages (R313, R383) -/

/-- The lanes of an AtomF payload: three numbers of the operand follow from its size and code. -/
def payloadLanes (base n : Nat) : Nat → List Byte → List LaneAcc
  | 0, _ => []
  | k + 1, bs =>
    { lane := ((bs.getD 0 0).toNat), va := 0, pa := base + (bs.getD 1 0).toNat, data := (bs.drop 2).take n, bad := false } ::
      payloadLanes base n k (bs.drop (2 + n))

/-- Old values as AtomR carries them: lane, poison, bytes. -/
def oldPayload (olds : List (Nat × List Byte × Bool)) : List Byte :=
  olds.flatMap (fun o => toBytes 1 o.1 ++ toBytes 1 (if o.2.2 then 1 else 0) ++ o.2.1)

def payloadOlds (n : Nat) : Nat → List Byte → List (Nat × List Byte × Bool)
  | 0, _ => []
  | k + 1, bs => ((bs.getD 0 0).toNat, (bs.drop 2).take n, (bs.getD 1 0) != 0) :: payloadOlds n k (bs.drop (2 + n))

/-- An answer to a message of an access. -/
def replyMsg (m : Msg) (typ : Nat) : Msg := { mkMsg typ m.dst m.src m.addr with hi := m.hi, tid := m.tid, aux := m.aux }

/-- AtomF at the home: the atomic is performed there and AtomR returns the old values and CONT (R313). -/
def execMsgAtomf (id : Nat) (s : State) : Out :=
  match arriving s id tAtomF with
  | none => .next s
  | some m =>
    let line := lineOf m.addr
    if m.aux % 16 = 0 && (mget? s.busy line).isSome then .next s
    else if m.aux % 16 = 0 && (mget? s.dir line).isSome then .next (countHomeStore (reclaim s line) m.addr)
    else
      let f := m.mask.toNat
      let size := f % 16
      let code := f / 16 % 16
      let n := if code = 8 then 2 * size else size
      let lanes := payloadLanes (m.addr / 256 * 256) n (m.data.length / (2 + n)) m.data
      let r := newReq line (m.aux / 16) (m.aux % 16) size 0 0 lanes
      let cont := match lastAtomOf (s.die m.dst).lastAtom r.line with
        | some d => d != m.src
        | none => false
      let x := atomHome (taken s id m) m.src (f / 256 % 2 = 1) code size r
      .next (post x.1 { replyMsg m tAtomR with data := oldPayload x.2, last := cont })

/-- AtomR: the old values reach their registers; CONT moves the predictor. -/
def execMsgAtomr (id : Nat) (s : State) : Out :=
  match arriving s id tAtomR with
  | none => .next s
  | some m =>
    let s := taken s id m
    match findAcc s m.tid with
    | none => .next s
    | some (g, a) => match a.reqs.find? (fun r => 256 * r.line + r.piece == m.addr && r.stage == .waiting) with
      | none => .next s
      | some r =>
        let olds := payloadOlds a.size (m.data.length / (2 + a.size)) m.data
        .next (atomDone (if m.last then s else predMove s g r.line false) g a r olds)

def execMsgRdu (id : Nat) (s : State) : Out :=
  match arriving s id tRdU with
  | none => .next s
  | some m =>
    let d := dramLine s (lineOf m.addr) (m.aux / 16)
    .next (post (taken s id m) { replyMsg m tRdUR with data := dataBytes d.1, mask := BitVec.ofNat 256 d.2.toNat })

def execMsgRdur (id : Nat) (s : State) : Out :=
  match arriving s id tRdUR with
  | none => .next s
  | some m =>
    let s := taken s id m
    match findAcc s m.tid with
    | none => .next s
    | some (g, a) => match a.reqs.find? (fun r => 256 * r.line + r.piece == m.addr && r.stage == .waiting) with
      | none => .next s
      | some r => .next (readDone s g a r (msgLine m, BitVec.ofNat 4 m.mask.toNat))

/-- WrU: the masked bytes are written in memory at the home die. -/
def execMsgWru (id : Nat) (s : State) : Out :=
  match arriving s id tWrU with
  | none => .next s
  | some m =>
    let base := m.addr / 256 * 256
    let s := dramWriteAll (taken s id m) (m.aux / 16)
      ((List.range 256).filterMap (fun i => if m.mask.getLsbD i then some (base + i, m.data.getD i 0) else none))
    .next (post s (replyMsg m tWrUA))

def execMsgWrua (id : Nat) (s : State) : Out :=
  match arriving s id tWrUA with
  | none => .next s
  | some m =>
    let s := taken s id m
    match findAcc s m.tid with
    | none => .next s
    | some (g, a) => match a.reqs.find? (fun r => 256 * r.line + r.piece == m.addr && r.stage == .waiting) with
      | none => .next s
      | some r => .next (doneReq s g a.id r)

/-- WC_BUFFER_TIMEOUT: 4,096 cycles after its first write a buffer drains (R162). -/
def execWcBufferTimeout (p n : Nat) (s : State) : Out :=
  match (s.part p).wc[n]? with
  | some b => if b.first + 4096 ≤ s.clock then .next (wcDrain s p (fun x => x.g == b.g && x.line == b.line)) else .next s
  | none => .next s

end Sys2Proof.Machine
end

