-- ==== Sys2Proof/Decode.lean ====
section
/-!
DEFINITION. From 64-bit instruction words to instructions and back (R51 to R72), with the encoding rules each instruction
chapter adds; the rules of chains and prefixes (R55, R67, R129).
-/
namespace Sys2Proof

/-- Why a word is no instruction. Every one of them is the fault ILLEGAL_ENCODING (R53, R72). -/
inductive DecodeError where
  /-- the opcode is reserved (R72) -/
  | reservedOpcode
  /-- opcode 0xFF (R72) -/
  | permanentlyIllegal
  /-- SETK 13 to 15 (R57) -/
  | reservedSetk
  /-- a type the instruction does not accept, or T = 0xF (R62, R72) -/
  | reservedType
  /-- SCOPE 7, or a scope the instruction does not accept (R8, R307) -/
  | reservedScope
  /-- RND 7 (R37) -/
  | reservedRnd
  /-- SZ 7, or a size the instruction does not accept (R65) -/
  | reservedSize
  /-- an ORD value the instruction does not accept (R65) -/
  | reservedOrd
  /-- a frame base that is not a multiple of 16 (R67) -/
  | frameBase
  /-- a reserved ENG code (R67) -/
  | reservedEng
  /-- a modifier, function or operation code the chapter marks reserved (R72) -/
  | reservedCode
  /-- a nonzero field the instruction does not use (R61) -/
  | unusedField
  /-- a register number that breaks its pair or alignment rule (R11, R65) -/
  | badRegister
  /-- a guard the instruction does not accept -/
  | badGuard
  /-- an immediate the instruction does not accept (R62) -/
  | badImmediate
  /-- PFX control fields (R67) -/
  | pfxControl
  /-- the row is no instruction word (an event, a message, a service, a list command) -/
  | notAWord
  deriving DecidableEq, Repr

/-! ## Fields -/

/-- `n` bits of the word from bit `lo`. -/
def fld (w : W64) (lo n : Nat) : BitVec n := w.extractLsb' lo n

def ctlOf (w : W64) : Ctl := ⟨fld w 63 1, fld w 60 3, fld w 48 12, fld w 44 4⟩
def fmtNOP (w : W64) : FmtNOP := ⟨fld w 0 36⟩
def fmtPFX (w : W64) : FmtPFX := ⟨fld w 33 3, fld w 32 1, fld w 29 3, fld w 28 1, fld w 20 8, fld w 0 20⟩
def fmtV3 (w : W64) : FmtV3 := ⟨fld w 32 4, fld w 24 8, fld w 16 8, fld w 8 8, fld w 4 4, fld w 0 4⟩
def fmtVI (w : W64) : FmtVI := ⟨fld w 32 4, fld w 24 8, fld w 16 8, fld w 0 16⟩
def fmtS3 (w : W64) : FmtS3 := ⟨fld w 32 4, fld w 24 8, fld w 16 8, fld w 8 8, fld w 0 8⟩
def fmtSI (w : W64) : FmtSI := ⟨fld w 32 4, fld w 24 8, fld w 16 8, fld w 0 16⟩
def fmtBR (w : W64) : FmtBR := ⟨fld w 32 4, fld w 8 24, fld w 0 8⟩
def fmtVB (w : W64) : FmtVB := ⟨fld w 32 4, fld w 16 16, fld w 0 16⟩
def fmtM (w : W64) : FmtM := ⟨fld w 32 4, fld w 24 8, fld w 16 8, fld w 13 3, fld w 10 3, fld w 8 2, fld w 0 8⟩
def fmtMO (w : W64) : FmtMO := ⟨fld w 32 4, fld w 24 8, fld w 16 8, fld w 13 3, fld w 10 3, fld w 8 2, fld w 0 8⟩
def fmtX (w : W64) : FmtX := ⟨fld w 32 4, fld w 24 8, fld w 16 8, fld w 8 8, fld w 4 4, fld w 1 3, fld w 0 1⟩
def fmtA (w : W64) : FmtA := ⟨fld w 32 4, fld w 24 8, fld w 16 8, fld w 12 4, fld w 8 4, fld w 0 8⟩

/-! ## Legality: the checks of R72 and of the instruction chapters -/

/-- A check that must hold, and the name of what is wrong when it does not. -/
def need (ok : Bool) (e : DecodeError) : Option DecodeError := if ok then none else some e

/-- The first failed check. -/
def firstErr : List (Option DecodeError) → Option DecodeError
  | [] => none
  | some e :: _ => some e
  | none :: l => firstErr l

/-- SETK 13 to 15 are reserved (R57). -/
def chkCtl (c : Ctl) : Option DecodeError := need (c.setk.toNat ≤ 12) .reservedSetk

def isEven (r : BitVec 8) : Bool := r.toNat % 2 == 0
/-- The immediate flag of V3 (R62). -/
def FmtV3.imm (f : FmtV3) : Bool := f.m.toNat ≥ 8
/-- M[2:0]. -/
def FmtV3.mode (f : FmtV3) : Nat := f.m.toNat % 8
/-- A 64-bit type of R68. -/
def wideT (t : Nat) : Bool := t == 3 || t == 4 || t == 9

/-- FN of S3 (R87): I, W, S, SUB. -/
def FmtS3.i (f : FmtS3) : Bool := f.fn.toNat ≥ 128
def FmtS3.w (f : FmtS3) : Bool := f.fn.toNat / 64 % 2 == 1
def FmtS3.s (f : FmtS3) : Bool := f.fn.toNat / 32 % 2 == 1
def FmtS3.sub (f : FmtS3) : Nat := f.fn.toNat % 32

/-- Opcodes 0x10, 0x13 to 0x22, 0x26, 0x27 (R88): which of I and S the instruction accepts, whether it reads gB, and whether
W names only the source. -/
def chkS3 (f : FmtS3) (takesB takesS wideDst : Bool) : Option DecodeError := firstErr [
  need (takesB || !f.i) .unusedField, need (takesS || !f.s) .unusedField, need (f.sub == 0) .unusedField,
  need (takesB || f.b == 0) .unusedField,
  need (!f.w || (isEven f.a && (!wideDst || isEven f.d) && (!takesB || f.i || isEven f.b))) .badRegister]

/-- V3 of a plain lane operation: accepted types, whether it reads B, and whether it takes an imm8. M[2:0] is checked apart. -/
def chkV3 (f : FmtV3) (types : List Nat) (takesB takesImm dReg : Bool) : Option DecodeError :=
  let t := f.t.toNat
  firstErr [need (types.contains t) .reservedType,
    need (takesB || f.b == 0) .unusedField,
    need (takesImm || !f.imm) (if takesB then .badImmediate else .unusedField),
    need (!f.imm || !(t == 0xC || t == 0xD || t == 0xE)) .badImmediate,
    need (!wideT t || ((!dReg || isEven f.d) && isEven f.a && (!takesB || f.imm || isEven f.b))) .badRegister]

/-- M[2:0] is not used. -/
def chkMode0 (f : FmtV3) : Option DecodeError := need (f.mode == 0) .unusedField

def tInt : List Nat := [0, 1, 2, 3, 4, 5, 6, 7]
def tFlt : List Nat := [8, 9, 0xA, 0xB]
def t32or64 : List Nat := [0, 1, 2, 3, 4]
def tAll : List Nat := [0, 1, 2, 3, 4, 5, 6, 7, 8, 9, 0xA, 0xB, 0xC, 0xD, 0xE]

def chkLane2 (f : FmtV3) (types : List Nat) : Option DecodeError := firstErr [chkV3 f types true true true, chkMode0 f]
def chkLane1 (f : FmtV3) (types : List Nat) : Option DecodeError := firstErr [chkV3 f types false false true, chkMode0 f]
def chkLaneReg (f : FmtV3) (types : List Nat) : Option DecodeError := firstErr [chkV3 f types true false true, chkMode0 f]

/-- VMOV: the source is vA, or the imm8 in B (R113); the field of the other form is not used. -/
def chkVmov (f : FmtV3) : Option DecodeError := firstErr [chkLane2 f tAll,
  need (if f.imm then f.a == 0 else f.b == 0) .unusedField]

/-- A destination field that names a predicate: bits [7:3] are zero. -/
def chkPred (r : BitVec 8) : Option DecodeError := need (r.toNat < 8) .unusedField

/-- FCVT (R125): the allowed (destination, source) pairs. -/
def fcvtPair (d s : Nat) : Bool :=
  let fl := fun x => x == 8 || x == 9 || x == 0xA || x == 0xB
  let it := fun x => x == 1 || x == 2 || x == 3 || x == 4
  (fl d && fl s && d != s) || (it s && (d == 8 || d == 9)) || ((s == 8 || s == 9) && it d)

def chkFcvt (f : FmtV3) : Option DecodeError :=
  let d := f.t.toNat
  let s := f.b.toNat % 16
  firstErr [need (f.b.toNat < 16) .unusedField, need (!f.imm) .unusedField, need (f.mode != 7) .reservedRnd,
    need (fcvtPair d s) .reservedType, need (!wideT d || isEven f.d) .badRegister, need (!wideT s || isEven f.a) .badRegister]

/-- FPACK (R126). -/
def chkFpack (f : FmtV3) : Option DecodeError :=
  let t := f.t.toNat
  firstErr [need ([0xA, 0xB, 0xC, 0xD, 0xE].contains t) .reservedType,
    need (f.mode < (if t == 0xE then 4 else if t == 0xC || t == 0xD then 2 else 1)) .reservedCode]

/-- FUNPK (R126). -/
def chkFunpk (f : FmtV3) : Option DecodeError :=
  let t := f.t.toNat
  firstErr [need ([0xA, 0xB, 0xC, 0xD, 0xE].contains t) .reservedType, need (f.b == 0) .unusedField,
    need (!f.imm) .unusedField, need (f.mode < (if t == 0xE then 8 else if t == 0xC || t == 0xD then 4 else 2)) .reservedCode]

/-- LRED operations and their types (R134). -/
def lredTypes (op : Nat) : List Nat :=
  if op ≤ 2 then [1, 2, 3, 4, 8, 9] else if op ≤ 5 then [0, 1, 2, 3, 4] else if op == 6 then [0xA, 0xB] else []

def chkLred (f : FmtV3) : Option DecodeError :=
  let t := f.t.toNat
  firstErr [need (!f.imm) .unusedField, need (f.mode != 7) .reservedCode, need ((lredTypes f.mode).contains t) .reservedType,
    need (f.mode == 6 || f.b == 0) .unusedField, need (!wideT t || (isEven f.d && isEven f.a)) .badRegister]

def chkLscan (f : FmtV3) : Option DecodeError :=
  let t := f.t.toNat
  firstErr [need (!f.imm) .unusedField, need (f.mode ≤ 5) .reservedCode, need ((lredTypes f.mode).contains t) .reservedType,
    need (f.b.toNat < 2) .unusedField, need (!wideT t || (isEven f.d && isEven f.a)) .badRegister]

/-- A type of 32 bits (T = 0) or a pair (T = 3), with the named fields even for the pair (R130). -/
def chkMove (f : FmtV3) (regs : List (BitVec 8)) : Option DecodeError := firstErr [
  need (f.t == 0 || f.t == 3) .reservedType, need (f.t == 0 || regs.all isEven) .badRegister]

def chkLshf (f : FmtV3) : Option DecodeError := firstErr [
  need (f.t == 0 || (8 ≤ f.t.toNat && f.t.toNat ≤ 0xE)) .reservedType, need (f.mode < 4) .unusedField]

def chkLbc (f : FmtV3) : Option DecodeError := firstErr [
  chkMove f (if f.imm then [f.d, f.a] else [f.d, f.a, f.b]), chkMode0 f, need (!f.imm || f.b.toNat < 32) .badImmediate]

def chkLvote (f : FmtV3) (mode : Nat) : Option DecodeError := firstErr [
  need (f.t == 0) .reservedType, need (f.b == 0) .unusedField, need (f.a.toNat < 16) .unusedField,
  need (f.m.toNat == mode) .reservedCode]

/-- XSEND and XRECV (R138): the slot is an imm8 0 to 15. -/
def chkXfer (f : FmtV3) (send : Bool) : Option DecodeError := firstErr [
  need (f.t == 0) .reservedType, need f.imm .badImmediate, need (f.b.toNat < 16) .badImmediate,
  need (if send then f.d == 0 else f.a == 0) .unusedField, need (!send || f.gd == 7) .badGuard]

/-- The data register of an M-format instruction is aligned to its size (R65). -/
def dataAligned (r : BitVec 8) (sz : Nat) : Bool := sz < 3 || r.toNat % (2 ^ (sz - 2)) == 0

def chkMem (f : FmtM) (generic : Bool) : Option DecodeError := firstErr [
  need (f.sz != 7) .reservedSize,
  need (if generic then f.swz == 0 else f.hint == 0) .unusedField,
  need (!generic || isEven f.addr) .badRegister, need (dataAligned f.data f.sz.toNat) .badRegister]

def chkOrdered (f : FmtMO) (ords : List Nat) : Option DecodeError := firstErr [
  need (f.scope != 7) .reservedScope, need (f.sz.toNat ≤ 5) .reservedSize, need (ords.contains f.ord.toNat) .reservedOrd,
  need (isEven f.addr) .badRegister, need (dataAligned f.data f.sz.toNat) .badRegister]

def chkFence (f : FmtMO) : Option DecodeError := firstErr [
  need (f.scope != 7) .reservedScope, need (f.ord != 0) .reservedOrd, need (f.data.toNat < 2) .unusedField,
  need (f.addr == 0) .unusedField, need (f.sz == 0) .unusedField, need (f.off == 0) .unusedField]

def chkPrf (f : FmtM) : Option DecodeError := firstErr [
  need (f.sz != 7) .reservedSize, need (f.swz == 0) .unusedField, need (f.data.toNat < 2) .unusedField,
  need (isEven f.addr) .badRegister]

def chkWaita (f : FmtM) (sp : Bool) : Option DecodeError := firstErr [
  need (f.hint == (if sp then 1 else 0)) .reservedCode, need (f.sz == 2 || f.sz == 3) .reservedSize,
  need (f.swz == 0) .unusedField, need (sp || isEven f.addr) .badRegister, need (f.sz == 2 || isEven f.data) .badRegister]

/-- CINV and CWB (R177): the one accepted HINT. -/
def chkMaint (f : FmtM) (hint : Nat) : Option DecodeError := firstErr [
  need (f.sz == 0) .unusedField, need (f.swz == 0) .unusedField, need (f.hint.toNat == hint) .reservedCode,
  need (isEven f.addr) .badRegister]

/-- The group-level M instructions of the barriers, the cluster and the die: guard p7, no swizzle. -/
def chkGrpM (f : FmtM) (sz : Nat) : Option DecodeError := firstErr [
  need (f.gd == 7) .badGuard, need (f.swz == 0) .unusedField, need (f.sz.toNat == sz) .unusedField]

/-- NBARV, NBSYNC, CBARV, CBSYNC (R189, R239): `ids` bounds OFF8. -/
def chkArrive (f : FmtM) (ids : Nat) : Option DecodeError := firstErr [chkGrpM f 0,
  need (f.addr == 0) .unusedField, need (f.hint.toNat < 2) .reservedCode, need (f.hint == 0 || f.data == 0) .unusedField,
  need (f.off.toNat < ids) .unusedField]

def chkNbwait (f : FmtM) : Option DecodeError := firstErr [chkGrpM f 0,
  need (f.addr == 0) .unusedField, need (f.hint == 0) .reservedCode, need (f.data == 0) .unusedField,
  need (f.off.toNat < 32) .unusedField]

/-- TBINIT to TBINV (R196): the accepted HINT values, and whether DATA is used for each. -/
def chkTb (f : FmtM) (hints : List Nat) (dataUsed : Bool) : Option DecodeError := firstErr [chkGrpM f 3,
  need (hints.contains f.hint.toNat) .reservedCode, need (dataUsed || f.data == 0) .unusedField]

def chkPhadv (f : FmtM) : Option DecodeError := firstErr [chkGrpM f 0,
  need (f.addr == 0) .unusedField, need (f.hint == 0) .reservedCode, need (f.data == 0) .unusedField,
  need (f.off.toNat < 16) .unusedField]

def chkPhwait (f : FmtM) (hint : Nat) : Option DecodeError := firstErr [chkGrpM f 0,
  need (f.addr == 0) .unusedField, need (f.hint.toNat == hint) .reservedCode, need (f.off == 0) .unusedField]

/-- SEAL, REUSE, DROP, RDHINT (R282). -/
def chkDie (f : FmtM) (hint : Nat) (dataUsed dataEven : Bool) : Option DecodeError := firstErr [chkGrpM f 0,
  need (f.hint.toNat == hint) .reservedCode, need (dataUsed || f.data == 0) .unusedField,
  need (!dataEven || isEven f.data) .badRegister, need (isEven f.addr) .badRegister]

/-- The space of an atomic and the scopes it accepts (R307). -/
def chkAtomSpace (f : FmtX) (sp : Bool) : Option DecodeError := firstErr [
  need (f.scope != 7) .reservedScope, need (!sp || f.scope.toNat ≤ 1) .reservedScope, need (sp || isEven f.addr) .badRegister]

/-- ATOM (R307). -/
def chkAtom (f : FmtX) : Option DecodeError := firstErr [chkAtomSpace f (f.aop.toNat ≥ 8),
  need (f.wide == 0 || (isEven f.d && isEven f.b)) .badRegister]

/-- The floating codes of R307. -/
def floatCodeOk (code : Nat) (wide : Bool) : Bool := code ≤ 4 && !(wide && (code == 1 || code == 2))

def chkAtomf (f : FmtX) : Option DecodeError := firstErr [chkAtomSpace f (f.aop.toNat ≥ 8),
  need (floatCodeOk (f.aop.toNat % 8) (f.wide == 1)) .reservedCode,
  need (f.wide == 0 || (isEven f.d && isEven f.b)) .badRegister]

/-- CAS (R310). -/
def chkCas (f : FmtX) (code : Nat) : Option DecodeError := firstErr [chkAtomSpace f (f.aop.toNat ≥ 8),
  need (f.aop.toNat % 8 == code) .reservedCode,
  need (if code == 0 then f.b.toNat % (if f.wide == 1 then 4 else 2) == 0 else f.wide == 0 || isEven f.b) .badRegister,
  need (f.wide == 0 || isEven f.d) .badRegister]

def chkRed (f : FmtX) : Option DecodeError := firstErr [need (f.d.toNat < 2) .unusedField, chkAtomSpace f (f.d == 1),
  need (f.aop.toNat < 8 || floatCodeOk (f.aop.toNat % 8) (f.wide == 1)) .reservedCode,
  need (f.wide == 0 || isEven f.b) .badRegister]

def chkOapp (f : FmtX) : Option DecodeError := firstErr [chkAtomSpace f false, need (f.aop == 0) .reservedCode,
  need (f.wide == 0 || (isEven f.d && isEven f.b)) .badRegister]

def chkOdecl (f : FmtX) : Option DecodeError := firstErr [need (f.scope == 0) .reservedScope, need (isEven f.addr) .badRegister,
  need (f.aop == 0) .reservedCode, need (f.d == 0) .unusedField, need (f.b == 0) .unusedField]

def chkSkred (f : FmtX) : Option DecodeError := firstErr [chkAtomSpace f false, need (f.aop.toNat < 2) .reservedCode,
  need (f.d == 0) .unusedField, need (f.wide == 0) .unusedField, need (f.aop == 1 || isEven f.b) .badRegister]

/-- Class A (R67): frame base, the accepted ENG values, FN below `fn`, BATCH used or zero. -/
def chkA (f : FmtA) (engs : List Nat) (fn : Nat) (batch : Bool) : Option DecodeError := firstErr [
  need (f.fb.toNat % 16 == 0) .frameBase, need (engs.contains f.eng.toNat) .reservedEng,
  need (f.fn.toNat < fn) .unusedField, need (batch || f.batch == 0) .unusedField]

/-- The status register rule of an A instruction. -/
def chkSt (f : FmtA) (mult hi : Nat) : Option DecodeError := need (f.st.toNat % mult == 0 && f.st.toNat ≤ hi) .badRegister

def engAny : List Nat := [0, 1, 2, 3, 4, 5, 6, 7, 8, 9, 10, 11, 12, 13, 14, 15]

/-- SCOPE in FN[2:0] of the fabric and collective instructions (R392, R404). -/
def chkFnScope (f : FmtA) : Option DecodeError := need (f.fn.toNat % 8 != 7) .reservedScope

/-- The special registers of R95 and R343 and their widths: 2 for a 64-bit register. -/
def srWords (n : Nat) : Option Nat :=
  if n ≤ 0xE then some (if n == 9 || n == 0xC || n == 0xE then 2 else 1)
  else if 0x80 ≤ n && n ≤ 0x8A then some (if n == 0x87 then 2 else 1) else none

def chkSread (f : FmtS3) : Option DecodeError := firstErr [need (f.fn == 0) .unusedField, need (f.a == 0) .unusedField,
  need (srWords f.b.toNat).isSome .reservedCode, need (srWords f.b.toNat != some 2 || isEven f.d) .badRegister]

def chkSwrite (f : FmtS3) : Option DecodeError := firstErr [need (f.fn == 0) .unusedField, need (f.d == 0) .unusedField,
  need (srWords f.b.toNat).isSome .reservedCode]

def chkS3zero (f : FmtS3) : Option DecodeError := need (f.d == 0 && f.a == 0 && f.b == 0 && f.fn == 0) .unusedField

def chkSI (f : FmtSI) (dUsed : Bool) : Option DecodeError := need (f.a == 0 && (dUsed || f.d == 0)) .unusedField

def chkVMovi (f : FmtVI) (mode : Nat) : Option DecodeError := need (f.a.toNat == mode) .reservedCode

/-- PFX (R67). -/
def chkPfx (c : Ctl) (f : FmtPFX) : Option DecodeError := firstErr [
  need (c.c == 1 && c.stall == 0 && c.wait == 0 && c.setk == 0) .pfxControl, need (f.rnd != 7) .reservedRnd,
  need (f.rest == 0) .unusedField]

/-- What is wrong with an instruction as an encoding, if anything (R72 and the instruction chapters). -/
def encodingError : Instr → Option DecodeError
  | .nop c f => firstErr [chkCtl c, need (f.rest == 0) .unusedField]
  | .pfx c f => firstErr [chkCtl c, chkPfx c f]
  | .gmov c f => firstErr [chkCtl c, chkS3 f false false true]
  | .gmovi c f => firstErr [chkCtl c, chkSI f true]
  | .gmovh c f => firstErr [chkCtl c, chkSI f true]
  | .gadd c f => firstErr [chkCtl c, chkS3 f true false true]
  | .gsub c f => firstErr [chkCtl c, chkS3 f true false true]
  | .gmul c f => firstErr [chkCtl c, chkS3 f true false true]
  | .gmulh c f => firstErr [chkCtl c, chkS3 f true true true]
  | .gdiv c f => firstErr [chkCtl c, chkS3 f true true true]
  | .grem c f => firstErr [chkCtl c, chkS3 f true true true]
  | .gand c f => firstErr [chkCtl c, chkS3 f true false true]
  | .gor c f => firstErr [chkCtl c, chkS3 f true false true]
  | .gxor c f => firstErr [chkCtl c, chkS3 f true false true]
  | .gnot c f => firstErr [chkCtl c, chkS3 f false false true]
  | .gshl c f => firstErr [chkCtl c, chkS3 f true false true]
  | .gshr c f => firstErr [chkCtl c, chkS3 f true false true]
  | .gsar c f => firstErr [chkCtl c, chkS3 f true false true]
  | .grot c f => firstErr [chkCtl c, chkS3 f true false true]
  | .gmin c f => firstErr [chkCtl c, chkS3 f true true true]
  | .gmax c f => firstErr [chkCtl c, chkS3 f true true true]
  | .gcmp c f => firstErr [chkCtl c, firstErr [chkPred f.d, need (f.sub < 6) .reservedCode, need (!f.w || (isEven f.a && (f.i || isEven f.b))) .badRegister]]
  | .gsel c f => firstErr [chkCtl c, firstErr [need (!f.s) .unusedField, need (f.sub < 16) .unusedField, need (!f.w || (isEven f.d && isEven f.a && (f.i || isEven f.b))) .badRegister]]
  | .glea c f => firstErr [chkCtl c, firstErr [need (!f.w) .unusedField, need (f.sub < 8) .unusedField, need (isEven f.d && isEven f.a) .badRegister]]
  | .gpopc c f => firstErr [chkCtl c, chkS3 f false false false]
  | .gclz c f => firstErr [chkCtl c, chkS3 f false false false]
  | .gbfx c f => firstErr [chkCtl c, firstErr [need (!f.i) .unusedField, need (f.sub == 0) .unusedField, need (!f.w || (isEven f.d && isEven f.a && isEven f.b)) .badRegister]]
  | .gbfi c f => firstErr [chkCtl c, firstErr [need (!f.i) .unusedField, need (!f.s) .unusedField, need (f.sub == 0) .unusedField, need (!f.w || (isEven f.d && isEven f.a && isEven f.b)) .badRegister]]
  | .qop c f => firstErr [chkCtl c, firstErr [chkPred f.d, chkPred f.a, chkPred f.b, need (f.fn.toNat < 16) .unusedField]]
  | .sread c f => firstErr [chkCtl c, chkSread f]
  | .swrite c f => firstErr [chkCtl c, chkSwrite f]
  | .setfmt c f => firstErr [chkCtl c, firstErr [need (f.d == 0) .unusedField, need (f.fn == 0 || f.fn == 128) .unusedField]]
  | .getfmt c f => firstErr [chkCtl c, need (f.a == 0 && f.b == 0 && f.fn == 0) .unusedField]
  | .bra c f => firstErr [chkCtl c, need (f.fn == 0) .unusedField]
  | .brx c f => firstErr [chkCtl c, firstErr [need (f.d == 0) .unusedField, need (f.fn == 0 || f.fn == 128) .unusedField, need (isEven f.a) .badRegister]]
  | .call c f => firstErr [chkCtl c, need (isEven f.fn) .badRegister]
  | .ret c f => firstErr [chkCtl c, firstErr [need (f.d == 0 && f.b == 0 && f.fn == 0) .unusedField, need (isEven f.a) .badRegister]]
  | .vbr c f => firstErr [chkCtl c, need (0 < f.roff.toInt) .reservedCode]
  | .vbrk c f => firstErr [chkCtl c, need (f.toff == f.roff) .reservedCode]
  | .vexit c f => firstErr [chkCtl c, firstErr [need (f.d == 0 && f.a == 0 && f.b == 0) .unusedField, need (f.fn.toNat < 16) .unusedField]]
  | .waitk c f => firstErr [chkCtl c, firstErr [need (f.d == 0 && f.a == 0) .unusedField, need (f.fn.toNat % 16 < 12) .reservedCode, need (f.fn.toNat / 16 % 8 == 0) .unusedField]]
  | .yield c f => firstErr [chkCtl c, chkS3zero f]
  | .sleep c f => firstErr [chkCtl c, chkSI f false]
  | .exit c f => firstErr [chkCtl c, chkS3zero f]
  | .tail c f => firstErr [chkCtl c, chkS3zero f]
  | .trap c f => firstErr [chkCtl c, chkSI f false]
  | .bkpt c f => firstErr [chkCtl c, chkS3zero f]
  | .vmov c f => firstErr [chkCtl c, chkVmov f]
  | .vmovi c f => firstErr [chkCtl c, chkVMovi f 0]
  | .vmoviHi c f => firstErr [chkCtl c, chkVMovi f 1]
  | .vmoviZ c f => firstErr [chkCtl c, chkVMovi f 2]
  | .vmoviRep c f => firstErr [chkCtl c, chkVMovi f 3]
  | .vadd c f => firstErr [chkCtl c, chkLane2 f tInt]
  | .vsub c f => firstErr [chkCtl c, chkLane2 f tInt]
  | .vmul c f => firstErr [chkCtl c, chkLane2 f tInt]
  | .vmulh c f => firstErr [chkCtl c, chkLane2 f [1, 2, 5, 6, 7]]
  | .vmad c f => firstErr [chkCtl c, chkLane2 f tInt]
  | .vdiv c f => firstErr [chkCtl c, chkLane2 f [1, 2, 3, 4]]
  | .vrem c f => firstErr [chkCtl c, chkLane2 f [1, 2, 3, 4]]
  | .vand c f => firstErr [chkCtl c, chkLane2 f tInt]
  | .vor c f => firstErr [chkCtl c, chkLane2 f tInt]
  | .vxor c f => firstErr [chkCtl c, chkLane2 f tInt]
  | .vnot c f => firstErr [chkCtl c, chkLane1 f tInt]
  | .vshl c f => firstErr [chkCtl c, chkLane2 f tInt]
  | .vshr c f => firstErr [chkCtl c, chkLane2 f tInt]
  | .vsar c f => firstErr [chkCtl c, chkLane2 f tInt]
  | .vmin c f => firstErr [chkCtl c, chkLane2 f tInt]
  | .vmax c f => firstErr [chkCtl c, chkLane2 f tInt]
  | .vabs c f => firstErr [chkCtl c, chkLane1 f [1, 3, 5, 7]]
  | .vcmp c f => firstErr [chkCtl c, firstErr [chkV3 f t32or64 true true false, chkPred f.d, need (f.mode < 6) .reservedCode]]
  | .vsel c f => firstErr [chkCtl c, chkV3 f tAll true true true]
  | .vpopc c f => firstErr [chkCtl c, chkLane1 f t32or64]
  | .vclz c f => firstErr [chkCtl c, chkLane1 f t32or64]
  | .vbrev c f => firstErr [chkCtl c, chkLane1 f t32or64]
  | .vbfx c f => firstErr [chkCtl c, chkLaneReg f t32or64]
  | .vbfi c f => firstErr [chkCtl c, chkLaneReg f t32or64]
  | .vprmt c f => firstErr [chkCtl c, chkLaneReg f [0]]
  | .vdot4 c f => firstErr [chkCtl c, firstErr [chkV3 f [7] true false true, need (f.mode < 4) .unusedField]]
  | .pop c f => firstErr [chkCtl c, firstErr [need (f.t == 0) .reservedType, chkPred f.d, chkPred f.a, chkPred f.b]]
  | .fadd c f => firstErr [chkCtl c, chkLane2 f tFlt]
  | .fsub c f => firstErr [chkCtl c, chkLane2 f tFlt]
  | .fmul c f => firstErr [chkCtl c, chkLane2 f tFlt]
  | .ffma c f => firstErr [chkCtl c, chkLane2 f tFlt]
  | .fmin c f => firstErr [chkCtl c, chkLane2 f tFlt]
  | .fmax c f => firstErr [chkCtl c, chkLane2 f tFlt]
  | .fminn c f => firstErr [chkCtl c, chkLane2 f tFlt]
  | .fmaxn c f => firstErr [chkCtl c, chkLane2 f tFlt]
  | .fcmp c f => firstErr [chkCtl c, firstErr [chkV3 f [8, 9] true true false, chkPred f.d]]
  | .fclass c f => firstErr [chkCtl c, firstErr [chkV3 f tFlt false false true, need (f.mode == 0) .reservedCode]]
  | .fclassKey c f => firstErr [chkCtl c, firstErr [chkV3 f tFlt false false true, need (f.mode == 1) .reservedCode]]
  | .fabs c f => firstErr [chkCtl c, chkLane1 f tFlt]
  | .fneg c f => firstErr [chkCtl c, chkLane1 f tFlt]
  | .frnd c f => firstErr [chkCtl c, firstErr [chkV3 f tFlt false false true, need (f.mode != 7) .reservedRnd]]
  | .fdot2 c f => firstErr [chkCtl c, chkLaneReg f [0xA, 0xB]]
  | .fcvt c f => firstErr [chkCtl c, chkFcvt f]
  | .fpack c f => firstErr [chkCtl c, chkFpack f]
  | .funpk c f => firstErr [chkCtl c, chkFunpk f]
  | .fscl c f => firstErr [chkCtl c, chkLane2 f tFlt]
  | .xrcp c f => firstErr [chkCtl c, chkLane1 f tFlt]
  | .xrsq c f => firstErr [chkCtl c, chkLane1 f tFlt]
  | .xsqrt c f => firstErr [chkCtl c, chkLane1 f tFlt]
  | .xexp2 c f => firstErr [chkCtl c, chkLane1 f [8, 0xA, 0xB]]
  | .xlog2 c f => firstErr [chkCtl c, chkLane1 f [8, 0xA, 0xB]]
  | .xsin c f => firstErr [chkCtl c, chkLane1 f [8, 0xA, 0xB]]
  | .xcos c f => firstErr [chkCtl c, chkLane1 f [8, 0xA, 0xB]]
  | .xtanh c f => firstErr [chkCtl c, chkLane1 f [8, 0xA, 0xB]]
  | .xsig c f => firstErr [chkCtl c, chkLane1 f [8, 0xA, 0xB]]
  | .lshf c f => firstErr [chkCtl c, chkLshf f]
  | .lbc c f => firstErr [chkCtl c, chkLbc f]
  | .lvoteAll c f => firstErr [chkCtl c, chkLvote f 0]
  | .lvoteAny c f => firstErr [chkCtl c, chkLvote f 1]
  | .lvoteUni c f => firstErr [chkCtl c, chkLvote f 2]
  | .lvoteBal c f => firstErr [chkCtl c, chkLvote f 3]
  | .lred c f => firstErr [chkCtl c, chkLred f]
  | .lscan c f => firstErr [chkCtl c, chkLscan f]
  | .lmatch c f => firstErr [chkCtl c, firstErr [chkMove f [f.d, f.a], need (f.b == 0) .unusedField, need (f.m == 0) .unusedField]]
  | .lcmpr c f => firstErr [chkCtl c, firstErr [chkMove f [f.d, f.a], need (f.b.toNat < 16) .unusedField, need (f.m == 0) .unusedField]]
  | .xsend c f => firstErr [chkCtl c, chkXfer f true]
  | .xrecv c f => firstErr [chkCtl c, chkXfer f false]
  | .vfromg c f => firstErr [chkCtl c, firstErr [chkMove f [f.d, f.a], need (f.b == 0) .unusedField, need (f.m == 0) .unusedField]]
  | .vtog c f => firstErr [chkCtl c, firstErr [chkMove f [f.d, f.a], need (f.m == 8) .reservedCode, need (f.b.toNat < 32) .badImmediate]]
  | .vtogFirst c f => firstErr [chkCtl c, firstErr [chkMove f [f.d, f.a], need (f.m == 1) .reservedCode, need (f.b == 0) .unusedField]]
  | .ld c f => firstErr [chkCtl c, chkMem f true]
  | .st c f => firstErr [chkCtl c, chkMem f true]
  | .lds c f => firstErr [chkCtl c, chkMem f false]
  | .sts c f => firstErr [chkCtl c, chkMem f false]
  | .ldsc c f => firstErr [chkCtl c, chkMem f false]
  | .stsc c f => firstErr [chkCtl c, chkMem f false]
  | .lda c f => firstErr [chkCtl c, chkOrdered f [0, 1]]
  | .ldaRng c f => firstErr [chkCtl c, firstErr [chkOrdered f [3], need (f.sz == 3) .reservedSize]]
  | .stl c f => firstErr [chkCtl c, chkOrdered f [0, 2]]
  | .fence c f => firstErr [chkCtl c, chkFence f]
  | .prf c f => firstErr [chkCtl c, chkPrf f]
  | .cpy c f => firstErr [chkCtl c, chkA f [0] 1 false]
  | .bseal c f => firstErr [chkCtl c, firstErr [chkA f [0, 1, 2, 3] 1 true, need (f.fb == 0 && f.st == 0) .unusedField]]
  | .bwait c f => firstErr [chkCtl c, firstErr [chkA f [0, 1, 2, 3] 1 true, need (f.fb == 0) .unusedField]]
  | .waita c f => firstErr [chkCtl c, chkWaita f false]
  | .waitaSp c f => firstErr [chkCtl c, chkWaita f true]
  | .cinvL1 c f => firstErr [chkCtl c, chkMaint f 0]
  | .cinvAll c f => firstErr [chkCtl c, chkMaint f 2]
  | .cwb c f => firstErr [chkCtl c, chkMaint f 0]
  | .nbarv c f => firstErr [chkCtl c, chkArrive f 16]
  | .nbsync c f => firstErr [chkCtl c, chkArrive f 16]
  | .nbwait c f => firstErr [chkCtl c, chkNbwait f]
  | .tbinit c f => firstErr [chkCtl c, chkTb f [0] true]
  | .tbarv c f => firstErr [chkCtl c, chkTb f [0, 1] (f.hint == 1)]
  | .tbexp c f => firstErr [chkCtl c, chkTb f [0] true]
  | .tbwait c f => firstErr [chkCtl c, chkTb f [0, 1] true]
  | .tbinv c f => firstErr [chkCtl c, chkTb f [0] false]
  | .cbarv c f => firstErr [chkCtl c, chkArrive f 8]
  | .cbsync c f => firstErr [chkCtl c, chkArrive f 8]
  | .phadv c f => firstErr [chkCtl c, chkPhadv f]
  | .phwaitNbr c f => firstErr [chkCtl c, chkPhwait f 0]
  | .phwaitAll c f => firstErr [chkCtl c, chkPhwait f 1]
  | .sealv c f => firstErr [chkCtl c, chkDie f 0 true true]
  | .reuse c f => firstErr [chkCtl c, chkDie f 0 true false]
  | .drop c f => firstErr [chkCtl c, chkDie f 0 true false]
  | .rdhintFloor c f => firstErr [chkCtl c, chkDie f 0 true false]
  | .rdhintCeil c f => firstErr [chkCtl c, chkDie f 1 true false]
  | .rdhintClear c f => firstErr [chkCtl c, chkDie f 2 false false]
  | .rdhintQuery c f => firstErr [chkCtl c, chkDie f 3 true false]
  | .atom c f => firstErr [chkCtl c, chkAtom f]
  | .atomf c f => firstErr [chkCtl c, chkAtomf f]
  | .cas c f => firstErr [chkCtl c, chkCas f 0]
  | .casXchg c f => firstErr [chkCtl c, chkCas f 1]
  | .red c f => firstErr [chkCtl c, chkRed f]
  | .oapp c f => firstErr [chkCtl c, chkOapp f]
  | .odecl c f => firstErr [chkCtl c, chkOdecl f]
  | .skred c f => firstErr [chkCtl c, chkSkred f]
  | .skinit c f => firstErr [chkCtl c, chkA f [1, 2, 3] 2 false]
  | .skadd c f => firstErr [chkCtl c, chkA f [0, 1, 2, 3] 2 false]
  | .skmrg c f => firstErr [chkCtl c, chkA f [0] 4 false]
  | .skcmp c f => firstErr [chkCtl c, chkA f [0] 2 false]
  | .skq c f => firstErr [chkCtl c, firstErr [chkA f [0] 2 false, chkSt f 1 254]]
  | .skrank c f => firstErr [chkCtl c, firstErr [chkA f [0] 2 false, chkSt f 2 250]]
  | .sktop c f => firstErr [chkCtl c, firstErr [chkA f [0] 4 false, chkSt f 1 254]]
  | .skdc c f => firstErr [chkCtl c, firstErr [chkA f [0] 2 false, chkSt f 2 250]]
  | .rngkSet c f => firstErr [chkCtl c, chkA f [0] 1 false]
  | .rngkSeek c f => firstErr [chkCtl c, chkA f [1] 1 false]
  | .rngkRead c f => firstErr [chkCtl c, firstErr [chkA f [2] 1 false, chkSt f 8 255, need (f.fb == 0) .unusedField]]
  | .rngv c f => firstErr [chkCtl c, chkA f [0, 1] 1 false]
  | .rngu c f => firstErr [chkCtl c, chkA f [0, 1] 2 false]
  | .sgumb c f => firstErr [chkCtl c, firstErr [chkA f [0] 2 false, chkSt f 4 255]]
  | .stopk c f => firstErr [chkCtl c, chkA f [0] 4 false]
  | .mxm c f => firstErr [chkCtl c, chkA f [0] 1 false]
  | .mxmt c f => firstErr [chkCtl c, chkA f [0] 1 false]
  | .mxmg c f => firstErr [chkCtl c, chkA f [0] 1 false]
  | .acld c f => firstErr [chkCtl c, chkA f [0] 1 false]
  | .acst c f => firstErr [chkCtl c, chkA f [0] 1 false]
  | .acz c f => firstErr [chkCtl c, chkA f [0] 1 false]
  | .cbld c f => firstErr [chkCtl c, chkA f [0] 2 false]
  | .qsplit c f => firstErr [chkCtl c, chkA f [0] 1 false]
  | .wrsig c f => firstErr [chkCtl c, firstErr [chkA f [0] 8 false, chkFnScope f]]
  | .mcst c f => firstErr [chkCtl c, firstErr [chkA f [0] 8 false, chkFnScope f]]
  | .cpyr c f => firstErr [chkCtl c, firstErr [chkA f [0] 8 false, chkFnScope f]]
  | .coll c f => firstErr [chkCtl c, firstErr [chkA f engAny 8 false, chkFnScope f]]
  | .clrun c f => firstErr [chkCtl c, firstErr [chkA f engAny 8 false, chkFnScope f]]
  | .launch c f => firstErr [chkCtl c, chkA f [0] 1 false]
  | .lqryQueue c f => firstErr [chkCtl c, firstErr [chkA f [0] 1 false, chkSt f 2 255]]
  | .lqrySys c f => firstErr [chkCtl c, chkA f [1] 1 false]
  | .spapp c f => firstErr [chkCtl c, firstErr [chkA f [0] 1 false, chkSt f 4 255]]
  | .spverExact c f => firstErr [chkCtl c, firstErr [chkA f [0] 1 false, chkSt f 4 255]]
  | .spverProb c f => firstErr [chkCtl c, firstErr [chkA f [1] 1 false, chkSt f 4 255]]
  | .spacc c f => firstErr [chkCtl c, firstErr [chkA f [0] 1 false, chkSt f 4 255]]
  | .sprst c f => firstErr [chkCtl c, chkA f [0] 1 false]
  | .moduleReset => some .notAWord
  | .pickerIssue _ => some .notAWord
  | .logSlotFree _ => some .notAWord
  | .watchdogExpiry _ => some .notAWord
  | .sleepEnd _ => some .notAWord
  | .yieldEnd _ => some .notAWord
  | .memAccessComplete _ _ _ => some .notAWord
  | .loadFillReturn _ _ _ => some .notAWord
  | .wcBufferTimeout _ _ => some .notAWord
  | .trackerEntryRetire _ _ => some .notAWord
  | .completionWordRetry _ => some .notAWord
  | .blockPlace _ _ _ => some .notAWord
  | .blockStart _ => some .notAWord
  | .clusterReserve _ _ _ => some .notAWord
  | .clusterRetry _ _ => some .notAWord
  | .preempt _ => some .notAWord
  | .restore _ _ => some .notAWord
  | .copyPieceWrite _ _ _ => some .notAWord
  | .copyFaultStop _ _ => some .notAWord
  | .summaryOpRun _ => some .notAWord
  | .matrixOpRun _ => some .notAWord
  | .matrixOpFault _ => some .notAWord
  | .sramSingleBitError _ => some .notAWord
  | .sramDoubleBitError _ => some .notAWord
  | .scrubPass _ => some .notAWord
  | .hbmCorrectedError _ => some .notAWord
  | .hbmUncorrectableError _ => some .notAWord
  | .patrolScrub _ => some .notAWord
  | .keySlotError _ _ => some .notAWord
  | .dieLinkFlitCrcFail _ => some .notAWord
  | .dieLinkRetrainEnd _ _ => some .notAWord
  | .powerSample _ _ _ => some .notAWord
  | .thermalLimit _ => some .notAWord
  | .ualinkPortRetrain _ => some .notAWord
  | .portDown _ => some .notAWord
  | .podReset => some .notAWord
  | .svcReplay _ => some .notAWord
  | .svcInval _ => some .notAWord
  | .svcCtxstart _ => some .notAWord
  | .svcCtxstop _ => some .notAWord
  | .svcKeyload _ => some .notAWord
  | .svcKeyclr _ => some .notAWord
  | .svcPlimit _ => some .notAWord
  | .svcAttest _ => some .notAWord
  | .svcGrant _ => some .notAWord
  | .svcUnknown _ => some .notAWord
  | .cxlMemAccess _ => some .notAWord
  | .cxlCacheSnoop _ => some .notAWord
  | .waitaWake _ => some .notAWord
  | .oappGrant _ => some .notAWord
  | .orderedAtomicGrant _ => some .notAWord
  | .lqExchange _ => some .notAWord
  | .commitRoundStart _ => some .notAWord
  | .commitRoundComplete _ => some .notAWord
  | .intervalEnd _ => some .notAWord
  | .directoryEntryError _ _ => some .notAWord
  | .msgReqs _ => some .notAWord
  | .msgReqx _ => some .notAWord
  | .msgUpg _ => some .notAWord
  | .msgPext _ => some .notAWord
  | .msgEvn _ => some .notAWord
  | .msgEvd _ => some .notAWord
  | .msgSnpshr _ => some .notAWord
  | .msgSnpinv _ => some .notAWord
  | .msgSnpmask _ => some .notAWord
  | .msgSnpmerge _ => some .notAWord
  | .msgInv _ => some .notAWord
  | .msgAck _ => some .notAWord
  | .msgAckd _ => some .notAWord
  | .msgDatas _ _ => some .notAWord
  | .msgDatasn _ => some .notAWord
  | .msgDatae _ _ => some .notAWord
  | .msgDatap _ _ => some .notAWord
  | .msgEvack _ => some .notAWord
  | .msgAtomf _ => some .notAWord
  | .msgAtomr _ => some .notAWord
  | .msgRdu _ => some .notAWord
  | .msgRdur _ => some .notAWord
  | .msgWru _ => some .notAWord
  | .msgWrua _ => some .notAWord
  | .msgPut _ => some .notAWord
  | .msgPuta _ => some .notAWord
  | .msgSig _ => some .notAWord
  | .msgMcd _ => some .notAWord
  | .msgRdc _ => some .notAWord
  | .msgRdr _ => some .notAWord
  | .reductionDeadline _ _ => some .notAWord
  | .msgRsv _ => some .notAWord
  | .msgGnt _ => some .notAWord
  | .grantWithdraw _ => some .notAWord
  | .msgNak _ => some .notAWord
  | .nakBackoffExpiry _ => some .notAWord
  | .fabricAck _ => some .notAWord
  | .reservedMessageDrop _ => some .notAWord
  | .chamoisOpStart _ _ => some .notAWord
  | .clSend _ _ => some .notAWord
  | .clRecv _ _ => some .notAWord
  | .clReduce _ _ => some .notAWord
  | .clCopy _ _ => some .notAWord
  | .clMcast _ _ => some .notAWord
  | .clWaitb _ _ => some .notAWord
  | .clSignal _ _ => some .notAWord
  | .clArrive _ _ => some .notAWord
  | .clLoop _ _ => some .notAWord
  | .clEndloop _ _ => some .notAWord
  | .clRange _ _ => some .notAWord
  | .clEnd _ _ => some .notAWord
  | .ualinkPortRetrainEnd _ => some .notAWord
  | .linkLevelReplay _ => some .notAWord
  | .completionPoint _ _ => some .notAWord
  | .copyEngineOpStart _ => some .notAWord
  | .fallbackWatchdogLimit _ _ => some .notAWord
  | .ultraEthernetDelivery _ => some .notAWord
  | .spdmSecureSessionMessage _ _ _ _ => some .notAWord
  | .nonWindowRequestDrop _ => some .notAWord

/-- The row of an opcode: one instruction, or the choice a field makes between the sub-modes of the opcode. -/
inductive OpRow where
  | one (i : Instr)
  | sub (sel : Nat) (rows : List (Nat × Instr))
  deriving Repr

/-- The instruction a sub-mode field selects. -/
def OpRow.pick : OpRow → Except DecodeError Instr
  | .one i => .ok i
  | .sub sel rows => match rows.lookup sel with
    | some i => .ok i
    | none => .error .reservedCode

/-- The control-thread opcodes and NOP, PFX (R71). -/
def opRowsControl (w : W64) : List (Nat × OpRow) :=
  let c := ctlOf w
  [
    (0x00, .one (.nop c (fmtNOP w))),
    (0x01, .one (.pfx c (fmtPFX w))),
    (0x10, .one (.gmov c (fmtS3 w))),
    (0x11, .one (.gmovi c (fmtSI w))),
    (0x12, .one (.gmovh c (fmtSI w))),
    (0x13, .one (.gadd c (fmtS3 w))),
    (0x14, .one (.gsub c (fmtS3 w))),
    (0x15, .one (.gmul c (fmtS3 w))),
    (0x16, .one (.gmulh c (fmtS3 w))),
    (0x17, .one (.gdiv c (fmtS3 w))),
    (0x18, .one (.grem c (fmtS3 w))),
    (0x19, .one (.gand c (fmtS3 w))),
    (0x1A, .one (.gor c (fmtS3 w))),
    (0x1B, .one (.gxor c (fmtS3 w))),
    (0x1C, .one (.gnot c (fmtS3 w))),
    (0x1D, .one (.gshl c (fmtS3 w))),
    (0x1E, .one (.gshr c (fmtS3 w))),
    (0x1F, .one (.gsar c (fmtS3 w))),
    (0x20, .one (.grot c (fmtS3 w))),
    (0x21, .one (.gmin c (fmtS3 w))),
    (0x22, .one (.gmax c (fmtS3 w))),
    (0x23, .one (.gcmp c (fmtS3 w))),
    (0x24, .one (.gsel c (fmtS3 w))),
    (0x25, .one (.glea c (fmtS3 w))),
    (0x26, .one (.gpopc c (fmtS3 w))),
    (0x27, .one (.gclz c (fmtS3 w))),
    (0x28, .one (.gbfx c (fmtS3 w))),
    (0x29, .one (.gbfi c (fmtS3 w))),
    (0x2A, .one (.qop c (fmtS3 w))),
    (0x2B, .one (.sread c (fmtS3 w))),
    (0x2C, .one (.swrite c (fmtS3 w))),
    (0x2D, .one (.setfmt c (fmtS3 w))),
    (0x2E, .one (.getfmt c (fmtS3 w))),
    (0x2F, .one (.bra c (fmtBR w))),
    (0x30, .one (.brx c (fmtS3 w))),
    (0x31, .one (.call c (fmtBR w))),
    (0x32, .one (.ret c (fmtS3 w))),
    (0x33, .one (.vbr c (fmtVB w))),
    (0x34, .one (.vbrk c (fmtVB w))),
    (0x35, .one (.vexit c (fmtS3 w))),
    (0x36, .one (.waitk c (fmtS3 w))),
    (0x37, .one (.yield c (fmtS3 w))),
    (0x38, .one (.sleep c (fmtSI w))),
    (0x39, .one (.exit c (fmtS3 w))),
    (0x3A, .one (.tail c (fmtS3 w))),
    (0x3B, .one (.trap c (fmtSI w))),
    (0x3C, .one (.bkpt c (fmtS3 w)))]

/-- The integer lane opcodes (R71). -/
def opRowsInt (w : W64) : List (Nat × OpRow) :=
  let c := ctlOf w
  [
    (0x50, .one (.vmov c (fmtV3 w))),
    (0x51, .sub (fld w 16 8).toNat [(0, .vmovi c (fmtVI w)), (1, .vmoviHi c (fmtVI w)), (2, .vmoviZ c (fmtVI w)), (3, .vmoviRep c (fmtVI w))]),
    (0x52, .one (.vadd c (fmtV3 w))),
    (0x53, .one (.vsub c (fmtV3 w))),
    (0x54, .one (.vmul c (fmtV3 w))),
    (0x55, .one (.vmulh c (fmtV3 w))),
    (0x56, .one (.vmad c (fmtV3 w))),
    (0x57, .one (.vdiv c (fmtV3 w))),
    (0x58, .one (.vrem c (fmtV3 w))),
    (0x59, .one (.vand c (fmtV3 w))),
    (0x5A, .one (.vor c (fmtV3 w))),
    (0x5B, .one (.vxor c (fmtV3 w))),
    (0x5C, .one (.vnot c (fmtV3 w))),
    (0x5D, .one (.vshl c (fmtV3 w))),
    (0x5E, .one (.vshr c (fmtV3 w))),
    (0x5F, .one (.vsar c (fmtV3 w))),
    (0x60, .one (.vmin c (fmtV3 w))),
    (0x61, .one (.vmax c (fmtV3 w))),
    (0x62, .one (.vabs c (fmtV3 w))),
    (0x63, .one (.vcmp c (fmtV3 w))),
    (0x64, .one (.vsel c (fmtV3 w))),
    (0x65, .one (.vpopc c (fmtV3 w))),
    (0x66, .one (.vclz c (fmtV3 w))),
    (0x67, .one (.vbrev c (fmtV3 w))),
    (0x68, .one (.vbfx c (fmtV3 w))),
    (0x69, .one (.vbfi c (fmtV3 w))),
    (0x6A, .one (.vprmt c (fmtV3 w))),
    (0x6B, .one (.vdot4 c (fmtV3 w))),
    (0x6C, .one (.pop c (fmtV3 w)))]

/-- The floating and special-function opcodes (R71). -/
def opRowsFloat (w : W64) : List (Nat × OpRow) :=
  let c := ctlOf w
  [
    (0x80, .one (.fadd c (fmtV3 w))),
    (0x81, .one (.fsub c (fmtV3 w))),
    (0x82, .one (.fmul c (fmtV3 w))),
    (0x83, .one (.ffma c (fmtV3 w))),
    (0x84, .one (.fmin c (fmtV3 w))),
    (0x85, .one (.fmax c (fmtV3 w))),
    (0x86, .one (.fminn c (fmtV3 w))),
    (0x87, .one (.fmaxn c (fmtV3 w))),
    (0x88, .one (.fcmp c (fmtV3 w))),
    (0x89, .sub (fld w 0 3).toNat [(0, .fclass c (fmtV3 w)), (1, .fclassKey c (fmtV3 w))]),
    (0x8A, .one (.fabs c (fmtV3 w))),
    (0x8B, .one (.fneg c (fmtV3 w))),
    (0x8C, .one (.frnd c (fmtV3 w))),
    (0x8D, .one (.fdot2 c (fmtV3 w))),
    (0x8E, .one (.fcvt c (fmtV3 w))),
    (0x8F, .one (.fpack c (fmtV3 w))),
    (0x90, .one (.funpk c (fmtV3 w))),
    (0x91, .one (.fscl c (fmtV3 w))),
    (0x98, .one (.xrcp c (fmtV3 w))),
    (0x99, .one (.xrsq c (fmtV3 w))),
    (0x9A, .one (.xsqrt c (fmtV3 w))),
    (0x9B, .one (.xexp2 c (fmtV3 w))),
    (0x9C, .one (.xlog2 c (fmtV3 w))),
    (0x9D, .one (.xsin c (fmtV3 w))),
    (0x9E, .one (.xcos c (fmtV3 w))),
    (0x9F, .one (.xtanh c (fmtV3 w))),
    (0xA0, .one (.xsig c (fmtV3 w)))]

/-- The cross-lane opcodes (R71). -/
def opRowsCross (w : W64) : List (Nat × OpRow) :=
  let c := ctlOf w
  [
    (0xA4, .one (.lshf c (fmtV3 w))),
    (0xA5, .one (.lbc c (fmtV3 w))),
    (0xA6, .sub (fld w 0 4).toNat [(0, .lvoteAll c (fmtV3 w)), (1, .lvoteAny c (fmtV3 w)), (2, .lvoteUni c (fmtV3 w)), (3, .lvoteBal c (fmtV3 w))]),
    (0xA7, .one (.lred c (fmtV3 w))),
    (0xA8, .one (.lscan c (fmtV3 w))),
    (0xA9, .one (.lmatch c (fmtV3 w))),
    (0xAA, .one (.lcmpr c (fmtV3 w))),
    (0xAB, .one (.xsend c (fmtV3 w))),
    (0xAC, .one (.xrecv c (fmtV3 w))),
    (0xAD, .one (.vfromg c (fmtV3 w))),
    (0xAE, .sub (fld w 0 1).toNat [(0, .vtog c (fmtV3 w)), (1, .vtogFirst c (fmtV3 w))])]

/-- The memory opcodes (R71). -/
def opRowsMem (w : W64) : List (Nat × OpRow) :=
  let c := ctlOf w
  [
    (0xB0, .one (.ld c (fmtM w))),
    (0xB1, .one (.st c (fmtM w))),
    (0xB2, .one (.lds c (fmtM w))),
    (0xB3, .one (.sts c (fmtM w))),
    (0xB4, .one (.ldsc c (fmtM w))),
    (0xB5, .one (.stsc c (fmtM w))),
    (0xB6, .sub (fld w 8 2).toNat [(3, .ldaRng c (fmtMO w)), (0, .lda c (fmtMO w)), (1, .lda c (fmtMO w)), (2, .lda c (fmtMO w))]),
    (0xB7, .one (.stl c (fmtMO w))),
    (0xB8, .one (.fence c (fmtMO w))),
    (0xB9, .one (.prf c (fmtM w))),
    (0xBA, .one (.cpy c (fmtA w))),
    (0xBB, .one (.bseal c (fmtA w))),
    (0xBC, .one (.bwait c (fmtA w))),
    (0xBD, .sub (fld w 8 2).toNat [(0, .waita c (fmtM w)), (1, .waitaSp c (fmtM w))]),
    (0xBE, .sub (fld w 8 2).toNat [(0, .cinvL1 c (fmtM w)), (2, .cinvAll c (fmtM w))]),
    (0xBF, .one (.cwb c (fmtM w)))]

/-- The barrier, cluster and die opcodes (R71). -/
def opRowsSync (w : W64) : List (Nat × OpRow) :=
  let c := ctlOf w
  [
    (0xC0, .one (.nbarv c (fmtM w))),
    (0xC1, .one (.nbsync c (fmtM w))),
    (0xC2, .one (.nbwait c (fmtM w))),
    (0xC3, .one (.tbinit c (fmtM w))),
    (0xC4, .one (.tbarv c (fmtM w))),
    (0xC5, .one (.tbexp c (fmtM w))),
    (0xC6, .one (.tbwait c (fmtM w))),
    (0xC7, .one (.tbinv c (fmtM w))),
    (0xC8, .one (.cbarv c (fmtM w))),
    (0xC9, .one (.cbsync c (fmtM w))),
    (0xCA, .one (.phadv c (fmtM w))),
    (0xCB, .sub (fld w 8 2).toNat [(0, .phwaitNbr c (fmtM w)), (1, .phwaitAll c (fmtM w))]),
    (0xCC, .one (.sealv c (fmtM w))),
    (0xCD, .one (.reuse c (fmtM w))),
    (0xCE, .one (.drop c (fmtM w))),
    (0xCF, .sub (fld w 8 2).toNat [(0, .rdhintFloor c (fmtM w)), (1, .rdhintCeil c (fmtM w)), (2, .rdhintClear c (fmtM w)), (3, .rdhintQuery c (fmtM w))])]

/-- The atomic opcodes (R71). -/
def opRowsAtomic (w : W64) : List (Nat × OpRow) :=
  let c := ctlOf w
  [
    (0xD0, .one (.atom c (fmtX w))),
    (0xD1, .one (.atomf c (fmtX w))),
    (0xD2, .sub (fld w 4 3).toNat [(0, .cas c (fmtX w)), (1, .casXchg c (fmtX w))]),
    (0xD3, .one (.red c (fmtX w))),
    (0xD4, .one (.oapp c (fmtX w))),
    (0xD5, .one (.odecl c (fmtX w))),
    (0xD6, .one (.skred c (fmtX w)))]

/-- The summary and sampling opcodes (R71). -/
def opRowsSummary (w : W64) : List (Nat × OpRow) :=
  let c := ctlOf w
  [
    (0xD8, .one (.skinit c (fmtA w))),
    (0xD9, .one (.skadd c (fmtA w))),
    (0xDA, .one (.skmrg c (fmtA w))),
    (0xDB, .one (.skcmp c (fmtA w))),
    (0xDC, .one (.skq c (fmtA w))),
    (0xDD, .one (.skrank c (fmtA w))),
    (0xDE, .one (.sktop c (fmtA w))),
    (0xDF, .one (.skdc c (fmtA w))),
    (0xE0, .sub (fld w 12 4).toNat [(0, .rngkSet c (fmtA w)), (1, .rngkSeek c (fmtA w)), (2, .rngkRead c (fmtA w))]),
    (0xE1, .one (.rngv c (fmtA w))),
    (0xE2, .one (.rngu c (fmtA w))),
    (0xE3, .one (.sgumb c (fmtA w))),
    (0xE4, .one (.stopk c (fmtA w)))]

/-- The matrix, fabric, dispatcher and generation opcodes (R71). -/
def opRowsSystem (w : W64) : List (Nat × OpRow) :=
  let c := ctlOf w
  [
    (0xE8, .one (.mxm c (fmtA w))),
    (0xE9, .one (.mxmt c (fmtA w))),
    (0xEA, .one (.mxmg c (fmtA w))),
    (0xEB, .one (.acld c (fmtA w))),
    (0xEC, .one (.acst c (fmtA w))),
    (0xED, .one (.acz c (fmtA w))),
    (0xEE, .one (.cbld c (fmtA w))),
    (0xEF, .one (.qsplit c (fmtA w))),
    (0xF0, .one (.wrsig c (fmtA w))),
    (0xF1, .one (.mcst c (fmtA w))),
    (0xF2, .one (.cpyr c (fmtA w))),
    (0xF3, .one (.coll c (fmtA w))),
    (0xF4, .one (.clrun c (fmtA w))),
    (0xF6, .one (.launch c (fmtA w))),
    (0xF7, .sub (fld w 12 4).toNat [(0, .lqryQueue c (fmtA w)), (1, .lqrySys c (fmtA w))]),
    (0xF8, .one (.spapp c (fmtA w))),
    (0xF9, .sub (fld w 12 4).toNat [(0, .spverExact c (fmtA w)), (1, .spverProb c (fmtA w))]),
    (0xFA, .one (.spacc c (fmtA w))),
    (0xFB, .one (.sprst c (fmtA w)))]

/-- The rows of the table that hold an opcode, chosen by its upper bits. -/
def opRows (op : Nat) (w : W64) : List (Nat × OpRow) :=
  if op < 0x50 then opRowsControl w else if op < 0x80 then opRowsInt w else if op < 0xA4 then opRowsFloat w
  else if op < 0xB0 then opRowsCross w else if op < 0xC0 then opRowsMem w else if op < 0xD0 then opRowsSync w
  else if op < 0xD8 then opRowsAtomic w else if op < 0xE8 then opRowsSummary w else opRowsSystem w

/-- The instruction the opcode and its sub-mode fields name, before the checks of legality (R71, R72). -/
def parse (w : W64) : Except DecodeError Instr :=
  let op := (fld w 36 8).toNat
  if op == 0xFF then .error .permanentlyIllegal
  else match (opRows op w).lookup op with
    | some r => r.pick
    | none => .error .reservedOpcode

/-- Decode one instruction word (R53): total, refusing by name. -/
def decode (w : W64) : Except DecodeError Instr :=
  match parse w with
  | .error e => .error e
  | .ok i => match encodingError i with
    | none => .ok i
    | some e => .error e

/-! ## The encoder -/

/-- Bits [63:36] of a word (R57). -/
def encCtl (c : Ctl) (op : BitVec 8) : BitVec 28 := c.c ++ c.stall ++ c.wait ++ c.setk ++ op
def encNOP (f : FmtNOP) : BitVec 36 := f.rest
def encPFX (f : FmtPFX) : BitVec 36 := f.mp ++ f.mz ++ f.rnd ++ f.sat ++ f.cr ++ f.rest
def encV3 (f : FmtV3) : BitVec 36 := f.gd ++ f.d ++ f.a ++ f.b ++ f.t ++ f.m
def encVI (f : FmtVI) : BitVec 36 := f.gd ++ f.d ++ f.a ++ f.imm
def encS3 (f : FmtS3) : BitVec 36 := f.gd ++ f.d ++ f.a ++ f.b ++ f.fn
def encSI (f : FmtSI) : BitVec 36 := f.gd ++ f.d ++ f.a ++ f.imm
def encBR (f : FmtBR) : BitVec 36 := f.gd ++ f.off ++ f.fn
def encVB (f : FmtVB) : BitVec 36 := f.gd ++ f.toff ++ f.roff
def encM (f : FmtM) : BitVec 36 := f.gd ++ f.data ++ f.addr ++ f.swz ++ f.sz ++ f.hint ++ f.off
def encMO (f : FmtMO) : BitVec 36 := f.gd ++ f.data ++ f.addr ++ f.scope ++ f.sz ++ f.ord ++ f.off
def encX (f : FmtX) : BitVec 36 := f.gd ++ f.d ++ f.addr ++ f.b ++ f.aop ++ f.scope ++ f.wide
def encA (f : FmtA) : BitVec 36 := f.gd ++ f.fb ++ f.st ++ f.eng ++ f.batch ++ f.fn

/-- The word of a program instruction (R57, R61 to R67, R71); none for the rows that are no instruction word. -/
def encode : Instr → Option W64
  | .nop c f => some (encCtl c 0x00 ++ encNOP f)
  | .pfx c f => some (encCtl c 0x01 ++ encPFX f)
  | .gmov c f => some (encCtl c 0x10 ++ encS3 f)
  | .gmovi c f => some (encCtl c 0x11 ++ encSI f)
  | .gmovh c f => some (encCtl c 0x12 ++ encSI f)
  | .gadd c f => some (encCtl c 0x13 ++ encS3 f)
  | .gsub c f => some (encCtl c 0x14 ++ encS3 f)
  | .gmul c f => some (encCtl c 0x15 ++ encS3 f)
  | .gmulh c f => some (encCtl c 0x16 ++ encS3 f)
  | .gdiv c f => some (encCtl c 0x17 ++ encS3 f)
  | .grem c f => some (encCtl c 0x18 ++ encS3 f)
  | .gand c f => some (encCtl c 0x19 ++ encS3 f)
  | .gor c f => some (encCtl c 0x1A ++ encS3 f)
  | .gxor c f => some (encCtl c 0x1B ++ encS3 f)
  | .gnot c f => some (encCtl c 0x1C ++ encS3 f)
  | .gshl c f => some (encCtl c 0x1D ++ encS3 f)
  | .gshr c f => some (encCtl c 0x1E ++ encS3 f)
  | .gsar c f => some (encCtl c 0x1F ++ encS3 f)
  | .grot c f => some (encCtl c 0x20 ++ encS3 f)
  | .gmin c f => some (encCtl c 0x21 ++ encS3 f)
  | .gmax c f => some (encCtl c 0x22 ++ encS3 f)
  | .gcmp c f => some (encCtl c 0x23 ++ encS3 f)
  | .gsel c f => some (encCtl c 0x24 ++ encS3 f)
  | .glea c f => some (encCtl c 0x25 ++ encS3 f)
  | .gpopc c f => some (encCtl c 0x26 ++ encS3 f)
  | .gclz c f => some (encCtl c 0x27 ++ encS3 f)
  | .gbfx c f => some (encCtl c 0x28 ++ encS3 f)
  | .gbfi c f => some (encCtl c 0x29 ++ encS3 f)
  | .qop c f => some (encCtl c 0x2A ++ encS3 f)
  | .sread c f => some (encCtl c 0x2B ++ encS3 f)
  | .swrite c f => some (encCtl c 0x2C ++ encS3 f)
  | .setfmt c f => some (encCtl c 0x2D ++ encS3 f)
  | .getfmt c f => some (encCtl c 0x2E ++ encS3 f)
  | .bra c f => some (encCtl c 0x2F ++ encBR f)
  | .brx c f => some (encCtl c 0x30 ++ encS3 f)
  | .call c f => some (encCtl c 0x31 ++ encBR f)
  | .ret c f => some (encCtl c 0x32 ++ encS3 f)
  | .vbr c f => some (encCtl c 0x33 ++ encVB f)
  | .vbrk c f => some (encCtl c 0x34 ++ encVB f)
  | .vexit c f => some (encCtl c 0x35 ++ encS3 f)
  | .waitk c f => some (encCtl c 0x36 ++ encS3 f)
  | .yield c f => some (encCtl c 0x37 ++ encS3 f)
  | .sleep c f => some (encCtl c 0x38 ++ encSI f)
  | .exit c f => some (encCtl c 0x39 ++ encS3 f)
  | .tail c f => some (encCtl c 0x3A ++ encS3 f)
  | .trap c f => some (encCtl c 0x3B ++ encSI f)
  | .bkpt c f => some (encCtl c 0x3C ++ encS3 f)
  | .vmov c f => some (encCtl c 0x50 ++ encV3 f)
  | .vmovi c f => some (encCtl c 0x51 ++ encVI f)
  | .vmoviHi c f => some (encCtl c 0x51 ++ encVI f)
  | .vmoviZ c f => some (encCtl c 0x51 ++ encVI f)
  | .vmoviRep c f => some (encCtl c 0x51 ++ encVI f)
  | .vadd c f => some (encCtl c 0x52 ++ encV3 f)
  | .vsub c f => some (encCtl c 0x53 ++ encV3 f)
  | .vmul c f => some (encCtl c 0x54 ++ encV3 f)
  | .vmulh c f => some (encCtl c 0x55 ++ encV3 f)
  | .vmad c f => some (encCtl c 0x56 ++ encV3 f)
  | .vdiv c f => some (encCtl c 0x57 ++ encV3 f)
  | .vrem c f => some (encCtl c 0x58 ++ encV3 f)
  | .vand c f => some (encCtl c 0x59 ++ encV3 f)
  | .vor c f => some (encCtl c 0x5A ++ encV3 f)
  | .vxor c f => some (encCtl c 0x5B ++ encV3 f)
  | .vnot c f => some (encCtl c 0x5C ++ encV3 f)
  | .vshl c f => some (encCtl c 0x5D ++ encV3 f)
  | .vshr c f => some (encCtl c 0x5E ++ encV3 f)
  | .vsar c f => some (encCtl c 0x5F ++ encV3 f)
  | .vmin c f => some (encCtl c 0x60 ++ encV3 f)
  | .vmax c f => some (encCtl c 0x61 ++ encV3 f)
  | .vabs c f => some (encCtl c 0x62 ++ encV3 f)
  | .vcmp c f => some (encCtl c 0x63 ++ encV3 f)
  | .vsel c f => some (encCtl c 0x64 ++ encV3 f)
  | .vpopc c f => some (encCtl c 0x65 ++ encV3 f)
  | .vclz c f => some (encCtl c 0x66 ++ encV3 f)
  | .vbrev c f => some (encCtl c 0x67 ++ encV3 f)
  | .vbfx c f => some (encCtl c 0x68 ++ encV3 f)
  | .vbfi c f => some (encCtl c 0x69 ++ encV3 f)
  | .vprmt c f => some (encCtl c 0x6A ++ encV3 f)
  | .vdot4 c f => some (encCtl c 0x6B ++ encV3 f)
  | .pop c f => some (encCtl c 0x6C ++ encV3 f)
  | .fadd c f => some (encCtl c 0x80 ++ encV3 f)
  | .fsub c f => some (encCtl c 0x81 ++ encV3 f)
  | .fmul c f => some (encCtl c 0x82 ++ encV3 f)
  | .ffma c f => some (encCtl c 0x83 ++ encV3 f)
  | .fmin c f => some (encCtl c 0x84 ++ encV3 f)
  | .fmax c f => some (encCtl c 0x85 ++ encV3 f)
  | .fminn c f => some (encCtl c 0x86 ++ encV3 f)
  | .fmaxn c f => some (encCtl c 0x87 ++ encV3 f)
  | .fcmp c f => some (encCtl c 0x88 ++ encV3 f)
  | .fclass c f => some (encCtl c 0x89 ++ encV3 f)
  | .fclassKey c f => some (encCtl c 0x89 ++ encV3 f)
  | .fabs c f => some (encCtl c 0x8A ++ encV3 f)
  | .fneg c f => some (encCtl c 0x8B ++ encV3 f)
  | .frnd c f => some (encCtl c 0x8C ++ encV3 f)
  | .fdot2 c f => some (encCtl c 0x8D ++ encV3 f)
  | .fcvt c f => some (encCtl c 0x8E ++ encV3 f)
  | .fpack c f => some (encCtl c 0x8F ++ encV3 f)
  | .funpk c f => some (encCtl c 0x90 ++ encV3 f)
  | .fscl c f => some (encCtl c 0x91 ++ encV3 f)
  | .xrcp c f => some (encCtl c 0x98 ++ encV3 f)
  | .xrsq c f => some (encCtl c 0x99 ++ encV3 f)
  | .xsqrt c f => some (encCtl c 0x9A ++ encV3 f)
  | .xexp2 c f => some (encCtl c 0x9B ++ encV3 f)
  | .xlog2 c f => some (encCtl c 0x9C ++ encV3 f)
  | .xsin c f => some (encCtl c 0x9D ++ encV3 f)
  | .xcos c f => some (encCtl c 0x9E ++ encV3 f)
  | .xtanh c f => some (encCtl c 0x9F ++ encV3 f)
  | .xsig c f => some (encCtl c 0xA0 ++ encV3 f)
  | .lshf c f => some (encCtl c 0xA4 ++ encV3 f)
  | .lbc c f => some (encCtl c 0xA5 ++ encV3 f)
  | .lvoteAll c f => some (encCtl c 0xA6 ++ encV3 f)
  | .lvoteAny c f => some (encCtl c 0xA6 ++ encV3 f)
  | .lvoteUni c f => some (encCtl c 0xA6 ++ encV3 f)
  | .lvoteBal c f => some (encCtl c 0xA6 ++ encV3 f)
  | .lred c f => some (encCtl c 0xA7 ++ encV3 f)
  | .lscan c f => some (encCtl c 0xA8 ++ encV3 f)
  | .lmatch c f => some (encCtl c 0xA9 ++ encV3 f)
  | .lcmpr c f => some (encCtl c 0xAA ++ encV3 f)
  | .xsend c f => some (encCtl c 0xAB ++ encV3 f)
  | .xrecv c f => some (encCtl c 0xAC ++ encV3 f)
  | .vfromg c f => some (encCtl c 0xAD ++ encV3 f)
  | .vtog c f => some (encCtl c 0xAE ++ encV3 f)
  | .vtogFirst c f => some (encCtl c 0xAE ++ encV3 f)
  | .ld c f => some (encCtl c 0xB0 ++ encM f)
  | .st c f => some (encCtl c 0xB1 ++ encM f)
  | .lds c f => some (encCtl c 0xB2 ++ encM f)
  | .sts c f => some (encCtl c 0xB3 ++ encM f)
  | .ldsc c f => some (encCtl c 0xB4 ++ encM f)
  | .stsc c f => some (encCtl c 0xB5 ++ encM f)
  | .lda c f => some (encCtl c 0xB6 ++ encMO f)
  | .ldaRng c f => some (encCtl c 0xB6 ++ encMO f)
  | .stl c f => some (encCtl c 0xB7 ++ encMO f)
  | .fence c f => some (encCtl c 0xB8 ++ encMO f)
  | .prf c f => some (encCtl c 0xB9 ++ encM f)
  | .cpy c f => some (encCtl c 0xBA ++ encA f)
  | .bseal c f => some (encCtl c 0xBB ++ encA f)
  | .bwait c f => some (encCtl c 0xBC ++ encA f)
  | .waita c f => some (encCtl c 0xBD ++ encM f)
  | .waitaSp c f => some (encCtl c 0xBD ++ encM f)
  | .cinvL1 c f => some (encCtl c 0xBE ++ encM f)
  | .cinvAll c f => some (encCtl c 0xBE ++ encM f)
  | .cwb c f => some (encCtl c 0xBF ++ encM f)
  | .nbarv c f => some (encCtl c 0xC0 ++ encM f)
  | .nbsync c f => some (encCtl c 0xC1 ++ encM f)
  | .nbwait c f => some (encCtl c 0xC2 ++ encM f)
  | .tbinit c f => some (encCtl c 0xC3 ++ encM f)
  | .tbarv c f => some (encCtl c 0xC4 ++ encM f)
  | .tbexp c f => some (encCtl c 0xC5 ++ encM f)
  | .tbwait c f => some (encCtl c 0xC6 ++ encM f)
  | .tbinv c f => some (encCtl c 0xC7 ++ encM f)
  | .cbarv c f => some (encCtl c 0xC8 ++ encM f)
  | .cbsync c f => some (encCtl c 0xC9 ++ encM f)
  | .phadv c f => some (encCtl c 0xCA ++ encM f)
  | .phwaitNbr c f => some (encCtl c 0xCB ++ encM f)
  | .phwaitAll c f => some (encCtl c 0xCB ++ encM f)
  | .sealv c f => some (encCtl c 0xCC ++ encM f)
  | .reuse c f => some (encCtl c 0xCD ++ encM f)
  | .drop c f => some (encCtl c 0xCE ++ encM f)
  | .rdhintFloor c f => some (encCtl c 0xCF ++ encM f)
  | .rdhintCeil c f => some (encCtl c 0xCF ++ encM f)
  | .rdhintClear c f => some (encCtl c 0xCF ++ encM f)
  | .rdhintQuery c f => some (encCtl c 0xCF ++ encM f)
  | .atom c f => some (encCtl c 0xD0 ++ encX f)
  | .atomf c f => some (encCtl c 0xD1 ++ encX f)
  | .cas c f => some (encCtl c 0xD2 ++ encX f)
  | .casXchg c f => some (encCtl c 0xD2 ++ encX f)
  | .red c f => some (encCtl c 0xD3 ++ encX f)
  | .oapp c f => some (encCtl c 0xD4 ++ encX f)
  | .odecl c f => some (encCtl c 0xD5 ++ encX f)
  | .skred c f => some (encCtl c 0xD6 ++ encX f)
  | .skinit c f => some (encCtl c 0xD8 ++ encA f)
  | .skadd c f => some (encCtl c 0xD9 ++ encA f)
  | .skmrg c f => some (encCtl c 0xDA ++ encA f)
  | .skcmp c f => some (encCtl c 0xDB ++ encA f)
  | .skq c f => some (encCtl c 0xDC ++ encA f)
  | .skrank c f => some (encCtl c 0xDD ++ encA f)
  | .sktop c f => some (encCtl c 0xDE ++ encA f)
  | .skdc c f => some (encCtl c 0xDF ++ encA f)
  | .rngkSet c f => some (encCtl c 0xE0 ++ encA f)
  | .rngkSeek c f => some (encCtl c 0xE0 ++ encA f)
  | .rngkRead c f => some (encCtl c 0xE0 ++ encA f)
  | .rngv c f => some (encCtl c 0xE1 ++ encA f)
  | .rngu c f => some (encCtl c 0xE2 ++ encA f)
  | .sgumb c f => some (encCtl c 0xE3 ++ encA f)
  | .stopk c f => some (encCtl c 0xE4 ++ encA f)
  | .mxm c f => some (encCtl c 0xE8 ++ encA f)
  | .mxmt c f => some (encCtl c 0xE9 ++ encA f)
  | .mxmg c f => some (encCtl c 0xEA ++ encA f)
  | .acld c f => some (encCtl c 0xEB ++ encA f)
  | .acst c f => some (encCtl c 0xEC ++ encA f)
  | .acz c f => some (encCtl c 0xED ++ encA f)
  | .cbld c f => some (encCtl c 0xEE ++ encA f)
  | .qsplit c f => some (encCtl c 0xEF ++ encA f)
  | .wrsig c f => some (encCtl c 0xF0 ++ encA f)
  | .mcst c f => some (encCtl c 0xF1 ++ encA f)
  | .cpyr c f => some (encCtl c 0xF2 ++ encA f)
  | .coll c f => some (encCtl c 0xF3 ++ encA f)
  | .clrun c f => some (encCtl c 0xF4 ++ encA f)
  | .launch c f => some (encCtl c 0xF6 ++ encA f)
  | .lqryQueue c f => some (encCtl c 0xF7 ++ encA f)
  | .lqrySys c f => some (encCtl c 0xF7 ++ encA f)
  | .spapp c f => some (encCtl c 0xF8 ++ encA f)
  | .spverExact c f => some (encCtl c 0xF9 ++ encA f)
  | .spverProb c f => some (encCtl c 0xF9 ++ encA f)
  | .spacc c f => some (encCtl c 0xFA ++ encA f)
  | .sprst c f => some (encCtl c 0xFB ++ encA f)
  | .moduleReset => none
  | .pickerIssue _ => none
  | .logSlotFree _ => none
  | .watchdogExpiry _ => none
  | .sleepEnd _ => none
  | .yieldEnd _ => none
  | .memAccessComplete _ _ _ => none
  | .loadFillReturn _ _ _ => none
  | .wcBufferTimeout _ _ => none
  | .trackerEntryRetire _ _ => none
  | .completionWordRetry _ => none
  | .blockPlace _ _ _ => none
  | .blockStart _ => none
  | .clusterReserve _ _ _ => none
  | .clusterRetry _ _ => none
  | .preempt _ => none
  | .restore _ _ => none
  | .copyPieceWrite _ _ _ => none
  | .copyFaultStop _ _ => none
  | .summaryOpRun _ => none
  | .matrixOpRun _ => none
  | .matrixOpFault _ => none
  | .sramSingleBitError _ => none
  | .sramDoubleBitError _ => none
  | .scrubPass _ => none
  | .hbmCorrectedError _ => none
  | .hbmUncorrectableError _ => none
  | .patrolScrub _ => none
  | .keySlotError _ _ => none
  | .dieLinkFlitCrcFail _ => none
  | .dieLinkRetrainEnd _ _ => none
  | .powerSample _ _ _ => none
  | .thermalLimit _ => none
  | .ualinkPortRetrain _ => none
  | .portDown _ => none
  | .podReset => none
  | .svcReplay _ => none
  | .svcInval _ => none
  | .svcCtxstart _ => none
  | .svcCtxstop _ => none
  | .svcKeyload _ => none
  | .svcKeyclr _ => none
  | .svcPlimit _ => none
  | .svcAttest _ => none
  | .svcGrant _ => none
  | .svcUnknown _ => none
  | .cxlMemAccess _ => none
  | .cxlCacheSnoop _ => none
  | .waitaWake _ => none
  | .oappGrant _ => none
  | .orderedAtomicGrant _ => none
  | .lqExchange _ => none
  | .commitRoundStart _ => none
  | .commitRoundComplete _ => none
  | .intervalEnd _ => none
  | .directoryEntryError _ _ => none
  | .msgReqs _ => none
  | .msgReqx _ => none
  | .msgUpg _ => none
  | .msgPext _ => none
  | .msgEvn _ => none
  | .msgEvd _ => none
  | .msgSnpshr _ => none
  | .msgSnpinv _ => none
  | .msgSnpmask _ => none
  | .msgSnpmerge _ => none
  | .msgInv _ => none
  | .msgAck _ => none
  | .msgAckd _ => none
  | .msgDatas _ _ => none
  | .msgDatasn _ => none
  | .msgDatae _ _ => none
  | .msgDatap _ _ => none
  | .msgEvack _ => none
  | .msgAtomf _ => none
  | .msgAtomr _ => none
  | .msgRdu _ => none
  | .msgRdur _ => none
  | .msgWru _ => none
  | .msgWrua _ => none
  | .msgPut _ => none
  | .msgPuta _ => none
  | .msgSig _ => none
  | .msgMcd _ => none
  | .msgRdc _ => none
  | .msgRdr _ => none
  | .reductionDeadline _ _ => none
  | .msgRsv _ => none
  | .msgGnt _ => none
  | .grantWithdraw _ => none
  | .msgNak _ => none
  | .nakBackoffExpiry _ => none
  | .fabricAck _ => none
  | .reservedMessageDrop _ => none
  | .chamoisOpStart _ _ => none
  | .clSend _ _ => none
  | .clRecv _ _ => none
  | .clReduce _ _ => none
  | .clCopy _ _ => none
  | .clMcast _ _ => none
  | .clWaitb _ _ => none
  | .clSignal _ _ => none
  | .clArrive _ _ => none
  | .clLoop _ _ => none
  | .clEndloop _ _ => none
  | .clRange _ _ => none
  | .clEnd _ _ => none
  | .ualinkPortRetrainEnd _ => none
  | .linkLevelReplay _ => none
  | .completionPoint _ _ => none
  | .copyEngineOpStart _ => none
  | .fallbackWatchdogLimit _ _ => none
  | .ultraEthernetDelivery _ => none
  | .spdmSecureSessionMessage _ _ _ _ => none
  | .nonWindowRequestDrop _ => none

/-! ## Pipe classes, chains and prefixes -/

/-- The pipe class of R70; none for NOP and PFX. -/
inductive Pipe where
  | none | s | v | x | l | m | a
  deriving DecidableEq, Repr

/-- The pipe class an opcode belongs to (R70). -/
def pipeOfOp (op : Nat) : Pipe :=
  if op < 0x10 then .none else if op < 0x50 then .s else if op < 0x98 then .v else if op < 0xA4 then .x
  else if op < 0xB0 then .l else if 0xBA ≤ op && op ≤ 0xBC then .a else if op < 0xD8 then .m else .a

/-- The major opcode of a program instruction; 0 for the rows that are no instruction word. -/
def opcodeOf : Instr → Nat
  | .nop _ _ => 0x00
  | .pfx _ _ => 0x01
  | .gmov _ _ => 0x10
  | .gmovi _ _ => 0x11
  | .gmovh _ _ => 0x12
  | .gadd _ _ => 0x13
  | .gsub _ _ => 0x14
  | .gmul _ _ => 0x15
  | .gmulh _ _ => 0x16
  | .gdiv _ _ => 0x17
  | .grem _ _ => 0x18
  | .gand _ _ => 0x19
  | .gor _ _ => 0x1A
  | .gxor _ _ => 0x1B
  | .gnot _ _ => 0x1C
  | .gshl _ _ => 0x1D
  | .gshr _ _ => 0x1E
  | .gsar _ _ => 0x1F
  | .grot _ _ => 0x20
  | .gmin _ _ => 0x21
  | .gmax _ _ => 0x22
  | .gcmp _ _ => 0x23
  | .gsel _ _ => 0x24
  | .glea _ _ => 0x25
  | .gpopc _ _ => 0x26
  | .gclz _ _ => 0x27
  | .gbfx _ _ => 0x28
  | .gbfi _ _ => 0x29
  | .qop _ _ => 0x2A
  | .sread _ _ => 0x2B
  | .swrite _ _ => 0x2C
  | .setfmt _ _ => 0x2D
  | .getfmt _ _ => 0x2E
  | .bra _ _ => 0x2F
  | .brx _ _ => 0x30
  | .call _ _ => 0x31
  | .ret _ _ => 0x32
  | .vbr _ _ => 0x33
  | .vbrk _ _ => 0x34
  | .vexit _ _ => 0x35
  | .waitk _ _ => 0x36
  | .yield _ _ => 0x37
  | .sleep _ _ => 0x38
  | .exit _ _ => 0x39
  | .tail _ _ => 0x3A
  | .trap _ _ => 0x3B
  | .bkpt _ _ => 0x3C
  | .vmov _ _ => 0x50
  | .vmovi _ _ => 0x51
  | .vmoviHi _ _ => 0x51
  | .vmoviZ _ _ => 0x51
  | .vmoviRep _ _ => 0x51
  | .vadd _ _ => 0x52
  | .vsub _ _ => 0x53
  | .vmul _ _ => 0x54
  | .vmulh _ _ => 0x55
  | .vmad _ _ => 0x56
  | .vdiv _ _ => 0x57
  | .vrem _ _ => 0x58
  | .vand _ _ => 0x59
  | .vor _ _ => 0x5A
  | .vxor _ _ => 0x5B
  | .vnot _ _ => 0x5C
  | .vshl _ _ => 0x5D
  | .vshr _ _ => 0x5E
  | .vsar _ _ => 0x5F
  | .vmin _ _ => 0x60
  | .vmax _ _ => 0x61
  | .vabs _ _ => 0x62
  | .vcmp _ _ => 0x63
  | .vsel _ _ => 0x64
  | .vpopc _ _ => 0x65
  | .vclz _ _ => 0x66
  | .vbrev _ _ => 0x67
  | .vbfx _ _ => 0x68
  | .vbfi _ _ => 0x69
  | .vprmt _ _ => 0x6A
  | .vdot4 _ _ => 0x6B
  | .pop _ _ => 0x6C
  | .fadd _ _ => 0x80
  | .fsub _ _ => 0x81
  | .fmul _ _ => 0x82
  | .ffma _ _ => 0x83
  | .fmin _ _ => 0x84
  | .fmax _ _ => 0x85
  | .fminn _ _ => 0x86
  | .fmaxn _ _ => 0x87
  | .fcmp _ _ => 0x88
  | .fclass _ _ => 0x89
  | .fclassKey _ _ => 0x89
  | .fabs _ _ => 0x8A
  | .fneg _ _ => 0x8B
  | .frnd _ _ => 0x8C
  | .fdot2 _ _ => 0x8D
  | .fcvt _ _ => 0x8E
  | .fpack _ _ => 0x8F
  | .funpk _ _ => 0x90
  | .fscl _ _ => 0x91
  | .xrcp _ _ => 0x98
  | .xrsq _ _ => 0x99
  | .xsqrt _ _ => 0x9A
  | .xexp2 _ _ => 0x9B
  | .xlog2 _ _ => 0x9C
  | .xsin _ _ => 0x9D
  | .xcos _ _ => 0x9E
  | .xtanh _ _ => 0x9F
  | .xsig _ _ => 0xA0
  | .lshf _ _ => 0xA4
  | .lbc _ _ => 0xA5
  | .lvoteAll _ _ => 0xA6
  | .lvoteAny _ _ => 0xA6
  | .lvoteUni _ _ => 0xA6
  | .lvoteBal _ _ => 0xA6
  | .lred _ _ => 0xA7
  | .lscan _ _ => 0xA8
  | .lmatch _ _ => 0xA9
  | .lcmpr _ _ => 0xAA
  | .xsend _ _ => 0xAB
  | .xrecv _ _ => 0xAC
  | .vfromg _ _ => 0xAD
  | .vtog _ _ => 0xAE
  | .vtogFirst _ _ => 0xAE
  | .ld _ _ => 0xB0
  | .st _ _ => 0xB1
  | .lds _ _ => 0xB2
  | .sts _ _ => 0xB3
  | .ldsc _ _ => 0xB4
  | .stsc _ _ => 0xB5
  | .lda _ _ => 0xB6
  | .ldaRng _ _ => 0xB6
  | .stl _ _ => 0xB7
  | .fence _ _ => 0xB8
  | .prf _ _ => 0xB9
  | .cpy _ _ => 0xBA
  | .bseal _ _ => 0xBB
  | .bwait _ _ => 0xBC
  | .waita _ _ => 0xBD
  | .waitaSp _ _ => 0xBD
  | .cinvL1 _ _ => 0xBE
  | .cinvAll _ _ => 0xBE
  | .cwb _ _ => 0xBF
  | .nbarv _ _ => 0xC0
  | .nbsync _ _ => 0xC1
  | .nbwait _ _ => 0xC2
  | .tbinit _ _ => 0xC3
  | .tbarv _ _ => 0xC4
  | .tbexp _ _ => 0xC5
  | .tbwait _ _ => 0xC6
  | .tbinv _ _ => 0xC7
  | .cbarv _ _ => 0xC8
  | .cbsync _ _ => 0xC9
  | .phadv _ _ => 0xCA
  | .phwaitNbr _ _ => 0xCB
  | .phwaitAll _ _ => 0xCB
  | .sealv _ _ => 0xCC
  | .reuse _ _ => 0xCD
  | .drop _ _ => 0xCE
  | .rdhintFloor _ _ => 0xCF
  | .rdhintCeil _ _ => 0xCF
  | .rdhintClear _ _ => 0xCF
  | .rdhintQuery _ _ => 0xCF
  | .atom _ _ => 0xD0
  | .atomf _ _ => 0xD1
  | .cas _ _ => 0xD2
  | .casXchg _ _ => 0xD2
  | .red _ _ => 0xD3
  | .oapp _ _ => 0xD4
  | .odecl _ _ => 0xD5
  | .skred _ _ => 0xD6
  | .skinit _ _ => 0xD8
  | .skadd _ _ => 0xD9
  | .skmrg _ _ => 0xDA
  | .skcmp _ _ => 0xDB
  | .skq _ _ => 0xDC
  | .skrank _ _ => 0xDD
  | .sktop _ _ => 0xDE
  | .skdc _ _ => 0xDF
  | .rngkSet _ _ => 0xE0
  | .rngkSeek _ _ => 0xE0
  | .rngkRead _ _ => 0xE0
  | .rngv _ _ => 0xE1
  | .rngu _ _ => 0xE2
  | .sgumb _ _ => 0xE3
  | .stopk _ _ => 0xE4
  | .mxm _ _ => 0xE8
  | .mxmt _ _ => 0xE9
  | .mxmg _ _ => 0xEA
  | .acld _ _ => 0xEB
  | .acst _ _ => 0xEC
  | .acz _ _ => 0xED
  | .cbld _ _ => 0xEE
  | .qsplit _ _ => 0xEF
  | .wrsig _ _ => 0xF0
  | .mcst _ _ => 0xF1
  | .cpyr _ _ => 0xF2
  | .coll _ _ => 0xF3
  | .clrun _ _ => 0xF4
  | .launch _ _ => 0xF6
  | .lqryQueue _ _ => 0xF7
  | .lqrySys _ _ => 0xF7
  | .spapp _ _ => 0xF8
  | .spverExact _ _ => 0xF9
  | .spverProb _ _ => 0xF9
  | .spacc _ _ => 0xFA
  | .sprst _ _ => 0xFB
  | .moduleReset => 0
  | .pickerIssue _ => 0
  | .logSlotFree _ => 0
  | .watchdogExpiry _ => 0
  | .sleepEnd _ => 0
  | .yieldEnd _ => 0
  | .memAccessComplete _ _ _ => 0
  | .loadFillReturn _ _ _ => 0
  | .wcBufferTimeout _ _ => 0
  | .trackerEntryRetire _ _ => 0
  | .completionWordRetry _ => 0
  | .blockPlace _ _ _ => 0
  | .blockStart _ => 0
  | .clusterReserve _ _ _ => 0
  | .clusterRetry _ _ => 0
  | .preempt _ => 0
  | .restore _ _ => 0
  | .copyPieceWrite _ _ _ => 0
  | .copyFaultStop _ _ => 0
  | .summaryOpRun _ => 0
  | .matrixOpRun _ => 0
  | .matrixOpFault _ => 0
  | .sramSingleBitError _ => 0
  | .sramDoubleBitError _ => 0
  | .scrubPass _ => 0
  | .hbmCorrectedError _ => 0
  | .hbmUncorrectableError _ => 0
  | .patrolScrub _ => 0
  | .keySlotError _ _ => 0
  | .dieLinkFlitCrcFail _ => 0
  | .dieLinkRetrainEnd _ _ => 0
  | .powerSample _ _ _ => 0
  | .thermalLimit _ => 0
  | .ualinkPortRetrain _ => 0
  | .portDown _ => 0
  | .podReset => 0
  | .svcReplay _ => 0
  | .svcInval _ => 0
  | .svcCtxstart _ => 0
  | .svcCtxstop _ => 0
  | .svcKeyload _ => 0
  | .svcKeyclr _ => 0
  | .svcPlimit _ => 0
  | .svcAttest _ => 0
  | .svcGrant _ => 0
  | .svcUnknown _ => 0
  | .cxlMemAccess _ => 0
  | .cxlCacheSnoop _ => 0
  | .waitaWake _ => 0
  | .oappGrant _ => 0
  | .orderedAtomicGrant _ => 0
  | .lqExchange _ => 0
  | .commitRoundStart _ => 0
  | .commitRoundComplete _ => 0
  | .intervalEnd _ => 0
  | .directoryEntryError _ _ => 0
  | .msgReqs _ => 0
  | .msgReqx _ => 0
  | .msgUpg _ => 0
  | .msgPext _ => 0
  | .msgEvn _ => 0
  | .msgEvd _ => 0
  | .msgSnpshr _ => 0
  | .msgSnpinv _ => 0
  | .msgSnpmask _ => 0
  | .msgSnpmerge _ => 0
  | .msgInv _ => 0
  | .msgAck _ => 0
  | .msgAckd _ => 0
  | .msgDatas _ _ => 0
  | .msgDatasn _ => 0
  | .msgDatae _ _ => 0
  | .msgDatap _ _ => 0
  | .msgEvack _ => 0
  | .msgAtomf _ => 0
  | .msgAtomr _ => 0
  | .msgRdu _ => 0
  | .msgRdur _ => 0
  | .msgWru _ => 0
  | .msgWrua _ => 0
  | .msgPut _ => 0
  | .msgPuta _ => 0
  | .msgSig _ => 0
  | .msgMcd _ => 0
  | .msgRdc _ => 0
  | .msgRdr _ => 0
  | .reductionDeadline _ _ => 0
  | .msgRsv _ => 0
  | .msgGnt _ => 0
  | .grantWithdraw _ => 0
  | .msgNak _ => 0
  | .nakBackoffExpiry _ => 0
  | .fabricAck _ => 0
  | .reservedMessageDrop _ => 0
  | .chamoisOpStart _ _ => 0
  | .clSend _ _ => 0
  | .clRecv _ _ => 0
  | .clReduce _ _ => 0
  | .clCopy _ _ => 0
  | .clMcast _ _ => 0
  | .clWaitb _ _ => 0
  | .clSignal _ _ => 0
  | .clArrive _ _ => 0
  | .clLoop _ _ => 0
  | .clEndloop _ _ => 0
  | .clRange _ _ => 0
  | .clEnd _ _ => 0
  | .ualinkPortRetrainEnd _ => 0
  | .linkLevelReplay _ => 0
  | .completionPoint _ _ => 0
  | .copyEngineOpStart _ => 0
  | .fallbackWatchdogLimit _ _ => 0
  | .ultraEthernetDelivery _ => 0
  | .spdmSecureSessionMessage _ _ _ _ => 0
  | .nonWindowRequestDrop _ => 0

/-- The control fields of a program instruction; all zero for the other rows. -/
def ctlOfInstr : Instr → Ctl
  | .nop c _ => c
  | .pfx c _ => c
  | .gmov c _ => c
  | .gmovi c _ => c
  | .gmovh c _ => c
  | .gadd c _ => c
  | .gsub c _ => c
  | .gmul c _ => c
  | .gmulh c _ => c
  | .gdiv c _ => c
  | .grem c _ => c
  | .gand c _ => c
  | .gor c _ => c
  | .gxor c _ => c
  | .gnot c _ => c
  | .gshl c _ => c
  | .gshr c _ => c
  | .gsar c _ => c
  | .grot c _ => c
  | .gmin c _ => c
  | .gmax c _ => c
  | .gcmp c _ => c
  | .gsel c _ => c
  | .glea c _ => c
  | .gpopc c _ => c
  | .gclz c _ => c
  | .gbfx c _ => c
  | .gbfi c _ => c
  | .qop c _ => c
  | .sread c _ => c
  | .swrite c _ => c
  | .setfmt c _ => c
  | .getfmt c _ => c
  | .bra c _ => c
  | .brx c _ => c
  | .call c _ => c
  | .ret c _ => c
  | .vbr c _ => c
  | .vbrk c _ => c
  | .vexit c _ => c
  | .waitk c _ => c
  | .yield c _ => c
  | .sleep c _ => c
  | .exit c _ => c
  | .tail c _ => c
  | .trap c _ => c
  | .bkpt c _ => c
  | .vmov c _ => c
  | .vmovi c _ => c
  | .vmoviHi c _ => c
  | .vmoviZ c _ => c
  | .vmoviRep c _ => c
  | .vadd c _ => c
  | .vsub c _ => c
  | .vmul c _ => c
  | .vmulh c _ => c
  | .vmad c _ => c
  | .vdiv c _ => c
  | .vrem c _ => c
  | .vand c _ => c
  | .vor c _ => c
  | .vxor c _ => c
  | .vnot c _ => c
  | .vshl c _ => c
  | .vshr c _ => c
  | .vsar c _ => c
  | .vmin c _ => c
  | .vmax c _ => c
  | .vabs c _ => c
  | .vcmp c _ => c
  | .vsel c _ => c
  | .vpopc c _ => c
  | .vclz c _ => c
  | .vbrev c _ => c
  | .vbfx c _ => c
  | .vbfi c _ => c
  | .vprmt c _ => c
  | .vdot4 c _ => c
  | .pop c _ => c
  | .fadd c _ => c
  | .fsub c _ => c
  | .fmul c _ => c
  | .ffma c _ => c
  | .fmin c _ => c
  | .fmax c _ => c
  | .fminn c _ => c
  | .fmaxn c _ => c
  | .fcmp c _ => c
  | .fclass c _ => c
  | .fclassKey c _ => c
  | .fabs c _ => c
  | .fneg c _ => c
  | .frnd c _ => c
  | .fdot2 c _ => c
  | .fcvt c _ => c
  | .fpack c _ => c
  | .funpk c _ => c
  | .fscl c _ => c
  | .xrcp c _ => c
  | .xrsq c _ => c
  | .xsqrt c _ => c
  | .xexp2 c _ => c
  | .xlog2 c _ => c
  | .xsin c _ => c
  | .xcos c _ => c
  | .xtanh c _ => c
  | .xsig c _ => c
  | .lshf c _ => c
  | .lbc c _ => c
  | .lvoteAll c _ => c
  | .lvoteAny c _ => c
  | .lvoteUni c _ => c
  | .lvoteBal c _ => c
  | .lred c _ => c
  | .lscan c _ => c
  | .lmatch c _ => c
  | .lcmpr c _ => c
  | .xsend c _ => c
  | .xrecv c _ => c
  | .vfromg c _ => c
  | .vtog c _ => c
  | .vtogFirst c _ => c
  | .ld c _ => c
  | .st c _ => c
  | .lds c _ => c
  | .sts c _ => c
  | .ldsc c _ => c
  | .stsc c _ => c
  | .lda c _ => c
  | .ldaRng c _ => c
  | .stl c _ => c
  | .fence c _ => c
  | .prf c _ => c
  | .cpy c _ => c
  | .bseal c _ => c
  | .bwait c _ => c
  | .waita c _ => c
  | .waitaSp c _ => c
  | .cinvL1 c _ => c
  | .cinvAll c _ => c
  | .cwb c _ => c
  | .nbarv c _ => c
  | .nbsync c _ => c
  | .nbwait c _ => c
  | .tbinit c _ => c
  | .tbarv c _ => c
  | .tbexp c _ => c
  | .tbwait c _ => c
  | .tbinv c _ => c
  | .cbarv c _ => c
  | .cbsync c _ => c
  | .phadv c _ => c
  | .phwaitNbr c _ => c
  | .phwaitAll c _ => c
  | .sealv c _ => c
  | .reuse c _ => c
  | .drop c _ => c
  | .rdhintFloor c _ => c
  | .rdhintCeil c _ => c
  | .rdhintClear c _ => c
  | .rdhintQuery c _ => c
  | .atom c _ => c
  | .atomf c _ => c
  | .cas c _ => c
  | .casXchg c _ => c
  | .red c _ => c
  | .oapp c _ => c
  | .odecl c _ => c
  | .skred c _ => c
  | .skinit c _ => c
  | .skadd c _ => c
  | .skmrg c _ => c
  | .skcmp c _ => c
  | .skq c _ => c
  | .skrank c _ => c
  | .sktop c _ => c
  | .skdc c _ => c
  | .rngkSet c _ => c
  | .rngkSeek c _ => c
  | .rngkRead c _ => c
  | .rngv c _ => c
  | .rngu c _ => c
  | .sgumb c _ => c
  | .stopk c _ => c
  | .mxm c _ => c
  | .mxmt c _ => c
  | .mxmg c _ => c
  | .acld c _ => c
  | .acst c _ => c
  | .acz c _ => c
  | .cbld c _ => c
  | .qsplit c _ => c
  | .wrsig c _ => c
  | .mcst c _ => c
  | .cpyr c _ => c
  | .coll c _ => c
  | .clrun c _ => c
  | .launch c _ => c
  | .lqryQueue c _ => c
  | .lqrySys c _ => c
  | .spapp c _ => c
  | .spverExact c _ => c
  | .spverProb c _ => c
  | .spacc c _ => c
  | .sprst c _ => c
  | .moduleReset => ⟨0, 0, 0, 0⟩
  | .pickerIssue _ => ⟨0, 0, 0, 0⟩
  | .logSlotFree _ => ⟨0, 0, 0, 0⟩
  | .watchdogExpiry _ => ⟨0, 0, 0, 0⟩
  | .sleepEnd _ => ⟨0, 0, 0, 0⟩
  | .yieldEnd _ => ⟨0, 0, 0, 0⟩
  | .memAccessComplete _ _ _ => ⟨0, 0, 0, 0⟩
  | .loadFillReturn _ _ _ => ⟨0, 0, 0, 0⟩
  | .wcBufferTimeout _ _ => ⟨0, 0, 0, 0⟩
  | .trackerEntryRetire _ _ => ⟨0, 0, 0, 0⟩
  | .completionWordRetry _ => ⟨0, 0, 0, 0⟩
  | .blockPlace _ _ _ => ⟨0, 0, 0, 0⟩
  | .blockStart _ => ⟨0, 0, 0, 0⟩
  | .clusterReserve _ _ _ => ⟨0, 0, 0, 0⟩
  | .clusterRetry _ _ => ⟨0, 0, 0, 0⟩
  | .preempt _ => ⟨0, 0, 0, 0⟩
  | .restore _ _ => ⟨0, 0, 0, 0⟩
  | .copyPieceWrite _ _ _ => ⟨0, 0, 0, 0⟩
  | .copyFaultStop _ _ => ⟨0, 0, 0, 0⟩
  | .summaryOpRun _ => ⟨0, 0, 0, 0⟩
  | .matrixOpRun _ => ⟨0, 0, 0, 0⟩
  | .matrixOpFault _ => ⟨0, 0, 0, 0⟩
  | .sramSingleBitError _ => ⟨0, 0, 0, 0⟩
  | .sramDoubleBitError _ => ⟨0, 0, 0, 0⟩
  | .scrubPass _ => ⟨0, 0, 0, 0⟩
  | .hbmCorrectedError _ => ⟨0, 0, 0, 0⟩
  | .hbmUncorrectableError _ => ⟨0, 0, 0, 0⟩
  | .patrolScrub _ => ⟨0, 0, 0, 0⟩
  | .keySlotError _ _ => ⟨0, 0, 0, 0⟩
  | .dieLinkFlitCrcFail _ => ⟨0, 0, 0, 0⟩
  | .dieLinkRetrainEnd _ _ => ⟨0, 0, 0, 0⟩
  | .powerSample _ _ _ => ⟨0, 0, 0, 0⟩
  | .thermalLimit _ => ⟨0, 0, 0, 0⟩
  | .ualinkPortRetrain _ => ⟨0, 0, 0, 0⟩
  | .portDown _ => ⟨0, 0, 0, 0⟩
  | .podReset => ⟨0, 0, 0, 0⟩
  | .svcReplay _ => ⟨0, 0, 0, 0⟩
  | .svcInval _ => ⟨0, 0, 0, 0⟩
  | .svcCtxstart _ => ⟨0, 0, 0, 0⟩
  | .svcCtxstop _ => ⟨0, 0, 0, 0⟩
  | .svcKeyload _ => ⟨0, 0, 0, 0⟩
  | .svcKeyclr _ => ⟨0, 0, 0, 0⟩
  | .svcPlimit _ => ⟨0, 0, 0, 0⟩
  | .svcAttest _ => ⟨0, 0, 0, 0⟩
  | .svcGrant _ => ⟨0, 0, 0, 0⟩
  | .svcUnknown _ => ⟨0, 0, 0, 0⟩
  | .cxlMemAccess _ => ⟨0, 0, 0, 0⟩
  | .cxlCacheSnoop _ => ⟨0, 0, 0, 0⟩
  | .waitaWake _ => ⟨0, 0, 0, 0⟩
  | .oappGrant _ => ⟨0, 0, 0, 0⟩
  | .orderedAtomicGrant _ => ⟨0, 0, 0, 0⟩
  | .lqExchange _ => ⟨0, 0, 0, 0⟩
  | .commitRoundStart _ => ⟨0, 0, 0, 0⟩
  | .commitRoundComplete _ => ⟨0, 0, 0, 0⟩
  | .intervalEnd _ => ⟨0, 0, 0, 0⟩
  | .directoryEntryError _ _ => ⟨0, 0, 0, 0⟩
  | .msgReqs _ => ⟨0, 0, 0, 0⟩
  | .msgReqx _ => ⟨0, 0, 0, 0⟩
  | .msgUpg _ => ⟨0, 0, 0, 0⟩
  | .msgPext _ => ⟨0, 0, 0, 0⟩
  | .msgEvn _ => ⟨0, 0, 0, 0⟩
  | .msgEvd _ => ⟨0, 0, 0, 0⟩
  | .msgSnpshr _ => ⟨0, 0, 0, 0⟩
  | .msgSnpinv _ => ⟨0, 0, 0, 0⟩
  | .msgSnpmask _ => ⟨0, 0, 0, 0⟩
  | .msgSnpmerge _ => ⟨0, 0, 0, 0⟩
  | .msgInv _ => ⟨0, 0, 0, 0⟩
  | .msgAck _ => ⟨0, 0, 0, 0⟩
  | .msgAckd _ => ⟨0, 0, 0, 0⟩
  | .msgDatas _ _ => ⟨0, 0, 0, 0⟩
  | .msgDatasn _ => ⟨0, 0, 0, 0⟩
  | .msgDatae _ _ => ⟨0, 0, 0, 0⟩
  | .msgDatap _ _ => ⟨0, 0, 0, 0⟩
  | .msgEvack _ => ⟨0, 0, 0, 0⟩
  | .msgAtomf _ => ⟨0, 0, 0, 0⟩
  | .msgAtomr _ => ⟨0, 0, 0, 0⟩
  | .msgRdu _ => ⟨0, 0, 0, 0⟩
  | .msgRdur _ => ⟨0, 0, 0, 0⟩
  | .msgWru _ => ⟨0, 0, 0, 0⟩
  | .msgWrua _ => ⟨0, 0, 0, 0⟩
  | .msgPut _ => ⟨0, 0, 0, 0⟩
  | .msgPuta _ => ⟨0, 0, 0, 0⟩
  | .msgSig _ => ⟨0, 0, 0, 0⟩
  | .msgMcd _ => ⟨0, 0, 0, 0⟩
  | .msgRdc _ => ⟨0, 0, 0, 0⟩
  | .msgRdr _ => ⟨0, 0, 0, 0⟩
  | .reductionDeadline _ _ => ⟨0, 0, 0, 0⟩
  | .msgRsv _ => ⟨0, 0, 0, 0⟩
  | .msgGnt _ => ⟨0, 0, 0, 0⟩
  | .grantWithdraw _ => ⟨0, 0, 0, 0⟩
  | .msgNak _ => ⟨0, 0, 0, 0⟩
  | .nakBackoffExpiry _ => ⟨0, 0, 0, 0⟩
  | .fabricAck _ => ⟨0, 0, 0, 0⟩
  | .reservedMessageDrop _ => ⟨0, 0, 0, 0⟩
  | .chamoisOpStart _ _ => ⟨0, 0, 0, 0⟩
  | .clSend _ _ => ⟨0, 0, 0, 0⟩
  | .clRecv _ _ => ⟨0, 0, 0, 0⟩
  | .clReduce _ _ => ⟨0, 0, 0, 0⟩
  | .clCopy _ _ => ⟨0, 0, 0, 0⟩
  | .clMcast _ _ => ⟨0, 0, 0, 0⟩
  | .clWaitb _ _ => ⟨0, 0, 0, 0⟩
  | .clSignal _ _ => ⟨0, 0, 0, 0⟩
  | .clArrive _ _ => ⟨0, 0, 0, 0⟩
  | .clLoop _ _ => ⟨0, 0, 0, 0⟩
  | .clEndloop _ _ => ⟨0, 0, 0, 0⟩
  | .clRange _ _ => ⟨0, 0, 0, 0⟩
  | .clEnd _ _ => ⟨0, 0, 0, 0⟩
  | .ualinkPortRetrainEnd _ => ⟨0, 0, 0, 0⟩
  | .linkLevelReplay _ => ⟨0, 0, 0, 0⟩
  | .completionPoint _ _ => ⟨0, 0, 0, 0⟩
  | .copyEngineOpStart _ => ⟨0, 0, 0, 0⟩
  | .fallbackWatchdogLimit _ _ => ⟨0, 0, 0, 0⟩
  | .ultraEthernetDelivery _ => ⟨0, 0, 0, 0⟩
  | .spdmSecureSessionMessage _ _ _ _ => ⟨0, 0, 0, 0⟩
  | .nonWindowRequestDrop _ => ⟨0, 0, 0, 0⟩

/-- Control transfers and issue-stopping instructions (R55 condition 4). -/
def stopsIssue (op : Nat) : Bool := (0x2F ≤ op && op ≤ 0x3C)

/-- A destination named in a D field: kind and register number (R55 condition 5). -/
inductive Dest where
  | v (n : Nat)
  | g (n : Nat)
  | p (n : Nat)
  | q (n : Nat)
  deriving DecidableEq, Repr

def destV (n k : Nat) : List Dest := (List.range k).map (fun j => .v (n + j))
def destG (n k : Nat) : List Dest := (List.range k).map (fun j => .g (n + j))

/-- The registers of a data operand of size 2^sz bytes (R65). -/
def dataRegs (sz : Nat) : Nat := if sz < 3 then 1 else 2 ^ (sz - 2)

def destV3 (f : FmtV3) : List Dest := destV f.d.toNat (if wideT f.t.toNat then 2 else 1)
def destS3 (f : FmtS3) : List Dest := destG f.d.toNat (if f.w then 2 else 1)

/-- The destinations an instruction names in its D field, with the halves of pairs (R55 condition 5). The DATA field of a load, which stands in the
same bits [31:24], counts as one, and the link register of CALL does not (log 61). -/
def destsOf : Instr → List Dest
  | .gmov _ f | .gadd _ f | .gsub _ f | .gmul _ f | .gmulh _ f | .gdiv _ f | .grem _ f | .gand _ f | .gor _ f
  | .gxor _ f | .gnot _ f | .gshl _ f | .gshr _ f | .gsar _ f | .grot _ f | .gmin _ f | .gmax _ f | .gsel _ f
  | .gbfx _ f | .gbfi _ f => destS3 f
  | .gpopc _ f | .gclz _ f | .getfmt _ f => destG f.d.toNat 1
  | .gmovi _ f | .gmovh _ f => destG f.d.toNat 1
  | .glea _ f => destG f.d.toNat 2
  | .sread _ f => destG f.d.toNat ((srWords f.b.toNat).getD 1)
  | .gcmp _ f | .qop _ f => [.q (f.d.toNat % 8)]
  | .vmovi _ f | .vmoviHi _ f | .vmoviZ _ f | .vmoviRep _ f => destV f.d.toNat 1
  | .vmov _ f | .vadd _ f | .vsub _ f | .vmul _ f | .vmulh _ f | .vmad _ f | .vdiv _ f | .vrem _ f | .vand _ f | .vor _ f
  | .vxor _ f | .vnot _ f | .vshl _ f | .vshr _ f | .vsar _ f | .vmin _ f | .vmax _ f | .vabs _ f | .vsel _ f
  | .vpopc _ f | .vclz _ f | .vbrev _ f | .vbfx _ f | .vbfi _ f | .vprmt _ f | .vdot4 _ f
  | .fadd _ f | .fsub _ f | .fmul _ f | .ffma _ f | .fmin _ f | .fmax _ f | .fminn _ f | .fmaxn _ f
  | .fclass _ f | .fclassKey _ f | .fabs _ f | .fneg _ f | .frnd _ f | .fdot2 _ f | .fcvt _ f | .fpack _ f | .funpk _ f
  | .fscl _ f | .xrcp _ f | .xrsq _ f | .xsqrt _ f | .xexp2 _ f | .xlog2 _ f | .xsin _ f | .xcos _ f | .xtanh _ f
  | .xsig _ f | .lbc _ f | .lred _ f | .lscan _ f | .lmatch _ f | .lcmpr _ f | .vfromg _ f => destV3 f
  | .lshf _ f | .lvoteBal _ f => destV f.d.toNat 1
  | .vcmp _ f | .fcmp _ f | .pop _ f => [.p (f.d.toNat % 8)]
  | .lvoteAll _ f | .lvoteAny _ f | .lvoteUni _ f => [.q (f.d.toNat % 8)]
  | .vtog _ f | .vtogFirst _ f => destG f.d.toNat (if f.t == 3 then 2 else 1)
  | .xrecv _ f => destV f.d.toNat (f.mode + 1)
  | .ld _ f | .lds _ f | .ldsc _ f => destV f.data.toNat (dataRegs f.sz.toNat)
  | .lda _ f | .ldaRng _ f => destV f.data.toNat (dataRegs f.sz.toNat)
  | .waita _ f | .waitaSp _ f => destG f.data.toNat (if f.sz == 3 then 2 else 1)
  | .tbwait _ f | .phwaitNbr _ f | .phwaitAll _ f | .reuse _ f => destG f.data.toNat 1
  | .rdhintFloor _ f | .rdhintCeil _ f | .rdhintQuery _ f => destG f.data.toNat 1
  | .sealv _ f => destG f.data.toNat 2
  | .atom _ f | .atomf _ f | .cas _ f | .casXchg _ f | .oapp _ f => destV f.d.toNat (if f.wide == 1 then 2 else 1)
  | _ => []

/-- Which of RND, SAT, CR a bound instruction accepts from a prefix (R129); none for an instruction that takes no prefix. -/
def pfxAccepts (i : Instr) : Option (Bool × Bool × Bool) :=
  let op := opcodeOf i
  if pipeOfOp op == .v || pipeOfOp op == .x then
    some (
      [0x80, 0x81, 0x82, 0x83, 0x91, 0x8D, 0x8F, 0x98, 0x9A].contains op,
      [0x52, 0x53, 0x54, 0x5D, 0x62, 0x56, 0x6B, 0x80, 0x81, 0x82, 0x83, 0x91, 0x8D, 0x8F, 0x8E, 0x98, 0x9A].contains op,
      [0x56, 0x6B, 0x8D, 0x83].contains op)
  else none

/-- A prefix may bind the instruction (R67, R129). For a 64-bit type CR names an even pair (R68). -/
def pfxBinds (f : FmtPFX) (i : Instr) : Bool :=
  match pfxAccepts i with
  | none => false
  | some (r, s, k) =>
    (r || f.rnd == 0) && (s || f.sat == 0) && (k || f.cr == 0) &&
    (isEven f.cr || !(match i with | .vmad _ v | .ffma _ v => wideT v.t.toNat | _ => false))

/-- Conditions 1 to 6 of R55. Two S words chain where the second is one of those that condition 4 allows only there: a GADD chained with a BRA is
legal (R110, and the example under R71), although condition 3 asks for different classes (log 84). -/
def chainLegal (pos : Nat) (i j : Instr) : Bool :=
  pos != 3 && (ctlOfInstr j).c == 0 &&
  (match i with
   | .pfx _ f => pfxBinds f j
   | _ =>
     (match j with | .pfx _ _ => false | _ => true) &&
     (pipeOfOp (opcodeOf i) == .none || pipeOfOp (opcodeOf i) != pipeOfOp (opcodeOf j) || (pipeOfOp (opcodeOf i) == .s && stopsIssue (opcodeOf j))) &&
     !stopsIssue (opcodeOf i) && (destsOf i).all (fun d => !(destsOf j).contains d))

/-- The opcode table's word of `nbits` bits, its upper bits zero, decoded. -/
def decodeTableWord (_nbits w : Nat) : Option Instr :=
  match decode (BitVec.ofNat 64 w) with
  | .ok i => some i
  | .error _ => none

end Sys2Proof
end

