-- ==== Sys2Proof/Machine/Gen.lean ====
section
/-!
DEFINITION. The counter-based generator (R201) and the draws of a group's stream (R203).
-/
namespace Sys2Proof.Machine

/-- Round constants of R201. -/
def genRot (r : Nat) : Nat × Nat := if r % 2 = 0 then (16, 12) else (8, 20)

/-- The state of the block function: four words. -/
structure Quad where
  a : W32
  b : W32
  c : W32
  d : W32
  deriving DecidableEq, Repr

def Quad.word (q : Quad) (i : Nat) : W32 := if i % 4 = 0 then q.a else if i % 4 = 1 then q.b else if i % 4 = 2 then q.c else q.d

def genRound (k : Quad) (r : Nat) (x : Quad) : Quad :=
  let ra := genRot r
  let x0 := x.a + x.b
  let x3 := (x.d ^^^ x0).rotateLeft ra.1
  let x2 := x.c + x3
  let x1 := (x.b ^^^ x2).rotateLeft ra.2
  if r % 2 = 0 then ⟨x0, x1, x2, x3⟩
  else
    let j := (r + 1) / 2
    ⟨x0 + k.word j + BitVec.ofNat 32 (j * 0x9E3779B9), x1 + k.word (j + 1), x2 + k.word (j + 2), x3 + k.word (j + 3)⟩

/-- The block function G (R201). -/
def genBlock (k c : Quad) : Quad :=
  (List.range 10).foldl (fun x r => genRound k r x) ⟨c.a + k.a, c.b + k.b, c.c + k.c, c.d + k.d⟩

def quadOf (x : BitVec 128) : Quad := ⟨x.extractLsb' 0 32, x.extractLsb' 32 32, x.extractLsb' 64 32, x.extractLsb' 96 32⟩

/-- Make an RNGK of an earlier cycle take effect (R203). -/
def Group.genSettle (g : Group) (now : Nat) : Group :=
  match g.gnext with
  | some (at', k, p, i) => if at' < now then { g with gk := k, gpos := p, gsid := i, gnext := none } else g
  | none => g

/-- The word of the group stream at a position (R203, domain 0 of R202). -/
def streamWord (g : Group) (pos : Nat) : W32 :=
  let b := pos / 4
  (genBlock (quadOf g.gk) ⟨BitVec.ofNat 32 b, BitVec.ofNat 32 (b / 2 ^ 32), g.gsid, 0⟩).word (pos % 4)

/-- The next `n` draws of the current group. -/
def State.draws (s : State) (n : Nat) : List W32 :=
  let g := s.me.genSettle s.clock
  (List.range n).map (fun i => streamWord g ((g.gpos.toNat + i) % 2 ^ 64))

/-- Take `n` draws. -/
def State.drawn (s : State) (n : Nat) : State :=
  if n = 0 then s else s.modMe (fun g => let g := g.genSettle s.clock; { g with gpos := g.gpos + BitVec.ofNat 64 n })

end Sys2Proof.Machine
end

