-- ==== Sys2Proof/Machine/Operands.lean ====
section
/-!
DEFINITION. Operand forms: group operands of S3 (R87 to R89), lane operands of V3 with their types, elements and immediates
(R32, R62, R68), what a prefix supplies (R67, R111), and the shape every lane instruction shares (R16, R111).
-/
namespace Sys2Proof.Machine

/-! ## Group operands -/

def gw (f : FmtS3) : Nat := if f.w then 64 else 32
/-- gA or gA.d. -/
def gA (g : Group) (f : FmtS3) : Nat := if f.w then (g.rgd f.a.toNat).toNat else (g.rg f.a.toNat).toNat
/-- gB, gB.d, or the imm8 sign-extended to the operation width. -/
def gB (g : Group) (f : FmtS3) : Nat :=
  if f.i then wrap (gw f) (simm8 f.b) else if f.w then (g.rgd f.b.toNat).toNat else (g.rg f.b.toNat).toNat
/-- Registers named by a field of width 1 or 2. -/
def gRegs (w : Bool) (r : BitVec 8) : List Nat := if w then [r.toNat, r.toNat + 1] else [r.toNat]
def gSrcs (f : FmtS3) (takesB : Bool) : List Nat := gRegs f.w f.a ++ (if takesB && !f.i then gRegs f.w f.b else [])
/-- The writes of gD or gD.d. -/
def wrG (w : Bool) (d x : Nat) : List RegWr :=
  if w then [.g d (BitVec.ofNat 32 x) false, .g (d + 1) (BitVec.ofNat 32 (x / 2 ^ 32)) false] else [.g d (BitVec.ofNat 32 x) false]

/-! ## Lane operands -/

/-- Element width and count of a type (R68). -/
def elemW (t : Nat) : Nat := if t = 3 || t = 4 || t = 9 then 64 else if t = 5 || t = 6 || t = 0xA || t = 0xB then 16
  else if t = 7 || t = 0xC || t = 0xD then 8 else if t = 0xE then 4 else 32
def elemN (t : Nat) : Nat := if t = 5 || t = 6 || t = 0xA || t = 0xB then 2 else if t = 7 || t = 0xC || t = 0xD then 4
  else if t = 0xE then 8 else 1
/-- Signed integer types (R32): s32, s64, s16x2, s8x4; b32 reads as unsigned (R113). -/
def elemSigned (t : Nat) : Bool := t == 1 || t == 3 || t == 5 || t == 7
/-- The number format of a floating type. -/
def elemFmt (t : Nat) : Fmt := if t = 9 then fF64 else if t = 0xA then fF16 else if t = 0xB then fBf16 else if t = 0xC then fE4m3
  else if t = 0xD then fE5m2 else if t = 0xE then fE2m1 else fF32
/-- Registers a type occupies. -/
def tRegs (t : Nat) : Nat := if wideT t then 2 else 1

/-- The 32 or 64 bits of a lane operand. -/
def laneVal (g : Group) (t r l : Nat) : Nat := if wideT t then (g.rvd r l).toNat else (g.rv r l).toNat
/-- Element `i` of an operand. -/
def elem (t x i : Nat) : Nat := bitsN x (elemW t * i) (elemW t)
/-- Elements put together, the first lowest (R111). -/
def joinElems (t : Nat) (xs : List Nat) : Nat := xs.foldr (fun x acc => x % 2 ^ elemW t + 2 ^ elemW t * acc) 0
/-- An imm8 as one element: sign-extended, or converted exactly for f32, f64, f16 and bf16 (R62). -/
def immElem (t : Nat) (b : BitVec 8) : Nat :=
  if t = 8 || t = 9 || t = 0xA || t = 0xB then
    (let v := simm8 b; if v = 0 then 0 else (roundTo envRne (elemFmt t) 0 (decide (v < 0)) v.natAbs 0).1)
  else wrap (elemW t) (simm8 b)
/-- The B operand of a lane: vB, or the immediate in every element. -/
def laneB (g : Group) (f : FmtV3) (l : Nat) : Nat :=
  let t := f.t.toNat
  if f.imm then joinElems t (List.replicate (elemN t) (immElem t f.b)) else laneVal g t f.b.toNat l
/-- The write of vD or vD.d in a lane. -/
def wrV (w : Bool) (d l x : Nat) : List RegWr :=
  if w then [.v d l (BitVec.ofNat 32 x) false, .v (d + 1) l (BitVec.ofNat 32 (x / 2 ^ 32)) false]
  else [.v d l (BitVec.ofNat 32 x) false]

/-! ## What a prefix supplies (R67) -/

/-- The lanes MP lets take part, and those MZ zeroes. -/
def pfxSplit (g : Group) (ls : List Nat) : List Nat × List Nat :=
  match g.pfx with
  | none => (ls, [])
  | some p => (ls.filter (g.rp p.mp.toNat), if p.mz = 1 then ls.filter (fun l => !g.rp p.mp.toNat l) else [])
def pfxSat (g : Group) : Bool := match g.pfx with | some p => p.sat == 1 | none => false
def pfxRnd (g : Group) : Nat := match g.pfx with | some p => p.rnd.toNat | none => 0
/-- The fourth operand: vCR when a prefix gives CR, else the instruction's own register. -/
def pfxC (g : Group) (d : Nat) : Nat := match g.pfx with | some p => if p.cr = 0 then d else p.cr.toNat | none => d
def pfxMaskBad (g : Group) (ls : List Nat) : Bool :=
  match g.pfx with
  | some p => ls.any (fun l => g.badP.contains (32 * p.mp.toNat + l))
  | none => false

/-- The rounding environment of FMT, an own or prefix RND code, and SAT (R36, R37, R67). -/
def fenv (g : Group) (rnd : Nat) : FEnv :=
  ⟨if rnd = 0 then (g.fmt.extractLsb' 0 3).toNat else rnd, g.fmt.getLsbD 3, g.fmt.getLsbD 4, g.fmt.getLsbD 5,
   g.fmt.getLsbD 23 || pfxSat g⟩

/-! ## The shape of a lane instruction (R16, R111) -/

/-- What a lane instruction needs before it runs, and what it does in a lane: v-registers named and v-registers read (first and
count), predicates read, SR words drawn in each lane, its writes and status in a lane, and its writes in a lane that MZ
zeroes. -/
structure LaneOp where
  named : List (Nat × Nat)
  reads : List (Nat × Nat)
  preds : List Nat
  coins : Nat
  run : Nat → List W32 → List RegWr × Stat
  zero : Nat → List RegWr

/-- A predicate that is read is poisoned in a lane that takes part (R153). -/
def predBad (g : Group) (ls : List Nat) (ps : List Nat) : Bool := ls.any (fun l => ps.any (fun p => g.badP.contains (32 * p + l)))

/-- Run a lane operation in rising lane order, dealing out the words drawn (R38). -/
def runLanes (op : LaneOp) : List Nat → List W32 → List RegWr × List (Nat × Stat)
  | [], _ => ([], [])
  | l :: ls, ws =>
    let r := op.run l (ws.take op.coins)
    let rest := runLanes op ls (ws.drop op.coins)
    (r.1 ++ rest.1, (l, r.2) :: rest.2)

/-- The status that each lane gets when the instruction completes (R14, R25). -/
def statWrs (g : Group) (sts : List (Nat × Stat)) : List RegWr := sts.flatMap (fun x => statWr g.fmt x.1 x.2)

/-- The words an instruction draws in each lane when it rounds `n` elements in this mode (R38). -/
def srWordsOf (env : FEnv) (n : Nat) : Nat := if env.rm = 6 then n else 0
/-- The coin of R38. -/
def coin (w : W32) : Nat := w.toNat % 2 ^ 24

/-- The elements of a lane's result with their status bits together. -/
def elemResults (t : Nat) (el : Nat → Nat × Stat) : Nat × Stat :=
  let rs := (List.range (elemN t)).map el
  (joinElems t (rs.map (·.1)), rs.foldl (fun a r => a ||| r.2) 0)

/-- The V3 shape of R111: element by element, from the coin and the elements of A, B and C. -/
def v3Op (g : Group) (f : FmtV3) (takesB takesC : Bool) (coins : Nat) (el : Nat → Nat → Nat → Nat → Nat × Stat) : LaneOp :=
  let t := f.t.toNat
  let n := tRegs t
  let cr := pfxC g f.d.toNat
  let srcs := (f.a.toNat, n) :: ((if takesB && !f.imm then [(f.b.toNat, n)] else []) ++ (if takesC then [(cr, n)] else []))
  { named := (f.d.toNat, n) :: srcs
    reads := srcs
    preds := []
    coins := coins
    run := fun l ws =>
      let a := laneVal g t f.a.toNat l
      let b := if takesB then laneB g f l else 0
      let c := if takesC then laneVal g t cr l else 0
      let r := elemResults t (fun i => el (coin (ws.getD i 0)) (elem t a i) (elem t b i) (elem t c i))
      (wrV (wideT t) f.d.toNat l r.1, r.2)
    zero := fun l => wrV (wideT t) f.d.toNat l 0 }

/-- A lane instruction: checks, then its effect in every lane that takes part: its registers and its status when it completes (`lat`
cycles, or at its completion point). -/
def laneInstr (c : Ctl) (gd : BitVec 4) (lat : Option Nat) (op : Group → LaneOp) (s : State) : Out :=
  let g := s.me
  let o := op g
  let all := g.part' gd
  let (takes, zeros) := pfxSplit g all
  orFault s (faultIf (!vRange g o.named) fcIllegal ++
      faultIf (pGuardBad g gd || pfxMaskBad g all || srcBad g takes o.reads || predBad g takes o.preds) fcUncorrectable) (fun s =>
    let n := o.coins * takes.length
    let r := runLanes o takes (s.draws n)
    let s := s.drawn n
    if takes.isEmpty && zeros.isEmpty then .next (s.idle c)
    else .next (s.issue c (lat.map (s.clock + ·)) (r.1 ++ zeros.flatMap o.zero ++ statWrs g r.2)))

end Sys2Proof.Machine
end

