-- ==== Sys2Proof/Machine/Engine.lean ====
section
/-!
DEFINITION. What every engine operation shares: the frame read at issue, rejection and acceptance (R180, R183, R215), the reads and
writes of an operation while it runs, in and outside a DET context (R294, R300, R302, R303), its barrier and batch (R183,
R193, R195); and BSEAL and BWAIT, opcodes 0xBB and 0xBC.
-/
namespace Sys2Proof.Machine

/-! ## Frames -/

/-- The 16 registers of a frame, as read at issue. -/
def frameRegs (fb : Nat) : List Nat := (List.range 16).map (fb + ·)
def frameOf (g : Group) (fb : Nat) : List W32 := (frameRegs fb).map g.rg

/-- Every register of the frame from `i` on is zero. -/
def zeroFrom (f : List W32) (i : Nat) : Bool := (f.drop i).all (fun x => x == 0)

/-! ## The barrier of an operation -/

/-- A transaction barrier lies in the block's scratchpad (R149). -/
def tbFits (l : Local) (tb : Nat) : Bool := tb % 8 == 0 && tb + 8 ≤ l.sb

/-- A TB field that fails a frame. -/
def tbFieldBad (l : Local) (tb : Nat) : Bool := tb != noTb && !tbFits l tb

/-- The error phase of a barrier that the frame names (R180, R193). -/
def tbFail (s : State) (b rank tb code : Nat) : State :=
  if tb ≠ noTb && tbFits ((s.blk b).loc rank) tb then tbError s b rank tb code else s

/-! ## Issue -/

/-- The local memories of the current group. -/
def myLoc (s : State) : Local := (s.blk (blockOf s.cur)).loc s.me.rank

/-- An engine instruction: the q-guard, poison, and the frame (R61, R153). -/
def engInstr (c : Ctl) (f : FmtA) (s : State) (k : State → List W32 → Out) : Out :=
  ctlOp c f.gd (frameRegs f.fb.toNat) s (fun s => k s (frameOf s.me f.fb.toNat))

/-- A rejected operation: g(ST) gets its code, its barrier an error phase, and it joins the open set as failed (R183). -/
def rejectOp (c : Ctl) (f : FmtA) (cls tb tbCode code : Nat) (s : State) : Out :=
  let s := tbFail s (blockOf s.cur) s.me.rank tb tbCode
  .next ((joinSet s s.cur cls ⟨s.nextId, true, code⟩).variable c [.g f.st.toNat (BitVec.ofNat 32 code) false])

/-- The operation that the current group issues. -/
def newOp (s : State) (c : Ctl) (f : FmtA) (opc cls : Nat) (frame : List W32) : EngOp :=
  { id := s.nextId, opc := opc, cls := cls, gid := s.cur, block := blockOf s.cur, rank := s.me.rank, ctx := s.me.ctx, eng := f.eng.toNat,
    fn := f.fn.toNat, fmt := s.me.fmt, frame := frame, extra := [], st := f.st.toNat, setk := c.setk.toNat, pc := s.me.pc, pos := s.me.detCount, started := false,
    pieces := [], sent := [], signalled := false, fail := none, units := 0 }

/-- The cycle in which an operation of the summary unit issued. -/
def skIssued (o : EngOp) : Option Nat := (o.extra.find? (fun e => e.1 == 4)).map (·.2)

/-- Of two summary operations that issued in one cycle, the second stands in a higher partition (R200). -/
def skLater (s : State) (o x : EngOp) : Bool := (skIssued o).isSome && skIssued x == skIssued o && decide ((s.grp o.gid).part < (s.grp x.gid).part)

/-- Put an operation at the end of the queue of its class; those of the summary unit that issue in one cycle enter in partition order. -/
def pushOp (s : State) (core : Nat) (o : EngOp) : State :=
  s.modCore core (fun c =>
    if o.cls = 0 then { c with copyQ := c.copyQ ++ [o] }
    else if o.cls = 1 then { c with mxQ := c.mxQ ++ [o] }
    else if o.cls = 2 then { c with skQ := c.skQ.filter (fun x => !skLater s o x) ++ o :: c.skQ.filter (skLater s o) }
    else { c with colQ := c.colQ ++ [o] })

/-- Queue an operation in the open set of its class. -/
def queueOp (s : State) (o : EngOp) : State := pushOp (joinSet s s.cur o.cls ⟨o.id, false, 0⟩) (s.coreOf s.cur) o

/-- An accepted operation: g(ST) := 0, and it is queued (R180). -/
def acceptOp (c : Ctl) (o : EngOp) (s : State) : Out := .next ((queueOp s o).variable c [.g o.st 0 false])

/-- An accepted query: its results and its counter wait for its end (R214). -/
def acceptQuery (c : Ctl) (o : EngOp) (s : State) : Out := .next ({ queueOp s o with nextId := s.nextId + 1 }.issueHeld c)

/-! ## Operations in their queues -/

/-- Change an operation in whatever queue of a core holds it. -/
def modOp (s : State) (core id : Nat) (f : EngOp → EngOp) : State :=
  let g := fun (l : List EngOp) => l.map (fun o => if o.id = id then f o else o)
  s.modCore core (fun c => { c with copyQ := g c.copyQ, mxQ := g c.mxQ, skQ := g c.skQ, colQ := g c.colQ })

def allOps (c : Core) : List EngOp := c.copyQ ++ c.mxQ ++ c.skQ ++ c.colQ

def opAt (s : State) (core id : Nat) : Option EngOp := (allOps (s.core core)).find? (fun o => o.id == id)

/-- An operation ends: it leaves its queue, its unused commit-buffer units are free, its batch entry is complete. -/
def endOp (s : State) (core : Nat) (o : EngOp) (code : Nat) : State :=
  let u := match opAt s core o.id with
    | some o => o.units
    | none => 0
  let g := fun (l : List EngOp) => l.filter (fun x => x.id != o.id)
  let s := s.modCore core (fun c => { c with
    copyQ := g c.copyQ, mxQ := g c.mxQ, skQ := g c.skQ, colQ := g c.colQ, units := c.units - u })
  finishOp s o.gid o.id code

/-- An operation fails: its barrier completes in error, and its batch records the code (R27, R193). -/
def failOp (s : State) (core : Nat) (o : EngOp) (tb code : Nat) : State := endOp (tbFail s o.block o.rank tb code) core o code

/-- Arrive(TB, n) by an operation; a word that is not LIVE marks the operation (R195). -/
def opArrive (s : State) (o : EngOp) (tb n : Nat) : State :=
  if tb = noTb then s
  else match tbArrive s o.block o.rank tb n with
    | (s, some code) => markOp s o.gid o.id code
    | (s, none) => s

/-- The die link of a core's package retrains: its engines wait, since they may reach the other die (R329, log 57). -/
def linkDead (s : State) (core : Nat) : Bool := (s.pkg (dieOfCore core / 2)).linkRetrain

/-- The operation runs in a DET context. -/
def opDet (s : State) (o : EngOp) : Bool := (s.ctx o.ctx).det

/-- Take commit-buffer units for all generic writes of an operation; none when too few are free (R303). -/
def takeUnits (s : State) (core : Nat) (o : EngOp) (n : Nat) : Option State :=
  if !opDet s o then some s
  else if (s.core core).units + n > detCap then none
  else some ((modOp s core o.id (fun x => { x with units := n })).modCore core (fun c => { c with units := c.units + n }))

/-! ## Reads and writes of a running operation -/

/-- One byte in a DET context: a summary operation also sees what earlier summary operations of its group have written, since
the queue orders them (R200, R302, log 35). -/
def opByte (s : State) (o : EngOp) (pa : Nat) (b : Byte) : Byte :=
  let seen := detByte s o.gid pa b
  if o.cls ≠ 2 then seen
  else (s.grp o.gid).detBuf.foldl (fun acc w => match w.op with
    | .write bytes => if w.eng.isSome && w.quantum.isNone && w.pa ≤ pa && pa < w.pa + bytes.length then bytes.getD (pa - w.pa) 0 else acc
    | _ => acc) seen

/-- Read generic memory for an operation: the bytes, or the code of what went wrong (`code` for a failed translation). -/
def engRead (s : State) (o : EngOp) (core code va n : Nat) : Except Nat (List Byte) :=
  (pagePieces va n).foldl (fun acc p => match acc with
    | .error e => .error e
    | .ok bs => match translate s o.ctx core .read p.1 with
      | .error _ => .error code
      | .ok (e, pa) =>
        let r := physRead s e.pol pa p.2.2 e.key
        if r.2 then .error fcUncorrectable
        else .ok (bs ++ (if opDet s o then (List.range p.2.2).map (fun i => opByte s o (pa + i) (r.1.getD i 0)) else r.1))) (.ok [])

/-- Buffer what an operation of a DET context writes; its quantum is that of the BWAIT that will cover it (R300). All its writes commit in
one round, so the first to be buffered holds every unit that the operation took at its start (R303, log 93). -/
def detEng (s : State) (o : EngOp) (core va n : Nat) (op : Nat → Nat → DetOp) : State :=
  (pagePieces va n).foldl (fun s p => match translate s o.ctx core .write p.1 with
    | .error _ => s
    | .ok (e, pa) =>
      let u := match opAt s core o.id with
        | some o => o.units
        | none => 0
      let w : DetWr := { pa := pa, pol := e.pol, key := e.key, pos := o.pos, quantum := none, ordered := false, eng := some o.id, units := u,
                         op := op p.2.1 p.2.2 }
      (modOp s core o.id (fun x => { x with units := 0 })).modGrp o.gid (fun g => { g with detBuf := g.detBuf ++ [w] })) s

/-- Write generic memory for an operation. -/
def engWrite (s : State) (o : EngOp) (core code va : Nat) (bytes : List Byte) : Except Nat State :=
  match virtCheck s o.ctx core .write va bytes.length with
  | some _ => .error code
  | none =>
    if opDet s o then .ok (detEng s o core va bytes.length (fun a n => .write ((bytes.drop a).take n)))
    else match virtWrite s o.ctx core va bytes with
      | .error _ => .error code
      | .ok s => .ok s

/-- Read and write the operation's scratchpad (R149, R153, R158, R194). -/
def opLoc (s : State) (o : EngOp) : Local := (s.blk o.block).loc o.rank

def opSpRead (s : State) (o : EngOp) (code swz x n : Nat) : Except Nat (List Byte) :=
  if !spInside (opLoc s o) x n then .error code
  else
    let r := spRead (opLoc s o) swz x n
    if r.2 then .error fcUncorrectable else .ok r.1

def opSpWrite (s : State) (o : EngOp) (code swz x : Nat) (bytes : List Byte) : Except Nat State :=
  if !spInside (opLoc s o) x bytes.length then .error code else .ok (spStore s o.block o.rank swz x bytes)

/-- Read from generic memory or scratchpad, whichever a space bit selects. -/
def opRead (s : State) (o : EngOp) (core code : Nat) (sp : Bool) (swz a n : Nat) : Except Nat (List Byte) :=
  if sp then opSpRead s o code swz a n else engRead s o core code a n

def opWrite (s : State) (o : EngOp) (core code : Nat) (sp : Bool) (swz a : Nat) (bytes : List Byte) : Except Nat State :=
  if sp then opSpWrite s o code swz a bytes else engWrite s o core code a bytes

/-! ## Batches (R183) -/

/-- BSEAL: the open set of a class moves into a batch. -/
def execBseal (c : Ctl) (f : FmtA) (s : State) : Out :=
  ctlOp c f.gd [] s (fun s =>
    let e := f.eng.toNat
    let n := 16 * e + f.batch.toNat
    .next ((s.modMe (fun g => { g with
      batches := mput g.batches n (mget g.batches [] n ++ mget g.openSets [] e), openSets := mdel g.openSets e })).transfer c []))

/-- The lowest code among failed operations, 0 when none failed. -/
def lowestCode : List OpRef → Nat
  | [] => 0
  | r :: rs =>
    let m := lowestCode rs
    if r.code = 0 then m else if m = 0 then r.code else min r.code m

/-- Insert a buffered write behind those of operations issued no later. -/
def insWr (w : DetWr) : List DetWr → List DetWr
  | [] => [w]
  | x :: xs => if w.eng.getD 0 < x.eng.getD 0 then w :: x :: xs else x :: insWr w xs

/-- The writes of operations that a BWAIT covers belong to its quantum and stand at its place, in the order in which the
operations were issued (R300, R302). -/
def coverWrites (s : State) (g : Nat) (ids : List Nat) : State :=
  s.modGrp g (fun gr =>
    let mine := fun (w : DetWr) => match w.eng with
      | some e => w.quantum.isNone && ids.contains e
      | none => false
    { gr with detBuf := gr.detBuf.filter (fun w => !mine w) ++
        ((gr.detBuf.filter mine).foldl (fun l w => insWr w l) []).map (fun w => { w with quantum := some gr.quantum, pos := gr.detCount }) })

/-- BWAIT polled: when every operation of the batch is complete the batch empties and g(S) gets the lowest code. -/
def pollBwait (s : State) (g eng batch st : Nat) : State :=
  let n := 16 * eng + batch
  let ops := mget (s.grp g).batches [] n
  if ops.all (·.done) then
    let s := coverWrites s g (ops.map (·.id))
    endHold ((s.modGrp g (fun gr => { gr with batches := mdel gr.batches n })).give g [.g st (BitVec.ofNat 32 (lowestCode ops)) false]) g
  else s

def execBwait (c : Ctl) (f : FmtA) (s : State) : Out :=
  ctlOp c f.gd [] s (fun s =>
    let s1 := (s.issueHeld c).holdMe s.me.pc c.setk.toNat (.bwait f.eng.toNat f.batch.toNat f.st.toNat)
    .next (pollOwn s1 (fun s => pollBwait s s.cur f.eng.toNat f.batch.toNat f.st.toNat)))

end Sys2Proof.Machine
end

