-- ==== Sys2Proof/Machine/Matrix.lean ====
section
/-!
DEFINITION. The matrix array and accumulator access, opcodes 0xE8 to 0xEF (R45 to R49, R233, R241 to R260): frames and issue
checks, the operations run whole with their row progress, ACLD, ACST, ACZ, codebook loads and the outlier split.
-/
namespace Sys2Proof.Machine

/-! ## Exact values with infinities (R49) -/

inductive Ex where
  | nan
  | inf (neg : Bool)
  | val (d : Dy)
  deriving DecidableEq, Repr

def exOf (v : FV) : Ex :=
  match v with
  | .nan _ _ _ => .nan
  | .inf n => .inf n
  | .num _ _ _ => .val v.dy

def Ex.mul : Ex → Ex → Ex
  | .nan, _ => .nan
  | _, .nan => .nan
  | .inf a, .inf b => .inf (a != b)
  | .inf a, .val d => if d.m = 0 then .nan else .inf (a != decide (d.m < 0))
  | .val d, .inf a => if d.m = 0 then .nan else .inf (a != decide (d.m < 0))
  | .val a, .val b => .val (a.mul b)

def Ex.add : Ex → Ex → Ex
  | .nan, _ => .nan
  | _, .nan => .nan
  | .inf a, .inf b => if a = b then .inf a else .nan
  | .inf a, _ => .inf a
  | _, .inf a => .inf a
  | .val a, .val b => .val (a.add b)

/-- Round to a format with infinities and NaNs, RNE. -/
def Ex.round (f : Fmt) : Ex → Nat
  | .nan => f.canonNan
  | .inf n => infOf f n
  | .val d => (roundDy envRne f 0 d false).1

/-! ## Formats (R35, R48, R242) -/

def fmtA' (fmt : W32) : Nat := bitsN fmt.toNat 6 4
def fmtB' (fmt : W32) : Nat := bitsN fmt.toNat 10 4
def fmtC' (fmt : W32) : Nat := bitsN fmt.toNat 14 2
def fmtS' (fmt : W32) : Nat := bitsN fmt.toNat 16 2
def fmtCb (fmt : W32) : Bool := bitN fmt.toNat 18
def fmtCbt (fmt : W32) : Nat := bitsN fmt.toNat 19 4

/-- The accumulator format of a 2-bit code, and its bytes. -/
def accFmt (c : Nat) : Fmt := if c = 1 then fF16 else if c = 2 then fBf16 else if c = 3 then fF64 else fF32
def accBytes (c : Nat) : Nat := if c = 3 then 8 else if c = 0 then 4 else 2

/-- The accepted combinations (R48). -/
def mxFormats (fmt : W32) : Bool :=
  let a := fmtA' fmt
  let b := fmtB' fmt
  let c := fmtC' fmt
  let eight := fun (x : Nat) => x == 4 || x == 5
  let small := fun (x : Nat) => x == 6 || x == 7 || x == 8
  fmtS' fmt != 3 && (fmtCb fmt == (a == 11)) &&
  ((a == 0 && b == 0 && c == 3 && fmtS' fmt == 0) || (a == 3 && b == 3 && (c == 0 || c == 1)) ||
   (a == 2 && b == 2 && (c == 0 || c == 2)) || (eight a && eight b && c != 3) ||
   ((a == 9 || a == 10) && (b == 9 || b == 10) && c == 0) ||
   ((small a || a == 11) && (eight b || small b) && c != 3))

/-- Bytes of `k` elements that lie along K. -/
def runBytes (code k : Nat) : Nat :=
  if code = 0 then 8 * k else if code = 2 || code = 3 then 2 * k
  else if code = 6 || code = 7 then 3 * ((k + 3) / 4) else if code = 8 then (k + 1) / 2 else if code = 11 then 2 * ((k + 7) / 8) else k

/-- An entry of a codebook table of a core: table 0 is fixed (R46, R47). -/
def tableEntry (s : State) (core t i : Nat) : Nat :=
  if t = 0 then codebook0.getD i 0 else (mget (s.core core).codebook 0 (256 * t + i)).toNat

/-- Element `k` of a row or column; `tbl` gives a table entry. -/
def mxElem (code : Nat) (tbl : Nat → Nat) (bs : List Byte) (k : Nat) : Ex :=
  if code = 0 then exOf (unpack fF64 false (natAt' bs (8 * k) 8))
  else if code = 2 then exOf (unpack fBf16 false (natAt' bs (2 * k) 2))
  else if code = 3 then exOf (unpack fF16 false (natAt' bs (2 * k) 2))
  else if code = 4 then exOf (unpack fE4m3 false (natAt' bs k 1))
  else if code = 5 then exOf (unpack fE5m2 false (natAt' bs k 1))
  else if code = 6 then exOf (unpack fE3m2 false (bitsN (natAt' bs (3 * (k / 4)) 3) (6 * (k % 4)) 6))
  else if code = 7 then exOf (unpack fE2m3 false (bitsN (natAt' bs (3 * (k / 4)) 3) (6 * (k % 4)) 6))
  else if code = 8 then exOf (unpack fE2m1 false (bitsN (natAt' bs (k / 2) 1) (4 * (k % 2)) 4))
  else if code = 9 then .val ⟨sgn 8 (natAt' bs k 1), 0⟩
  else if code = 10 then .val ⟨(natAt' bs k 1 : Nat), 0⟩
  else
    let idx := natAt' bs (2 * (k / 8)) 2
    .val ⟨(cb2Weights idx (tbl (idx / 256))).getD (k % 8) 0, -1⟩
where natAt' (o : List Byte) (i n : Nat) : Nat := ofBytes ((o.drop i).take n)

/-- A scale byte. -/
def mxScale (kind x : Nat) : Ex :=
  match scaleVal kind x with
  | some d => .val d
  | none => .nan

/-! ## Frames (R244 to R246) -/

structure MxFrame where
  a : Nat
  b : Nat
  astr : Nat
  bstr : Nat
  m : Nat
  n : Nat
  k : Nat
  srow : Nat
  acc : Nat
  tb : Nat
  solo : Bool
  zc : Bool
  tsa : Bool
  tsb : Bool
  dup : Bool
  upper : Bool
  diag : Int
  maskc : Nat
  scao : Int
  scbo : Int
  aux : Nat
  rpt : Nat

def mxFrame (f : List W32) : MxFrame :=
  { a := frd f 0, b := frd f 2, astr := 16 * (fr f 4 % 65536), bstr := 16 * (fr f 4 / 65536), m := fr f 5 % 512, n := fr f 5 / 65536 % 512,
    k := fr f 6 % 2 ^ 17, srow := fr f 6 / 2 ^ 24, acc := fr f 7 % 2 ^ 18, tb := fr f 8, solo := bitN (fr f 9) 0, zc := bitN (fr f 9) 1,
    tsa := bitN (fr f 9) 2, tsb := bitN (fr f 9) 3, dup := bitN (fr f 9) 4, upper := bitN (fr f 9) 5, diag := sgn 32 (fr f 10),
    maskc := fr f 11, scao := sgn 32 (fr f 12), scbo := sgn 32 (fr f 13), aux := fr f 14, rpt := fr f 15 }

/-- Bytes of an accumulator row (R243), and the local rows of a tile. -/
def cstr (n cs : Nat) : Nat := 64 * ((n * cs + 63) / 64)
def MxFrame.local' (x : MxFrame) : Nat := min x.m 128

/-- The auxiliary block as read at issue. -/
def auxNat (aux : List Byte) (i n : Nat) : Nat := ofBytes ((aux.drop i).take n)
def auxDcnt (aux : List Byte) : Nat := auxNat aux 8 2
def auxRg (aux : List Byte) : Nat := auxNat aux 10 1
def auxMap (aux : List Byte) (t : Nat) : Nat := auxNat aux (16 + 2 * t) 2
def auxRows (aux : List Byte) (g : Nat) : Nat := auxNat aux (192 + 16 * g) 4
def auxB (aux : List Byte) (g : Nat) : Nat := auxNat aux (192 + 16 * g + 8) 8

/-- Appended columns of a duplication map (R252). -/
def dupCols (aux : List Byte) : Nat := 32 * ((auxDcnt aux + 31) / 32)

/-! ## Core pairs (R233) -/

/-- The block and rank that the follower's half of a group's operation works for: the next rank of the cluster on the next column. -/
def follower (s : State) (g : Nat) : Option (Nat × Nat) :=
  match s.cluOf g with
  | none => none
  | some c =>
    let r := cluRank s g
    if s.coreOf g % 2 = 0 && c.cores[r + 1]? == some (s.coreOf g + 1) then cluTarget s g (r + 1) else none

/-- ACM bytes of a block on each of its cores (R147): as the descriptor gives them, while the block takes whole 4 KiB (log 90). -/
def acmSize (s : State) (b : Nat) : Nat := (s.krn (s.blk b).kernel).acm

/-! ## Issue (R247) -/

/-- A scratchpad field that is given but misaligned or outside S_b. -/
def spFieldBad (l : Local) (x align n : Nat) : Bool := x != noTb && (x % align != 0 || x + n > l.sb)

/-- The frame, FMT or AUX fails with MX_SHAPE. -/
def mxShapeBad (s : State) (g opc : Nat) (fmt : W32) (f : List W32) (aux : List Byte) : Bool :=
  let x := mxFrame f
  let l := (s.blk (blockOf g)).loc (s.grp g).rank
  let cs := accBytes (fmtC' fmt)
  let row := cstr x.n cs
  let d := auxDcnt aux
  let mxmg := opc == 0xEA
  !mxFormats fmt || x.m == 0 || x.m > 256 || (x.solo && x.m > 128) || x.n == 0 || x.n > 256 || x.k % 32 != 0 || x.k == 0 || x.k > 65536 ||
  x.srow ≥ x.local' ||
  x.a % 16 != 0 || x.b % 16 != 0 || x.acc % 64 != 0 || fr f 5 / 512 % 128 != 0 || fr f 5 / 2 ^ 25 != 0 || bitsN (fr f 6) 17 7 != 0 ||
  fr f 7 / 2 ^ 18 != 0 || fr f 9 / 64 != 0 || (opc != 0xE9 && (x.upper || fr f 10 != 0 || fr f 11 != 0)) ||
  (fmtS' fmt == 0 && (fr f 12 != 0 || fr f 13 != 0)) ||
  x.acc + x.local' * row > acmSize s (blockOf g) || (!x.solo && (follower s g).isNone) ||
  (!x.solo && x.m > 128 && (match follower s g with | some p => x.acc + (x.m - 128) * row > acmSize s p.1 | none => true)) ||
  tbFieldBad l x.tb || spFieldBad l x.aux 64 512 || spFieldBad l x.rpt 16 16 ||
  (x.aux == noTb && (x.tsa || x.tsb || x.dup || mxmg)) ||
  (x.dup && (fmtS' fmt != 0 || fmtCb fmt || mxmg || d == 0 || d > 64 || x.k ≤ dupCols aux ||
    (List.range d).any (fun t => auxMap aux t ≥ x.k - dupCols aux))) ||
  (mxmg && (auxRg aux > 16 || x.b != 0 || (List.range (auxRg aux)).any (fun i => auxB aux i % 16 != 0)))

/-- MXMG's rows sum to more than M. -/
def mxRagged (opc : Nat) (f : List W32) (aux : List Byte) : Bool :=
  opc == 0xEA && (List.range (auxRg aux)).foldl (fun n i => n + auxRows aux i) 0 > (mxFrame f).m

/-- Reject a matrix operation (R247): the barrier's error phase and g(ST) hold the code. -/
def mxReject (c : Ctl) (f : FmtA) (tb code : Nat) (s : State) : Out := rejectOp c f 1 tb code code s

def mxInstr (opc : Nat) (c : Ctl) (f : FmtA) (s : State) : Out :=
  engInstr c f s (fun s fm =>
    let x := mxFrame fm
    let l := myLoc s
    let given := x.aux != noTb && !spFieldBad l x.aux 64 512
    let a := if given then spRead l 0 x.aux 512 else ([], false)
    -- a poisoned auxiliary block ends the operation as poisoned operands do (R153)
    if a.2 then mxReject c f x.tb fcUncorrectable s
    else if mxShapeBad s s.cur opc s.me.fmt fm a.1 then mxReject c f x.tb fcMxShape s
    else if mxRagged opc fm a.1 then mxReject c f x.tb fcMxRagged s
    else acceptOp c { newOp s c f opc 1 fm with extra := [(4, ofBytes a.1)] } s)

def execMxm (c : Ctl) (f : FmtA) (s : State) : Out := mxInstr 0xE8 c f s
def execMxmt (c : Ctl) (f : FmtA) (s : State) : Out := mxInstr 0xE9 c f s
def execMxmg (c : Ctl) (f : FmtA) (s : State) : Out := mxInstr 0xEA c f s

/-! ## What a tile computes (R249 to R252) -/

/-- Element (i, j) is kept by MXMT; every element is, otherwise. -/
def kept (opc : Nat) (x : MxFrame) (i j : Nat) : Bool :=
  opc != 0xE9 || (if x.upper then decide ((j : Int) ≥ i + x.diag) else decide ((j : Int) ≤ i + x.diag))

/-- A 16 by 16 sub-tile that keeps no element is skipped (R250). -/
def skipped (opc : Nat) (x : MxFrame) (i j : Nat) : Bool :=
  opc == 0xE9 && !(List.range 16).any (fun a => (List.range 16).any (fun b =>
    let i' := i / 16 * 16 + a
    let j' := j / 16 * 16 + b
    i' < x.m && j' < x.n && kept opc x i' j'))

/-- The ragged group of a row (R251): its number. -/
def groupGo (aux : List Byte) (i : Nat) : List Nat → Nat → Option Nat
  | [], _ => none
  | g :: gs, lo => if lo ≤ i && i < lo + auxRows aux g then some g else groupGo aux i gs (lo + auxRows aux g)

/-- The B base of a row, none for a row in no group. -/
def rowB (opc : Nat) (x : MxFrame) (aux : List Byte) (i : Nat) : Option Nat :=
  if opc = 0xEA then (groupGo aux i (List.range (auxRg aux)) 0).map (auxB aux) else some x.b

/-- The columns of a row that are computed. -/
def rowCols (opc : Nat) (x : MxFrame) (aux : List Byte) (i : Nat) : List Nat :=
  if (rowB opc x aux i).isNone then []
  else (List.range x.n).filter (fun j => !skipped opc x i j && kept opc x i j)

/-- Where the K-index `k` of A meets B: the row of B, or none for an appended zero (R252). -/
def bk (x : MxFrame) (aux : List Byte) (k : Nat) : Option Nat :=
  if !x.dup then some k
  else
    let k0 := x.k - dupCols aux
    if k < k0 then some k else if k - k0 < auxDcnt aux then some (auxMap aux (k - k0)) else none

/-- The byte ranges that a row needs: source (0 A, 1 B, 2 scale), address, bytes (R249). -/
def rowNeeds (opc : Nat) (fmt : W32) (x : MxFrame) (aux : List Byte) (i : Nat) : List (Nat × Nat × Nat) :=
  let cols := rowCols opc x aux i
  match rowB opc x aux i, cols with
  | some b, _ :: _ =>
    let kb := if x.dup then x.k - dupCols aux else x.k
    let sc := fmtS' fmt != 0
    (0, x.a + i * x.astr, runBytes (fmtA' fmt) x.k) :: (if sc then [(2, wrap 64 ((x.a : Int) + x.scao + i * (x.k / 16 : Nat)), x.k / 16)] else []) ++
    cols.flatMap (fun j => (1, b + j * x.bstr, runBytes (fmtB' fmt) kb) ::
      (if sc then [(2, wrap 64 ((b : Int) + x.scbo + j * (x.k / 16 : Nat)), x.k / 16)] else []))
  | _, _ => []

/-- Read operand bytes for an operation, one byte's fault at a time: the bytes, or the lowest failing address with its code. -/
def mxRead (s : State) (o : EngOp) (core va n : Nat) : Except (Nat × Nat) (List Byte) :=
  (pagePieces va n).foldl (fun acc p => match acc with
    | .error e => .error e
    | .ok bs => match translate2 s o.ctx core .read p.1 with
      | .error _ => .error (p.1, fcMxOperand)
      | .ok (e, pa) =>
        let r := physRead s e.pol pa p.2.2 e.key
        if r.2 then
          -- the first byte whose own sector is poisoned
          let i := ((List.range p.2.2).find? (fun i => (physRead s e.pol (pa + i) 1 e.key).2)).getD 0
          .error (p.1 + i, fcUncorrectable)
        else .ok (bs ++ (if opDet s o then (List.range p.2.2).map (fun i => opByte s o (pa + i) (r.1.getD i 0)) else r.1))) (.ok [])

/-- What stops a row: code, source, address; the lowest failing byte counts. -/
def rowFault (s : State) (o : EngOp) (core : Nat) (needs : List (Nat × Nat × Nat)) : Option (Nat × Nat × Nat) :=
  needs.foldl (fun best q => match mxRead s o core q.2.1 q.2.2 with
    | .ok _ => best
    | .error e => match best with
      | some b => if e.1 < b.2.2 then some (e.2, q.1, e.1) else best
      | none => some (e.2, q.1, e.1)) none

def mxBytes (s : State) (o : EngOp) (core va n : Nat) : List Byte :=
  match mxRead s o core va n with
  | .ok bs => bs
  | .error _ => []

/-- The place of a row's accumulators: block, rank, core and local row. -/
def rowPlace (s : State) (o : EngOp) (i : Nat) : Nat × Nat × Nat :=
  if i < 128 then (o.block, o.rank, i)
  else match follower s o.gid with
    | some p => (p.1, p.2, i - 128)
    | none => (o.block, o.rank, i - 128)

def rowCore (s : State) (o : EngOp) (core i : Nat) : Nat :=
  if i < 128 then core
  else
    let p := rowPlace s o i
    ((s.blk p.1).cores[p.2.1]?).getD core

/-- A row's accumulator is poisoned where it is still to be read. -/
def rowAccBad (s : State) (o : EngOp) (x : MxFrame) (aux : List Byte) (cs i : Nat) : Bool :=
  let p := rowPlace s o i
  let l := (s.blk p.1).loc p.2.1
  (rowCols o.opc x aux i).any (fun j => (!x.zc || decide (0 < mget o.part 0 (256 * i + j))) &&
    (acmRead l (x.acc + p.2.2 * cstr x.n cs + j * cs) cs).2)

/-- `n` chunks of one output element from chunk `c` on, by R49: sums over chunks of 16, or one fused multiply-add at a time for f64. A term
without a row of B is left out (R252). -/
def mxDot (fmt : W32) (x : MxFrame) (aux : List Byte) (tbl : Nat → Nat) (arow ascale bcol bscale : List Byte) (c n acc : Nat) : Nat :=
  let ca := fmtA' fmt
  let cf := accFmt (fmtC' fmt)
  let kind := fmtS' fmt
  let bAt := fun (k : Nat) => match bk x aux k with
    | some k' => some (mxElem (fmtB' fmt) tbl bcol k')
    | none => none
  let tA : Ex := if x.tsa then exOf (unpack fF32 false (auxNat aux 0 4)) else .val ⟨1, 0⟩
  let tB : Ex := if x.tsb then exOf (unpack fF32 false (auxNat aux 4 4)) else .val ⟨1, 0⟩
  if ca = 0 then
    ((List.range (16 * n)).map (16 * c + ·)).foldl (fun acc k => match bk x aux k with
      | some k' => (fFma envRne fF64 0 (unpack fF64 false (ofBytes ((arow.drop (8 * k)).take 8)))
          (unpack fF64 false (ofBytes ((bcol.drop (8 * k')).take 8))) (unpack fF64 false acc)).1
      | none => acc) acc
  else
    ((List.range n).map (c + ·)).foldl (fun acc kc =>
      let sum := (List.range 16).foldl (fun (sm : Ex) t =>
        match bAt (16 * kc + t) with
        | some b => sm.add ((mxElem ca tbl arow (16 * kc + t)).mul b)
        | none => sm) (.val Dy.zero)
      let sc := if kind = 0 then sum
        else (sum.mul (mxScale kind (ascale.getD kc 0).toNat)).mul (mxScale kind (bscale.getD kc 0).toNat)
      let r := ((sc.mul tA).mul tB).round fF32
      (fAdd envRne cf 0 (unpack cf false acc) (unpack fF32 false r)).1) acc

/-- The mask constant, an f32, rounded to the accumulator's format. -/
def maskBits (cf : Fmt) (bits : Nat) : Nat :=
  match exOf (unpack fF32 false bits) with
  | .val d => if d.m = 0 then zeroOf cf (bits ≥ 2 ^ 31) else (Ex.val d).round cf
  | e => e.round cf

/-- The element (i, j) moved on by at most `n` chunks from where it stands: its bits. -/
def elemResult (s : State) (o : EngOp) (core : Nat) (x : MxFrame) (aux : List Byte) (i j n : Nat) (arow asc : List Byte) : Nat :=
  let fmt := o.fmt
  let cs := accBytes (fmtC' fmt)
  let p := rowPlace s o i
  let l := (s.blk p.1).loc p.2.1
  let sc := fmtS' fmt != 0
  let b := (rowB o.opc x aux i).getD 0
  let tbl := tableEntry s (rowCore s o core i) (fmtCbt fmt)
  let kb := if x.dup then x.k - dupCols aux else x.k
  let bcol := mxBytes s o core (b + j * x.bstr) (runBytes (fmtB' fmt) kb)
  let bsc := if sc then mxBytes s o core (wrap 64 ((b : Int) + x.scbo + j * (x.k / 16 : Nat))) (x.k / 16) else []
  let c := mget o.part 0 (256 * i + j)
  let acc := if x.zc && c = 0 then 0 else ofBytes (acmRead l (x.acc + p.2.2 * cstr x.n cs + j * cs) cs).1
  mxDot fmt x aux tbl arow asc bcol bsc c (min n (x.k / 16 - c)) acc

/-- The operand row of A, and its scales. -/
def rowA (s : State) (o : EngOp) (core : Nat) (x : MxFrame) (i : Nat) : List Byte × List Byte :=
  (mxBytes s o core (x.a + i * x.astr) (runBytes (fmtA' o.fmt) x.k),
   if fmtS' o.fmt != 0 then mxBytes s o core (wrap 64 ((x.a : Int) + x.scao + i * (x.k / 16 : Nat))) (x.k / 16) else [])

/-- The final accumulators of a row: column and bits, for the elements that are written. -/
def rowResult (s : State) (o : EngOp) (core : Nat) (x : MxFrame) (aux : List Byte) (i : Nat) : List (Nat × Nat) :=
  let cols := rowCols o.opc x aux i
  let a := if cols.isEmpty then ([], []) else rowA s o core x i
  (List.range x.n).filterMap (fun j =>
    if skipped o.opc x i j then none
    else if !kept o.opc x i j then some (j, maskBits (accFmt (fmtC' o.fmt)) x.maskc)
    else if cols.contains j then some (j, elemResult s o core x aux i j (x.k / 16) a.1 a.2)
    else none)

/-- Write a row's accumulators: a row that is written whole is one write, which clears its poison (R152). -/
def rowPut (s : State) (o : EngOp) (x : MxFrame) (cs i : Nat) (vals : List (Nat × Nat)) : State :=
  let p := rowPlace s o i
  let base := x.acc + p.2.2 * cstr x.n cs
  s.modLoc p.1 p.2.1 (fun l =>
    if vals.length = x.n then acmPut l base (vals.flatMap (fun v => toBytes cs v.2))
    else vals.foldl (fun l v => acmPut l (base + v.1 * cs) (toBytes cs v.2)) l)

/-- The report word (R253). -/
def rptPut (s : State) (o : EngOp) (rpt rp code srce va : Nat) : State :=
  if rpt = noTb then s
  else spStore s o.block o.rank 0 rpt (toBytes 8 (rp + 2 ^ 16 * code + 2 ^ 22 * srce) ++ toBytes 8 va)

/-- The rows of a progress value. -/
def progressRows (x : MxFrame) (l : Nat) : List Nat :=
  if !x.solo && l + 128 < x.m then [l, l + 128] else [l]

def opAux (o : EngOp) : List Byte :=
  match o.extra.find? (fun e => e.1 == 4) with
  | some e => toBytes 512 e.2
  | none => []

/-- What stops row progress `l`: code, source, address (R253). -/
def rowStop (s : State) (core : Nat) (o : EngOp) (x : MxFrame) (aux : List Byte) (l : Nat) : Option (Nat × Nat × Nat) :=
  let rows := progressRows x l
  match rowFault s o core (rows.flatMap (rowNeeds o.opc o.fmt x aux)) with
  | some e => some e
  | none => if rows.any (rowAccBad s o x aux (accBytes (fmtC' o.fmt))) then some (fcUncorrectable, 3, 0) else none

/-- Rows from `l` on, at most `n` of them: the state, and where and why the operation stopped. -/
def mxRows (core : Nat) (o : EngOp) (x : MxFrame) (aux : List Byte) : Nat → Nat → State → State × Option (Nat × Nat × Nat × Nat)
  | 0, _, s => (s, none)
  | n + 1, l, s =>
    let rows := progressRows x l
    match rowStop s core o x aux l with
    | some e => (s, some (l, e))
    | none =>
      let fill := fillRange (fun s va => tlbFill2 s o.ctx core va)
      let t := (rows.flatMap (rowNeeds o.opc o.fmt x aux)).foldl (fun s q => fill s q.2.1 q.2.2) s
      let t := (rows.map (fun i => (i, rowResult s o core x aux i))).foldl (fun s r => rowPut s o x (accBytes (fmtC' o.fmt)) r.1 r.2) t
      mxRows core o x aux n (l + 1) t

/-- The elements of an unfinished row hold again what they held before the operation. -/
def undoRow (s : State) (o : EngOp) (x : MxFrame) : State :=
  let cs := accBytes (fmtC' o.fmt)
  o.keep.foldl (fun s e =>
    let p := rowPlace s o (e.1 / 256)
    s.modLoc p.1 p.2.1 (fun l =>
      let a := x.acc + p.2.2 * cstr x.n cs + e.1 % 256 * cs
      if (acmRead l a cs).2 then l else acmPut l a (toBytes cs e.2))) s

/-- The operation stops at row progress `l` (R253). -/
def mxStop (s : State) (core : Nat) (o : EngOp) (e : Nat × Nat × Nat × Nat) : State :=
  let x := mxFrame o.frame
  failOp (rptPut (undoRow s o x) o x.rpt e.1 e.2.1 e.2.2.1 e.2.2.2) core o x.tb e.2.1

/-- MXM, MXMT or MXMG from where it stands to its end or its fault (R249, R253). -/
def mxRun (s : State) (core : Nat) (o : EngOp) : State :=
  let x := mxFrame o.frame
  let cs := accBytes (fmtC' o.fmt)
  match mxRows core o x (opAux o) (x.local' - x.srow - o.prog) (x.srow + o.prog) s with
  | (s, some e) =>
    let o' := if e.1 = x.srow + o.prog then o else { o with keep := [] }
    mxStop s core o' e
  | (s, none) =>
    let low := if x.m > 128 then x.m - 128 - x.srow else 0
    let s := opArrive s o x.tb ((x.local' - x.srow + low) * x.n * cs)
    endOp (rptPut s o x.rpt x.local' 0 0 0) core o 0

/-- The present row to its end: the operation then stands at a row boundary (R255). -/
def mxRow (s : State) (core : Nat) (o : EngOp) : State :=
  let x := mxFrame o.frame
  if x.srow + o.prog + 1 ≥ x.local' then s
  else match mxRows core o x (opAux o) 1 (x.srow + o.prog) s with
    | (s, some e) => mxStop s core o e
    | (s, none) => modOp s core o.id (fun o => { o with prog := o.prog + 1, part := [], keep := [] })

/-- One chunk of R49 of element `e` of the present row, which its accumulator then shows (R258). -/
def mxChunk (s : State) (core : Nat) (o : EngOp) (e : Nat) : State :=
  let x := mxFrame o.frame
  let aux := opAux o
  let l := x.srow + o.prog
  let i := e / 256
  let j := e % 256
  let cs := accBytes (fmtC' o.fmt)
  let c := mget o.part 0 e
  if !(progressRows x l).contains i || !(rowCols o.opc x aux i).contains j || c ≥ x.k / 16 then s
  else match rowStop s core o x aux l with
    | some r => mxStop s core o (l, r)
    | none =>
      let p := rowPlace s o i
      let old := ofBytes (acmRead ((s.blk p.1).loc p.2.1) (x.acc + p.2.2 * cstr x.n cs + j * cs) cs).1
      let a := rowA s o core x i
      let s' := rowPut s o x cs i [(j, elemResult s o core x aux i j 1 a.1 a.2)]
      modOp s' core o.id (fun o => { o with part := mput o.part e (c + 1), keep := if c = 0 then mput o.keep e old else o.keep })

/-! ## Codebook loads (R259) -/

def execCbld (c : Ctl) (f : FmtA) (s : State) : Out :=
  engInstr c f s (fun s fm =>
    let sp := f.fn.toNat % 2 == 1
    let solo := bitN (fr fm 2) 8
    let bad := (sp && fr fm 1 != 0) || fr fm 0 % 64 != 0 || fr fm 2 % 16 == 0 || bitsN (fr fm 2) 4 4 != 0 || fr fm 2 / 512 != 0 ||
      tbFieldBad (myLoc s) (fr fm 3) || !zeroFrom fm 4 || (!solo && (follower s s.cur).isNone)
    if bad then mxReject c f (fr fm 3) fcMxShape s else acceptOp c (newOp s c f 0xEE 1 fm) s)

/-- Install a table in a core. -/
def putTable (s : State) (core t : Nat) (bs : List Byte) : State :=
  s.modCore core (fun c => { c with codebook := (List.range 256).foldl (fun m i =>
    mset m 0 (256 * t + i) (BitVec.ofNat 16 (ofBytes ((bs.drop (2 * i)).take 2)))) c.codebook })

def cbldRun (s : State) (core : Nat) (o : EngOp) : State :=
  let f := o.frame
  let sp := o.fn % 2 == 1
  match opRead s o core fcMxOperand sp 0 (if sp then fr f 0 else frd f 0) 512 with
  | .error e => failOp s core o (fr f 3) (if e = fcUncorrectable then fcUncorrectable else fcMxOperand)
  | .ok bs =>
    let t := fr f 2 % 16
    let s := putTable s core t bs
    let s := if bitN (fr f 2) 8 then s
      else match follower s o.gid with
        | some p => putTable s (((s.blk p.1).cores[p.2]?).getD core) t bs
        | none => s
    endOp (opArrive s o (fr f 3) 512) core o 0

/-! ## Outlier split (R260) -/

def splitFmt (code : Nat) : Fmt := if code = 2 then fBf16 else if code = 3 then fF16 else if code = 4 then fE4m3 else fE5m2
def splitBytes (code : Nat) : Nat := if code ≤ 3 then 2 else 1

def execQsplit (c : Ctl) (f : FmtA) (s : State) : Out :=
  engInstr c f s (fun s fm =>
    let l := myLoc s
    let k0 := fr fm 6
    let thr := match unpack fF32 false (fr fm 8) with
      | .num n m _ => !n || m == 0
      | _ => false
    let bad := fr fm 0 % 16 != 0 || fr fm 2 % 16 != 0 || fr fm 5 == 0 || fr fm 5 > 65535 || k0 % 32 != 0 || k0 == 0 || k0 > 65536 ||
      fr fm 7 < 2 || fr fm 7 > 5 || !thr || fr fm 9 % 64 != 0 || fr fm 9 + 512 > l.sb || fr fm 10 > 64 || tbFieldBad l (fr fm 11) ||
      !zeroFrom fm 12
    if bad then mxReject c f (fr fm 11) fcMxShape s else acceptOp c (newOp s c f 0xEF 1 fm) s)

/-- The magnitude of an element for the channel maximum: none for a NaN, an infinity above every number. -/
def magOf (f : Fmt) (bits : Nat) : Option (Bool × Dy) :=
  match unpack f false bits with
  | .nan _ _ _ => none
  | .inf _ => some (true, Dy.zero)
  | .num _ m e => some (false, ⟨m, e⟩)
def magLt (a b : Bool × Dy) : Bool := (!a.1 && b.1) || (!a.1 && !b.1 && Dy.lt a.2 b.2)

/-- Candidates by magnitude, largest first, ties to the lower index. -/
def insMag (x : Nat × Bool × Dy) : List (Nat × Bool × Dy) → List (Nat × Bool × Dy)
  | [] => [x]
  | y :: ys => if magLt y.2 x.2 then x :: y :: ys else y :: insMag x ys
def insNat (x : Nat) : List Nat → List Nat
  | [] => [x]
  | y :: ys => if x < y then x :: y :: ys else y :: insNat x ys

/-- The channels to split. -/
def splitMap (f : Fmt) (rows : List (List Nat)) (k0 thr dmax : Nat) : List Nat :=
  let cm := fun (k : Nat) => rows.foldl (fun (m : Bool × Dy) r => match magOf f (r.getD k 0) with
    | some x => if magLt m x then x else m
    | none => m) (false, Dy.zero)
  let t : Bool × Dy := (false, (unpack fF32 false thr).dy)
  let over' := (List.range k0).filterMap (fun k => if magLt t (cm k) then some (k, cm k) else none)
  (((over'.foldl (fun l x => insMag x l) []).take dmax).map (·.1)).foldl (fun l x => insNat x l) []

/-- One row of the split copy: the first K0 elements and the appended ones. -/
def splitRow (f : Fmt) (map : List Nat) (k0 kx : Nat) (r : List Nat) : List Nat :=
  let half := fun (x : Nat) => match unpack f false x with
    | .num n m e => if m = 0 then (zeroOf f n, 0)
      else
        let h := (roundTo envRne f 0 n m (e - 1)).1
        (h, (fSub envRne f 0 (unpack f false x) (unpack f false h)).1)
    | _ => (x, x)
  (List.range k0).map (fun k => if map.contains k then (half (r.getD k 0)).1 else r.getD k 0) ++
  map.map (fun k => (half (r.getD k 0)).2) ++ List.replicate (kx - map.length) 0

/-- Read the rows of a source, or its failure. -/
def readRows (s : State) (o : EngOp) (core src stride n : Nat) : Nat → Nat → Except Nat (List (List Byte))
  | 0, _ => .ok []
  | k + 1, i => match engRead s o core fcMxOperand (src + i * stride) n with
    | .error e => .error e
    | .ok bs => match readRows s o core src stride n k (i + 1) with
      | .error e => .error e
      | .ok rest => .ok (bs :: rest)

/-- Write rows, or the failure. -/
def writeRows (o : EngOp) (core dst stride : Nat) : List (List Byte) → Nat → State → Except Nat State
  | [], _, s => .ok s
  | r :: rs, i, s => match engWrite s o core fcMxOperand (dst + i * stride) r with
    | .error e => .error e
    | .ok s => writeRows o core dst stride rs (i + 1) s

/-- The map of a split whose destination is written, kept until AUX is. -/
def splitKept (o : EngOp) : List Nat := o.extra.filterMap (fun e => if e.1 = 5 then some e.2 else none)

/-- QSPLIT reads its source and writes its destination: the operation with its map, or its failure. -/
def qsplitData (s : State) (core : Nat) (o : EngOp) : Except Nat (State × EngOp) :=
  let f := o.frame
  let code := fr f 7
  let es := splitBytes code
  let fm := splitFmt code
  let k0 := fr f 6
  match readRows s o core (frd f 0) (16 * (fr f 4 % 65536)) (k0 * es) (fr f 5) 0 with
  | .error e => .error e
  | .ok rows =>
    let vals := rows.map (fun r => (List.range k0).map (fun k => ofBytes ((r.drop (es * k)).take es)))
    let map := splitMap fm vals k0 (fr f 8) (fr f 10)
    let kx := 32 * ((map.length + 31) / 32)
    let out := vals.map (fun r => (splitRow fm map k0 kx r).flatMap (toBytes es))
    let n := (k0 + kx) * es
    let units := fr f 5 * (n / 256 * detUnits 256 + (if n % 256 = 0 then 0 else detUnits (n % 256)))
    match takeUnits s core o units with
    | none => .error fcQuantum
    | some s => match writeRows o core (frd f 2) (16 * (fr f 4 / 65536)) out 0 s with
      | .error e => .error e
      | .ok s =>
        let up := fun (o : EngOp) => { o with started := true, extra := o.extra ++ map.map (fun k => (5, k)) }
        .ok (modOp s core o.id up, up o)

/-- One 64-byte piece of the map in AUX, which is written last: DCNT and the entries that lie in it. -/
def splitAux (s : State) (o : EngOp) (p : Nat) : State :=
  let map := splitKept o
  let base := fr o.frame 9
  let s := if p = 0 then spStore s o.block o.rank 0 (base + 8) (toBytes 2 map.length) else s
  let lo := if p = 0 then 0 else 32 * p - 8
  spStore s o.block o.rank 0 (base + 16 + 2 * lo) (((List.range (min 64 (32 * p + 24) - lo)).map (lo + ·)).flatMap (fun t => toBytes 2 (map.getD t 0)))

/-- QSPLIT, whose destination is written, to its end: the pieces of AUX that are still to be written, Arrive. -/
def qsplitEnd (s : State) (core : Nat) (o : EngOp) : State :=
  let f := o.frame
  let n := (fr f 6 + 32 * (((splitKept o).length + 31) / 32)) * splitBytes (fr f 7)
  let s := (List.range 3).foldl (fun s p => if o.pieces.contains p then s else splitAux s o p) s
  endOp (opArrive s o (fr f 11) (fr f 5 * n)) core o 0

/-- QSPLIT to its end, or with `p` up to the write of one piece of AUX, which another instruction may then read beside older ones (R261). -/
def qsplitRun (s : State) (core : Nat) (o : EngOp) (p : Option Nat) : State :=
  match if o.started then .ok (s, o) else qsplitData s core o with
  | .error e => failOp s core o (fr o.frame 11) e
  | .ok (s, o) => match p with
    | none => qsplitEnd s core o
    | some p => if p ≥ 3 || o.pieces.contains p then s
      else modOp (splitAux s o p) core o.id (fun o => { o with pieces := p :: o.pieces })

/-! ## The matrix queue (R248, R234, R255) -/

/-- The operation that an array takes next: the oldest whose block is not saved. -/
def mxHead (s : State) (core : Nat) : Option EngOp := (s.core core).mxQ.find? (fun o => (s.blk o.block).stage != .saved)

/-- The operation to its end. -/
def mxStep (s : State) (core : Nat) (o : EngOp) : State :=
  if o.opc = 0xEE then cbldRun s core o else if o.opc = 0xEF then qsplitRun s core o none else mxRun s core o

/-- A part of the operation: of a tile one row, or one chunk of one element; of QSPLIT one piece of AUX. -/
def mxPart (s : State) (core : Nat) (o : EngOp) (n : Nat) : State :=
  if o.opc = 0xEE then s
  else if o.opc = 0xEF then qsplitRun s core o (some n)
  else if n = 0 then mxRow s core o else mxChunk s core o (n - 1)

/-- The operation meets a fault somewhere. -/
def mxFails (s : State) (core : Nat) (o : EngOp) : Bool :=
  if o.opc = 0xEE || o.opc = 0xEF then false
  else
    let x := mxFrame o.frame
    (mxRows core o x (opAux o) (x.local' - x.srow - o.prog) (x.srow + o.prog) s).2.isSome

/-- MATRIX_OP_RUN: the array runs the operation at its head, to its end or its fault when `r.n` is 0, and else a part of it. -/
def execMatrixOpRun (r : UnitRun) (s : State) : Out :=
  match mxHead s r.core with
  | none => .next s
  | some o => if linkDead s r.core then .next s else .next (if r.n = 0 then mxStep s r.core o else mxPart s r.core o (r.n - 1))

/-- MATRIX_OP_FAULT: the operation at the head meets a fault (R253). -/
def execMatrixOpFault (core : Nat) (s : State) : Out :=
  match mxHead s core with
  | none => .next s
  | some o => if mxFails s core o then .next (mxStep s core o) else .next s

/-! ## Accumulator access (R256, R257) -/

structure AcFrame where
  vr : Nat
  nr : Nat
  t : Nat
  acc : Nat
  row0 : Nat
  col0 : Nat
  n : Nat
  cf : Nat
  scale : Nat

def acFrame (f : List W32) : AcFrame :=
  { vr := fr f 0 % 256, nr := fr f 0 / 256 % 16 + 1, t := fr f 0 / 4096 % 16, acc := fr f 1, row0 := fr f 2, col0 := fr f 3, n := fr f 4 % 512,
    cf := fr f 4 / 65536 % 4, scale := fr f 5 }

/-- Consecutive columns of a lane (R256). -/
def AcFrame.cols (x : AcFrame) : Nat := if x.t = 9 then x.nr / 2 else x.nr * elemN x.t
def AcFrame.row (x : AcFrame) : Nat := cstr x.n (accBytes x.cf)

/-- What every frame of the three instructions breaks. -/
def acBad (f : List W32) : Bool :=
  let x := acFrame f
  !zeroFrom f 6 || x.acc % 64 != 0 || x.acc ≥ 2 ^ 18 || x.row0 > 127 || x.n == 0 || x.n > 256 || bitsN (fr f 4) 9 7 != 0 ||
  fr f 4 / 2 ^ 18 != 0 || fr f 3 ≥ 512

/-- A lane frame breaks a limit for the lanes that take part. -/
def acLaneBad (s : State) (f : List W32) (ls : List Nat) : Bool :=
  let x := acFrame f
  acBad f || fr f 0 ≥ 65536 || x.t < 8 || x.t == 0xF || (x.t == 9 && x.nr % 2 == 1) || x.col0 + x.cols > x.n || x.vr + x.nr > s.me.nv ||
  ls.any (fun l => x.row0 + l > 127 || x.acc + (x.row0 + l) * x.row + (x.col0 + x.cols) * accBytes x.cf > acmSize s (blockOf s.cur))

/-- A failed frame: g(ST) := MX_SHAPE and nothing else. -/
def acReject (c : Ctl) (f : FmtA) (s : State) : Out := .next (s.variable c [.g f.st.toNat (BitVec.ofNat 32 fcMxShape) false])

/-- a * scale rounded once to a format, as a conversion (R43). -/
def scaleTo (env : FEnv) (src dst : Fmt) (c : Nat) (a scale : FV) : Nat × Stat :=
  if a.isNan || scale.isNan then
    (match dst.nan with
     | .none => (0, stIV)
     | _ => (nanResult env dst [(src, a), (fF32, scale)], snanStat [a, scale]))
  else
    let sg := a.neg != scale.neg
    if a.isInf || scale.isInf then
      (if a.isZero || scale.isZero then ((match dst.nan with | .none => 0 | _ => dst.canonNan), stIV) else roundFV env src dst c (.inf sg))
    else roundDy env dst c (a.dy.mul scale.dy) sg

/-- The registers that hold `E` elements of a type in a lane, as writes. -/
def elemWrites (t d l : Nat) (vals : List Nat) (bad : Nat → Bool) : List RegWr :=
  if t = 9 then (numbered' 0 vals).flatMap (fun v =>
    [.v (d + 2 * v.1) l (BitVec.ofNat 32 v.2) (bad v.1), .v (d + 2 * v.1 + 1) l (BitVec.ofNat 32 (v.2 / 2 ^ 32)) (bad v.1)])
  else
    let k := elemN t
    (List.range (vals.length / k)).map (fun r =>
      .v (d + r) l (BitVec.ofNat 32 (joinElems t ((vals.drop (k * r)).take k))) ((List.range k).any (fun i => bad (k * r + i))))
where numbered' : Nat → List Nat → List (Nat × Nat)
  | _, [] => []
  | n, a :: as => (n, a) :: numbered' (n + 1) as

/-- Element `e` of the registers of a lane. -/
def laneElem (g : Group) (t r l e : Nat) : Nat :=
  if t = 9 then (g.rvd (r + 2 * e) l).toNat else elem t (g.rv (r + e / elemN t) l).toNat (e % elemN t)

/-- ACLD: one lane. -/
def acldLane (s : State) (x : AcFrame) (env : FEnv) (l : Nat) (ws : List W32) : List RegWr × Stat :=
  let loc := myLoc s
  let cs := accBytes x.cf
  let cf := accFmt x.cf
  let at' := fun (e : Nat) => acmRead loc (x.acc + (x.row0 + l) * x.row + (x.col0 + e) * cs) cs
  let rs := (List.range x.cols).map (fun e =>
    scaleTo env cf (elemFmt x.t) (coin (ws.getD e 0)) (unpack cf env.daz (ofBytes (at' e).1)) (unpack fF32 env.daz x.scale))
  (elemWrites x.t x.vr l (rs.map (·.1)) (fun e => (at' e).2), rs.foldl (fun a r => a ||| r.2) 0)

def execAcld (c : Ctl) (f : FmtA) (s : State) : Out :=
  engInstr c f s (fun s fm =>
    let g := s.me
    let x := acFrame fm
    let ls := lanesOf g.run
    if acLaneBad s fm ls then acReject c f s
    else
      let env := fenv g 0
      let per := srWordsOf env x.cols
      let op : LaneOp := { named := [], reads := [], preds := [], coins := per, run := acldLane s x env, zero := fun _ => [] }
      let r := runLanes op ls (s.draws (per * ls.length))
      .next ((s.drawn (per * ls.length)).variable c (r.1 ++ statWrs g r.2 ++ [.g f.st.toNat 0 false])))

/-- ACST: one lane's accumulators and status. -/
def acstLane (g : Group) (x : AcFrame) (env : FEnv) (ws : List W32) (l : Nat) : List Byte × Stat :=
  let rs := (List.range x.cols).map (fun e =>
    scaleTo env (elemFmt x.t) (accFmt x.cf) (coin (ws.getD e 0)) (unpack (elemFmt x.t) env.daz (laneElem g x.t x.vr l e))
      (unpack fF32 env.daz x.scale))
  (rs.flatMap (fun r => toBytes (accBytes x.cf) r.1), rs.foldl (fun a r => a ||| r.2) 0)

/-- The lanes of an ACST in turn, each with its own words. -/
def acstLanes (g : Group) (x : AcFrame) (env : FEnv) (per : Nat) : List Nat → List W32 → List (Nat × List Byte × Stat)
  | [], _ => []
  | l :: ls, ws => (l, acstLane g x env (ws.take per) l) :: acstLanes g x env per ls (ws.drop per)

def execAcst (c : Ctl) (f : FmtA) (s : State) : Out :=
  engInstr c f s (fun s fm =>
    let g := s.me
    let x := acFrame fm
    let ls := lanesOf g.run
    if acLaneBad s fm ls then acReject c f s
    else if srcBad g ls [(x.vr, x.nr)] then fail s fcUncorrectable
    else
      let env := fenv g 0
      let per := srWordsOf env x.cols
      let rs := acstLanes g x env per ls (s.draws (per * ls.length))
      let s := s.drawn (per * ls.length)
      let s := s.modLoc (blockOf s.cur) g.rank (fun l => rs.foldl (fun l r =>
        acmPut l (x.acc + (x.row0 + r.1) * x.row + x.col0 * accBytes x.cf) r.2.1) l)
      .next (s.variable c (statWrs g (rs.map (fun r => (r.1, r.2.2))) ++ [.g f.st.toNat 0 false])))

def execAcz (c : Ctl) (f : FmtA) (s : State) : Out :=
  engInstr c f s (fun s fm =>
    let x := acFrame fm
    let cnt := fr fm 3
    let cs := accBytes x.cf
    let bad := acBad fm || fr fm 0 != 0 || cnt == 0 || cnt > 128 || x.row0 + cnt > 128 ||
      x.acc + (x.row0 + cnt - 1) * x.row + x.n * cs > acmSize s (blockOf s.cur)
    if bad then acReject c f s
    else
      let v := toBytes cs (match unpack fF32 false x.scale with
        | .nan _ _ _ => (accFmt x.cf).canonNan
        | y => (roundFV envRne fF32 (accFmt x.cf) 0 y).1)
      let row := (List.replicate x.n v).flatten
      let s := s.modLoc (blockOf s.cur) s.me.rank (fun l => (List.range cnt).foldl (fun l i =>
        acmPut l (x.acc + (x.row0 + i) * x.row) row) l)
      .next (s.variable c [.g f.st.toNat 0 false]))

end Sys2Proof.Machine
end

