-- ==== Sys2Proof/Machine/Fetch.lean ====
section
/-!
DEFINITION. Fetching (R51 to R54), what the next issue of a group is (R55, R67), when a group is eligible (R58, R143, R144,
R12, R168, R173), and reconvergence before each fetch (R18).
-/
namespace Sys2Proof.Machine

/-! ## Packets (R51, R54) -/

/-- The address of the packet of an address. -/
def packetOf (a : W64) : Nat := a.toNat / 32 * 32

/-- The state as far as memory goes when a kernel started. -/
def State.atStart (s : State) (x : Snap) : State :=
  { s with mem := x.mem, cipher := x.cipher, badMem := x.badMem, l2 := x.l2, victims := x.victims, dir := x.dir, net := x.net }

/-- What memory holds now, for a kernel that starts (R54). -/
def State.snap (s : State) : Snap :=
  { mem := s.mem, cipher := s.cipher, badMem := s.badMem, l2 := s.l2, victims := s.victims, dir := s.dir, net := s.net }

/-- Receive the packet of an address, unless the group is issuing from it: as it stands in memory or, where the spec leaves the choice, as it
stood when the kernel started (R54, log 79). -/
def fetchPacket (s : State) (g : Nat) : State :=
  let gr := s.grp g
  let a := packetOf gr.pc
  match gr.packet with
  | some (b, _) => if b = a then s else receive gr a
  | none => receive gr a
where receive (gr : Group) (a : Nat) : State :=
  match translate s gr.ctx (s.coreOf g) .fetch a with
  | .error _ => s.modGrp g (fun gr => { gr with packet := none })
  | .ok (e, pa) =>
    let kn := (s.blk (blockOf g)).kernel
    let old := match mget? s.starts kn with
      | some _ => Config.oldPacket kn g gr.fetches a
      | none => false
    let from' := match mget? s.starts kn with
      | some x => if old then s.atStart x else s
      | none => s
    let r := physRead from' e.pol pa 32 e.key
    (tlbFill s gr.ctx (s.coreOf g) a).modGrp g (fun gr => { gr with packet := some (a, r), fetches := gr.fetches + 1 })

/-- One instruction word of the packet the group has received, or of memory where it has received none; or the precise fault of its
packet (R51). -/
def fetchWord (s : State) (g : Nat) (a : W64) : Except FaultInfo W64 :=
  let gr := s.grp g
  let word := fun (r : List Byte × Bool) =>
    if r.2 then Except.error ⟨fcUncorrectable, 0, a.toNat, 0, 0⟩ else Except.ok (BitVec.ofNat 64 (ofBytes r.1))
  match translate s gr.ctx (s.coreOf g) .fetch a.toNat with
  | .error f => .error ⟨f.code, f.flags, a.toNat, 0, 0⟩
  | .ok (e, pa) => match gr.packet with
    | some (b, bs, bad) =>
      if b = packetOf a then word ((bs.drop (a.toNat % 32)).take 8, bad) else word (physRead s e.pol pa 8 e.key)
    | none => word (physRead s e.pol pa 8 e.key)

/-- The next issue of a group: a fault, with the control fields of the words that raise it at their issue (R53), one word, or two. -/
inductive Plan where
  | fault (f : FaultInfo) (ctls : List Ctl)
  | one (i : Instr)
  | pair (i j : Instr)
  deriving DecidableEq, Repr

/-- Fetch and decode the next word, and the second word of a chain or prefix pair (R53, R55, R67). A chain's two words are issued as one, so that no
test for reconvergence stands between them, also where the second lies at TOP.RPC (R18, log 87). -/
def planOf (s : State) (g : Nat) : Plan :=
  let pc := (s.grp g).pc
  match fetchWord s g pc with
  | .error f => .fault f []
  | .ok w =>
    match decode w with
    | .error _ => .fault (fi fcIllegal) [ctlOf w]
    | .ok i =>
      if (ctlOfInstr i).c = 0 then .one i
      else
        let pos := pc.toNat / 8 % 4
        if pos = 3 then .fault (fi fcIllegal) [ctlOfInstr i]
        else match fetchWord s g (pc + 8) with
          | .error f => .fault f [ctlOfInstr i]
          | .ok w2 => match decode w2 with
            | .error _ => .fault (fi fcIllegal) [ctlOfInstr i, ctlOf w2]
            | .ok j => if chainLegal pos i j then .pair i j else .fault (fi fcIllegal) [ctlOfInstr i, ctlOfInstr j]

/-- The words of a plan. -/
def Plan.words : Plan → List Instr
  | .fault _ _ => []
  | .one i => [i]
  | .pair i j => [i, j]

/-- The control fields of a plan's words, a prefix's own being zero (R67); words that fail to decode have theirs as well (R57). -/
def Plan.ctls : Plan → List Ctl
  | .fault _ cs => cs
  | .one i => [ctlOfInstr i]
  | .pair i j => [ctlOfInstr i, ctlOfInstr j]

/-! ## Reconvergence (R18) -/

/-- Pop the newest entry; an emptied hardware stack reloads one spilled entry (R20). -/
def popEntry (g : Group) : Group :=
  let st := g.stack.drop 1
  { g with stack := st, sc := if st.length = g.sc then g.sc - 1 else g.sc }

/-- A restored FMT also drops the SETFMT that have not completed on the path left (R23). -/
def setPathFmt (g : Group) (x : W32) : Group :=
  { g with fmt := x, pend := g.pend.map (fun p => { p with wr := p.wr.filter (fun w => match w with | .fmt _ => false | _ => true) }) }

/-- The stack operations before each fetch, at most two per entry. Lanes that rejoin stand at RPC (R17); where none is left, PC stays. -/
def reconverge : Nat → Group → Group
  | 0, g => g
  | n + 1, g =>
    match g.stack with
    | [] => g
    | t :: rest =>
      if g.pc = t.rpc || g.run = 0 then
        if !t.s then
          let g1 := setPathFmt { g with am := t.mask, pc := t.pc, packet := none, stack := { t with mask := g.run ||| t.mask, s := true } :: rest } t.fmt
          reconverge n g1
        else
          let am := (t.mask ||| t.brk) &&& ~~~g.xm
          let g1 := popEntry { g with am := am, nest := (lanesOf am).foldl (fun m l => mset m 0 l (mget m 0 l - 1)) g.nest,
                                      pc := if g.run = 0 && am ≠ 0 then t.rpc else g.pc, packet := if g.run = 0 then none else g.packet }
          reconverge n (setPathFmt g1 t.fmt)
      else g

/-- Every lane has exited and the stack is empty: the group ends as by EXIT (R18), but for a handler that was entered so (R25). -/
def Group.atEnd (g : Group) : Bool := g.stack.isEmpty && g.run == 0 && !g.afterEnd

/-! ## Eligibility -/

/-- The pipe an instruction occupies and for how long (R144). -/
def occupancy (i : Instr) : Nat :=
  match pipeOfOp (opcodeOf i) with
  | .x => 4
  | .l => match i with
    | .lred _ _ | .lscan _ _ => 64
    | _ => 2
  | .v => match i with
    | .fcvt _ f => if f.t = 9 || f.b = 9 then 2 else 1
    | .vmov _ f | .vsel _ f | .fadd _ f | .fsub _ f | .fmul _ f | .ffma _ f | .fmin _ f | .fmax _ f | .fminn _ f | .fmaxn _ f
    | .fcmp _ f | .fclass _ f | .fclassKey _ f | .fabs _ f | .fneg _ f | .frnd _ f | .fscl _ f => if f.t = 9 then 2 else 1
    | _ => 1
  | _ => 1

def pipeKey : Pipe → Nat
  | .none => 0 | .s => 1 | .v => 2 | .x => 3 | .l => 4 | .m => 5 | .a => 6

/-- The pipe is free in this cycle. -/
def pipeFree (s : State) (part : Nat) (i : Instr) : Bool :=
  let p := pipeOfOp (opcodeOf i)
  p == .none || decide (mget (s.part part).busy 0 (pipeKey p) ≤ s.clock)

/-- The engine queue an A-class instruction feeds: how many entries it has, how many are taken (R140, R143). -/
def queueRoom (s : State) (core : Nat) (op : Nat) : Bool :=
  let c := s.core core
  if op = 0xBA || (0xF0 ≤ op && op ≤ 0xF2) then c.copyQ.length < 64
  else if 0xE8 ≤ op && op ≤ 0xEF && !(0xEB ≤ op && op ≤ 0xED) then (c.mxQ.filter (fun o => (s.blk o.block).stage != .saved)).length < 8
  else if (0xD8 ≤ op && op ≤ 0xDF) || op = 0xE3 || op = 0xE4 then c.skQ.length < 16
  else if op = 0xF3 || op = 0xF4 then
    c.colQ.length < 16
  else true

/-- How many increments an issue makes of a counter (R12, R56). -/
def incsOf (cs : List Ctl) (k : Nat) : Nat := (cs.filter (fun c => c.setk.toNat = k + 1)).length

/-- The WAIT masks are satisfied, the counters have room and the STALL distance has passed (R12, R56 to R58). -/
def waitsOk (g : Group) (now : Nat) (cs : List Ctl) : Bool :=
  cs.all (fun c => (List.range 12).all (fun k => !c.wait.getLsbD k || g.kc k = 0)) &&
  (List.range 12).all (fun k => g.kc k + incsOf cs k ≤ 63) &&
  (match g.lastIssue with
   | none => true
   | some t => decide (t < now) && cs.all (fun c => t + c.stall.toNat ≤ now))

/-- The accesses of a group that are scratchpad stores, counted for the forwarding table of its partition (R168). -/
def fwdEntries (s : State) (part : Nat) : Nat :=
  ((mvals s.groups).filter (fun g => g.part == part)).foldl (fun n g => n + (g.acc.filter (fun a =>
    match a.space with | .scratch => a.op == .store | _ => false)).length) 0

/-- Order rules that hold an instruction at issue: an STL with release or a LAUNCH behind earlier accesses (R173, R355), an STS or STSC at a full
forwarding table (R168). -/
def orderOk (s : State) (g : Nat) (i : Instr) : Bool :=
  let gr := s.grp g
  match i with
  | .stl _ f => f.ord != 2 || gr.acc.isEmpty
  | .launch _ _ => gr.acc.isEmpty
  | .sts _ _ | .stsc _ _ => !(s.kernelOf g).fwd || decide (fwdEntries s gr.part < 16)
  | _ => true

/-- Words that a FENCE or an acquire under way does not let issue: those of the M and A classes (R173, R175). -/
def memWord (i : Instr) : Bool :=
  let p := pipeOfOp (opcodeOf i)
  p == .m || p == .a

/-- An LDA with acquire of the group has not completed (R173). -/
def Group.acquiring (g : Group) : Bool := g.acc.any (fun a => a.op == .load && a.ord % 2 == 1)

/-- No hold stands, and what holds later accesses back lets the plan issue. -/
def holdLets (g : Group) (ws : List Instr) : Bool :=
  g.hold.isNone && ((g.fence.isNone && !g.acquiring) || ws.all (fun i => !memWord i))

/-- A group may issue in this cycle (R143). -/
def eligible (s : State) (g : Nat) : Bool :=
  let gr := s.grp g
  gr.stop == .running && (s.blk (blockOf g)).stage == .running && gr.detHold.isNone && !gr.atEnd &&
  (let p := planOf s g
   let ws := p.words
   holdLets gr ws && waitsOk gr s.clock p.ctls &&
     ws.all (fun i => pipeFree s gr.part i && queueRoom s (s.coreOf g) (opcodeOf i) && orderOk s g i))

/-- The live groups of a partition, by key. -/
def groupsOn (s : State) (part : Nat) : List Nat :=
  (s.groups.filter (fun e => e.2.part == part && e.2.live && e.2.stop != .saved)).map (·.1)

end Sys2Proof.Machine
end

