-- ==== Sys2Proof/Machine/Flags.lean ====
section
/-!
DEFINITION. Integer results with their status: wrapping and saturating (R32, R113), division (R89, R113), shifts, bit fields
(R92, R116), the ALU of the control thread (R89), truth tables (R94), comparisons (R93).
-/
namespace Sys2Proof.Machine

/-- An exact integer in a width: wrapped, or clamped with SAT (R32). -/
def clampInt (w : Nat) (signed sat : Bool) (x : Int) : Nat × Stat :=
  let lo : Int := if signed then -(2 ^ (w - 1) : Nat) else 0
  let hi : Int := if signed then (2 ^ (w - 1) : Nat) - 1 else (2 ^ w : Nat) - 1
  if sat && x < lo then (wrap w lo, stSAT) else if sat && x > hi then (wrap w hi, stSAT) else (wrap w x, 0)

/-- An operand read as two's complement or unsigned. -/
def readInt (w : Nat) (signed : Bool) (x : Nat) : Int := if signed then sgn w x else (x % 2 ^ w : Nat)

/-- Quotient toward zero, with the corners of R89. -/
def divInt (w : Nat) (signed : Bool) (a b : Nat) : Nat :=
  let sa := readInt w signed a
  let sb := readInt w signed b
  if b % 2 ^ w = 0 then 2 ^ w - 1 else wrap w (Int.tdiv sa sb)

/-- Remainder with the sign of the dividend, with the corners of R89. -/
def remInt (w : Nat) (signed : Bool) (a b : Nat) : Nat :=
  let sa := readInt w signed a
  let sb := readInt w signed b
  if b % 2 ^ w = 0 then a % 2 ^ w else wrap w (Int.tmod sa sb)

/-- IDZ for a zero divisor (R113). -/
def divStat (w b : Nat) : Stat := if b % 2 ^ w = 0 then stIDZ else 0

def shlN (w a b : Nat) : Nat := a * 2 ^ (b % w) % 2 ^ w
def shrN (w a b : Nat) : Nat := a % 2 ^ w / 2 ^ (b % w)
def sarN (w a b : Nat) : Nat := wrap w (sgn w a / (2 ^ (b % w) : Nat))
def rotN (w a b : Nat) : Nat := (a % 2 ^ w * 2 ^ (b % w) + a % 2 ^ w / 2 ^ (w - b % w)) % 2 ^ w

/-- GBFX and VBFX: the field at pos of length len, extended (R92). -/
def bfx (w : Nat) (signed : Bool) (a ctl : Nat) : Nat :=
  let pos := bitsN ctl 0 8
  let len := bitsN ctl 8 8
  if pos ≥ w || len = 0 then 0
  else
    let ln := min len (w - pos)
    let f := bitsN a pos ln
    if signed then wrap w (sgn ln f) else f

/-- GBFI and VBFI: insert the low bits of a into d (R92). -/
def bfi (w : Nat) (d a ctl : Nat) : Nat :=
  let pos := bitsN ctl 0 8
  let len := bitsN ctl 8 8
  if pos ≥ w || len = 0 then d
  else
    let ln := min len (w - pos)
    d - bitsN d pos ln * 2 ^ pos + a % 2 ^ ln * 2 ^ pos

/-- The six conditions of R93. -/
def condHolds (cc : Nat) (a b : Int) : Bool :=
  if cc = 0 then a == b else if cc = 1 then a != b else if cc = 2 then decide (a < b) else if cc = 3 then decide (a ≤ b)
  else if cc = 4 then decide (a > b) else decide (a ≥ b)

/-- lut[2 a + b] (R94). -/
def lutAt (lut : Nat) (a b : Bool) : Bool := bitN lut ((if a then 2 else 0) + (if b then 1 else 0))

/-- The permuted bytes of VPRMT (R117). -/
def permuteBytes (a b sel : Nat) : Nat :=
  let x := a % 2 ^ 32 + b % 2 ^ 32 * 2 ^ 32
  ofBytes ((List.range 4).map (fun i =>
    let n := bitsN sel (4 * i) 4
    let y := bitsN x (8 * (n % 8)) 8
    BitVec.ofNat 8 (if n ≥ 8 then (if y ≥ 128 then 0xFF else 0) else y)))

end Sys2Proof.Machine
end

