-- ==== Sys2Proof/Machine/Control.lean ====
section
/-!
DEFINITION. NOP, PFX and the control-thread instructions, opcodes 0x00 to 0x3C (R69, R67, R87 to R110).
-/
namespace Sys2Proof.Machine

/-! ## NOP and PFX -/

/-- NOP: only its control fields act (R69, log 12). -/
def execNop (c : Ctl) (_f : FmtNOP) (s : State) : Out := .next (s.idle c)

/-- PFX: what it says is kept for the bound word of the same issue (R67). The word counts in a DET context (R299). -/
def execPfx (_c : Ctl) (f : FmtPFX) (s : State) : Out :=
  .next (s.modMe (fun g => { g.issued s.clock 0 with pfx := some f }))

/-! ## Group-register arithmetic (R88, R89) -/

/-- An ALU instruction: its result from the width and the operands, of fixed latency 2. -/
def alu (c : Ctl) (f : FmtS3) (takesB wideD : Bool) (s : State) (r : Nat → Nat → Nat → Nat) : Out :=
  ctlOp c f.gd (gSrcs f takesB) s (fun s =>
    .next (s.fixed c 2 (wrG (f.w && wideD) f.d.toNat (r (gw f) (gA s.me f) (gB s.me f)))))

/-- GDIV and GREM: variable latency (R89). -/
def aluVar (c : Ctl) (f : FmtS3) (s : State) (r : Nat → Nat → Nat → Nat) : Out :=
  ctlOp c f.gd (gSrcs f true) s (fun s =>
    .next (s.variable c (wrG f.w f.d.toNat (r (gw f) (gA s.me f) (gB s.me f)))))

def execGmov (c : Ctl) (f : FmtS3) (s : State) : Out := alu c f false true s (fun _ a _ => a)
def execGadd (c : Ctl) (f : FmtS3) (s : State) : Out := alu c f true true s (fun w a b => (a + b) % 2 ^ w)
def execGsub (c : Ctl) (f : FmtS3) (s : State) : Out := alu c f true true s (fun w a b => (a + 2 ^ w - b) % 2 ^ w)
def execGmul (c : Ctl) (f : FmtS3) (s : State) : Out := alu c f true true s (fun w a b => a * b % 2 ^ w)
def execGmulh (c : Ctl) (f : FmtS3) (s : State) : Out :=
  alu c f true true s (fun w a b => wrap w (readInt w f.s a * readInt w f.s b / (2 ^ w : Nat)))
def execGdiv (c : Ctl) (f : FmtS3) (s : State) : Out := aluVar c f s (fun w a b => divInt w f.s a b)
def execGrem (c : Ctl) (f : FmtS3) (s : State) : Out := aluVar c f s (fun w a b => remInt w f.s a b)
def execGand (c : Ctl) (f : FmtS3) (s : State) : Out := alu c f true true s (fun _ a b => a &&& b)
def execGor (c : Ctl) (f : FmtS3) (s : State) : Out := alu c f true true s (fun _ a b => a ||| b)
def execGxor (c : Ctl) (f : FmtS3) (s : State) : Out := alu c f true true s (fun _ a b => a ^^^ b)
def execGnot (c : Ctl) (f : FmtS3) (s : State) : Out := alu c f false true s (fun w a _ => 2 ^ w - 1 - a)
def execGshl (c : Ctl) (f : FmtS3) (s : State) : Out := alu c f true true s shlN
def execGshr (c : Ctl) (f : FmtS3) (s : State) : Out := alu c f true true s shrN
def execGsar (c : Ctl) (f : FmtS3) (s : State) : Out := alu c f true true s sarN
def execGrot (c : Ctl) (f : FmtS3) (s : State) : Out := alu c f true true s rotN
def execGmin (c : Ctl) (f : FmtS3) (s : State) : Out :=
  alu c f true true s (fun w a b => if readInt w f.s b < readInt w f.s a then b else a)
def execGmax (c : Ctl) (f : FmtS3) (s : State) : Out :=
  alu c f true true s (fun w a b => if readInt w f.s a < readInt w f.s b then b else a)
def execGpopc (c : Ctl) (f : FmtS3) (s : State) : Out := alu c f false false s (fun w a _ => popCount w a)
def execGclz (c : Ctl) (f : FmtS3) (s : State) : Out := alu c f false false s (fun w a _ => clz w a)

/-- GMOVI: the sign-extended immediate (R90). -/
def execGmovi (c : Ctl) (f : FmtSI) (s : State) : Out :=
  ctlOp c f.gd [] s (fun s => .next (s.fixed c 2 [.g f.d.toNat (f.imm.signExtend 32) false]))
/-- GMOVH: the upper half; gD is also a source (R90). -/
def execGmovh (c : Ctl) (f : FmtSI) (s : State) : Out :=
  ctlOp c f.gd [f.d.toNat] s (fun s =>
    .next (s.fixed c 2 [.g f.d.toNat (f.imm ++ (s.me.rg f.d.toNat).extractLsb' 0 16) false]))

/-- GLEA: b is 32 bits, an imm8 being sign-extended to them (R87, R91, log 19). -/
def execGlea (c : Ctl) (f : FmtS3) (s : State) : Out :=
  ctlOp c f.gd (gRegs true f.a ++ (if f.i then [] else [f.b.toNat])) s (fun s =>
    let g := s.me
    let x : Int := readInt 32 f.s (if f.i then wrap 32 (simm8 f.b) else (g.rg f.b.toNat).toNat)
    .next (s.fixed c 2 (wrG true f.d.toNat (wrap 64 ((g.rgd f.a.toNat).toNat + x * 2 ^ (f.sub % 8))))))

def execGbfx (c : Ctl) (f : FmtS3) (s : State) : Out :=
  ctlOp c f.gd (gSrcs f true) s (fun s =>
    .next (s.fixed c 2 (wrG f.w f.d.toNat (bfx (gw f) f.s (gA s.me f) (s.me.rg f.b.toNat).toNat))))
def execGbfi (c : Ctl) (f : FmtS3) (s : State) : Out :=
  ctlOp c f.gd (gSrcs f true ++ gRegs f.w f.d) s (fun s =>
    let d := if f.w then (s.me.rgd f.d.toNat).toNat else (s.me.rg f.d.toNat).toNat
    .next (s.fixed c 2 (wrG f.w f.d.toNat (bfi (gw f) d (gA s.me f) (s.me.rg f.b.toNat).toNat))))

/-! ## Predicates (R93, R94) -/

def execGcmp (c : Ctl) (f : FmtS3) (s : State) : Out :=
  ctlOp c f.gd (gSrcs f true) s (fun s =>
    .next (s.fixed c 2 [.q f.d.toNat (condHolds (f.sub % 8) (readInt (gw f) f.s (gA s.me f)) (readInt (gw f) f.s (gB s.me f)))]))

/-- A group predicate read as a source is poisoned (R153). -/
def qBad (g : Group) (i : Nat) : Bool := g.badP.contains (256 + i)

def execGsel (c : Ctl) (f : FmtS3) (s : State) : Out :=
  ctlOp c f.gd (gSrcs f true) s (fun s =>
    if qBad s.me (f.sub % 8) then fail s fcUncorrectable
    else
      let p := s.me.rq (f.sub % 8) != decide (f.sub / 8 % 2 = 1)
      .next (s.fixed c 2 (wrG f.w f.d.toNat (if p then gA s.me f else gB s.me f))))

def execQop (c : Ctl) (f : FmtS3) (s : State) : Out :=
  ctlOp c f.gd [] s (fun s =>
    if qBad s.me f.a.toNat || qBad s.me f.b.toNat then fail s fcUncorrectable
    else .next (s.fixed c 2 [.q f.d.toNat (lutAt (f.fn.toNat % 16) (s.me.rq f.a.toNat) (s.me.rq f.b.toNat))]))

/-! ## Special registers and FMT (R13, R95 to R97, R343) -/

/-- sr.grp (R13). -/
def srGrp (g : Group) : Nat := g.idx % 512 + 512 * (g.slot % 16) + 8192 * (g.part % 8)

/-- sr.clu (R13, R228). -/
def srClu (s : State) (g : Nat) : Nat :=
  let b := s.blk (blockOf g)
  match b.cluster with
  | none => b.lin
  | some c => if b.cores.length > 1 then b.lin else b.lin / (s.clu c).cores.length

/-- The value of a special register at the issue cycle (R13, R96, R343). -/
def srValue (s : State) (g n : Nat) : Nat :=
  let gr := s.grp g
  let b := s.blk (blockOf g)
  let p := s.pkg (s.pkgOf g)
  if n = 0 then gr.am.toNat
  else if n = 1 then srGrp gr
  else if n = 2 then b.x
  else if n = 3 then b.y
  else if n = 4 then b.z
  else if n = 5 then srClu s g
  else if n = 6 then s.coreOf g % 64
  else if n = 7 then s.dieOf g % 2
  else if n = 8 then s.pkgOf g % 128 + 128 * (s.podIndex % 2048)
  else if n = 9 then s.clock - p.resetAt
  else if n = 0xA then gr.astatAll.toNat
  else if n = 0xB then gr.fstat.toNat
  else if n = 0xC then gr.fpc.toNat
  else if n = 0xD then (if s.isDet g then gr.quantum else 0)
  else if n = 0xE then gr.rdcnt.toNat
  else if n = 0x80 then 1 + 256 * Config.revStep.toNat
  else if n = 0x81 then 64 + 256 * 2 + 65536 * 8 + 16777216 * 16
  else if n = 0x82 then 768 + 65536 * 192
  else if n = 0x83 then 64 + 256 * 32 + 65536 * 8
  else if n = 0x84 then 1300 + 65536 * p.mhz
  else if n = 0x85 then p.plimit + 65536 * p.hdrm
  else if n = 0x86 then 36 + 256 * 16 + 65536 * (s.packages - 1)
  else if n = 0x87 then (s.core (s.coreOf g)).ce
  else if n = 0x88 then (s.ctx gr.ctx).wdog
  else if n = 0x89 then 128
  else if n = 0x8A then gr.ctx % 64
  else 0

def execSread (c : Ctl) (f : FmtS3) (s : State) : Out :=
  ctlOp c f.gd [] s (fun s =>
    .next (s.fixed c 2 (wrG (srWords f.b.toNat == some 2) f.d.toNat (srValue s s.cur f.b.toNat))))

/-- SWRITE: sr.astat clears the bits written as 1 in every lane; sr.fstat with bit 6 set clears V, CODE and REC; every other
register takes no write (R14, R15, R95). It writes at its completion, of latency 2 as S-class has it (R59, R60). -/
def execSwrite (c : Ctl) (f : FmtS3) (s : State) : Out :=
  ctlOp c f.gd [f.a.toNat] s (fun s =>
    let x := s.me.rg f.a.toNat
    .next (s.fixed c 2 (if f.b.toNat = 0xA then [.statClear (x.truncate 8)]
      else if f.b.toNat = 0xB && x.getLsbD 6 then [.fstat 0]
      else [])))

def execGetfmt (c : Ctl) (f : FmtS3) (s : State) : Out :=
  ctlOp c f.gd [] s (fun s => .next (s.fixed c 2 [.g f.d.toNat s.me.fmt false]))

/-- SETFMT under a mask; RM 0 and 7 are refused (R97). -/
def execSetfmt (c : Ctl) (f : FmtS3) (s : State) : Out :=
  ctlOp c f.gd (f.a.toNat :: (if f.i then [] else [f.b.toNat])) s (fun s =>
    let g := s.me
    let m : W32 := if f.i then f.b.signExtend 32 else g.rg f.b.toNat
    let n := (g.fmt &&& ~~~m) ||| (g.rg f.a.toNat &&& m)
    let rm := n.extractLsb' 0 3
    if rm = 0 || rm = 7 then fail s fcIllegal
    else .next (s.fixed c 2 [.fmt (n &&& 0x0FFFFFFF)]))

/-! ## Uniform transfers (R98 to R100) -/

/-- A taken transfer moves the PC (R60). -/
def State.jump (s : State) (c : Ctl) (wr : List RegWr) (target : W64) : State :=
  (s.transfer c wr).modMe (fun g => { g with pc := target, packet := none })

def relTarget (pc : W64) (off : Int) : W64 := pc + BitVec.ofInt 64 (8 * off)

def execBra (c : Ctl) (f : FmtBR) (s : State) : Out :=
  ctlOp c f.gd [] s (fun s => .next (s.jump c [] (relTarget s.me.pc f.off.toInt)))

def execBrx (c : Ctl) (f : FmtS3) (s : State) : Out :=
  ctlOp c f.gd (gRegs true f.a ++ (if f.i then [] else [f.b.toNat])) s (fun s =>
    let g := s.me
    let b : Int := if f.i then simm8 f.b else (g.rg f.b.toNat).toInt
    let t := g.rgd f.a.toNat + BitVec.ofInt 64 (8 * b)
    if t.extractLsb' 0 3 != (0 : BitVec 3) then fail s fcMisaligned else .next (s.jump c [] t))

def execCall (c : Ctl) (f : FmtBR) (s : State) : Out :=
  ctlOp c f.gd [] s (fun s =>
    let pc := s.me.pc
    .next (s.jump c (wrG true f.fn.toNat (pc + 8).toNat) (relTarget pc f.off.toInt)))

def execRet (c : Ctl) (f : FmtS3) (s : State) : Out :=
  ctlOp c f.gd (gRegs true f.a) s (fun s =>
    let t := s.me.rgd f.a.toNat
    if t.extractLsb' 0 3 != (0 : BitVec 3) then fail s fcMisaligned else .next (s.jump c [] t))

/-! ## Divergent transfers (R18 to R22, R101 to R103) -/

/-- The lane predicate of VB and of VEXIT is poisoned in a running lane. -/
def lanePredBad (g : Group) (p : Nat) : Bool := (lanesOf g.run).any (fun l => g.badP.contains (32 * p + l))

/-- The hardware stack is full and no spill slot is free (R20). -/
def stackFull (g : Group) (spd : Nat) : Bool := g.stack.length - g.sc ≥ 8 && g.sc ≥ spd

def pushEntry (g : Group) (e : Entry) : Group :=
  { g with stack := e :: g.stack, sc := if g.stack.length - g.sc ≥ 8 then g.sc + 1 else g.sc }

/-- The 4-byte granules of a spill slot of a group: the spill areas of its core's groups lie above S_b in group-index order (R21). -/
def spillGranules (s : State) (g slot : Nat) : List Nat :=
  let gr := s.grp g
  let i := (s.groups.filter (fun e => blockOf e.1 == blockOf g && e.2.rank == gr.rank && decide (e.2.idx < gr.idx))).length
  let base := ((s.blk (blockOf g)).loc gr.rank).sb + 32 * ((s.kernelOf g).spd * i + slot)
  (List.range 8).map (fun j => base / 4 + j)

/-- A spill writes its whole slot, which clears the slot's poison (R20, R152). -/
def clearSpill (s : State) (g slot : Nat) : State :=
  let gs := spillGranules s g slot
  s.modLoc (blockOf g) (s.grp g).rank (fun l => { l with spBad := l.spBad.filter (fun x => !gs.contains x) })

/-- Remove from the split the lanes whose nesting counter stands at 255 (R19). -/
def dropDeep (g : Group) (deep : W32) : Group :=
  if deep = 0 then g
  else { g with
    xm := g.xm ||| deep
    trap := g.trap ||| deep
    ddp := g.ddp ||| deep
    astat := (lanesOf deep).foldl (fun m l => mset m 0 l (mget m 0 l ||| stDD)) g.astat }

def execVbr (c : Ctl) (f : FmtVB) (s : State) : Out :=
  let g := s.me
  let target := relTarget g.pc f.toff.toInt
  let rpc := relTarget g.pc f.roff.toInt
  if lanePredBad g (f.gd.toNat % 8) then fail s fcUncorrectable
  else
    let pred := maskOf (g.pGuard f.gd)
    let m0 := g.run
    let splits := (m0 &&& pred) != 0 && (m0 &&& ~~~pred) != 0
    let deep := if splits then maskOf (fun l => laneIn m0 l && mget g.nest 0 l == 255) else 0
    let m := m0 &&& ~~~deep
    let t := m &&& pred
    let n := m &&& ~~~pred
    if t = 0 then
      .next ((s.modMe (fun g => { dropDeep g deep with am := n })).jump c [] (g.pc + 8))
    else if n = 0 then
      .next ((s.modMe (fun g => { dropDeep g deep with am := t })).jump c [] target)
    else if stackFull g (s.kernelOf s.cur).spd then fail s fcSpill
    else
      let s := if g.stack.length - g.sc ≥ 8 then clearSpill s s.cur g.sc else s
      .next ((s.modMe (fun g =>
        let g := pushEntry (dropDeep g deep) ⟨target, rpc, t, 0, g.fmt, false⟩
        { g with am := n, nest := (lanesOf m).foldl (fun x l => mset x 0 l (mget x 0 l + 1)) g.nest })).jump c [] (g.pc + 8))

/-- The number of entries above the newest one with this RPC. -/
def depthOf (rpc : W64) : List Entry → Nat → Option Nat
  | [], _ => none
  | e :: es, n => if e.rpc = rpc then some n else depthOf rpc es (n + 1)

def execVbrk (c : Ctl) (f : FmtVB) (s : State) : Out :=
  let g := s.me
  let rpc := relTarget g.pc f.toff.toInt
  match depthOf rpc g.stack 0 with
  | none => fail s fcIllegal
  | some d =>
    if lanePredBad g (f.gd.toNat % 8) then fail s fcUncorrectable
    else
      let out := g.run &&& maskOf (g.pGuard f.gd)
      .next ((s.modMe (fun g => { g with
        am := g.am &&& ~~~out
        stack := g.stack.mapIdx (fun i e => if i = d then { e with brk := e.brk ||| out } else e)
        nest := (lanesOf out).foldl (fun x l => mset x 0 l (mget x 0 l - d)) g.nest })).jump c [] (g.pc + 8))

def execVexit (c : Ctl) (f : FmtS3) (s : State) : Out :=
  ctlOp c f.gd [] s (fun s =>
    let g := s.me
    let gd : BitVec 4 := f.fn.extractLsb' 0 4
    if lanePredBad g (gd.toNat % 8) then fail s fcUncorrectable
    else
      let out := g.run &&& maskOf (g.pGuard gd)
      .next ((s.modMe (fun g => { g with xm := g.xm ||| out })).jump c [] (g.pc + 8)))

/-! ## Waiting (R104 to R106) -/

/-- WAITK: the group issues nothing more until the counter has fallen; its own counter falls after issue + 1 (R60, R104). -/
def execWaitk (c : Ctl) (f : FmtS3) (s : State) : Out :=
  ctlOp c f.gd (if f.i then [] else [f.b.toNat]) s (fun s =>
    let g := s.me
    let k := f.fn.toNat % 16
    let thr := if f.i then wrap 32 (simm8 f.b) else (g.rg f.b.toNat).toNat
    .next ((s.transfer c []).holdMe g.pc 0 (.waitk k thr)))

/-- YIELD: until every other group that the picker found eligible in this cycle has issued once, or 64 cycles (R105). -/
def execYield (c : Ctl) (f : FmtS3) (s : State) : Out :=
  ctlOp c f.gd [] s (fun s =>
    let g := s.me
    let others := (s.part g.part).el.filter (· != s.cur)
    .next ((s.transfer c []).holdMe g.pc 0 (.yield others (s.clock + 64))))

/-- SLEEP: nothing issues for IMM16 cycles; SLEEP 0 acts as NOP (R106). -/
def execSleep (c : Ctl) (f : FmtSI) (s : State) : Out :=
  ctlOp c f.gd [] s (fun s =>
    if f.imm = 0 then .next (s.idle c)
    else .next ((s.transfer c []).holdMe s.me.pc 0 (.sleep (s.clock + f.imm.toNat + 1))))

/-! ## Ending a group (R107, R108): the drain and the release follow when the hold is polled -/

def execExit (c : Ctl) (f : FmtS3) (s : State) : Out :=
  ctlOp c f.gd [] s (fun s => reportPoint s (fun s =>
    let pc := s.me.pc
    .next (((wcDrainGroup s s.cur).transfer c []).holdMe pc 0 .exiting)))

def execTail (c : Ctl) (f : FmtS3) (s : State) : Out :=
  ctlOp c f.gd [] s (fun s => reportPoint s (fun s =>
    .next (((wcDrainGroup s s.cur).transfer c []).holdMe s.me.pc 0 .tailWait)))

/-! ## Traps (R109) -/

def execTrap (c : Ctl) (f : FmtSI) (s : State) : Out :=
  ctlOp c f.gd [] s (fun s => .next (raise s ⟨fcTrap, 0, 0, 0, f.imm.toNat⟩))

def execBkpt (c : Ctl) (f : FmtS3) (s : State) : Out := ctlOp c f.gd [] s (fun s => fail s fcBreakpoint)

end Sys2Proof.Machine
end

