-- ==== Sys2Proof/Machine/Cross.lean ====
section
/-!
DEFINITION. The cross-lane instructions, opcodes 0xA4 to 0xAE (R130 to R138).
-/
namespace Sys2Proof.Machine

/-- The shape of a cross-lane instruction: v-registers named and read in all 32 lanes (R130, R153), predicates read in the
lanes that take part, and its writes and status from the lanes that take part. -/
def crossInstr (c : Ctl) (gd : BitVec 4) (named reads : List (Nat × Nat)) (preds : List Nat)
    (run : Group → List Nat → List RegWr × List (Nat × Stat)) (s : State) : Out :=
  let g := s.me
  let takes := g.part' gd
  orFault s (faultIf (!vRange g (named ++ reads)) fcIllegal ++
      faultIf (pGuardBad g gd || srcBad g lanes reads || predBad g takes preds) fcUncorrectable) (fun s =>
    let r := run g takes
    if takes.isEmpty && r.1.isEmpty then .next (s.idle c) else .next (s.variable c (r.1 ++ statWrs g r.2)))

/-- LRED and LSCAN occupy L until they complete (R144): the partition keeps which instruction it is. -/
def occupyL (s : State) (k : State → Out) : Out :=
  k (s.modPart s.me.part (fun p => { p with lBusy := some (s.cur, s.nextId) }))

/-- Registers of a move of T = 0 or T = 3. -/
def moveRegs (f : FmtV3) : Nat := tRegs f.t.toNat

/-! ## Shuffles and broadcasts (R131, R132, R137) -/

/-- The source lane of LSHF. -/
def shufSource (mode l : Nat) (b : Int) : Int :=
  if mode = 0 then b
  else if mode = 1 then (l : Int) - b
  else if mode = 2 then (l : Int) + b
  else (BitVec.ofNat 32 l ^^^ BitVec.ofInt 32 b).toInt

def execLshf (c : Ctl) (f : FmtV3) (s : State) : Out :=
  let b := if f.imm then [] else [(f.b.toNat, 1)]
  crossInstr c f.gd [(f.d.toNat, 1)] ((f.a.toNat, 1) :: b) [] (fun g takes =>
    (takes.flatMap (fun l =>
      let bv : Int := if f.imm then simm8 f.b else (g.rv f.b.toNat l).toInt
      let src := shufSource (f.mode % 4) l bv
      let ok := decide (0 ≤ src ∧ src ≤ 31)
      .v f.d.toNat l (g.rv f.a.toNat (if ok then src.toNat else l)) false ::
        (if f.t.toNat ≥ 8 then [.p (f.t.toNat % 8) l ok] else [])), [])) s

/-- LBC: the lane is the immediate, or vB[4:0] of the lowest lane that takes part (R132). -/
def execLbc (c : Ctl) (f : FmtV3) (s : State) : Out :=
  let t := f.t.toNat
  let n := moveRegs f
  crossInstr c f.gd [(f.d.toNat, n)] ((f.a.toNat, n) :: (if f.imm then [] else [(f.b.toNat, n)])) [] (fun g takes =>
    match takes with
    | [] => ([], [])
    | l0 :: _ =>
      let src := if f.imm then f.b.toNat % 32 else (g.rv f.b.toNat l0).toNat % 32
      (takes.flatMap (fun l => wrV (wideT t) f.d.toNat l (laneVal g t f.a.toNat src)), [])) s

/-- VFROMG (R137). -/
def execVfromg (c : Ctl) (f : FmtV3) (s : State) : Out :=
  let w := wideT f.t.toNat
  if (gRegs w f.a).any s.me.gBad && vRange s.me [(f.d.toNat, moveRegs f)] then fail s fcUncorrectable
  else crossInstr c f.gd [(f.d.toNat, moveRegs f)] [] [] (fun g takes =>
    let x := if w then (g.rgd f.a.toNat).toNat else (g.rg f.a.toNat).toNat
    (takes.flatMap (fun l => wrV w f.d.toNat l x), [])) s

/-- VTOG of a named lane: the group register is written whatever the guard says (R130, R137). -/
def execVtog (c : Ctl) (f : FmtV3) (s : State) : Out :=
  let t := f.t.toNat
  crossInstr c f.gd [] [(f.a.toNat, moveRegs f)] [] (fun g _ =>
    (wrG (wideT t) f.d.toNat (laneVal g t f.a.toNat (f.b.toNat % 32)), [])) s

/-- VTOG.first: the lowest lane that takes part; gD unchanged when there is none (R137). -/
def execVtogFirst (c : Ctl) (f : FmtV3) (s : State) : Out :=
  let t := f.t.toNat
  crossInstr c f.gd [] [(f.a.toNat, moveRegs f)] [] (fun g takes =>
    match takes with
    | [] => ([], [])
    | l :: _ => (wrG (wideT t) f.d.toNat (laneVal g t f.a.toNat l), [])) s

/-! ## Votes (R133) -/

/-- The value of [!]pA in a lane. -/
def voteIn (g : Group) (f : FmtV3) (l : Nat) : Bool := g.rp (f.a.toNat % 8) l != decide (f.a.toNat / 8 % 2 = 1)

def vote (c : Ctl) (f : FmtV3) (s : State) (r : List Bool → Bool) : Out :=
  crossInstr c f.gd [] [] [f.a.toNat % 8] (fun g takes => ([.q (f.d.toNat % 8) (r (takes.map (voteIn g f)))], [])) s

def execLvoteAll (c : Ctl) (f : FmtV3) (s : State) : Out := vote c f s (fun xs => xs.all id)
def execLvoteAny (c : Ctl) (f : FmtV3) (s : State) : Out := vote c f s (fun xs => xs.any id)
def execLvoteUni (c : Ctl) (f : FmtV3) (s : State) : Out := vote c f s (fun xs => xs.all id || xs.all (! ·))
def execLvoteBal (c : Ctl) (f : FmtV3) (s : State) : Out :=
  crossInstr c f.gd [(f.d.toNat, 1)] [] [f.a.toNat % 8] (fun g takes =>
    let m := maskOf (fun l => takes.contains l && voteIn g f l)
    (takes.map (fun l => .v f.d.toNat l m false), [])) s

/-! ## Reductions and scans (R134, R135) -/

/-- One combining step of an operation on a type: the result and its status. Float sums and comparisons use RNE, DAZ, FTZ
and NANP of FMT. -/
def combine (env : FEnv) (op t : Nat) (x y : Nat × Stat) : Nat × Stat :=
  let w := elemW t
  let st := x.2 ||| y.2
  let a := x.1
  let b := y.1
  if t = 8 || t = 9 then
    let m := elemFmt t
    let r := if op = 0 then fAdd env m 0 (unpack m env.daz a) (unpack m env.daz b) else fMinMax env m (op == 2) false a b
    (r.1, st ||| r.2)
  else
    let sg := elemSigned t
    ((if op = 0 then (a + b) % 2 ^ w
      else if op = 1 then (if readInt w sg b < readInt w sg a then b else a)
      else if op = 2 then (if readInt w sg a < readInt w sg b then b else a)
      else if op = 3 then a &&& b
      else if op = 4 then a ||| b
      else a ^^^ b), st)

/-- K of ARGMAX: the order key of element 0 above the complement of the index (R134). -/
def argKey (t a b : Nat) : Nat := fKey (elemFmt t) (bitsN a 0 16) * 65536 + (0xFFFF - b % 65536)

def execLred (c : Ctl) (f : FmtV3) (s : State) : Out :=
  let t := f.t.toNat
  let arg := f.mode == 6
  let n := if arg then 1 else tRegs t
  occupyL s (crossInstr c f.gd [(f.d.toNat, n)] ((f.a.toNat, n) :: (if arg then [(f.b.toNat, 1)] else [])) [] (fun g takes =>
    let env := fenv g 1
    let r := if arg then
        ((takes.map (fun l => argKey t (g.rv f.a.toNat l).toNat (g.rv f.b.toNat l).toNat)).foldl max 0, (0 : Stat))
      else (treeFold (combine env f.mode t) 6 (takes.map (fun l => (laneVal g t f.a.toNat l, (0 : Stat))))).headD (0, 0)
    (takes.flatMap (fun l => wrV (wideT t && !arg) f.d.toNat l r.1), takes.map (fun l => (l, r.2)))))

/-- What the first lane of an exclusive scan receives (R135). -/
def scanIdentity (op t : Nat) : Nat :=
  let w := elemW t
  if op = 3 then 2 ^ w - 1
  else if op = 1 || op = 2 then
    (if t = 8 || t = 9 then infOf (elemFmt t) (op == 2)
     else if elemSigned t then (if op = 1 then 2 ^ (w - 1) - 1 else 2 ^ (w - 1))
     else (if op = 1 then 2 ^ w - 1 else 0))
  else 0

/-- The chain y_0, y_1, … with the status of the steps up to each. -/
def scanChain (op : Nat × Stat → Nat × Stat → Nat × Stat) (y : Nat × Stat) : List Nat → List (Nat × Stat)
  | [] => [y]
  | x :: xs => y :: scanChain op (op y (x, 0)) xs

def execLscan (c : Ctl) (f : FmtV3) (s : State) : Out :=
  let t := f.t.toNat
  let n := tRegs t
  occupyL s (crossInstr c f.gd [(f.d.toNat, n)] [(f.a.toNat, n)] [] (fun g takes =>
    let xs := takes.map (laneVal g t f.a.toNat)
    let ys := match xs with
      | [] => []
      | x :: rest => scanChain (combine (fenv g 1) f.mode t) (x, 0) rest
    let ys := if f.b.toNat % 2 = 1 then (scanIdentity f.mode t, (0 : Stat)) :: ys else ys
    let r := takes.zip ys
    (r.flatMap (fun e => wrV (wideT t) f.d.toNat e.1 e.2.1), r.map (fun e => (e.1, e.2.2)))))

/-! ## Matching and compaction (R136) -/

def execLmatch (c : Ctl) (f : FmtV3) (s : State) : Out :=
  let t := f.t.toNat
  let n := moveRegs f
  crossInstr c f.gd [(f.d.toNat, n)] [(f.a.toNat, n)] [] (fun g takes =>
    (takes.flatMap (fun l => wrV (wideT t) f.d.toNat l
      (maskOf (fun m => takes.contains m && laneVal g t f.a.toNat m == laneVal g t f.a.toNat l)).toNat), [])) s

def execLcmpr (c : Ctl) (f : FmtV3) (s : State) : Out :=
  let t := f.t.toNat
  let n := moveRegs f
  crossInstr c f.gd [(f.d.toNat, n)] [(f.a.toNat, n)] [f.b.toNat % 8] (fun g takes =>
    let sel := takes.filter (fun l => g.rp (f.b.toNat % 8) l != decide (f.b.toNat / 8 % 2 = 1))
    ((takes.zip sel).flatMap (fun e => wrV (wideT t) f.d.toNat e.1 (laneVal g t f.a.toNat e.2)), [])) s

/-! ## Transfers between groups of a block (R138) -/

/-- Change the waiting list of a transfer slot. -/
def State.modSlot (s : State) (b slot : Nat) (f : List XWait → List XWait) : State :=
  s.modBlk b (fun bl => { bl with xfer := mmod bl.xfer [] slot f })

/-- A waiting XSEND or XRECV takes RENDEZVOUS_MISMATCH at its own address: its counter is as if it had not issued, and what
holds its group ends (log 31). -/
def faultPartner (s : State) (b slot : Nat) : State :=
  match mget (s.blk b).xfer [] slot with
  | [] => s
  | w :: rest =>
    let s := s.modSlot b slot (fun _ => rest)
    let s := (s.grp w.g).holds.foldl (fun s h => takeBack s w.g h.kind) s
    let s := s.modGrp w.g (fun g =>
      let p := (g.pend.find? (fun p => p.id == w.pend)).getD ⟨w.pend, none, 0, []⟩
      undoHold ({ g with pend := g.pend.filter (fun p => p.id != w.pend) }.kDec p.setk))
    if w.g = s.cur then s else deliver (s.modGrp w.g (fun g => { g with pc := w.pc })) w.g (fi fcRendezvous)

/-- The oldest waiting instruction of a slot is of the other kind. -/
def otherWaits (s : State) (b slot : Nat) (send : Bool) : Option XWait :=
  match mget (s.blk b).xfer [] slot with
  | [] => none
  | w :: _ => if w.send = send then none else some w

/-- Pair a send with a receive: the send completes, and the receive holds its registers' new values (R138). -/
def pairUp (s : State) (b slot : Nat) (snd rcv : XWait) : State :=
  let wr := snd.vals.filterMap (fun v => if laneIn rcv.mask v.2.1 then some (RegWr.v (rcv.base + v.1) v.2.1 v.2.2 false) else none)
  let s := s.modSlot b slot (fun l => l.filter (fun w => w.pend != snd.pend && w.pend != rcv.pend))
  let s := s.modGrp snd.g (fun g => match g.pend.find? (fun p => p.id == snd.pend) with
    | some p => g.complete p
    | none => g)
  s.modGrp rcv.g (fun g => { g with pend := g.pend.map (fun p => if p.id = rcv.pend then { p with wr := wr } else p) })

/-- Issue one side of a transfer, pairing it at once when the other side waits. -/
def transfer (c : Ctl) (slot : Nat) (w : XWait) (s : State) : Out :=
  let b := blockOf s.cur
  match otherWaits s b slot w.send with
  | some o =>
    if o.n ≠ w.n then
      (if s.probe.on then fail { s with probe := { s.probe with partner := some (b, slot) } } fcRendezvous
       else fail (faultPartner s b slot) fcRendezvous)
    else
      let s1 := (s.issueHeld c).modMe (fun g => { g with pend := g.pend ++ [⟨w.pend, none, c.setk.toNat, []⟩] })
      let s1 := { s1 with nextId := s.nextId + 1 }
      .next (if w.send then pairUp s1 b slot w o else pairUp s1 b slot o w)
  | none =>
    let s1 := (s.issueHeld c).modMe (fun g => { g with pend := g.pend ++ [⟨w.pend, none, c.setk.toNat, []⟩] })
    .next ({ s1 with nextId := s.nextId + 1 }.modSlot b slot (· ++ [w]))

/-- What XSEND reads: all 32 lanes of its registers. -/
def sendVals (g : Group) (base n : Nat) : List (Nat × Nat × W32) :=
  (List.range n).flatMap (fun j => lanes.map (fun l => (j, l, g.rv (base + j) l)))

/-- XSEND. One that issues while no lane runs reads and sends all lanes all the same (R138, log 31). -/
def execXsend (c : Ctl) (f : FmtV3) (s : State) : Out :=
  let g := s.me
  let n := f.mode + 1
  orFault s (faultIf (!vRange g [(f.a.toNat, n)]) fcIllegal ++ faultIf (srcBad g lanes [(f.a.toNat, n)]) fcUncorrectable) (fun s =>
    transfer c (f.b.toNat % 16) ⟨s.cur, s.nextId, g.pc, n, true, f.a.toNat, 0xFFFFFFFF, sendVals g f.a.toNat n, f.gd⟩ s)

/-- XRECV: one that acts in no lane completes at once and does not join its slot (R12, log 31). -/
def execXrecv (c : Ctl) (f : FmtV3) (s : State) : Out :=
  let g := s.me
  let n := f.mode + 1
  let takes := g.part' f.gd
  orFault s (faultIf (!vRange g [(f.d.toNat, n)]) fcIllegal ++ faultIf (pGuardBad g f.gd) fcUncorrectable) (fun s =>
    if takes.isEmpty then .next (s.idle c)
    else transfer c (f.b.toNat % 16) ⟨s.cur, s.nextId, g.pc, n, false, f.d.toNat, maskOf takes.contains, [], f.gd⟩ s)

/-- An unpaired XSEND or XRECV issues again when its group is restored: a send reads its registers anew, and a receive that then acts in no
lane has nothing to wait for. No other group of the block can have come first, since the block was saved whole (R138, R358, log 31). -/
def issueAgain (s : State) (w : XWait) : Option XWait :=
  let g := s.grp w.g
  if w.send then some { w with vals := sendVals g w.base w.n }
  else
    let takes := g.part' w.gd
    if takes.isEmpty then none else some { w with mask := maskOf takes.contains }

/-- The instruction of a pending completion still waits in a slot (R138). -/
def inSlot (s : State) (g pend : Nat) : Bool :=
  (mvals (s.blk (blockOf g)).xfer).any (fun l => l.any (fun w => w.g == g && w.pend == pend))

end Sys2Proof.Machine
end

