-- ==== Sys2Proof/Machine/Memory.lean ====
section
/-!
DEFINITION. The memory instructions of the lanes and of the control thread, opcodes 0xB0 to 0xB9 and 0xBD to 0xBF (R155, R156,
R170 to R178): checks, and the access or hold that each begins. Machine/Access.lean performs the accesses.
-/
namespace Sys2Proof.Machine

/-! ## Lane checks (R24, R29, R156) -/

/-- A lane that fails: code, address, lane, record flags. -/
abbrev Bad := Nat × Nat × Nat × Nat

/-- The fault of a lane instruction: the lowest code, the lanes that failed with it, the lowest of their addresses (R29, R337). -/
def laneFault (bad : List Bad) : Option FaultInfo :=
  match bad with
  | [] => none
  | b :: bs =>
    let code := bs.foldl (fun c x => min c x.1) b.1
    let hit := bad.filter (fun x => x.1 == code)
    let va := hit.foldl (fun v x => min v x.2.1) (hit.headD b).2.1
    let fl := ((hit.find? (fun x => x.2.1 == va)).getD b).2.2.2
    some ⟨code, fl, va, hit.foldl (fun m x => m ||| (1#32 <<< x.2.2.1)) 0, 0⟩

def faultList (o : Option FaultInfo) : List FaultInfo := match o with | some f => [f] | none => []

/-- Single-copy atomic size of a memory (R161). -/
def atomSize (pa : Nat) : Nat := if isHost pa then 8 else 32

/-- A lane address that passed: the lane, its virtual and physical address, and the page. -/
structure LaneVa where
  lane : Nat
  va : Nat
  pa : Nat
  page : TlbEnt
  deriving DecidableEq, Repr

/-- The generic addresses of lanes, checked: alignment, translation, and the atomic size where one is needed (R156, R172, R306). -/
def genericLanes (s : State) (k : Kind) (n : Nat) (atomic : Bool) (vas : List (Nat × Nat)) : List LaneVa × List Bad :=
  let cx := s.me.ctx
  let core := s.coreOf s.cur
  vas.foldl (fun acc x =>
    if x.2 % n ≠ 0 then (acc.1, acc.2 ++ [(fcMisaligned, x.2, x.1, 0)])
    else match translate s cx core k x.2 with
      | .error f => (acc.1, acc.2 ++ [(f.code, x.2, x.1, f.flags)])
      | .ok (e, pa) =>
        if atomic && n > atomSize pa then (acc.1, acc.2 ++ [(fcMisaligned, x.2, x.1, 0)])
        else (acc.1 ++ [⟨x.1, x.2, pa, e⟩], acc.2)) ([], [])

/-- The 64-bit lane addresses of a format: vA.d + OFF8 * size. -/
def laneVas (g : Group) (addr : Nat) (off : Int) (ls : List Nat) : List (Nat × Nat) :=
  ls.map (fun l => (l, wrap 64 ((g.rvd addr l).toNat + off)))

/-- One lane's requests. With `cut` they are the single-copy-atomic pieces of its line (R161, R285); an atomic is not cut. -/
def laneReqs (cut : Bool) (n : Nat) (data : Nat → List Byte) (l : LaneVa) : List Req :=
  let u := atomSize l.pa
  let w := if cut then min n u else n
  (List.range (n / w)).map (fun i =>
    newReq (lineOf l.pa) l.page.key l.page.pol w (w * i) (if cut then (l.pa + w * i) % 256 / u * u else 0)
      [{ lane := l.lane, va := l.va + w * i, pa := l.pa + w * i, data := if cut then ((data l.lane).drop (w * i)).take w else data l.lane,
         bad := false }])

/-- A request joins the one for the same piece. -/
def joinReq (q : Req) (rs : List Req) : List Req :=
  match rs.find? (sameReq q) with
  | some r => { r with lanes := q.lanes ++ r.lanes } :: rs.filter (fun x => !sameReq q x)
  | none => q :: rs

/-- The requests of an access: those of its lanes, joined piece by piece (R163, R170, R285, log 83). -/
def lineReqs (cut : Bool) (n : Nat) (data : Nat → List Byte) (ls : List LaneVa) : List Req :=
  (ls.flatMap (laneReqs cut n data)).foldr joinReq []

/-- A lane put before the first of a greater rank. -/
def insRank {A : Type} (rank : A → Nat) (x : A) : List A → List A
  | [] => [x]
  | y :: ys => if rank x < rank y then x :: y :: ys else y :: insRank rank x ys

/-- The order in which the lanes of a store write. Lanes are aligned to one size, so two overlap exactly when they name one place; where
two do, the order is that of their free ranks (R170, log 76). -/
def storeOrder {A : Type} (s : State) (place lane : A → Nat) (xs : List A) : List A :=
  if xs.any (fun x => xs.any (fun y => lane x != lane y && place x == place y)) then
    let rank := fun x => (if s.isDet s.cur then Config.laneRank (s.me.gsid.toNat + 1) s.me.detCount (lane x)
      else Config.laneRank 0 s.nextId (lane x)).toNat
    xs.foldr (insRank rank) []
  else xs

/-- The data registers of a size (R65, R170). -/
def sizeRegs (size : Nat) : Nat := (size + 3) / 4

/-- The bytes a lane stores: the low bytes of its registers. -/
def storeBytes (g : Group) (reg size l : Nat) : List Byte :=
  ((List.range (sizeRegs size)).flatMap (fun j => toBytes 4 (g.rv (reg + j) l).toNat)).take size

/-- Begin an access: the instruction issues, and its requests wait to be performed. -/
def beginAccess (c : Ctl) (s : State) (a : Access) (vas : List Nat) : State :=
  let s := vas.foldl (fun s va => tlbFill s s.me.ctx (s.coreOf s.cur) va) s
  let s := (s.issueHeld c).modMe (fun g => { g with acc := g.acc ++ [a] })
  { s with nextId := s.nextId + 1 }

/-! ## Generic loads and stores (R170, R172) -/

/-- A generic lane access: format fields, then the operation. `n` bytes are checked in each lane; `unit` scales OFF8. -/
structure GenMem where
  gd : BitVec 4
  op : MemOp
  kind : Kind
  dreg : Nat
  addr : Nat
  off : BitVec 8
  size : Nat
  n : Nat
  atomic : Bool
  hint : Nat
  scope : Nat
  ord : Nat

/-- In a DET context a lane store is buffered until its quantum commits (R300). -/
def detStores (s : State) (g : Nat) (size : Nat) (data : Nat → List Byte) (ls : List LaneVa) : State :=
  ls.foldl (fun s l => detPut s g
    { pa := l.pa, pol := l.page.pol, key := l.page.key, pos := (s.grp g).detCount, quantum := some (s.grp g).quantum, ordered := false, eng := none,
      units := detUnits size, op := .write (data l.lane) }) s

/-- Too few units are free for the lanes of an instruction (R303). -/
def detFull (s : State) (lanes size : Nat) : Bool :=
  s.isDet s.cur && decide ((s.core (s.coreOf s.cur)).units + lanes * detUnits size > detCap)

def generic (c : Ctl) (m : GenMem) (s : State) : Out :=
  let g := s.me
  let takes := g.part' m.gd
  let regs := sizeRegs m.size
  let isStore := m.op == .store
  let vas := laneVas g m.addr (m.off.toInt * m.size) takes
  let (ok, bad) := genericLanes s m.kind m.n m.atomic vas
  let srcs := (m.addr, 2) :: (if isStore then [(m.dreg, regs)] else [])
  orFault s (faultIf (!vRange g [(m.dreg, regs), (m.addr, 2)]) fcIllegal ++ faultList (laneFault bad) ++
      faultIf (pGuardBad g m.gd || srcBad g takes srcs) fcUncorrectable ++
      faultIf (isStore && detFull s takes.length m.size) fcQuantum) (fun s =>
    if takes.isEmpty then .next (s.idle c)
    else
      let data := fun l => if isStore then storeBytes g m.dreg m.size l else []
      let ok := if isStore then storeOrder s (·.pa) (·.lane) ok else ok
      if isStore && s.isDet s.cur then
        .next ((detStores s s.cur m.size data ok).variable c [])
      else
        let s := if m.ord = 2 then wcDrainGroup s s.cur else s
        let id := s.nextId
        let s1 := beginAccess c s
          { id := id, setk := c.setk.toNat, op := m.op, space := .generic, size := m.size, dst := m.dreg, hint := m.hint,
            scope := m.scope, ord := m.ord, swz := 0, reqs := lineReqs true m.n data ok } (vas.map (·.2))
        .next s1)

/-- Format M for generic memory. -/
def genM (f : FmtM) (op : MemOp) (k : Kind) : GenMem :=
  let size : Nat := 2 ^ f.sz.toNat
  { gd := f.gd, op := op, kind := k, dreg := f.data.toNat, addr := f.addr.toNat, off := f.off, size := size, n := size, atomic := false,
    hint := f.hint.toNat, scope := 0, ord := 0 }

/-- Format MO. An ordered load reads at L2: it uses no L1 copy and makes none (log 33). -/
def genMO (f : FmtMO) (op : MemOp) (k : Kind) (n : Nat) : GenMem :=
  { gd := f.gd, op := op, kind := k, dreg := f.data.toNat, addr := f.addr.toNat, off := f.off, size := 2 ^ f.sz.toNat, n := n,
    atomic := true, hint := if op = .load then 2 else 0, scope := f.scope.toNat, ord := f.ord.toNat }

def execLd (c : Ctl) (f : FmtM) (s : State) : Out := generic c (genM f .load .read) s
def execSt (c : Ctl) (f : FmtM) (s : State) : Out := generic c (genM f .store .write) s
def execLda (c : Ctl) (f : FmtMO) (s : State) : Out := generic c (genMO f .load .read (2 ^ f.sz.toNat)) s
/-- A range acquire reads the 32-byte record at a 32-byte aligned address (R174). -/
def execLdaRng (c : Ctl) (f : FmtMO) (s : State) : Out := generic c (genMO f .load .read 32) s
def execStl (c : Ctl) (f : FmtMO) (s : State) : Out := generic c (genMO f .store .write (2 ^ f.sz.toNat)) s

/-! ## Scratchpad loads and stores (R149, R157, R170, R171) -/

/-- A lane's scratchpad target: block, rank and offset. -/
def spTarget (s : State) (g : Group) (addr : Nat) (off : Int) (remote : Bool) (l : Nat) : Option (Nat × Nat) × Int :=
  let v := (g.rv addr l).toNat
  if remote then
    (if v / 2 ^ 28 ≠ 0 then none else cluTarget s s.cur (bitsN v 24 4), (bitsN v 0 24 : Nat) + off)
  else (some (blockOf s.cur, g.rank), (v : Int) + off)

/-- The scratchpad addresses of lanes, checked (R149, R156, R171). -/
def spLanes (s : State) (addr : Nat) (off : Int) (size : Nat) (remote : Bool) (ls : List Nat) : List (Nat × Nat × Nat) × List Bad :=
  let g := s.me
  ls.foldl (fun acc l =>
    let t := spTarget s g addr off remote l
    let va := wrap 64 t.2
    if t.2 % (size : Int) ≠ 0 then (acc.1, acc.2 ++ [(fcMisaligned, va, l, 0)])
    else match t.1 with
      | none => (acc.1, acc.2 ++ [(fcScratch, va, l, 0)])
      | some (b, r) =>
        if t.2 < 0 || !spInside ((s.blk b).loc r) t.2.toNat size then (acc.1, acc.2 ++ [(fcScratch, va, l, 0)])
        else (acc.1 ++ [(l, 16 * b + r, t.2.toNat)], acc.2)) ([], [])

/-- The requests of a scratchpad access of `n` bytes in each lane: one for each scratchpad reached, or with `pieces` one for each aligned 64-byte
piece of it, the unit in which accesses of one group that nothing orders mix (R167); the piece stands in the key. -/
def spReqs (pieces : Bool) (n : Nat) (data : Nat → List Byte) (ls : List (Nat × Nat × Nat)) : List Req :=
  (ls.map (fun l => newReq l.2.1 (if pieces then l.2.2 / 64 else 0) 0 n 0 0
    [{ lane := l.1, va := l.2.2, pa := l.2.2, data := data l.1, bad := false }])).foldr joinReq []

def scratch (c : Ctl) (f : FmtM) (op : MemOp) (remote : Bool) (s : State) : Out :=
  let g := s.me
  let size : Nat := 2 ^ f.sz.toNat
  let takes := g.part' f.gd
  let regs := sizeRegs size
  let (ok, bad) := spLanes s f.addr.toNat (f.off.toInt * size) size remote takes
  let srcs := (f.addr.toNat, 1) :: (if op = .store then [(f.data.toNat, regs)] else [])
  orFault s (faultIf (!vRange g [(f.data.toNat, regs), (f.addr.toNat, 1)]) fcIllegal ++ faultList (laneFault bad) ++
      faultIf (pGuardBad g f.gd || srcBad g takes srcs) fcUncorrectable) (fun s =>
    if takes.isEmpty then .next (s.idle c)
    else
      let data := fun l => if op = .store then storeBytes g f.data.toNat size l else []
      let ok := if op = .store then storeOrder s (fun x => 2 ^ 32 * x.2.1 + x.2.2) (·.1) ok else ok
      .next (beginAccess c s
        { id := s.nextId, setk := c.setk.toNat, op := op, space := .scratch, size := size, dst := f.data.toNat, hint := 0, scope := 0,
          ord := 0, swz := f.swz.toNat, reqs := spReqs true size data ok } []))

def execLds (c : Ctl) (f : FmtM) (s : State) : Out := scratch c f .load false s
def execSts (c : Ctl) (f : FmtM) (s : State) : Out := scratch c f .store false s
def execLdsc (c : Ctl) (f : FmtM) (s : State) : Out := scratch c f .load true s
def execStsc (c : Ctl) (f : FmtM) (s : State) : Out := scratch c f .store true s

/-! ## FENCE (R175) -/

/-- A FENCE holds later M- and A-class words until it completes; FENCE.t, which can fault precisely, holds every later word. With a release
part the write-combining buffers drain. -/
def execFence (c : Ctl) (f : FmtMO) (s : State) : Out :=
  let pc := s.me.pc
  let s := if f.ord.toNat ≥ 2 then wcDrainGroup s s.cur else s
  let trap := decide (f.data.toNat % 2 = 1)
  let k : HoldKind := .fence f.ord.toNat f.scope.toNat trap
  .next (if trap then (s.issueHeld c).holdMe pc c.setk.toNat k
    else (s.issueHeld c).modMe (fun g => { g with fence := some ⟨k, s.clock, pc, c.setk.toNat⟩ }))

/-- An access whose writes are posted: nothing returns to the group. -/
def Access.posted (a : Access) : Bool :=
  a.space == .generic && (match a.op with
    | .load => false
    | .store => true
    | .atom _ _ ret => !ret)

/-- The earlier posted writes of a group that have still to reach another package, with their packages (R387). -/
def postedTo (s : State) (g : Nat) : List (Access × Req × Nat) :=
  ((s.grp g).acc.filter Access.posted).flatMap (fun a => (a.reqs.filter (fun r => r.stage != .done)).map (fun r =>
    (a, r, homeDie (256 * r.line) / 2))) |>.filter (fun x => x.2.2 != s.pkgOf g)

/-- A posted write that no route carries any more is lost: it goes into the pod error record, and nothing waits for it (R175, R387). -/
def loseWrite (s : State) (g : Nat) (x : Access × Req × Nat) : State :=
  let a := x.1
  let r := x.2.1
  let mine := s.net.filter (fun e => e.2.tid == a.id && e.2.addr == 256 * r.line + r.piece)
  let m := match mine with
    | e :: _ => e.2
    | [] => { accMsg s g tWrU a r with ctx := (s.grp g).ctx % 64, data := r.lanes.flatMap (·.data) }
  doneReq (mine.foldl (fun s e => unsend s e.1) (errPut s m)) g a.id r

/-- The end of a FENCE: an acquire part invalidates L1, and the counter falls. -/
def endFence (s : State) (g ord scope : Nat) : State :=
  let s := if ord % 2 = 1 then acquire s g scope else s
  match (s.grp g).fence with
  | some h => s.modGrp g (fun gr => { (gr.kDec h.setk) with fence := none })
  | none => endHold s g

/-- A FENCE polled: at POD or SYS scope with a release part, posted writes behind a link that is down end it with LINK_DOWN;
otherwise it waits for the group's earlier accesses (R175, R288) and, with a release part, for what they left in write-combining buffers;
then it acquires. -/
def pollFence (s : State) (g : Nat) (ord scope : Nat) (trap : Bool) : State :=
  let down := if ord ≥ 2 && scope ≥ 5 then (postedTo s g).filter (fun x => routeDown s (s.pkgOf g) x.2.2) else []
  if !down.isEmpty then
    (if trap then faultWait s g (fi fcLinkDown)
     else
       let s := (down.filter (fun x => !hasRoute s (s.pkgOf g) x.2.2)).foldl (fun s x => loseWrite s g x) s
       endFence (s.modGrp g (fun gr => gr.status fcLinkDown)) g ord scope)
  else if !releaseReady s g then s
  else endFence (if ord ≥ 2 then wcDrainGroup s g else s) g ord scope

/-- The FENCE that stands beside a group's holds, polled. -/
def pollSoft (s : State) (g : Nat) : State :=
  match (s.grp g).fence with
  | some h => (match h.kind with
    | .fence ord scope trap => pollFence s g ord scope trap
    | _ => s)
  | none => s

/-! ## Prefetch (R176) -/

/-- Fill the line into the L2 of a group's die, marked as the hint says: at its home, or by a read request (R160). -/
def prefetchL2 (s : State) (g hint : Nat) (r : Req) : State :=
  let d := s.dieOf g
  let k := atDie d r.line
  let mark := fun (s : State) => if firstHint hint then { s with l2 := mupd s.l2 k (fun l => { l with first := true }) } else s
  match mget? s.l2 k with
  | some l => if l.key = r.key then mark s else s
  | none => if d = homeDie (256 * r.line) then mark (homeFill s r.line r.key) else request s tReqS d r.line r.key (rdhOf s g r) 0

/-- Prefetch a lane's sectors where the lane would not fault: into L2, and into L1 unless `l2only`. -/
def prefetchLane (s : State) (hint : Nat) (size va : Nat) (l2only : Bool) : State :=
  if va % size ≠ 0 then s
  else
    let g := s.cur
    match translate s s.me.ctx (s.coreOf g) .read va with
    | .error _ => s
    | .ok (e, pa) =>
      if e.pol ≠ 0 || linkHeld s (s.dieOf g) (homeDie pa) then s
      else
        let d := curLine s (lineOf pa) e.key
        let r := { newReq (lineOf pa) e.key 0 size 0 0 [⟨0, va, pa, [], false⟩] with stage := .performed, data := d.1, bad := d.2 }
        let s := prefetchL2 s g hint r
        if l2only then s
        else installL1 s g { id := 0, setk := 0, op := .load, space := .generic, size := size, dst := 0, hint := hint, scope := 0, ord := 0,
                             swz := 0, reqs := [r] } r

/-- PRF never faults on its lanes and changes no register: a lane whose address or guard is poisoned prefetches nothing. It completes at
issue + 1 (R169, R176). -/
def execPrf (c : Ctl) (f : FmtM) (s : State) : Out :=
  let g := s.me
  let takes := g.part' f.gd
  let size : Nat := 2 ^ f.sz.toNat
  orFault s (faultIf (!vRange g [(f.addr.toNat, 2)]) fcIllegal) (fun s =>
    if takes.isEmpty then .next (s.idle c)
    else
    let good := takes.filter (fun l => !srcBad g [l] [(f.addr.toNat, 2)] && !g.badP.contains (32 * (f.gd.toNat % 8) + l))
    let s := (laneVas g f.addr.toNat (f.off.toInt * size) good).foldl (fun s x =>
      prefetchLane s f.hint.toNat size x.2 (f.data.toNat % 2 = 1)) s
    .next (s.transfer c []))

/-! ## Cache maintenance (R177) -/

/-- gA.d + OFF8 * unit. -/
def grpVa (g : Group) (addr : BitVec 8) (off : BitVec 8) (unit : Nat) : Nat :=
  wrap 64 ((g.rgd addr.toNat).toNat + off.toInt * unit)

/-- The physical pieces of a virtual range that are mapped: absent pages are skipped; another failed check is a fault. -/
def maintPieces (s : State) (va n : Nat) : List (Nat × Nat) × List FaultInfo :=
  (pagePieces va n).foldl (fun acc p => match translate s s.me.ctx (s.coreOf s.cur) .maint p.1 with
    | .ok (_, pa) => (acc.1 ++ [(pa, p.2.2)], acc.2)
    | .error f => if f.code = fcNotPresent then acc else (acc.1, acc.2 ++ [⟨f.code, f.flags, p.1, 0, 0⟩])) ([], [])

/-- The lines a physical piece overlaps. -/
def linesOf (p : Nat × Nat) : List Nat :=
  if p.2 = 0 then [] else (List.range ((p.1 % 256 + p.2 + 255) / 256)).map (fun i => lineOf p.1 + i)

/-- A line leaves the L1 of a group's core, or the fused L1; a sealed line only when `sealedToo`. -/
def dropL1Line (s : State) (g line : Nat) (sealedToo : Bool) : State :=
  let cs := (fusedCores s g).getD [s.coreOf g]
  cs.foldl (fun s c =>
    let s := s.modCore c (fun co => { co with l1 := mfilter (fun k l => !(k == line && (sealedToo || l.sealedBy.isNone))) co.l1 })
    markFills s c (fun r => r.line == line)) s

/-- A copy's bytes taken from memory anew, its own dirty ones apart. -/
def refresh (d : BitVec 2048 × BitVec 4) (l : Line) : Line :=
  { l with data := lineMerge l.dirty l.data d.1, bad := if l.dirty = 0 then d.2 else l.bad ||| d.2 }

/-- Dirty bytes of every copy of a line go to memory; the copies stay, and hold what memory holds, so that no later read returns less than a
write through an uncached alias (CWB, R177, R297). -/
def cleanLine (s : State) (line : Nat) : State :=
  let dies := match mget? s.dir line with
    | some e => e.dies
    | none => []
  let s := dies.foldl (fun s d => match copyAt s d line with
    | some l =>
      let s := mergeHome s line l.key l.dirty l.data l.bad
      if l.st = .p then s
      else { s with l2 := mupd s.l2 (atDie d line) (fun c => { c with dirty := 0, st := if c.st = .m then .e else c.st }) }
    | none => s) s
  let s := writeBack s line
  (homeDie (256 * line) :: dies).foldl (fun s d => { s with l2 := mupd s.l2 (atDie d line) (fun l => refresh (dramLine s line l.key) l) }) s

/-- Every copy of a line leaves every L2, its dirty data in memory (CINV.all). -/
def purgeLine (s : State) (line : Nat) : State :=
  let s := writeBack (collapseWith true s line) line
  { s with l2 := mdel s.l2 (atDie (homeDie (256 * line)) line) }

def maint (c : Ctl) (f : FmtM) (act : State → Nat → State) (s : State) : Out :=
  let g := s.me
  if pGuardBad g f.gd || (f.data.toNat :: gRegs true f.addr).any g.gBad then fail s fcUncorrectable
  else if (g.part' f.gd).isEmpty then .next (s.idle c)
  else
    let len := (g.rg f.data.toNat).toNat
    let (ps, bad) := maintPieces s (grpVa g f.addr f.off 1) len
    orFault s bad (fun s => .next (((ps.flatMap linesOf).foldl act s).variable c []))

def execCinvL1 (c : Ctl) (f : FmtM) (s : State) : Out := maint c f (fun s l => dropL1Line s s.cur l false) s
def execCinvAll (c : Ctl) (f : FmtM) (s : State) : Out := maint c f (fun s l => purgeLine (dropL1Line s s.cur l false) l) s
def execCwb (c : Ctl) (f : FmtM) (s : State) : Out := maint c f cleanLine s

/-! ## WAITA (R178) -/

/-- The value of the word a WAITA watches, and its poison; or the fault of reading it. -/
def waitaRead (s : State) (g : Nat) (sp : Bool) (addr size : Nat) : Except FaultInfo (Nat × Bool) :=
  let gr := s.grp g
  if sp then
    let l := (s.blk (blockOf g)).loc gr.rank
    if addr % size ≠ 0 then .error ⟨fcMisaligned, 0, addr, 0, 0⟩
    else if !spInside l addr size then .error ⟨fcScratch, 0, addr, 0, 0⟩
    else .ok (ofBytes (spRead l 0 addr size).1, (spRead l 0 addr size).2)
  else if addr % size ≠ 0 then .error ⟨fcMisaligned, 0, addr, 0, 0⟩
  else match translate s gr.ctx (s.coreOf g) .read addr with
    | .error f => .error ⟨f.code, f.flags, addr, 0, 0⟩
    | .ok (e, pa) =>
      let r := physRead s e.pol pa size e.key
      .ok (ofBytes (if s.isDet g then detBytes s g pa r.1 else r.1), r.2)

/-- Read again: a value other than the old one ends the wait with an acquire (SYS for generic memory, CLU for scratchpad). -/
def pollWaita (s : State) (g : Nat) : State :=
  match (s.grp g).hold with
  | some ⟨.waita sp addr size gd old, _, _, _⟩ =>
    (match waitaRead s g sp addr size with
     | .error f => faultWait s g f
     | .ok (v, bad) =>
       if v = old then s
       else
         let wr := (List.range (size / 4)).map (fun j => RegWr.g (gd + j) (BitVec.ofNat 32 (v / 2 ^ (32 * j))) bad)
         endHold (acquire (s.give g wr) g (if sp then 2 else 6)) g)
  | _ => s

def waita (c : Ctl) (f : FmtM) (sp : Bool) (s : State) : Out :=
  let g := s.me
  let size : Nat := 2 ^ f.sz.toNat
  let addr := if sp then wrap 64 ((g.rg f.addr.toNat).toNat + f.off.toInt * size) else grpVa g f.addr f.off size
  let regs := (if sp then [f.addr.toNat] else gRegs true f.addr) ++ gRegs (size == 8) f.data
  match waitaRead s s.cur sp addr size with
  | .error e => orFault s (e :: faultIf (regs.any g.gBad) fcUncorrectable) (fun s => .next s)
  | .ok _ =>
    if regs.any g.gBad then fail s fcUncorrectable
    else
      let old := if size = 8 then (g.rgd f.data.toNat).toNat else (g.rg f.data.toNat).toNat
      let s1 := (s.issueHeld c).holdMe g.pc c.setk.toNat (.waita sp addr size f.data.toNat old)
      .next (pollOwn s1 (fun s => pollWaita s s.cur))

def execWaita (c : Ctl) (f : FmtM) (s : State) : Out := waita c f false s
def execWaitaSp (c : Ctl) (f : FmtM) (s : State) : Out := waita c f true s

/-- The WAITA of a group looks again, in a group that runs (R178, R358). -/
def wakeWaitaOf (s : State) (g : Nat) : State :=
  if (s.grp g).stop ≠ .running then s
  else pollWaita (focusHold s g (fun k => match k with | .waita _ _ _ _ _ => true | _ => false)) g

/-- WAITA_WAKE: the line or word may have changed (R178). -/
def execWaitaWake (g : Nat) (s : State) : Out := .next (wakeWaitaOf s g)

end Sys2Proof.Machine
end

