-- ==== Sys2Proof/Machine/Transc.lean ====
section
/-!
DEFINITION. The special functions, correctly rounded (R127, R128, R213, R221). A function is computed in fixed point with W
fraction bits and a bound on its error; the result stands when both ends of the interval round alike, and W grows
otherwise. Arguments at which the exact value is representable are answered exactly (log 14).
-/
namespace Sys2Proof.Machine

/-! ## Series in fixed point with W fraction bits -/

/-- exp of x / 2^W for 0 ≤ x: Taylor terms from the n-th on. -/
def expGo (W x : Nat) : Nat → Nat → Nat → Nat → Nat
  | 0, _, _, acc => acc
  | k + 1, n, term, acc => if term = 0 then acc else expGo W x k (n + 1) (term * x / 2 ^ W / n) (acc + term)
def expFix (W x : Nat) : Nat := expGo W x (W + 8) 1 (2 ^ W) 0

/-- atanh of a / b: the odd powers over their index. -/
def atanhGo (W z2 : Nat) : Nat → Nat → Nat → Nat → Nat
  | 0, _, _, acc => acc
  | k + 1, n, pw, acc => if pw = 0 then acc else atanhGo W z2 k (n + 2) (pw * z2 / 2 ^ W) (acc + pw / n)
def atanhFix (W a b : Nat) : Nat :=
  let z := a * 2 ^ W / b
  atanhGo W (z * z / 2 ^ W) (W + 8) 1 z 0
def ln2Fix (W : Nat) : Nat := 2 * atanhFix W 1 3

/-- arctangent of 1 / q, alternating. -/
def atanGo (q2 : Nat) : Nat → Nat → Nat → Bool → Int → Int
  | 0, _, _, _, acc => acc
  | k + 1, n, pw, neg, acc => if pw = 0 then acc
      else atanGo q2 k (n + 2) (pw / q2) (!neg) (if neg then acc - (pw / n : Nat) else acc + (pw / n : Nat))
def atanInv (W q : Nat) : Int := atanGo (q * q) (W + 8) 1 (2 ^ W / q) false 0
def piFix (W : Nat) : Nat := (16 * atanInv W 5 - 4 * atanInv W 239).toNat

/-- sine and cosine of x / 2^W: alternating Taylor terms starting at the n-th. -/
def sinGo (W x2 : Nat) : Nat → Nat → Nat → Bool → Int → Int
  | 0, _, _, _, acc => acc
  | k + 1, n, term, neg, acc => if term = 0 then acc
      else sinGo W x2 k (n + 2) (term * x2 / 2 ^ W / ((n + 1) * (n + 2))) (!neg)
        (if neg then acc - (term : Int) else acc + (term : Int))
def sinFix (W x : Nat) : Nat := (sinGo W (x * x / 2 ^ W) (W + 8) 1 x false 0).toNat
def cosFix (W x : Nat) : Nat := (sinGo W (x * x / 2 ^ W) (W + 8) 0 (2 ^ W) false 0).toNat

/-- A positive dyadic in fixed point, cut. -/
def toFix (W m : Nat) (e : Int) : Nat :=
  let sh := e + W
  if 0 ≤ sh then m * 2 ^ sh.toNat else m / 2 ^ (-sh).toNat

/-- exp of x / 2^W for any sign: a mantissa with W fraction bits and a power of two. -/
def expScaled (W : Nat) (x : Int) : Nat × Int :=
  let l : Int := ln2Fix W
  let n := x / l
  (expFix W (x - n * l).toNat, n)

/-- ln of m * 2^e for m > 0, in fixed point. -/
def lnFix (W m : Nat) (e : Int) : Int :=
  let k := Nat.log2 m
  let y := m * 2 ^ W / 2 ^ k
  2 * (atanhFix W (y - 2 ^ W) (y + 2 ^ W) : Int) + (k + e) * (ln2Fix W : Int)

/-! ## Rounding an interval -/

/-- Round a positive approximation known within `err`, if both ends round alike. -/
def tryRound (env : FEnv) (f : Fmt) (neg : Bool) (a err : Nat) (e : Int) : Option (Nat × Stat) :=
  if a ≤ err then none
  else
    let lo := roundTo env f 0 neg (2 * (a - err) + 1) (e - 1)
    let hi := roundTo env f 0 neg (2 * (a + err) + 1) (e - 1)
    if lo = hi then some lo else none

/-- Growing precision: the first that decides, or the rounding of the last approximation. -/
def zivGo (env : FEnv) (f : Fmt) (neg : Bool) (g : Nat → Nat × Nat × Int) : List Nat → Nat × Stat
  | [] => let r := g 2048; roundTo env f 0 neg (2 * r.1 + 1) (r.2.2 - 1)
  | W :: rest => let r := g W
      match tryRound env f neg r.1 r.2.1 r.2.2 with
      | some x => x
      | none => zivGo env f neg g rest
def ziv (env : FEnv) (f : Fmt) (neg : Bool) (extra : Nat) (g : Nat → Nat × Nat × Int) : Nat × Stat :=
  zivGo env f neg g [120 + extra, 240 + extra, 480 + extra, 1024 + extra]

/-- A bound on the error of every series above, in last places. -/
def fixErr (W : Nat) : Nat := 16 * W + 4096

/-! ## The functions of R127 -/

/-- The special functions' RNE environment. -/
def rneOf (env : FEnv) : FEnv := { env with rm := 1 }

def oneBits (f : Fmt) : Nat := f.bias * 2 ^ f.mb

def xRcp (env : FEnv) (f : Fmt) (c x : Nat) : Nat × Stat :=
  let a := unpack f env.daz x
  match a with
  | .nan _ _ _ => nanOut env f [a]
  | .inf s => (zeroOf f s, 0)
  | .num s m e =>
    if m = 0 then (infOf f s, stDZ)
    else let q := quot 1 0 m e (2 * f.mb + 64); roundTo env f c s q.1 q.2

def xSqrt (env : FEnv) (f : Fmt) (c x : Nat) : Nat × Stat :=
  let a := unpack f env.daz x
  match a with
  | .nan _ _ _ => nanOut env f [a]
  | .inf s => if s then invalid env f [a] else (infOf f false, 0)
  | .num s m e =>
    if m = 0 then (zeroOf f s, 0)
    else if s then invalid env f [a]
    else
      let r := rootOf m e (f.mb + 64)
      roundTo env f c false r.1 r.2

def xRsq (env : FEnv) (f : Fmt) (x : Nat) : Nat × Stat :=
  let env := rneOf env
  let a := unpack f env.daz x
  match a with
  | .nan _ _ _ => nanOut env f [a]
  | .inf s => if s then invalid env f [a] else (0, 0)
  | .num s m e =>
    if m = 0 then (infOf f s, stDZ)
    else if s then invalid env f [a]
    else
      -- 1 / sqrt(x) = sqrt(1 / x), with the quotient's sticky bit far below the root's
      let q := quot 1 0 m e (4 * f.mb + 200)
      let r := rootOf q.1 q.2 (f.mb + 70)
      let exactRoot := isqrt m * isqrt m = m && e % 2 = 0 && isqrt m = 2 ^ Nat.log2 (isqrt m)
      let exactOdd := isqrt (2 * m) * isqrt (2 * m) = 2 * m && e % 2 ≠ 0 && isqrt (2 * m) = 2 ^ Nat.log2 (isqrt (2 * m))
      if exactRoot then roundTo env f 0 false 1 (-(Nat.log2 (isqrt m) : Int) - e / 2)
      else if exactOdd then roundTo env f 0 false 1 (-(Nat.log2 (isqrt (2 * m)) : Int) - (e - 1) / 2)
      else roundTo env f 0 false (2 * r.1 + 1) (r.2 - 1)

/-- A finite value's fixed-point form with its sign. -/
def signedFix (W : Nat) (s : Bool) (m : Nat) (e : Int) : Int := if s then -(toFix W m e : Int) else toFix W m e

def xExp2 (env : FEnv) (f : Fmt) (x : Nat) : Nat × Stat :=
  let env := rneOf env
  let a := unpack f env.daz x
  match a with
  | .nan _ _ _ => nanOut env f [a]
  | .inf s => (if s then 0 else infOf f false, 0)
  | .num s m e =>
    if m = 0 then (oneBits f, 0)
    else if (Nat.log2 m : Int) + e ≥ 13 then
      (if s then roundTo env f 0 false 3 (-20000) else overflowRes env f false)
    else if 0 ≤ e || m % 2 ^ (-e).toNat = 0 then
      let n : Int := if 0 ≤ e then (m * 2 ^ e.toNat : Nat) else (m / 2 ^ (-e).toNat : Nat)
      roundTo env f 0 false 1 (if s then -n else n)
    else ziv env f false 0 (fun W =>
      let y := signedFix W s m e * (ln2Fix W : Int) / 2 ^ W
      let r := expScaled W y
      (r.1, fixErr W * 2 ^ 14, r.2 - W))

def xLog2 (env : FEnv) (f : Fmt) (x : Nat) : Nat × Stat :=
  let env := rneOf env
  let a := unpack f env.daz x
  match a with
  | .nan _ _ _ => nanOut env f [a]
  | .inf s => if s then invalid env f [a] else (infOf f false, 0)
  | .num s m e =>
    if m = 0 then (infOf f true, stDZ)
    else if s then invalid env f [a]
    else
      let k := Nat.log2 m
      if m = 2 ^ k then
        let n := (k : Int) + e
        if n = 0 then (0, 0) else roundTo env f 0 (decide (n < 0)) n.natAbs 0
      else
        -- x lies strictly between powers of two, so the sign of log2 x is that of its exponent
        let neg := decide ((k : Int) + e < 0)
        ziv env f neg 0 (fun W =>
          let l := lnFix W m e
          (l.natAbs * 2 ^ W / ln2Fix W, fixErr W * 2 ^ 12, -W))

/-- sin or cos of pi x (half-turns): exact reduction modulo 2, then the first half-quadrant pair. -/
def xTrig (isCos : Bool) (env : FEnv) (f : Fmt) (x : Nat) : Nat × Stat :=
  let env := rneOf env
  let a := unpack f env.daz x
  match a with
  | .nan _ _ _ => nanOut env f [a]
  | .inf _ => invalid env f [a]
  | .num s m e =>
    -- d fraction bits; the argument modulo 2 is t / 2^d
    let d := if 0 ≤ e then 0 else (-e).toNat
    let t := (if 0 ≤ e then m * 2 ^ e.toNat else m) % (2 * 2 ^ d)
    let q := 2 ^ d
    if m = 0 then (if isCos then oneBits f else zeroOf f s, 0)
    else if t % q = 0 then
      -- an integer: sin is zero with the sign of n, cos is 1 or -1
      (if isCos then (oneBits f + if t = 0 then 0 else f.signBit) else zeroOf f s, 0)
    else if 2 * t % q = 0 then
      -- n + 1/2
      (if isCos then 0 else oneBits f + (if (decide (2 * t = q)) != s then 0 else f.signBit), 0)
    else
      -- fold into (0, 1/2)
      let u := t % q
      let fold := if 2 * u < q then u else q - u
      -- cos of an angle above a quarter turn equals minus the cosine of the rest
      let negSin := s != decide (t > q)
      let negCos := (decide (t > q)) != (decide (2 * u > q))
      if isCos then
        ziv env f negCos d (fun W => let p := piFix W * fold / q; (cosFix W p, fixErr W, -W))
      else
        ziv env f negSin d (fun W => let p := piFix W * fold / q; (sinFix W p, fixErr W, -W))

/-- tanh (R127): odd, so the sign of the argument is kept. -/
def xTanh (env : FEnv) (f : Fmt) (x : Nat) : Nat × Stat :=
  let env := rneOf env
  let a := unpack f env.daz x
  match a with
  | .nan _ _ _ => nanOut env f [a]
  | .inf s => (oneBits f + zeroOf f s, 0)
  | .num s m e =>
    if m = 0 then (zeroOf f s, 0)
    else
      let big := (Nat.log2 m : Int) + e ≥ 6
      let extra := if big then 0 else (2 * (-((Nat.log2 m : Int) + e))).toNat
      ziv env f s extra (fun W =>
        let y : Nat := if big then 64 * 2 ^ W else 2 * toFix W m e
        let r := expScaled W y
        -- (E - 1) / (E + 1) with E = r.1 * 2^(r.2 - W)
        let E := r.1 * 2 ^ r.2.toNat
        ((E - 2 ^ W) * 2 ^ W / (E + 2 ^ W), fixErr W, -W))

/-- 1 / (1 + exp(-x)) (R127). -/
def xSig (env : FEnv) (f : Fmt) (x : Nat) : Nat × Stat :=
  let env := rneOf env
  let a := unpack f env.daz x
  match a with
  | .nan _ _ _ => nanOut env f [a]
  | .inf s => (if s then 0 else oneBits f, 0)
  | .num s m e =>
    if m = 0 then (oneBits f - 2 ^ f.mb, 0)
    else
      let big := (Nat.log2 m : Int) + e ≥ 9
      ziv env f false 0 (fun W =>
        let y : Int := if big then (if s then -(512 * 2 ^ W) else 512 * 2 ^ W) else signedFix W s m e
        let r := expScaled W y
        -- E / (1 + E) with E = r.1 * 2^(r.2 - W)
        if 0 ≤ r.2 then
          let E := r.1 * 2 ^ r.2.toNat
          (E * 2 ^ W / (E + 2 ^ W), fixErr W, -W)
        else
          let k := (-r.2).toNat
          (r.1 * 2 ^ (W + k) / (r.1 + 2 ^ (W + k)), fixErr W * 2 ^ 11, -W - k))

/-! ## Natural logarithms (R213, R221) -/

/-- n * ln(a / b), correctly rounded; a, b, n positive; zero when a = b. -/
def mulLn (env : FEnv) (f : Fmt) (n a b : Nat) : Nat × Stat :=
  if a = b then (0, 0)
  else ziv env f (decide (a < b)) 64 (fun W =>
    ((n * (lnFix W a 0 - lnFix W b 0)).natAbs, n * fixErr W * 64, -W))

/-- exp(x) of a finite value, correctly rounded in RNE. -/
def expNat (env : FEnv) (f : Fmt) (s : Bool) (m : Nat) (e : Int) : Nat × Stat :=
  if m = 0 then (oneBits f, 0)
  else if (Nat.log2 m : Int) + e ≥ 13 then (if s then roundTo env f 0 false 3 (-20000) else overflowRes env f false)
  else ziv env f false 0 (fun W =>
    let r := expScaled W (signedFix W s m e)
    (r.1, fixErr W * 2 ^ 14, r.2 - W))

/-- -ln(-ln u) for u = m * 2^e in (0, 1), correctly rounded in RNE (R221). -/
def gumbel (env : FEnv) (f : Fmt) (m : Nat) (e : Int) : Nat × Stat :=
  let sign := decide (lnFix 200 (-(lnFix 200 m e)).toNat (-200) > 0)
  ziv env f sign 64 (fun W =>
    let l := (-(lnFix W m e)).toNat
    ((lnFix W l (-W)).natAbs, fixErr W * 2 ^ 40, -W))

end Sys2Proof.Machine
end

