-- ==== Sys2Proof/Machine/Sketch.lean ====
section
/-!
DEFINITION. The three mergeable summaries as byte-exact objects (R204 to R213): quantile sketches, heavy-hitter lists and
distinct-count registers; reading, writing, absorbing, merging and querying them.
-/
namespace Sys2Proof.Machine

/-! ## Fields of an object -/

def byteAt (o : List Byte) (i : Nat) : Nat := (o.getD i 0).toNat
def natAt (o : List Byte) (i n : Nat) : Nat := ofBytes ((o.drop i).take n)
/-- Bytes `i` to `j - 1` are zero. -/
def zeroBytes (o : List Byte) (i j : Nat) : Bool := ((o.drop i).take (j - i)).all (fun b => b == 0)
def sat64 (x : Nat) : Nat := min x (2 ^ 64 - 1)

/-! ## Coins (R204) -/

/-- What the coins of one operation draw on: W, GSID and GK as they stand at issue. -/
structure Coin where
  w : W32
  gsid : W32
  gk : BitVec 128
  deriving DecidableEq, Repr

/-- The coin of a compaction at level `h`: mode, seed, the ordinal within the operation, the level's index before it. -/
def coinBit (c : Coin) (mode seed k h ci : Nat) : Nat :=
  if mode = 2 then (h + ci) % 2
  else if mode = 1 then
    (genBlock ⟨BitVec.ofNat 32 seed, 0, 0, 0⟩ ⟨BitVec.ofNat 32 ci, BitVec.ofNat 32 h, 0, 2⟩).a.toNat % 2
  else (genBlock (quadOf c.gk) ⟨BitVec.ofNat 32 k, c.w, c.gsid, 4⟩).a.toNat % 2

/-! ## Quantile sketches (R205 to R208) -/

structure Level where
  items : List Nat
  ci : Nat
  deriving DecidableEq, Repr

structure Qs where
  coin : Nat
  lost : Bool
  seed : Nat
  n : Nat
  mn : Nat
  mx : Nat
  eb : Nat
  lv : List Level
  deriving DecidableEq, Repr

/-- cap_h and base_h (R205). -/
def capOf (h : Nat) : Nat := if h < 7 then (128 * 2 ^ h + 3 ^ h - 1) / 3 ^ h else 8
def baseOf : Nat → Nat
  | 0 => 0
  | h + 1 => baseOf h + capOf h

/-- The total order of R122 on f32 bits. -/
def key32 (x : Nat) : Nat := fKey fF32 x
def isNan32 (x : Nat) : Bool := (unpack fF32 false x).isNan

/-- Insertion into an ascending list, behind equal keys. -/
def insKey (x : Nat) : List Nat → List Nat
  | [] => [x]
  | y :: ys => if key32 x < key32 y then x :: y :: ys else y :: insKey x ys
def sortKey (l : List Nat) : List Nat := l.foldl (fun acc x => insKey x acc) []

def qsParse (o : List Byte) : Option Qs :=
  let fills := (List.range 48).map (fun h => byteAt o (64 + h))
  let slot := fun (h i : Nat) => natAt o (304 + 4 * (baseOf h + i)) 4
  if o.length ≠ 4096 || byteAt o 0 ≠ 1 || byteAt o 1 ≠ 1 || byteAt o 2 > 2 || byteAt o 3 > 1 || !zeroBytes o 32 64 ||
      !zeroBytes o 3072 4096 ||
      (List.range 48).any (fun h => fills.getD h 0 > capOf h ||
        !zeroBytes o (304 + 4 * (baseOf h + fills.getD h 0)) (304 + 4 * (baseOf h + capOf h))) then none
  else some
    { coin := byteAt o 2, lost := byteAt o 3 = 1, seed := natAt o 4 4, n := natAt o 8 8, mn := natAt o 16 4, mx := natAt o 20 4,
      eb := natAt o 24 8
      lv := (List.range 48).map (fun h => { items := (List.range (fills.getD h 0)).map (slot h), ci := natAt o (112 + 4 * h) 4 }) }

def padTo (n : Nat) (l : List Nat) : List Nat := l ++ List.replicate (n - l.length) 0

/-- The levels with their numbers, from the lowest. -/
def numbered {A : Type} : Nat → List A → List (Nat × A)
  | _, [] => []
  | n, a :: as => (n, a) :: numbered (n + 1) as

def qsBytes (q : Qs) : List Byte :=
  toBytes 1 1 ++ toBytes 1 1 ++ toBytes 1 q.coin ++ toBytes 1 (if q.lost then 1 else 0) ++ toBytes 4 q.seed ++ toBytes 8 q.n ++
  toBytes 4 q.mn ++ toBytes 4 q.mx ++ toBytes 8 q.eb ++ toBytes 32 0 ++ q.lv.flatMap (fun l => toBytes 1 l.items.length) ++
  q.lv.flatMap (fun l => toBytes 4 l.ci) ++
  (numbered 0 q.lv).flatMap (fun l => (padTo (capOf l.1) l.2.items).flatMap (toBytes 4)) ++ toBytes 1024 0

def qsNew (coin seed : Nat) : Qs :=
  { coin := coin, lost := false, seed := seed, n := 0, mn := 0x7F800000, mx := 0xFF800000, eb := 0, lv := List.replicate 48 ⟨[], 0⟩ }

/-- A rank-error bound as its 8 bytes hold it. -/
def ebHold (e : Nat) : Nat := if e < 2 ^ 64 then e else (Config.ebOver e).toNat

/-- Every second item from `b` on, among the first `m`. -/
def everySecond : Nat → Nat → List Nat → List Nat
  | _, 0, _ => []
  | _, _, [] => []
  | b, m + 1, x :: xs => if b = 0 then x :: everySecond 1 m xs else everySecond 0 m xs

/-- Compact a sorted level: what is carried up, and what stays. -/
def compactSorted (l : List Nat) (b : Nat) : List Nat × List Nat :=
  let m := l.length - l.length % 2
  (everySecond b m l, l.drop m)

/-- Fold from level `h` up (R206): the levels, the growth of EB, the next ordinal, whether a carry was dropped. -/
def foldGo (c : Coin) (q : Qs) : Nat → List (Level × List Nat) → List Nat → Nat → List Level × Nat × Nat × Bool
  | _, [], carry, k => ([], 0, k, !carry.isEmpty)
  | h, (lv, s) :: rest, carry, k =>
    let l := lv.items ++ s ++ carry
    if l.length ≤ capOf h then
      let r := foldGo c q (h + 1) rest [] k
      (⟨l, lv.ci⟩ :: r.1, r.2)
    else
      let x := compactSorted (sortKey l) (coinBit c q.coin q.seed k h lv.ci)
      let r := foldGo c q (h + 1) rest x.1 (k + 1)
      (⟨x.2, (lv.ci + 1) % 2 ^ 32⟩ :: r.1, r.2.1 + 2 ^ h, r.2.2)

/-- Fold lists of items, one for each level, into a sketch. -/
def qsFold (c : Coin) (q : Qs) (k : Nat) (ss : List (List Nat)) : Qs × Nat :=
  let r := foldGo c q 0 (q.lv.zip ss) [] k
  ({ q with lv := r.1, eb := ebHold (q.eb + r.2.1), lost := q.lost || r.2.2.2 }, r.2.2.1)

/-- The lists of Fold with one of them filled. -/
def atLevel (h : Nat) (l : List Nat) : List (List Nat) := (List.range 48).map (fun i => if i = h then l else [])

def minKey (a b : Nat) : Nat := if key32 b < key32 a then b else a
def maxKey (a b : Nat) : Nat := if key32 a < key32 b then b else a

/-- Absorb one f32 value; a NaN changes nothing (R206). -/
def qsAdd (c : Coin) (q : Qs × Nat) (x : Nat) : Qs × Nat :=
  if isNan32 x then q
  else
    let r := qsFold c q.1 q.2 (atLevel 0 [x])
    ({ r.1 with n := sat64 (q.1.n + 1), mn := minKey q.1.mn x, mx := maxKey q.1.mx x }, r.2)

/-- Merge a sketch into another (R207). -/
def qsMerge (c : Coin) (d s : Qs) : Option Qs :=
  if d.coin ≠ s.coin || d.seed ≠ s.seed then none
  else
    let d1 : Qs := { d with
      n := sat64 (d.n + s.n), mn := minKey d.mn s.mn, mx := maxKey d.mx s.mx, eb := ebHold (d.eb + s.eb), lost := d.lost || s.lost
      lv := (d.lv.zip s.lv).map (fun x => ⟨x.1.items, (x.1.ci + x.2.ci) % 2 ^ 32⟩) }
    some (qsFold c d1 0 (s.lv.map (·.items))).1

/-- One forced compaction of SKCMP at level `h` (R217). -/
def forceLevel (c : Coin) (q : Qs × Nat) (h : Nat) : Qs × Nat :=
  match q.1.lv[h]? with
  | none => q
  | some lv =>
    if lv.items.length < 2 then q
    else
      let x := compactSorted (sortKey lv.items) (coinBit c q.1.coin q.1.seed q.2 h lv.ci)
      let q1 : Qs := { q.1 with lv := q.1.lv.set h ⟨x.2, (lv.ci + 1) % 2 ^ 32⟩, eb := ebHold (q.1.eb + 2 ^ h) }
      if h = 47 then ({ q1 with lost := true }, q.2 + 1) else qsFold c q1 (q.2 + 1) (atLevel (h + 1) x.1)

def qsCompact (c : Coin) (q : Qs) (l : Nat) : Qs := ((List.range l).foldl (forceLevel c) (q, 0)).1

/-- The items with their weights. -/
def qsItems (q : Qs) : List (Nat × Nat) := (numbered 0 q.lv).flatMap (fun l => l.2.items.map (fun x => (x, 2 ^ l.1)))

def insItem (x : Nat × Nat) : List (Nat × Nat) → List (Nat × Nat)
  | [] => [x]
  | y :: ys => if key32 x.1 < key32 y.1 then x :: y :: ys else y :: insItem x ys

def firstReach (t : Nat) : Nat → List (Nat × Nat) → Nat
  | _, [] => 0x7FC00000
  | c, x :: xs => if c + x.2 ≥ t then x.1 else firstReach t (c + x.2) xs

/-- A quantile (R218): `q` is a finite f32 in [0, 1]; the target is the ceiling of its exact product with the weight. -/
def qsQuantile (q : Qs) (x : Nat) : Nat :=
  let items := qsItems q
  let w := items.foldl (fun a i => a + i.2) 0
  if w = 0 then 0x7FC00000
  else match unpack fF32 false x with
    | .num _ m e =>
      if m = 0 then q.mn
      else if x = 0x3F800000 then q.mx
      else
        let t := if 0 ≤ e then m * 2 ^ e.toNat * w else (m * w + 2 ^ (-e).toNat - 1) / 2 ^ (-e).toNat
        firstReach t 0 (items.foldl (fun acc i => insItem i acc) [])
    | _ => 0x7FC00000

/-- The estimated rank of a value (R208). -/
def qsRank (q : Qs) (x : Nat) : Nat := (qsItems q).foldl (fun a i => if key32 i.1 < key32 x then a + i.2 else a) 0

/-! ## Heavy-hitter lists (R209 to R211) -/

structure HhEnt where
  key : Nat
  count : Nat
  err : Nat
  deriving DecidableEq, Repr

structure Hh where
  ents : List HhEnt
  nt : Nat
  deriving DecidableEq, Repr

def hhBefore (a b : HhEnt) : Bool := a.count > b.count || (a.count == b.count && a.key < b.key)

def hhSorted : List HhEnt → Bool
  | a :: b :: rest => hhBefore a b && hhSorted (b :: rest)
  | _ => true

def hhParse (o : List Byte) : Option Hh :=
  let f := natAt o 28 4
  let ent := fun (i : Nat) => ({ key := natAt o (16 * i) 4, count := natAt o (16 * i + 4) 4, err := natAt o (16 * i + 8) 4 } : HhEnt)
  let valid := (List.range f).map ent
  if o.length ≠ 1024 || natAt o 12 4 ≠ 0x102 || f > 64 || !hhSorted valid ||
      ((List.range 64).drop f).any (fun i => ent i != ⟨0, 0, 0⟩) || ((List.range 64).drop 4).any (fun i => natAt o (16 * i + 12) 4 != 0) then none
  else some { ents := valid, nt := natAt o 44 4 + 2 ^ 32 * natAt o 60 4 }

def hhBytes (h : Hh) : List Byte :=
  (List.range 64).flatMap (fun i =>
    let e := h.ents.getD i ⟨0, 0, 0⟩
    let pad := if i = 0 then 0x102 else if i = 1 then h.ents.length else if i = 2 then h.nt % 2 ^ 32 else if i = 3 then h.nt / 2 ^ 32 else 0
    toBytes 4 e.key ++ toBytes 4 e.count ++ toBytes 4 e.err ++ toBytes 4 pad)

def hhIns (x : HhEnt) : List HhEnt → List HhEnt
  | [] => [x]
  | y :: ys => if hhBefore x y then x :: y :: ys else y :: hhIns x ys
def hhSort (l : List HhEnt) : List HhEnt := l.foldl (fun acc x => hhIns x acc) []
def sat32 (x : Nat) : Nat := min x (2 ^ 32 - 1)

/-- Absorb a key (R210). -/
def hhAdd (h : Hh) (x : Nat) : Hh :=
  let nt := sat64 (h.nt + 1)
  if h.ents.any (fun e => e.key == x) then
    { ents := hhSort (h.ents.map (fun e => if e.key = x then { e with count := sat32 (e.count + 1) } else e)), nt := nt }
  else if h.ents.length < 64 then { ents := hhSort (h.ents ++ [⟨x, 1, 0⟩]), nt := nt }
  else
    let c := (h.ents.getD 63 ⟨0, 0, 0⟩).count
    { ents := hhSort (h.ents.take 63 ++ [⟨x, sat32 (c + 1), c⟩]), nt := nt }

/-- Merge two lists (R211). -/
def hhMerge (d s : Hh) : Hh :=
  let low := fun (h : Hh) => if h.ents.length = 64 then (h.ents.getD 63 ⟨0, 0, 0⟩).count else 0
  let side := fun (h : Hh) (x : Nat) => match h.ents.find? (fun e => e.key == x) with
    | some e => (e.count, e.err)
    | none => (low h, low h)
  let keys := d.ents.map (·.key) ++ (s.ents.map (·.key)).filter (fun k => !d.ents.any (fun e => e.key == k))
  { ents := (hhSort (keys.map (fun k =>
      let a := side d k
      let b := side s k
      ⟨k, sat32 (a.1 + b.1), sat32 (a.2 + b.2)⟩))).take 64
    nt := sat64 (d.nt + s.nt) }

/-! ## Distinct counts (R212, R213) -/

structure Dc where
  p : Nat
  seed : Nat
  n : Nat
  regs : List Nat
  deriving DecidableEq, Repr

def dcParse (o : List Byte) : Option Dc :=
  let p := byteAt o 2
  if byteAt o 0 ≠ 3 || byteAt o 1 ≠ 1 || p < 10 || p > 14 || o.length ≠ 64 + 2 ^ p || byteAt o 3 ≠ 0 || !zeroBytes o 16 64 ||
      (o.drop 64).any (fun b => b.toNat > 65 - p) then none
  else some { p := p, seed := natAt o 4 4, n := natAt o 8 8, regs := (o.drop 64).map (·.toNat) }

def dcBytes (d : Dc) : List Byte :=
  toBytes 1 3 ++ toBytes 1 1 ++ toBytes 1 d.p ++ toBytes 1 0 ++ toBytes 4 d.seed ++ toBytes 8 d.n ++ toBytes 48 0 ++
  d.regs.map (BitVec.ofNat 8)

/-- Absorb a key (R212). -/
def dcAdd (d : Dc) (x : Nat) : Dc :=
  let y := genBlock ⟨BitVec.ofNat 32 d.seed, 0, 0, 0⟩ ⟨BitVec.ofNat 32 x, 0, 0, 3⟩
  let h := y.a.toNat + 2 ^ 32 * y.b.toNat
  let j := h / 2 ^ (64 - d.p)
  let rho := clz (64 - d.p) (h % 2 ^ (64 - d.p)) + 1
  { d with n := sat64 (d.n + 1), regs := d.regs.modify j (fun r => max r rho) }

def dcMerge (d s : Dc) : Option Dc :=
  if d.p ≠ s.p || d.seed ≠ s.seed then none
  else some { d with n := sat64 (d.n + s.n), regs := (d.regs.zip s.regs).map (fun x => max x.1 x.2) }

/-- V, and the estimate as f64 bits (R213). -/
def dcZeros (d : Dc) : Nat := (d.regs.filter (fun r => r == 0)).length
def dcEstimate (d : Dc) : Nat :=
  let m := 2 ^ d.p
  let v := dcZeros d
  let z := d.regs.foldl (fun a r => a + 2 ^ (64 - r)) 0
  -- alpha m^2 / Z with alpha = 7213 m / (10 (1000 m + 1079)) and Z = z / 2^64
  let q := quot (7213 * m * m * m) 64 (10 * (1000 * m + 1079) * z) 0 256
  let e := (roundTo envRne fF64 0 false q.1 q.2).1
  let small := match unpack fF64 false e with
    | .num _ mm ee => Dy.le ⟨2 * mm, ee⟩ ⟨5 * m, 0⟩
    | _ => false
  if small && v > 0 then (mulLn envRne fF64 m m v).1 else e

/-! ## Objects of any type -/

inductive Sk where
  | qs (q : Qs)
  | hh (h : Hh)
  | dc (d : Dc)
  deriving DecidableEq, Repr

/-- The type code of an object's first 64 bytes: an HH holds its own in the pad of entry 0, the others in bytes 0 and 1, with zeros behind their
fixed fields (log 38). -/
def skType (o : List Byte) : Nat :=
  if byteAt o 0 = 1 && byteAt o 1 = 1 && zeroBytes o 32 64 then 1
  else if byteAt o 0 = 3 && byteAt o 1 = 1 && zeroBytes o 16 64 then 3
  else if natAt o 12 4 = 0x102 then 2
  else if byteAt o 0 = 2 then 0 else byteAt o 0

/-- The size a header gives (R320); 64 where it names no object. -/
def skSize (o : List Byte) : Nat :=
  if skType o = 1 then 4096 else if skType o = 2 then 1024
  else if skType o = 3 && 10 ≤ byteAt o 2 && byteAt o 2 ≤ 14 then 64 + 2 ^ byteAt o 2 else 64

def skParse (t : Nat) (o : List Byte) : Option Sk :=
  if t = 1 then (qsParse o).map .qs else if t = 2 then (hhParse o).map .hh else if t = 3 then (dcParse o).map .dc else none

def skBytes : Sk → List Byte
  | .qs q => qsBytes q
  | .hh h => hhBytes h
  | .dc d => dcBytes d

/-- Merge; none for objects that do not fit (R207, R211, R212, R217). -/
def skMerge (c : Coin) : Sk → Sk → Option Sk
  | .qs d, .qs s => (qsMerge c d s).map .qs
  | .hh d, .hh s => some (.hh (hhMerge d s))
  | .dc d, .dc s => (dcMerge d s).map .dc
  | _, _ => none

end Sys2Proof.Machine
end

