-- ==== Sys2Proof/Machine/Atomic.lean ====
section
/-!
DEFINITION. The atomics, opcodes 0xD0 to 0xD6 (R306 to R320): checks and issue, the ordered-append unit of DET contexts, and the
merge of SKRED. Machine/Access.lean performs the accesses outside DET contexts.
-/
namespace Sys2Proof.Machine

/-! ## Checks (R306, R308, R315) -/

/-- The memory accepts the operation (R306); `only` for OAPP, ODECL and SKRED, `simple` for ATOM.add, CAS and RED.add. -/
def accepts (e : TlbEnt) (pa : Nat) (only simple : Bool) : Bool :=
  if only then e.pol == 0 && isHbm pa else isHbm pa || e.pol == 0 || simple

/-- Lane addresses checked as every atomic checks them. -/
def atomChecked (s : State) (size : Nat) (only simple : Bool) (vas : List (Nat × Nat)) : List LaneVa × List Bad :=
  let (ok, bad) := genericLanes s .write size true vas
  (ok.filter (fun l => accepts l.page l.pa only simple),
   bad ++ (ok.filter (fun l => !accepts l.page l.pa only simple)).map (fun l => (fcProtection, l.va, l.lane, flWrite)))

/-- Bytes of a width. -/
def xSize (f : FmtX) : Nat := if f.wide = 1 then 8 else 4
def xRegs (f : FmtX) : Nat := if f.wide = 1 then 2 else 1

/-- The bytes of `n` registers of a lane. -/
def regBytes (g : Group) (r n l : Nat) : List Byte := (List.range n).flatMap (fun j => toBytes 4 (g.rv (r + j) l).toNat)

/-! ## ATOM, ATOMF, CAS and RED (R308, R310) -/

/-- An atomic: whether it is on scratchpad, floating, its code, whether it returns, the registers of B, and whether UC and WC host
memory accept it. -/
structure AtomKind where
  sp : Bool
  float : Bool
  code : Nat
  ret : Bool
  nb : Nat
  simple : Bool

/-- Begin an atomic on generic memory in a DET context: RED is buffered, the others wait for lower GSIDs (R300, R318). -/
def detAtom (c : Ctl) (f : FmtX) (k : AtomKind) (s : State) (ok : List LaneVa) (data : Nat → List Byte) : State :=
  let size := xSize f
  if !k.ret then
    (ok.foldl (fun s l => detPut s s.cur
      { pa := l.pa, pol := l.page.pol, key := l.page.key, pos := s.me.detCount, quantum := some s.me.quantum, ordered := false, eng := none,
        units := detUnits size, op := .red k.float k.code (data l.lane) }) s).variable c []
  else
    let pc := s.me.pc
    let id := s.nextId
    let s := s.modCore (s.coreOf s.cur) (fun co => { co with units := co.units + ok.length * detUnits size })
    let s := beginAccess c s
      { id := id, setk := c.setk.toNat, op := .atom k.float k.code k.ret, space := .generic, size := size, dst := f.d.toNat, hint := 2,
        scope := f.scope.toNat, ord := 0, swz := 0, reqs := lineReqs false size data ok } (ok.map (·.va))
    s.holdMe pc 0 (.ordered id)

def atomic (c : Ctl) (f : FmtX) (k : AtomKind) (s : State) : Out :=
  let g := s.me
  let size := xSize f
  let n := xRegs f
  let takes := g.part' f.gd
  let addr := f.addr.toNat
  let srcs := [(addr, if k.sp then 1 else 2), (f.b.toNat, k.nb)]
  let named := srcs ++ (if k.ret then [(f.d.toNat, n)] else [])
  let data := fun l => regBytes g f.b.toNat k.nb l
  let pre := faultIf (!vRange g named) fcIllegal ++ faultIf (pGuardBad g f.gd || srcBad g takes srcs) fcUncorrectable
  if k.sp then
    let (ok, bad) := spLanes s addr 0 size false takes
    orFault s (pre ++ faultList (laneFault bad)) (fun s =>
      if takes.isEmpty then .next (s.idle c)
      else .next (beginAccess c s
        { id := s.nextId, setk := c.setk.toNat, op := .atom k.float k.code k.ret, space := .scratch, size := size, dst := f.d.toNat,
          hint := 0, scope := f.scope.toNat, ord := 0, swz := 0, reqs := spReqs false size data ok } []))
  else
    let vas := laneVas g addr 0 takes
    let (ok, bad) := atomChecked s size false k.simple vas
    orFault s (pre ++ faultList (laneFault bad) ++ faultIf (detFull s takes.length size) fcQuantum) (fun s =>
      if takes.isEmpty then .next (s.idle c)
      else if s.isDet s.cur then .next (detAtom c f k s ok data)
      else .next (beginAccess c s
        { id := s.nextId, setk := c.setk.toNat, op := .atom k.float k.code k.ret, space := .generic, size := size, dst := f.d.toNat,
          hint := 2, scope := f.scope.toNat, ord := 0, swz := 0, reqs := lineReqs false size data ok } (vas.map (·.2))))

def execAtom (c : Ctl) (f : FmtX) (s : State) : Out :=
  atomic c f ⟨f.aop.toNat ≥ 8, false, f.aop.toNat % 8, true, xRegs f, f.aop.toNat == 0⟩ s
def execAtomf (c : Ctl) (f : FmtX) (s : State) : Out :=
  atomic c f ⟨f.aop.toNat ≥ 8, true, f.aop.toNat % 8, true, xRegs f, false⟩ s
def execCas (c : Ctl) (f : FmtX) (s : State) : Out := atomic c f ⟨f.aop.toNat ≥ 8, false, 8, true, 2 * xRegs f, true⟩ s
def execCasXchg (c : Ctl) (f : FmtX) (s : State) : Out := atomic c f ⟨f.aop.toNat ≥ 8, false, 9, true, xRegs f, true⟩ s
def execRed (c : Ctl) (f : FmtX) (s : State) : Out :=
  atomic c f ⟨f.d.toNat % 2 == 1, f.aop.toNat ≥ 8, f.aop.toNat % 8, false, xRegs f, f.aop.toNat == 0⟩ s

/-! ## The order of a quantum (R300, R318) -/

/-- The order of groups: GSID, then the group itself. -/
def before (s : State) (h g : Nat) : Bool :=
  decide ((s.grp h).gsid.toNat < (s.grp g).gsid.toNat) || ((s.grp h).gsid == (s.grp g).gsid && decide (h < g))

/-- The groups of a context, those before `g` first to last. -/
def insGrp (s : State) (x : Nat) : List Nat → List Nat
  | [] => [x]
  | y :: ys => if before s x y then x :: y :: ys else y :: insGrp s x ys
def groupsBefore (s : State) (g : Nat) : List Nat :=
  ((mkeys s.groups).filter (fun h => (s.grp h).ctx == (s.grp g).ctx && before s h g)).foldl (fun l x => insGrp s x l) []

/-- A group has ended quantum `q`. -/
def endedQuantum (gr : Group) (q : Nat) : Bool := !gr.live || decide (gr.quantum > q) || (gr.quantum == q && gr.detHold.isSome)

/-- Every live group with a lower GSID has ended the quantum of `g`. -/
def myTurn (s : State) (g : Nat) : Bool := (groupsBefore s g).all (fun h => endedQuantum (s.grp h) (s.grp g).quantum)

/-- One byte as an ordered atomic reads it: the committed value, under the ordered writes of lower groups in this quantum, under
the group's own fixed writes (R318). -/
def ordByte (s : State) (g pa : Nat) (b : Byte) : Byte :=
  let gr := s.grp g
  let c := s.ctxOf g
  let base := match c.undo.find? (fun u => gr.qRound < u.1 && u.2.1 == pa) with
    | some u => u.2.2
    | none => b
  let lay := fun (acc : Byte) (w : DetWr) => match w.op with
    | .write bytes => if w.pa ≤ pa && pa < w.pa + bytes.length then bytes.getD (pa - w.pa) 0 else acc
    | _ => acc
  let low := (groupsBefore s g).foldl (fun acc h =>
    ((s.grp h).detBuf.filter (fun w => w.ordered && w.quantum == some gr.quantum)).foldl lay acc) base
  (gr.detBuf.filter (fun w => w.quantum.isSome)).foldl lay low

/-- Bytes at a physical address as an ordered atomic reads them, and their poison. -/
def ordRead (s : State) (g pol pa n key : Nat) : List Byte × Bool :=
  let r := physRead s pol pa n key
  ((List.range n).map (fun i => ordByte s g (pa + i) (r.1.getD i 0)), r.2)

/-- Buffer the write of an ordered atomic or an OAPP; its units were taken at issue. -/
def ordPut (s : State) (g pol pa key units : Nat) (ordered : Bool) (bytes : List Byte) : State :=
  s.modGrp g (fun gr => { gr with detBuf := gr.detBuf ++
    [{ pa := pa, pol := pol, key := key, pos := gr.detCount, quantum := some gr.quantum, ordered := ordered, eng := none, units := units,
       op := .write bytes }] })

/-- The end of a held DET access: its registers, its hold, its counter. -/
def endOrdered (s : State) (g : Nat) (a : Access) (olds : List (Nat × List Byte × Bool)) : State :=
  let s := endHold (s.give g (atomRegs a olds)) g
  s.modGrp g (fun gr => { (gr.kDec a.setk) with acc := gr.acc.filter (fun b => b.id != a.id) })

/-- One lane of an ordered atomic. -/
def ordLane (g size : Nat) (float : Bool) (code : Nat) (acc : State × List (Nat × List Byte × Bool)) (x : LaneAcc × Nat × Nat) :
    State × List (Nat × List Byte × Bool) :=
  let s := acc.1
  let r := ordRead s g x.2.1 x.1.pa size x.2.2
  let new := if r.2 then none else atomNew float code size (ofBytes r.1) x.1.data
  let s := match new with
    | some n => ordPut s g x.2.1 x.1.pa x.2.2 (detUnits size) true (toBytes size n)
    | none => freeUnits s g (detUnits size)
  (s, acc.2 ++ [(x.1.lane, r.1, r.2)])

/-- An ordered atomic polled: performed when its turn has come. -/
def pollOrdered (s : State) (g id : Nat) : State :=
  if !myTurn s g then s
  else match (s.grp g).acc.find? (fun a => a.id == id) with
    | none => s
    | some a => match a.op with
      | .atom float code _ =>
        let x := (accLanes a).foldl (ordLane g a.size float code) (s, [])
        endOrdered x.1 g a x.2
      | _ => s

/-! ## Ordered append (R316, R317, R319) -/

/-- The address that names the one stream when no lane takes part. -/
def ghostLane (g : Group) : List Nat := (lanesOf g.run).take 1

/-- The turn of a block on the streams of its context: its kernel and its linear index. -/
def turnOf (s : State) (b : Nat) : Nat × Nat := ((s.blk b).kernel, (s.blk b).lin)

/-- The counter addresses that a waiting OAPP of a group names. -/
def oappNames (a : Access) : List Nat := distinct (a.reqs.flatMap (fun r => r.lanes.map (·.pa)))

/-- A group of the block waits for its turn on the stream. -/
def claiming (s : State) (b pa : Nat) : Bool :=
  (s.groupsOf b).any (fun g => (s.grp g).holds.any (fun h => match h.kind with
    | .oapp id => (s.grp g).acc.any (fun a => a.id == id && (oappNames a).contains pa)
    | _ => false))

/-- The streams that a package holds. -/
def streamsOfPkg (s : State) (pkg : Nat) : Nat :=
  (s.ctxs.filter (fun e => e.2.pkg == pkg)).foldl (fun n e => n + e.2.streams.length) 0

/-- ORDERED_APPEND: a second turn, another width, or a stream too many (R319). -/
def oappMisuse (s : State) (pas : List Nat) (wide : Bool) : Bool :=
  let c := s.ctxOf s.cur
  let b := blockOf s.cur
  pas.any (fun pa => claiming s b pa || (match mget? c.streams pa with
    | some st => st.wide != wide || st.turns.contains (turnOf s b)
    | none => false)) ||
  decide (streamsOfPkg s c.pkg + (pas.filter (fun pa => (mget? c.streams pa).isNone)).length > 256)

/-- Open the streams that are not open yet. -/
def openStreams (s : State) (pas : List Nat) (wide : Bool) : State :=
  s.modCtx (s.grp s.cur).ctx (fun c => { c with streams := pas.foldl (fun m pa =>
    if (mget? m pa).isSome then m else mput m pa { wide := wide }) c.streams })

/-- A block takes its turn on a stream. -/
def takeTurn (s : State) (cx b pa : Nat) : State :=
  s.modCtx cx (fun c => { c with streams := mupd c.streams pa (fun st => { st with turns := turnOf s b :: st.turns }) })

/-- Every block of lower index has taken its turn on the stream, or has ended (R317). -/
def lowerDone (s : State) (b pa : Nat) : Bool :=
  let t := turnOf s b
  let turns := (mget (s.ctx (s.blk b).ctx).streams {} pa).turns
  (List.range t.2).all (fun i => turns.contains (t.1, i) ||
    s.blocks.any (fun e => e.2.kernel == t.1 && e.2.lin == i && (e.2.stage == .ended || e.2.term.isSome)))

/-- One address of a granted OAPP: the lanes that name it get the running value and what the lanes below them add (R316). The lane that only
names the stream adds nothing and gets nothing, but its claim fixes the running value and is written as any other (R317, R319). -/
def oappOne (g size : Nat) (ls : List (LaneAcc × Nat × Nat)) (acc : State × List (Nat × List Byte × Bool)) (pa : Nat) :
    State × List (Nat × List Byte × Bool) :=
  let s := acc.1
  let cx := (s.grp g).ctx
  let mine := ls.filter (fun x => x.1.pa == pa)
  let ghost := mine.all (fun x => x.1.bad)
  match mget? (s.ctx cx).streams pa, mine with
  | some st, x :: _ =>
    let undone := fun (b : List Byte) => (List.range size).map (fun i =>
      match (s.ctx cx).undo.find? (fun u => (s.grp g).qRound < u.1 && u.2.1 == pa + i) with
      | some u => u.2.2
      | none => b.getD i 0)
    let r := physRead s x.2.1 pa size x.2.2
    let start := st.running.getD (ofBytes (undone r.1))
    let sums := mine.foldl (fun (a : Nat × List (Nat × List Byte × Bool)) y =>
      ((a.1 + ofBytes y.1.data) % 2 ^ (8 * size), a.2 ++ [(y.1.lane, toBytes size a.1, r.2 && st.running.isNone)])) (start, [])
    let units := if ghost then 0 else mine.length * detUnits size
    let sums := if ghost then (start, []) else sums
    if r.2 && st.running.isNone then (freeUnits s g units, acc.2 ++ sums.2)
    else
      let s := s.modCtx cx (fun c => { c with streams := mupd c.streams pa (fun st => { st with running := some sums.1 }) })
      (ordPut s g x.2.1 pa x.2.2 units false (toBytes size sums.1), acc.2 ++ sums.2)
  | _, _ => acc

/-- OAPP polled: granted when every lower block has had its turn on every stream it names (R317). -/
def pollOapp (s : State) (g id : Nat) : State :=
  match (s.grp g).acc.find? (fun a => a.id == id) with
  | none => s
  | some a =>
    let pas := oappNames a
    if !pas.all (lowerDone s (blockOf g)) then s
    else
      let x := pas.foldl (oappOne g a.size (accLanes a)) (s, [])
      let s := pas.foldl (fun s pa => takeTurn s (s.grp g).ctx (blockOf g) pa) x.1
      endOrdered s g a x.2

/-- OAPP_GRANT: the ordered-append unit looks at a waiting OAPP (R317). -/
def execOappGrant (g : Nat) (s : State) : Out :=
  let s := focusHold s g (fun k => match k with | .oapp _ => true | _ => false)
  match (s.grp g).hold with
  | some h => match h.kind with
    | .oapp id => .next (pollOapp s g id)
    | _ => .next s
  | none => .next s

/-- OAPP. With no lane taking part in a DET context, the lowest running lane names the stream and adds nothing (R319); such a lane
is marked `bad` in the access. -/
def execOapp (c : Ctl) (f : FmtX) (s : State) : Out :=
  let g := s.me
  let size := xSize f
  let n := xRegs f
  let takes := g.part' f.gd
  let det := s.isDet s.cur
  let ghost := takes.isEmpty && det
  let named := if ghost then ghostLane g else takes
  let srcs := [(f.addr.toNat, 2), (f.b.toNat, n)]
  let vas := laneVas g f.addr.toNat 0 named
  let (ok, bad) := atomChecked s size true false vas
  let pas := distinct (ok.map (·.pa))
  orFault s (faultIf (!vRange g ((f.d.toNat, n) :: srcs)) fcIllegal ++ faultList (laneFault bad) ++
      faultIf (pGuardBad g f.gd || srcBad g takes srcs || srcBad g named [(f.addr.toNat, 2)]) fcUncorrectable ++
      faultIf (det && oappMisuse s pas (f.wide == 1)) fcOrderedAppend ++ faultIf (detFull s takes.length size) fcQuantum) (fun s =>
    if named.isEmpty then .next (s.idle c)
    else
      let data := fun l => if ghost then List.replicate size 0 else regBytes g f.b.toNat n l
      let reqs := lineReqs false size data ok
      let reqs := if ghost then reqs.map (fun r => { r with lanes := r.lanes.map (fun l => { l with bad := true }) }) else reqs
      let id := s.nextId
      let s := if det then (openStreams s pas (f.wide == 1)).modCore (s.coreOf s.cur) (fun co =>
        { co with units := co.units + takes.length * detUnits size }) else s
      let s := beginAccess c s
        { id := id, setk := c.setk.toNat, op := .atom false 0 true, space := .generic, size := size, dst := f.d.toNat, hint := 2,
          scope := f.scope.toNat, ord := 0, swz := 0, reqs := reqs } (vas.map (·.2))
      if det then .next (pollOwn (s.holdMe g.pc 0 (.oapp id)) (fun s => pollOapp s s.cur id)) else .next s)

/-- ODECL records the block's turns and does not wait; outside a DET context it has no effect beyond its checks (R316, R317). -/
def execOdecl (c : Ctl) (f : FmtX) (s : State) : Out :=
  let g := s.me
  let takes := g.part' f.gd
  let det := s.isDet s.cur
  let named := if takes.isEmpty && det then ghostLane g else takes
  let (ok, bad) := atomChecked s (xSize f) true false (laneVas g f.addr.toNat 0 named)
  let pas := distinct (ok.map (·.pa))
  orFault s (faultIf (!vRange g [(f.addr.toNat, 2)]) fcIllegal ++ faultList (laneFault bad) ++
      faultIf (pGuardBad g f.gd || srcBad g named [(f.addr.toNat, 2)]) fcUncorrectable ++
      faultIf (det && oappMisuse s pas (f.wide == 1)) fcOrderedAppend) (fun s =>
    if det then
      .next ((pas.foldl (fun s pa => takeTurn s g.ctx (blockOf s.cur) pa) (openStreams s pas (f.wide == 1))).transfer c [])
    else .next (s.transfer c []))

/-! ## SKRED (R320) -/

/-- Read bytes of a group's own view, faults as a lane access raises them. -/
def groupRead (s : State) (va n : Nat) : Except FaultInfo (List Byte) :=
  (pagePieces va n).foldl (fun acc p => match acc with
    | .error e => .error e
    | .ok bs => match translate s s.me.ctx (s.coreOf s.cur) .read p.1 with
      | .error f => .error ⟨f.code, f.flags, p.1, 0, 0⟩
      | .ok (e, pa) =>
        let r := physRead s e.pol pa p.2.2 e.key
        if r.2 then .error ⟨fcUncorrectable, 0, p.1, 0, 0⟩
        else .ok (bs ++ (if s.isDet s.cur then detBytes s s.cur pa r.1 else r.1))) (.ok [])

/-- Read a source object whole: from scratchpad or generic memory. -/
def skSource (s : State) (sp : Bool) (a n : Nat) : Except FaultInfo (List Byte) :=
  if sp then
    let l := myLoc' s
    if !spInside l a n then .error ⟨fcScratch, 0, a, 0, 0⟩
    else
      let r := spRead l 0 a n
      if r.2 then .error ⟨fcUncorrectable, 0, a, 0, 0⟩ else .ok r.1
  else groupRead s a n
where myLoc' (s : State) : Local := (s.blk (blockOf s.cur)).loc s.me.rank

/-- The destination of an SKRED: every page is COH HBM that may be written. -/
def skDest (s : State) (va n : Nat) : List FaultInfo :=
  if va % 64 ≠ 0 then [⟨fcMisaligned, 0, va, 0, 0⟩]
  else (pagePieces va n).filterMap (fun p => match translate s s.me.ctx (s.coreOf s.cur) .write p.1 with
    | .error f => some ⟨f.code, f.flags, p.1, 0, 0⟩
    | .ok (e, pa) => if e.pol == 0 && isHbm pa then none else some ⟨fcProtection, flWrite, p.1, 0, 0⟩)

/-- Merge a source into the object at physical pieces; a poisoned destination is UNCORRECTABLE, one that is unfit SKETCH_LAYOUT (R28, R320). -/
def skMergeAt (s : State) (pieces : List (Nat × Nat × Nat)) (src : List Byte) (coin : Coin) : Except Nat State :=
  let old := pieces.flatMap (fun p => (physRead s 0 p.1 p.2.1 p.2.2).1)
  let bad := pieces.any (fun p => (physRead s 0 p.1 p.2.1 p.2.2).2)
  if bad then .error fcUncorrectable
  else match skParse (skType src) old, skParse (skType src) src with
    | some d, some x => match skMerge coin d x with
      | some m => .ok (pieces.foldl (fun (acc : State × List Byte) p =>
          (physWrite acc.1 0 p.1 p.2.2 (acc.2.take p.2.1), acc.2.drop p.2.1)) (s, skBytes m)).1
      | none => .error fcSketch
    | _, _ => .error fcSketch

/-- The physical pieces of a virtual range of a group: address, length, key. -/
def physPieces (s : State) (g va n : Nat) : List (Nat × Nat × Nat) :=
  (pagePieces va n).filterMap (fun p => match translate s (s.grp g).ctx (s.coreOf g) .write p.1 with
    | .ok (e, pa) => some (pa, p.2.2, e.key)
    | .error _ => none)

/-- SKRED polled: the merge is performed at the home slice, in one step; a destination that cannot take it is a precise fault. -/
def pollSkred (s : State) (g va : Nat) (src : List Byte) (coin : Coin) : State :=
  match skMergeAt s (physPieces s g va src.length) src coin with
  | .error code => faultWait s g ⟨code, 0, va, 0, 0⟩
  | .ok s =>
    let s := (linePieces va src.length).foldl (fun s p => match translate s (s.grp g).ctx (s.coreOf g) .write p.1 with
      | .ok (_, pa) => dropSectors s (s.coreOf g) p.1 (lineOf pa) (sectorMask (pa % 256) p.2.2) true
      | .error _ => s) s
    endHold s g

/-- SKRED: the merge waits until the earlier accesses let it; in a DET context it is buffered and done at the commit. Its draw is due
whatever the two objects turn out to be (R204, R320, log 92). -/
def execSkred (c : Ctl) (f : FmtX) (s : State) : Out :=
  let g := s.me
  let sp := f.aop.toNat % 2 == 1
  let takes := g.part' f.gd
  let named := [(f.addr.toNat, 2), (f.b.toNat, if sp then 1 else 2)]
  orFault s (faultIf (!vRange g named) fcIllegal ++
      faultIf (pGuardBad g f.gd || srcBad g (takes.take 1) named) fcUncorrectable) (fun s =>
    match takes with
    | [] => .next (s.idle c)
    | l :: _ =>
      let va := (g.rvd f.addr.toNat l).toNat
      let sa := if sp then (g.rv f.b.toNat l).toNat else (g.rvd f.b.toNat l).toNat
      let head := skSource s sp sa 64
      let size := match head with
        | .ok h => skSize h
        | .error _ => 64
      let whole := skSource s sp sa size
      let srcFaults := match whole with
        | .error e => [e]
        | .ok o => match skParse (skType o) o with
          | none => [⟨fcSketch, 0, sa, 0, 0⟩]
          | some (.qs q) => if s.isDet s.cur && q.coin == 0 then [⟨fcSketch, 0, sa, 0, 0⟩] else []
          | some _ => []
      -- faults of translation come before the instruction acts; then it draws W, whatever the objects turn out to be (R204)
      let late := fun (f : FaultInfo) => decide (fcUncorrectable ≤ f.code)
      let units := detUnits size
      orFault s (skDest s va size ++ srcFaults.filter (fun f => !late f)) (fun s =>
        let w := (s.draws 1).headD 0
        let gs := g.genSettle s.clock
        orFault (s.drawn 1) (srcFaults.filter late ++
          faultIf (s.isDet s.cur && decide ((s.core (s.coreOf s.cur)).units + units > detCap)) fcQuantum) (fun s =>
        let src := match whole with
          | .ok o => o
          | .error _ => []
        if s.isDet s.cur then
          let ps := physPieces s s.cur va size
          let s := detPut s s.cur { pa := (ps.headD (0, 0, 0)).1, pol := 0, key := (ps.headD (0, 0, 0)).2.2, pos := g.detCount, quantum := some g.quantum,
                                    ordered := false, eng := none, units := units, op := .skred va ps src }
          .next (s.variable c [])
        else .next ((s.issueHeld c).holdMe g.pc c.setk.toNat (.skred va src w gs.gsid gs.gk)))))

end Sys2Proof.Machine
end

