-- ==== Sys2Proof/Machine/Copy.lean ====
section
/-!
DEFINITION. CPY, opcode 0xBA, and the copy engine's work on it (R179 to R182).
-/
namespace Sys2Proof.Machine

/-! ## The frame (R179, R180) -/

/-- The fields of a copy. -/
structure CopyFrame where
  src : Nat
  dst : Nat
  len : Nat
  rows : Nat
  sstr : Nat
  dstr : Nat
  tb : Nat
  cw : Nat
  cv : Nat
  ssp : Bool
  dsp : Bool
  swz : Nat
  hint : Nat

def copyFrame (f : List W32) : CopyFrame :=
  let dir := fr f 11 % 4
  let ssp := dir == 1 || dir == 2
  let dsp := dir == 0 || dir == 2
  { src := if ssp then fr f 0 else frd f 0, dst := if dsp then fr f 2 else frd f 2, len := fr f 4, rows := fr f 5 % 65536,
    sstr := fr f 6, dstr := fr f 7, tb := fr f 8, cw := fr f 9, cv := fr f 10, ssp := ssp, dsp := dsp, swz := fr f 11 / 4 % 8, hint := fr f 11 / 32 % 4 }

/-- A frame that fails at issue (R180). -/
def copyFrameBad (l : Local) (f : List W32) : Bool :=
  let x := copyFrame f
  !zeroFrom f 12 || fr f 11 ≥ 128 || fr f 5 ≥ 65536 || (x.ssp && fr f 1 != 0) || (x.dsp && fr f 3 != 0) ||
  x.len % 16 != 0 || x.sstr % 16 != 0 || x.dstr % 16 != 0 || x.src % 16 != 0 || x.dst % 16 != 0 || tbFieldBad l x.tb ||
  (x.cw != noTb && !(x.cw % 4 == 0 && x.cw + 4 ≤ l.sb)) || x.len * x.rows > 0x7FFFF0

def execCpy (c : Ctl) (f : FmtA) (s : State) : Out :=
  engInstr c f s (fun s fm =>
    if copyFrameBad (myLoc s) fm then rejectOp c f 0 (fr fm 8) fcCopy fcCopy s
    else acceptOp c (newOp s c f 0xBA 0 fm) s)

/-! ## The copy engine (R181, R182) -/

/-- Pieces of at most 256 bytes in a row, and their number in a copy. -/
def rowPieces (len : Nat) : Nat := (len + 255) / 256
def copyPieces (x : CopyFrame) : Nat := rowPieces x.len * x.rows

/-- The end of a copy: CV to CW, as a store that comes after every payload byte. -/
def copyEnd (s : State) (core : Nat) (o : EngOp) : State :=
  let x := copyFrame o.frame
  let s := if x.cw = noTb then s else spStore s o.block o.rank 0 x.cw (toBytes 4 x.cv)
  endOp s core o 0

/-- Commit-buffer units of `n` destination bytes in a row: each piece of 256 bytes is one write (R303). -/
def bytesUnits (n : Nat) : Nat := (n / 256) * detUnits 256 + (if n % 256 = 0 then 0 else detUnits (n % 256))

/-- Commit-buffer units of a copy's generic writes. -/
def copyUnits (x : CopyFrame) : Nat := if x.dsp then 0 else x.rows * bytesUnits x.len

/-- A queued copy starts. -/
def copyStart (s : State) (core : Nat) (o : EngOp) : State :=
  let x := copyFrame o.frame
  match takeUnits s core o (copyUnits x) with
  | none => failOp s core o x.tb fcQuantum
  | some s =>
    let s := modOp s core o.id (fun o => { o with started := true })
    if copyPieces x = 0 then copyEnd s core o else s

/-- What piece `n` reads and writes: source, destination, bytes. -/
def copyPiece (x : CopyFrame) (n : Nat) : Nat × Nat × Nat :=
  let row := n / rowPieces x.len
  let off := 256 * (n % rowPieces x.len)
  (x.src + row * x.sstr + off, x.dst + row * x.dstr + off, min 256 (x.len - off))

/-- The lines of a generic side of a copy, marked at their homes as its HINT says (R160, R179). -/
def copyHint (s : State) (core : Nat) (o : EngOp) (hint va n : Nat) : State :=
  if !firstHint hint then s
  else (pagePieces va n).foldl (fun s p => match translate s o.ctx core .read p.1 with
    | .error _ => s
    | .ok (e, pa) =>
      if e.pol ≠ 0 then s
      else (linePieces pa p.2.2).foldl (fun s q =>
        let s := homeFill s (lineOf q.1) e.key
        { s with l2 := mupd s.l2 (atDie (homeDie q.1) (lineOf q.1)) (fun l => { l with first := true }) }) s) s

/-- Move one piece: the new state, or the code of its failure. -/
def copyMove (s : State) (core : Nat) (o : EngOp) (n : Nat) : Except Nat State :=
  let x := copyFrame o.frame
  let p := copyPiece x n
  match opRead s o core fcCopy x.ssp x.swz p.1 p.2.2 with
  | .error e => .error e
  | .ok bs => (opWrite s o core fcCopy x.dsp x.swz p.2.1 bs).map (fun s =>
    let fill := fillRange (fun s va => tlbFill s o.ctx core va)
    let s := if x.dsp then s else fill (if x.ssp then s else fill s p.1 p.2.2) p.2.1 p.2.2
    let s := if x.ssp then s else copyHint s core o x.hint p.1 p.2.2
    if x.dsp || opDet s o then s else copyHint s core o x.hint p.2.1 p.2.2)

/-- One piece is written and counted; the last one ends the copy, and a fault stops it. In a DET context the pieces go in their order, so that rows
that overlap end the same way in every run (R304). -/
def copyPieceWrite (s : State) (core : Nat) (o : EngOp) (n : Nat) : State :=
  let x := copyFrame o.frame
  if n ≥ copyPieces x || o.pieces.contains n || (opDet s o && n != o.pieces.length) then s
  else match copyMove s core o n with
    | .error code => failOp s core o x.tb code
    | .ok s =>
      let s := opArrive s o x.tb (copyPiece x n).2.2
      let s := modOp s core o.id (fun o => { o with pieces := n :: o.pieces })
      if o.pieces.length + 1 = copyPieces x then copyEnd s core o else s

/-- A copy stops on the fault of some piece that is still to be moved. -/
def copyFaultStop (s : State) (core : Nat) (o : EngOp) : State :=
  let x := copyFrame o.frame
  match (List.range (copyPieces x)).findSome? (fun n => if o.pieces.contains n then none else
      match copyMove s core o n with
      | .error code => some code
      | .ok _ => none) with
  | some code => failOp s core o x.tb code
  | none => s

end Sys2Proof.Machine
end

