-- ==== Sys2Proof/Machine/Fabric.lean ====
section
/-!
DEFINITION. WRSIG, MCST and CPYR, opcodes 0xF0 to 0xF2 (R392 to R395): their frames, the work of the copy engine on them, the PUT,
MCD, PUTA and SIG messages, reservations (R385), and switch reductions up to their result messages (R389 to R391).
-/
namespace Sys2Proof.Machine

/-! ## The frames -/

/-- What a fabric operation moves. `dests` pairs each destination with its counter address, 0 for none; `add` is the atomic code of
an adding CPYR; `flag` is WRSIG's address, value and whether it adds. -/
structure FabFrame where
  src : Nat
  ssp : Bool
  len : Nat
  tb : Nat
  dests : List (Nat × Nat)
  add : Option Nat
  flag : Option (Nat × Nat × Bool)

/-- An address in a frame pair that a space bit turns into a scratchpad offset. -/
def pairAddr (f : List W32) (i : Nat) (sp : Bool) : Nat := if sp then fr f i else frd f i
def pairBad (f : List W32) (i : Nat) (sp : Bool) : Bool := pairAddr f i sp % 16 != 0 || (sp && fr f (i + 1) != 0)

/-- WRSIG's frame (R393). -/
def wrsigFrame (f : List W32) : FabFrame :=
  { src := pairAddr f 0 (fr f 5 % 2 == 1), ssp := fr f 5 % 2 == 1, len := fr f 4, tb := fr f 10, dests := [(frd f 2, 0)], add := none,
    flag := some (frd f 6, frd f 8, bitN (fr f 5) 1) }
def wrsigBad (l : Local) (f : List W32) : Bool :=
  !zeroFrom f 11 || fr f 5 ≥ 4 || pairBad f 0 (fr f 5 % 2 == 1) || pairBad f 2 false || fr f 4 % 16 != 0 || fr f 4 > 65536 ||
  frd f 6 % 8 != 0 || tbFieldBad l (fr f 10)

/-- MCST's frame (R394); the destination list was read at issue. -/
def mcstFrame (f : List W32) (dests : List (Nat × Nat)) : FabFrame :=
  { src := pairAddr f 0 (fr f 5 % 2 == 1), ssp := fr f 5 % 2 == 1, len := fr f 4, tb := fr f 6, dests := dests, add := none, flag := none }
def mcstBad (l : Local) (f : List W32) : Bool :=
  !zeroFrom f 7 || fr f 5 ≥ 2 || pairBad f 0 (fr f 5 % 2 == 1) || fr f 2 % 16 != 0 || fr f 3 = 0 || fr f 3 > 64 || fr f 4 % 16 != 0 ||
  fr f 4 < 16 || fr f 4 > 2 ^ 24 || tbFieldBad l (fr f 6) || !spInside l (fr f 2) (16 * fr f 3)
/-- The destination list and its poison. -/
def readDlist (l : Local) (f : List W32) : List (Nat × Nat) × Bool :=
  let r := spRead l 0 (fr f 2) (16 * fr f 3)
  ((List.range (fr f 3)).map (fun i => (ofBytes ((r.1.drop (16 * i)).take 8), ofBytes ((r.1.drop (16 * i + 8)).take 8))), r.2)

/-- CPYR's frame (R395). -/
def cpyrMode (f : List W32) : Nat := fr f 5 % 4
def cpyrDsp (f : List W32) : Bool := bitN (fr f 5) 3
def cpyrDt (f : List W32) : Nat := bitsN (fr f 5) 8 2
def cpyrFrame (f : List W32) : FabFrame :=
  { src := pairAddr f 0 (bitN (fr f 5) 2), ssp := bitN (fr f 5) 2, len := fr f 4, tb := fr f 6, dests := [(frd f 2, frd f 7)],
    add := if bitsN (fr f 5) 4 2 = 1 then some (if cpyrDt f = 1 then 0 else 2) else none, flag := none }
def cpyrBad (l : Local) (f : List W32) : Bool :=
  let c := fr f 5
  let op := bitsN c 4 2
  let dt := cpyrDt f
  !zeroFrom f 10 || c ≥ 2 ^ 10 || bitsN c 6 2 != 0 || cpyrMode f ≥ 2 || op ≥ 2 || (op = 1 && !(dt = 1 || dt = 2)) ||
  pairBad f 0 (bitN c 2) || pairBad f 2 (cpyrDsp f) || fr f 4 % 16 != 0 || fr f 4 < 16 || fr f 4 > 2 ^ 24 || tbFieldBad l (fr f 6) ||
  (if cpyrMode f = 0 then cpyrDsp f || frd f 7 % 8 != 0 || fr f 9 != 0 else op != 1 || frd f 7 % 64 != 0)

/-! ## The record of a reduction set (R390) -/

/-- Participants, type, set id, bytes, and the dies by rank. -/
structure RedRec where
  p : Nat
  dt : Nat
  setid : Nat
  len : Nat
  dies : List Nat

/-- The record's two parts read; a code when that fails. It lies in COH HBM. -/
def redRecRead (s : State) (o : EngOp) (core va : Nat) : Except Nat (List Byte) :=
  let coh := fun (a : Nat) => match translate s o.ctx core .read a with
    | .ok (e, pa) => e.pol == 0 && isHbm pa
    | .error _ => false
  match engRead s o core fcCopy va 64 with
  | .error e => .error e
  | .ok h =>
    let n := 2 * ofBytes (h.take 2)
    match engRead s o core fcCopy (va + 64) n with
    | .error e => .error e
    | .ok d => if coh va && (pagePieces (va + 64) n).all (fun p => coh p.1) then .ok (h ++ d) else .error fcCopy

/-- The record parsed; none when it is malformed. Bits [15:8] of DIE[r] are ignored as a reserved field is (R3, log 36). -/
def redRecOf (b : List Byte) : Option RedRec :=
  let n := fun (a k : Nat) => ofBytes ((b.drop a).take k)
  let p := n 0 2
  let dies := (List.range p).map (fun r => n (64 + 2 * r) 1)
  if 2 ≤ p && p ≤ 256 && (n 2 1 = 1 || n 2 1 = 2) && n 3 1 = 1 && n 4 4 ≠ 0 && n 8 4 % 16 = 0 && 16 ≤ n 8 4 && n 8 4 ≤ 2 ^ 24 &&
      (distinct dies).length = p
  then some ⟨p, n 2 1, n 4 4, n 8 4, dies⟩ else none

/-- The record as an operation keeps it, and back. -/
def redPack (r : RedRec) : List (Nat × Nat) := (r.p, r.dt) :: (r.setid, r.len) :: r.dies.map (fun d => (d, 0))
def redOf (o : EngOp) : RedRec :=
  match o.extra with
  | a :: b :: ds => ⟨a.1, a.2, b.1, b.2, ds.map (·.1)⟩
  | _ => ⟨0, 0, 0, 0, []⟩

/-- An operation that is a switch all-reduce. -/
def isSwitchRed (o : EngOp) : Bool := o.opc = 0xF2 && cpyrMode o.frame = 1

/-! ## Issue (R392) -/

def execWrsig (c : Ctl) (f : FmtA) (s : State) : Out :=
  engInstr c f s (fun s fm =>
    -- its flag is a release of the issuing thread, whose write-combining buffers drain first (R289, R294, R295)
    if wrsigBad (myLoc s) fm then rejectOp c f 0 (fr fm 10) fcCopy fcCopy s
    else acceptOp c (newOp s c f 0xF0 0 fm) (wcDrainGroup s s.cur))

def execMcst (c : Ctl) (f : FmtA) (s : State) : Out :=
  engInstr c f s (fun s fm =>
    if mcstBad (myLoc s) fm then rejectOp c f 0 (fr fm 6) fcCopy fcCopy s
    else
      let (ds, bad) := readDlist (myLoc s) fm
      if bad then rejectOp c f 0 (fr fm 6) fcCopy fcUncorrectable s
      else if ds.any (fun d => d.1 % 16 != 0 || d.2 % 8 != 0) then rejectOp c f 0 (fr fm 6) fcCopy fcCopy s
      else acceptOp c { newOp s c f 0xF1 0 fm with extra := ds } s)

def execCpyr (c : Ctl) (f : FmtA) (s : State) : Out :=
  engInstr c f s (fun s fm =>
    let o := newOp s c f 0xF2 0 fm
    if cpyrBad (myLoc s) fm then rejectOp c f 0 (fr fm 6) fcCopy fcCopy s
    else if cpyrMode fm = 0 then acceptOp c o s
    else match redRecRead s o (s.coreOf s.cur) (frd fm 7) with
      | .error e => rejectOp c f 0 (fr fm 6) fcCopy e s
      | .ok b => match redRecOf b with
        | none => rejectOp c f 0 (fr fm 6) fcCopy fcCopy s
        | some r =>
          if r.len = fr fm 4 && r.dt = cpyrDt fm && decide (fr fm 9 < r.p) && r.dies.getD (fr fm 9) 256 = s.dieOf s.cur then
            acceptOp c { o with extra := redPack r } s
          else rejectOp c f 0 (fr fm 6) fcCopy fcCopy s)

/-! ## Pieces -/

def fabFrame (o : EngOp) : FabFrame :=
  if o.opc = 0xF0 then wrsigFrame o.frame else if o.opc = 0xF1 then mcstFrame o.frame o.extra else cpyrFrame o.frame

/-- Sources and destinations are moved in pieces of 16 bytes (R392); a destination has this many. -/
def FabFrame.per (x : FabFrame) : Nat := x.len / 16

/-- Piece `n` of an operation: destination number, address, offset, length. -/
def fabPiece (x : FabFrame) (n : Nat) : Option (Nat × Nat × Nat × Nat) :=
  match x.dests[n / x.per]? with
  | none => none
  | some d => if x.per = 0 then none else (let off := 16 * (n % x.per); some (n / x.per, d.1 + off, off, 16))

/-- The piece numbers of destination `d`. -/
def destPieces (x : FabFrame) (d : Nat) : List Nat := (List.range x.per).map (x.per * d + ·)

/-- The pieces of an operation. -/
def fabPieces (x : FabFrame) : Nat := x.per * x.dests.length

/-- Marks in an operation's piece list: destination failed, counter update sent, result chunk landed. -/
def markFailed (d : Nat) : Nat := 2 ^ 32 + d
def markCount (d : Nat) : Nat := 2 ^ 33 + d
def markLanded (c : Nat) : Nat := 2 ^ 34 + c

/-- The pieces that have left. -/
def sentPieces (o : EngOp) : List Nat := o.pieces.filter (fun k => decide (k < 2 ^ 32))

/-- Commit-buffer units of a fabric operation (R303). -/
def fabUnits (o : EngOp) (x : FabFrame) : Nat :=
  if isSwitchRed o then (if cpyrDsp o.frame then 0 else bytesUnits x.len)
  else x.dests.foldl (fun n d => n + bytesUnits x.len + (if d.2 = 0 then 0 else detUnits 8)) 0 + (if x.flag.isSome then detUnits 8 else 0)

/-! ## Updates at a home -/

/-- What a piece does at its home: write, or add element by element (R395). -/
def addWords (code : Nat) (old new : List Byte) : List Byte :=
  (List.range (new.length / 4)).flatMap (fun i =>
    toBytes 4 (atomFloat code 4 (ofBytes ((old.drop (4 * i)).take 4)) (ofBytes ((new.drop (4 * i)).take 4))))

/-- Perform a piece at its home: the state, and whether poison kept an addition from being made. -/
def putAtHome (s : State) (pol key pa : Nat) (add : Option Nat) (bytes : List Byte) : State × Bool :=
  match add with
  | none => (physWrite s pol pa key bytes, false)
  | some code =>
    let r := physRead s pol pa bytes.length key
    if r.2 then (s, true) else (physWrite s pol pa key (addWords code r.1 bytes), false)

/-- Set an 8-byte word, or add to it, at its home (R393, R394). -/
def sigAtHome (s : State) (pol key pa val : Nat) (add : Bool) : State × Bool :=
  if !add then (physWrite s pol pa key (toBytes 8 val), false)
  else
    let r := physRead s pol pa 8 key
    if r.2 then (s, true) else (physWrite s pol pa key (toBytes 8 (ofBytes r.1 + val)), false)

/-- AUX of a PUT, MCD or SIG: page policy, key id, what it adds (0 for nothing), destination number. -/
def fabAux (pol key add d : Nat) : Nat := pol + 16 * key + 2048 * add + 65536 * d
def auxAdd (m : Msg) : Nat := m.aux / 2048 % 32
def auxDest (m : Msg) : Nat := m.aux / 65536
def auxPol (m : Msg) : Nat := m.aux % 16
def auxKey (m : Msg) : Nat := m.aux / 16 % 128

/-- The sectors written leave the L1 of the core that runs the operation, so that it reads them again (R294). -/
def dropOwn (s : State) (core pa n : Nat) : State :=
  (l1Cores s core).foldl (fun s c =>
    let s := s.modCore c (fun co => { co with l1 := match mget? co.l1 (lineOf pa) with
      | some l =>
        let left := l.sectors &&& ~~~(sectorMask (pa % 256) n)
        if left = 0 then mdel co.l1 (lineOf pa) else mput co.l1 (lineOf pa) { l with sectors := left }
      | none => co.l1 })
    markFills s c (fun r => r.line == lineOf pa)) s

/-! ## Finding an operation -/

/-- The core and operation of an engine operation's number. -/
def findOp (s : State) (id : Nat) : Option (Nat × EngOp) :=
  s.cores.findSome? (fun e => ((allOps e.2).find? (fun o => o.id == id)).map (fun o => (e.1, o)))

/-- The operation that waits for the answer to a message. -/
def waitingOp (s : State) (mid : Nat) : Option (Nat × EngOp) :=
  s.cores.findSome? (fun e => ((allOps e.2).find? (fun o => o.sent.contains mid)).map (fun o => (e.1, o)))

def markPiece (s : State) (core id n : Nat) : State := modOp s core id (fun o => { o with pieces := n :: o.pieces })

/-! ## The end of a fabric operation -/

/-- Bytes that the barrier counts at the end (R393 to R395). -/
def fabBytes (o : EngOp) (x : FabFrame) : Nat := if o.opc = 0xF1 then x.len * x.dests.length else x.len

/-- A failure: MCST goes on with its other destinations; the others stop (R392, R394). -/
def fabFail (s : State) (core : Nat) (o : EngOp) (d code : Nat) : State :=
  if o.opc = 0xF1 then
    modOp s core o.id (fun o => { o with
      fail := some (match o.fail with
        | some c => min c code
        | none => code)
      pieces := if o.pieces.contains (markFailed d) then o.pieces else markFailed d :: o.pieces })
  else failOp s core o (fabFrame o).tb code

/-- Post a message of an operation and remember that its answer is due. -/
def opPost (s : State) (core : Nat) (o : EngOp) (m : Msg) : State :=
  let id := s.nextId
  modOp (post s { m with hi := hiOf s o.gid, ctx := o.ctx % 64, tid := o.id }) core o.id (fun o => { o with sent := id :: o.sent })

/-- The home die of an address, if it translates. -/
def homeOf (s : State) (o : EngOp) (core va : Nat) : Option Nat :=
  match translate s o.ctx core .write va with
  | .ok (_, pa) => some (homeDie pa)
  | .error _ => none

/-- Nothing of the operation is still to leave for a die: its next message there is the last one (R382). -/
def lastTo (s : State) (o : EngOp) (core die : Nat) : Bool :=
  let x := fabFrame o
  let flags : List Nat := match x.flag with
    | some f => [f.1]
    | none => x.dests.map (·.2)
  (List.range (fabPieces x)).all (fun n => o.pieces.contains n || (match fabPiece x n with
    | some p => o.pieces.contains (markFailed p.1) || homeOf s o core p.2.1 != some die
    | none => true)) &&
  (List.range flags.length).all (fun d =>
    flags.getD d 0 == 0 || o.pieces.contains (markCount d) || o.pieces.contains (markFailed d) || homeOf s o core (flags.getD d 0) != some die)

/-- Send or perform a flag or counter update; in a DET context it is buffered (R300). -/
def sendSig (s : State) (core : Nat) (o : EngOp) (d va val : Nat) (add : Bool) : State :=
  match translate s o.ctx core .write va with
  | .error _ => fabFail s core o d fcCopy
  | .ok (e, pa) =>
    let s := markPiece s core o.id (markCount d)
    if opDet s o then detEng s o core va 8 (fun _ _ => if add then .red false 0 (toBytes 8 val) else .write (toBytes 8 val))
    else if homeDie pa = dieOfCore core then
      (let r := sigAtHome s e.pol e.key pa val add
       if r.2 then fabFail r.1 core o d fcUncorrectable else dropOwn r.1 core pa 8)
    else opPost s core o { mkMsg tSig (dieOfCore core) (homeDie pa) pa with
      aux := fabAux e.pol e.key (if add then 1 else 0) d, data := toBytes 8 val
      last := lastTo s { o with pieces := markCount d :: o.pieces } core (homeDie pa) }

/-- Every byte of a destination has its home in the package of its flag, so that the flag's message may follow it there (R393, R394). A flag on
the own die is written by no message, so that it waits for the payload's answers (R294). -/
def sameHome (s : State) (o : EngOp) (core va n flag : Nat) : Bool :=
  match homeOf s o core flag with
  | none => false
  | some h => h != dieOfCore core && (pagePieces va n).all (fun q => (homeOf s o core q.1).map (· / 2) == some (h / 2))

/-- The signals that can be sent now: WRSIG's flag, or the counter of a destination all of whose pieces have left. -/
def fabSignals (s : State) (core : Nat) (o : EngOp) : State :=
  let x := fabFrame o
  let ready := fun (o : EngOp) (d va flag : Nat) =>
    (destPieces x d).all o.pieces.contains && !o.pieces.contains (markFailed d) && !o.pieces.contains (markCount d) &&
    (o.sent.isEmpty || sameHome s o core va x.len flag)
  match x.flag with
  | some (flag, val, add) =>
    if ready o 0 (x.dests.headD (0, 0)).1 flag then sendSig s core o 0 flag val add else s
  | none =>
    (List.range x.dests.length).foldl (fun s d => match opAt s core o.id, x.dests.getD d (0, 0) with
      | some o, (va, cnt) => if cnt ≠ 0 && ready o d va cnt then sendSig s core o d cnt x.len true else s
      | none, _ => s) s

/-- Nothing is left to do or to wait for. -/
def fabOver (o : EngOp) : Bool :=
  let x := fabFrame o
  o.sent.isEmpty && (List.range x.dests.length).all (fun d => o.pieces.contains (markFailed d) ||
    ((destPieces x d).all o.pieces.contains &&
     (o.pieces.contains (markCount d) || ((x.dests.getD d (0, 0)).2 = 0 && x.flag.isNone))))

/-- Move an operation on after something of it was done. -/
def fabProgress (s : State) (core id : Nat) : State :=
  match opAt s core id with
  | none => s
  | some o =>
    let s := fabSignals s core o
    match opAt s core id with
    | none => s
    | some o =>
      if !fabOver o then s
      else match o.fail with
        | some code => failOp s core o (fabFrame o).tb code
        | none => endOp (opArrive s o (fabFrame o).tb (fabBytes o (fabFrame o))) core o 0

/-! ## Starting (R303, R393) -/

/-- WRSIG's flag must lie in COH memory before a byte moves. -/
def flagBad (s : State) (core : Nat) (o : EngOp) : Bool :=
  match (fabFrame o).flag with
  | none => false
  | some (va, _, _) => match translate s o.ctx core .write va with
    | .ok (e, _) => e.pol != 0
    | .error _ => true

def fabStart (s : State) (core : Nat) (o : EngOp) : State :=
  let x := fabFrame o
  if flagBad s core o then failOp s core o x.tb fcCopy
  else match takeUnits s core o (fabUnits o x) with
    | none => failOp s core o x.tb fcQuantum
    | some s =>
      let s := modOp s core o.id (fun o => { o with started := true })
      if isSwitchRed o then s else fabProgress s core o.id

/-- COPY_ENGINE_OP_START: the copy engine takes the next operation that has not started. -/
def execCopyEngineOpStart (core : Nat) (s : State) : Out :=
  match (s.core core).copyQ.find? (fun o => !o.started) with
  | none => .next s
  | some o => .next (if o.opc = 0xBA then copyStart s core o else fabStart s core o)

/-! ## Reservations (R385) -/

/-- Bytes of an operation's destinations whose home is a die. -/
def transferBytes (s : State) (o : EngOp) (core die : Nat) (x : FabFrame) : Nat :=
  x.dests.foldl (fun n d => (pagePieces d.1 x.len).foldl (fun n p => match translate s o.ctx core .write p.1 with
    | .ok (_, pa) => if homeDie pa = die then n + p.2.2 else n
    | .error _ => n) n) 0

/-- Of these, the bytes that have left. -/
def sentBytes (s : State) (o : EngOp) (core die : Nat) (x : FabFrame) : Nat :=
  o.pieces.foldl (fun n k => match fabPiece x k with
    | some p => (match translate s o.ctx core .write p.2.1 with
      | .ok (_, pa) => if homeDie pa = die then n + p.2.2.2 else n
      | .error _ => n)
    | none => n) 0

/-- The reservation of an operation at a die. -/
def rsvOf (s : State) (id die : Nat) : Option (Nat × Rsv) := mfind (fun _ r => r.op == id && r.dst == die) s.rsvs

/-- Ask for space for the next chunk of a transfer of which `rest` bytes are left; `op` is the number of the operation or transfer. -/
def askRsv (s : State) (src dst op cx rest : Nat) : State :=
  let want := min 65536 rest
  let id := s.nextId
  post { s with rsvs := mput s.rsvs id { src := src, dst := dst, bytes := want, granted := none, op := op } }
    { mkMsg tRsv src dst 0 with tid := id, aux := want, ctx := cx % 64 }

/-- Leave to send `n` bytes of an operation to a die, to which it sends `total` bytes of which `sent` have left: whether under a reservation, or
none where one must be awaited; asks for one where there is none. -/
def leave' (s : State) (core : Nat) (o : EngOp) (die n total sent : Nat) : State × Option Bool :=
  if total < 4096 then (s, some false)
  else match rsvOf s o.id die with
    | some (k, r) =>
      if r.granted.isNone then (s, none)
      else ({ s with rsvs := if r.bytes ≤ n then mdel s.rsvs k else mput s.rsvs k { r with bytes := r.bytes - n } }, some true)
    | none => (askRsv s (dieOfCore core) die o.id o.ctx (total - sent), none)

/-- RSV: the receiver has the space and answers GNT. -/
def execMsgRsv (id : Nat) (s : State) : Out :=
  match arriving s id tRsv with
  | none => .next s
  | some m => .next (post (taken s id m) { mkMsg tGnt m.dst m.src 0 with tid := m.tid, aux := m.aux, ctx := m.ctx })

/-- GRANT_WITHDRAW: a grant not used for 100 µs is gone; the sender asks again with its next piece. -/
def execGrantWithdraw (id : Nat) (s : State) : Out :=
  match mget? s.rsvs id with
  | some r => match r.granted with
    | some t => if elapsedUs s (r.src / 2) t ≥ 100 then .next { s with rsvs := mdel s.rsvs id } else .next s
    | none => .next s
  | none => .next s

/-! ## Sending pieces -/

/-- Read a source: the bytes or a failure code. -/
def fabRead (s : State) (core : Nat) (o : EngOp) (x : FabFrame) (off n : Nat) : Except Nat (List Byte) :=
  opRead s o core fcCopy x.ssp 0 (x.src + off) n

/-- Every earlier piece of a destination that has not failed is done. -/
def nextPiece (x : FabFrame) (o : EngOp) (n : Nat) : Bool :=
  (List.range n).all (fun k => o.pieces.contains k || (match fabPiece x k with
    | some p => o.pieces.contains (markFailed p.1)
    | none => true))

/-- Move one piece to its home, in a DET context in order (R304): written there at once on the own die, else as a PUT or MCD message. -/
def fabPieceSend (s : State) (core : Nat) (o : EngOp) (n : Nat) : State :=
  let x := fabFrame o
  match fabPiece x n with
  | none => s
  | some (d, va, off, len) =>
    if o.pieces.contains n || o.pieces.contains (markFailed d) || (opDet s o && !nextPiece x o n) then s
    else match fabRead s core o x off len, translate s o.ctx core .write va with
      | .error e, _ => fabProgress (fabFail s core o d e) core o.id
      | .ok _, .error _ => fabProgress (fabFail s core o d fcCopy) core o.id
      | .ok bytes, .ok (e, pa) =>
        let total := transferBytes s o core (homeDie pa) x
        let sent := sentBytes s o core (homeDie pa) x
        -- both sides are translated through the L1 TLB (R392)
        let s := tlbFill (if x.ssp then s else tlbFill s o.ctx core (x.src + off)) o.ctx core va
        if x.add.isSome && !accepts e pa false false then fabProgress (fabFail s core o d fcCopy) core o.id
        else if opDet s o then
          fabProgress (markPiece (detEng s o core va len (fun a k => match x.add with
            | none => .write ((bytes.drop a).take k)
            | some code => .red true code ((bytes.drop a).take k))) core o.id n) core o.id
        else if homeDie pa = dieOfCore core then
          (let r := putAtHome s e.pol e.key pa x.add bytes
           if r.2 then fabProgress (fabFail r.1 core o d fcUncorrectable) core o.id
           else fabProgress (markPiece (dropOwn r.1 core pa len) core o.id n) core o.id)
        else match leave' s core o (homeDie pa) len total sent with
          | (s, none) => s
          | (s, some rsvd) =>
            let typ := if o.opc = 0xF1 then tMcd else tPut
            let m := { mkMsg typ (dieOfCore core) (homeDie pa) pa with
              rsvd := rsvd, data := bytes, aux := fabAux e.pol e.key (match x.add with | none => 0 | some c => c + 1) d
              last := lastTo s { o with pieces := n :: o.pieces } core (homeDie pa) }
            fabProgress (markPiece (opPost s core o m) core o.id n) core o.id

/-! ## PUT, MCD, PUTA, SIG -/

/-- The answer to a message of an operation: TID names the message, AUX holds a failure code. -/
def putAck (m : Msg) (id code : Nat) : Msg := { mkMsg tPutA m.dst m.src m.addr with hi := m.hi, ctx := m.ctx, tid := id, aux := code }

/-- A payload message is performed at its home and acknowledged. -/
def putArrive (s : State) (id : Nat) (m : Msg) : State :=
  let r := putAtHome (taken s id m) (auxPol m) (auxKey m) m.addr (if auxAdd m = 0 then none else some (auxAdd m - 1)) m.data
  let s := match findOp r.1 m.tid with
    | some (core, _) => dropOwn r.1 core m.addr m.data.length
    | none => r.1
  post s (putAck m id (if r.2 then fcUncorrectable else 0))

def execMsgMcd (id : Nat) (s : State) : Out :=
  match arriving s id tMcd with
  | none => .next s
  | some m => .next (putArrive s id m)

/-- SIG waits until no payload of its destination is still on its way to the package. -/
def execMsgSig (id : Nat) (s : State) : Out :=
  match arriving s id tSig with
  | none => .next s
  | some m =>
    if s.net.any (fun e => (e.2.typ == tPut || e.2.typ == tMcd) && e.2.tid == m.tid && e.2.src == m.src && e.2.dst / 2 == m.dst / 2 &&
        auxDest e.2 == auxDest m) then .next s
    else
      let r := sigAtHome (taken s id m) (auxPol m) (auxKey m) m.addr (ofBytes m.data) (auxAdd m = 1)
      let s := match findOp r.1 m.tid with
        | some (core, _) => dropOwn r.1 core m.addr 8
        | none => r.1
      .next (post s (putAck m id (if r.2 then fcUncorrectable else 0)))

/-- An answer to an operation of the copy engine. -/
def putAcked (s : State) (mid code : Nat) : State :=
  match waitingOp s mid with
  | none => s
  | some (core, o) =>
    let s := modOp s core o.id (fun o => { o with sent := srem o.sent mid })
    if code ≠ 0 then fabProgress (fabFail s core o 0 code) core o.id else fabProgress s core o.id

/-! ## Switch reductions (R390, R391) -/

def chunkLen (len c : Nat) : Nat := min 4096 (len - 4096 * c)
def chunkCount (len : Nat) : Nat := (len + 4095) / 4096

/-- A set is named by its root die, its context id and its set id. -/
def redKey (root cx setid : Nat) : Nat := (64 * root + cx % 64) * 2 ^ 32 + setid
def opRedKey (o : EngOp) : Nat := redKey ((redOf o).dies.headD 0) o.ctx (redOf o).setid

/-- The tree of R50, element by element, with one rounding for BF16. -/
def redCombine (dt : Nat) (parts : List (List Byte)) : List Byte :=
  let w : Nat := if dt = 2 then 2 else 4
  (List.range ((parts.headD []).length / w)).flatMap (fun i =>
    let xs := parts.map (fun p => let x := ofBytes ((p.drop (w * i)).take w); if dt = 2 then x * 65536 else x)
    let r := (treeFold addF32 17 xs).headD 0
    toBytes w (if dt = 2 then (fToF envRne fF32 fBf16 0 r).1 else r))

/-- What a contribution says beside its bytes (R390): rank, P, DT, LEN, whether the sender takes this chunk's result, and whether
a fallback may follow. -/
structure RedIn where
  rank : Nat
  p : Nat
  dt : Nat
  len : Nat
  want : Bool
  coll : Bool

def redAux (r : RedIn) : Nat := r.rank + 2 ^ 16 * r.p + 2 ^ 32 * r.dt + 2 ^ 36 * r.len + (if r.want then 2 ^ 62 else 0) + (if r.coll then 2 ^ 63 else 0)
def redInOf (a : Nat) : RedIn :=
  ⟨bitsN a 0 16, bitsN a 16 16, bitsN a 32 4, bitsN a 36 26, bitN a 62, bitN a 63⟩
def redCheck (r : RedIn) : Nat := r.p + 2 ^ 16 * r.dt + 2 ^ 20 * r.len

/-- ADDR of RDC and RDR: set id, chunk, and, in bits that R382 leaves free, where in the chunk the body stands, in units of 16 bytes. -/
def redAddr (setid chunk at' : Nat) : Nat := setid + 2 ^ 32 * chunk + 2 ^ 56 * at'
def addrSet (a : Nat) : Nat := a % 2 ^ 32
def addrChunk (a : Nat) : Nat := a / 2 ^ 32 % 2 ^ 24
def addrAt (a : Nat) : Nat := a / 2 ^ 56

/-- Bytes of a chunk's contribution or result in bodies of at most 256 bytes (R382), each with its place in units of 16 bytes. -/
def bodiesOf (bytes : List Byte) : List (Nat × List Byte) :=
  (List.range ((bytes.length + 255) / 256)).map (fun i => (16 * i, (bytes.drop (256 * i)).take 256))

/-- A refusal to the sender of a contribution; ADDR names the chunk at which the set failed. -/
def redRefuse (s : State) (root src cx mid code chunk : Nat) : State :=
  post s { mkMsg tPutA root src chunk with ctx := cx, tid := mid, aux := code }

/-- A set that nothing more can happen to is forgotten. -/
def redSweep (s : State) (key : Nat) : State :=
  match mget? s.redSets key with
  | none => s
  | some r =>
    let over' := match r.failedAt with
      | none => decide (r.got.length ≥ chunkCount r.len)
      | some c => decide (r.told.length ≥ r.p) && (!r.coll || (List.range c).all r.got.contains) &&
        !s.net.any (fun e => e.2.typ == tRdc && redKey e.2.dst e.2.ctx (addrSet e.2.addr) == key)
    if over' then { s with redSets := mdel s.redSets key } else s

/-- A part of a contribution reaches the root: refused after a failure or when its check differs from the head's; else kept under its rank and
place, and combined once the whole chunk of every rank is there. -/
def redArrive (s : State) (root cx src mid addr : Nat) (i : RedIn) (data : List Byte) : State :=
  let setid := addrSet addr
  let chunk := addrChunk addr
  let key := redKey root cx setid
  let r := (mget? s.redSets key).getD { p := i.p, len := i.len, coll := i.coll }
  if (match r.failedAt with | some c => decide (c ≤ chunk) | none => false) then
    redSweep (redRefuse { s with redSets := mput s.redSets key { r with told := sadd r.told i.rank } } root src cx mid fcCollTimeout (r.failedAt.getD 0)) key
  else
    let ch := (mget? r.chunks chunk).getD { head := s.clock, check := redCheck i }
    if ch.check ≠ redCheck i then redRefuse { s with redSets := mput s.redSets key r } root src cx mid fcCopy 0
    else
      let ch := { ch with parts := mput ch.parts (256 * i.rank + addrAt addr) data, wants := if i.want then sadd ch.wants i.rank else ch.wants }
      let r := { r with dies := mput r.dies i.rank src }
      let all := (mvals ch.parts).flatten
      let n := chunkLen i.len chunk
      if all.length < i.p * n then { s with redSets := mput s.redSets key { r with chunks := mput r.chunks chunk ch } }
      else
        let res := redCombine i.dt ((List.range i.p).map (fun k => (all.drop (n * k)).take n))
        let s := { s with redSets := mput s.redSets key { r with chunks := mdel r.chunks chunk, got := sadd r.got chunk } }
        let s := ch.wants.reverse.foldl (fun s k => (bodiesOf res).foldl (fun s b =>
          post s { mkMsg tRdr root (mget r.dies root k) (redAddr setid chunk b.1) with ctx := cx, data := b.2 }) s) s
        redSweep s key

/-- Send a part of a chunk's contribution to the root, over no link on the root's own die. -/
def redSend (s : State) (core : Nat) (o : EngOp) (root addr : Nat) (i : RedIn) (rsvd last : Bool) (data : List Byte) : State :=
  let id := s.nextId
  let s := modOp s core o.id (fun o => { o with sent := id :: o.sent })
  post s { mkMsg tRdc (dieOfCore core) root addr with
    hi := hiOf s o.gid, ctx := o.ctx % 64, tid := o.id, aux := redAux i, rsvd := rsvd, last := last, data := data }

/-- One piece of the contribution to a switch all-reduce leaves, under a reservation where the transfer is large (R385). -/
def redPiece (s : State) (core : Nat) (o : EngOp) (n : Nat) : State :=
  let x := fabFrame o
  let r := redOf o
  let root := r.dies.headD 0
  if n ≥ x.per || o.pieces.contains n then s
  else match fabRead s core o x (16 * n) 16 with
    | .error e => failOp s core o x.tb e
    | .ok bytes =>
      let sent := (sentPieces o).length
      match (if root = dieOfCore core then (s, some false) else leave' s core o root 16 x.len (16 * sent)) with
      | (s, none) => s
      | (s, some rsvd) =>
        redSend (markPiece s core o.id n) core o root (redAddr r.setid (n / 256) (n % 256)) ⟨fr o.frame 9, r.p, r.dt, r.len, true, false⟩ rsvd
          (sent + 1 == x.per) bytes

/-- RDC at the root. -/
def execMsgRdc (id : Nat) (s : State) : Out :=
  match arriving s id tRdc with
  | none => .next s
  | some m => .next (redArrive (taken s id m) m.dst m.ctx m.src id m.addr (redInOf m.aux) m.data)

/-- The running switch all-reduce of a die that a result belongs to. -/
def redOpAt (s : State) (die cx setid : Nat) : Option (Nat × EngOp) :=
  s.cores.findSome? (fun e => if dieOfCore e.1 = die then
    (e.2.copyQ.find? (fun o => isSwitchRed o && o.started && o.ctx % 64 == cx && (redOf o).setid == setid)).map (fun o => (e.1, o)) else none)

/-- The bodies of a chunk's result have all landed: `landed` says which have, by chunk and place. -/
def chunkLanded (landed : Nat → Bool) (len chunk : Nat) : Bool :=
  (List.range ((chunkLen len chunk + 255) / 256)).all (fun i => landed (256 * chunk + 16 * i))

/-- A part of a result chunk lands: it is written, and the chunk is counted when all of it has landed (R395). -/
def redLand (s : State) (core : Nat) (o : EngOp) (addr : Nat) (data : List Byte) : State :=
  let x := fabFrame o
  let dsp := cpyrDsp o.frame
  let chunk := addrChunk addr
  let mark := markLanded (256 * chunk + addrAt addr)
  if o.pieces.contains mark then s
  else match opWrite s o core fcCopy dsp 0 (pairAddr o.frame 2 dsp + 4096 * chunk + 16 * addrAt addr) data with
    | .error e => failOp s core o x.tb e
    | .ok s =>
      let s := markPiece s core o.id mark
      let here := chunkLanded (fun k => (mark :: o.pieces).contains (markLanded k)) x.len
      if !here chunk then s
      else
        let s := opArrive s o x.tb (chunkLen x.len chunk)
        match opAt s core o.id with
        | some o => if (List.range (chunkCount x.len)).all here then endOp s core o 0 else s
        | none => s

/-- COPY_PIECE_WRITE: piece `n` of a running operation of the copy engine. -/
def execCopyPieceWrite (core op n : Nat) (s : State) : Out :=
  match (s.core core).copyQ.find? (fun o => o.id == op) with
  | none => .next s
  | some o =>
    if !o.started || linkDead s core then .next s
    else if o.opc = 0xBA then .next (copyPieceWrite s core o n)
    else if isSwitchRed o then .next (redPiece s core o n)
    else .next (fabPieceSend s core o n)

/-- COPY_FAULT_STOP: a fault of some piece that is still to be moved stops the operation. -/
def execCopyFaultStop (core op : Nat) (s : State) : Out :=
  match (s.core core).copyQ.find? (fun o => o.id == op) with
  | none => .next s
  | some o =>
    if !o.started then .next s
    else if o.opc = 0xBA then .next (copyFaultStop s core o)
    else
      let x := fabFrame o
      let bad := fun (n : Nat) => if isSwitchRed o then
          (match fabRead s core o x (16 * n) 16 with
           | .error _ => true
           | .ok _ => false)
        else match fabPiece x n with
          | none => false
          | some (_, va, off, len) =>
            (match fabRead s core o x off len with | .error _ => true | .ok _ => false) ||
            (match translate s o.ctx core .write va with | .error _ => true | .ok _ => false)
      match (List.range (if isSwitchRed o then x.per else fabPieces x)).find? (fun n => !o.pieces.contains n && bad n) with
      | none => .next s
      | some n => .next (if isSwitchRed o then redPiece s core o n else fabPieceSend s core o n)

end Sys2Proof.Machine
end

