-- ==== Sys2Proof/Machine/Generation.lean ====
section
/-!
DEFINITION. SPAPP, SPVER, SPACC and SPRST, opcodes 0xF8 to 0xFB (R361 to R371), and ORDERED_ATOMIC_GRANT (R318).
-/
namespace Sys2Proof.Machine

/-! ## The header (R361 to R363) -/

/-- A header and its STATE. -/
structure SpecHead where
  w0 : Nat
  req : Nat
  rb : Nat
  stop : List Nat
  clen : Nat
  spn : Nat
  maxr : Nat
  done : Nat
  reason : Nat
  rsv : Nat
  deriving DecidableEq, Repr

def specHead (b : List Byte) : SpecHead :=
  let st := fieldOf' b 16 8
  let stop := fieldOf' b 24 40
  { w0 := fieldOf' b 0 8, req := fieldOf' b 8 4, rb := fieldOf' b 12 4, stop := (List.range 16).map (fun k => bitsN stop (20 * k) 20),
    clen := bitsN st 0 24, spn := bitsN st 24 8, maxr := bitsN st 32 24, done := bitsN st 56 1, reason := bitsN st 57 2, rsv := bitsN st 59 5 }
where fieldOf' (b : List Byte) (a k : Nat) : Nat := ofBytes ((b.drop a).take k)

def SpecHead.nstop (h : SpecHead) : Nat := h.w0 % 32
def SpecHead.base (h : SpecHead) : Nat := h.w0 / 64 * 64
def SpecHead.state (h : SpecHead) : Nat :=
  h.clen + 2 ^ 24 * h.spn + 2 ^ 32 * h.maxr + 2 ^ 56 * h.done + 2 ^ 57 * h.reason + 2 ^ 59 * h.rsv

/-- W0, RB, MAXR and STOP break R363. -/
def SpecHead.fixedBad (h : SpecHead) : Bool :=
  bitN h.w0 5 || bitsN h.w0 57 7 != 0 || decide (h.nstop > 16) || h.rb % 64 != 0 || decide (h.rb < 64) || decide (h.rb > 2 ^ 24) || h.maxr == 0 ||
  (h.stop.drop h.nstop).any (· != 0)

/-- The header is malformed (R363). -/
def SpecHead.bad (h : SpecHead) : Bool :=
  h.fixedBad || h.rsv != 0 || decide (h.clen + h.spn > h.maxr) || h.reason == 3 || (h.done == 0 && h.reason != 0)

/-- A token matches the stop list (R363). -/
def SpecHead.stops (h : SpecHead) (t : Nat) : Bool := decide (t < 2 ^ 20) && (h.stop.take h.nstop).contains t

/-! ## Checks at issue (R364, R365) -/

/-- One array an instruction names: address, bytes, access, alignment. -/
structure SpecArr where
  va : Nat
  len : Nat
  kind : Kind
  align : Nat

/-- The faults of an array's address and pages. -/
def arrFaults (s : State) (a : SpecArr) : List FaultInfo :=
  if a.va % a.align ≠ 0 then [⟨fcMisaligned, 0, a.va, 0, 0⟩]
  else (pagePieces a.va a.len).filterMap (fun p => match translate s s.me.ctx (s.coreOf s.cur) a.kind p.1 with
    | .error f => some ⟨f.code, f.flags, p.1, 0, 0⟩
    | .ok _ => none)

/-- The header lies in COH HBM, else PAGE_PROTECTION (R361). -/
def headFaults (s : State) (va : Nat) (k : Kind) : List FaultInfo :=
  if va % 64 ≠ 0 then [⟨fcMisaligned, 0, va, 0, 0⟩]
  else match translate s s.me.ctx (s.coreOf s.cur) k va with
    | .error f => [⟨f.code, f.flags, va, 0, 0⟩]
    | .ok (e, pa) => if e.pol = 0 && isHbm pa then [] else [⟨fcProtection, if k = .write then flWrite else 0, va, 0, 0⟩]

/-- The arrays beside the header (R366 to R370). -/
def specArrs (opc eng : Nat) (f : List W32) : List SpecArr :=
  let nd := fr f 14
  if opc = 0xF9 then
    ⟨frd f 2, 4 * nd, .read, 4⟩ :: (if eng = 0 then [⟨frd f 4, 4 * nd + 4, .read, 4⟩] else [⟨frd f 6, 4 * nd, .read, 4⟩, ⟨frd f 8, 4 * nd, .read, 4⟩])
  else if opc = 0xFA then
    ⟨frd f 4, 4 * fr f 8, .read, 4⟩ ::
      (if frd f 6 = 0 then [] else [⟨frd f 6, 4 * (fr f 2 + (if fr f 3 = noTb then 0 else 1)), .write, 4⟩])
  else []

/-- The frame registers that must be zero. -/
def specZero (opc eng : Nat) (f : List W32) : Bool :=
  let z := fun (l : List Nat) => l.all (fun i => fr f i == 0)
  if opc = 0xF8 then zeroFrom f 3
  else if opc = 0xF9 then (if eng = 0 then zeroFrom f 15 && z [6, 7, 8, 9, 10, 11, 12, 13] else zeroFrom f 15 && z [4, 5])
  else if opc = 0xFA then zeroFrom f 9
  else zeroFrom f 4

/-! ## Reads and writes of a group (R365, R371) -/

/-- Read for a group: ordered and buffered in a DET context. -/
def specRead (s : State) (g va n : Nat) (ordered : Bool) : Except FaultInfo (List Byte) :=
  (pagePieces va n).foldl (fun acc p => match acc with
    | .error e => .error e
    | .ok bs => match translate s (s.grp g).ctx (s.coreOf g) .read p.1 with
      | .error f => .error ⟨f.code, f.flags, p.1, 0, 0⟩
      | .ok (e, pa) =>
        let r := physRead s e.pol pa p.2.2 e.key
        if r.2 then .error ⟨fcUncorrectable, 0, p.1, 0, 0⟩
        else .ok (bs ++ (if !s.isDet g then r.1 else if ordered then (ordRead s g e.pol pa p.2.2 e.key).1 else detBytes s g pa r.1))) (.ok [])

/-- Write for a group: buffered in a DET context, where the first piece carries the units. -/
def specWrite (s : State) (g va : Nat) (bytes : List Byte) : State :=
  (pagePieces va bytes.length).foldl (fun s p => match translate s (s.grp g).ctx (s.coreOf g) .write p.1 with
    | .error _ => s
    | .ok (e, pa) =>
      let b := (bytes.drop p.2.1).take p.2.2
      if s.isDet g then ordPut s g e.pol pa e.key (if p.2.1 = 0 then detUnits bytes.length else 0) true b
      else
        let s := physWrite s e.pol pa e.key b
        (linePieces pa b.length).foldl (fun s q => l1Update s (s.coreOf g) (p.1 + q.2.1) q.1 ((b.drop q.2.1).take q.2.2)) s) s

/-! ## Rollback (R369) -/

/-- Every copy of a line in every L2 goes, its dirty data discarded. -/
def discardLine (s : State) (line : Nat) : State :=
  let dies := match mget? s.dir line with
    | some e => e.dies
    | none => []
  let s := dropSealed (dies.foldl (fun s d => dropSealed (dropCopy s d line) d line) s) (homeDie (256 * line)) line
  { s with
    dir := mdel s.dir line
    busy := mdel s.busy line
    l2 := mdel s.l2 (atDie (homeDie (256 * line)) line)
    net := mfilter (fun _ m => !inTransaction line m) s.net
    retryStore := mfilter (fun _ m => !inTransaction line m) s.retryStore }

/-- The physical pieces of a virtual range on COH pages; others are skipped. -/
def cohPieces (s : State) (g va n : Nat) : List (Nat × Nat) :=
  (pagePieces va n).filterMap (fun p => match translate s (s.grp g).ctx (s.coreOf g) .maint p.1 with
    | .ok (e, pa) => if e.pol = 0 then some (pa, p.2.2) else none
    | .error _ => none)

/-- Invalidate pieces: whole lines are discarded, a line covered in part is handled as by CINV.all. -/
def rollbackPieces (s : State) (g : Nat) (ps : List (Nat × Nat)) : State :=
  ps.foldl (fun s p => (linesOf p).foldl (fun s line =>
    let s := dropL1Line s g line true
    if p.1 ≤ 256 * line && 256 * line + 256 ≤ p.1 + p.2 then discardLine s line else purgeLine s line) s) s

/-! ## The four instructions -/

/-- What an instruction does once its operands are known: its results and the state, or its fault. -/
abbrev SpecRes := Except FaultInfo (List Nat × State)

def specFault (f : List W32) : FaultInfo := ⟨fcSpecRegion, 0, frd f 0, 0, 0⟩

/-- The words of an array. -/
def wordsOf (b : List Byte) : List Nat := (List.range (b.length / 4)).map (fun i => ofBytes ((b.drop (4 * i)).take 4))

def spapp (s : State) (g : Nat) (f : List W32) (h : SpecHead) : SpecRes :=
  let n := fr f 2
  if h.bad || h.done = 1 || n = 0 || n > 255 - h.spn || h.clen + h.spn + n > h.maxr then .error (specFault f)
  else
    let r0 := h.clen + h.spn
    let a := (h.base + r0 * h.rb) % 2 ^ 64
    .ok ([0, r0, a % 2 ^ 32, a / 2 ^ 32], specWrite s g (frd f 0 + 16) (toBytes 8 { h with spn := h.spn + n }.state))

/-- The accepted count of `.exact`. -/
def acceptExact : List Nat → List Nat → Nat
  | d :: ds, t :: ts => if d = t then 1 + acceptExact ds ts else 0
  | _, _ => 0

/-- u * PD ≤ PT in exact reals; a NaN or a negative PT rejects (R367). -/
def probAccepts (w pd pt : Nat) : Bool :=
  let u : Dy := ⟨2 * (w / 512) + 1, -24⟩
  match unpack fF32 false pd, unpack fF32 false pt with
  | .nan _ _ _, _ => false
  | _, .nan _ _ _ => false
  | _, .inf true => false
  | x, .num n m e =>
    if n && m != 0 then false
    else match x with
      | .inf neg => neg
      | x => (u.mul x.dy).le (FV.num n m e).dy
  | _, .inf false => true

/-- The accepted count of `.prob`: position `q` of the first draft counted. -/
def acceptProb (key : Quad) (q req : Nat) : List Nat → List Nat → Nat
  | pd :: pds, pt :: pts =>
    let w := (genBlock key ⟨0x80000000, BitVec.ofNat 32 q, BitVec.ofNat 32 req, 1⟩).a.toNat
    if probAccepts w pd pt then 1 + acceptProb key (q + 1) req pds pts else 0
  | _, _ => 0

def spver (s : State) (g eng : Nat) (f : List W32) (h : SpecHead) : SpecRes :=
  let nd := fr f 14
  if h.bad || h.done = 1 || nd > h.spn then .error (specFault f)
  else
    let rd := fun va n => (specRead s g va n false).map wordsOf
    if eng = 0 then
      match rd (frd f 2) (4 * nd), rd (frd f 4) (4 * nd + 4) with
      | .ok d, .ok t =>
        let a := acceptExact d t
        .ok ([0, a, t.getD a 0, nd], s)
      | .error e, _ => .error e
      | _, .error e => .error e
    else
      match rd (frd f 6) (4 * nd), rd (frd f 8) (4 * nd) with
      | .ok pt, .ok pd =>
        let key : Quad := ⟨f.getD 10 0, f.getD 11 0, f.getD 12 0, f.getD 13 0⟩
        .ok ([0, acceptProb key (h.clen + h.spn - nd) h.req pd pt, 0xFFFFFFFF, nd], s)
      | .error e, _ => .error e
      | _, .error e => .error e

/-- Tokens emitted, and whether a stop token was found. -/
def emitted (h : SpecHead) : List Nat → Nat × Bool
  | [] => (0, false)
  | t :: ts => if h.stops t then (1, true) else (let r := emitted h ts; (1 + r.1, r.2))

def spacc (s : State) (g : Nat) (f : List W32) (h : SpecHead) : SpecRes :=
  let a := fr f 2
  let nd := fr f 8
  if h.bad || h.done = 1 || nd > h.spn || a > nd then .error (specFault f)
  else match (specRead s g (frd f 4) (4 * a) true).map wordsOf with
    | .error e => .error e
    | .ok d =>
      let t := d ++ (if fr f 3 = noTb then [] else [fr f 3])
      let (e, hit) := emitted h t
      let keep := h.spn - nd + min a e
      let s := if frd f 6 = 0 then s else specWrite s g (frd f 6) ((t.take e).flatMap (toBytes 4))
      let ps := cohPieces s g ((h.base + h.rb * (h.clen + keep)) % 2 ^ 64) (h.rb * (h.spn - keep))
      let s := if s.isDet g then
          s.modGrp g (fun gr => { gr with detBuf := gr.detBuf ++
            [{ pa := 0, pol := 0, key := 0, pos := gr.detCount, quantum := some gr.quantum, ordered := false, eng := none, units := 0, op := .rollback ps }] })
        else rollbackPieces s g ps
      let clen := h.clen + keep
      let (done, reason) := if hit then (1, 1) else if clen = h.maxr then (1, 2) else (0, 0)
      .ok ([0, e, keep, done + 2 * reason],
           specWrite s g (frd f 0 + 16) (toBytes 8 { h with clen := clen, spn := 0, done := done, reason := reason }.state))

def sprst (s : State) (g : Nat) (f : List W32) (h : SpecHead) : SpecRes :=
  if h.fixedBad || fr f 3 > h.maxr then .error (specFault f)
  else
    let s := specWrite s g (frd f 0 + 8) (toBytes 4 (fr f 2))
    .ok ([0], specWrite s g (frd f 0 + 16) (toBytes 8 { h with clen := fr f 3, spn := 0, done := 0, reason := 0, rsv := 0 }.state))

/-- Read the header and act. -/
def specAct (s : State) (g opc eng : Nat) (f : List W32) : SpecRes :=
  match specRead s g (frd f 0) 64 (opc != 0xF9) with
  | .error e => .error e
  | .ok b =>
    let h := specHead b
    if opc = 0xF8 then spapp s g f h
    else if opc = 0xF9 then spver s g eng f h
    else if opc = 0xFA then spacc s g f h
    else sprst s g f h

/-- A held instruction of this chapter acts: its results, the acquire at POD scope, its counter; a fault stands at its address. -/
def specRun (s : State) (g opc eng : Nat) (f : List W32) (st : Nat) : State :=
  match specAct s g opc eng f with
  | .error e => faultWait s g e
  | .ok (rs, s) =>
    let s := s.give g ((List.range rs.length).map (fun i => .g (st + i) (BitVec.ofNat 32 (rs.getD i 0)) false))
    -- units taken for tokens that were not written are free again
    let s := if s.isDet g && opc = 0xFA then
        (let used := ((s.grp g).detBuf.foldl (fun n w => if w.pos = (s.grp g).detCount && w.ordered then n + w.units else n) 0)
         freeUnits s g (specUnits opc f - used)) else s
    endHold (acquire s g 5) g

/-- A waiting SPAPP, SPACC or SPRST of a DET context looks whether its turn has come (R318, R371). -/
def pollSpec (s : State) (g opc eng : Nat) (f : List W32) (st : Nat) : State :=
  if myTurn s g then specRun s g opc eng f st else s

/-- The shared shape: the frame, the checks before any access, then the action; SPVER never waits. -/
def specInstr (c : Ctl) (f : FmtA) (opc eng : Nat) (s : State) : Out :=
  engInstr c f s (fun s fm =>
    let kind := if opc = 0xF9 then Kind.read else Kind.write
    let ordered := s.isDet s.cur && opc != 0xF9
    let units := specUnits opc fm
    orFault s (faultIf (!specZero opc eng fm) fcIllegal ++ headFaults s (frd fm 0) kind ++ (specArrs opc eng fm).flatMap (arrFaults s) ++
        faultIf (ordered && decide ((s.core (s.coreOf s.cur)).units + units > detCap)) fcQuantum) (fun s =>
      let g := s.cur
      -- a failed check of the header leaves no part of the issue behind
      match (if ordered then Except.ok () else (specAct s g opc eng fm).map (fun _ => ())) with
      | .error e => .next (raise s e)
      | .ok _ =>
        let pc := s.me.pc
        let s := if opc = 0xF9 then s else wcDrainGroup s g
        let s := if ordered then s.modCore (s.coreOf g) (fun co => { co with units := co.units + units }) else s
        let s := (s.issueHeld c).holdMe pc c.setk.toNat (.spec opc eng fm f.st.toNat)
        .next (pollOwn s (fun s => if ordered then pollSpec s g opc eng fm f.st.toNat else specRun s g opc eng fm f.st.toNat))))

def execSpapp (c : Ctl) (f : FmtA) (s : State) : Out := specInstr c f 0xF8 0 s
def execSpverExact (c : Ctl) (f : FmtA) (s : State) : Out := specInstr c f 0xF9 0 s
def execSpverProb (c : Ctl) (f : FmtA) (s : State) : Out := specInstr c f 0xF9 1 s
def execSpacc (c : Ctl) (f : FmtA) (s : State) : Out := specInstr c f 0xFA 0 s
def execSprst (c : Ctl) (f : FmtA) (s : State) : Out := specInstr c f 0xFB 0 s

/-- ORDERED_ATOMIC_GRANT: the ordered-append unit looks at a group that waits for lower GSIDs (R318, R371). -/
def execOrderedAtomicGrant (g : Nat) (s : State) : Out :=
  let s := focusHold s g (fun k => match k with | .ordered _ | .spec _ _ _ _ => true | _ => false)
  match (s.grp g).hold with
  | some h => match h.kind with
    | .ordered id => .next (pollOrdered s g id)
    | .spec opc fn frame st => .next (pollSpec s g opc fn frame st)
    | _ => .next s
  | none => .next s

end Sys2Proof.Machine
end

