-- ==== Sys2Proof/Machine/Layout.lean ====
section
/-!
DEFINITION. Meshes, layouts and the exchange that a pair of layouts gives (R399 to R403, R406): pure functions of the bytes of a
descriptor and a mesh record.
-/
namespace Sys2Proof.Machine

/-- A field of a record: `k` bytes from offset `a`. -/
def fieldOf (b : List Byte) (a k : Nat) : Nat := ofBytes ((b.drop a).take k)

def prodOf (l : List Nat) : Nat := l.foldl (· * ·) 1

/-! ## Meshes (R399) -/

structure Mesh where
  sizes : List Nat
  ents : List Nat

/-- The number of axes and ranks that a header names; none when it is malformed. -/
def meshHead (h : List Byte) : Option (List Nat) :=
  let nax := fieldOf h 0 1
  let sz := (List.range 4).map (fun a => fieldOf h (4 + 2 * a) 2)
  if 1 ≤ nax && nax ≤ 4 && sz.all (fun x => decide (1 ≤ x)) && (sz.drop nax).all (· == 1) &&
      prodOf sz ≤ 65536 then some (sz.take nax) else none

/-- Entry `k` of a table of die ids and pod indexes; its bits [31:19], zero in the layout, are ignored as a reserved field is (R3, log 36). -/
def entAt (b : List Byte) (k : Nat) : Nat := fieldOf b (4 * k) 4 % 2 ^ 19

/-- The whole record: malformed where R399 says so. -/
def meshOf (b : List Byte) : Option Mesh :=
  match meshHead b with
  | none => none
  | some sz =>
    let es := (List.range (prodOf sz)).map (entAt (b.drop 64))
    if (distinct es).length = es.length then some ⟨sz, es⟩ else none

/-- The coordinates of a rank, axis 0 most significant. -/
def coordsOf (sizes : List Nat) (r : Nat) : List Nat :=
  (List.range sizes.length).map (fun a => r / prodOf (sizes.drop (a + 1)) % sizes.getD a 1)

/-! ## Layouts (R400, R401) -/

/-- The layout byte of an axis. -/
def layK (b : Nat) : Nat := b % 4
def layDim (b : Nat) : Nat := b / 4 % 4
def layOrd (b : Nat) : Nat := b / 16 % 4

/-- The axes that shard a dimension, in ORD order. -/
def shardAxes (lay : List Nat) (d : Nat) : List Nat :=
  (List.range 4).filterMap (fun o => (List.range lay.length).find? (fun a =>
    let b := lay.getD a 0
    layK b == 1 && layDim b == d && layOrd b == o))

def layoutOk (lay : List Nat) (nax ndim op : Nat) : Bool :=
  (lay.drop nax).all (· == 0) && (lay.take nax).all (fun b => decide (b < 64) && layK b != 3 && (layK b == 1 || b < 4) &&
    (layK b != 1 || decide (layDim b < ndim)) && (layK b != 2 || op == 1)) &&
  (List.range ndim).all (fun d =>
    let n := ((lay.take nax).filter (fun b => layK b == 1 && layDim b == d)).length
    (List.range n).all (fun o => ((lay.take nax).filter (fun b => layK b == 1 && layDim b == d && layOrd b == o)).length == 1))

/-- The block of a rank in one dimension: offset and extent. -/
def blockDim (sizes lay : List Nat) (dims : List Nat) (r d : Nat) : Nat × Nat :=
  let axes := shardAxes lay d
  let cs := coordsOf sizes r
  let n := prodOf (axes.map (fun a => sizes.getD a 1))
  let k := axes.foldl (fun k a => k * sizes.getD a 1 + cs.getD a 0) 0
  let e := dims.getD d 0 / n
  (k * e, e)

/-- The block of a rank in every dimension. -/
def blockBox (sizes lay dims : List Nat) (r : Nat) : List (Nat × Nat) := (List.range dims.length).map (blockDim sizes lay dims r)
def boxBytes (esz : Nat) (b : List (Nat × Nat)) : Nat := prodOf (b.map (·.2)) * esz
def dividesAll (sizes lay dims : List Nat) : Bool :=
  (List.range dims.length).all (fun d => dims.getD d 0 % prodOf ((shardAxes lay d).map (fun a => sizes.getD a 1)) == 0)

/-- Where two blocks meet: runs of offset in the first, offset in the second, length, all in elements. -/
def meetRuns : List (Nat × Nat) → List (Nat × Nat) → Nat → Nat → List (Nat × Nat × Nat)
  | [a], [b], i, j =>
    let lo := max a.1 b.1
    let hi := min (a.1 + a.2) (b.1 + b.2)
    if lo < hi then [(i * a.2 + (lo - a.1), j * b.2 + (lo - b.1), hi - lo)] else []
  | a :: as, b :: bs, i, j =>
    let lo := max a.1 b.1
    let hi := min (a.1 + a.2) (b.1 + b.2)
    (List.range (hi - lo)).flatMap (fun k => meetRuns as bs (i * a.2 + (lo + k - a.1)) (j * b.2 + (lo + k - b.1)))
  | _, _, _, _ => []

/-! ## The exchange (R402, R403) -/

/-- The kind of an exchange: bytes only, an all-reduce, or a reduce-scatter along a dimension. -/
inductive ExKind where
  | move (how dim : Nat)
  | allReduce
  | reduceScatter (dim : Nat)
  deriving DecidableEq, Repr

/-- The exchange on one axis that changes; none where the pair has none. -/
def axisKind (x y : Nat) : Option ExKind :=
  if layK x = 2 && layK y = 0 then some .allReduce
  else if layK x = 2 && layK y = 1 then some (.reduceScatter (layDim y))
  else if layK x = 1 && layK y = 0 then some (.move 1 (layDim x))
  else if layK x = 1 && layK y = 1 then (if layDim x = layDim y then some (.move 3 0) else some (.move 2 0))
  else none

/-- What COLL runs. -/
structure CollPlan where
  mesh : Mesh
  rank : Nat
  dims : List Nat
  sl : List Nat
  dl : List Nat
  esz : Nat
  dt : Nat
  setid : Nat
  src : Nat
  dst : Nat
  kind : ExKind
  /-- the ranks of the group in group-rank order -/
  group : List Nat

def dtSize (dt : Nat) : Nat := if dt = 0 then 8 else if dt = 1 then 4 else if dt = 2 || dt = 3 then 2 else 1

/-- The descriptor itself (R406). -/
def descOk (b : List Byte) : Bool :=
  let dt := fieldOf b 48 1
  let nd := fieldOf b 49 1
  let op := fieldOf b 50 1
  fieldOf b 0 8 % 64 = 0 && fieldOf b 8 8 % 16 = 0 && fieldOf b 16 8 % 16 = 0 && [0, 1, 2, 3, 9, 10].contains dt && 1 ≤ nd && nd ≤ 4 && op ≤ 1 &&
  (op = 0 || dt = 1 || dt = 2) && fieldOf b 52 4 ≠ 0 &&
  (List.range 4).all (fun d => decide (fieldOf b (24 + 4 * d) 4 < 2 ^ 31) && (decide (d < nd) || fieldOf b (24 + 4 * d) 4 == 0))

/-- The plan of a descriptor and a mesh record for a rank whose die and pod are `me`; none is COLL_LAYOUT. -/
def collPlan (desc meshB : List Byte) (rank me : Nat) : Option CollPlan :=
  match meshOf meshB with
  | none => none
  | some m =>
    let nd := fieldOf desc 49 1
    let op := fieldOf desc 50 1
    let dims := (List.range nd).map (fun d => fieldOf desc (24 + 4 * d) 4)
    let sl := (List.range 4).map (fun a => fieldOf desc (40 + a) 1)
    let dl := (List.range 4).map (fun a => fieldOf desc (44 + a) 1)
    let nax := m.sizes.length
    let esz := dtSize (fieldOf desc 48 1)
    let changed := (List.range nax).filter (fun a => sl.getD a 0 != dl.getD a 0)
    let kinds := changed.map (fun a => axisKind (sl.getD a 0) (dl.getD a 0))
    let kind := match kinds with
      | [] => some (ExKind.move 0 0)
      | k :: ks => if ks.all (· == k) then k else none
    let mine := coordsOf m.sizes rank
    let group := (List.range (prodOf m.sizes)).filter (fun r =>
      let c := coordsOf m.sizes r
      (List.range nax).all (fun a => changed.contains a || c.getD a 0 == mine.getD a 0))
    let fits := fun (l : List Nat) => dividesAll m.sizes (l.take nax) dims && boxBytes esz (blockBox m.sizes (l.take nax) dims rank) % 16 == 0
    if descOk desc && layoutOk sl nax nd op && layoutOk dl nax nd op && fits sl && fits dl && m.ents.getD rank (2 ^ 20) = me then
      kind.map (fun k => { mesh := m, rank := rank, dims := dims, sl := sl.take nax, dl := dl.take nax, esz := esz, dt := fieldOf desc 48 1,
                           setid := fieldOf desc 52 4, src := fieldOf desc 8 8, dst := fieldOf desc 16 8, kind := k, group := group })
    else none

def CollPlan.srcBox (p : CollPlan) (r : Nat) : List (Nat × Nat) := blockBox p.mesh.sizes p.sl p.dims r
def CollPlan.dstBox (p : CollPlan) (r : Nat) : List (Nat × Nat) := blockBox p.mesh.sizes p.dl p.dims r
def CollPlan.srcBytes (p : CollPlan) : Nat := boxBytes p.esz (p.srcBox p.rank)
def CollPlan.dstBytes (p : CollPlan) : Nat := boxBytes p.esz (p.dstBox p.rank)
def CollPlan.ent (p : CollPlan) (r : Nat) : Nat := p.mesh.ents.getD r 0
def CollPlan.reduces (p : CollPlan) : Bool := match p.kind with | .move _ _ => false | _ => true
/-- Byte runs where the source block of a rank meets the destination block of another: source offset, destination offset, length. -/
def CollPlan.runs (p : CollPlan) (i j : Nat) : List (Nat × Nat × Nat) :=
  (meetRuns (p.srcBox i) (p.dstBox j) 0 0).map (fun x => (p.esz * x.1, p.esz * x.2.1, p.esz * x.2.2))
/-- The part of runs whose source offsets lie from `lo` to below `hi`. -/
def clipRuns (lo hi : Nat) (l : List (Nat × Nat × Nat)) : List (Nat × Nat × Nat) :=
  l.filterMap (fun x =>
    let a := max lo x.1
    let b := min hi (x.1 + x.2.2)
    if a < b then some (a, x.2.1 + (a - x.1), b - a) else none)
def runBytes' (l : List (Nat × Nat × Nat)) : Nat := l.foldl (fun n x => n + x.2.2) 0

/-- A zero extent, or nobody to exchange with (R409). -/
def CollPlan.trivial (p : CollPlan) : Bool := p.dims.contains 0 || p.group.length == 1

/-- The switch path (R407): every member in this pod, 2 to 256 of them, at most 2^24 bytes. -/
def CollPlan.switched (p : CollPlan) (pod : Nat) : Bool :=
  p.reduces && decide (2 ≤ p.group.length) && decide (p.group.length ≤ 256) && decide (p.srcBytes ≤ 2 ^ 24) &&
  p.group.all (fun r => p.ent r / 256 == pod)

/-- The group rank of this participant. -/
def CollPlan.grank (p : CollPlan) : Nat := p.group.findIdx (· == p.rank)

end Sys2Proof.Machine
end

