-- ==== Sys2Proof/Machine/Chamois.lean ====
section
/-!
DEFINITION. COLL and CLRUN, opcodes 0xF3 and 0xF4, and the Chamois engine: channels (R397, R398), the two paths of an exchange (R407
to R410), command lists (R411 to R415), and the messages that end at a channel.
-/
namespace Sys2Proof.Machine

/-! ## Channels -/

def State.chan (s : State) (d c : Nat) : Chan := mget (s.die d).chans {} c
def State.modChan (s : State) (d c : Nat) (f : Chan → Chan) : State :=
  s.modDie d (fun x => { x with chans := mput x.chans c (f (mget x.chans {} c)) })

/-- The running operation of a channel. -/
def chanOp (s : State) (d c : Nat) : Option (Nat × EngOp) :=
  match (s.chan d c).op with
  | none => none
  | some (core, id) => (opAt s core id).map (fun o => (core, o))

/-- A die and pod as ENT names them (R399). -/
def entOf (s : State) (die : Nat) : Nat := die + 256 * s.podIndex

/-! ## Issue (R404, R405, R415) -/

/-- The place of an operation among those of its channel: cycle, core and partition of its issue (R397). -/
def colOp (s : State) (c : Ctl) (f : FmtA) (opc : Nat) (fm : List W32) : EngOp :=
  { newOp s c f opc 3 fm with extra := [(s.clock, 8 * s.coreOf s.cur + s.me.part)] }

def execColl (c : Ctl) (f : FmtA) (s : State) : Out :=
  engInstr c f s (fun s fm =>
    if !zeroFrom fm 8 || frd fm 0 % 64 != 0 || frd fm 4 % 32 != 0 || tbFieldBad (myLoc s) (fr fm 2) then
      rejectOp c f 3 (fr fm 2) fcCollLayout fcCollLayout s
    else acceptOp c (colOp s c f 0xF3 fm) s)

def execClrun (c : Ctl) (f : FmtA) (s : State) : Out :=
  engInstr c f s (fun s fm =>
    if !zeroFrom fm 2 || frd fm 0 % 64 != 0 then rejectOp c f 3 noTb fcCollLayout fcCollLayout s
    else acceptOp c (colOp s c f 0xF4 fm) s)

/-! ## The engine's memory (R416) -/

/-- Write generic memory without touching any L1; in a DET context it is buffered (R417). -/
def chWrite (s : State) (o : EngOp) (core va : Nat) (bytes : List Byte) : Except Nat State :=
  match virtCheck s o.ctx core .write va bytes.length with
  | some _ => .error fcCopy
  | none =>
    if opDet s o then .ok (detEng s o core va bytes.length (fun a n => .write ((bytes.drop a).take n)))
    else .ok ((pagePieces va bytes.length).foldl (fun s p => match translate s o.ctx core .write p.1 with
      | .error _ => s
      | .ok (e, pa) => physWrite s e.pol pa e.key ((bytes.drop p.2.1).take p.2.2)) s)

/-- Gather runs of memory, and scatter bytes to runs. -/
def chGather (s : State) (o : EngOp) (core : Nat) (runs : List (Nat × Nat)) : Except Nat (List Byte) :=
  runs.foldl (fun acc r => match acc with
    | .error e => .error e
    | .ok bs => match engRead s o core fcCopy r.1 r.2 with
      | .error e => .error e
      | .ok b => .ok (bs ++ b)) (.ok [])

def chScatter (s : State) (o : EngOp) (core : Nat) : List (Nat × Nat) → List Byte → Except Nat State
  | [], _ => .ok s
  | r :: rs, bs => match chWrite s o core r.1 (bs.take r.2) with
    | .error e => .error e
    | .ok s => chScatter s o core rs (bs.drop r.2)

def runTotal (runs : List (Nat × Nat)) : Nat := runs.foldl (fun n r => n + r.2) 0

/-- The completion record (R174, R408): the value, a range, zero. -/
def chRecord (s : State) (o : EngOp) (core rec val base len : Nat) : Except Nat State :=
  if rec = 0 then .ok s
  else match translate s o.ctx core .write rec with
    | .error _ => .error fcCopy
    | .ok (e, pa) =>
      if e.pol != 0 || !isHbm pa then .error fcCopy
      else chWrite s o core rec (toBytes 8 val ++ toBytes 8 base ++ toBytes 8 len ++ toBytes 8 0)

/-! ## The end of an operation -/

/-- The barriers of an operation: COLL's one, or those a list names (R405, R411). -/
def listTbs (desc : List Byte) : List Nat := (List.range 8).map (fun t => fieldOf desc (40 + 4 * t) 4)
def chTbs (ch : Chan) (o : EngOp) : List Nat :=
  if o.opc = 0xF3 then [fr o.frame 2] else if ch.desc.isEmpty then [] else distinct ((listTbs ch.desc).filter (· != noTb))

/-- The channel is free again. -/
def chFree (s : State) (d c : Nat) : State :=
  s.modChan d c (fun ch => { sends := ch.sends, recvs := ch.recvs })

/-- The running operation ends with a code, 0 for success. -/
def chEnd (s : State) (d c core : Nat) (o : EngOp) (code : Nat) : State := chFree (endOp s core o code) d c

/-- It fails: its barriers complete in error, and its batch records the code (R193, R408). -/
def chFail (s : State) (d c core : Nat) (o : EngOp) (code : Nat) : State :=
  chEnd ((chTbs (s.chan d c) o).foldl (fun s tb => tbFail s o.block o.rank tb code) s) d c core o code

/-! ## Transfers (R398, R413) -/

/-- Add a transfer to a channel. -/
def addXfer (s : State) (d c : Nat) (x : ChXfer) : State :=
  let id := s.nextId
  { s.modChan d c (fun ch => { ch with xfers := ch.xfers ++ [{ x with id := id }] }) with nextId := id + 1 }

def delXfer (s : State) (d c id : Nat) : State := s.modChan d c (fun ch => { ch with xfers := ch.xfers.filter (fun x => x.id != id) })

/-- The channel and transfer of a number. -/
def findXfer (s : State) (id : Nat) : Option (Nat × Nat × ChXfer) :=
  s.dies.findSome? (fun e => e.2.chans.findSome? (fun k => (k.2.xfers.find? (fun x => x.id == id)).map (fun x => (e.1, k.1, x))))

/-- The first unmatched pair of a send and its receive on channel `c` within the pod: dies and transfers. -/
def xferPair (s : State) (c : Nat) : Option (Nat × ChXfer × Nat × ChXfer) :=
  s.dies.findSome? (fun e => ((mget e.2.chans {} c).xfers.filter (fun x => x.send && !x.matched)).findSome? (fun x =>
    if x.peer / 256 ≠ s.podIndex then none
    else
      let d := x.peer % 256
      ((s.chan d c).xfers.find? (fun y => !y.send && !y.matched && y.peer == entOf s e.1 && y.tag == x.tag && y.idx == x.idx)).map
        (fun y => (e.1, x, d, y))))

/-- Change one transfer of a channel. -/
def modXfer (s : State) (d c id : Nat) (f : ChXfer → ChXfer) : State :=
  s.modChan d c (fun ch => { ch with xfers := ch.xfers.map (fun x => if x.id = id then f x else x) })

/-- A transfer is matched with number `k` of die `e`; `n` bytes are to move. -/
def setMatched (s : State) (d c id e k n : Nat) : State := modXfer s d c id (fun x => { x with matched := true, mate := (e, k), len := n })

/-- A failure of a list, or of a matched pair of unequal length, waits for the commands that have started (R414). -/
def setEnding (s : State) (d c code : Nat) : State :=
  s.modChan d c (fun ch => { ch with ending := some (match ch.ending with | some k => min k code | none => code) })

/-- `n` bytes of runs from offset `a`. -/
def cutRuns : List (Nat × Nat) → Nat → Nat → List (Nat × Nat)
  | [], _, _ => []
  | r :: rs, a, n =>
    if n = 0 then []
    else if r.2 ≤ a then cutRuns rs (a - r.2) n
    else (let k := min n (r.2 - a); (r.1 + a, k) :: cutRuns rs 0 (n - k))

/-- The bytes a send carries: how many, and `n` of them from offset `a`. -/
def ChXfer.size (x : ChXfer) : Nat :=
  match x.data with
  | some b => b.length
  | none => runTotal x.runs
def xferPart (s : State) (o : EngOp) (core : Nat) (x : ChXfer) (a n : Nat) : Except Nat (List Byte) :=
  match x.data with
  | some b => .ok ((b.drop a).take n)
  | none => chGather s o core (cutRuns x.runs a n)

/-- AUX of a message between channels: the number of the receiving transfer, or a plain mark for its answer. -/
def chAux : Nat := 2 ^ 40

/-- Send the next `n` bytes of a matched transfer as PUT messages of at most 256 bytes, each with its place in the transfer (R382, R398, log 40). -/
def sendPart (s : State) (d c core : Nat) (o : EngOp) (x : ChXfer) (n : Nat) (rsvd : Bool) : State :=
  match xferPart s o core x x.pos n with
  | .error e => chFail s d c core o e
  | .ok bytes =>
    let bodies := if n = 0 then [(0, [])] else bodiesOf bytes
    bodies.foldl (fun s b =>
      let at' := x.pos + 16 * b.1
      post s { mkMsg tPut d x.mate.1 at' with
        data := b.2, tid := x.id, aux := chAux + x.mate.2, ctx := o.ctx % 64, hi := hiOf s o.gid, rsvd := rsvd, last := at' + b.2.length == x.len })
      (modXfer s d c x.id (fun y => { y with pos := x.pos + n }))

/-- A matched transfer to another die of 4 KiB or more asks for space for its next chunk; any other leaves outright (R385, R398). -/
def xferGo (s : State) (d c core : Nat) (o : EngOp) (x : ChXfer) : State :=
  if d = x.mate.1 || x.len < 4096 then sendPart s d c core o x x.len false else askRsv s d x.mate.1 x.id o.ctx (x.len - x.pos)

/-- Match one pair: unequal lengths fail both sides; else its bytes begin to leave. -/
def matchPair (s : State) (c : Nat) (p : Nat × ChXfer × Nat × ChXfer) : State :=
  let (a, x, b, y) := p
  match chanOp s a c with
  | none => delXfer s a c x.id
  | some (core, o) =>
    if y.into.isNone && x.size ≠ runTotal y.runs then
      setEnding (setEnding (delXfer (delXfer s a c x.id) b c y.id) a c fcCollLayout) b c fcCollLayout
    else
      xferGo (setMatched (setMatched s a c x.id b y.id x.size) b c y.id a x.id x.size) a c core o { x with matched := true, mate := (b, y.id), len := x.size }

/-- Match what can be matched. -/
def matchAll (c : Nat) : Nat → State → State
  | 0, s => s
  | n + 1, s => match xferPair s c with
    | none => s
    | some p => matchAll c n (matchPair s c p)

def matching (s : State) (c : Nat) : State := matchAll c (s.dies.foldl (fun n e => n + (mget e.2.chans {} c).xfers.length) 0) s

/-- A send to another pod leaves the machine and counts as acknowledged (log 41). -/
def leavePod (s : State) (d c core : Nat) (o : EngOp) (x : ChXfer) : State :=
  match xferPart s o core x 0 x.size with
  | .error e => chFail s d c core o e
  | .ok _ => delXfer s d c x.id

/-- A transfer whose peer lies in another pod leaves at once. -/
def settlePods (s : State) (d c core : Nat) (o : EngOp) : State :=
  ((s.chan d c).xfers.filter (fun x => x.send && x.peer / 256 != s.podIndex)).foldl (fun s x =>
    if (opAt s core o.id).isNone then s
    else
      let s' := leavePod s d c core o x
      if (s'.chan d c).xfers.any (fun y => y.send && y.into.isSome && y.into == x.into) then s' else opArrive s' o x.tb x.count) s

/-! ## COLL: plan and progress -/

def chPlan (s : State) (d c : Nat) (o : EngOp) : Option CollPlan :=
  collPlan (s.chan d c).desc (s.chan d c).mesh (fr o.frame 3) (entOf s d)

/-- The set key of a COLL that takes the switch path. -/
def planKey (p : CollPlan) (o : EngOp) : Nat := redKey (p.ent (p.group.headD 0) % 256) o.ctx p.setid

/-- The barrier that a COLL counts against: none once it has fallen back (R410). -/
def collTb (ch : Chan) (o : EngOp) : Nat := if ch.fallback.isSome then noTb else fr o.frame 2

/-- Tags of COLL's transfers: exchanges and contributions, or results. -/
def collTag (p : CollPlan) (result : Bool) : Nat := 2 ^ 16 * p.setid + (if result then 1 else 0)

/-- First source byte of the software path: 0, or that of the chunk a fallback starts at. -/
def softFrom (ch : Chan) : Nat := 4096 * ch.fallback.getD 0

/-- Destination runs of this participant for the source bytes of group member `i` from `lo` to below `hi`. -/
def dstRuns (p : CollPlan) (i lo hi : Nat) : List (Nat × Nat) :=
  (clipRuns lo hi (p.runs i p.rank)).map (fun x => (p.dst + x.2.1, x.2.2))

/-- The chunks of a switch reduction whose result this participant takes. -/
def wantedChunks (p : CollPlan) : List Nat :=
  (List.range (chunkCount p.srcBytes)).filter (fun n => !(clipRuns (4096 * n) (4096 * n + 4096) (p.runs p.rank p.rank)).isEmpty)

/-- Every byte of DST has been performed and every send acknowledged. -/
def collDone (ch : Chan) (p : CollPlan) (pod : Nat) : Bool :=
  p.trivial || (ch.xfers.isEmpty &&
    (!p.switched pod || ((wantedChunks p).filter (fun n => decide (n < ch.fallback.getD (2 ^ 32)))).all (chunkLanded ch.landed.contains p.srcBytes)) &&
    (!(p.reduces && p.grank == 0 && (ch.fallback.isSome || !p.switched pod)) || ch.combined))

/-- Write own bytes and count them. -/
def ownBytes (s : State) (d c core : Nat) (o : EngOp) (runs : List (Nat × Nat)) (bytes : List Byte) : Option State :=
  match chScatter s o core runs bytes with
  | .error _ => none
  | .ok s => some (opArrive s o (collTb (s.chan d c) o) bytes.length)

/-- The end of a COLL: record, batch (R408, R409). -/
def collFinish (s : State) (d c core : Nat) (o : EngOp) (p : CollPlan) : State :=
  match chRecord s o core (frd o.frame 4) (frd o.frame 6) p.dst (if p.trivial then 0 else p.dstBytes) with
  | .error e => chFail s d c core o e
  | .ok s => chEnd s d c core o 0

/-- Group rank 0 has every contribution: it combines them, writes its own part and sends the others theirs (R407). -/
def collCombine (s : State) (d c core : Nat) (o : EngOp) (p : CollPlan) : State :=
  let ch := s.chan d c
  let lo := softFrom ch
  let res := redCombine p.dt (mvals ch.got)
  let cut := fun (l : List (Nat × Nat × Nat)) => l.flatMap (fun x => (res.drop (x.1 - lo)).take x.2.2)
  let mine := clipRuns lo p.srcBytes (p.runs p.rank p.rank)
  let s := s.modChan d c (fun ch => { ch with combined := true, got := [] })
  match ownBytes s d c core o (mine.map (fun x => (p.dst + x.2.1, x.2.2))) (cut mine) with
  | none => chFail s d c core o fcCopy
  | some s =>
    let s := (p.group.drop 1).foldl (fun s r =>
      let l := clipRuns lo p.srcBytes (p.runs p.rank r)
      if l.isEmpty then s
      else addXfer s d c { id := 0, send := true, peer := p.ent r, tag := collTag p true, idx := 0, runs := [], data := some (cut l), into := none,
                           tb := noTb, count := 0, matched := false }) s
    matching (settlePods s d c core o) c

/-- What a channel does after something has come in. -/
def chProgress (s : State) (d c : Nat) : State :=
  match chanOp s d c with
  | none => s
  | some (core, o) =>
    match (s.chan d c).ending with
    | some code => if (s.chan d c).xfers.isEmpty then chFail s d c core o code else s
    | none =>
      if o.opc ≠ 0xF3 then s
      else match chPlan s d c o with
        | none => s
        | some p =>
          let ch := s.chan d c
          let soft := p.reduces && p.grank == 0 && (ch.fallback.isSome || !p.switched s.podIndex) && !ch.combined && !p.trivial
          let s := if soft && ch.got.length = p.group.length then collCombine s d c core o p else s
          match chanOp s d c with
          | none => s
          | some (core, o) => if collDone (s.chan d c) p s.podIndex then collFinish s d c core o p else s

/-- The software path from where it starts: own bytes, sends and posted receives (R407). -/
def collSoft (s : State) (d c core : Nat) (o : EngOp) (p : CollPlan) : State :=
  let lo := softFrom (s.chan d c)
  let x : ChXfer := { id := 0, send := true, peer := 0, tag := collTag p false, idx := 0, runs := [], data := none, into := none, tb := noTb,
                      count := 0, matched := false }
  let tb := collTb (s.chan d c) o
  if p.reduces then
    let all := [(p.src + lo, p.srcBytes - lo)]
    if p.grank = 0 then
      match chGather s o core all with
      | .error e => chFail s d c core o e
      | .ok mine =>
        let s := s.modChan d c (fun ch => { ch with got := [(0, mine)] })
        let s := (List.range (p.group.length - 1)).foldl (fun s k =>
          addXfer s d c { x with send := false, peer := p.ent (p.group.getD (k + 1) 0), into := some (k + 1) }) s
        chProgress (matching (settlePods s d c core o) c) d c
    else
      let root := p.ent (p.group.headD 0)
      let s := addXfer s d c { x with peer := root, runs := all }
      let runs := dstRuns p p.rank lo p.srcBytes
      let s := if runs.isEmpty then s
        else addXfer s d c { x with send := false, peer := root, tag := collTag p true, runs := runs, tb := tb, count := runTotal runs }
      chProgress (matching (settlePods s d c core o) c) d c
  else
    let own := p.runs p.rank p.rank
    match chGather s o core (own.map (fun r => (p.src + r.1, r.2.2))) with
    | .error e => chFail s d c core o e
    | .ok bytes => match ownBytes s d c core o (own.map (fun r => (p.dst + r.2.1, r.2.2))) bytes with
      | none => chFail s d c core o fcCopy
      | some s =>
        let s := (p.group.filter (· != p.rank)).foldl (fun s r =>
          let out := p.runs p.rank r
          let s := if out.isEmpty then s else addXfer s d c { x with peer := p.ent r, runs := out.map (fun q => (p.src + q.1, q.2.2)) }
          let inn := p.runs r p.rank
          if inn.isEmpty then s
          else addXfer s d c { x with send := false, peer := p.ent r, runs := inn.map (fun q => (p.dst + q.2.1, q.2.2)), tb := tb,
                                      count := runBytes' inn }) s
        chProgress (matching (settlePods s d c core o) c) d c

/-- Part of the contribution of a COLL that takes the switch path: `n` bytes of the source from offset `a`, which is at a chunk's start (R407). -/
def collPart (s : State) (core : Nat) (o : EngOp) (p : CollPlan) (a n : Nat) (rsvd : Bool) : Except Nat State :=
  match engRead s o core fcCopy (p.src + a) n with
  | .error e => .error e
  | .ok src =>
    .ok ((bodiesOf src).foldl (fun s b =>
      let k := a / 16 + b.1
      redSend s core o (p.ent (p.group.headD 0) % 256) (redAddr p.setid (k / 256) (k % 256))
        ⟨p.grank, p.group.length, p.dt, p.srcBytes, (wantedChunks p).contains (k / 256), true⟩ rsvd (16 * k + b.2.length == p.srcBytes) b.2)
      (modOp s core o.id (fun o => { o with pieces := (List.range (chunkCount (a + n))).reverse })))

/-- The switch path: the source goes to the root, under reservations where it is large and the root another die (R385, R407). -/
def collSwitch (s : State) (core : Nat) (o : EngOp) (p : CollPlan) : Except Nat State :=
  let root := p.ent (p.group.headD 0) % 256
  if root = dieOfCore core || p.srcBytes < 4096 then collPart s core o p 0 p.srcBytes false
  else .ok (askRsv s (dieOfCore core) root o.id o.ctx p.srcBytes)

/-- Fields that every rank must give alike (R406). -/
def collFields (ch : Chan) : List Byte := (ch.desc.drop 24).take 32 ++ ch.mesh

/-- The members of the group in this pod that run the same set on the channel and disagree. -/
def collQuarrel (s : State) (d c : Nat) (p : CollPlan) : List Nat :=
  (p.group.filter (fun r => p.ent r / 256 == s.podIndex && p.ent r % 256 != d)).filterMap (fun r =>
    let e := p.ent r % 256
    match chanOp s e c with
    | some (_, o) =>
      if o.opc = 0xF3 && fieldOf (s.chan e c).desc 52 4 = p.setid && (s.chan e c).ending.isNone && collFields (s.chan e c) != collFields (s.chan d c)
      then some e else none
    | none => none)

/-- A COLL whose bytes have been read starts. -/
def collStart (s : State) (d c core : Nat) (o : EngOp) : State :=
  match chPlan s d c o with
  | none => chFail s d c core o fcCollLayout
  | some p =>
    let bad := collQuarrel s d c p
    if !bad.isEmpty then
      let s := bad.foldl (fun s e => match chanOp s e c with
        | some (core', o') => chFail s e c core' o' fcCollLayout
        | none => s) s
      chFail s d c core o fcCollLayout
    else match takeUnits s core o (bytesUnits p.dstBytes + (if frd o.frame 4 = 0 then 0 else detUnits 32)) with
      | none => chFail s d c core o fcQuantum
      | some s =>
        if p.trivial then
          let n := if p.dims.contains 0 || p.src = p.dst then 0 else p.srcBytes
          match chGather s o core [(p.src, n)] with
          | .error e => chFail s d c core o e
          | .ok bytes => match ownBytes s d c core o [(p.dst, n)] bytes with
            | none => chFail s d c core o fcCopy
            | some s => chProgress s d c
        else if p.switched s.podIndex then
          match collSwitch (modOp s core o.id (fun x => { x with extra := x.extra ++ [(planKey p o, 1)] })) core o p with
          | .error e => chFail s d c core o e
          | .ok s => s
        else collSoft s d c core o p

/-- A set fails at a chunk for a participant: its barrier completes in error, and the software path takes over from there (R410). -/
def collTimeout (s : State) (d c core : Nat) (o : EngOp) (chunk : Nat) : State :=
  match chPlan s d c o with
  | none => s
  | some p =>
    if (match (s.chan d c).fallback with | some k => decide (k ≤ chunk) | none => false) then s
    else
      let s := if (s.chan d c).fallback.isNone then tbFail s o.block o.rank (fr o.frame 2) fcCollTimeout else s
      let s := s.modChan d c (fun ch => { ch with fallback := some chunk, since := s.clock, xfers := [], got := [], combined := false })
      collSoft s d c core o p

/-- A part of a result chunk lands at a participant; the chunk's bytes are counted when all of it has landed (R408). -/
def collLand (s : State) (d c core : Nat) (o : EngOp) (addr : Nat) (data : List Byte) : State :=
  match chPlan s d c o with
  | none => s
  | some p =>
    let chunk := addrChunk addr
    let mark := 256 * chunk + addrAt addr
    let lo := 16 * mark
    let own := p.runs p.rank p.rank
    let l := clipRuns lo (lo + data.length) own
    let ch := s.chan d c
    if ch.landed.contains mark || chunk ≥ ch.fallback.getD (2 ^ 32) then s
    else match chScatter s o core (l.map (fun x => (p.dst + x.2.1, x.2.2))) (l.flatMap (fun x => (data.drop (x.1 - lo)).take x.2.2)) with
      | .error _ => chFail s d c core o fcCopy
      | .ok s =>
        let s := s.modChan d c (fun ch => { ch with landed := mark :: ch.landed })
        if !chunkLanded (mark :: ch.landed).contains p.srcBytes chunk then s
        else chProgress (opArrive s o (collTb ch o) (runBytes' (clipRuns (4096 * chunk) (4096 * chunk + 4096) own))) d c

/-! ## Command lists (R411 to R414) -/

def nslot (b : List Byte) : Nat := fieldOf b 0 2
def ncmd (b : List Byte) : Nat := fieldOf b 2 2
def npeer (b : List Byte) : Nat := fieldOf b 16 4

/-- A well-formed header. -/
def listOk (l : Local) (h : List Byte) : Bool :=
  nslot h ≤ 255 && 1 ≤ ncmd h && 1 ≤ npeer h && npeer h ≤ 65536 && fieldOf h 4 4 < npeer h && fieldOf h 8 8 % 4 = 0 && fieldOf h 20 4 = 0 &&
  fieldOf h 24 8 % 32 = 0 && fieldOf h 72 1 ≤ 2 && fieldOf h 73 55 = 0 && (listTbs h).all (fun t => !tbFieldBad l t)

/-- One command's fields. -/
structure Cmd where
  typ : Nat
  fl : Nat
  a : Nat
  b : Nat
  x : Nat
  deriving DecidableEq, Repr

def cmdAt (desc : List Byte) (k : Nat) : Cmd :=
  let w := fieldOf desc (128 + 16 * nslot desc + 8 * k) 8
  ⟨bitsN w 60 4, bitsN w 56 4, bitsN w 48 8, bitsN w 40 8, bitsN w 0 40⟩

/-- A slot's address and length for a loop index; none when the slot does not exist or breaks R411. -/
def slotAt (desc : List Byte) (i slot : Nat) : Option (Nat × Nat) :=
  let base := fieldOf desc (128 + 16 * slot) 8
  let len := fieldOf desc (136 + 16 * slot) 4
  let stride := sgn 32 (fieldOf desc (140 + 16 * slot) 4)
  if slot < nslot desc && base % 16 = 0 && len % 16 = 0 && stride % 16 = 0 then some (wrap 64 ((base : Int) + stride * i), len) else none

/-- The barrier a data command counts against: none to count nothing; an error when the entry is none. -/
def cmdTb (desc : List Byte) (m : Cmd) : Option Nat :=
  if m.fl < 8 then some noTb
  else
    let t := (listTbs desc).getD (m.fl % 8) noTb
    if t = noTb then none else some t

/-- Index of the innermost open loop. -/
def loopIndex (ch : Chan) : Nat := match ch.loops with | l :: _ => l.2.2 | [] => 0

/-- After a command: a list that has run out, or a reserved TYPE next, fails it (R414). -/
def listLook (s : State) (d c : Nat) : State :=
  let ch := s.chan d c
  let s := if ch.pos ≥ ncmd ch.desc || (cmdAt ch.desc ch.pos).typ ≥ 12 then setEnding s d c fcCollLayout else s
  chProgress s d c

/-- Move on to the next command. -/
def listNext (s : State) (d c : Nat) : State := listLook (s.modChan d c (fun ch => { ch with pos := ch.pos + 1 })) d c

/-- A command that breaks R412 or R414. -/
def listBad (s : State) (d c : Nat) : State := chProgress (setEnding s d c fcCollLayout) d c

/-- The command of a type that a channel is to run now; a pre-empted list waits for its restore (R417). -/
def withCmd (s : State) (d c typ : Nat) (k : Nat → EngOp → Cmd → Out) : Out :=
  match chanOp s d c with
  | none => .next s
  | some (core, o) =>
    let ch := s.chan d c
    if o.opc ≠ 0xF4 || ch.ending.isSome || ch.pos ≥ ncmd ch.desc || (s.blk o.block).stage = .saved || (s.pkg (d / 2)).linkRetrain then .next s
    else
      let m := cmdAt ch.desc ch.pos
      if m.typ ≠ typ then .next s else k core o m

/-- How many transfers a peer and tag have had. -/
def seqKeyOf (peer tag : Nat) : Nat := peer * 2 ^ 16 + tag

/-- Start a send or post a receive of the list's operation. -/
def startXfer (s : State) (d c : Nat) (x : ChXfer) : State :=
  let ch := s.chan d c
  let k := seqKeyOf x.peer x.tag
  if x.send then
    addXfer (s.modChan d c (fun ch => { ch with sends := mput ch.sends k (mget ch.sends 0 k + 1) })) d c { x with idx := mget ch.sends 0 k }
  else
    addXfer (s.modChan d c (fun ch => { ch with recvs := mput ch.recvs k (mget ch.recvs 0 k + 1) })) d c { x with idx := mget ch.recvs 0 k }

/-- SEND and RECV (R412, R413). -/
def sendRecv (s : State) (d c : Nat) (send : Bool) : Out :=
  withCmd s d c (if send then 0 else 1) (fun core o m =>
    let ch := s.chan d c
    match slotAt ch.desc (loopIndex ch) m.a, cmdTb ch.desc m with
    | some (va, len), some tb =>
      if m.b ≠ 0 || m.x / 2 ^ 32 ≠ 0 || m.x % 2 ^ 16 ≥ npeer ch.desc then .next (listBad s d c)
      else
        let s := startXfer s d c { id := 0, send := send, peer := entAt ch.mesh (m.x % 2 ^ 16), tag := m.x / 2 ^ 16, idx := 0,
                                   runs := [(va, len)], data := none, into := none, tb := tb, count := len, matched := false }
        .next (listNext (matching (settlePods s d c core o) c) d c)
    | _, _ => .next (listBad s d c))

def execClSend (die ch : Nat) (s : State) : Out := sendRecv s die ch true
def execClRecv (die ch : Nat) (s : State) : Out := sendRecv s die ch false

/-- MCAST: a send to every peer but SELF, counted when the last is acknowledged. -/
def execClMcast (die ch : Nat) (s : State) : Out :=
  withCmd s die ch 4 (fun core o m =>
    let k := s.chan die ch
    match slotAt k.desc (loopIndex k) m.a, cmdTb k.desc m with
    | some (va, len), some tb =>
      if m.b ≠ 0 || m.x / 2 ^ 32 ≠ 0 || m.x % 2 ^ 16 ≠ 0 then .next (listBad s die ch)
      else
        let ps := (List.range (npeer k.desc)).filter (fun p => p != fieldOf k.desc 4 4)
        let mark := s.nextId
        let s := ps.foldl (fun s p => startXfer s die ch
          { id := 0, send := true, peer := entAt k.mesh p, tag := m.x / 2 ^ 16, idx := 0, runs := [(va, len)], data := none,
            into := some mark, tb := tb, count := ps.length * len, matched := false }) s
        let s := if ps.isEmpty then opArrive s o tb 0 else s
        .next (listNext (matching (settlePods s die ch core o) ch) die ch)
    | _, _ => .next (listBad s die ch))

/-- REDUCE: `n` contributions at slot A into slot B by R50. -/
def execClReduce (die ch : Nat) (s : State) : Out :=
  withCmd s die ch 2 (fun core o m =>
    let k := s.chan die ch
    let dt := fieldOf k.desc 72 1
    match slotAt k.desc (loopIndex k) m.a, slotAt k.desc (loopIndex k) m.b, cmdTb k.desc m with
    | some (a, _), some (b, len), some tb =>
      if m.x = 0 || m.x ≥ 2 ^ 16 || dt = 0 then .next (listBad s die ch)
      else match chGather s o core [(a, m.x * len)] with
        | .error e => .next (chFail s die ch core o e)
        | .ok src => match chWrite s o core b (redCombine dt ((List.range m.x).map (fun j => (src.drop (j * len)).take len))) with
          | .error e => .next (chFail s die ch core o e)
          | .ok s => .next (listNext (opArrive s o tb len) die ch)
    | _, _, _ => .next (listBad s die ch))

/-- COPY: slots of equal length. -/
def execClCopy (die ch : Nat) (s : State) : Out :=
  withCmd s die ch 3 (fun core o m =>
    let k := s.chan die ch
    match slotAt k.desc (loopIndex k) m.a, slotAt k.desc (loopIndex k) m.b, cmdTb k.desc m with
    | some (a, n), some (b, len), some tb =>
      if m.x ≠ 0 || n ≠ len then .next (listBad s die ch)
      else match chGather s o core [(a, len)] with
        | .error e => .next (chFail s die ch core o e)
        | .ok src => match chWrite s o core b src with
          | .error e => .next (chFail s die ch core o e)
          | .ok s => .next (listNext (opArrive s o tb len) die ch)
    | _, _, _ => .next (listBad s die ch))

/-- The barrier that WAITB and ARRIVE name. -/
def plainTb (desc : List Byte) (m : Cmd) : Option Nat := if m.fl ≥ 8 then none else cmdTb desc { m with fl := m.fl + 8 }

/-- WAITB: the channel waits for a parity; an error phase fails the operation with its code. A word that is not LIVE fails it as R198
gives the code. -/
def execClWaitb (die ch : Nat) (s : State) : Out :=
  withCmd s die ch 5 (fun core o m =>
    match plainTb (s.chan die ch).desc m with
    | none => .next (listBad s die ch)
    | some tb =>
      if m.a ≠ 0 || m.b ≠ 0 || m.x ≥ 2 then .next (listBad s die ch)
      else
        let l := opLoc s o
        let w := tbGet l tb
        if tbTag l tb ≠ tagLive then .next (chFail s die ch core o (deadCode (tbTag l tb)))
        else if w.ph = m.x then .next s
        else if w.er = 1 then .next (chFail s die ch core o w.fc)
        else .next (listNext s die ch))

/-- Every earlier data command has completed (R413). -/
def drained (s : State) (d c : Nat) : Bool := (s.chan d c).xfers.isEmpty

/-- SIGNAL: set or add, as a release at SCOPE after every earlier data command. -/
def execClSignal (die ch : Nat) (s : State) : Out :=
  withCmd s die ch 6 (fun core o m =>
    let k := s.chan die ch
    match slotAt k.desc (loopIndex k) m.a with
    | none => .next (listBad s die ch)
    | some (va, _) =>
      if m.b ≠ 0 || m.fl % 8 ≠ 0 then .next (listBad s die ch)
      else if !drained s die ch then .next s
      else match translate s o.ctx core .write va with
        | .error _ => .next (chFail s die ch core o fcCopy)
        | .ok (e, pa) =>
          if e.pol ≠ 0 then .next (chFail s die ch core o fcCopy)
          else if opDet s o then
            .next (listNext (detEng s o core va 8 (fun _ _ => if m.fl = 8 then .red false 0 (toBytes 8 m.x) else .write (toBytes 8 m.x))) die ch)
          else
            let r := sigAtHome s e.pol e.key pa m.x (m.fl = 8)
            if r.2 then .next (chFail r.1 die ch core o fcUncorrectable) else .next (listNext r.1 die ch))

/-- ARRIVE: one arrival on a barrier. -/
def execClArrive (die ch : Nat) (s : State) : Out :=
  withCmd s die ch 7 (fun _ o m =>
    match plainTb (s.chan die ch).desc m with
    | none => .next (listBad s die ch)
    | some tb =>
      if m.a ≠ 0 || m.b ≠ 0 || m.x ≠ 0 then .next (listBad s die ch)
      else if !drained s die ch then .next s
      else
        let tag := tbTag (opLoc s o) tb
        let s := if tag = tagLive then tbUpdate s o.block o.rank tb 1 0 else markOp s o.gid o.id (deadCode tag)
        .next (listNext s die ch))

/-- The position after the ENDLOOP that closes the loop opened before `pos`. -/
def afterLoop (desc : List Byte) : Nat → Nat → Nat → Option Nat
  | 0, _, _ => none
  | n + 1, pos, depth =>
    if pos ≥ ncmd desc then none
    else
      let t := (cmdAt desc pos).typ
      if t = 8 then afterLoop desc n (pos + 1) (depth + 1)
      else if t = 9 then (if depth = 0 then some (pos + 1) else afterLoop desc n (pos + 1) (depth - 1))
      else afterLoop desc n (pos + 1) depth

/-- LOOP: at most 4 deep; no iterations skip to the matching ENDLOOP. -/
def execClLoop (die ch : Nat) (s : State) : Out :=
  withCmd s die ch 8 (fun _ _ m =>
    let k := s.chan die ch
    if m.fl ≠ 0 || m.a ≠ 0 || m.b ≠ 0 || m.x ≥ 2 ^ 16 || k.loops.length ≥ 4 then .next (listBad s die ch)
    else if m.x = 0 then
      match afterLoop k.desc (ncmd k.desc) (k.pos + 1) 0 with
      | none => .next (listBad s die ch)
      | some p => .next (listLook (s.modChan die ch (fun k => { k with pos := p })) die ch)
    else .next (listNext (s.modChan die ch (fun k => { k with loops := (k.pos + 1, m.x, 0) :: k.loops })) die ch))

/-- ENDLOOP: the next iteration, or the loop closes. -/
def execClEndloop (die ch : Nat) (s : State) : Out :=
  withCmd s die ch 9 (fun _ _ m =>
    match (s.chan die ch).loops with
    | [] => .next (listBad s die ch)
    | l :: ls =>
      if m.fl ≠ 0 || m.a ≠ 0 || m.b ≠ 0 || m.x ≠ 0 then .next (listBad s die ch)
      else if l.2.2 + 1 < l.2.1 then
        .next (listLook (s.modChan die ch (fun k => { k with pos := l.1, loops := (l.1, l.2.1, l.2.2 + 1) :: ls })) die ch)
      else .next (listNext (s.modChan die ch (fun k => { k with loops := ls })) die ch))

/-- RANGE: the record's range. -/
def execClRange (die ch : Nat) (s : State) : Out :=
  withCmd s die ch 10 (fun _ _ m =>
    let k := s.chan die ch
    match slotAt k.desc (loopIndex k) m.a with
    | none => .next (listBad s die ch)
    | some r =>
      if m.fl ≠ 0 || m.b ≠ 0 || m.x ≠ 0 then .next (listBad s die ch)
      else if !drained s die ch then .next s
      else .next (listNext (s.modChan die ch (fun k => { k with range := r })) die ch))

/-- END: the record, then the batch (R414). -/
def execClEnd (die ch : Nat) (s : State) : Out :=
  withCmd s die ch 11 (fun core o m =>
    let k := s.chan die ch
    if m.fl ≠ 0 || m.a ≠ 0 || m.b ≠ 0 || m.x ≠ 0 then .next (listBad s die ch)
    else if !drained s die ch then .next s
    else match chRecord s o core (fieldOf k.desc 24 8) (fieldOf k.desc 32 8) k.range.1 k.range.2 with
      | .error e => .next (chFail s die ch core o e)
      | .ok s => .next (chEnd s die ch core o 0))

/-- Commit-buffer units of a list: its writing commands, times the iterations of the loops around them (R303). -/
def listUnits (desc : List Byte) : Nat → Nat → List Nat → Nat
  | 0, _, _ => 0
  | n + 1, pos, loops =>
    let m := cmdAt desc pos
    let times := prodOf loops
    let slotUnits := fun (x : Nat) => times * bytesUnits (fieldOf desc (136 + 16 * x) 4)
    let here := if m.typ = 1 then slotUnits m.a else if m.typ = 2 || m.typ = 3 then slotUnits m.b else if m.typ = 6 then times * detUnits 8 else 0
    let loops := if m.typ = 8 then (m.x % 2 ^ 16) :: loops else if m.typ = 9 then loops.drop 1 else loops
    here + listUnits desc n (pos + 1) loops

/-- A list that has been read starts. -/
def listStart (s : State) (d c core : Nat) (o : EngOp) : State :=
  let b := (s.chan d c).desc
  match takeUnits s core o (listUnits b (ncmd b) 0 [] + (if fieldOf b 24 8 = 0 then 0 else detUnits 32)) with
  | none => chFail s d c core o fcQuantum
  | some s => listLook s d c

/-! ## Starting an operation (R397, R406, R411) -/

/-- The operation that a channel takes next: by cycle, core and partition of its issue, of a cycle that is over. -/
def chNext (s : State) (d c : Nat) : Option (Nat × EngOp) :=
  let all := s.cores.flatMap (fun e => if dieOfCore e.1 = d then (e.2.colQ.filter (fun o => o.eng == c && !o.started && decide ((o.extra.headD (0, 0)).1 < s.clock) && (s.blk o.block).stage != .saved)).map (fun o => (e.1, o)) else [])
  let key := fun (o : EngOp) => o.extra.headD (0, 0)
  all.foldl (fun best x => match best with
    | none => some x
    | some b =>
      let kx := key x.2
      let kb := key b.2
      if kx.1 < kb.1 || (kx.1 = kb.1 && (kx.2 < kb.2 || (kx.2 = kb.2 && x.2.id < b.2.id))) then some x else best) none

/-- What an operation reads at its start: COLL's descriptor and mesh record, or the list and the peer table. -/
def chRead (s : State) (core : Nat) (o : EngOp) : Except Nat (List Byte × List Byte) :=
  let rd := fun va n => engRead s o core fcCopy va n
  if o.opc = 0xF3 then
    match rd (frd o.frame 0) 64 with
    | .error e => .error e
    | .ok desc =>
      let va := fieldOf desc 0 8
      if va % 64 ≠ 0 then .error fcCollLayout
      else match rd va 64 with
        | .error e => .error e
        | .ok h => match meshHead h, translate s o.ctx core .read va with
          | some sz, .ok (e, pa) =>
            if e.pol ≠ 0 || !isHbm pa then .error fcCollLayout
            else match rd (va + 64) (4 * prodOf sz) with
              | .error e => .error e
              | .ok es => .ok (desc, h ++ es)
          | _, _ => .error fcCollLayout
  else
    match rd (frd o.frame 0) 128 with
    | .error e => .error e
    | .ok h =>
      if !listOk (opLoc s o) h then .error fcCollLayout
      else match rd (frd o.frame 0 + 128) (16 * nslot h + 8 * ncmd h), rd (fieldOf h 8 8) (4 * npeer h) with
        | .ok l, .ok ps => .ok (h ++ l, ps)
        | .error e, _ => .error e
        | _, .error e => .error e

/-- CHAMOIS_OP_START. -/
def execChamoisOpStart (die ch : Nat) (s : State) : Out :=
  if (s.chan die ch).op.isSome || (s.pkg (die / 2)).linkRetrain then .next s
  else match chNext s die ch with
    | none => .next s
    | some (core, o) =>
      let s := modOp s core o.id (fun o => { o with started := true })
      let s := s.modChan die ch (fun k => { k with op := some (core, o.id) })
      match chRead s core o with
      | .error e => .next (chFail s die ch core o e)
      | .ok (desc, mesh) =>
        let s := s.modChan die ch (fun k => { k with desc := desc, mesh := mesh })
        .next (if o.opc = 0xF3 then collStart s die ch core o else listStart s die ch core o)

/-! ## Messages that end at a channel -/

/-- Bytes arrive for a posted receive, `off` bytes into it; with the last of its `x.len` bytes it is done. -/
def chLand (s : State) (d c : Nat) (y : ChXfer) (off : Nat) (bytes : List Byte) : State :=
  match chanOp s d c with
  | none => delXfer s d c y.id
  | some (core, o) =>
    let over' := y.len ≤ y.pos + bytes.length
    match y.into with
    | some k =>
      let all := y.data.getD [] ++ bytes
      if over' then chProgress ((delXfer s d c y.id).modChan d c (fun ch => { ch with got := mput ch.got k all })) d c
      else modXfer s d c y.id (fun y => { y with data := some all, pos := y.pos + bytes.length })
    | none => match chScatter s o core (cutRuns y.runs off bytes.length) bytes with
      | .error e => chFail s d c core o e
      | .ok s =>
        if over' then chProgress (opArrive (delXfer s d c y.id) o y.tb y.count) d c
        else modXfer s d c y.id (fun y => { y with pos := y.pos + bytes.length })

/-- `n` bytes of a send are acknowledged; a multicast counts with the last of its sends. -/
def chAcked (s : State) (d c : Nat) (x : ChXfer) (n : Nat) : State :=
  match chanOp s d c with
  | none => delXfer s d c x.id
  | some (_, o) =>
    if x.acked + n < x.len then modXfer s d c x.id (fun x => { x with acked := x.acked + n })
    else
      let s := delXfer s d c x.id
      let more := x.into.isSome && (s.chan d c).xfers.any (fun y => y.send && y.into == x.into)
      chProgress (if more then s else opArrive s o x.tb x.count) d c

/-- A chunk of a channel's transfer, or of a COLL's contribution to a switch reduction, has its space: it leaves, and space for the next chunk is
asked for. A contribution ends before the chunk at which its set failed (R410). -/
def chGranted (s : State) (k : Nat) (r : Rsv) : State :=
  match findXfer s r.op with
  | some (d, c, x) => (match chanOp s d c with
    | none => s
    | some (core, o) =>
      let s := sendPart { s with rsvs := mdel s.rsvs k } d c core o x r.bytes true
      let left := x.len - (x.pos + r.bytes)
      if left = 0 || (opAt s core o.id).isNone then s else askRsv s d x.mate.1 x.id o.ctx left)
  | none => match findOp s r.op with
    | some (core, o) =>
      if o.opc ≠ 0xF3 then s
      else match chPlan s (dieOfCore core) o.eng o with
        | none => s
        | some p =>
          let s := { s with rsvs := mdel s.rsvs k }
          let pos := 4096 * o.pieces.length
          let stop := min p.srcBytes (4096 * (s.chan (dieOfCore core) o.eng).fallback.getD (2 ^ 32))
          if stop ≤ pos then s
          else
            let n := min r.bytes (stop - pos)
            match collPart s core o p pos n true with
            | .error e => chFail s (dieOfCore core) o.eng core o e
            | .ok s => if pos + n < stop then askRsv s (dieOfCore core) r.dst o.id o.ctx (p.srcBytes - (pos + n)) else s
    | none => s

/-- GNT: the chunk may be sent; an operation of the copy engine sends it piece by piece. -/
def execMsgGnt (id : Nat) (s : State) : Out :=
  match arriving s id tGnt with
  | none => .next s
  | some m =>
    let s := taken s id m
    let s := { s with rsvs := mupd s.rsvs m.tid (fun r => { r with granted := some s.clock }) }
    match mget? s.rsvs m.tid with
    | none => .next s
    | some r => .next (chGranted s m.tid r)

/-- PUT: payload of a channel's transfer, or of a copy-engine operation. -/
def execMsgPut (id : Nat) (s : State) : Out :=
  match arriving s id tPut with
  | none => .next s
  | some m =>
    if m.aux < chAux then .next (putArrive s id m)
    else if (s.pkg (m.dst / 2)).linkRetrain then .next s
    else
      let s := taken s id m
      let s := match findXfer s (m.aux - chAux) with
        | some (d, c, y) => chLand s d c y m.addr m.data
        | none => s
      .next (post s { mkMsg tPutA m.dst m.src m.data.length with tid := m.tid, aux := chAux, ctx := m.ctx, hi := m.hi })

/-- PUTA: a channel's send is acknowledged, a contribution of a COLL is refused, or an answer to the copy engine. -/
def execMsgPuta (id : Nat) (s : State) : Out :=
  match arriving s id tPutA with
  | none => .next s
  | some m =>
    let s := taken s id m
    if m.aux = chAux then
      match findXfer s m.tid with
      | some (d, c, x) => .next (chAcked s d c x m.addr)
      | none => .next s
    else match waitingOp s m.tid with
      | some (core, o) =>
        if o.cls ≠ 3 then .next (putAcked s m.tid m.aux)
        else if m.aux = fcCollTimeout then .next (collTimeout s (dieOfCore core) o.eng core o m.addr)
        else if m.aux = 0 then .next s
        else .next (chFail s (dieOfCore core) o.eng core o m.aux)
      | none => .next s

/-- The channel whose COLL runs a set on a die. -/
def collAt (s : State) (die cx setid : Nat) : Option (Nat × Nat × EngOp) :=
  (s.die die).chans.findSome? (fun e => match chanOp s die e.1 with
    | some (core, o) =>
      if o.opc = 0xF3 && o.ctx % 64 = cx && fieldOf e.2.desc 52 4 = setid then some (e.1, core, o) else none
    | none => none)

/-- RDR: a result chunk reaches a participant. -/
def execMsgRdr (id : Nat) (s : State) : Out :=
  match arriving s id tRdr with
  | none => .next s
  | some m =>
    if (s.pkg (m.dst / 2)).linkRetrain then .next s
    else
    let s := taken s id m
    match redOpAt s m.dst m.ctx (addrSet m.addr) with
    | some (core, o) => .next (redLand s core o m.addr m.data)
    | none => match collAt s m.dst m.ctx (addrSet m.addr) with
      | some (c, core, o) => .next (collLand s m.dst c core o m.addr m.data)
      | none => .next s

/-- Tell every participant that runs a set that it has failed at a chunk: the ranks told. -/
def redTell (s : State) (key chunk : Nat) : State × List Nat :=
  let plain := s.cores.flatMap (fun e => (e.2.copyQ.filter (fun o => isSwitchRed o && o.started && opRedKey o == key)).map (fun o => (e.1, o)))
  let s1 := plain.foldl (fun s x => failOp s x.1 x.2 (fabFrame x.2).tb fcCollTimeout) s
  let colls := s1.dies.flatMap (fun e => e.2.chans.filterMap (fun k => match chanOp s1 e.1 k.1 with
    | some (core, o) => if (o.extra.getD 1 (0, 0)) = (key, 1) then some (e.1, k.1, core, o) else none
    | none => none))
  let ranks := plain.map (fun x => fr x.2.frame 9) ++ colls.filterMap (fun x => (chPlan s1 x.1 x.2.1 x.2.2.2).map CollPlan.grank)
  (colls.foldl (fun s x => collTimeout s x.1 x.2.1 x.2.2.1 x.2.2.2 chunk) s1, ranks)

/-- REDUCTION_DEADLINE: 50 µs after a chunk's head, a missing contribution fails the set (R391, R410). -/
def execReductionDeadline (setid chunk : Nat) (s : State) : Out :=
  match mget? s.redSets setid with
  | none => .next s
  | some r => match mget? r.chunks chunk with
    | none => .next s
    | some ch =>
      let root := setid / 2 ^ 38
      if elapsedUs s (root / 2) ch.head < 50 then .next s
      else
        let r := { r with failedAt := some (match r.failedAt with | some k => min k chunk | none => chunk), chunks := mfilter (fun k _ => decide (k < chunk)) r.chunks }
        let (s, told) := redTell { s with redSets := mput s.redSets setid r } setid chunk
        .next (redSweep { s with redSets := mupd s.redSets setid (fun r => { r with told := told.foldl sadd r.told }) } setid)

/-- FALLBACK_WATCHDOG_LIMIT: a fallback whose members have not all contributed in time fails (R410). -/
def execFallbackWatchdogLimit (die ch : Nat) (s : State) : Out :=
  match chanOp s die ch with
  | none => .next s
  | some (core, o) =>
    let k := s.chan die ch
    let w := (s.ctx o.ctx).wdog
    if k.fallback.isSome && elapsedUs s (die / 2) k.since ≥ (if w = 0 then 2 ^ 32 else w) then .next (chEnd s die ch core o fcCollTimeout)
    else .next s

/-- ULTRA_ETHERNET_DELIVERY: bytes of a transfer from another pod reach their posted receive; unequal lengths fail it (R398). -/
def execUltraEthernetDelivery (q : UePacket) (s : State) : Out :=
  match (s.chan q.die q.ch).xfers.find? (fun y => !y.send && !y.matched && y.peer == q.peer && y.tag == q.tag && y.idx == q.idx &&
      y.peer / 256 != s.podIndex) with
  | none => .next s
  | some y =>
    if y.into.isNone && q.bytes.length ≠ runTotal y.runs then
      .next (chProgress (setEnding (delXfer s q.die q.ch y.id) q.die q.ch fcCollLayout) q.die q.ch)
    else .next (chLand s q.die q.ch { y with len := q.bytes.length } 0 q.bytes)

end Sys2Proof.Machine
end

