-- ==== Sys2Proof/Machine/Links.lean ====
section
/-!
DEFINITION. The links: refusals and acknowledgements (R384 to R386), ports that retrain or go down and what is lost there (R379, R387),
dropped messages and requests (R380, R383), the die link (R329), and resets (R6, R379).
-/
namespace Sys2Proof.Machine

/-! ## Refusals (R385, R386) -/

/-- NAK: the receiver refuses a message sent outright; RSP and reserved messages are never refused. Its sequence stalls, and the
sender starts its back-off. -/
def execMsgNak (id : Nat) (s : State) : Out :=
  match mget? s.net id with
  | none => .next s
  | some m =>
    let k := seqKey m
    if m.rsvd || m.cls = 2 || !sequenced m.typ || (mget? s.retryStore id).isNone || (arriving s id m.typ).isNone then .next s
    else .next { s with
      recvSeq := mmod s.recvSeq {} k (fun r => { r with refused := m.seq })
      sendSeq := mmod s.sendSeq {} k (fun q => { q with refused := m.seq, naks := q.naks + 1, since := s.clock }) }

/-- The package that sends a sequence. -/
def seqPkg (sk : Nat) : Nat := sk / 16 / 256 / 2

/-- NAK_BACKOFF_EXPIRY: after 1 µs · 2^min(n, 6), n counting the NAKs before the last one, the messages go out again. -/
def execNakBackoffExpiry (sk : Nat) (s : State) : Out :=
  let q := mget s.sendSeq {} sk
  let wait : Nat := 2 ^ min (q.naks - 1) 6
  if q.refused.isNone || elapsedUs s (seqPkg sk) q.since < wait then .next s
  else .next { s with
    sendSeq := mput s.sendSeq sk { q with refused := none }
    recvSeq := mmod s.recvSeq {} sk (fun r => { r with refused := none }) }

/-- FABRIC_ACK: a delivered message leaves the retry store, and its sequence counts NAKs from 0 again. -/
def execFabricAck (id : Nat) (s : State) : Out :=
  match mget? s.retryStore id with
  | none => .next s
  | some m =>
    if (mget? s.net id).isSome then .next s
    else .next { s with retryStore := mdel s.retryStore id, sendSeq := mmod s.sendSeq {} (seqKey m) (fun q => { q with naks := 0 }) }

/-! ## A directory entry that is lost (R273) -/

/-- Poison a line in memory and in its home copy. -/
def poisonLine (s : State) (line : Nat) : State :=
  { s with
    badMem := (List.range 4).foldl (fun b k => sadd b (4 * line + k)) s.badMem
    l2 := mupd s.l2 (atDie (homeDie (256 * line)) line) (fun l => { l with bad := 0xF }) }

/-- The entry is evicted as if every die could hold the line; `lost` when the line's data is lost. -/
def dropEntry (s : State) (line : Nat) (lost : Bool) : State :=
  let s := collapse s line
  if lost then poisonLine s line else s

/-- DIRECTORY_ENTRY_ERROR. -/
def execDirectoryEntryError (line : Nat) (lost : Bool) (s : State) : Out :=
  if (mget? s.dir line).isNone then .next s else .next (dropEntry s line lost)

/-! ## Ports (R377, R379) -/

/-- A port whose peer package is in the pod. -/
def portLinks (s : State) (port : Nat) : List ((Nat × Nat) × Nat) :=
  let a := port / 36
  (List.range s.packages).flatMap (fun b =>
    if b = a || !(a / 8 = b / 8 || a % 8 = b % 8) then []
    else (List.range (portsTo a b).length).filterMap (fun j => if (portsTo a b).getD j 0 = port then some ((a, b), j) else none))

/-- UALINK_PORT_RETRAIN: the replay of a port has failed. -/
def execUalinkPortRetrain (port : Nat) (s : State) : Out :=
  match portOf s port with
  | .up => if (portLinks s port).isEmpty then .next s else .next { s with ports := mput s.ports port (.retraining s.clock) }
  | _ => .next s

/-- UALINK_PORT_RETRAIN_END: within 2 ms the port is up again. -/
def execUalinkPortRetrainEnd (port : Nat) (s : State) : Out :=
  match portOf s port with
  | .retraining t => if elapsedUs s (port / 36) t < 2000 then .next { s with ports := mput s.ports port .up } else .next s
  | _ => .next s

/-- LINK_LEVEL_REPLAY: the flit goes again behind these rules, which changes only timing. -/
def execLinkLevelReplay (_port : Nat) (s : State) : Out := .next s

/-- The message's fixed route takes the port or the port it is joined to. -/
def usesPort (s : State) (port : Nat) (m : Msg) : Bool :=
  m.src / 2 != m.dst / 2 &&
  (routeOf s.packages (m.src / 2) (m.dst / 2)).any (fun l => match portFor s l (routeNumber m) with
    | some j => (linkEnds l j).1 == port || (linkEnds l j).2 == port
    | none => false)

/-- A message of an engine operation: payload, its signals, reductions. -/
def isPayload (m : Msg) : Bool := m.typ == tPut || m.typ == tMcd || m.typ == tSig || m.typ == tRdc || m.typ == tRdr

/-- The record of an operation that lost a message, in its context's fault log. -/
def lossRecord (s : State) (core : Nat) (o : EngOp) (m : Msg) : State :=
  let b := s.blk o.block
  (logPut s o.ctx core (fun seq => recBytes fcLinkDown 0 seq o.pc m.addr 0 (gidField s o.gid) b.x b.y b.z 0)).1

/-- What the loss of a message does (R387). -/
def loseMsg (s : State) (id : Nat) (m : Msg) : State :=
  let s := unsend (errPut s m) id
  let s := match m.seq with
    | some n => { s with recvSeq := mmod s.recvSeq {} (seqKey m) (fun r => { r with next := max r.next (n + 1) }) }
    | none => s
  if m.typ ≤ tEvAck && m.typ ≠ 0 then dropEntry s (lineOf m.addr) (m.typ == tAckD)
  else if m.typ = tPut && m.aux ≥ chAux then
    match findXfer s m.tid with
    | some (d, c, _) => match chanOp s d c with
      | some (core, o) => chFail (lossRecord s core o m) d c core o fcLinkDown
      | none => s
    | none => s
  else match waitingOp s id with
    | some (core, o) =>
      let s := modOp (lossRecord s core o m) core o.id (fun o => { o with sent := srem o.sent id })
      if o.cls = 3 then chFail s (dieOfCore core) o.eng core o fcLinkDown
      else fabProgress (fabFail s core o (if m.typ = tRdc then 0 else auxDest m) fcLinkDown) core o.id
    | none => s

/-- PORT_DOWN: 2 ms of retraining have passed. Messages under a reservation that take the port are lost; what went outright is
sent again on the new route, and only an engine's message that has none is lost (log 42). -/
def execPortDown (port : Nat) (s : State) : Out :=
  match portOf s port with
  | .retraining t =>
    if elapsedUs s (port / 36) t < 2000 then .next s
    else
      let s' := { s with ports := mput s.ports port .down }
      let gone := s.net.filter (fun e => usesPort s port e.2 &&
        (e.2.rsvd || (isPayload e.2 && !hasRoute s' (e.2.src / 2) (e.2.dst / 2))))
      .next (gone.foldl (fun s e => if (mget? s.net e.1).isSome then loseMsg s e.1 e.2 else s) s')
  | _ => .next s

/-! ## Dropped messages (R380, R383) -/

/-- RESERVED_MESSAGE_DROP: a message with a reserved TYPE or CLS ends at its first switch, with an entry in the record. -/
def execReservedMessageDrop (id : Nat) (s : State) : Out :=
  match mget? s.net id with
  | none => .next s
  | some m => if knownType m.typ && m.cls ≤ 4 then .next s else .next (unsend (errPut s m) id)

/-- NON_WINDOW_REQUEST_DROP: counted in telemetry. -/
def execNonWindowRequestDrop (pkg : Nat) (s : State) : Out := .next (s.modPkg pkg (fun p => { p with drops := p.drops + 1 }))

/-! ## Resets (R6, R379) -/

/-- The pod with every register at its reset value. The clock of the pod runs on, so that sr.clock starts from 0; memory keeps
what it holds behind the caches (log 44). -/
def resetModules (s : State) (ports : FMap PortSt) : State :=
  { clock := s.clock, inputs := s.inputs, free := s.free, nextId := s.nextId, packages := s.packages, podIndex := s.podIndex,
    mem := s.mem, cipher := s.cipher, badMem := s.badMem, ports := ports,
    pkgs := (List.range s.packages).map (fun p => (p, { resetAt := s.clock, time := s.clock })) }

/-- MODULE_RESET: down ports stay down. -/
def execModuleReset (s : State) : Out := .next (resetModules s s.ports)

/-- POD_RESET: every port is in service again. -/
def execPodReset (s : State) : Out := .next (resetModules s [])

end Sys2Proof.Machine
end

