-- ==== Sys2Proof/Machine/Launch.lean ====
section
/-!
DEFINITION. Launch records and kernel descriptors (R86, R346 to R348), what a block needs of its cores (R141, R142, R149, R227, R228),
queues (R350), and LAUNCH and LQRY, opcodes 0xF6 and 0xF7 (R355, R357).
-/
namespace Sys2Proof.Machine

/-! ## The record and the descriptor -/

/-- Role `j` of a descriptor (R86). -/
def descRole (d : List Byte) (j : Nat) : Role :=
  { groups := fieldOf d (64 + 16 * j) 2, vregs := fieldOf d (66 + 16 * j) 2, entry := fieldOf d (68 + 16 * j) 4 }

/-- A cluster dimension pair of a record: the descriptor's where both are 0. -/
def shapeOf (r d : List Byte) : Nat × Nat :=
  if fieldOf r 43 1 = 0 then (fieldOf d 52 1, fieldOf d 53 1) else (fieldOf r 43 1 % 16, fieldOf r 43 1 / 16)

/-- The after words of a record at `lr` (R346). -/
def afterWords (lr : Nat) (r : List Byte) : List Nat :=
  (List.range 4).filterMap (fun i =>
    let a := fieldOf r (48 + 4 * i) 4
    if a = 0 then none else some (wrap 64 (lr + 8 * sgn 32 a)))

/-- A kernel from its 64-byte record and 128-byte descriptor (R346, R347). -/
def kernelFrom (cx lr : Nat) (r d : List Byte) : Kernel :=
  let text := fieldOf d 0 8
  let pm := fieldOf r 41 1
  let fl := fieldOf d 54 1
  let cls := fieldOf r 40 1
  { ctx := cx, kd := fieldOf r 0 8, lr := lr, cw := fieldOf r 8 8, gk := BitVec.ofNat 128 (fieldOf r 16 16),
    gx := fieldOf r 32 2, gy := fieldOf r 34 2, gz := fieldOf r 36 2, groups := fieldOf r 38 2,
    cls := if cls = 7 then fieldOf d 58 1 else cls,
    pow := if pm % 4 = 3 then fieldOf d 56 1 else pm % 4,
    memTag := if pm / 4 % 4 = 3 then fieldOf d 57 1 else pm / 4 % 4,
    queue := fieldOf r 42 1, phase := fieldOf r 44 2, after := afterWords lr r,
    text := text, entry := text + fieldOf d 32 4,
    handler := if fieldOf d 36 4 = 0xFFFFFFFF then none else some ((text + fieldOf d 36 4) % 2 ^ 64),
    scratch := fieldOf d 40 4, spd := fieldOf d 44 2, acm := fieldOf d 48 4,
    cw' := (shapeOf r d).1, ch' := (shapeOf r d).2,
    fused := bitN fl 0, fwd := bitN fl 1, det := bitN fl 2, roles := (List.range 4).map (descRole d), hasRoles := bitN fl 3 }

/-- The role of a group index: roles in the order copy, matrix, epilogue, general (R141). -/
def roleGo (j : Nat) : List Role → Role
  | [] => {}
  | r :: rs => if j < r.groups then r else roleGo (j - r.groups) rs

def Kernel.roleOf (k : Kernel) (j : Nat) : Role := if k.hasRoles then roleGo j k.roles else k.roles.getD 3 {}

/-- Cores of the kernel's cluster, and blocks of its grid. -/
def Kernel.span (k : Kernel) : Nat := k.cw' * k.ch'
def Kernel.blocks (k : Kernel) : Nat := k.gx * k.gy * k.gz

/-! ## What a share needs of a core (R142, R146, R147) -/

def roundUp (n u : Nat) : Nat := (n + u - 1) / u * u
def scratchCap (det : Bool) : Nat := if det then 512 * 1024 else 768 * 1024
def Kernel.acmBytes (k : Kernel) : Nat := roundUp k.acm 4096

/-- Slots and v-registers that groups take on a partition: the `i`-th of a core stands on partition `i` mod 8. -/
def onPart (p : Nat) (idxs : List Nat) : List Nat :=
  (List.range idxs.length).filterMap (fun i => if i % 8 = p then idxs[i]? else none)
def sumOf (f : Nat → Nat) (l : List Nat) : Nat := l.foldl (fun n x => n + f x) 0

/-- Conditions 1 to 4 of R142 on an empty core. -/
def Kernel.fitsEmpty (k : Kernel) (det : Bool) (idxs : List Nat) : Bool :=
  (List.range 8).all (fun p => (onPart p idxs).length ≤ 16 && sumOf (fun j => (k.roleOf j).vregs) (onPart p idxs) ≤ 1024) &&
  decide (k.scratch ≤ scratchCap det) && decide (k.acmBytes ≤ 256 * 1024)

/-- A block takes one core (R228). -/
def Kernel.oneCore (k : Kernel) (det : Bool) : Bool := k.fitsEmpty det (List.range k.groups)

/-- The group indices of a block on rank `r` of its cores (R228). -/
def Kernel.share (k : Kernel) (det : Bool) (r : Nat) : List Nat :=
  if k.oneCore det then List.range k.groups
  else
    let q := (k.groups + k.span - 1) / k.span
    (List.range (min k.groups ((r + 1) * q) - r * q)).map (r * q + ·)

/-- S_b of a core's share: the scratchpad less the spill areas (R21, R149). -/
def Kernel.sb (k : Kernel) (n : Nat) : Nat := k.scratch - 32 * k.spd * n

/-- The block can run on empty cores (R142, R149, R227, R228). -/
def Kernel.placeable (k : Kernel) (det : Bool) : Bool :=
  1 ≤ k.cw' && 1 ≤ k.ch' && k.cw' ≤ 8 && k.ch' ≤ 8 && k.span ≤ 16 &&
  (if k.oneCore det then decide (32 * k.spd * k.groups ≤ k.scratch)
   else k.span > 1 && (List.range k.span).all (fun r =>
     (k.share det r).length ≤ 128 && k.fitsEmpty det (k.share det r) && decide (32 * k.spd * (k.share det r).length ≤ k.scratch)))

/-! ## Malformed records (R348) -/

/-- A PHASE lies behind the current one (R353). -/
def phaseDiff (a b : Nat) : Int := sgn 16 (wrap 16 ((a : Int) - b))

/-- A malformed record. An SPD out of its range, and a class, power or memory byte of the descriptor out of its range, are not listed in R348
and are accepted (log 8). -/
def recordBad (c : Ctx) (k : Kernel) (r d : List Byte) : Bool :=
  let cls := fieldOf r 40 1
  let pm := fieldOf r 41 1
  let csh := fieldOf r 43 1
  let z := fun (b : List Byte) (i n : Nat) => ((b.drop i).take n).all (· == 0)
  decide (cls ≥ 8) || (4 ≤ cls && cls ≤ 6) || decide (pm ≥ 16) || pm / 4 == 2 || decide (fieldOf r 42 1 ≥ 64) || !z r 46 2 ||
  (csh != 0 && (csh % 16 == 0 || csh / 16 == 0)) || (!c.det && k.phase != 0) ||
  k.kd % 64 != 0 || !z d 8 24 || !z d 59 5 || (List.range 4).any (fun j => !z d (72 + 16 * j) 8) || decide (fieldOf d 54 1 ≥ 16) ||
  (!k.hasRoles && !z d 64 50) ||
  k.blocks == 0 || decide (k.blocks * k.groups ≥ 2 ^ 32) || k.groups == 0 || decide (k.groups > 384) ||
  (k.hasRoles && k.groups != k.roles.foldl (fun n x => n + x.groups) 0) || !k.placeable c.det ||
  (k.det && (!c.det || 2 ^ fieldOf d 55 1 != c.quantum)) || (c.det && decide (phaseDiff k.phase c.phase < 0)) || k.cw % 8 != 0

/-! ## LAUNCH (R355) -/

/-- The faults of the pages of a range. -/
def rangeFaults (s : State) (g : Nat) (k : Kind) (va n : Nat) : List FaultInfo :=
  (pagePieces va n).filterMap (fun p => match translate s (s.grp g).ctx (s.coreOf g) k p.1 with
    | .error f => some ⟨f.code, f.flags, p.1, 0, 0⟩
    | .ok _ => none)

def okBytes : Except FaultInfo (List Byte) → List Byte × List FaultInfo
  | .ok b => (b, [])
  | .error e => ([], [e])

/-- Add a record to its queue (R350, R355). -/
def enqueue (s : State) (k : Kernel) : State :=
  let n := s.nextId
  let k := { k with launchAt := s.clock, order := n }
  { s with nextId := n + 1, kernels := mput s.kernels n k }.modCtx k.ctx (fun c =>
    { c with queues := mmod c.queues [] k.queue (· ++ [n]), launches := c.launches + 1 })

/-- What LAUNCH does once its release is done: the fault, or g(ST) and the state. -/
def launchAct (s : State) (g lr : Nat) : Except FaultInfo (State × Nat) :=
  let cx := (s.grp g).ctx
  let first := (if lr % 64 ≠ 0 then [⟨fcMisaligned, 0, lr, 0, 0⟩] else []) ++ rangeFaults s g .read lr 64
  let r := if first.isEmpty then okBytes (specRead s g lr 64 false) else ([], first)
  let kd := fieldOf r.1 0 8
  let cw := fieldOf r.1 8 8
  let second := if r.2.isEmpty then
      rangeFaults s g .read kd 128 ++ (if cw = 0 then [] else rangeFaults s g .write cw 8) ++
      (afterWords lr r.1).flatMap (fun a => rangeFaults s g .read a 8)
    else []
  let d := if r.2.isEmpty && (rangeFaults s g .read kd 128).isEmpty then okBytes (specRead s g kd 128 false) else ([], [])
  let k := kernelFrom cx lr r.1 d.1
  let bad := r.2.isEmpty && second.isEmpty && d.2.isEmpty && recordBad (s.ctx cx) k r.1 d.1
  match lowest (r.2 ++ second ++ d.2 ++ faultIf bad fcLaunch) with
  | some f => .error f
  | none =>
    let s := acquire s g 6
    if (mget (s.ctx cx).queues [] k.queue).length ≥ 64 then .ok (s, 1)
    else if cw = 0 then .ok (enqueue s k, 0)
    else match virtWrite s cx (s.coreOf g) cw (toBytes 8 0) with
      | .ok s => .ok (enqueue s k, 0)
      | .error f => .error ⟨f.code, f.flags, cw, 0, 0⟩

/-- A LAUNCH that waits for its release looks again. -/
def pollLaunch (s : State) (g lr st : Nat) : State :=
  if !releaseReady s g then s
  else match launchAct (wcDrainGroup s g) g lr with
    | .error f => faultWait s g f
    | .ok (s, v) => endHold (setG s g st (BitVec.ofNat 32 v)) g

def execLaunch (c : Ctl) (f : FmtA) (s : State) : Out :=
  engInstr c f s (fun s fm =>
    let lr := frd fm 0
    if !zeroFrom fm 2 then fail s fcIllegal
    else
      let s1 := wcDrainGroup s s.cur
      if releaseReady s1 s.cur then
        match launchAct s1 s.cur lr with
        | .error e => .next (raise s e)
        | .ok (s2, v) => .next (s2.variable c [.g f.st.toNat (BitVec.ofNat 32 v) false])
      else .next ((s1.issueHeld c).holdMe s.me.pc c.setk.toNat (.launch lr f.st.toNat)))

/-! ## LQRY (R357) -/

/-- A group of a resident block has been stopped for a save. -/
def saving (s : State) (b : Nat) : Bool := (s.blk b).stage == .running && (s.groupsOf b).any (fun g => (s.grp g).stop == .saved)

def execLqryQueue (c : Ctl) (f : FmtA) (s : State) : Out :=
  engInstr c f s (fun s fm =>
    if fr fm 0 ≥ 64 || !zeroFrom fm 1 then fail s fcIllegal
    else
      let q := fr fm 0
      let x := s.ctxOf s.cur
      let n := (mget x.queues [] q).length
      let st := f.st.toNat
      .next (s.variable c (.g st (BitVec.ofNat 32 n) false :: .g (st + 1) (BitVec.ofNat 32 (64 - n)) false ::
        wrG true (st + 2) (mget x.placed 0 q))))

def execLqrySys (c : Ctl) (f : FmtA) (s : State) : Out :=
  engInstr c f s (fun s fm =>
    if !zeroFrom fm 0 then fail s fcIllegal
    else
      let x := s.ctxOf s.cur
      let die := s.dieOf s.cur
      let st := f.st.toNat
      let busy := (s.die die).chans.any (fun e => e.2.op.isSome)
      let pre := s.blocks.any (fun e => saving s e.1 && e.2.cores.any (fun k => dieOfCore k == die)) || x.stopping
      let res := (s.blocks.filter (fun e => e.2.resident && e.2.ctx == s.me.ctx && e.2.cores.any (fun k => dieOfCore k == die))).length
      .next (s.variable c [.g st (BitVec.ofNat 32 (if x.det then x.phase else 0)) false,
        .g (st + 1) (BitVec.ofNat 32 (s.pkg (s.pkgOf s.cur)).hdrm) false,
        .g (st + 2) (BitVec.ofNat 32 ((if busy then 1 else 0) + (if pre then 2 else 0))) false,
        .g (st + 3) (BitVec.ofNat 32 res) false]))

end Sys2Proof.Machine
end

