-- ==== Sys2Proof/Machine/Place.lean ====
section
/-!
DEFINITION. The dispatcher's choice and placement: eligible records (R351, R353), the choice of R352, blocks and clusters placed and
started (R141, R146, R148, R229, R231, R354), pre-emption and restore (R31, R358, R359), and the events of these.
-/
namespace Sys2Proof.Machine

/-! ## Memory as the dispatcher and the monitor see it -/

/-- They translate through no core's TLB: a core number that no core has. -/
def sysCore : Nat := 2 ^ 32

/-- Write at a virtual address of a context. -/
def sysWrite (s : State) (cx va : Nat) (bytes : List Byte) : Except XFault State := virtWrite s cx sysCore va bytes
def sysRead (s : State) (cx va n : Nat) : Except XFault (List Byte × Bool) := virtRead s cx sysCore va n

/-- A record that belongs to a kernel and to no group: PC is the descriptor's address, the block coordinates are all ones (R349). -/
def kernelRecord (s : State) (k : Kernel) (f : XFault) (va : Nat) : State :=
  (logPut s k.ctx sysCore (fun seq =>
    recBytes f.code f.flags seq (BitVec.ofNat 64 k.kd) va 0 0 (2 ^ 32 - 1) (2 ^ 32 - 1) (2 ^ 32 - 1) 0)).1

/-! ## Room on a core (R142, R146, R147) -/

/-- The blocks that hold a core. -/
def blocksOn (s : State) (core : Nat) : List (Nat × Block) := s.blocks.filter (fun e => e.2.resident && e.2.cores.contains core)

/-- The groups of a block with slots on a partition: its live groups, or what it will start. -/
def groupsAt (s : State) (core p : Nat) (e : Nat × Block) : List (Option Nat × Nat) :=
  let k := s.krn e.2.kernel
  match e.2.stage with
  | .placed => (onPart p (k.share (s.ctx e.2.ctx).det (e.2.cores.findIdx (· == core)))).map (fun j => (none, (k.roleOf j).vregs))
  | _ => (s.groups.filter (fun x => blockOf x.1 == e.1 && x.2.live && x.2.part == 8 * core + p)).map (fun x => (some x.2.slot, x.2.nv))

/-- The share of a kernel fits a core beside what it holds. -/
def fitsCore (s : State) (core : Nat) (k : Kernel) (idxs : List Nat) : Bool :=
  let rs := blocksOn s core
  let det := (s.ctx k.ctx).det
  (s.core core).reservedBy.isNone && rs.all (fun e => e.2.ctx == k.ctx) && (!k.fused || k.span == 1 || rs.isEmpty) &&
  (List.range 8).all (fun p =>
    let here := rs.flatMap (groupsAt s core p)
    let mine := onPart p idxs
    decide (here.length + mine.length ≤ 16) &&
    decide (sumOf (fun j => (k.roleOf j).vregs) mine + here.foldl (fun n x => n + x.2) 0 ≤ 1024)) &&
  (if rs.isEmpty then decide (k.scratch ≤ scratchCap det)
   else decide (rs.foldl (fun n e => n + (s.krn e.2.kernel).scratch) k.scratch ≤ (s.core core).split)) &&
  decide (rs.foldl (fun n e => n + (s.krn e.2.kernel).acmBytes) k.acmBytes ≤ 256 * 1024)

/-- The rectangle of a kernel's cluster with its first core here: core 8 * row + column of a die (R227). -/
def rectAt (k : Kernel) (core : Nat) : Option (List Nat) :=
  let x := core % 8
  let y := core / 8 % 8
  if x + k.cw' > 8 || y + k.ch' > 8 || (k.cw' % 2 = 0 && x % 2 = 1) then none
  else some ((List.range k.ch').flatMap (fun i => (List.range k.cw').map (fun j => core + 8 * i + j)))

/-- Every core of a rectangle grants its share; in a fused cluster all have the same split, since all are empty (R229, R231). -/
def rectFits (s : State) (k : Kernel) (core : Nat) : Bool :=
  match rectAt k core with
  | none => false
  | some cs => (List.range cs.length).all (fun r => fitsCore s (cs.getD r 0) k (k.share (s.ctx k.ctx).det r))

def coresOf (die : Nat) : List Nat := (List.range 64).map (64 * die + ·)

/-- A block of the kernel fits somewhere on a die. -/
def fitsDie (s : State) (die : Nat) (k : Kernel) : Bool :=
  (coresOf die).any (fun c => if k.span = 1 then fitsCore s c k (List.range k.groups) else rectFits s k c)

/-! ## Records (R350 to R353) -/

/-- Blocks of a kernel that pre-emption has saved. -/
def savedOf (s : State) (kn : Nat) : List (Nat × Block) := s.blocks.filter (fun e => e.2.kernel == kn && e.2.stage == .saved)

def unplaced (s : State) (kn : Nat) : Bool := decide ((s.krn kn).next < (s.krn kn).blocks) || !(savedOf s kn).isEmpty

/-- The oldest record of each queue that still has an unplaced block. -/
def headsOf (s : State) (cx : Nat) : List (Nat × Kernel) :=
  (List.range 64).filterMap (fun q =>
    (s.kernels.filter (fun e => e.2.ctx == cx && e.2.queue == q && unplaced s e.1)).foldl (fun (b : Option (Nat × Kernel)) e => match b with
      | none => some e
      | some x => if e.2.order < x.2.order then some e else some x) none)

/-- What the after words say: every one has DONE, or the address of one that cannot be read. -/
inductive AfterRes where
  | done | waits
  | unread (va : Nat)
  deriving DecidableEq, Repr

def afterRes (s : State) (k : Kernel) : AfterRes :=
  match k.after.find? (fun a => match sysRead s k.ctx a 8 with | .error _ => true | .ok _ => false) with
  | some a => .unread a
  | none => if k.after.all (fun a => match sysRead s k.ctx a 8 with
      | .ok (b, _) => ofBytes b % 2 == 1
      | .error _ => false) then .done else .waits

def inPhase (s : State) (k : Kernel) : Bool := !(s.ctx k.ctx).det || k.phase == (s.ctx k.ctx).phase

/-- The context takes part in dispatch. -/
def dispatched (s : State) (cx : Nat) : Bool := (mget? s.ctxs cx).isSome && !(s.ctx cx).stopping && !(s.pkg (s.ctx cx).pkg).fatal

/-- The eligible records of a die's package with a block that fits there now. -/
def eligibleOn (s : State) (die : Nat) : List (Nat × Kernel) :=
  (s.ctxs.filter (fun c => c.2.pkg == die / 2 && dispatched s c.1)).flatMap (fun c => (headsOf s c.1).filter (fun e =>
    inPhase s e.2 && afterRes s e.2 == .done && (mget (s.die die).retry (0, 0) e.1).2 == 0 && fitsDie s die e.2))

/-- Insert a record by age: LAUNCH cycle, then queue number, then order of launch. -/
def insRec (x : Nat × Kernel) : List (Nat × Kernel) → List (Nat × Kernel)
  | [] => [x]
  | y :: ys =>
    if x.2.launchAt < y.2.launchAt || (x.2.launchAt = y.2.launchAt && (x.2.queue < y.2.queue || (x.2.queue = y.2.queue && x.2.order < y.2.order)))
    then x :: y :: ys else y :: insRec x ys

/-- The highest power class that a headroom allows. -/
def allowedPow (h : Nat) : Nat := if h ≥ 300 then 2 else if h ≥ 100 then 1 else 0

/-- The choice of R352 among the records of one context, and the record passed over for it, if any. The context must have a record of
the lowest class that is eligible; the firmware shares the die among such contexts. -/
def choose (s : State) (die cx : Nat) : Option (Nat × Option Nat) :=
  let e := eligibleOn s die
  let c := e.foldl (fun m x => min m x.2.cls) 4
  let l := (e.filter (fun x => x.2.cls == c && x.2.ctx == cx)).foldl (fun l x => insRec x l) []
  let l := if (s.die die).chans.any (fun ch => match chanOp s die ch.1 with | some (_, o) => o.opc == 0xF4 | none => false) then
      l.filter (fun x => x.2.memTag == 0) ++ l.filter (fun x => x.2.memTag != 0) else l
  let a := allowedPow (s.pkg (die / 2)).hdrm
  match l with
  | [] => none
  | r :: _ =>
    if c ≠ 0 && r.2.pow > a && r.2.byp < 8 then
      match l.find? (fun x => x.2.pow ≤ a) with
      | some x => some (x.1, some r.1)
      | none => some (r.1, none)
    else some (r.1, none)

/-- Count the pass, and clear the count of the record that is placed. -/
def countByp (s : State) (r : Nat) (over' : Option Nat) : State :=
  let s := match over' with
    | some p => s.modKrn p (fun k => { k with byp := k.byp + 1 })
    | none => s
  s.modKrn r (fun k => { k with byp := 0 })

/-- Heads whose after words cannot be read are reported in the fault log (R351). -/
def reportAfter (s : State) (cx : Nat) : State :=
  (headsOf s cx).foldl (fun s e => match afterRes s e.2 with
    | .unread va => kernelRecord s e.2 ⟨fcNotPresent, 0⟩ va
    | _ => s) s

/-! ## Placing -/

/-- A core takes a block: an empty core is split anew, its L1 and TLBs invalid; else an acquire for what the after words cover. The
split is the largest that fits (log 45). -/
def takeCore (s : State) (det : Bool) (core : Nat) : State :=
  if (blocksOn s core).isEmpty then
    (flushL1 s core).modCore core (fun c => { c with split := scratchCap det, tlb := [], tlb2 := [] })
  else invalidateL1 s core false (fun _ => true)

/-- Put the next block of a kernel on cores, its allocations being cleared at 256 bytes in a cycle (R148). -/
def placeBlock (s : State) (kn : Nat) (cores : List Nat) (cluster : Option Nat) (crank : Nat) : State :=
  let k := s.krn kn
  let det := (s.ctx k.ctx).det
  let s := cores.foldl (fun s c => takeCore s det c) s
  let b := s.nextId
  let bl : Block := {
    ctx := k.ctx, kernel := kn, lin := k.next, x := k.next % k.gx, y := k.next / k.gx % k.gy, z := k.next / k.gx / k.gy,
    cores := cores, cluster := cluster, crank := crank, stage := .placed, clearAt := s.clock + (k.scratch + 255) / 256, placedAt := s.clock,
    local' := (List.range cores.length).map (fun r => (r, { sb := k.sb (k.share det r).length })) }
  let s := { s with nextId := b + 1, blocks := mput s.blocks b bl }.modKrn kn (fun k => { k with next := k.next + 1 })
  if k.next + 1 = k.blocks then
    s.modCtx k.ctx (fun c => { c with
      queues := mmod c.queues [] k.queue (fun l => l.filter (· != kn)), placed := mset c.placed 0 k.queue (mget c.placed 0 k.queue + 1) })
  else s

/-- BLOCK_PLACE: the dispatcher of a die places one block of the record it chooses for a context on a core. -/
def execBlockPlace (die cx core : Nat) (s : State) : Out :=
  let s := if dispatched s cx && (s.ctx cx).pkg == die / 2 then reportAfter s cx else s
  match choose s die cx with
  | none => .next s
  | some (r, p) =>
    let k := s.krn r
    if k.span ≠ 1 || !(savedOf s r).isEmpty || dieOfCore core ≠ die || !fitsCore s core k (List.range k.groups) then .next s
    else .next (placeBlock (countByp s r p) r [core] none 0)

/-! ## Clusters (R227 to R231, R354) -/

/-- The back-off after the `a`-th consecutive failure of a record, the die's `n`-th attempt. -/
def backoff (die cx a n : Nat) : Nat :=
  let y := genBlock ⟨BitVec.ofNat 32 (0x4B560000 + die), BitVec.ofNat 32 (cx % 64), 0, 0⟩ ⟨BitVec.ofNat 32 n, 0, 0, 0xFFFFFFFF⟩
  64 * 2 ^ min a 8 + y.a.toNat % 1024

/-- A reservation fails: every grant is released, and the record is tried again later. -/
def reserveFail (s : State) (die r : Nat) : State :=
  s.modDie die (fun d =>
    let a := (mget d.retry (0, 0) r).1 + 1
    { d with attempts := d.attempts + 1, retry := mput d.retry r (a, s.clock + backoff die (s.krn r).ctx a d.attempts) })

/-- All cores of the rectangle grant: the cluster and its blocks are placed in one admission. -/
def admitCluster (s : State) (die r : Nat) (cs : List Nat) : State :=
  let k := s.krn r
  let det := (s.ctx k.ctx).det
  let cn := s.nextId
  let one := k.oneCore det
  let nb := if one then min cs.length (k.blocks - k.next) else 1
  let first := cs.headD 0
  let cl : Cluster := { ctx := k.ctx, die := die, x0 := first % 8, y0 := first / 8 % 8, w := k.cw', h := k.ch', fused := k.fused, cores := cs }
  let s := { s with nextId := cn + 1, clusters := mput s.clusters cn cl }
  let s := s.modDie die (fun d => { d with attempts := d.attempts + 1, retry := mdel d.retry r })
  let s := (List.range nb).foldl (fun s i =>
    let b := s.nextId
    let s := if one then placeBlock s r [cs.getD i 0] (some cn) i else placeBlock s r cs (some cn) 0
    s.modClu cn (fun c => { c with blocks := c.blocks ++ [b] })) s
  if k.fused then cs.foldl (fun s c => (flushL1 s c).modCore c (fun x => { x with reservedBy := some cn })) s else s

/-- CLUSTER_RESERVE: a two-phase reservation of the rectangle with this first core. -/
def execClusterReserve (die cx core : Nat) (s : State) : Out :=
  match choose s die cx with
  | none => .next s
  | some (r, p) =>
    let k := s.krn r
    if k.span = 1 || !(savedOf s r).isEmpty || dieOfCore core ≠ die then .next s
    else match rectAt k core with
      | none => .next s
      | some cs => if rectFits s k core then .next (admitCluster (countByp s r p) die r cs) else .next (reserveFail s die r)

/-- CLUSTER_RETRY: the back-off of a record is over. -/
def execClusterRetry (die k : Nat) (s : State) : Out :=
  match mget? (s.die die).retry k with
  | none => .next s
  | some (a, at') => if at' = 0 || s.clock < at' then .next s else .next (s.modDie die (fun d => { d with retry := mput d.retry k (a, 0) }))

/-! ## Starting (R10, R141, R148, R203, R301) -/

/-- The lowest slot of a partition that no live group of a running block holds. -/
def freeSlot (s : State) (part : Nat) : Nat :=
  let used := (s.groups.filter (fun e => e.2.part == part && e.2.live && (s.blk (blockOf e.1)).stage == .running)).map (fun e => e.2.slot)
  ((List.range 16).find? (fun i => !used.contains i)).getD 0

/-- Rounds of a context that have completed. -/
def Ctx.roundsDone (c : Ctx) : Nat := if c.round.isSome then c.rounds - 1 else c.rounds

/-- A new group (R10, R203). -/
def newGroup (s : State) (b rank j part : Nat) : Group :=
  let bl := s.blk b
  let k := s.krn bl.kernel
  let r := k.roleOf j
  let g : Group := {
    ctx := bl.ctx, block := b, idx := j, rank := rank, part := part, slot := freeSlot s part, startAt := s.clock, stop := .running,
    pc := BitVec.ofNat 64 (if k.hasRoles then k.text + r.entry else k.entry), nv := r.vregs, gk := k.gk,
    gsid := BitVec.ofNat 32 (bl.lin * k.groups + j), fresh := s.clock, waitFrom := s.clock, qRound := (s.ctx bl.ctx).roundsDone }
  let g := lanes.foldl (fun g l => g.wv 0 l (BitVec.ofNat 32 l) false) g
  (g.wg 0 (BitVec.ofNat 32 (k.lr + 64))).wg 1 (BitVec.ofNat 32 ((k.lr + 64) / 2 ^ 32))

/-- The groups of a rank start. -/
def startRank (s : State) (b rank core : Nat) : State :=
  let bl := s.blk b
  let js := (s.krn bl.kernel).share (s.ctx bl.ctx).det rank
  let s := (List.range js.length).foldl (fun s i =>
    let j := js.getD i 0
    s.setGrp (gkey b j) (newGroup s b rank j (8 * core + i % 8))) s
  if (s.ctx bl.ctx).det then s.modCore core (fun c => { c with lq := 0 }) else s

/-- The blocks that start, and are saved, together: those of a cluster (R229, R230). -/
def together (s : State) (b : Nat) : List Nat :=
  match (s.blk b).cluster with
  | some c => (s.clu c).blocks
  | none => [b]

/-- The groups of a block start. -/
def startBlock (s : State) (b : Nat) : State :=
  let bl := s.blk b
  (List.range bl.cores.length).foldl (fun s r => startRank s b r (bl.cores.getD r 0)) (s.modBlk b (fun x => { x with stage := .running }))

/-- In a DET context the blocks of a kernel start in ascending order: a block below those that are about to start has not started (R317, R353). -/
def lowerWaits (s : State) (bl : Block) (mates : List Nat) : Bool :=
  (s.ctx bl.ctx).det &&
  s.blocks.any (fun e => e.2.kernel == bl.kernel && e.2.stage == .placed && decide (e.2.lin < bl.lin) && !mates.contains e.1)

/-- What memory holds when the first block of a kernel starts, which its fetches may return later (R54). -/
def keepStart (s : State) (kn : Nat) : State := if (mget? s.starts kn).isSome then s else { s with starts := mput s.starts kn s.snap }

/-- BLOCK_START: the clearing of the block, and of every other block of its cluster, is over; all of them start. -/
def execBlockStart (b : Nat) (s : State) : Out :=
  let bl := s.blk b
  let mates := together s b
  if bl.stage ≠ .placed || mates.any (fun m => decide (s.clock < (s.blk m).clearAt)) || lowerWaits s bl mates then .next s
  else .next ((mates.filter (fun m => (s.blk m).stage == .placed)).foldl startBlock (keepStart s bl.kernel))

/-! ## Pre-emption (R358) -/

/-- A waiting instruction that is restored ahead of itself and issues again: its counter and its place in its quantum as before. -/
def reissue (g : Group) (h : Hold) : Group :=
  { (g.kDec h.setk) with
    hold := none, pc := h.pc, packet := none, detCount := g.detCount - 1, inHandler := if h.kind.reports then g.hadHandler else g.inHandler }

/-- What becomes of a hold when its group is saved: some waits are left and issue again, a sleep ends, the others go on after the
restore (R104, R106, R178, R189, R198, R237, R238). The waits of a chain go on after the restore, since its other word may have had its effect;
what they wait for is looked at anew either way (log 94). -/
def saveHold (g : Group) : Group :=
  if g.hold2.isSome || g.chain.isSome then { g with packet := none }
  else match g.hold with
  | none => { g with packet := none }
  | some h => match h.kind with
    | .sleep _ | .yield _ _ => { g.kDec h.setk with hold := none, packet := none }
    | .waitk _ _ | .tailWait | .waita _ _ _ _ _ | .tbWait _ _ _ | .phWait _ _ | .arrive _ _ _ _ | .phArrive _ | .tbArrive _ _ => reissue g h
    | _ => g

/-- A hold that the save waits for. -/
def mustEnd (k : HoldKind) : Bool :=
  match k with
  | .fence _ _ _ | .release | .exiting | .tailing | .skred _ _ _ _ _ | .seal _ _ _ | .launch _ _ | .maint => true
  | _ => false

/-- Nothing of the group is still under way that the save must wait for: an ordered access keeps waiting across the save. -/
def quiet (s : State) (e : Nat × Group) : Bool :=
  let g := e.2
  -- an EXIT or TAIL that waits for an unpaired transfer goes on waiting after the restore
  let unpaired := g.pend.any (fun p => inSlot s e.1 p.id)
  g.fence.isNone && g.acc.all (fun a => g.heldAccs.contains a.id) && g.pend.all (fun p => inSlot s e.1 p.id || g.chained p) &&
  g.holds.all (fun h => !mustEnd h.kind || (unpaired && (h.kind == .exiting || h.kind == .tailing)))

/-- The operations of a block in the queues of cores. -/
def opsOf (s : State) (b : Nat) : List EngOp := s.cores.flatMap (fun e => (allOps e.2).filter (fun o => o.block == b))

/-- Copies and summary operations are done, the tracker is empty, each matrix operation stands at a row boundary, and each channel between
commands (R182, R200, R255, R417). -/
def drainedBlock (s : State) (b : Nat) : Bool :=
  (s.groups.filter (fun e => blockOf e.1 == b)).all (quiet s) && (opsOf s b).all (fun o => o.cls == 3 || (o.cls == 1 && o.part.isEmpty && !o.started)) &&
  s.parts.all (fun p => p.2.tracker.all (fun t => t.block != b))

/-- A group stops for a save: until the restore its waits count no time, and what they have counted is kept (R30). -/
def stopForSave (now : Nat) (gr : Group) : Group :=
  let rel := fun (h : Hold) => { h with since := now - h.since }
  { gr with stop := Stop.saved, waitFrom := now - gr.waitFrom, hold := gr.hold.map rel, hold2 := gr.hold2.map rel, fence := gr.fence.map rel }

/-- Issue stops: the running groups of the blocks are held for the save, and their write-combining buffers drain (R162). -/
def stopIssue (s : State) (bs : List Nat) : State :=
  let hold := fun (g : Nat) (gr : Group) => if bs.contains (blockOf g) && gr.stop == Stop.running then stopForSave s.clock gr else gr
  let s := { s with groups := mmap hold s.groups, turn := s.turn.filter (fun g => !bs.contains (blockOf g)) }
  (s.groups.filter (fun e => bs.contains (blockOf e.1))).foldl (fun s e => wcDrainGroup s e.1) s

/-- Commit-buffer units that the buffered writes of a group hold, and those that an access it is held for has taken. -/
def heldUnits (gr : Group) : Nat := gr.detBuf.foldl (fun n w => n + w.units) (droppedUnits gr)

/-- Commit-buffer units of the operations of a block in the queues of a core. -/
def opUnits (s : State) (b core : Nat) : Nat := ((allOps (s.core core)).filter (fun o => o.block == b)).foldl (fun n o => n + o.units) 0

/-- Save one block that is drained; its cores are free (R358 steps 4 to 6). -/
def saveBlock (s : State) (b : Nat) : State :=
  let bl := s.blk b
  let s := (s.groupsOf b).foldl (fun s g =>
    let u := heldUnits (s.grp g)
    (s.modCore (s.coreOf g) (fun c => { c with units := c.units - u })).modGrp g saveHold) s
  let s := s.modBlk b (fun x => { x with
    stage := .saved, codebooks := (List.range bl.cores.length).map (fun r => (r, (s.core (bl.cores.getD r 0)).codebook)) })
  bl.cores.foldl (fun s c => s.modCore c (fun x => { x with units := x.units - opUnits s b c })) s

/-- The cores of a block, or of its whole cluster, are free; their L1s and TLBs hold nothing (R358 steps 5 and 6). -/
def freeCores (s : State) (b : Nat) : State :=
  let cs := match (s.blk b).cluster with
    | some cn => (s.clu cn).cores
    | none => (s.blk b).cores
  cs.foldl (fun s c => (flushL1 s c).modCore c (fun x => { x with
    tlb := [], tlb2 := [], reservedBy := if (s.blk b).cluster.isSome && x.reservedBy == (s.blk b).cluster then none else x.reservedBy })) s

/-- PREEMPT: issue of the block, or of its whole cluster, stops; once all is drained it is saved. -/
def execPreempt (b : Nat) (s : State) : Out :=
  let up := (together s b).filter (fun x => (s.blk x).stage == .running)
  let bs := up.filter (fun x => (s.groupsOf x).any (fun g => (s.grp g).live))
  if bs.isEmpty then .next s
  else
    let s := stopIssue s bs
    -- a mate whose groups have ended ends first
    if bs.all (drainedBlock s) && bs.length == up.length then .next (freeCores (bs.foldl saveBlock s) b) else .next s

/-! ## Restore (R230, R338, R359) -/

/-- Move the operations of a block from the queues they stand in to the core of their rank; channels keep running theirs. -/
def moveOps (s : State) (b : Nat) (cores : List Nat) : State :=
  let mine := fun (o : EngOp) => o.block == b
  let mx := s.cores.flatMap (fun e => e.2.mxQ.filter mine)
  let col := s.cores.flatMap (fun e => e.2.colQ.filter mine)
  let s := { s with cores := mmap (fun _ (c : Core) => { c with mxQ := c.mxQ.filter (!mine ·), colQ := c.colQ.filter (!mine ·) }) s.cores }
  let at' := fun (o : EngOp) => cores.getD o.rank 0
  let s := mx.foldl (fun s o => s.modCore (at' o) (fun c => { c with mxQ := c.mxQ ++ [o], units := c.units + o.units })) s
  let s := col.foldl (fun s o => s.modCore (at' o) (fun c => { c with colQ := c.colQ ++ [o], units := c.units + o.units })) s
  let move := fun (ch : Chan) => match ch.op with
    | some (_, id) => (match col.find? (fun o => o.id == id) with
      | some o => { ch with op := some (at' o, id) }
      | none => ch)
    | none => ch
  { s with dies := mmap (fun _ (d : Die) => { d with chans := mmap (fun _ ch => move ch) d.chans }) s.dies }

/-- A restored group: a new place and age; one suspended on a replayable fault stays so. -/
def restoreGroup (s : State) (g part : Nat) : State :=
  let slot := freeSlot s part
  let abs := fun (h : Hold) => { h with since := s.clock - h.since }
  (s.modGrp g (fun gr =>
    let gr := { gr with part := part, slot := slot, startAt := s.clock, fresh := s.clock }
    if gr.stop = .saved then
      { gr with waitFrom := s.clock - gr.waitFrom, stop := .running, hold := gr.hold.map abs, hold2 := gr.hold2.map abs, fence := gr.fence.map abs }
    else { gr with waitFrom := s.clock })).modCore (s.coreOf g) (fun c =>
      { c with units := c.units + heldUnits (s.grp g) })

/-- Put a saved block on cores, which meet R142 for its shares. -/
def restoreBlock (s : State) (b : Nat) (cores : List Nat) : State :=
  let bl := s.blk b
  let det := (s.ctx bl.ctx).det
  let k := s.krn bl.kernel
  let s := cores.foldl (fun s c => takeCore s det c) s
  let s := s.modBlk b (fun x => { x with stage := .running, cores := cores, placedAt := s.clock, codebooks := [] })
  let s := (List.range cores.length).foldl (fun s r =>
    let core := cores.getD r 0
    let js := k.share det r
    let s := (List.range js.length).foldl (fun s i =>
      let g := gkey b (js.getD i 0)
      if (s.grp g).live then restoreGroup s g (8 * core + i % 8) else s) s
    s.modCore core (fun c => { c with codebook := mget bl.codebooks [] r })) s
  moveOps (s.modBlk b (fun x => { x with xfer := mmap (fun _ l => l.filterMap (issueAgain s)) x.xfer })) b cores

/-- Blocks with an operation running in a channel go back to that channel's die (log 46). -/
def dieFree (s : State) (die : Nat) (bs : List Nat) : Bool :=
  s.dies.all (fun d => d.1 == die || d.2.chans.all (fun ch => match chanOp s d.1 ch.1 with
    | some (_, o) => !bs.contains o.block
    | none => true))

/-- RESTORE: the record chosen has a saved block; it, or its cluster, is placed with its first core here. -/
def execRestore (b core : Nat) (s : State) : Out :=
  let bl := s.blk b
  let die := dieOfCore core
  let bs := (together s b).filter (fun x => (s.blk x).stage == .saved)
  let k := s.krn bl.kernel
  match choose s die bl.ctx with
  | none => .next s
  | some (r, p) =>
    let low := (savedOf s r).all (fun e => decide (bl.lin ≤ e.2.lin) || bs.contains e.1)
    if bl.stage ≠ .saved || r ≠ bl.kernel || !low || !dieFree s die bs then .next s
    else match bl.cluster with
      | none =>
        if fitsCore s core k (List.range k.groups) then .next (restoreBlock (countByp s r p) b [core]) else .next s
      | some cn => match rectAt k core with
        | none => .next s
        | some cs =>
          if !rectFits s k core then .next s
          else
            let s := (countByp s r p).modClu cn (fun c => { c with die := die, cores := cs, x0 := core % 8, y0 := core / 8 % 8 })
            let s := bs.foldl (fun s x =>
              let y := s.blk x
              restoreBlock s x (if y.cores.length > 1 then cs else [cs.getD y.crank core])) s
            .next (if k.fused then cs.foldl (fun s c => (flushL1 s c).modCore c (fun x => { x with reservedBy := some cn })) s else s)

end Sys2Proof.Machine
end

