-- ==== Sys2Proof/Machine/Sync.lean ====
section
/-!
DEFINITION. Barriers of the block and of the cluster, and phase counters: opcodes 0xC0 to 0xCB (R185 to R189, R196 to R198, R235 to
R239). An arrival or a wait that cannot be done at issue holds its group and is polled.
-/
namespace Sys2Proof.Machine

/-! ## Named and cluster barriers -/

/-- The threads of a group's block, and of its cluster (R186, R235). -/
def blockThreads (s : State) (g : Nat) : Nat := 32 * (s.kernelOf g).groups
def clusterThreads (s : State) (g : Nat) : Nat :=
  match s.cluOf g with
  | some c => c.blocks.length * blockThreads s g
  | none => blockThreads s g

/-- Two groups are members of one barrier. -/
def sameBar (s : State) (cluster : Bool) (g h : Nat) : Bool :=
  if cluster then (s.blk (blockOf g)).cluster.isSome && (s.blk (blockOf g)).cluster == (s.blk (blockOf h)).cluster
  else blockOf g == blockOf h

/-- The end of a wait: an acquire at BLK or CLU scope, and the counter (R188, R235). -/
def endParity (s : State) (g : Nat) (cluster : Bool) : State := endHold (acquire s g (if cluster then 2 else 1)) g

/-- A hold waits on this barrier for this parity. -/
def HoldKind.waitsFor (k : HoldKind) (cluster : Bool) (id : Nat) (par : Bool) : Bool :=
  match k with
  | .parity c i p _ => c == cluster && i == id && p == par
  | _ => false

/-- The groups that wait on a barrier for a parity. -/
def parityWaiters (s : State) (g : Nat) (cluster : Bool) (id : Nat) (par : Bool) : List Nat :=
  s.groups.filterMap (fun e => if e.2.holds.any (fun h => h.kind.waitsFor cluster id par) && sameBar s cluster g e.1 then some e.1 else none)

/-- One accepted arrival: 32 threads; at EXP the phase completes and its waiters are released (R186). -/
def countArrival (s : State) (g : Nat) (cluster : Bool) (id count : Nat) : State :=
  let b := barAt s g cluster id
  if b.arr + 32 = count then
    let s := setBar s g cluster id { arr := 0, exp := 0, nph := !b.nph }
    (parityWaiters s g cluster id b.nph).foldl (fun s h => endParity (focusHold s h (·.waitsFor cluster id b.nph)) h cluster) s
  else setBar s g cluster id { b with arr := b.arr + 32, exp := count }

/-- An arrival polled: the release conditions, then in one step the test against EXP, the lane report, which that test precedes, and the
arrival (R25, R29, R186, R189). -/
def pollArrive (s : State) (g : Nat) (cluster : Bool) (id count : Nat) (sync : Bool) : State :=
  if !releaseReady s g then s
  else
    let s := wcDrainGroup s g
    let b := barAt s g cluster id
    if b.exp ≠ 0 && count ≠ b.exp then faultWait s g (fi fcBarCount)
    else if (s.grp g).trap ≠ 0 then faultWait s g (reportFault (s.grp g))
    else if sync then
      let s := s.modGrp g (fun gr => match gr.hold with
        | some h => { gr with hold := some { h with kind := .parity cluster id b.nph true, since := s.clock } }
        | none => gr)
      countArrival s g cluster id count
    else countArrival (endHold s g) g cluster id count

/-- A wait polled (R187). -/
def pollParity (s : State) (g : Nat) (cluster : Bool) (id : Nat) (par : Bool) : State :=
  if (barAt s g cluster id).nph != par then endParity s g cluster else s

/-- NBARV, NBSYNC, CBARV, CBSYNC: the count, its limits, the report point, the hold (R186, R189, R235). -/
def arrive (c : Ctl) (f : FmtM) (cluster sync : Bool) (s : State) : Out :=
  let g := s.me
  let total := if cluster then clusterThreads s s.cur else blockThreads s s.cur
  let all := f.hint.toNat == 1
  let n := if all then total else (g.rg f.data.toNat).toNat
  let id := f.off.toNat % 16
  let exp := (barAt s s.cur cluster id).exp
  orFault s (faultIf (cluster && (s.cluOf s.cur).isNone) fcIllegal ++ faultIf (!all && g.gBad f.data.toNat) fcUncorrectable ++
      faultIf (n % 32 ≠ 0 || n < 32 || n > total) fcBarCount) (fun s =>
    reportUnless (!releaseReady s s.cur || (exp ≠ 0 && n ≠ exp)) s (fun s =>
      .next (((wcDrainGroup s s.cur).issueHeld c).holdMe g.pc c.setk.toNat (.arrive cluster id n sync))))

def execNbarv (c : Ctl) (f : FmtM) (s : State) : Out := arrive c f false false s
def execNbsync (c : Ctl) (f : FmtM) (s : State) : Out := arrive c f false true s
def execCbarv (c : Ctl) (f : FmtM) (s : State) : Out := arrive c f true false s
def execCbsync (c : Ctl) (f : FmtM) (s : State) : Out := arrive c f true true s

/-- NBWAIT: ends at once when the parity has passed (R187, R189). -/
def execNbwait (c : Ctl) (f : FmtM) (s : State) : Out :=
  let id := f.off.toNat % 16
  let par := decide (f.off.toNat / 16 % 2 = 1)
  let s1 := (s.issueHeld c).holdMe s.me.pc c.setk.toNat (.parity false id par false)
  .next (pollOwn s1 (fun s => pollParity s s.cur false id par))

/-! ## Transaction barriers (R196 to R198) -/

/-- The word's offset, and the checks of R196. -/
def tbAddr (s : State) (f : FmtM) : Int := ((s.me.rg f.addr.toNat).toNat : Int) + f.off.toInt * 8
def tbChecks (s : State) (f : FmtM) (regs : List Nat) : List FaultInfo :=
  let x := tbAddr s f
  let l := (s.blk (blockOf s.cur)).loc s.me.rank
  (if x % 8 ≠ 0 then [⟨fcMisaligned, 0, wrap 64 x, 0, 0⟩] else []) ++
  (if x < 0 || !spInside l x.toNat 8 then [⟨fcScratch, 0, wrap 64 x, 0, 0⟩] else []) ++
  faultIf ((f.addr.toNat :: regs).any s.me.gBad) fcUncorrectable

/-- The place of the current group's scratchpad: block and rank. -/
def here (s : State) : Nat × Nat := (blockOf s.cur, s.me.rank)

def execTbinit (c : Ctl) (f : FmtM) (s : State) : Out :=
  let n := (s.me.rg f.data.toNat).toNat
  orFault s (tbChecks s f [f.data.toNat] ++ faultIf (n > 4095) fcBarCount) (fun s =>
    let off := (tbAddr s f).toNat
    let (b, r) := here s
    let s := if tbTag ((s.blk b).loc r) off = tagLive then tbComplete s b r off fcBarReinit else s
    let s := s.modLoc b r (fun l => setTag (tbPut l off { ph := 0, er := 0, fc := 0, ap := n, bp := 0, ac := n }) off tagLive)
    .next (s.variable c []))

/-- The status a TBARV or TBEXP writes when its word is not LIVE (R15, R197). -/
def tbStatus (s : State) (g tag : Nat) : State := s.modGrp g (fun gr => gr.status (deadCode tag))

def execTbexp (c : Ctl) (f : FmtM) (s : State) : Out :=
  orFault s (tbChecks s f [f.data.toNat]) (fun s =>
    let off := (tbAddr s f).toNat
    let n := (s.me.rg f.data.toNat).toNat
    let (b, r) := here s
    let tag := tbTag ((s.blk b).loc r) off
    let s := if tag = tagLive then tbUpdate s b r off 0 n else tbStatus s s.cur tag
    .next (s.variable c []))

def execTbinv (c : Ctl) (f : FmtM) (s : State) : Out :=
  orFault s (tbChecks s f []) (fun s =>
    let off := (tbAddr s f).toNat
    let (b, r) := here s
    let s := if tbTag ((s.blk b).loc r) off = tagLive then
        (tbComplete s b r off fcBarInvalid).modLoc b r (fun l => setTag l off tagInval) else s
    .next (s.variable c []))

def execTbarv (c : Ctl) (f : FmtM) (s : State) : Out :=
  let withExp := f.hint.toNat == 1
  orFault s (tbChecks s f (if withExp then [f.data.toNat] else [])) (fun s =>
    reportPoint s (fun s =>
      let n := if withExp then (s.me.rg f.data.toNat).toNat else 0
      let off := (tbAddr s f).toNat
      .next (((wcDrainGroup s s.cur).issueHeld c).holdMe s.me.pc c.setk.toNat (.tbArrive off n))))

/-- TBARV polled: its update when the release conditions hold. -/
def pollTbArrive (s : State) (g off n : Nat) : State :=
  if !releaseReady s g then s
  else
    let s := wcDrainGroup s g
    let b := blockOf g
    let r := (s.grp g).rank
    let tag := tbTag ((s.blk b).loc r) off
    let s := endHold s g
    if tag = tagLive then tbUpdate s b r off 1 n else tbStatus s g tag

/-- TBWAIT polled: the phase has passed, or it waits (R198). -/
def pollTbWait (s : State) (g off : Nat) (par : Bool) (gd : Nat) : State :=
  let l := (s.blk (blockOf g)).loc (s.grp g).rank
  let tag := tbTag l off
  if tag ≠ tagLive then
    endHold (s.give g [.g gd (BitVec.ofNat 32 (deadCode tag)) false, .q 6 true]) g
  else
    let w := tbGet l off
    if (w.ph == 1) != par then endTbWait s g gd (if w.er = 1 then w.fc else 0) else s

def execTbwait (c : Ctl) (f : FmtM) (s : State) : Out :=
  orFault s (tbChecks s f []) (fun s =>
    let off := (tbAddr s f).toNat
    let par := decide (f.hint.toNat % 2 = 1)
    let s1 := (s.issueHeld c).holdMe s.me.pc c.setk.toNat (.tbWait off par f.data.toNat)
    .next (pollOwn s1 (fun s => pollTbWait s s.cur off par f.data.toNat)))

/-! ## Phase counters (R236 to R238) -/

/-- The cluster groups of a rank that have not ended (R236). -/
def liveOnRank (s : State) (c : Cluster) (rank : Nat) : Nat :=
  (s.groups.filter (fun e => e.2.live && (match c.blocks.findIdx? (· == blockOf e.1) with
    | some i => (if (s.blk (blockOf e.1)).cores.length > 1 then e.2.rank else i) == rank
    | none => false))).length

/-- The count of a rank, or none when it is retired and so infinitely far ahead. -/
def phaseOf (s : State) (c : Cluster) (rank : Nat) : Option W32 :=
  if liveOnRank s c rank = 0 then none else some (mget c.phn 0 rank)

/-- The ranks directly left, right, above and below. -/
def neighbours (c : Cluster) (rank : Nat) : List Nat :=
  let i := rank / c.w
  let j := rank % c.w
  (if j > 0 then [rank - 1] else []) ++ (if j + 1 < c.w then [rank + 1] else []) ++
  (if i > 0 then [rank - c.w] else []) ++ (if i + 1 < c.h then [rank + c.w] else [])

/-- a - b as a signed 32-bit difference is at most n, where a retired rank is far ahead. -/
def within (a : W32) (b : Option W32) (n : Int) : Bool :=
  match b with
  | none => true
  | some b => decide ((a - b).toInt ≤ n)

/-- A rank whose arrivals have reached its live groups advances (R237). -/
def phAdvance (s : State) (cn rank : Nat) : State :=
  let c := s.clu cn
  let a := mget c.parr 0 rank
  if a ≠ 0 && a ≥ liveOnRank s c rank then
    s.modClu cn (fun c => { c with phn := mset c.phn 0 rank (mget c.phn 0 rank + 1), parr := mset c.parr 0 rank 0 })
  else s

/-- The hold of PHADV and the wait of PHWAIT, polled. -/
def pollPh (s : State) (g : Nat) : State :=
  match (s.grp g).hold, s.cluOf g with
  | some h, some c =>
    let rank := cluRank s g
    (match h.kind with
     | .phHold la p _ => if (neighbours c rank).all (fun n => within p (phaseOf s c n) la) then endHold s g else s
     | .phWait all gd =>
       let own := mget c.phn 0 rank
       let others := if all then List.range c.cores.length else neighbours c rank
       if others.all (fun n => n == rank || within own (phaseOf s c n) 0) then
         endHold (acquire (s.give g [.g gd own false]) g 2) g
       else s
     | _ => s)
  | _, _ => s

/-- A wait of PHADV or PHWAIT. -/
def HoldKind.isPh (k : HoldKind) : Bool := match k with | .phHold _ _ _ | .phWait _ _ => true | _ => false

/-- Every holder of a cluster looks again. -/
def pollCluster (s : State) (cn : Nat) : State :=
  (s.groups.filterMap (fun e => if (s.blk (blockOf e.1)).cluster = some cn && e.2.holds.any (·.kind.isPh) then some e.1 else none)).foldl
    (fun s g => pollPh (focusHold s g HoldKind.isPh) g) s

/-- PHADV arrives when the release conditions hold: it counts, then holds with the count as it then stands (R237). -/
def pollPhArrive (s : State) (g la : Nat) : State :=
  if !releaseReady s g then s
  else let s := wcDrainGroup s g
  match (s.blk (blockOf g)).cluster with
    | none => s
    | some cn =>
      let rank := cluRank s g
      let s := s.modClu cn (fun c => { c with parr := mset c.parr 0 rank (mget c.parr 0 rank + 1) })
      let s := phAdvance s cn rank
      let p := mget (s.clu cn).phn 0 rank
      let full := mget (s.clu cn).parr 0 rank == 0
      let s := s.modGrp g (fun gr => match gr.hold with
        | some h => { gr with hold := some { h with kind := .phHold la p full, since := s.clock } }
        | none => gr)
      pollCluster s cn

/-- A group that has ended lowers the live count of its rank, which may complete an arrival (R236, R237). -/
def phGroupEnded (s : State) (g : Nat) : State :=
  match (s.blk (blockOf g)).cluster with
  | none => s
  | some cn => pollCluster (phAdvance s cn (cluRank s g)) cn

def execPhadv (c : Ctl) (f : FmtM) (s : State) : Out :=
  orFault s (faultIf (s.cluOf s.cur).isNone fcIllegal) (fun s =>
    reportPoint s (fun s =>
      .next (((wcDrainGroup s s.cur).issueHeld c).holdMe s.me.pc c.setk.toNat (.phArrive (f.off.toNat % 16)))))

def phwait (c : Ctl) (f : FmtM) (all : Bool) (s : State) : Out :=
  orFault s (faultIf (s.cluOf s.cur).isNone fcIllegal) (fun s =>
    .next (pollOwn ((s.issueHeld c).holdMe s.me.pc c.setk.toNat (.phWait all f.data.toNat)) (fun s => pollPh s s.cur)))

def execPhwaitNbr (c : Ctl) (f : FmtM) (s : State) : Out := phwait c f false s
def execPhwaitAll (c : Ctl) (f : FmtM) (s : State) : Out := phwait c f true s

end Sys2Proof.Machine
end

