-- ==== Sys2Proof/Machine/Retire.lean ====
section
/-!
DEFINITION. How groups, blocks and kernels end (R107, R108, R349), the completion word, phases (R353), and the events of the retirement
tracker and of a completion word that waits.
-/
namespace Sys2Proof.Machine

/-! ## Kernels -/

/-- The completion word of a kernel that has ended (R349). -/
def cwBytes (k : Kernel) : List Byte := toBytes 8 (1 + 2 * k.code.getD 0 + 256 * k.nterm)

/-- TAIL of the fault log; 0 when it cannot be read. -/
def logTail (s : State) (cx : Nat) : Nat :=
  match sysRead s cx ((s.ctx cx).log + 4) 4 with
  | .ok (b, _) => ofBytes b
  | .error _ => 0

/-- Forget a kernel that has finished: its blocks, groups and clusters, once no operation of theirs runs. -/
def sweepKernel (s : State) (kn : Nat) : State :=
  let bs := (s.blocks.filter (fun e => e.2.kernel == kn)).map (·.1)
  if bs.any (fun b => !(opsOf s b).isEmpty) || (s.krn kn).cwWaiting then s
  else { s with
    kernels := mdel s.kernels kn
    starts := mdel s.starts kn
    blocks := mfilter (fun b _ => !bs.contains b) s.blocks
    groups := mfilter (fun g _ => !bs.contains (blockOf g)) s.groups
    clusters := mfilter (fun _ (c : Cluster) => !c.blocks.any (fun b => bs.contains b)) s.clusters }

/-- Kernels of a phase that are queued or resident. -/
def phaseBusy (s : State) (cx p : Nat) : Bool := s.kernels.any (fun e => e.2.ctx == cx && e.2.phase == p && !e.2.finished)

/-- The phase of a DET context ends when nothing of it is left: its streams close, and the nearest queued later phase begins
(R317, R353). -/
def advancePhase (s : State) (cx : Nat) : State :=
  let c := s.ctx cx
  if !c.det || phaseBusy s cx c.phase || s.groups.any (fun e => e.2.ctx == cx && !e.2.detBuf.isEmpty) then s
  else
    let later := (s.kernels.filter (fun e => e.2.ctx == cx && !e.2.finished && decide (phaseDiff e.2.phase c.phase > 0))).map (fun e =>
      (phaseDiff e.2.phase c.phase).toNat)
    let s := s.modCtx cx (fun c => { c with streams := [] })
    match later with
    | [] => s
    | d :: ds => s.modCtx cx (fun c => { c with phase := (c.phase + ds.foldl min d) % 65536 })

/-- The last quantum of a DET kernel has committed: no buffered write and no engine operation of it is left. -/
def kernelClean (s : State) (kn : Nat) : Bool :=
  s.blocks.all (fun e => e.2.kernel != kn || ((s.groupsOf e.1).all (fun g => (s.grp g).detBuf.isEmpty) && (opsOf s e.1).isEmpty))

/-- The completion word is written once, or its failure recorded and the word kept waiting (R349). -/
def finishKernel (s : State) (kn : Nat) : State :=
  let k := s.krn kn
  let s := s.modKrn kn (fun k => { k with finished := true })
  let s :=
    if k.cw = 0 then s
    else match sysWrite s k.ctx k.cw (cwBytes k) with
      | .ok s => s
      | .error f =>
        let s := kernelRecord s k f k.cw
        s.modKrn kn (fun x => { x with cwWaiting := true, cwTail := logTail s k.ctx })
  advancePhase (sweepKernel s kn) k.ctx

/-- Every block of a kernel has ended, and in a DET context its last quantum has committed. -/
def checkKernel (s : State) (kn : Nat) : State :=
  match mget? s.kernels kn with
  | none => s
  | some k =>
    if k.finished then sweepKernel s kn
    else if k.endedBlocks ≥ k.blocks && (!(s.ctx k.ctx).det || kernelClean s kn) then finishKernel s kn else s

/-- COMPLETION_WORD_RETRY: TAIL of the fault log has advanced since the last try. -/
def execCompletionWordRetry (cx : Nat) (s : State) : Out :=
  let t := logTail s cx
  .next ((s.kernels.filter (fun e => e.2.ctx == cx && e.2.cwWaiting && e.2.cwTail != t)).foldl (fun s e =>
    match sysWrite s cx e.2.cw (cwBytes e.2) with
    | .ok s => sweepKernel (s.modKrn e.1 (fun k => { k with cwWaiting := false })) e.1
    | .error _ => s.modKrn e.1 (fun k => { k with cwTail := t })) s)

/-! ## Blocks -/

/-- The accesses of a block's groups are done, no tracker entry holds any, and a terminated block's engine operations are done. -/
def blockOver (s : State) (b : Nat) : Bool :=
  (s.blk b).stage == .running && (s.groups.filter (fun e => blockOf e.1 == b)).all (fun e => e.2.stop == Stop.ended && e.2.acc.isEmpty) &&
  s.parts.all (fun p => p.2.tracker.all (fun t => t.block != b)) && ((s.blk b).term.isNone || (opsOf s b).isEmpty)

/-- A block ends: it leaves its cores; a fused cluster that is complete leaves no L1 line (R231). -/
def finishBlock (s : State) (b : Nat) : State :=
  let bl := s.blk b
  let s := s.modBlk b (fun x => { x with stage := .ended })
  let s := match bl.cluster with
    | none => s
    | some cn =>
      let c := s.clu cn
      if c.fused && c.blocks.all (fun (x : Nat) => (s.blk x).stage == BlockStage.ended) then
        c.cores.foldl (fun s k => (flushL1 s k).modCore k (fun x => { x with reservedBy := none })) s
      else s
  checkKernel (s.modKrn bl.kernel (fun k => { k with endedBlocks := k.endedBlocks + 1 })) bl.kernel

/-- End a block that has come to its end. -/
def checkBlock (s : State) (b : Nat) : State := if blockOver s b then finishBlock s b else s

/-! ## Groups (R107, R108) -/

/-- A group drops its copies of sealed lines (R281). -/
def dropSealedOf (s : State) (g : Nat) : State :=
  { s with cores := mmap (fun _ (c : Core) => { c with l1 := mfilter (fun _ (l : L1Line) => l.sealedBy != some g) c.l1 }) s.cores }

/-- A group ends: its slot and registers are free, and its rank of the cluster may advance. -/
def endGroup (s : State) (g : Nat) : State :=
  let s := dropSealedOf (s.modGrp g (fun gr => { gr with
    stop := .ended, hold := none, hold2 := none, chain := none, pend := [], stack := [], sc := 0 })) g
  checkBlock (phGroupEnded s g) (blockOf g)

/-- EXIT drains: every issued instruction has completed (step 3 of R107), and what stores that were then outstanding left in write-combining
buffers drains with them (R162). -/
def pollExit (s : State) (g : Nat) : State :=
  if (s.grp g).acc.isEmpty && (s.grp g).pend.isEmpty && (s.grp g).fence.isNone then endGroup (wcDrainGroup s g) g else s

/-- An access that writes registers. -/
def Access.returns (a : Access) : Bool :=
  match a.op with
  | .load => true
  | .store => false
  | .atom _ _ r => r

/-- TAIL waits for a tracker entry, then for the instructions that write a register or predicate (R108). Of several that wait, the one whose group
is looked at first takes a freed entry (R110, log 89). -/
def pollTail (s : State) (g : Nat) : State :=
  let p := (s.grp g).part
  match (s.grp g).hold with
  | some h => match h.kind with
    | .tailWait =>
      if (s.part p).tracker.length ≥ 8 then s
      else
        let s := { s with nextId := s.nextId + 1 }.modPart p (fun (x : Part) => { x with tracker := x.tracker ++ [({ id := s.nextId, block := blockOf g, g := g } : TrackEnt)] })
        s.modGrp g (fun gr => { gr with hold := some { h with kind := .tailing, since := s.clock } })
    | .tailing => if (s.grp g).acc.all (fun a => !a.returns) && (s.grp g).pend.all (fun x => x.wr.isEmpty && !inSlot s g x.id) then endGroup s g else s
    | _ => s
  | none => s

/-- TRACKER_ENTRY_RETIRE: the last operation an entry holds has completed. -/
def execTrackerEntryRetire (p n : Nat) (s : State) : Out :=
  match (s.part p).tracker.find? (fun t => t.id == n) with
  | none => .next s
  | some t =>
    -- a FENCE that moved to the entry completes behind the group's accesses, and what they left in write-combining buffers drains
    let s := pollSoft s t.g
    if (s.grp t.g).fence.isSome then .next s
    else if (s.grp t.g).acc.isEmpty && (s.grp t.g).stop = .ended then
      .next (checkBlock ((wcDrainGroup s t.g).modPart p (fun x => { x with tracker := x.tracker.filter (fun y => y.id != n) })) t.block)
    else .next s

/-- The blocks of a core that have come to their end. -/
def checkCore (s : State) (core : Nat) : State := (blocksOn s core).foldl (fun s e => checkBlock s e.1) s

end Sys2Proof.Machine
end

