-- ==== Sys2Proof/Machine/Commit.lean ====
section
/-!
DEFINITION. Commit rounds of DET contexts (R299 to R303, R320): the exchange of frontiers, the start of a round, and its completion.
-/
namespace Sys2Proof.Machine

/-- LQ_EXCHANGE: the dispatchers form the minimum of LQ over the cores that run the context (R301). -/
def execLqExchange (cx : Nat) (s : State) : Out :=
  if !(s.ctx cx).det then .next s
  else
    let s := s.cores.foldl (fun s e => setLq s e.1) s
    let mine := distinct ((s.groups.filter (counts s cx)).map (fun e => s.coreOf e.1))
    let f := mine.foldl (fun m c => min m (s.core c).lq.toNat) noBound
    .next (s.modCtx cx (fun c => { c with front := f }))

/-! ## What a round applies -/

/-- The quantum a buffered write commits in: an operation that no BWAIT covered belongs to the last quantum of its group, and
counts once the group has ended and the operation is done (R300). -/
def commitQuantum (s : State) (e : Nat × Group) (w : DetWr) : Option Nat :=
  match w.quantum with
  | some q => some q
  | none => if e.2.stop = .ended && (match w.eng with | some id => (findOp s id).isNone | none => true) then some e.2.quantum else none

/-- A write that a round with frontier `f` applies: of a quantum below it that its group has ended. -/
def due (s : State) (f : Nat) (e : Nat × Group) (w : DetWr) : Bool :=
  match commitQuantum s e w with
  | some q => decide (q < f) && endedQuantum e.2 q
  | none => false

/-- A group of the context is saved, so that nothing commits (R358). -/
def someSaved (s : State) (cx : Nat) : Bool :=
  s.groups.any (fun e => e.2.ctx == cx && e.2.live && ((s.blk (blockOf e.1)).stage == .saved || e.2.stop == .saved))

/-- Some group waits for a quantum below `f` to commit, or an ended group's writes do. -/
def roundWanted (s : State) (cx f : Nat) : Bool :=
  s.groups.any (fun e => e.2.ctx == cx &&
    ((e.2.live && e.2.detHold.isSome && decide (e.2.quantum < f)) || (e.2.stop == .ended && e.2.detBuf.any (due s f e))))

/-- COMMIT_ROUND_START: its frontier is the one exchanged, lowered by groups that have started since (R300, R301). -/
def execCommitRoundStart (cx : Nat) (s : State) : Out :=
  let c := s.ctx cx
  let f := min c.front (frontier s cx)
  if !c.det || c.round.isSome || someSaved s cx || !roundWanted s cx f then .next s
  else .next (s.modCtx cx (fun c => { c with rounds := c.rounds + 1, round := some f }))

/-- A write with its place in the order of R300: quantum, GSID, group, and the program position it carries. -/
abbrev Placed := (Nat × Nat × Nat) × DetWr

def placeLt (x y : Placed) : Bool :=
  let a := x.1
  let b := y.1
  a.1 < b.1 || (a.1 == b.1 && (a.2.1 < b.2.1 || (a.2.1 == b.2.1 && (a.2.2 < b.2.2 || (a.2.2 == b.2.2 && x.2.pos < y.2.pos)))))

/-- Insert behind everything that does not come later. -/
def insPlaced (x : Placed) : List Placed → List Placed
  | [] => [x]
  | y :: ys => if placeLt x y then x :: y :: ys else y :: insPlaced x ys

/-- The writes of a round in their order. -/
def roundWrites (s : State) (cx f : Nat) : List Placed :=
  ((s.groups.filter (fun e => e.2.ctx == cx)).flatMap (fun e => (e.2.detBuf.filter (due s f e)).map (fun w =>
    (((commitQuantum s e w).getD 0, e.2.gsid.toNat, e.1), w)))).foldl (fun l x => insPlaced x l) []

/-- Remember what the bytes of a write held before this round. -/
def noteOld (s : State) (cx pol pa n key : Nat) : State :=
  let old := (physRead s pol pa n key).1
  s.modCtx cx (fun c => { c with undo := (List.range n).foldl (fun u i =>
    if u.any (fun x => x.1 == c.rounds && x.2.1 == pa + i) then u else u ++ [(c.rounds, pa + i, old.getD i 0)]) c.undo })

def putCommitted (s : State) (cx : Nat) (w : DetWr) (pa : Nat) (bytes : List Byte) : State :=
  physWrite (noteOld s cx w.pol pa bytes.length w.key) w.pol pa w.key bytes

/-- One RED at commit; a poisoned word is left as it is. Longer operands are adds of 4-byte words (R395). -/
def commitRed (s : State) (cx : Nat) (w : DetWr) (float : Bool) (code pa : Nat) (bytes : List Byte) : State :=
  let r := physRead s w.pol pa bytes.length w.key
  if r.2 then s
  else match atomNew float code bytes.length (ofBytes r.1) bytes with
    | some n => putCommitted s cx w pa (toBytes bytes.length n)
    | none => s

/-- The record of an SKRED whose destination is found unfit at commit (R320). -/
def skredRecord (s : State) (cx g va code : Nat) : State :=
  let b := s.blk (blockOf g)
  (logPut s cx sysCore (fun seq => recBytes code 0 seq 0 va 0 (gidField s g) b.x b.y b.z 0)).1

/-- Apply one buffered write and free its units (R300, R303). -/
def commitOne (cx : Nat) (s : State) (x : Placed) : State :=
  let w := x.2
  let g := x.1.2.2
  let s := match w.op with
    | .write bytes => putCommitted s cx w w.pa bytes
    | .red float code bytes =>
      if bytes.length ≤ 8 then commitRed s cx w float code w.pa bytes
      else (List.range (bytes.length / 4)).foldl (fun s i => commitRed s cx w float code (w.pa + 4 * i) ((bytes.drop (4 * i)).take 4)) s
    | .skred va pieces src =>
      let s' := pieces.foldl (fun (s : State) (p : Nat × Nat × Nat) => noteOld s cx 0 p.1 p.2.1 p.2.2) s
      (match skMergeAt s' pieces src ⟨0, 0, 0⟩ with
       | .ok t => t
       | .error code => skredRecord s cx g va code)
    | .rollback pieces => rollbackPieces s g pieces
  s.modCore (s.coreOf g) (fun c => { c with units := c.units - w.units })

/-- The writes of a round leave the buffers. -/
def dropApplied (s : State) (cx f : Nat) : State :=
  let t := s
  { s with groups := mmap (fun g (gr : Group) => if gr.ctx == cx then { gr with detBuf := gr.detBuf.filter (fun w => !due t f (g, gr) w) } else gr) s.groups }

/-- The groups that a completed round lets go on: it started after they ended their quantum, and its frontier exceeds it (R301). -/
def letGo (s : State) (cx f : Nat) : State :=
  let n := (s.ctx cx).rounds
  { s with groups := mmap (fun _ (gr : Group) => match gr.detHold with
      | some r => if gr.ctx == cx && decide (r < n) && decide (gr.quantum < f) then
          { gr with quantum := gr.quantum + 1, detHold := none, qRound := n, waitFrom := s.waitNow gr, fresh := s.clock } else gr
      | none => gr) s.groups }

/-- What no live group can look back to is forgotten. -/
def trimUndo (s : State) (cx : Nat) : State :=
  let low := (s.groups.filter (fun e => e.2.ctx == cx && e.2.live)).foldl (fun m e => min m e.2.qRound) (s.ctx cx).rounds
  s.modCtx cx (fun c => { c with undo := c.undo.filter (fun u => low < u.1) })

/-- COMMIT_ROUND_COMPLETE: every home has applied the round's writes in order, the cores set CQ, and units are free. -/
def execCommitRoundComplete (cx : Nat) (s : State) : Out :=
  match (s.ctx cx).round with
  | none => .next s
  | some f =>
    let ws := roundWrites s cx f
    let t := dropApplied (ws.foldl (commitOne cx) s) cx f
    let t := letGo t cx f
    let cs := distinct ((t.groups.filter (fun e => e.2.ctx == cx)).map (fun e => t.coreOf e.1))
    let t := cs.foldl (fun t c => t.modCore c (fun x => { x with cq := BitVec.ofNat 32 (f - 1) })) t
    let t := trimUndo (t.modCtx cx (fun c => { c with round := none, lastF := f })) cx
    let ks := (t.kernels.filter (fun e => e.2.ctx == cx)).map (·.1)
    .next (advancePhase (ks.foldl checkKernel t) cx)

end Sys2Proof.Machine
end

