-- ==== Sys2Proof/Machine/Package.lean ====
section
/-!
DEFINITION. The package: the services of the Serow monitor (R333, R336, R338, R339, R341), the host's accesses (R178, R340), memory and
SRAM errors (R151 to R154, R344), the die link (R329), power (R342) and replication intervals (R279).
-/
namespace Sys2Proof.Machine

/-! ## Requests (R338, R339) -/

/-- The request that the ring of a context holds at CONS: CONS, and OP with its arguments. -/
def ringReq (s : State) (cx : Nat) : Option (Nat × SvcReq) :=
  let svc := (s.ctx cx).svc
  match sysRead s cx svc 8 with
  | .error _ => none
  | .ok (h, _) =>
    let cons := fieldOf h 4 4
    if (mget? s.ctxs cx).isNone || fieldOf h 0 4 = cons then none
    else match sysRead s cx (svc + 64 + 32 * (cons % 64)) 32 with
      | .error _ => none
      | .ok (r, _) =>
        let arg := fun (o : Nat) => BitVec.ofNat 64 (fieldOf r o 8)
        some (cons, SvcReq.mk (.ring cx) (fieldOf r 0 4) (arg 8) (arg 16) (arg 24))

/-- STATUS is written with a release, then CONS advances. -/
def ringDone (s : State) (cx cons status : Nat) : Option State :=
  let svc := (s.ctx cx).svc
  match sysWrite s cx (svc + 64 + 32 * (cons % 64) + 4) (toBytes 4 status) with
  | .error _ => none
  | .ok s => match sysWrite s cx (svc + 4) (toBytes 4 (cons + 1)) with
    | .error _ => none
    | .ok s => some s

/-- What a service answers: the state, STATUS, and the result field where the service has one. -/
abbrev Answer := State × Nat × Nat

def answer' (s : State) (status : Nat) : Answer := (s, status, 0)

/-- The mailbox answers: STATUS and the result field go to the host, CONS advances and MSI-X vector 0 is raised. -/
def mailDone (p : Nat) (a : Answer) : State :=
  a.1.modPkg p (fun k => { k with reply := k.reply ++ [(a.2.1, a.2.2)], msi := k.msi + 1 })

/-- A CTXSTOP of the package has begun and is not over: the mailbox goes on after it. -/
def mailBusy (s : State) (p : Nat) : Bool := s.ctxs.any (fun c => c.2.pkg == p && c.2.stopping)

/-- Perform the request that stands next in its stream; `mail` says that only the mailbox may ask (R338). -/
def serve (s : State) (q : SvcReq) (mine mail : Bool) (act : State → Answer) : Out :=
  if !mine then .next s
  else match q.src with
    | .ring cx => (match ringReq s cx with
      | some (cons, r) =>
        if r ≠ q then .next s
        else
          let a := if mail then answer' s fcPrivileged else act s
          (match ringDone a.1 cx cons a.2.1 with
           | some t => .next t
           | none => .next s)
      | none => .next s)
    | .mailbox p => if p ≥ s.packages || mailBusy s p then .next s else .next (mailDone p (act s))

/-- The package whose monitor performs a request. -/
def svcPkg (s : State) (q : SvcReq) : Nat :=
  match q.src with
  | .ring cx => (s.ctx cx).pkg
  | .mailbox p => p

/-- The contexts that a request with no context argument concerns: the ring's own, or every one of the package (log 47). -/
def svcCtxs (s : State) (q : SvcReq) : List Nat :=
  match q.src with
  | .ring cx => [cx]
  | .mailbox p => (s.ctxs.filter (fun c => c.2.pkg == p)).map (·.1)

def stNone : Nat := 0x100
def stBusy : Nat := 0x101
def stArg : Nat := 0x102
def stSmall : Nat := 0x103

/-! ## REPLAY (R338) -/

/-- The group suspended under a SEQ in one of the contexts. -/
def suspendedOn (s : State) (cxs : List Nat) (seq : Nat) : Option Nat :=
  (s.groups.find? (fun e => cxs.contains e.2.ctx && e.2.stop == Stop.replay seq)).map (·.1)

/-- The block of a group is saved, or is stopping for a save. -/
def heldBack (s : State) (g : Nat) : Bool := (s.blk (blockOf g)).stage == .saved || saving s (blockOf g)

/-- The suspended group goes on at its PC; in a saved block, once it is restored. -/
def resume (s : State) (g : Nat) : State :=
  let back := heldBack s g
  s.modGrp g (fun gr => { gr with
    stop := if back then .saved else .running, waiting := none, waitFrom := if back then 0 else s.clock, fresh := s.clock })

/-- The suspended group's block ends under step 3 of R26. -/
def abort (s : State) (g : Nat) : State :=
  let b := blockOf g
  let s := terminate s g ((s.grp g).waiting.getD (fi fcNotPresent))
  if (s.blk b).stage = .saved then finishBlock s b else checkBlock s b

def replayAct (s : State) (q : SvcReq) : Answer :=
  if q.arg1.toNat > 1 || q.arg2 ≠ 0 then answer' s stArg
  else match suspendedOn s (svcCtxs s q) q.arg0.toNat with
    | none => answer' s 1
    | some g => answer' (if q.arg1 = 0 then resume s g else abort s g) 0

def execSvcReplay (q : SvcReq) (s : State) : Out := serve s q (q.op == 1) false (fun s => replayAct s q)

/-! ## INVAL (R336) -/

/-- The cores whose TLBs may hold translations of a context. -/
def tlbCores (s : State) (cx : Nat) : List Nat :=
  (mkeys s.cores).filter (fun c => (blocksOn s c).all (fun e => e.2.ctx == cx))

def invalRange (s : State) (cx base len : Nat) : State :=
  let keep := fun (e : TlbEnt) => !(decide (e.va < base + len) && decide (base < e.va + e.size))
  (tlbCores s cx).foldl (fun s c => s.modCore c (fun x => { x with tlb := x.tlb.filter keep, tlb2 := x.tlb2.filter keep })) s

def invalAct (s : State) (q : SvcReq) : Answer :=
  if q.arg2 ≠ 0 then answer' s stArg
  else answer' ((svcCtxs s q).foldl (fun s cx => invalRange s cx q.arg0.toNat q.arg1.toNat) s) 0

def execSvcInval (q : SvcReq) (s : State) : Out := serve s q (q.op == 2) false (fun s => invalAct s q)

/-! ## CTXSTART (R333) -/

/-- The package part of a pod physical address of this package. -/
def podPa (p a : Nat) : Nat := p * 2 ^ 43 + a

/-- A pod physical address outside the pod's packages. -/
def outsidePod (s : State) (pa : Nat) : Bool := decide (pa ≥ 2 ^ 50) || decide (pkgOfPa pa ≥ s.packages)

/-- A range of addresses lies in HBM of a package. -/
def inHbm (p base len : Nat) : Bool := base / 2 ^ 43 == p && decide (base % 2 ^ 43 + len ≤ 0xC000000000)

/-- The grant `i` of a header. -/
def headGrant (h : List Byte) (i : Nat) : Nat × Nat := (fieldOf h (64 + 16 * i) 8, fieldOf h (72 + 16 * i) 8)

def grantBad (s : State) (g : Nat × Nat) : Bool :=
  g.1 % 4096 != 0 || g.2 % 4096 != 0 || (g.2 != 0 && (outsidePod s g.1 || outsidePod s (g.1 + g.2 - 1)))

/-- A header breaks a rule of its table. -/
def headerBad (s : State) (p : Nat) (h : List Byte) : Bool :=
  let root := fieldOf h 0 8
  let attr := fieldOf h 9 1
  root % 4096 != 0 || !inHbm p root 4096 || decide (fieldOf h 8 1 ≥ 128) || decide (attr / 2 % 16 > 8) || attr / 32 % 4 == 3 ||
  decide (attr ≥ 128) || fieldOf h 10 2 != 0 || fieldOf h 32 8 % 64 != 0 || fieldOf h 40 8 % 64 != 0 || fieldOf h 56 8 != 0 ||
  (List.range 8).any (fun i => grantBad s (headGrant h i))

/-- The context of a header. -/
def ctxFrom (p : Nat) (h : List Byte) : Ctx :=
  let attr := fieldOf h 9 1
  { pkg := p, root := fieldOf h 0 8, tkey := fieldOf h 8 1, det := attr % 2 == 1, quantum := 2 ^ (8 + attr / 2 % 16),
    fsvc := attr / 32 % 4, wdog := fieldOf h 12 4, keyGrant := BitVec.ofNat 128 (fieldOf h 16 16 / 2 * 2),
    log := fieldOf h 32 8, svc := fieldOf h 40 8,
    grants := (List.range 8).filterMap (fun i => if (headGrant h i).2 = 0 then none else some (i, headGrant h i)) }

/-- The root launch record, read and checked as LAUNCH does (R346 to R348). -/
def rootKernel (s : State) (cx lr : Nat) : Option Kernel :=
  match sysRead s cx lr 64 with
  | .error _ => none
  | .ok (r, bad) => match sysRead s cx (fieldOf r 0 8) 128 with
    | .error _ => none
    | .ok (d, bad') =>
      let k := kernelFrom cx lr r d
      if lr % 64 != 0 || bad || bad' || recordBad (s.ctx cx) k r d || k.after.any (fun a => (virtCheck s cx sysCore .read a 8).isSome)
      then none else some k

/-- Start the root kernel: its completion word is cleared and its record queued (R355). -/
def startRoot (s : State) (k : Kernel) : Option State :=
  if k.cw = 0 then some (enqueue s k)
  else match sysWrite s k.ctx k.cw (toBytes 8 0) with
    | .error _ => none
    | .ok s => some (enqueue s k)

def ctxstartAct (s : State) (q : SvcReq) : Answer :=
  let p := svcPkg s q
  let a := q.arg0.toNat
  if q.arg1 ≠ 0 || q.arg2 ≠ 0 || a % 64 ≠ 0 || a + 192 > 0xC000000000 then answer' s stArg
  else
    let h := physRead s 0 (podPa p a) 192 0
    if h.2 then answer' s fcUncorrectable
    else if headerBad s p h.1 then answer' s fcLaunch
    else match (List.range 64).find? (fun i => (mget? s.ctxs (64 * p + i)).isNone) with
      | none => answer' s stBusy
      | some i =>
        let cx := 64 * p + i
        let t := { s with ctxs := mput s.ctxs cx (ctxFrom p h.1) }
        match rootKernel t cx (fieldOf h.1 48 8) with
        | none => answer' s fcLaunch
        | some k => match startRoot t k with
          | none => answer' s fcLaunch
          | some t => (t, 0, i)

def execSvcCtxstart (q : SvcReq) (s : State) : Out := serve s q (q.op == 3) true (fun s => ctxstartAct s q)

/-! ## CTXSTOP (R339) -/

def ctxBlocks (s : State) (cx : Nat) : List Nat := (s.blocks.filter (fun e => e.2.ctx == cx)).map (·.1)

/-- Every block of the context has stopped and drained. -/
def ctxDrained (s : State) (cx : Nat) : Bool :=
  (s.blocks.filter (fun e => e.2.ctx == cx && e.2.stage == .running)).all (fun e => drainedBlock s e.1)

/-- Lines of the grants of a context that some L2 or the directory holds. -/
def grantLines (s : State) (cx : Nat) : List Nat :=
  let gs := mvals (s.ctx cx).grants
  distinct ((mkeys s.l2).map (· % 2 ^ 42) ++ mkeys s.dir) |>.filter (fun l => gs.any (fun g => g.1 ≤ 256 * l && 256 * l < g.1 + g.2))

/-- Bring a line home and write it back. -/
def cleanHome (s : State) (line : Nat) : State := writeBack (collapse s line) line

/-- Forget everything of a context. -/
def dropCtx (s : State) (cx : Nat) : State :=
  let bs := ctxBlocks s cx
  let own := fun (o : EngOp) => o.ctx == cx
  let cs := distinct (bs.flatMap (fun b => (s.blk b).cores) ++ (s.clusters.filter (fun e => e.2.ctx == cx)).flatMap (fun e => e.2.cores))
  let s := cs.foldl (fun s c => (flushL1 s c).modCore c (fun x => { x with tlb := [], tlb2 := [], reservedBy := none, units := 0, lq := 0xFFFFFFFF })) s
  let cut := fun (l : List EngOp) => l.filter (!own ·)
  let free := fun (ch : Chan) => match ch.op with
    | some (c, id) => (match opAt s c id with
      | some o => if own o then { ch with op := none, xfers := [], loops := [] } else ch
      | none => ch)
    | none => ch
  { s with
    dies := mmap (fun _ (d : Die) => { d with chans := mmap (fun _ ch => free ch) d.chans }) s.dies
    cores := mmap (fun _ (c : Core) => { c with
      copyQ := cut c.copyQ, mxQ := cut c.mxQ, skQ := cut c.skQ, colQ := cut c.colQ }) s.cores
    kernels := mfilter (fun _ (k : Kernel) => k.ctx != cx) s.kernels
    starts := mfilter (fun k _ => (s.krn k).ctx != cx) s.starts
    clusters := mfilter (fun _ (c : Cluster) => c.ctx != cx) s.clusters
    blocks := mfilter (fun b _ => !bs.contains b) s.blocks
    groups := mfilter (fun g _ => !bs.contains (blockOf g)) s.groups
    turn := s.turn.filter (fun g => !bs.contains (blockOf g))
    ctxs := mdel s.ctxs cx }

/-- CTXSTOP stops the blocks at once, and is answered when all have drained: until then it stands and is looked at again. -/
def execSvcCtxstop (q : SvcReq) (s : State) : Out :=
  match q.src with
  | .ring _ => serve s q (q.op == 4) true (fun s => answer' s 0)
  | .mailbox p =>
    let cx := 64 * p + q.arg0.toNat
    if q.op ≠ 4 || p ≥ s.packages || (mailBusy s p && !(s.ctx cx).stopping) then .next s
    else if q.arg1 ≠ 0 || q.arg2 ≠ 0 then .next (mailDone p (answer' s stArg))
    else if q.arg0.toNat ≥ 64 || (mget? s.ctxs cx).isNone then .next (mailDone p (answer' s stNone))
    else
      let t := if (s.ctx cx).stopping then s else stopIssue (s.modCtx cx (fun c => { c with stopping := true })) (ctxBlocks s cx)
      if !ctxDrained t cx then .next t
      else .next (mailDone p (answer' ((grantLines t cx).foldl cleanHome (dropCtx t cx)) 0))

/-! ## Keys (R331, R339, R341) -/

def sessionKey (session handle : Nat) : Nat := session * 2 ^ 64 + handle % 2 ^ 64

/-- SPDM_SECURE_SESSION_MESSAGE: a requester sends 64 bytes under a handle. -/
def execSpdmSecureSessionMessage (pkg session handle : Nat) (key : BitVec 512) (s : State) : Out :=
  if pkg ≥ s.packages then .next s
  else .next (s.modPkg pkg (fun p => { p with sessions := mput p.sessions (sessionKey session handle) key }))

def slotBad (n : Nat) : Bool := n == 0 || decide (n > 127)

def keyloadAct (s : State) (q : SvcReq) : Answer :=
  let p := svcPkg s q
  let k := s.pkg p
  let n := q.arg0.toNat
  if slotBad n then answer' s stArg
  else if (mget? k.keys n).isSome && !k.badKeys.contains n then answer' s stBusy
  else match mget? k.sessions (sessionKey q.arg1.toNat q.arg2.toNat) with
    | none => answer' s fcKey
    | some x => answer' (s.modPkg p (fun k => { k with keys := mput k.keys n x, badKeys := srem k.badKeys n })) 0

def execSvcKeyload (q : SvcReq) (s : State) : Out := serve s q (q.op == 5) true (fun s => keyloadAct s q)

/-- Lines that an L2 slice of a package holds under a key id. -/
def keyLines (s : State) (p key : Nat) : List Nat :=
  distinct ((s.l2.filter (fun e => e.1 / 2 ^ 42 / 2 == p && e.2.key == key)).map (fun e => e.1 % 2 ^ 42))

def keyclrAct (s : State) (q : SvcReq) : Answer :=
  let p := svcPkg s q
  let n := q.arg0.toNat
  if slotBad n || q.arg1 ≠ 0 || q.arg2 ≠ 0 then answer' s stArg
  else
    let s := (keyLines s p n).foldl (fun s l =>
      let s := cleanHome s l
      if homeDie (256 * l) / 2 = p then giveUp s (homeDie (256 * l)) l else s) s
    let s := s.modPkg p (fun k => { k with keys := mdel k.keys n, badKeys := srem k.badKeys n })
    let clr := fun (c : Ctx) => if c.pkg == p then { c with keyGrant := c.keyGrant &&& ~~~(1#128 <<< n) } else c
    answer' { s with ctxs := mmap (fun _ (c : Ctx) => clr c) s.ctxs } 0

def execSvcKeyclr (q : SvcReq) (s : State) : Out := serve s q (q.op == 6) true (fun s => keyclrAct s q)

/-! ## Power (R342) -/

def stepDown (mhz : Nat) : Nat := if mhz > 1100 then 1100 else 900
def stepUp (mhz : Nat) : Nat := if mhz < 1100 then 1100 else 1300

/-- Change a package; where that is a power step, the cycles counted so far keep the length they had (R5, R342). -/
def State.stepPkg (s : State) (pkg : Nat) (f : Pkg → Pkg) : State :=
  s.modPkg pkg (fun p =>
    let q := f p
    if q.mhz = p.mhz then q else { q with clocks := (s.clock, p.mhz) :: p.clocks })

/-- The 1 ms average, once ten samples form it. -/
def Pkg.average (p : Pkg) : Option Nat := if p.samples.length < 10 then none else some (p.samples.foldl (· + ·) 0 / 10)

/-- The limit holds against the last average: the headroom, and a step down when the average exceeds it. -/
def Pkg.limited (p : Pkg) : Pkg :=
  match p.average with
  | none => p
  | some a =>
    let p := { p with hdrm := p.plimit - a }
    if a > p.plimit then { p with mhz := stepDown p.mhz, calm := 0 } else p

def plimitAct (s : State) (q : SvcReq) : Answer :=
  let n := q.arg0.toNat
  if q.arg1 ≠ 0 || q.arg2 ≠ 0 || n < 1000 || n > 2700 then answer' s stArg
  else answer' (s.stepPkg (svcPkg s q) (fun p => { p with plimit := n }.limited)) 0

def execSvcPlimit (q : SvcReq) (s : State) : Out := serve s q (q.op == 7) true (fun s => plimitAct s q)

/-- Count how long the average has stayed 100 W below the limit; after 10 ms of it, below 95 degrees, one step up. -/
def Pkg.calmed (p : Pkg) : Pkg :=
  match p.average with
  | none => p
  | some a =>
    let n := if a + 100 ≤ p.plimit then p.calm + 1 else 0
    if n ≥ 100 && p.degC < 95 then { p with calm := 0, mhz := stepUp p.mhz } else { p with calm := n }

/-- One sample of power and junction temperature. No step of any kind is taken before the first average is formed (log 49). -/
def Pkg.sampled (p : Pkg) (now watts deg : Nat) : Pkg :=
  let hot := deg ≥ 100 && p.degC < 100 && decide (p.samples.length ≥ 9)
  let p := ({ p with samples := (p.samples ++ [watts]).drop (p.samples.length + 1 - 10), degC := deg, time := now }.limited).calmed
  if hot then { p with mhz := stepDown p.mhz, calm := 0 } else p

/-- POWER_SAMPLE: every 100 µs. -/
def execPowerSample (pkg watts degC : Nat) (s : State) : Out :=
  if pkg ≥ s.packages || elapsedUs s pkg (s.pkg pkg).time < 100 then .next s
  else .next (s.stepPkg pkg (fun p => p.sampled s.clock watts degC))

/-- THERMAL_LIMIT: the junction temperature reaches 100 degrees, and the clock steps down. -/
def execThermalLimit (pkg : Nat) (s : State) : Out :=
  if pkg ≥ s.packages || (s.pkg pkg).degC ≥ 100 then .next s
  else .next (s.stepPkg pkg (fun p =>
    if p.average.isNone then { p with degC := 100 } else { p with degC := 100, mhz := stepDown p.mhz, calm := 0 }))

/-! ## ATTEST (R339, R341) -/

/-- The result area stands behind a 32-byte nonce in host memory. -/
def attestAct (s : State) (q : SvcReq) : Answer :=
  let p := svcPkg s q
  let a := q.arg0.toNat
  if q.arg2 ≠ 0 || !(0x40000000000 ≤ a && a + 32 + q.arg1.toNat ≤ 2 ^ 43) then answer' s stArg
  else
    let r := Config.attestResponse p (physRead s 0 (podPa p a) 32 0).1
    if r.length > q.arg1.toNat then (s, stSmall, r.length)
    else (physWrite s 0 (podPa p a + 32) 0 r, 0, r.length)

def execSvcAttest (q : SvcReq) (s : State) : Out := serve s q (q.op == 8) true (fun s => attestAct s q)

/-! ## GRANT (R339, R340) -/

/-- Kind 0: a context grant. -/
def grantCtx (s : State) (p a base len : Nat) : Answer :=
  let cx := 64 * p + a % 64
  if a / 1024 ≠ 0 then answer' s stArg
  else if (mget? s.ctxs cx).isNone then answer' s stNone
  else if base % 4096 ≠ 0 || len % 4096 ≠ 0 then answer' s stArg
  else if len ≠ 0 && (outsidePod s base || outsidePod s (base + len - 1)) then answer' s fcLaunch
  else
    let i := a / 64 % 8
    let s := s.modCtx cx (fun c => { c with grants := if len = 0 then mdel c.grants i else mput c.grants i (base, len) })
    answer' ((tlbCores s cx).foldl (fun s c => s.modCore c (fun x => { x with tlb := [], tlb2 := [] })) s) 0

/-- Kind 1: a CXL.mem window. -/
def grantWindow (s : State) (p a base len : Nat) : Answer :=
  if a % 64 ≠ 0 || a / 2 ^ 17 ≠ 0 || base % 4096 ≠ 0 || len % 4096 ≠ 0 || base + len > 0xC000000000 then answer' s stArg
  else
    let i := a / 64 % 8
    let w : CxlWin := { base := base, len := len, key := a / 1024 % 128 }
    answer' (s.modPkg p (fun k => { k with windows := if len = 0 then mdel k.windows i else mput k.windows i w })) 0

def grantAct (s : State) (q : SvcReq) : Answer :=
  let a := q.arg0.toNat
  let p := svcPkg s q
  if a / 512 % 2 = 1 then grantWindow s p a q.arg1.toNat q.arg2.toNat else grantCtx s p a q.arg1.toNat q.arg2.toNat

def execSvcGrant (q : SvcReq) (s : State) : Out := serve s q (q.op == 9) true (fun s => grantAct s q)

/-- Any other OP: STATUS 1, no effect (R338). -/
def execSvcUnknown (q : SvcReq) (s : State) : Out := serve s q (q.op == 0 || decide (q.op > 9)) false (fun s => answer' s 1)

/-! ## The host's accesses (R178, R340) -/

/-- The key of the window that admits an access. -/
def windowKey (s : State) (h : HostAccess) (n : Nat) : Option Nat :=
  let k := s.pkg h.pkg
  match (mvals k.windows).find? (fun w => w.base ≤ h.pa && h.pa + n ≤ w.base + w.len) with
  | none => none
  | some w => if w.key = 0 || ((mget? k.keys w.key).isSome && !k.badKeys.contains w.key) then some w.key else none

/-- CXL_MEM_ACCESS: a SYS-scope access at the home directory under the window's key; outside every window an all-ones read or a dropped
write, which the monitor logs. -/
def execCxlMemAccess (h : HostAccess) (s : State) : Out :=
  let n := match h.bytes with
    | some b => b.length
    | none => h.len
  let put := fun (s : State) (b : List Byte) => s.modPkg h.pkg (fun k => { k with hostData := b })
  if h.pkg ≥ s.packages then .next s
  else match windowKey s h n, h.bytes with
    | some key, some b => .next (physWrite s 0 (podPa h.pkg h.pa) key b)
    | some key, none => .next (put s (physRead s 0 (podPa h.pkg h.pa) n key).1)
    | none, b =>
      let s := s.modPkg h.pkg (fun k => { k with rejects := k.rejects + 1 })
      .next (if b.isSome then s else put s (List.replicate n 0xFF))

/-- The waits of WAITA on host memory look again. -/
def wakeWaita (s : State) : State :=
  (s.groups.filter (fun e => e.2.holds.any (fun h => match h.kind with | .waita false _ _ _ _ => true | _ => false))).foldl (fun s e =>
    wakeWaitaOf s e.1) s

/-- CXL_CACHE_SNOOP: the host takes lines of its memory that the device holds, and reads or writes them. -/
def execCxlCacheSnoop (h : HostAccess) (s : State) : Out :=
  let n := match h.bytes with
    | some b => b.length
    | none => h.len
  if h.pkg ≥ s.packages || !isHost h.pa || h.pa + n > 2 ^ 43 then .next s
  else
    let pa := podPa h.pkg h.pa
    let s := (linePieces pa n).foldl (fun s p =>
      let l := lineOf p.1
      giveUp (cleanHome s l) (homeDie p.1) l) s
    match h.bytes with
    | some b => .next (wakeWaita (physWrite s 1 pa 0 b))
    | none => .next (s.modPkg h.pkg (fun k => { k with hostData := (memRead s pa n 0).1 }))

/-! ## Errors of SRAM (R151, R152) -/

/-- SRAM_SINGLE_BIT_ERROR: corrected at read, counted, written back. -/
def execSramSingleBitError (core : Nat) (s : State) : Out := .next (s.modCore core (fun c => { c with ce := min (c.ce + 1) (2 ^ 64 - 1) }))

/-- SCRUB_PASS: what it corrects has no visible effect; it takes only idle cycles. -/
def execScrubPass (_core : Nat) (s : State) : Out := .next s

/-- SRAM_DOUBLE_BIT_ERROR: the granule is poisoned, as the table of R152 says for its place. -/
def execSramDoubleBitError (site : SramSite) (s : State) : Out :=
  match site with
  | .l1 core line => .next { s with cores := mupd s.cores core (fun c => { c with l1 := mdel c.l1 line }) }
  | .tlb core page =>
    let keep := fun (e : TlbEnt) => !(decide (e.va ≤ 4096 * page) && decide (4096 * page < e.va + e.size))
    .next { s with cores := mupd s.cores core (fun c => { c with tlb := c.tlb.filter keep }) }
  | .vreg g reg lane => .next (if (s.grp g).live && reg < (s.grp g).nv && lane < 32 then
      s.modGrp g (fun gr => { gr with badV := sadd gr.badV (32 * reg + lane) }) else s)
  | .greg g reg => .next (if (s.grp g).live && reg < 256 then s.modGrp g (fun gr => { gr with badG := sadd gr.badG reg }) else s)
  | .preg g p lane => .next (if (s.grp g).live && p < 7 && lane < 32 then
      s.modGrp g (fun gr => { gr with badP := sadd gr.badP (32 * p + lane) }) else s)
  | .qreg g q => .next (if (s.grp g).live && q < 7 then s.modGrp g (fun gr => { gr with badP := sadd gr.badP (256 + q) }) else s)
  | .scratch b rank off => .next (if off < (s.krn (s.blk b).kernel).scratch then
      s.modLoc b rank (fun l => { l with spBad := sadd l.spBad (off / 4) }) else s)
  | .acm b rank off => .next (if off < (s.krn (s.blk b).kernel).acmBytes then
      s.modLoc b rank (fun l => { l with acmBad := sadd l.acmBad (off / 4) }) else s)
  | .groupFatal g => .next (if (s.grp g).live then terminate s g (fi fcUncorrectable) else s)

/-! ## Errors of HBM and key slots (R344) -/

/-- HBM_CORRECTED_ERROR: counted in telemetry. -/
def execHbmCorrectedError (pkg : Nat) (s : State) : Out := .next (s.modPkg pkg (fun p => { p with hbmCe := p.hbmCe + 1 }))

/-- HBM_UNCORRECTABLE_ERROR: the 64-byte sector is poisoned. -/
def execHbmUncorrectableError (sector : Nat) (s : State) : Out :=
  if isHbm (64 * sector) then .next { s with badMem := sadd s.badMem sector } else .next s

/-- PATROL_SCRUB: it visits all HBM; what it corrects has no visible effect. -/
def execPatrolScrub (_pkg : Nat) (s : State) : Out := .next s

/-- KEY_SLOT_ERROR: the slot is invalid on both dies until KEYLOAD refills it. -/
def execKeySlotError (pkg slot : Nat) (s : State) : Out :=
  if slotBad slot || (mget? (s.pkg pkg).keys slot).isNone then .next s
  else .next (s.modPkg pkg (fun p => { p with badKeys := sadd p.badKeys slot }))

/-! ## The die link (R329, R344) -/

/-- DIE_LINK_FLIT_CRC_FAIL: the flit under way from a die fails its check and is replayed, which changes only timing; when 64 replays of one
flit have failed in a row, which is its 65th failure, the link retrains (log 95). -/
def execDieLinkFlitCrcFail (l : LinkDir) (s : State) : Out :=
  .next (s.modPkg l.pkg (fun p =>
    let n := mget p.fails 0 (l.die % 2) + 1
    if p.linkRetrain then p
    else if n > 64 then { p with fails := [], linkRetrain := true } else { p with fails := mput p.fails (l.die % 2) n }))

/-- A block that has not ended is terminated in the fatal state. -/
def fatalBlock (s : State) (b : Nat) : State :=
  match (s.groupsOf b).find? (fun g => (s.grp g).live) with
  | some g => terminate s g (fi fcUncorrectable)
  | none =>
    let k := s.krn (s.blk b).kernel
    stopBlock (kernelRecord s k ⟨fcUncorrectable, 0⟩ 0) b fcUncorrectable

/-- The fatal state: every block and every kernel of the package's contexts ends with UNCORRECTABLE, and the contexts with them;
the host is told. -/
def fatal (s : State) (p : Nat) : State :=
  let cxs := (s.ctxs.filter (fun c => c.2.pkg == p)).map (·.1)
  let s := (s.blocks.filter (fun e => cxs.contains e.2.ctx && e.2.stage != .ended && e.2.term.isNone)).foldl (fun s e => fatalBlock s e.1) s
  let s := (s.kernels.filter (fun e => cxs.contains e.2.ctx && !e.2.finished)).foldl (fun s e =>
    let k := { e.2 with nterm := (s.krn e.1).nterm, code := some (match (s.krn e.1).code with | some c => min c fcUncorrectable | none => fcUncorrectable) }
    if k.cw = 0 then s
    else match sysWrite s k.ctx k.cw (cwBytes k) with
      | .ok s => s
      | .error f => kernelRecord s k f k.cw) s
  (cxs.foldl dropCtx s).modPkg p (fun k => { k with fatal := true, linkRetrain := false, msi := k.msi + 1 })

/-- DIE_LINK_RETRAIN_END. -/
def execDieLinkRetrainEnd (pkg : Nat) (ok : Bool) (s : State) : Out :=
  if !(s.pkg pkg).linkRetrain then .next s
  else if ok then .next (s.modPkg pkg (fun p => { p with linkRetrain := false }))
  else .next (fatal s pkg)

/-! ## Replication intervals (R279) -/

def Region.interval (r : Region) : Region :=
  let rd := if r.wr ≥ 32 then r.rd - 1 else if r.wr < 8 && r.na ≥ 64 && 4 * r.na ≥ r.rr then r.rd + 1 else r.rd
  { r with rd := min r.ceil (max r.floor rd), lastRr := r.rr, lastNa := r.na, lastWr := r.wr, rr := 0, na := 0, wr := 0, lowered := false }

/-- INTERVAL_END: an interval of 2^20 cycles of sr.clock is over. -/
def execIntervalEnd (die : Nat) (s : State) : Out :=
  let n := (s.clock - (s.pkg (die / 2)).resetAt) / 2 ^ 20
  if n ≤ (s.die die).intervals then .next s
  else .next (s.modDie die (fun d => { d with
    intervals := d.intervals + 1, regions := mmap (fun _ (r : Region) => r.interval) d.regions }))

end Sys2Proof.Machine
end

