-- ==== Sys2Proof/Machine/Seal.lean ====
section
/-!
DEFINITION. The die instructions, opcodes 0xCC to 0xCF: sealed regions and replication hints (R278, R280 to R283).
-/
namespace Sys2Proof.Machine

/-! ## SEAL and REUSE (R281, R283) -/

/-- Some page of the range is absent or not COH. -/
def pageMissing (s : State) (g base len : Nat) : Bool :=
  decide (base + len > 2 ^ 57) ||
  (pagePieces base len).any (fun p => match pageOf s (s.grp g).ctx (s.coreOf g) p.1 with
    | .ok e => e.pol != 0
    | .error _ => true)

/-- The status of a SEAL; the tests run in this order (R283). -/
def sealStatus (s : State) (g base len : Nat) : Nat :=
  let seals := (s.ctxOf g).seals
  if base % 65536 ≠ 0 || len % 65536 ≠ 0 || len = 0 || len > 2 ^ 33 then 3
  else if pageMissing s g base len then 4
  else if seals.any (fun e => overlap base len e.base e.len) then 2
  else if seals.length ≥ 64 then 1
  else 0

/-- A write of some group of the context into the range has been issued and is not performed: its store or atomic still waits. What a DET context
has buffered does not count (log 97). -/
def writesOut (s : State) (cx base len : Nat) : Bool :=
  s.groups.any (fun e => e.2.ctx == cx && e.2.acc.any (fun a => a.space == .generic && a.op != .load && a.reqs.any (fun r =>
    r.stage != .done && r.lanes.any (fun l => overlap l.va r.n base len))))

/-- The write-combining buffers of the context's groups that hold bytes of a range drain. -/
def drainRange (s : State) (cx base len : Nat) : State :=
  s.parts.foldl (fun s p => wcDrain s p.1 (fun b => (s.grp b.g).ctx == cx && overlap b.va 256 base len)) s

/-- SEAL polled: after its release, and once the earlier writes of other groups to the range are performed, the entry is written on both dies
(R281, R283). -/
def pollSeal (s : State) (g d base len : Nat) : State :=
  if !releaseReady s g then s
  else
    let cx := (s.grp g).ctx
    let s := wcDrainGroup s g
    let st := sealStatus s g base len
    if st = 0 && writesOut s cx base len then s
    else
      let s := if st = 0 then (drainRange s cx base len).modCtx cx (fun c => { c with seals := c.seals ++ [⟨base, len, false⟩] }) else s
      endHold (s.give g [.g d (BitVec.ofNat 32 st) false, .g (d + 1) 0 false]) g

def execSeal (c : Ctl) (f : FmtM) (s : State) : Out :=
  let g := s.me
  let d := f.data.toNat
  if (gRegs true f.addr ++ gRegs true f.data).any g.gBad then fail s fcUncorrectable
  else .next (((wcDrainGroup s s.cur).issueHeld c).holdMe g.pc c.setk.toNat
    (.seal d (grpVa g f.addr f.off 1) (g.rgd d).toNat))

/-- The sealed L1 lines of a context's package that lie in a range. -/
def sealedLines (s : State) (cx base len : Nat) : Nat :=
  s.cores.foldl (fun n e => if dieOfCore e.1 / 2 = (s.ctx cx).pkg then
    n + (e.2.l1.filter (fun l => l.2.sealedBy.isSome && overlap l.2.va 256 base len)).length else n) 0

/-- Each die removes its sealed L1 lines of the range. -/
def drainSealed (s : State) (cx base len : Nat) : State :=
  { s with cores := mmap (fun c co => if dieOfCore c / 2 = (s.ctx cx).pkg then
      { co with l1 := mfilter (fun _ l => !(l.sealedBy.isSome && overlap l.va 256 base len)) co.l1 } else co) s.cores }

/-- REUSE polled: it waits until both counts are zero, then the entry goes (R283). -/
def pollReuse (s : State) (g base gd : Nat) : State :=
  let cx := (s.grp g).ctx
  match (s.ctx cx).seals.find? (fun e => e.base == base) with
  | none => endHold (s.give g [.g gd 1 false]) g
  | some e =>
    let s := drainSealed s cx e.base e.len
    if sealedLines s cx e.base e.len = 0 then
      let s := s.modCtx cx (fun c => { c with seals := c.seals.filter (fun x => x.base != base) })
      endHold (s.give g [.g gd 0 false]) g
    else s

def execReuse (c : Ctl) (f : FmtM) (s : State) : Out :=
  let g := s.me
  if (gRegs true f.addr).any g.gBad then fail s fcUncorrectable
  else
    let base := grpVa g f.addr f.off 1
    match (s.ctx g.ctx).seals.find? (fun e => e.base == base) with
    | none => .next (s.variable c [.g f.data.toNat 1 false])
    | some _ =>
      let s := s.modCtx g.ctx (fun x => { x with seals := x.seals.map (fun e => if e.base = base then { e with draining := true } else e) })
      .next ((s.issueHeld c).holdMe g.pc c.setk.toNat (.reuse base f.data.toNat))

/-- DROP: every line of the range leaves this core's L1, sealed or not (R283). -/
def execDrop (c : Ctl) (f : FmtM) (s : State) : Out :=
  let g := s.me
  if (f.data.toNat :: gRegs true f.addr).any g.gBad then fail s fcUncorrectable
  else
    let x := grpVa g f.addr f.off 1
    let n := (g.rg f.data.toNat).toNat
    -- lines of pages that translate, by any of their addresses, and lines that were filled through an address of the range
    let s := (((maintPieces s x n).1.flatMap linesOf).foldl (fun s l => dropL1Line s s.cur l true) s)
    let s := if n = 0 then s
      else (l1Cores s (s.coreOf s.cur)).foldl (fun s k => invalidateL1 s k true (fun va => overlap (va / 256 * 256) 256 x n)) s
    .next (s.variable c [])

/-! ## RDHINT (R278, R280, R283) -/

/-- The region of an address: its home die, its number and its page's RD hint; none unless the page is COH HBM. -/
def regionAt (s : State) (va : Nat) : Option (Nat × Nat × Nat) :=
  if va / 2 ^ 57 ≠ 0 then none
  else match pageOf s s.me.ctx (s.coreOf s.cur) va with
    | .error _ => none
    | .ok e =>
      let pa := e.pa + (va - e.va)
      if e.pol = 0 && isHbm pa then some (homeDie pa, regionOf pa, e.rdh) else none

/-- The counters as sr.rdcnt shows them (R280). -/
def rdSnapshot (r : Option Region) : W64 :=
  match r with
  | none => 0
  | some r => BitVec.ofNat 64 (r.rd + 8 * r.floor + 64 * r.ceil + (if r.pinned then 512 else 0) + 1024 +
      2 ^ 16 * r.lastRr + 2 ^ 32 * r.lastNa + 2 ^ 48 * r.lastWr)

/-- Set FLOOR and CEIL: status 2 when they would cross, 1 when a pin is needed and 1,024 are taken, or every way of the set is pinned (R278, R283,
log 81). -/
def setHint (s : State) (die n rdh : Nat) (f : Region → Region) (clamp : Bool) : State × Nat :=
  let d := s.die die
  let old := (mget? d.regions n).getD { rd := rdh }
  let r := f old
  let pins := (d.regions.filter (fun e => e.2.pinned)).length
  if r.floor > r.ceil then (s, 2)
  else if r.pinned && !old.pinned && pins ≥ 1024 then (s, 1)
  else
    let r := { r with used := s.clock, rd := if clamp then min r.ceil (max r.floor r.rd) else r.rd }
    match if (mget? d.regions n).isSome then some d else regionRoom d n with
    | some d => (s.modDie die (fun _ => { d with regions := mput d.regions n r }), 0)
    | none => (s, 1)

/-- `.floor` and `.ceil`: the value in gV, the status out. -/
def rdhint (c : Ctl) (f : FmtM) (g : Region → Nat → Region) (s : State) : Out :=
  let gr := s.me
  if (f.data.toNat :: gRegs true f.addr).any gr.gBad then fail s fcUncorrectable
  else
    let v := (gr.rg f.data.toNat).toNat
    match regionAt s (grpVa gr f.addr f.off 1) with
    | none => .next (s.variable c [.g f.data.toNat 3 false])
    | some (die, n, rdh) =>
      if v > 7 then .next (s.variable c [.g f.data.toNat 2 false])
      else
        let (s, st) := setHint s die n rdh (fun r => g r v) true
        .next (s.variable c [.g f.data.toNat (BitVec.ofNat 32 st) false])

def execRdhintFloor (c : Ctl) (f : FmtM) (s : State) : Out := rdhint c f (fun r v => { r with floor := v }) s
def execRdhintCeil (c : Ctl) (f : FmtM) (s : State) : Out := rdhint c f (fun r v => { r with ceil := v }) s

/-- `.clear` names no register, so it writes no status (log 34). -/
def execRdhintClear (c : Ctl) (f : FmtM) (s : State) : Out :=
  let g := s.me
  if (gRegs true f.addr).any g.gBad then fail s fcUncorrectable
  else match regionAt s (grpVa g f.addr f.off 1) with
    | none => .next (s.variable c [])
    | some (die, n, rdh) => .next ((setHint s die n rdh (fun r => { r with floor := 0, ceil := 7 }) false).1.variable c [])

/-- `.query` latches the snapshot (R280); like the others it takes no value above 7 (R283). -/
def execRdhintQuery (c : Ctl) (f : FmtM) (s : State) : Out :=
  let g := s.me
  if (f.data.toNat :: gRegs true f.addr).any g.gBad then fail s fcUncorrectable
  else match regionAt s (grpVa g f.addr f.off 1) with
    | none => .next (s.variable c [.g f.data.toNat 3 false])
    | some (die, n, _) =>
      if (g.rg f.data.toNat).toNat > 7 then .next (s.variable c [.g f.data.toNat 2 false])
      else
      let snap := rdSnapshot (mget? (s.die die).regions n)
      .next ((s.modMe (fun g => { g with rdcnt := snap })).variable c [.g f.data.toNat 0 false])

end Sys2Proof.Machine
end

