-- ==== Sys2Proof/Machine/Picker.lean ====
section
/-!
DEFINITION. The picker of a partition (R18, R25, R143 to R145, R299, R301) and the events of groups: completion points (R60), the end
of SLEEP and YIELD (R105, R106), the watchdog (R30) and a free slot of the fault log (R337).
-/
namespace Sys2Proof.Machine

/-! ## Holds that the picker tests -/

/-- Look at what the front hold of a group waits for. -/
def pollFront (s : State) (g : Nat) : State :=
  match (s.grp g).hold with
  | none => s
  | some h => match h.kind with
    | .sleep _ | .yield _ _ | .maint | .release => s
    | .waitk k thr => if (s.grp g).kc k ≤ thr then endHold s g else s
    | .arrive cl id n sync => pollArrive s g cl id n sync
    | .parity cl id par _ => pollParity s g cl id par
    | .phArrive la => pollPhArrive s g la
    | .phHold _ _ _ | .phWait _ _ => pollPh s g
    | .tbArrive off n => pollTbArrive s g off n
    | .tbWait off par gd => pollTbWait s g off par gd
    | .waita _ _ _ _ _ => s
    | .bwait e b st => pollBwait s g e b st
    | .fence ord sc trap => pollFence s g ord sc trap
    | .exiting => pollExit s g
    | .tailWait | .tailing => pollTail s g
    | .oapp id => pollOapp s g id
    | .ordered id => pollOrdered s g id
    | .skred va src w gsid gk => pollSkred s g va src ⟨w, gsid, gk⟩
    | .spec opc fn fm st => pollSpec s g opc fn fm st
    | .seal d base len => pollSeal s g d base len
    | .reuse base gd => pollReuse s g base gd
    | .launch lr st => pollLaunch s g lr st

/-- Look at everything a group waits for: its FENCE, its hold, and the hold of the chain's other word (R56). A group that does not run
now waits for nothing (R30, R358). -/
def pollHold (s : State) (g : Nat) : State :=
  if (s.grp g).stop ≠ .running then s
  else
    let s := pollFront (pollSoft s g) g
    if (s.grp g).hold2.isNone then s
    else
      let s := pollFront (swapHolds s g) g
      if (s.grp g).hold2.isNone then s else swapHolds s g

/-! ## Before the fetch -/

/-- Spill slots that are reloaded between two heights of the stack. -/
def reloads (before after : Group) : List Nat := (List.range (before.sc - after.sc)).map (after.sc + ·)

/-- Reconvergence before a fetch; a reloaded slot that is poisoned ends the block (R18, R20, R154). -/
def reconvergeAt (s : State) (g : Nat) : State :=
  let gr := s.grp g
  let after := reconverge (2 * gr.stack.length + 2) gr
  let bad := ((s.blk (blockOf g)).loc gr.rank).spBad
  if (reloads gr after).any (fun j => (spillGranules s g j).any (fun x => bad.contains x)) then terminate s g (fi fcUncorrectable)
  else s.setGrp g after

/-- The end under R18: a report point, then as by EXIT. -/
def endAtTop (s : State) (g : Nat) : State :=
  let gr := s.grp g
  if !gr.atEnd || gr.hold.isSome then s
  -- as by EXIT, its write-combining buffers drain (R162)
  else if gr.trap ≠ 0 then deliver s g (reportFault gr)
  else (wcDrainGroup s g).modGrp g (fun gr => { gr with
    hadHandler := gr.inHandler, inHandler := false, chain := none, hold := some { kind := .exiting, since := s.clock, pc := gr.pc, setk := 0 } })

/-- The instructions at whose issue a quantum ends early (R299). -/
def endsQuantum (i : Instr) : Bool :=
  match i with
  | .nbsync _ _ | .nbwait _ _ | .cbsync _ _ | .phadv _ _ | .phwaitNbr _ _ | .phwaitAll _ _ | .tbwait _ _ | .waita _ _ | .waitaSp _ _
  | .bwait _ _ => true
  | _ => false

/-- The group ends its quantum and waits for a commit round that starts after this (R301). -/
def endQuantum (s : State) (g : Nat) (early : Bool) : State :=
  let c := s.ctxOf g
  s.modGrp g (fun gr => { gr with
    detHold := some c.rounds, early := early, waitFrom := s.clock
    detCount := if early then (gr.quantum + 1) * c.quantum else gr.detCount })

/-- In a DET context: the quantum is full, or ends early before a waiting instruction that could issue now. -/
def quantumAt (s : State) (g : Nat) : State :=
  let gr := s.grp g
  if !s.isDet g || gr.detHold.isSome || gr.stop ≠ .running || gr.hold.isSome then s
  else
    let q := (s.ctxOf g).quantum
    if gr.detCount ≥ (gr.quantum + 1) * q then endQuantum s g false
    else match planOf s g with
      | .one i =>
        if endsQuantum i && !(gr.early && gr.detCount == gr.quantum * q) && eligible s g then endQuantum s g true else s
      | _ => s

/-- What the picker does for one of its groups in each cycle, before it chooses. -/
def tend (s : State) (g : Nat) : State :=
  let s := pollHold (s.modGrp g (fun gr => (gr.settle s.clock).genSettle s.clock)) g
  let gr := s.grp g
  if gr.stop ≠ .running || gr.hold.isSome then s else quantumAt (fetchPacket (endAtTop (reconvergeAt s g) g) g) g

/-- A core's lead allowance LQ follows its groups (R301). -/
def leads (s : State) (core : Nat) : State := if s.ctxs.any (fun c => c.2.det) then setLq s core else s

/-! ## The choice (R145) -/

/-- The oldest of a list of groups; among equals the first slot at or after the pointer, which then moves past it. -/
def oldest (s : State) (rr : Nat) (gs : List Nat) : Option (Nat × Nat) :=
  let low := gs.foldl (fun m g => min m (s.grp g).startAt) (gs.headD 0 |> fun g => (s.grp g).startAt)
  match gs.filter (fun g => (s.grp g).startAt == low) with
  | [] => none
  | [g] => some (g, rr)
  | g :: ties =>
    let key := fun (h : Nat) => ((s.grp h).slot + 16 - rr % 16) % 16
    let x := ties.foldl (fun b h => if key h < key b then h else b) g
    some (x, ((s.grp x).slot + 1) % 16)

/-- One unchained, unprefixed word. -/
def singleOf (s : State) (g : Nat) : Option Instr :=
  match planOf s g with
  | .one i => some i
  | _ => none

/-- The pipes that an issue occupies from now on (R144). -/
def occupy (s : State) (p g : Nat) : State :=
  (planOf s g).words.foldl (fun s i =>
    let k := pipeKey (pipeOfOp (opcodeOf i))
    if k = 0 then s else s.modPart p (fun x => { x with busy := mput x.busy k (s.clock + occupancy i) })) s

/-- Choose the first and perhaps a second group of the cycle. The pipe of the second differs from that of the first; two words without a pipe, as
two NOPs, do not issue in one cycle (R145, log 86). -/
def pick (s : State) (p : Nat) : State :=
  let el := (groupsOn s p).filter (fun g => eligible s g && !s.turn.contains g)
  -- groups that are not eligible now have waited for no cycle
  let s := (groupsOn s p).foldl (fun s g => if el.contains g then s else s.modGrp g (fun gr => { gr with fresh := s.clock })) s
  let s := s.modPart p (fun x => { x with el := el })
  let late := el.filter (fun g => (s.grp g).fresh + 48 ≤ s.clock)
  match oldest s (s.part p).rr (if late.isEmpty then el else late) with
  | none => s
  | some (g, rr) =>
    let s1 := (occupy s p g).modPart p (fun x => { x with rr := rr })
    match singleOf s g with
    | none => { s1 with turn := s1.turn ++ [g] }
    | some i =>
      let other := el.filter (fun h => h != g && (match singleOf s h with
        | some j => pipeOfOp (opcodeOf j) != pipeOfOp (opcodeOf i)
        | none => false))
      match oldest s1 rr other with
      | none => { s1 with turn := s1.turn ++ [g] }
      | some (h, rr2) =>
        let s2 := (occupy s1 p h).modPart p (fun x => { x with rr := rr2 })
        { s2 with turn := s2.turn ++ [g, h] }

/-! ## PICKER_ISSUE -/

/-- Groups that the picker of a partition looks after: those of blocks on their cores. -/
def caredFor (s : State) (p : Nat) : List Nat :=
  (s.groups.filter (fun e => e.2.part == p && e.2.live && (s.blk (blockOf e.1)).stage == .running)).map (·.1)

/-- Partitions with groups of running blocks, ended ones among them as long as their block has not ended. -/
def activeParts (s : State) : List Nat :=
  distinct ((s.groups.filter (fun e => (s.blk (blockOf e.1)).stage == .running)).map (fun e => e.2.part))

/-- A cycle ends when every partition with groups has picked in it. -/
def cycleDone (s : State) : Bool := (activeParts s).all (fun q => (s.part q).pickedAt == some s.clock)

/-- An LRED or LSCAN that has completed no longer occupies L (R144). -/
def freeL (s : State) (p : Nat) : State :=
  match (s.part p).lBusy with
  | some (g, n) =>
    if (s.grp g).pend.any (fun x => x.id == n) then s
    else s.modPart p (fun x => { x with lBusy := none, busy := mput x.busy 4 (min s.clock (mget x.busy 0 4)) })
  | none => s

/-- The picker of a partition runs once in each cycle; the first one to run again begins the next cycle. -/
def execPickerIssue (p : Nat) (s : State) : Out :=
  if (s.part p).pickedAt = some s.clock && !cycleDone s then .next s
  else
    let s := if (s.part p).pickedAt = some s.clock then { s with clock := s.clock + 1 } else s
    let s := s.modPart p (fun x => { x with pickedAt := some s.clock })
    let s := (caredFor s p).foldl tend s
    .next (leads (checkCore (pick (freeL s p) p) (p / 8)) (p / 8))

/-! ## Events of a group -/

/-- COMPLETION_POINT: an issued instruction writes its destinations and lowers its counter (R60). -/
def execCompletionPoint (g n : Nat) (s : State) : Out :=
  let gr := s.grp g
  match gr.pend.find? (fun p => p.id == n) with
  | none => .next s
  | some p =>
    let ready := match p.due with
      | some d => decide (d ≤ s.clock)
      | none => !inSlot s g n && (match gr.lastIssue with | some t => decide (t < s.clock) | none => true)
    if ready && gr.live && !gr.chained p then .next (s.setGrp g (gr.complete p)) else .next s

def isSleep (k : HoldKind) : Bool := match k with | .sleep _ => true | _ => false
def isYield (k : HoldKind) : Bool := match k with | .yield _ _ => true | _ => false

/-- SLEEP_END. -/
def execSleepEnd (g : Nat) (s : State) : Out :=
  let s := focusHold s g isSleep
  match (s.grp g).hold with
  | some h => (match h.kind with
    | .sleep t => if t ≤ s.clock then .next (endHold s g) else .next s
    | _ => .next s)
  | none => .next s

/-- YIELD_END: 64 cycles have passed, or every group that was eligible has issued once or has ended. -/
def execYieldEnd (g : Nat) (s : State) : Out :=
  let s := focusHold s g isYield
  match (s.grp g).hold with
  | some h => (match h.kind with
    | .yield os t =>
      let gone := os.all (fun o => !(s.grp o).live || (match (s.grp o).lastIssue with | some x => decide (h.since ≤ x) | none => false))
      if t ≤ s.clock || gone then .next (endHold s g) else .next s
    | _ => .next s)
  | none => .next s

/-- LOG_SLOT_FREE: the replayable faults of a context that wait for a slot are written while there is room (R337). -/
def execLogSlotFree (cx : Nat) (s : State) : Out :=
  .next ((s.groups.filter (fun e => e.2.ctx == cx && e.2.stop == .logWait && (s.blk (blockOf e.1)).stage == .running)).foldl (fun s e =>
    match (s.grp e.1).waiting with
    | some f => if (s.grp e.1).stop = .logWait then deliver s e.1 f else s
    | none => s) s)

/-! ## The watchdog (R30) -/

/-- A hold whose end depends on something else. -/
def bounded (s : State) (g : Nat) (k : HoldKind) : Bool :=
  match k with
  | .waitk _ _ | .parity _ _ _ _ | .phHold _ _ _ | .phWait _ _ | .tbWait _ _ _ | .waita _ _ _ _ _ | .bwait _ _ _ | .oapp _ | .ordered _
  | .reuse _ _ => true
  | .spec _ _ _ _ => s.isDet g
  | .exiting | .tailing => (s.grp g).pend.any (fun p => inSlot s g p.id)
  | _ => false

/-- The next issue waits at a WAIT field or at a full engine queue. -/
def issueWaits (s : State) (g : Nat) : Bool :=
  let gr := s.grp g
  let p := planOf s g
  p.ctls.any (fun c => (List.range 12).any (fun k => c.wait.getLsbD k && gr.kc k != 0)) ||
  p.words.any (fun i => !queueRoom s (s.coreOf g) (opcodeOf i))

/-- The limit of a context in microseconds. -/
def wdogUs (s : State) (g : Nat) : Nat := if (s.ctxOf g).wdog = 0 then 2 ^ 32 else (s.ctxOf g).wdog

/-- WATCHDOG_EXPIRY: a hold that the limit bounds has lasted longer than it; only resident, running time counts. What the held words have
done is taken back with them (R24). -/
def execWatchdogExpiry (g : Nat) (s : State) : Out :=
  let gr := s.grp g
  let late := fun (since : Nat) => decide (elapsedUs s (s.pkgOf g) since ≥ wdogUs s g)
  if gr.stop ≠ .running || (s.blk (blockOf g)).stage ≠ .running then .next s
  else if gr.holds.any (fun h => bounded s g h.kind && late h.since) then
    .next (faultWait s g (fi fcWatchdog))
  else if gr.hold.isNone && (gr.detHold.isSome || issueWaits s g) && late gr.waitFrom then .next (deliver s g (fi fcWatchdog))
  else .next s

end Sys2Proof.Machine
end

