-- ==== Sys2Proof/Machine/Summary.lean ====
section
/-!
DEFINITION. The summary unit and the generator instructions, opcodes 0xD8 to 0xE4 (R200, R214 to R222): frame checks at issue, the
execution of queued operations, and RNGK, RNGV, RNGU.
-/
namespace Sys2Proof.Machine

/-! ## Frame checks (R214 to R218, R221, R222) -/

/-- An address field whose space bit selects scratchpad has a zero high register. -/
def spField (f : List W32) (i : Nat) (sp : Bool) : Bool := !sp || fr f (i + 1) == 0
def addrField (f : List W32) (i : Nat) (sp : Bool) : Nat := if sp then fr f i else frd f i

/-- Bytes of a row element (R35 codes 1, 2, 3). -/
def rowBytes (code : Nat) : Nat := if code = 1 then 4 else 2

def bit0 (fn : Nat) : Bool := fn % 2 == 1
def bit1 (fn : Nat) : Bool := fn / 2 % 2 == 1

/-- An object at g(F+0), g(F+1): its space, and 64-byte alignment. -/
def objBad (f : List W32) (fn : Nat) : Bool := !spField f 0 (bit0 fn) || fr f 0 % 64 != 0

/-- The TB field of an operation. -/
def skTb (opc : Nat) (f : List W32) : Nat :=
  if opc = 0xD8 || opc = 0xDA then fr f 4 else if opc = 0xD9 then fr f 6 else if opc = 0xDB then fr f 3
  else if opc = 0xDE then fr f 5 else if opc = 0xE4 then fr f 7 else noTb

/-- An f32 that is not finite, or negative and not zero. -/
def tempBad (x : Nat) : Bool :=
  match unpack fF32 false x with
  | .num s m _ => s && m != 0
  | _ => true

/-- The frame of an operation fails. A source in scratchpad, ACM or the generator that is not aligned to 4 bytes fails it too (log 91). -/
def skFrameBad (l : Local) (det : Bool) (nv opc eng fn : Nat) (f : List W32) : Bool :=
  tbFieldBad l (skTb opc f) ||
  (if opc = 0xD8 then
    objBad f fn || !zeroFrom f 5 ||
    (let coin := fr f 2 % 4
     let p := fr f 2 / 256 % 16
     let rest := fr f 2 % 256 / 4 != 0 || fr f 2 / 4096 != 0
     rest || (if eng = 1 then p != 0 || coin == 3 || (coin == 0 && det)
              else if eng = 2 then coin != 0 || p != 0 || fr f 3 != 0
              else coin != 0 || p < 10 || p > 14))
  else if opc = 0xD9 then
    objBad f fn || !zeroFrom f 7 ||
    (if eng = 0 then fr f 2 / 4096 != 0 || fr f 3 != 0 || fr f 4 != 0 || fr f 2 % 256 + (fr f 2 / 256 + 1) > nv
     else (eng != 3 && fr f 3 != 0) || fr f 2 % 4 != 0 || fr f 4 == 0 || fr f 4 > 2 ^ 24)
  else if opc = 0xDA then objBad f fn || !spField f 2 (bit1 fn) || fr f 2 % 64 != 0 || !zeroFrom f 5
  else if opc = 0xDB then objBad f fn || fr f 2 == 0 || fr f 2 > 48 || !zeroFrom f 4
  else if opc = 0xDC || opc = 0xDD then objBad f fn || !zeroFrom f 3
  else if opc = 0xDE then
    objBad f fn || !spField f 2 (bit1 fn) || fr f 2 % 16 != 0 || fr f 4 == 0 || fr f 4 > 64 || !zeroFrom f 6
  else if opc = 0xDF then objBad f fn || !zeroFrom f 2
  else if opc = 0xE3 then
    !spField f 0 (bit0 fn) || fr f 3 == 0 || fr f 3 > 3 || fr f 0 % rowBytes (fr f 3) != 0 || fr f 2 == 0 || fr f 2 > 2 ^ 20 ||
    tempBad (fr f 4) || fr f 5 > 1024 || isNan32 (fr f 6) || !zeroFrom f 13
  else
    !spField f 0 (bit0 fn) || !spField f 2 (bit1 fn) || fr f 5 == 0 || fr f 5 > 3 || fr f 0 % rowBytes (fr f 5) != 0 ||
    fr f 2 % 8 != 0 || fr f 4 == 0 || fr f 4 > 2 ^ 20 || fr f 6 == 0 || fr f 6 > 1024 || !zeroFrom f 8)

/-! ## Issue (R204, R215, R216) -/

/-- What an operation's coins draw on, kept with it: W, GSID, GK. -/
def coinExtra (w gsid : W32) (gk : BitVec 128) : List (Nat × Nat) := [(0, w.toNat), (1, gsid.toNat), (2, gk.toNat)]

def isQuery (opc : Nat) : Bool := (0xDC ≤ opc && opc ≤ 0xDF) || opc == 0xE3
def drawsCoin (opc : Nat) : Bool := 0xD9 ≤ opc && opc ≤ 0xDB

/-- The words that SKADD.vreg reads at issue: registers in turn, each in lane order. -/
def vregWords (g : Group) (f : List W32) : List Nat :=
  let r := fr f 2 % 256
  (List.range (fr f 2 / 256 % 16 + 1)).flatMap (fun j => (lanesOf g.run).map (fun l => (g.rv (r + j) l).toNat))

def sumInstr (opc : Nat) (c : Ctl) (f : FmtA) (s : State) : Out :=
  engInstr c f s (fun s fm =>
    let g := s.me
    let eng := f.eng.toNat
    let bad := skFrameBad (myLoc s) (s.isDet s.cur) g.nv opc eng f.fn.toNat fm
    let vreg := opc == 0xD9 && eng == 0 && !bad
    if vreg && srcBad g (lanesOf g.run) [(fr fm 2 % 256, fr fm 2 / 256 % 16 + 1)] then fail s fcUncorrectable
    else
      let gs := g.genSettle s.clock
      let w := (s.draws 1).headD 0
      let s := if drawsCoin opc then s.drawn 1 else s
      if bad then rejectOp c f 2 (skTb opc fm) fcSketch fcSketch s
      else
        let o := { newOp s c f opc 2 fm with
          extra := (4, s.clock) :: coinExtra w gs.gsid gs.gk ++ (if vreg then (vregWords g fm).map (fun x => (3, x)) else []) }
        if isQuery opc then acceptQuery c o s else acceptOp c o s)

def execSkinit (c : Ctl) (f : FmtA) (s : State) : Out := sumInstr 0xD8 c f s
def execSkadd (c : Ctl) (f : FmtA) (s : State) : Out := sumInstr 0xD9 c f s
def execSkmrg (c : Ctl) (f : FmtA) (s : State) : Out := sumInstr 0xDA c f s
def execSkcmp (c : Ctl) (f : FmtA) (s : State) : Out := sumInstr 0xDB c f s
def execSkq (c : Ctl) (f : FmtA) (s : State) : Out := sumInstr 0xDC c f s
def execSkrank (c : Ctl) (f : FmtA) (s : State) : Out := sumInstr 0xDD c f s
def execSktop (c : Ctl) (f : FmtA) (s : State) : Out := sumInstr 0xDE c f s
def execSkdc (c : Ctl) (f : FmtA) (s : State) : Out := sumInstr 0xDF c f s
def execSgumb (c : Ctl) (f : FmtA) (s : State) : Out := sumInstr 0xE3 c f s
def execStopk (c : Ctl) (f : FmtA) (s : State) : Out := sumInstr 0xE4 c f s

/-! ## Running an operation -/

/-- Words of 4 bytes. -/
def skWordsOf (bs : List Byte) : List Nat := (List.range (bs.length / 4)).map (fun i => natAt bs (4 * i) 4)

/-- An f16 or bf16 value widened exactly to f32, its NaNs by R41 under the operation's FMT.NANP (R43, log 96). -/
def widen (nanp : Bool) (src : Fmt) (x : Nat) : Nat := (fToF { envRne with nanp := nanp } src fF32 0 x).1
def opNanp (o : EngOp) : Bool := o.fmt.getLsbD 5

/-- The values of a row, widened exactly to f32. -/
def rowVals (nanp : Bool) (code : Nat) (bs : List Byte) : List Nat :=
  if code = 1 then skWordsOf bs
  else (List.range (bs.length / 2)).map (fun i => widen nanp (if code = 2 then fBf16 else fF16) (natAt bs (2 * i) 2))

/-- The aligned 64-byte pieces of a range: first byte and bytes of each (R200). -/
def pieces64 (a n : Nat) : List (Nat × Nat) :=
  (List.range ((a % 64 + n + 63) / 64)).map (fun i =>
    let lo := max a (64 * (a / 64 + i))
    (lo, min (a + n) (64 * (a / 64 + i + 1)) - lo))

/-- The name under which an operation keeps a piece that it has read. -/
def latchKey (sp : Bool) (a : Nat) : Nat := 2 * (a / 64) + (if sp then 1 else 0)

/-- Pieces read in turn; one that the operation has read before stands as it was then (R200, R223). -/
def sumPieces (s : State) (o : EngOp) (core : Nat) (sp : Bool) : List (Nat × Nat) → Except Nat (List Byte)
  | [] => .ok []
  | p :: ps =>
    match (match o.latch.find? (fun l => l.1 == latchKey sp p.1) with
      | some l => .ok ((l.2.drop (p.1 % 64)).take p.2)
      | none => opRead s o core fcCopy sp 0 p.1 p.2 : Except Nat (List Byte)) with
    | .error e => .error e
    | .ok b => match sumPieces s o core sp ps with
      | .error e => .error e
      | .ok bs => .ok (b ++ bs)

/-- An input of an operation. -/
def sumRead (s : State) (o : EngOp) (core : Nat) (sp : Bool) (a n : Nat) : Except Nat (List Byte) :=
  if sp && !spInside (opLoc s o) a n then .error fcCopy else sumPieces s o core sp (pieces64 a n)

/-- Read an object whole; an RNG-mode sketch in a DET context is refused (R204). -/
def skLoad (s : State) (o : EngOp) (core : Nat) (sp : Bool) (a : Nat) : Except Nat Sk :=
  match sumRead s o core sp a 64 with
  | .error e => .error e
  | .ok h => match sumRead s o core sp a (skSize h) with
    | .error e => .error e
    | .ok b => match skParse (skType h) b with
      | none => .error fcSketch
      | some (.qs q) => if opDet s o && q.coin == 0 then .error fcSketch else .ok (.qs q)
      | some x => .ok x

def opCoin (o : EngOp) : Coin :=
  let x := fun (k : Nat) => match o.extra.find? (fun e => e.1 == k) with
    | some e => e.2
    | none => 0
  ⟨BitVec.ofNat 32 (x 0), BitVec.ofNat 32 (x 1), BitVec.ofNat 128 (x 2)⟩

/-- The 32-bit words that SKADD absorbs (R216). -/
def skWords (s : State) (o : EngOp) (core : Nat) : Except Nat (List Nat) :=
  let f := o.frame
  let n := fr f 4
  if o.eng = 0 then .ok (o.extra.filterMap (fun e => if e.1 = 3 then some e.2 else none))
  else if o.eng = 1 then (sumRead s o core true (fr f 2) (4 * n)).map skWordsOf
  else if o.eng = 2 then
    (if fr f 2 + 4 * n > (s.krn (s.blk o.block).kernel).acm then .error fcSketch
     else
      let r := acmRead (opLoc s o) (fr f 2) (4 * n)
      if r.2 then .error fcUncorrectable else .ok (skWordsOf r.1))
  else (sumRead s o core false (frd f 2) (4 * n)).map skWordsOf

/-- f32 values of words by type code: f16 and bf16 elements in element order. -/
def addVals (nanp : Bool) (t : Nat) (ws : List Nat) : List Nat :=
  if t = 0xA || t = 0xB then
    ws.flatMap (fun w => [widen nanp (if t = 0xB then fBf16 else fF16) (w % 65536), widen nanp (if t = 0xB then fBf16 else fF16) (w / 65536)])
  else ws

/-- What an operation writes to memory: space, address, bytes. -/
abbrev SkWrite := Bool × Nat × List Byte

/-- An object-writing operation other than SKTOP and STOPK: what it writes, or its failure. -/
def skWork (s : State) (o : EngOp) (core : Nat) : Except Nat SkWrite :=
  let f := o.frame
  let sp := bit0 o.fn
  let a := addrField f 0 sp
  if o.opc = 0xD8 then
    let x : Sk := if o.eng = 1 then .qs (qsNew (fr f 2 % 4) (fr f 3)) else if o.eng = 2 then .hh ⟨[], 0⟩
      else .dc ⟨fr f 2 / 256 % 16, fr f 3, 0, List.replicate (2 ^ (fr f 2 / 256 % 16)) 0⟩
    .ok (sp, a, skBytes x)
  else match skLoad s o core sp a with
    | .error e => .error e
    | .ok x =>
      if o.opc = 0xD9 then
        match skWords s o core with
        | .error e => .error e
        | .ok ws =>
          let t := fr f 5
          match x with
          | .qs q => if t = 8 || t = 0xA || t = 0xB then
              .ok (sp, a, qsBytes ((addVals (opNanp o) t ws).foldl (qsAdd (opCoin o)) (q, 0)).1) else .error fcSketch
          | .hh h => if t = 0 then .ok (sp, a, hhBytes (ws.foldl hhAdd h)) else .error fcSketch
          | .dc d => if t = 0 then .ok (sp, a, dcBytes (ws.foldl dcAdd d)) else .error fcSketch
      else if o.opc = 0xDA then
        match skLoad s o core (bit1 o.fn) (addrField f 2 (bit1 o.fn)) with
        | .error e => .error e
        | .ok y => match skMerge (opCoin o) x y with
          | some m => .ok (sp, a, skBytes m)
          | none => .error fcSketch
      else match x with
        | .qs q => .ok (sp, a, qsBytes (qsCompact (opCoin o) q (fr f 2)))
        | _ => .error fcSketch

/-! ## Sampling (R221) and selection (R222) -/

def isNegInf (x : Nat) : Bool := x == 0xFF800000
def f32Lt (a b : Nat) : Bool := fvLt (unpack fF32 false a) (unpack fF32 false b)

/-- Put a candidate behind those of equal or larger value, keeping at most `k`. -/
def insCand (x : Nat × Nat) : List (Nat × Nat) → List (Nat × Nat)
  | [] => [x]
  | y :: ys => if f32Lt y.2 x.2 then x :: y :: ys else y :: insCand x ys
def topCands (k : Nat) (xs : List (Nat × Nat)) : List (Nat × Nat) := xs.foldl (fun acc x => (insCand x acc).take k) []

/-- (a - b) / t of finite f32 values, rounded once. -/
def diffQuot (a b t : Nat) : Nat :=
  let d := (unpack fF32 false a).dy.add ((unpack fF32 false b).dy.negate)
  let v := (unpack fF32 false t).dy
  if d.m = 0 then 0
  else
    let q := quot d.m.natAbs d.e v.m.natAbs v.e 128
    (roundTo envRne fF32 0 (decide (d.m < 0)) q.1 q.2).1

/-- exp of a rounded z, itself rounded. -/
def expZ (z : Nat) : Nat :=
  match unpack fF32 false z with
  | .num s m e => (expNat envRne fF32 s m e).1
  | _ => 0

/-- How many candidates are kept before the running mass reaches tau. -/
def takeMass (tau : Nat) : List Nat → Nat → Nat → Nat
  | [], _, n => n
  | e :: es, c, n => let c' := addF32 c e; if c' ≥ tau then n + 1 else takeMass tau es c' (n + 1)

/-- The largest score, ties to the lower index. -/
def bestScore : List (Nat × Nat) → Option (Nat × Nat)
  | [] => none
  | x :: xs => match bestScore xs with
    | none => some x
    | some y => if f32Lt x.2 y.2 || (!f32Lt y.2 x.2 && y.1 < x.1) then some y else some x

/-- SGUMB on a row of f32 values: the index and m. -/
def gumbelRow (xs : List Nat) (temp k p req pos : Nat) (key : Quad) : Nat × Nat :=
  let l := xs.map (fun x => if isNan32 x then 0xFF800000 else x)
  let all := numbered 0 l
  let cand := topCands (min (if k = 0 then 1024 else k) l.length) (all.filter (fun x => !isNegInf x.2))
  match cand with
  | [] => (0xFFFFFFFF, 0)
  | c0 :: _ =>
    match all.find? (fun x => x.2 == 0x7F800000) with
    | some x => (x.1, 1)
    | none =>
      if temp % 2 ^ 31 = 0 then (c0.1, 1)
      else
        let z := fun (x : Nat) => diffQuot x c0.2 temp
        let es := l.map (fun x => if isNegInf x then 0 else expZ (z x))
        let sum := (treeFold addF32 21 es).headD 0
        let m := if !f32Lt p 0x3F800000 then cand.length
          else if !f32Lt 0 p then 1
          else takeMass (fMul envRne fF32 0 (unpack fF32 false p) (unpack fF32 false sum)).1 (cand.map (fun c => expZ (z c.2))) 0 0
        if m = 1 then (c0.1, 1)
        else
          let score := fun (c : Nat × Nat) =>
            let w := (genBlock key ⟨BitVec.ofNat 32 c.1, BitVec.ofNat 32 pos, BitVec.ofNat 32 req, 1⟩).a.toNat
            (c.1, addF32 (z c.2) (gumbel envRne fF32 (2 * (w / 512) + 1) (-24)).1)
          match bestScore ((cand.take m).map score) with
          | some b => (b.1, m)
          | none => (c0.1, m)

/-- The order of STOPK: every NaN above all numbers and equal, then the R122 key (R222). -/
def topKey (x : Nat) : Nat := if isNan32 x then 2 ^ 33 else key32 x
def insTop (x : Nat × Nat) : List (Nat × Nat) → List (Nat × Nat)
  | [] => [x]
  | y :: ys => if topKey y.2 < topKey x.2 then x :: y :: ys else y :: insTop x ys
def topK (k : Nat) (xs : List Nat) : List (Nat × Nat) := (numbered 0 xs).foldl (fun acc x => (insTop x acc).take k) []

/-! ## The summary unit (R200) -/

/-- Commit-buffer units of `n` bytes written to generic memory (R303). -/
def writeUnits (n : Nat) : Nat := n / 256 * detUnits 256 + (if n % 256 = 0 then 0 else detUnits (n % 256))

/-- Result registers with free values: what a query leaves there when it fails on an access, which the spec does not say (log 1). -/
def freeRegs (s : State) (rs : List Nat) : State × List (Nat × Nat) :=
  (s.tickFree rs.length, (numbered 0 rs).map (fun r => (r.2, (Config.freeValue (s.free + r.1)).toNat % 2 ^ 32)))

/-- What an operation comes to: the code, a query's registers with their values or with free ones, and what it writes to memory. -/
structure SkRes where
  code : Nat := 0
  regs : List (Nat × Nat) := []
  free : List Nat := []
  wr : Option SkWrite := none

/-- A query that fails: zeros for a wrong object (R218), free values for a failed access. -/
def queryFail (code : Nat) (rs : List Nat) : SkRes :=
  if code = fcSketch then { code := code, regs := rs.map (fun r => (r, 0)) } else { code := code, free := rs }

def pairRegs (r x : Nat) : List (Nat × Nat) := [(r, x % 2 ^ 32), (r + 1, x / 2 ^ 32)]

/-- SKQ (R218). -/
def skqResult (o : EngOp) : Sk → SkRes
  | .qs q =>
    let x := fr o.frame 2
    let bad := match unpack fF32 false x with
      | .num n m _ => (n && m != 0) || (!n && x > 0x3F800000)
      | _ => true
    if bad then { code := fcSketch, regs := [(o.st + 1, 0x7FC00000)] } else { regs := [(o.st + 1, qsQuantile q x)] }
  | _ => queryFail fcSketch [o.st + 1]

/-- SKRANK (R218). -/
def skrankResult (o : EngOp) : Sk → SkRes
  | .qs q =>
    if isNan32 (fr o.frame 2) then queryFail fcSketch [o.st + 2, o.st + 3, o.st + 4, o.st + 5]
    else { regs := pairRegs (o.st + 2) (qsRank q (fr o.frame 2)) ++ pairRegs (o.st + 4) q.eb }
  | _ => queryFail fcSketch [o.st + 2, o.st + 3, o.st + 4, o.st + 5]

/-- SKTOP (R218). -/
def sktopResult (o : EngOp) : Sk → SkRes
  | .hh h =>
    let j := fr o.frame 4
    let ents := (h.ents.take j).flatMap (fun e => toBytes 4 e.key ++ toBytes 4 e.count ++ toBytes 4 e.err ++ toBytes 4 0)
    { regs := [(o.st + 1, min j h.ents.length)],
      wr := some (bit1 o.fn, addrField o.frame 2 (bit1 o.fn), ents ++ List.replicate (16 * j - ents.length) 0) }
  | _ => queryFail fcSketch [o.st + 1]

/-- SKDC (R218). -/
def skdcResult (o : EngOp) : Sk → SkRes
  | .dc d => { regs := pairRegs (o.st + 2) (dcEstimate d) ++ [(o.st + 4, dcZeros d)] }
  | _ => queryFail fcSketch [o.st + 2, o.st + 3, o.st + 4]

/-- SGUMB (R221). -/
def sgumbResult (o : EngOp) (bs : List Byte) : SkRes :=
  let f := o.frame
  let xs := rowVals (opNanp o) (fr f 3) bs
  let r := gumbelRow xs (fr f 4) (fr f 5) (fr f 6) (fr f 7) (fr f 8) ⟨f.getD 9 0, f.getD 10 0, f.getD 11 0, f.getD 12 0⟩
  let v := if r.1 = 0xFFFFFFFF then 0xFF800000 else xs.getD r.1 0
  { code := if xs.any isNan32 then 256 else 0, regs := [(o.st + 1, r.1), (o.st + 2, v), (o.st + 3, r.2)] }

/-- STOPK (R222). -/
def stopkResult (o : EngOp) (bs : List Byte) : SkRes :=
  let k := fr o.frame 6
  let top := topK k (rowVals (opNanp o) (fr o.frame 5) bs)
  let ents := top ++ List.replicate (k - top.length) (0xFFFFFFFF, 0xFF800000)
  { wr := some (bit1 o.fn, addrField o.frame 2 (bit1 o.fn), ents.flatMap (fun e => toBytes 4 e.2 ++ toBytes 4 e.1)) }

/-- A query of an object: its result, or its failure with the result registers it then has. -/
def sumQuery (s : State) (core : Nat) (o : EngOp) (rs : List Nat) (k : Sk → SkRes) : SkRes :=
  match skLoad s o core (bit0 o.fn) (addrField o.frame 0 (bit0 o.fn)) with
  | .error e => queryFail e rs
  | .ok x => k x

/-- What the operation at the head of the queue comes to. -/
def sumResult (s : State) (core : Nat) (o : EngOp) : SkRes :=
  let f := o.frame
  let row := fun (n : Nat) => sumRead s o core (bit0 o.fn) (addrField f 0 (bit0 o.fn)) n
  if o.opc < 0xDC then
    (match skWork s o core with
     | .error e => { code := e }
     | .ok w => { wr := some w })
  else if o.opc = 0xDC then sumQuery s core o [o.st + 1] (skqResult o)
  else if o.opc = 0xDD then sumQuery s core o [o.st + 2, o.st + 3, o.st + 4, o.st + 5] (skrankResult o)
  else if o.opc = 0xDE then sumQuery s core o [o.st + 1] (sktopResult o)
  else if o.opc = 0xDF then sumQuery s core o [o.st + 2, o.st + 3, o.st + 4] (skdcResult o)
  else if o.opc = 0xE3 then
    (match row (fr f 2 * rowBytes (fr f 3)) with
     | .error e => queryFail e [o.st + 1, o.st + 2, o.st + 3]
     | .ok bs => sgumbResult o bs)
  else match row (fr f 4 * rowBytes (fr f 5)) with
    | .error e => { code := e }
    | .ok bs => stopkResult o bs

/-- An operation ends without having written, or after its last write: a query's registers and counter, the barrier's error phase when it
failed, its batch (R200). -/
def sumEnd (s : State) (core : Nat) (o : EngOp) (r : SkRes) : State :=
  let x := freeRegs s r.free
  let s := if isQuery o.opc then x.1.modGrp o.gid (fun g =>
      (((o.st, r.code) :: r.regs ++ x.2).foldl (fun g x => g.wg x.1 (BitVec.ofNat 32 x.2)) g).kDec o.setk) else x.1
  if r.code % 64 = 0 then endOp s core o 0 else failOp s core o (skTb o.opc o.frame) (r.code % 64)

/-- An operation whose write fails. -/
def sumFail (s : State) (core : Nat) (o : EngOp) (code : Nat) (regs : List (Nat × Nat)) : State :=
  sumEnd s core o { code := code, free := if isQuery o.opc then regs.map (·.1) else [] }

/-- The operation reads what it has not read, and computes: it ends here unless it writes to memory, for which it takes its commit-buffer
units (R303). The second value is the operation while it still runs. -/
def sumCompute (s : State) (core : Nat) (o : EngOp) : State × Option EngOp :=
  let r := sumResult s core o
  match r.wr with
  | none => (sumEnd s core o r, none)
  | some w => match takeUnits s core o (if w.1 then 0 else writeUnits w.2.2.length) with
    | none => (sumFail s core o fcQuantum r.regs, none)
    | some s =>
      let up := fun (o : EngOp) => { o with out := some (w.1, w.2.1, w.2.2, r.regs) }
      (modOp s core o.id up, some (up o))

/-- The `i`-th piece of what an operation writes. -/
def outPiece (a : Nat) (bytes : List Byte) (i : Nat) : Option (Nat × List Byte) :=
  ((pieces64 a bytes.length)[i]?).map (fun p => (p.1, (bytes.drop (p.1 - a)).take p.2))

/-- Write one piece, where its place lets it. -/
def sumPut (s : State) (core : Nat) (o : EngOp) (sp : Bool) (a : Nat) (bytes : List Byte) (i : Nat) : State :=
  match outPiece a bytes i with
  | none => s
  | some p => match opWrite s o core fcCopy sp 0 p.1 p.2 with
    | .error _ => s
    | .ok s => s

/-- The pieces that an operation has not written yet. -/
def sumLeft (o : EngOp) (a : Nat) (bytes : List Byte) : List Nat :=
  (List.range (pieces64 a bytes.length).length).filter (fun i => !o.pieces.contains i)

/-- What a write that fails leaves: each aligned 64-byte piece of the destination holds its old bytes or its new bytes, and the spec does
not say which (R200): a free value chooses (log 1). -/
def freePieces (s : State) (core : Nat) (o : EngOp) (sp : Bool) (a : Nat) (bytes : List Byte) : State :=
  let l := sumLeft o a bytes
  ((numbered 0 l).foldl (fun t i => if (Config.freeValue (s.free + i.1)).getLsbD 0 then sumPut t core o sp a bytes i.2 else t) s).tickFree l.length

/-- The destination cannot be written whole. -/
def outBad (s : State) (core : Nat) (o : EngOp) (sp : Bool) (a n : Nat) : Bool :=
  if sp then !spInside (opLoc s o) a n else (virtCheck s o.ctx core .write a n).isSome

/-- An operation that has computed writes what is left, and ends: Arrive, or the failure. -/
def sumFinish (s : State) (core : Nat) (o : EngOp) : State :=
  match o.out with
  | none => s
  | some (sp, a, bytes, regs) =>
    if outBad s core o sp a bytes.length then sumFail (freePieces s core o sp a bytes) core o fcCopy regs
    else
      let s := (sumLeft o a bytes).foldl (fun s i => sumPut s core o sp a bytes i) s
      sumEnd (opArrive s o (skTb o.opc o.frame) bytes.length) core o { regs := regs }

/-- The operation to its end. -/
def summaryRun (s : State) (core : Nat) (o : EngOp) : State :=
  match o.out with
  | some _ => sumFinish s core o
  | none => match sumCompute s core o with
    | (s, some o) => sumFinish s core o
    | (s, none) => s

/-- One aligned 64-byte piece of the operation's inputs is read and kept, generic for an even `n` and scratchpad for an odd one; one that cannot
be read is left for the rest of the operation to meet. -/
def sumLatch (s : State) (core : Nat) (o : EngOp) (n : Nat) : State :=
  match opRead s o core fcCopy (n % 2 == 1) 0 (64 * (n / 2)) 64 with
  | .error _ => s
  | .ok b => if o.latch.any (fun l => l.1 == n) then s else modOp s core o.id (fun o => { o with latch := (n, b) :: o.latch })

/-- A part of an operation: while it reads, one piece of memory (R200, R223); when it has computed, the write of one piece. -/
def sumPart (s : State) (core : Nat) (o : EngOp) (n : Nat) : State :=
  match o.out with
  | none => sumLatch s core o n
  | some (sp, a, bytes, _) =>
    if !(sumLeft o a bytes).contains n || outBad s core o sp a bytes.length then s
    else modOp (sumPut s core o sp a bytes n) core o.id (fun o => { o with pieces := n :: o.pieces })

/-- SUMMARY_OP_RUN: the unit executes the operation at the head of its queue, to its end when `r.n` is 0; up to its result, with nothing
written, when `r.n` is 1; and else one piece of it (log 83). -/
def execSummaryOpRun (r : UnitRun) (s : State) : Out :=
  match (s.core r.core).skQ with
  | [] => .next s
  | o :: _ =>
    -- those that issue in one cycle are all in the queue before the unit takes the first of them
    if linkDead s r.core || skIssued o == some s.clock then .next s
    else if r.n = 0 then .next (summaryRun s r.core o)
    else if r.n = 1 then .next (if o.out.isSome then s else (sumCompute s r.core o).1)
    else .next (sumPart s r.core o (r.n - 2))

/-! ## The generator (R219, R220) -/

/-- RNGK.set and RNGK.seek: the new state counts from the next cycle on. -/
def rngk (c : Ctl) (f : FmtA) (seek : Bool) (s : State) : Out :=
  engInstr c f s (fun s fm =>
    if !zeroFrom fm 7 || (!seek && !((fm.drop 4).take 3).all (fun x => x == 0)) then fail s fcIllegal
    else
      let s := s.modMe (fun g =>
        let g := g.genSettle s.clock
        { g with gnext := some (s.clock, fm.getD 3 0 ++ fm.getD 2 0 ++ fm.getD 1 0 ++ fm.getD 0 0,
                                if seek then BitVec.ofNat 64 (frd fm 4) else 0, if seek then fm.getD 6 0 else g.gsid) })
      .next (s.fixed c 1 [.g f.st.toNat 0 false]))

def execRngkSet (c : Ctl) (f : FmtA) (s : State) : Out := rngk c f false s
def execRngkSeek (c : Ctl) (f : FmtA) (s : State) : Out := rngk c f true s

def execRngkRead (c : Ctl) (f : FmtA) (s : State) : Out :=
  ctlOp c f.gd [] s (fun s =>
    let g := s.me.genSettle s.clock
    let st := f.st.toNat
    let k := fun (i : Nat) => g.gk.extractLsb' (32 * i) 32
    .next (s.fixed c 1 [.g st (k 0) false, .g (st + 1) (k 1) false, .g (st + 2) (k 2) false, .g (st + 3) (k 3) false,
      .g (st + 4) (g.gpos.extractLsb' 0 32) false, .g (st + 5) (g.gpos.extractLsb' 32 32) false, .g (st + 6) g.gsid false,
      .g (st + 7) 0 false]))

/-- A random word as a uniform f32 (R220): exact. -/
def uniform (open' : Bool) (w : W32) : W32 :=
  let m := if open' then 2 * (w.toNat / 512) + 1 else w.toNat / 256
  if m = 0 then 0 else BitVec.ofNat 32 (roundTo envRne fF32 0 false m (-24)).1

/-- The words of the counter form for a lane. -/
def ctrWord (fm : List W32) (l j : Nat) : W32 :=
  (genBlock ⟨fm.getD 6 0, fm.getD 7 0, fm.getD 8 0, fm.getD 9 0⟩
    ⟨fm.getD 2 0 + BitVec.ofNat 32 l, fm.getD 3 0, fm.getD 4 0, fm.getD 5 0⟩).word j

def rngWords (c : Ctl) (f : FmtA) (conv : W32 → W32) (s : State) : Out :=
  engInstr c f s (fun s fm =>
    let g := s.me
    let d := fr fm 0 % 256
    let n := fr fm 0 / 256 % 8 + 1
    let ctr := f.eng.toNat == 1
    if fr fm 0 / 2048 ≠ 0 || d + n > g.nv || (ctr && n > 4) then fail s fcIllegal
    else
      let ls := lanesOf g.run
      let k := if ctr then 0 else n * ls.length
      let ws := s.draws k
      let wr := (numbered 0 ls).flatMap (fun l => (List.range n).map (fun j =>
        RegWr.v (d + j) l.2 (conv (if ctr then ctrWord fm l.2 j else ws.getD (n * l.1 + j) 0)) false))
      .next ((s.drawn k).variable c (wr ++ [.g f.st.toNat 0 false])))

def execRngv (c : Ctl) (f : FmtA) (s : State) : Out := rngWords c f id s
def execRngu (c : Ctl) (f : FmtA) (s : State) : Out := rngWords c f (uniform (bit0 f.fn.toNat)) s

end Sys2Proof.Machine
end

