-- ==== Sys2Proof/Machine/Auto.lean ====
section
/-!
DEFINITION. What the machine does by itself when no group has the turn and nothing comes from outside: the first of the happenings
that are due, in a fixed order, the pickers last (log 48).
-/
namespace Sys2Proof.Machine

/-- A happening, as its meaning at any state. -/
abbrev Due := State → Out

/-- The delivery of a message. -/
def deliveryOf (id : Nat) (m : Msg) : Option Due :=
  let t := m.typ
  if !knownType t || m.cls > 4 then some (execReservedMessageDrop id)
  else if t = tReqS then some (execMsgReqs id) else if t = tReqX then some (execMsgReqx id) else if t = tUpg then some (execMsgUpg id)
  else if t = tPExt then some (execMsgPext id) else if t = tEvN then some (execMsgEvn id) else if t = tEvD then some (execMsgEvd id)
  else if t = tSnpShr then some (execMsgSnpshr id) else if t = tSnpInv then some (execMsgSnpinv id)
  else if t = tSnpMask then some (execMsgSnpmask id) else if t = tSnpMerge then some (execMsgSnpmerge id) else if t = tInv then some (execMsgInv id)
  else if t = tAck then some (execMsgAck id) else if t = tAckD then some (execMsgAckd id) else if t = tDataS then some (execMsgDatas id none)
  else if t = tDataSN then some (execMsgDatasn id) else if t = tDataE then some (execMsgDatae id none)
  else if t = tDataP then some (execMsgDatap id none) else if t = tEvAck then some (execMsgEvack id)
  else if t = tAtomF then some (execMsgAtomf id) else if t = tAtomR then some (execMsgAtomr id) else if t = tRdU then some (execMsgRdu id)
  else if t = tRdUR then some (execMsgRdur id) else if t = tWrU then some (execMsgWru id) else if t = tWrUA then some (execMsgWrua id)
  else if t = tPut then some (execMsgPut id) else if t = tPutA then some (execMsgPuta id) else if t = tSig then some (execMsgSig id)
  else if t = tMcd then some (execMsgMcd id) else if t = tRdc then some (execMsgRdc id) else if t = tRdr then some (execMsgRdr id)
  else if t = tRsv then some (execMsgRsv id) else if t = tGnt then some (execMsgGnt id)
  else none

/-- The fabric: deliveries, acknowledgements, back-offs, withdrawn grants, deadlines, ports. -/
def fabricDue (s : State) : List Due :=
  s.net.filterMap (fun e => deliveryOf e.1 e.2) ++ (mkeys s.retryStore).map execFabricAck ++ (mkeys s.sendSeq).map execNakBackoffExpiry ++
  (mkeys s.rsvs).map execGrantWithdraw ++ s.redSets.flatMap (fun r => (mkeys r.2.chunks).map (execReductionDeadline r.1)) ++
  (mkeys s.ports).map execPortDown

/-- The accesses, completions and holds of a group. -/
def groupDue (e : Nat × Group) : List Due :=
  let g := e.1
  e.2.acc.flatMap (fun a => (List.range a.reqs.length).flatMap (fun i => [execMemAccessComplete g a.id i, execLoadFillReturn g a.id i])) ++
  (e.2.pend.filter (fun p => p.due.isNone)).map (fun p => execCompletionPoint g p.id) ++
  (if e.2.hold.isSome then [execSleepEnd g, execYieldEnd g, execWaitaWake g, execOappGrant g, execOrderedAtomicGrant g] else []) ++
  (if e.2.live then [execWatchdogExpiry g] else [])

def partDue (e : Nat × Part) : List Due :=
  (List.range e.2.wc.length).map (execWcBufferTimeout e.1) ++ e.2.tracker.map (fun t => execTrackerEntryRetire e.1 t.id)

/-- Pieces of an operation of the copy engine. -/
def enginePieces (o : EngOp) : Nat :=
  if o.opc = 0xBA then copyPieces (copyFrame o.frame)
  else if isSwitchRed o then (fabFrame o).per
  else fabPieces (fabFrame o)

/-- The engines of a core. -/
def coreDue (e : Nat × Core) : List Due :=
  let c := e.1
  (if e.2.copyQ.isEmpty then [] else [execCopyEngineOpStart c]) ++
  e.2.copyQ.flatMap (fun o => if o.started then
    ((List.range (enginePieces o)).filter (fun n => !o.pieces.contains n)).map (execCopyPieceWrite c o.id) else []) ++
  (if e.2.mxQ.isEmpty then [] else [execMatrixOpRun ⟨c, 0⟩]) ++ (if e.2.skQ.isEmpty then [] else [execSummaryOpRun ⟨c, 0⟩])

/-- The Chamois engine of a die, its intervals and its retries. -/
def dieDue (d : Nat) (x : Die) : List Due :=
  (List.range 16).flatMap (fun ch => [execChamoisOpStart d ch, execClSend d ch, execClRecv d ch, execClReduce d ch, execClCopy d ch, execClMcast d ch, execClWaitb d ch,
    execClSignal d ch, execClArrive d ch, execClLoop d ch, execClEndloop d ch, execClRange d ch, execClEnd d ch, execFallbackWatchdogLimit d ch]) ++
  (mkeys x.retry).map (execClusterRetry d) ++ [execIntervalEnd d]

/-- The service that the ring of a context asks for next. -/
def serviceDue (s : State) (cx : Nat) : List Due :=
  match ringReq s cx with
  | none => []
  | some (_, q) =>
    if q.op = 1 then [execSvcReplay q] else if q.op = 2 then [execSvcInval q] else if q.op = 3 then [execSvcCtxstart q]
    else if q.op = 4 then [execSvcCtxstop q] else if q.op = 5 then [execSvcKeyload q] else if q.op = 6 then [execSvcKeyclr q]
    else if q.op = 7 then [execSvcPlimit q] else if q.op = 8 then [execSvcAttest q] else if q.op = 9 then [execSvcGrant q] else [execSvcUnknown q]

def ctxDue (s : State) (e : Nat × Ctx) : List Due :=
  [execLogSlotFree e.1, execCompletionWordRetry e.1, execLqExchange e.1, execCommitRoundStart e.1, execCommitRoundComplete e.1] ++ serviceDue s e.1 ++
  (if e.2.stopping then [execSvcCtxstop (SvcReq.mk (.mailbox e.2.pkg) 4 (BitVec.ofNat 64 (e.1 % 64)) 0 0)] else [])

/-- The dispatcher: starts, saves under way, and placements on the dies of a context's package. -/
def dispatchDue (s : State) : List Due :=
  s.blocks.flatMap (fun e => (if e.2.stage = .placed then [execBlockStart e.1] else []) ++ (if saving s e.1 then [execPreempt e.1] else [])) ++
  s.ctxs.flatMap (fun c => [2 * c.2.pkg, 2 * c.2.pkg + 1].flatMap (fun d => match choose s d c.1 with
    | none => []
    | some (r, _) => (match savedOf s r with
      | [] => (coresOf d).flatMap (fun k => [execBlockPlace d c.1 k, execClusterReserve d c.1 k])
      | b :: bs => (b :: bs).flatMap (fun x => (coresOf d).map (execRestore x.1)))))

/-- Heads with an after word that cannot be read: a dispatcher that tries them records the failure (R351). -/
def reportDue (s : State) : List Due :=
  (s.ctxs.filter (fun c => (headsOf s c.1).any (fun e => match afterRes s e.2 with
    | .unread _ => true
    | _ => false))).map (fun c => execBlockPlace (2 * c.2.pkg) c.1 0)

/-- The picker that runs next: one that has not picked in this cycle, or any when all have. -/
def pickerDue (s : State) : Due :=
  match (activeParts s).find? (fun q => (s.part q).pickedAt != some s.clock) with
  | some q => execPickerIssue q
  | none => execPickerIssue ((activeParts s).headD 0)

/-- Everything that may be due. -/
def dueList (s : State) : List Due :=
  fabricDue s ++ s.groups.flatMap groupDue ++ s.parts.flatMap partDue ++ s.cores.flatMap coreDue ++ s.ctxs.flatMap (ctxDue s) ++
  (List.range (2 * s.packages)).flatMap (fun d => dieDue d (s.die d)) ++ dispatchDue s ++ [pickerDue s] ++ reportDue s

/-- A happening changes the state. -/
def acts (s : State) (e : Due) : Bool :=
  match e s with
  | .next t => decide (t ≠ s)
  | _ => false

/-- The machine's own next happening. -/
def nextAuto (s : State) : Option Due := (dueList s).find? (acts s)

/-- A step with nothing from outside. -/
def autoStep (s : State) : Out :=
  match nextAuto s with
  | some e => e s
  | none => .next s

end Sys2Proof.Machine
end

