-- ==== Sys2Proof/Machine/LaneInt.lean ====
section
/-!
DEFINITION. The vector integer, bit and predicate instructions, opcodes 0x50 to 0x6C (R111 to R118).
-/
namespace Sys2Proof.Machine

/-- SAT of an integer instruction comes from a prefix alone (R32, R67). -/
def vint (c : Ctl) (f : FmtV3) (takesB takesC : Bool) (lat : Option Nat) (s : State)
    (el : Nat → Bool → Bool → Nat → Nat → Nat → Nat × Stat) : Out :=
  laneInstr c f.gd lat (fun g => v3Op g f takesB takesC 0 (fun _ a b d => el (elemW f.t.toNat) (elemSigned f.t.toNat) (pfxSat g) a b d)) s

/-- An integer result on exact integers, wrapped or clamped (R113). -/
def vexact (c : Ctl) (f : FmtV3) (takesB takesC : Bool) (s : State) (r : Int → Int → Int → Int) : Out :=
  vint c f takesB takesC (some 4) s (fun w sg sat a b d =>
    clampInt w sg sat (r (readInt w sg a) (readInt w sg b) (readInt w sg d)))

/-- A result that sets no status, from the width and the element bits. -/
def vbits (c : Ctl) (f : FmtV3) (takesB takesC : Bool) (s : State) (r : Nat → Nat → Nat → Nat → Nat) : Out :=
  vint c f takesB takesC (some 4) s (fun w _ _ a b d => (r w a b d, 0))

/-- VMOV: the register form copies A, the immediate form replicates the imm8 and reads no register (R113). -/
def execVmov (c : Ctl) (f : FmtV3) (s : State) : Out :=
  let n := tRegs f.t.toNat
  let srcs := if f.imm then [] else [(f.a.toNat, n)]
  laneInstr c f.gd (some 4) (fun g =>
    { v3Op g f f.imm false 0 (fun _ a b _ => (if f.imm then b else a, 0)) with
      named := (f.d.toNat, n) :: srcs
      reads := srcs }) s

/-- The four modes of VMOVI (R114): the new value from the immediate and the old register. -/
def vmovi (c : Ctl) (f : FmtVI) (readsD : Bool) (s : State) (r : W32 → W32) : Out :=
  laneInstr c f.gd (some 4) (fun g =>
    { named := [(f.d.toNat, 1)]
      reads := if readsD then [(f.d.toNat, 1)] else []
      preds := []
      coins := 0
      run := fun l _ => ([.v f.d.toNat l (r (g.rv f.d.toNat l)) false], 0)
      zero := fun l => [.v f.d.toNat l 0 false] }) s

def execVmovi (c : Ctl) (f : FmtVI) (s : State) : Out := vmovi c f false s (fun _ => f.imm.signExtend 32)
def execVmoviHi (c : Ctl) (f : FmtVI) (s : State) : Out := vmovi c f true s (fun d => f.imm ++ d.extractLsb' 0 16)
def execVmoviZ (c : Ctl) (f : FmtVI) (s : State) : Out := vmovi c f false s (fun _ => f.imm.zeroExtend 32)
def execVmoviRep (c : Ctl) (f : FmtVI) (s : State) : Out := vmovi c f false s (fun _ => f.imm ++ f.imm)

def execVadd (c : Ctl) (f : FmtV3) (s : State) : Out := vexact c f true false s (fun a b _ => a + b)
def execVsub (c : Ctl) (f : FmtV3) (s : State) : Out := vexact c f true false s (fun a b _ => a - b)
def execVmul (c : Ctl) (f : FmtV3) (s : State) : Out := vexact c f true false s (fun a b _ => a * b)
def execVmad (c : Ctl) (f : FmtV3) (s : State) : Out := vexact c f true true s (fun a b d => a * b + d)
def execVabs (c : Ctl) (f : FmtV3) (s : State) : Out := vexact c f false false s (fun a _ _ => a.natAbs)
def execVmulh (c : Ctl) (f : FmtV3) (s : State) : Out :=
  vint c f true false (some 4) s (fun w sg _ a b _ => (wrap w (readInt w sg a * readInt w sg b / (2 ^ w : Nat)), 0))

/-- VDIV and VREM: variable latency, IDZ for a zero divisor (R113). -/
def execVdiv (c : Ctl) (f : FmtV3) (s : State) : Out :=
  vint c f true false none s (fun w sg _ a b _ => (divInt w sg a b, divStat w b))
def execVrem (c : Ctl) (f : FmtV3) (s : State) : Out :=
  vint c f true false none s (fun w sg _ a b _ => (remInt w sg a b, divStat w b))

def execVand (c : Ctl) (f : FmtV3) (s : State) : Out := vbits c f true false s (fun _ a b _ => a &&& b)
def execVor (c : Ctl) (f : FmtV3) (s : State) : Out := vbits c f true false s (fun _ a b _ => a ||| b)
def execVxor (c : Ctl) (f : FmtV3) (s : State) : Out := vbits c f true false s (fun _ a b _ => a ^^^ b)
def execVnot (c : Ctl) (f : FmtV3) (s : State) : Out := vbits c f false false s (fun w a _ _ => 2 ^ w - 1 - a)
def execVshr (c : Ctl) (f : FmtV3) (s : State) : Out := vbits c f true false s (fun w a b _ => shrN w a b)
def execVsar (c : Ctl) (f : FmtV3) (s : State) : Out := vbits c f true false s (fun w a b _ => sarN w a b)

/-- VSHL: a * 2^n on exact integers, so that SAT sees the bits that leave (R113). -/
def execVshl (c : Ctl) (f : FmtV3) (s : State) : Out :=
  vint c f true false (some 4) s (fun w sg sat a b _ => clampInt w sg sat (readInt w sg a * (2 ^ (b % w) : Nat)))

def execVmin (c : Ctl) (f : FmtV3) (s : State) : Out :=
  vint c f true false (some 4) s (fun w sg _ a b _ => (if readInt w sg b < readInt w sg a then b else a, 0))
def execVmax (c : Ctl) (f : FmtV3) (s : State) : Out :=
  vint c f true false (some 4) s (fun w sg _ a b _ => (if readInt w sg a < readInt w sg b then b else a, 0))

/-! ## Predicates (R115) -/

/-- The named v-registers of a comparison. -/
def cmpRegs (f : FmtV3) : List (Nat × Nat) :=
  (f.a.toNat, tRegs f.t.toNat) :: (if f.imm then [] else [(f.b.toNat, tRegs f.t.toNat)])

/-- A comparison that writes a lane predicate. -/
def vcompare (c : Ctl) (f : FmtV3) (lat : Nat) (s : State) (r : Group → Nat → Nat → Bool × Stat) : Out :=
  laneInstr c f.gd (some lat) (fun g =>
    { named := cmpRegs f
      reads := cmpRegs f
      preds := []
      coins := 0
      run := fun l _ =>
        let x := r g (laneVal g f.t.toNat f.a.toNat l) (laneB g f l)
        ([.p f.d.toNat l x.1], x.2)
      zero := fun l => [.p f.d.toNat l false] }) s

def execVcmp (c : Ctl) (f : FmtV3) (s : State) : Out :=
  vcompare c f 4 s (fun _ a b =>
    let w := elemW f.t.toNat
    let sg := elemSigned f.t.toNat
    (condHolds f.mode (readInt w sg a) (readInt w sg b), 0))

/-- VSEL: whole registers or pairs, by a lane predicate (R115). -/
def execVsel (c : Ctl) (f : FmtV3) (s : State) : Out :=
  let t := f.t.toNat
  laneInstr c f.gd (some 4) (fun g =>
    { named := (f.d.toNat, tRegs t) :: cmpRegs f
      reads := cmpRegs f
      preds := [f.mode]
      coins := 0
      run := fun l _ => (wrV (wideT t) f.d.toNat l (if g.rp f.mode l then laneVal g t f.a.toNat l else laneB g f l), 0)
      zero := fun l => wrV (wideT t) f.d.toNat l 0 }) s

/-- POP: a truth table over two predicates; all of M is the table (R115). -/
def execPop (c : Ctl) (f : FmtV3) (s : State) : Out :=
  laneInstr c f.gd (some 4) (fun g =>
    { named := []
      reads := []
      preds := [f.a.toNat, f.b.toNat]
      coins := 0
      run := fun l _ => ([.p f.d.toNat l (lutAt f.m.toNat (g.rp f.a.toNat l) (g.rp f.b.toNat l))], 0)
      zero := fun l => [.p f.d.toNat l false] }) s

/-! ## Bit fields, permutes, dot products (R116 to R118) -/

def execVpopc (c : Ctl) (f : FmtV3) (s : State) : Out := vbits c f false false s (fun w a _ _ => popCount w a)
def execVclz (c : Ctl) (f : FmtV3) (s : State) : Out := vbits c f false false s (fun w a _ _ => clz w a)
def execVbrev (c : Ctl) (f : FmtV3) (s : State) : Out := vbits c f false false s (fun w a _ _ => bitReverse w a)
def execVbfx (c : Ctl) (f : FmtV3) (s : State) : Out :=
  vint c f true false (some 4) s (fun w sg _ a b _ => (bfx w sg a b, 0))

/-- An instruction that reads its own destination, whatever a prefix says: VBFI and VPRMT take no CR. -/
def execVbfi (c : Ctl) (f : FmtV3) (s : State) : Out := vbits c f true true s (fun w a b d => bfi w d a b)
def execVprmt (c : Ctl) (f : FmtV3) (s : State) : Out := vbits c f true true s (fun _ a b d => permuteBytes a b d)

/-- VDOT4 (R118). -/
def execVdot4 (c : Ctl) (f : FmtV3) (s : State) : Out :=
  laneInstr c f.gd (some 4) (fun g =>
    let cr := pfxC g f.d.toNat
    { named := [(f.d.toNat, 1), (f.a.toNat, 1), (f.b.toNat, 1), (cr, 1)]
      reads := [(f.a.toNat, 1), (f.b.toNat, 1), (cr, 1)]
      preds := []
      coins := 0
      run := fun l _ =>
        let a := (g.rv f.a.toNat l).toNat
        let b := (g.rv f.b.toNat l).toNat
        let sum := (List.range 4).foldl (fun acc i =>
          acc + readInt 8 (f.mode % 2 = 0) (bitsN a (8 * i) 8) * readInt 8 (f.mode / 2 % 2 = 0) (bitsN b (8 * i) 8))
          (g.rv cr l).toInt
        let r := clampInt 32 true (pfxSat g) sum
        ([.v f.d.toNat l (BitVec.ofNat 32 r.1) false], r.2)
      zero := fun l => [.v f.d.toNat l 0 false] }) s

end Sys2Proof.Machine
end

