-- ==== Sys2Proof/Machine/LaneFloat.lean ====
section
/-!
DEFINITION. The vector floating instructions, opcodes 0x80 to 0x91 (R119 to R126).
-/
namespace Sys2Proof.Machine

/-- The latency of a floating instruction: 6 for f64, 4 otherwise (R60). -/
def fLat (f : FmtV3) : Option Nat := some (if f.t = 9 then 6 else 4)

/-- A floating instruction that rounds every element in RND, one word for each under SR. -/
def vround (c : Ctl) (f : FmtV3) (takesB takesC : Bool) (s : State)
    (el : FEnv → Fmt → Nat → Nat → Nat → Nat → Nat × Stat) : Out :=
  laneInstr c f.gd (fLat f) (fun g =>
    let env := fenv g (pfxRnd g)
    v3Op g f takesB takesC (srWordsOf env (elemN f.t.toNat)) (fun k a b d => el env (elemFmt f.t.toNat) k a b d)) s

/-- A floating instruction that rounds nothing. -/
def vplain (c : Ctl) (f : FmtV3) (takesB : Bool) (s : State) (el : FEnv → Fmt → Nat → Nat → Nat × Stat) : Out :=
  laneInstr c f.gd (fLat f) (fun g =>
    v3Op g f takesB false 0 (fun _ a b _ => el (fenv g 0) (elemFmt f.t.toNat) a b)) s

def execFadd (c : Ctl) (f : FmtV3) (s : State) : Out :=
  vround c f true false s (fun e m k a b _ => fAdd e m k (unpack m e.daz a) (unpack m e.daz b))
def execFsub (c : Ctl) (f : FmtV3) (s : State) : Out :=
  vround c f true false s (fun e m k a b _ => fSub e m k (unpack m e.daz a) (unpack m e.daz b))
def execFmul (c : Ctl) (f : FmtV3) (s : State) : Out :=
  vround c f true false s (fun e m k a b _ => fMul e m k (unpack m e.daz a) (unpack m e.daz b))
def execFfma (c : Ctl) (f : FmtV3) (s : State) : Out :=
  vround c f true true s (fun e m k a b d => fFma e m k (unpack m e.daz a) (unpack m e.daz b) (unpack m e.daz d))

def execFmin (c : Ctl) (f : FmtV3) (s : State) : Out := vplain c f true s (fun e m a b => fMinMax e m false false a b)
def execFmax (c : Ctl) (f : FmtV3) (s : State) : Out := vplain c f true s (fun e m a b => fMinMax e m true false a b)
def execFminn (c : Ctl) (f : FmtV3) (s : State) : Out := vplain c f true s (fun e m a b => fMinMax e m false true a b)
def execFmaxn (c : Ctl) (f : FmtV3) (s : State) : Out := vplain c f true s (fun e m a b => fMinMax e m true true a b)

/-- FCMP (R121). -/
def execFcmp (c : Ctl) (f : FmtV3) (s : State) : Out :=
  vcompare c f (if f.t = 9 then 6 else 4) s (fun g a b => fCmp (fenv g 0) (elemFmt f.t.toNat) f.mode a b)

/-- FCLASS and its order keys read the true encoding and set no status (R122). -/
def execFclass (c : Ctl) (f : FmtV3) (s : State) : Out := vplain c f false s (fun _ m a _ => (fClass m a, 0))
def execFclassKey (c : Ctl) (f : FmtV3) (s : State) : Out := vplain c f false s (fun _ m a _ => (fKey m a, 0))

/-- FABS and FNEG change only the sign bit (R119). -/
def execFabs (c : Ctl) (f : FmtV3) (s : State) : Out := vplain c f false s (fun _ m a _ => (a % m.signBit, 0))
def execFneg (c : Ctl) (f : FmtV3) (s : State) : Out :=
  vplain c f false s (fun _ m a _ => (if bitN a (m.eb + m.mb) then a % m.signBit else a + m.signBit, 0))

/-- FRND in the mode of its own M (R123). -/
def execFrnd (c : Ctl) (f : FmtV3) (s : State) : Out :=
  laneInstr c f.gd (fLat f) (fun g =>
    let env := fenv g f.mode
    v3Op g f false false (srWordsOf env (elemN f.t.toNat)) (fun k a _ _ => fRound env (elemFmt f.t.toNat) k a)) s

/-- FSCL: the exponent is B read as a signed integer of the element width; an imm8 is used as it is (R119). -/
def execFscl (c : Ctl) (f : FmtV3) (s : State) : Out :=
  vround c f true false s (fun e m k a b _ => fScale e m k a (if f.imm then simm8 f.b else sgn (elemW f.t.toNat) b))

/-- FDOT2 (R124): one f32 result, one word under SR. -/
def execFdot2 (c : Ctl) (f : FmtV3) (s : State) : Out :=
  let t := f.t.toNat
  laneInstr c f.gd (some 4) (fun g =>
    let env := fenv g (pfxRnd g)
    let cr := pfxC g f.d.toNat
    let m := elemFmt t
    { named := [(f.d.toNat, 1), (f.a.toNat, 1), (f.b.toNat, 1), (cr, 1)]
      reads := [(f.a.toNat, 1), (f.b.toNat, 1), (cr, 1)]
      preds := []
      coins := srWordsOf env 1
      run := fun l ws =>
        let a := laneVal g t f.a.toNat l
        let b := laneVal g t f.b.toNat l
        let u := fun (x : Nat) (i : Nat) => unpack m env.daz (elem t x i)
        let r := fDot2 env m (coin (ws.getD 0 0)) (u a 0) (u b 0) (u a 1) (u b 1) (unpack fF32 env.daz (g.rv cr l).toNat)
        ([.v f.d.toNat l (BitVec.ofNat 32 r.1) false], r.2)
      zero := fun l => [.v f.d.toNat l 0 false] }) s

/-- One conversion of FCVT (R125): destination code, source code, value. -/
def fcvtVal (env : FEnv) (d src k x : Nat) : Nat × Stat :=
  if src ≤ 4 then intToF env (elemFmt d) k x src
  else
    let y := if src = 0xA || src = 0xB then bitsN x 0 16 else x
    if d ≤ 4 then fToInt env (elemFmt src) k y d else fToF env (elemFmt src) (elemFmt d) k y

/-- FCVT: code 0xA or 0xB reads element 0, and as a destination writes element 1 with zero (R125). -/
def execFcvt (c : Ctl) (f : FmtV3) (s : State) : Out :=
  let d := f.t.toNat
  let src := f.b.toNat % 16
  laneInstr c f.gd (some (if d = 9 || src = 9 then 6 else 4)) (fun g =>
    let env := fenv g f.mode
    { named := [(f.d.toNat, tRegs d), (f.a.toNat, tRegs src)]
      reads := [(f.a.toNat, tRegs src)]
      preds := []
      coins := srWordsOf env 1
      run := fun l ws =>
        let r := fcvtVal env d src (coin (ws.getD 0 0)) (laneVal g src f.a.toNat l)
        (wrV (wideT d) f.d.toNat l r.1, r.2)
      zero := fun l => wrV (wideT d) f.d.toNat l 0 }) s

/-- Where FPACK puts its two elements: bit position and width (R126). -/
def packAt (t j : Nat) : Nat × Nat := if t = 0xA || t = 0xB then (0, 16) else if t = 0xE then (8 * j, 4) else (16 * j, 8)

/-- FPACK: two f32 values into two neighbouring elements, the others kept; two words under SR (R126). -/
def execFpack (c : Ctl) (f : FmtV3) (s : State) : Out :=
  let t := f.t.toNat
  laneInstr c f.gd (some 4) (fun g =>
    let env := fenv g (pfxRnd g)
    let srcs := (f.a.toNat, 1) :: (if f.imm then [] else [(f.b.toNat, 1)])
    let keeps := if t = 0xA || t = 0xB then [] else [(f.d.toNat, 1)]
    { named := (f.d.toNat, 1) :: srcs
      reads := srcs ++ keeps
      preds := []
      coins := srWordsOf env 2
      run := fun l ws =>
        let a := (g.rv f.a.toNat l).toNat
        let b := if f.imm then immElem 8 f.b else (g.rv f.b.toNat l).toNat
        let x := fToF env fF32 (elemFmt t) (coin (ws.getD 0 0)) a
        let y := fToF env fF32 (elemFmt t) (coin (ws.getD 1 0)) b
        let (at', w) := packAt t f.mode
        let old := (g.rv f.d.toNat l).toNat
        let keep := old - bitsN old at' (2 * w) * 2 ^ at'
        ([.v f.d.toNat l (BitVec.ofNat 32 (keep + (x.1 % 2 ^ w + y.1 % 2 ^ w * 2 ^ w) * 2 ^ at')) false], x.2 ||| y.2)
      zero := fun l => [.v f.d.toNat l 0 false] }) s

/-- FUNPK: element j to f32, exactly, but for a subnormal of bf16 that FTZ flushes (R40, R126, log 88). -/
def execFunpk (c : Ctl) (f : FmtV3) (s : State) : Out :=
  let t := f.t.toNat
  laneInstr c f.gd (some 4) (fun g =>
    { named := [(f.d.toNat, 1), (f.a.toNat, 1)]
      reads := [(f.a.toNat, 1)]
      preds := []
      coins := 0
      run := fun l _ =>
        let r := fToF (fenv g 0) (elemFmt t) fF32 0 (elem t (g.rv f.a.toNat l).toNat f.mode)
        ([.v f.d.toNat l (BitVec.ofNat 32 r.1) false], r.2)
      zero := fun l => [.v f.d.toNat l 0 false] }) s

end Sys2Proof.Machine
end

