-- ==== Sys2Proof/Machine/Special.lean ====
section
/-!
DEFINITION. The special-function instructions, opcodes 0x98 to 0xA0 (R127, R128).
-/
namespace Sys2Proof.Machine

/-- A special function rounded in RND: XRCP and XSQRT. -/
def xround (c : Ctl) (f : FmtV3) (s : State) (r : FEnv → Fmt → Nat → Nat → Nat × Stat) : Out :=
  laneInstr c f.gd none (fun g =>
    let env := fenv g (pfxRnd g)
    v3Op g f false false (srWordsOf env (elemN f.t.toNat)) (fun k a _ _ => r env (elemFmt f.t.toNat) k a)) s

/-- A special function rounded to nearest even, whatever FMT says (R127). -/
def xnear (c : Ctl) (f : FmtV3) (s : State) (r : FEnv → Fmt → Nat → Nat × Stat) : Out :=
  laneInstr c f.gd none (fun g =>
    v3Op g f false false 0 (fun _ a _ _ => r (fenv g 1) (elemFmt f.t.toNat) a)) s

def execXrcp (c : Ctl) (f : FmtV3) (s : State) : Out := xround c f s xRcp
def execXsqrt (c : Ctl) (f : FmtV3) (s : State) : Out := xround c f s xSqrt
def execXrsq (c : Ctl) (f : FmtV3) (s : State) : Out := xnear c f s xRsq
def execXexp2 (c : Ctl) (f : FmtV3) (s : State) : Out := xnear c f s xExp2
def execXlog2 (c : Ctl) (f : FmtV3) (s : State) : Out := xnear c f s xLog2
def execXsin (c : Ctl) (f : FmtV3) (s : State) : Out := xnear c f s (xTrig false)
def execXcos (c : Ctl) (f : FmtV3) (s : State) : Out := xnear c f s (xTrig true)
def execXtanh (c : Ctl) (f : FmtV3) (s : State) : Out := xnear c f s xTanh
def execXsig (c : Ctl) (f : FmtV3) (s : State) : Out := xnear c f s xSig

end Sys2Proof.Machine
end

