-- ==== Sys2Proof/Machine/Dispatch.lean ====
section
/-!
DEFINITION. Which meaning each row of the opcode table has: one arm per constructor of Instr.
-/
namespace Sys2Proof.Machine
open Host (Outcome)

def exec (i : Instr) (s : State) : Host.Outcome State Fault Refusal :=
  match i with
  | .nop c f => Sys2Proof.Machine.execNop c f s
  | .pfx c f => Sys2Proof.Machine.execPfx c f s
  | .gmov c f => Sys2Proof.Machine.execGmov c f s
  | .gmovi c f => Sys2Proof.Machine.execGmovi c f s
  | .gmovh c f => Sys2Proof.Machine.execGmovh c f s
  | .gadd c f => Sys2Proof.Machine.execGadd c f s
  | .gsub c f => Sys2Proof.Machine.execGsub c f s
  | .gmul c f => Sys2Proof.Machine.execGmul c f s
  | .gmulh c f => Sys2Proof.Machine.execGmulh c f s
  | .gdiv c f => Sys2Proof.Machine.execGdiv c f s
  | .grem c f => Sys2Proof.Machine.execGrem c f s
  | .gand c f => Sys2Proof.Machine.execGand c f s
  | .gor c f => Sys2Proof.Machine.execGor c f s
  | .gxor c f => Sys2Proof.Machine.execGxor c f s
  | .gnot c f => Sys2Proof.Machine.execGnot c f s
  | .gshl c f => Sys2Proof.Machine.execGshl c f s
  | .gshr c f => Sys2Proof.Machine.execGshr c f s
  | .gsar c f => Sys2Proof.Machine.execGsar c f s
  | .grot c f => Sys2Proof.Machine.execGrot c f s
  | .gmin c f => Sys2Proof.Machine.execGmin c f s
  | .gmax c f => Sys2Proof.Machine.execGmax c f s
  | .gcmp c f => Sys2Proof.Machine.execGcmp c f s
  | .gsel c f => Sys2Proof.Machine.execGsel c f s
  | .glea c f => Sys2Proof.Machine.execGlea c f s
  | .gpopc c f => Sys2Proof.Machine.execGpopc c f s
  | .gclz c f => Sys2Proof.Machine.execGclz c f s
  | .gbfx c f => Sys2Proof.Machine.execGbfx c f s
  | .gbfi c f => Sys2Proof.Machine.execGbfi c f s
  | .qop c f => Sys2Proof.Machine.execQop c f s
  | .sread c f => Sys2Proof.Machine.execSread c f s
  | .swrite c f => Sys2Proof.Machine.execSwrite c f s
  | .setfmt c f => Sys2Proof.Machine.execSetfmt c f s
  | .getfmt c f => Sys2Proof.Machine.execGetfmt c f s
  | .bra c f => Sys2Proof.Machine.execBra c f s
  | .brx c f => Sys2Proof.Machine.execBrx c f s
  | .call c f => Sys2Proof.Machine.execCall c f s
  | .ret c f => Sys2Proof.Machine.execRet c f s
  | .vbr c f => Sys2Proof.Machine.execVbr c f s
  | .vbrk c f => Sys2Proof.Machine.execVbrk c f s
  | .vexit c f => Sys2Proof.Machine.execVexit c f s
  | .waitk c f => Sys2Proof.Machine.execWaitk c f s
  | .yield c f => Sys2Proof.Machine.execYield c f s
  | .sleep c f => Sys2Proof.Machine.execSleep c f s
  | .exit c f => Sys2Proof.Machine.execExit c f s
  | .tail c f => Sys2Proof.Machine.execTail c f s
  | .trap c f => Sys2Proof.Machine.execTrap c f s
  | .bkpt c f => Sys2Proof.Machine.execBkpt c f s
  | .vmov c f => Sys2Proof.Machine.execVmov c f s
  | .vmovi c f => Sys2Proof.Machine.execVmovi c f s
  | .vmoviHi c f => Sys2Proof.Machine.execVmoviHi c f s
  | .vmoviZ c f => Sys2Proof.Machine.execVmoviZ c f s
  | .vmoviRep c f => Sys2Proof.Machine.execVmoviRep c f s
  | .vadd c f => Sys2Proof.Machine.execVadd c f s
  | .vsub c f => Sys2Proof.Machine.execVsub c f s
  | .vmul c f => Sys2Proof.Machine.execVmul c f s
  | .vmulh c f => Sys2Proof.Machine.execVmulh c f s
  | .vmad c f => Sys2Proof.Machine.execVmad c f s
  | .vdiv c f => Sys2Proof.Machine.execVdiv c f s
  | .vrem c f => Sys2Proof.Machine.execVrem c f s
  | .vand c f => Sys2Proof.Machine.execVand c f s
  | .vor c f => Sys2Proof.Machine.execVor c f s
  | .vxor c f => Sys2Proof.Machine.execVxor c f s
  | .vnot c f => Sys2Proof.Machine.execVnot c f s
  | .vshl c f => Sys2Proof.Machine.execVshl c f s
  | .vshr c f => Sys2Proof.Machine.execVshr c f s
  | .vsar c f => Sys2Proof.Machine.execVsar c f s
  | .vmin c f => Sys2Proof.Machine.execVmin c f s
  | .vmax c f => Sys2Proof.Machine.execVmax c f s
  | .vabs c f => Sys2Proof.Machine.execVabs c f s
  | .vcmp c f => Sys2Proof.Machine.execVcmp c f s
  | .vsel c f => Sys2Proof.Machine.execVsel c f s
  | .vpopc c f => Sys2Proof.Machine.execVpopc c f s
  | .vclz c f => Sys2Proof.Machine.execVclz c f s
  | .vbrev c f => Sys2Proof.Machine.execVbrev c f s
  | .vbfx c f => Sys2Proof.Machine.execVbfx c f s
  | .vbfi c f => Sys2Proof.Machine.execVbfi c f s
  | .vprmt c f => Sys2Proof.Machine.execVprmt c f s
  | .vdot4 c f => Sys2Proof.Machine.execVdot4 c f s
  | .pop c f => Sys2Proof.Machine.execPop c f s
  | .fadd c f => Sys2Proof.Machine.execFadd c f s
  | .fsub c f => Sys2Proof.Machine.execFsub c f s
  | .fmul c f => Sys2Proof.Machine.execFmul c f s
  | .ffma c f => Sys2Proof.Machine.execFfma c f s
  | .fmin c f => Sys2Proof.Machine.execFmin c f s
  | .fmax c f => Sys2Proof.Machine.execFmax c f s
  | .fminn c f => Sys2Proof.Machine.execFminn c f s
  | .fmaxn c f => Sys2Proof.Machine.execFmaxn c f s
  | .fcmp c f => Sys2Proof.Machine.execFcmp c f s
  | .fclass c f => Sys2Proof.Machine.execFclass c f s
  | .fclassKey c f => Sys2Proof.Machine.execFclassKey c f s
  | .fabs c f => Sys2Proof.Machine.execFabs c f s
  | .fneg c f => Sys2Proof.Machine.execFneg c f s
  | .frnd c f => Sys2Proof.Machine.execFrnd c f s
  | .fdot2 c f => Sys2Proof.Machine.execFdot2 c f s
  | .fcvt c f => Sys2Proof.Machine.execFcvt c f s
  | .fpack c f => Sys2Proof.Machine.execFpack c f s
  | .funpk c f => Sys2Proof.Machine.execFunpk c f s
  | .fscl c f => Sys2Proof.Machine.execFscl c f s
  | .xrcp c f => Sys2Proof.Machine.execXrcp c f s
  | .xrsq c f => Sys2Proof.Machine.execXrsq c f s
  | .xsqrt c f => Sys2Proof.Machine.execXsqrt c f s
  | .xexp2 c f => Sys2Proof.Machine.execXexp2 c f s
  | .xlog2 c f => Sys2Proof.Machine.execXlog2 c f s
  | .xsin c f => Sys2Proof.Machine.execXsin c f s
  | .xcos c f => Sys2Proof.Machine.execXcos c f s
  | .xtanh c f => Sys2Proof.Machine.execXtanh c f s
  | .xsig c f => Sys2Proof.Machine.execXsig c f s
  | .lshf c f => Sys2Proof.Machine.execLshf c f s
  | .lbc c f => Sys2Proof.Machine.execLbc c f s
  | .lvoteAll c f => Sys2Proof.Machine.execLvoteAll c f s
  | .lvoteAny c f => Sys2Proof.Machine.execLvoteAny c f s
  | .lvoteUni c f => Sys2Proof.Machine.execLvoteUni c f s
  | .lvoteBal c f => Sys2Proof.Machine.execLvoteBal c f s
  | .lred c f => Sys2Proof.Machine.execLred c f s
  | .lscan c f => Sys2Proof.Machine.execLscan c f s
  | .lmatch c f => Sys2Proof.Machine.execLmatch c f s
  | .lcmpr c f => Sys2Proof.Machine.execLcmpr c f s
  | .xsend c f => Sys2Proof.Machine.execXsend c f s
  | .xrecv c f => Sys2Proof.Machine.execXrecv c f s
  | .vfromg c f => Sys2Proof.Machine.execVfromg c f s
  | .vtog c f => Sys2Proof.Machine.execVtog c f s
  | .vtogFirst c f => Sys2Proof.Machine.execVtogFirst c f s
  | .ld c f => Sys2Proof.Machine.execLd c f s
  | .st c f => Sys2Proof.Machine.execSt c f s
  | .lds c f => Sys2Proof.Machine.execLds c f s
  | .sts c f => Sys2Proof.Machine.execSts c f s
  | .ldsc c f => Sys2Proof.Machine.execLdsc c f s
  | .stsc c f => Sys2Proof.Machine.execStsc c f s
  | .lda c f => Sys2Proof.Machine.execLda c f s
  | .ldaRng c f => Sys2Proof.Machine.execLdaRng c f s
  | .stl c f => Sys2Proof.Machine.execStl c f s
  | .fence c f => Sys2Proof.Machine.execFence c f s
  | .prf c f => Sys2Proof.Machine.execPrf c f s
  | .cpy c f => Sys2Proof.Machine.execCpy c f s
  | .bseal c f => Sys2Proof.Machine.execBseal c f s
  | .bwait c f => Sys2Proof.Machine.execBwait c f s
  | .waita c f => Sys2Proof.Machine.execWaita c f s
  | .waitaSp c f => Sys2Proof.Machine.execWaitaSp c f s
  | .cinvL1 c f => Sys2Proof.Machine.execCinvL1 c f s
  | .cinvAll c f => Sys2Proof.Machine.execCinvAll c f s
  | .cwb c f => Sys2Proof.Machine.execCwb c f s
  | .nbarv c f => Sys2Proof.Machine.execNbarv c f s
  | .nbsync c f => Sys2Proof.Machine.execNbsync c f s
  | .nbwait c f => Sys2Proof.Machine.execNbwait c f s
  | .tbinit c f => Sys2Proof.Machine.execTbinit c f s
  | .tbarv c f => Sys2Proof.Machine.execTbarv c f s
  | .tbexp c f => Sys2Proof.Machine.execTbexp c f s
  | .tbwait c f => Sys2Proof.Machine.execTbwait c f s
  | .tbinv c f => Sys2Proof.Machine.execTbinv c f s
  | .cbarv c f => Sys2Proof.Machine.execCbarv c f s
  | .cbsync c f => Sys2Proof.Machine.execCbsync c f s
  | .phadv c f => Sys2Proof.Machine.execPhadv c f s
  | .phwaitNbr c f => Sys2Proof.Machine.execPhwaitNbr c f s
  | .phwaitAll c f => Sys2Proof.Machine.execPhwaitAll c f s
  | .sealv c f => Sys2Proof.Machine.execSeal c f s
  | .reuse c f => Sys2Proof.Machine.execReuse c f s
  | .drop c f => Sys2Proof.Machine.execDrop c f s
  | .rdhintFloor c f => Sys2Proof.Machine.execRdhintFloor c f s
  | .rdhintCeil c f => Sys2Proof.Machine.execRdhintCeil c f s
  | .rdhintClear c f => Sys2Proof.Machine.execRdhintClear c f s
  | .rdhintQuery c f => Sys2Proof.Machine.execRdhintQuery c f s
  | .atom c f => Sys2Proof.Machine.execAtom c f s
  | .atomf c f => Sys2Proof.Machine.execAtomf c f s
  | .cas c f => Sys2Proof.Machine.execCas c f s
  | .casXchg c f => Sys2Proof.Machine.execCasXchg c f s
  | .red c f => Sys2Proof.Machine.execRed c f s
  | .oapp c f => Sys2Proof.Machine.execOapp c f s
  | .odecl c f => Sys2Proof.Machine.execOdecl c f s
  | .skred c f => Sys2Proof.Machine.execSkred c f s
  | .skinit c f => Sys2Proof.Machine.execSkinit c f s
  | .skadd c f => Sys2Proof.Machine.execSkadd c f s
  | .skmrg c f => Sys2Proof.Machine.execSkmrg c f s
  | .skcmp c f => Sys2Proof.Machine.execSkcmp c f s
  | .skq c f => Sys2Proof.Machine.execSkq c f s
  | .skrank c f => Sys2Proof.Machine.execSkrank c f s
  | .sktop c f => Sys2Proof.Machine.execSktop c f s
  | .skdc c f => Sys2Proof.Machine.execSkdc c f s
  | .rngkSet c f => Sys2Proof.Machine.execRngkSet c f s
  | .rngkSeek c f => Sys2Proof.Machine.execRngkSeek c f s
  | .rngkRead c f => Sys2Proof.Machine.execRngkRead c f s
  | .rngv c f => Sys2Proof.Machine.execRngv c f s
  | .rngu c f => Sys2Proof.Machine.execRngu c f s
  | .sgumb c f => Sys2Proof.Machine.execSgumb c f s
  | .stopk c f => Sys2Proof.Machine.execStopk c f s
  | .mxm c f => Sys2Proof.Machine.execMxm c f s
  | .mxmt c f => Sys2Proof.Machine.execMxmt c f s
  | .mxmg c f => Sys2Proof.Machine.execMxmg c f s
  | .acld c f => Sys2Proof.Machine.execAcld c f s
  | .acst c f => Sys2Proof.Machine.execAcst c f s
  | .acz c f => Sys2Proof.Machine.execAcz c f s
  | .cbld c f => Sys2Proof.Machine.execCbld c f s
  | .qsplit c f => Sys2Proof.Machine.execQsplit c f s
  | .wrsig c f => Sys2Proof.Machine.execWrsig c f s
  | .mcst c f => Sys2Proof.Machine.execMcst c f s
  | .cpyr c f => Sys2Proof.Machine.execCpyr c f s
  | .coll c f => Sys2Proof.Machine.execColl c f s
  | .clrun c f => Sys2Proof.Machine.execClrun c f s
  | .launch c f => Sys2Proof.Machine.execLaunch c f s
  | .lqryQueue c f => Sys2Proof.Machine.execLqryQueue c f s
  | .lqrySys c f => Sys2Proof.Machine.execLqrySys c f s
  | .spapp c f => Sys2Proof.Machine.execSpapp c f s
  | .spverExact c f => Sys2Proof.Machine.execSpverExact c f s
  | .spverProb c f => Sys2Proof.Machine.execSpverProb c f s
  | .spacc c f => Sys2Proof.Machine.execSpacc c f s
  | .sprst c f => Sys2Proof.Machine.execSprst c f s
  | .moduleReset => Sys2Proof.Machine.execModuleReset s
  | .pickerIssue p => Sys2Proof.Machine.execPickerIssue p s
  | .logSlotFree cx => Sys2Proof.Machine.execLogSlotFree cx s
  | .watchdogExpiry g => Sys2Proof.Machine.execWatchdogExpiry g s
  | .sleepEnd g => Sys2Proof.Machine.execSleepEnd g s
  | .yieldEnd g => Sys2Proof.Machine.execYieldEnd g s
  | .memAccessComplete g a r => Sys2Proof.Machine.execMemAccessComplete g a r s
  | .loadFillReturn g a r => Sys2Proof.Machine.execLoadFillReturn g a r s
  | .wcBufferTimeout p n => Sys2Proof.Machine.execWcBufferTimeout p n s
  | .trackerEntryRetire p n => Sys2Proof.Machine.execTrackerEntryRetire p n s
  | .completionWordRetry cx => Sys2Proof.Machine.execCompletionWordRetry cx s
  | .blockPlace die cx core => Sys2Proof.Machine.execBlockPlace die cx core s
  | .blockStart b => Sys2Proof.Machine.execBlockStart b s
  | .clusterReserve die cx core => Sys2Proof.Machine.execClusterReserve die cx core s
  | .clusterRetry die k => Sys2Proof.Machine.execClusterRetry die k s
  | .preempt b => Sys2Proof.Machine.execPreempt b s
  | .restore b core => Sys2Proof.Machine.execRestore b core s
  | .copyPieceWrite core op n => Sys2Proof.Machine.execCopyPieceWrite core op n s
  | .copyFaultStop core op => Sys2Proof.Machine.execCopyFaultStop core op s
  | .summaryOpRun r => Sys2Proof.Machine.execSummaryOpRun r s
  | .matrixOpRun r => Sys2Proof.Machine.execMatrixOpRun r s
  | .matrixOpFault core => Sys2Proof.Machine.execMatrixOpFault core s
  | .sramSingleBitError core => Sys2Proof.Machine.execSramSingleBitError core s
  | .sramDoubleBitError site => Sys2Proof.Machine.execSramDoubleBitError site s
  | .scrubPass core => Sys2Proof.Machine.execScrubPass core s
  | .hbmCorrectedError pkg => Sys2Proof.Machine.execHbmCorrectedError pkg s
  | .hbmUncorrectableError sector => Sys2Proof.Machine.execHbmUncorrectableError sector s
  | .patrolScrub pkg => Sys2Proof.Machine.execPatrolScrub pkg s
  | .keySlotError pkg slot => Sys2Proof.Machine.execKeySlotError pkg slot s
  | .dieLinkFlitCrcFail l => Sys2Proof.Machine.execDieLinkFlitCrcFail l s
  | .dieLinkRetrainEnd pkg ok => Sys2Proof.Machine.execDieLinkRetrainEnd pkg ok s
  | .powerSample pkg watts degC => Sys2Proof.Machine.execPowerSample pkg watts degC s
  | .thermalLimit pkg => Sys2Proof.Machine.execThermalLimit pkg s
  | .ualinkPortRetrain port => Sys2Proof.Machine.execUalinkPortRetrain port s
  | .portDown port => Sys2Proof.Machine.execPortDown port s
  | .podReset => Sys2Proof.Machine.execPodReset s
  | .svcReplay q => Sys2Proof.Machine.execSvcReplay q s
  | .svcInval q => Sys2Proof.Machine.execSvcInval q s
  | .svcCtxstart q => Sys2Proof.Machine.execSvcCtxstart q s
  | .svcCtxstop q => Sys2Proof.Machine.execSvcCtxstop q s
  | .svcKeyload q => Sys2Proof.Machine.execSvcKeyload q s
  | .svcKeyclr q => Sys2Proof.Machine.execSvcKeyclr q s
  | .svcPlimit q => Sys2Proof.Machine.execSvcPlimit q s
  | .svcAttest q => Sys2Proof.Machine.execSvcAttest q s
  | .svcGrant q => Sys2Proof.Machine.execSvcGrant q s
  | .svcUnknown q => Sys2Proof.Machine.execSvcUnknown q s
  | .cxlMemAccess h => Sys2Proof.Machine.execCxlMemAccess h s
  | .cxlCacheSnoop h => Sys2Proof.Machine.execCxlCacheSnoop h s
  | .waitaWake g => Sys2Proof.Machine.execWaitaWake g s
  | .oappGrant g => Sys2Proof.Machine.execOappGrant g s
  | .orderedAtomicGrant g => Sys2Proof.Machine.execOrderedAtomicGrant g s
  | .lqExchange cx => Sys2Proof.Machine.execLqExchange cx s
  | .commitRoundStart cx => Sys2Proof.Machine.execCommitRoundStart cx s
  | .commitRoundComplete cx => Sys2Proof.Machine.execCommitRoundComplete cx s
  | .intervalEnd die => Sys2Proof.Machine.execIntervalEnd die s
  | .directoryEntryError line lost => Sys2Proof.Machine.execDirectoryEntryError line lost s
  | .msgReqs id => Sys2Proof.Machine.execMsgReqs id s
  | .msgReqx id => Sys2Proof.Machine.execMsgReqx id s
  | .msgUpg id => Sys2Proof.Machine.execMsgUpg id s
  | .msgPext id => Sys2Proof.Machine.execMsgPext id s
  | .msgEvn id => Sys2Proof.Machine.execMsgEvn id s
  | .msgEvd id => Sys2Proof.Machine.execMsgEvd id s
  | .msgSnpshr id => Sys2Proof.Machine.execMsgSnpshr id s
  | .msgSnpinv id => Sys2Proof.Machine.execMsgSnpinv id s
  | .msgSnpmask id => Sys2Proof.Machine.execMsgSnpmask id s
  | .msgSnpmerge id => Sys2Proof.Machine.execMsgSnpmerge id s
  | .msgInv id => Sys2Proof.Machine.execMsgInv id s
  | .msgAck id => Sys2Proof.Machine.execMsgAck id s
  | .msgAckd id => Sys2Proof.Machine.execMsgAckd id s
  | .msgDatas id vic => Sys2Proof.Machine.execMsgDatas id vic s
  | .msgDatasn id => Sys2Proof.Machine.execMsgDatasn id s
  | .msgDatae id vic => Sys2Proof.Machine.execMsgDatae id vic s
  | .msgDatap id vic => Sys2Proof.Machine.execMsgDatap id vic s
  | .msgEvack id => Sys2Proof.Machine.execMsgEvack id s
  | .msgAtomf id => Sys2Proof.Machine.execMsgAtomf id s
  | .msgAtomr id => Sys2Proof.Machine.execMsgAtomr id s
  | .msgRdu id => Sys2Proof.Machine.execMsgRdu id s
  | .msgRdur id => Sys2Proof.Machine.execMsgRdur id s
  | .msgWru id => Sys2Proof.Machine.execMsgWru id s
  | .msgWrua id => Sys2Proof.Machine.execMsgWrua id s
  | .msgPut id => Sys2Proof.Machine.execMsgPut id s
  | .msgPuta id => Sys2Proof.Machine.execMsgPuta id s
  | .msgSig id => Sys2Proof.Machine.execMsgSig id s
  | .msgMcd id => Sys2Proof.Machine.execMsgMcd id s
  | .msgRdc id => Sys2Proof.Machine.execMsgRdc id s
  | .msgRdr id => Sys2Proof.Machine.execMsgRdr id s
  | .reductionDeadline setid chunk => Sys2Proof.Machine.execReductionDeadline setid chunk s
  | .msgRsv id => Sys2Proof.Machine.execMsgRsv id s
  | .msgGnt id => Sys2Proof.Machine.execMsgGnt id s
  | .grantWithdraw id => Sys2Proof.Machine.execGrantWithdraw id s
  | .msgNak id => Sys2Proof.Machine.execMsgNak id s
  | .nakBackoffExpiry sk => Sys2Proof.Machine.execNakBackoffExpiry sk s
  | .fabricAck id => Sys2Proof.Machine.execFabricAck id s
  | .reservedMessageDrop id => Sys2Proof.Machine.execReservedMessageDrop id s
  | .chamoisOpStart die ch => Sys2Proof.Machine.execChamoisOpStart die ch s
  | .clSend die ch => Sys2Proof.Machine.execClSend die ch s
  | .clRecv die ch => Sys2Proof.Machine.execClRecv die ch s
  | .clReduce die ch => Sys2Proof.Machine.execClReduce die ch s
  | .clCopy die ch => Sys2Proof.Machine.execClCopy die ch s
  | .clMcast die ch => Sys2Proof.Machine.execClMcast die ch s
  | .clWaitb die ch => Sys2Proof.Machine.execClWaitb die ch s
  | .clSignal die ch => Sys2Proof.Machine.execClSignal die ch s
  | .clArrive die ch => Sys2Proof.Machine.execClArrive die ch s
  | .clLoop die ch => Sys2Proof.Machine.execClLoop die ch s
  | .clEndloop die ch => Sys2Proof.Machine.execClEndloop die ch s
  | .clRange die ch => Sys2Proof.Machine.execClRange die ch s
  | .clEnd die ch => Sys2Proof.Machine.execClEnd die ch s
  | .ualinkPortRetrainEnd port => Sys2Proof.Machine.execUalinkPortRetrainEnd port s
  | .linkLevelReplay port => Sys2Proof.Machine.execLinkLevelReplay port s
  | .completionPoint g n => Sys2Proof.Machine.execCompletionPoint g n s
  | .copyEngineOpStart core => Sys2Proof.Machine.execCopyEngineOpStart core s
  | .fallbackWatchdogLimit die ch => Sys2Proof.Machine.execFallbackWatchdogLimit die ch s
  | .ultraEthernetDelivery q => Sys2Proof.Machine.execUltraEthernetDelivery q s
  | .spdmSecureSessionMessage pkg session handle key => Sys2Proof.Machine.execSpdmSecureSessionMessage pkg session handle key s
  | .nonWindowRequestDrop pkg => Sys2Proof.Machine.execNonWindowRequestDrop pkg s

end Sys2Proof.Machine
end

