-- ==== Sys2Proof/Machine/Issue.lean ====
section
/-!
DEFINITION. What the next step of the machine is: the issue of a chosen group (one word, or a chain or prefix pair, R24, R53,
R55, R67), an occurrence from outside, or the machine's own next happening. Also the placement of one word to run (log 30).
-/
namespace Sys2Proof.Machine

/-- The next thing that a step does. -/
inductive Move where
  /-- nothing is executed: this is the next state -/
  | still (t : State)
  | one (i : Instr) (t : State)
  | pair (i j : Instr) (t : State)
  /-- no group has the turn and nothing comes from outside -/
  | auto
  deriving DecidableEq, Repr

/-- Both words of a pair run with faults only noted (R24). -/
def probing (t : State) : State := { t with probe := { on := true } }

/-- The state in which the second word of a pair runs: behind a first word that faulted it stands at its own address all the same, so that
every fault of either word is found (R29, R64). -/
def secondWord (t u : State) : State :=
  if u.probe.raised.isSome then u.modGrp t.cur (fun g => { g with pc := (t.grp t.cur).pc + 8 }) else u

/-- The end of a pair: a fault of either word leaves neither with an effect, and stands at the first word (R24, R29, R53). -/
def endPair (t u : State) : State :=
  match u.probe.raised with
  | some f =>
    let t := match u.probe.partner with
      | some p => faultPartner t p.1 p.2
      | none => t
    deliver t t.cur f
  | none =>
    -- the register writes of a chain of which a word waits stand or fall with that word (R24)
    let u := if (u.grp t.cur).hold.isSome then u.modGrp t.cur (fun g => { g with chain := some ((t.grp t.cur).pc, t.nextId) }) else u
    { u with probe := {} }

/-- The move of a group whose turn it is. -/
def issueMove (t : State) (g : Nat) : Move :=
  let t := fetchPacket { t with cur := g, probe := {} } g
  match planOf t g with
  | .fault f _ => .still (deliver t g f)
  | .one i => .one i t
  | .pair i j => .pair i j t

/-- The move of the next step: a group's turn, then an occurrence from outside, then the machine's own choice. -/
def nextMove (s : State) : Move :=
  match s.turn with
  | g :: rest => issueMove { s with turn := rest } g
  | [] => match s.inputs with
    | e :: rest => .one e { s with inputs := rest }
    | [] => .auto

/-! ## Placing one word (log 30) -/

/-- The number of the block and the group that run a placed word. -/
def placedBlock : Nat := 1
def placedGroup : Nat := gkey placedBlock 0
/-- Where its code lies, and its three page tables. -/
def placedCode : Nat := 0x2000000
def placedRoot : Nat := 0x1000000

/-- Put a context with an identity map of its first 8 GiB, a block of one group on core 0, and the word at its PC, and give the
group the turn. -/
def placeWord (s : State) (w : Nat) : State :=
  let mem := cwrite s.mem placedRoot (toBytes 8 (placedRoot + 0x1000 + 1))
  let mem := cwrite mem (placedRoot + 0x1000) (toBytes 8 (placedRoot + 0x2000 + 1))
  let mem := cwrite mem (placedRoot + 0x2000) (toBytes 8 0x10F)
  let mem := cwrite mem placedCode (toBytes 8 w)
  { s with
    mem := mem
    ctxs := mput s.ctxs 0 { s.ctx 0 with root := placedRoot, grants := mput (s.ctx 0).grants 0 (0, 2 ^ 33) }
    kernels := mput s.kernels placedBlock { groups := 1, next := 1 }
    blocks := mput s.blocks placedBlock { kernel := placedBlock, cores := [0], stage := .running, local' := [(0, {})] }
    groups := mput s.groups placedGroup { block := placedBlock, stop := .running, pc := BitVec.ofNat 64 placedCode }
    nextId := max s.nextId 2
    turn := placedGroup :: s.turn }

end Sys2Proof.Machine
end

