-- ==== Sys2Proof/Machine/Step.lean ====
section
/-!
DEFINITION. One step of the machine: the move that Issue.lean chooses, executed; and the placement of one instruction word.
-/
namespace Sys2Proof.Machine
open Host (Outcome)

/-- One step. -/
def step (s : State) : Outcome State Fault Refusal :=
  match nextMove s with
  | .still t => .next t
  | .auto => autoStep s
  | .one i t => exec i t
  | .pair i j t =>
    match exec i (probing t) with
    | .next u => match exec j (secondWord t u) with
      | .next v => .next (endPair t v)
      | .fault r => .fault r
      | .refused r => .refused r
    | .fault r => .fault r
    | .refused r => .refused r

/-- The state with one instruction word placed where the next step fetches it (log 30). -/
def State.withFetchWord (s : State) (_nbits w : Nat) : State := placeWord s w

end Sys2Proof.Machine
end

