-- ==== Sys2Proof/Safety.lean ====
section
/-!
DEFINITION. Safe steps and runs of the machine: those that meet neither a fault nor a refusal of the model.
-/
namespace Sys2Proof.Machine

/-- The step from this state gives a next state. -/
def Safe (s : State) : Prop := ∃ t, step s = .next t

/-- One state follows another. -/
def Steps (s t : State) : Prop := step s = .next t

/-- A state that some number of steps reaches. -/
inductive Reaches : State → State → Prop where
  | refl (s : State) : Reaches s s
  | tail {s t u : State} (h : Reaches s t) (h' : Steps t u) : Reaches s u

end Sys2Proof.Machine
end

