-- ==== Sys2Proof/WellFormed.lean ====
section
/-!
DEFINITION. Well-formed instructions: those whose fields the spec's encoding rules accept (R57, R61 to R68). An event, a
message or a service is no instruction word, so it is not well-formed as one.
-/
namespace Sys2Proof

/-- The instruction has a word that decodes: no check of its encoding rejects it. -/
abbrev WellFormed (i : Instr) : Prop := encodingError i = none

end Sys2Proof
end

