-- ==== Sys2Proof/Certificates/Slice0/Obligations.lean ====
section
/-!
DEFINITION. The statements for the provers, with the tables and formulas of the spec that they are written in. The formulas are
written from the rules over bit vectors and integers, and do not use the model's own arithmetic.
-/

section

open Sys2Proof Sys2Proof.Machine
open Host (Outcome)

/-! ## Conditions under which an instruction acts -/

/-- A control or A-class instruction acts: its q-guard is true (R61), and neither the guard nor a source register is poisoned (R153). -/
structure Sys2Proof.Claims.Acts (g : Group) (gd : BitVec 4) (srcs : List Nat) : Prop where
  guard : g.qGuard gd = true
  clean : 256 + gd.toNat % 8 ∉ g.badP
  srcs : ∀ r ∈ srcs, r ∉ g.badG

/-- The state in which an issued transfer or issue-stopping instruction leaves the group at another address, where it receives its packet anew. -/
def Sys2Proof.Claims.goto (s : State) (target : W64) : State := s.modMe (fun g => { g with pc := target, packet := none })

/-- The state in which the group is held by the instruction that stands at `pc`: besides the first word of its chain, where that holds it. -/
def Sys2Proof.Claims.held (s : State) (pc : W64) (setk : Nat) (since : Nat) (k : HoldKind) : State :=
  s.modMe (fun g => if g.hold.isNone then { g with hold := some ⟨k, since, pc, setk⟩ } else { g with hold2 := some ⟨k, since, pc, setk⟩ })

/-- The two's complement or unsigned reading of an operand (R89, R113). -/
def Sys2Proof.Claims.num {w : Nat} (signed : Bool) (x : BitVec w) : Int := if signed then x.toInt else x.toNat

/-- The writes of a 64-bit value to the pair gN.d: the low half to gN, the high half to gN+1 (R11). -/
def Sys2Proof.Claims.pairG (n : Nat) (x : W64) : List RegWr := [.g n (x.extractLsb' 0 32) false, .g (n + 1) (x.extractLsb' 32 32) false]

open Sys2Proof.Claims

/-! ## Group-register arithmetic (R87 to R92) -/

/-- What R88 and R89 say of an ALU instruction: its fields, whether it reads b, whether its result is 32 bits whatever W, its latency
(none: variable), and its result d from the width, S, a and b. -/
structure Sys2Proof.Claims.Alu where
  c : Ctl
  f : FmtS3
  readsB : Bool
  narrow : Bool
  lat : Option Nat
  d : (w : Nat) → Bool → BitVec w → BitVec w → BitVec w

/-- The operations of R89. -/
def Sys2Proof.Claims.aluOf : Instr → Option Alu
  | .gmov c f => some ⟨c, f, false, false, some 2, fun _ _ a _ => a⟩
  | .gadd c f => some ⟨c, f, true, false, some 2, fun _ _ a b => a + b⟩
  | .gsub c f => some ⟨c, f, true, false, some 2, fun _ _ a b => a - b⟩
  | .gmul c f => some ⟨c, f, true, false, some 2, fun _ _ a b => a * b⟩
  | .gmulh c f => some ⟨c, f, true, false, some 2, fun w sg a b => BitVec.ofInt w (num sg a * num sg b / (2 ^ w : Nat))⟩
  | .gdiv c f => some ⟨c, f, true, false, none, fun w sg a b =>
      if b = 0 then BitVec.allOnes w else if sg && a.toInt == -(2 ^ (w - 1) : Nat) && b.toInt == -1 then a
      else BitVec.ofInt w ((num sg a).tdiv (num sg b))⟩
  | .grem c f => some ⟨c, f, true, false, none, fun w sg a b =>
      if b = 0 then a else if sg && a.toInt == -(2 ^ (w - 1) : Nat) && b.toInt == -1 then 0
      else BitVec.ofInt w (num sg a - num sg b * (num sg a).tdiv (num sg b))⟩
  | .gand c f => some ⟨c, f, true, false, some 2, fun _ _ a b => a &&& b⟩
  | .gor c f => some ⟨c, f, true, false, some 2, fun _ _ a b => a ||| b⟩
  | .gxor c f => some ⟨c, f, true, false, some 2, fun _ _ a b => a ^^^ b⟩
  | .gnot c f => some ⟨c, f, false, false, some 2, fun _ _ a _ => ~~~a⟩
  | .gshl c f => some ⟨c, f, true, false, some 2, fun w _ a b => a <<< (b.toNat % w)⟩
  | .gshr c f => some ⟨c, f, true, false, some 2, fun w _ a b => a >>> (b.toNat % w)⟩
  | .gsar c f => some ⟨c, f, true, false, some 2, fun w _ a b => a.sshiftRight (b.toNat % w)⟩
  | .grot c f => some ⟨c, f, true, false, some 2, fun w _ a b => (a ++ a).extractLsb' (w - b.toNat % w) w⟩
  | .gmin c f => some ⟨c, f, true, false, some 2, fun _ sg a b => if num sg a ≤ num sg b then a else b⟩
  | .gmax c f => some ⟨c, f, true, false, some 2, fun _ sg a b => if num sg a ≥ num sg b then a else b⟩
  | .gpopc c f => some ⟨c, f, false, true, some 2, fun w _ a _ => BitVec.ofNat w ((List.range w).countP (fun i => a.getLsbD i))⟩
  | .gclz c f => some ⟨c, f, false, true, some 2, fun w _ a _ => BitVec.ofNat w ((List.range w).countP (fun i => a >>> i == 0))⟩
  | _ => none

/-- gA (gA.d if W). -/
def Sys2Proof.Claims.opA (g : Group) (f : FmtS3) : (w : Nat) → BitVec w := fun w => if f.w then (g.rgd f.a.toNat).setWidth w else (g.rg f.a.toNat).setWidth w
/-- The sign-extended imm8 if I, else gB (gB.d if W). -/
def Sys2Proof.Claims.opB (g : Group) (f : FmtS3) : (w : Nat) → BitVec w := fun w =>
  if f.i then f.b.signExtend w else if f.w then (g.rgd f.b.toNat).setWidth w else (g.rg f.b.toNat).setWidth w
/-- The registers read: gA and, unless it is an immediate or not read, gB; both halves of a pair. -/
def Sys2Proof.Claims.aluSources (f : FmtS3) (readsB : Bool) : List Nat :=
  let reg := fun (r : BitVec 8) => if f.w then [r.toNat, r.toNat + 1] else [r.toNat]
  reg f.a ++ (if readsB && !f.i then reg f.b else [])

/-- R89: each of the nineteen ALU instructions completes with d in gD (gD.d if W), at its latency, and does nothing else: the next
state is the issue of that one write. No word decodes to one with W whose gD, gA or gB is odd, of those that are pairs. -/
def Obligations.GroupAluWritesResult : Prop :=
  (∀ (s : State) (i : Instr) (r : Alu), aluOf i = some r → Acts s.me r.f.gd (aluSources r.f r.readsB) →
    exec i s = .next (s.issue r.c (r.lat.map (s.clock + ·))
      (if r.f.w then
        (if r.narrow then [.g r.f.d.toNat ((r.d 64 r.f.s (opA s.me r.f 64) (opB s.me r.f 64)).setWidth 32) false]
         else pairG r.f.d.toNat (r.d 64 r.f.s (opA s.me r.f 64) (opB s.me r.f 64)))
       else [.g r.f.d.toNat (r.d 32 r.f.s (opA s.me r.f 32) (opB s.me r.f 32)) false]))) ∧
  ∀ (i : Instr) (r : Alu) (w : W64), aluOf i = some r → r.f.w = true →
    (r.f.a.toNat % 2 = 1 ∨ (r.narrow = false ∧ r.f.d.toNat % 2 = 1) ∨ (r.readsB = true ∧ r.f.i = false ∧ r.f.b.toNat % 2 = 1)) → decode w ≠ .ok i

/-- The bit field of R92: pos and len from gB, cut at the width. -/
def Sys2Proof.Claims.fieldLen (w : Nat) (ctl : W32) : Nat := min (ctl.extractLsb' 8 8).toNat (w - (ctl.extractLsb' 0 8).toNat)
/-- A w-bit mask of the field. -/
def Sys2Proof.Claims.fieldMask (w : Nat) (ctl : W32) : BitVec w := BitVec.ofNat w (2 ^ fieldLen w ctl - 1) <<< (ctl.extractLsb' 0 8).toNat
/-- GBFX and VBFX. -/
def Sys2Proof.Claims.extractField {w : Nat} (sg : Bool) (a : BitVec w) (ctl : W32) : BitVec w :=
  let pos := (ctl.extractLsb' 0 8).toNat
  if pos ≥ w ∨ ctl.extractLsb' 8 8 = 0 then 0
  else if sg then (a.extractLsb' pos (fieldLen w ctl)).signExtend w else (a.extractLsb' pos (fieldLen w ctl)).setWidth w
/-- GBFI and VBFI. -/
def Sys2Proof.Claims.insertField {w : Nat} (d a : BitVec w) (ctl : W32) : BitVec w :=
  if (ctl.extractLsb' 0 8).toNat ≥ w ∨ ctl.extractLsb' 8 8 = 0 then d
  else (d &&& ~~~fieldMask w ctl) ||| ((a <<< (ctl.extractLsb' 0 8).toNat) &&& fieldMask w ctl)

/-- R90 to R92: GMOVI, GMOVH, GLEA, GBFX and GBFI complete with the value the rule gives, after 2 cycles. -/
def Obligations.GroupConstantsAddressesAndFields : Prop :=
  ∀ (s : State) (c : Ctl),
    (∀ f : FmtSI, Acts s.me f.gd [] → exec (.gmovi c f) s = .next (s.fixed c 2 [.g f.d.toNat (f.imm.signExtend 32) false])) ∧
    (∀ f : FmtSI, Acts s.me f.gd [f.d.toNat] →
      exec (.gmovh c f) s = .next (s.fixed c 2 [.g f.d.toNat (f.imm ++ (s.me.rg f.d.toNat).extractLsb' 0 16) false])) ∧
    (∀ f : FmtS3, Acts s.me f.gd ([f.a.toNat, f.a.toNat + 1] ++ (if f.i then [] else [f.b.toNat])) →
      exec (.glea c f) s = .next (s.fixed c 2 (pairG f.d.toNat
        (s.me.rgd f.a.toNat + ((let b : W32 := if f.i then f.b.signExtend 32 else s.me.rg f.b.toNat
          if f.s then b.signExtend 64 else b.setWidth 64) <<< (f.fn.extractLsb' 0 3).toNat))))) ∧
    (∀ f : FmtS3, f.i = false → Acts s.me f.gd (aluSources f true) →
      exec (.gbfx c f) s = .next (s.fixed c 2 (if f.w then pairG f.d.toNat (extractField f.s (s.me.rgd f.a.toNat) (s.me.rg f.b.toNat))
        else [.g f.d.toNat (extractField f.s (s.me.rg f.a.toNat) (s.me.rg f.b.toNat)) false]))) ∧
    (∀ f : FmtS3, f.i = false → Acts s.me f.gd (aluSources f true ++ (if f.w then [f.d.toNat, f.d.toNat + 1] else [f.d.toNat])) →
      exec (.gbfi c f) s = .next (s.fixed c 2
        (if f.w then pairG f.d.toNat (insertField (s.me.rgd f.d.toNat) (s.me.rgd f.a.toNat) (s.me.rg f.b.toNat))
         else [.g f.d.toNat (insertField (s.me.rg f.d.toNat) (s.me.rg f.a.toNat) (s.me.rg f.b.toNat)) false])))

/-- The six conditions of R93. -/
def Sys2Proof.Claims.condition (cc : Nat) (a b : Int) : Bool :=
  match cc with
  | 0 => a == b
  | 1 => a != b
  | 2 => a < b
  | 3 => a ≤ b
  | 4 => a > b
  | _ => a ≥ b

/-- R93, R94: GCMP writes the truth of its condition, GSEL selects on a predicate after negation, QOP writes lut[2 qA + qB]. -/
def Obligations.GroupPredicates : Prop :=
  ∀ (s : State) (c : Ctl) (f : FmtS3),
    (Acts s.me f.gd (aluSources f true) → f.sub % 8 ≤ 5 →
      exec (.gcmp c f) s = .next (s.fixed c 2 [.q f.d.toNat (if f.w
        then condition (f.sub % 8) (num f.s (opA s.me f 64)) (num f.s (opB s.me f 64))
        else condition (f.sub % 8) (num f.s (opA s.me f 32)) (num f.s (opB s.me f 32)))])) ∧
    (Acts s.me f.gd (aluSources f true) → 256 + f.sub % 8 ∉ s.me.badP →
      exec (.gsel c f) s = .next (s.fixed c 2
        (let take : Bool := s.me.rq (f.sub % 8) ^^ f.fn.getLsbD 3
         if f.w then pairG f.d.toNat (if take then opA s.me f 64 else opB s.me f 64)
         else [.g f.d.toNat (if take then opA s.me f 32 else opB s.me f 32) false]))) ∧
    (Acts s.me f.gd [] → 256 + f.a.toNat ∉ s.me.badP → 256 + f.b.toNat ∉ s.me.badP →
      exec (.qop c f) s = .next (s.fixed c 2
        [.q f.d.toNat (f.fn.getLsbD (2 * (s.me.rq f.a.toNat).toNat + (s.me.rq f.b.toNat).toNat))]))

/-! ## Special registers and FMT (R13 to R15, R95 to R97) -/

/-- The 32-bit special registers of R13 and R343: number and value. STEP of CAP.REV is a value the spec does not fix (log 2). -/
def Sys2Proof.Claims.special32 (s : State) : List (Nat × Nat) :=
  let g := s.me
  let b := s.blk (s.cur / 512)
  let core := s.coreOf s.cur
  let p := s.pkg (core / 128)
  [(0x00, g.am.toNat), (0x01, g.idx % 512 + 512 * (g.slot % 16) + 8192 * (g.part % 8)), (0x02, b.x), (0x03, b.y), (0x04, b.z),
   (0x05, match b.cluster with
     | none => b.lin
     | some k => if b.cores.length > 1 then b.lin else b.lin / (s.clu k).cores.length),
   (0x06, core % 64), (0x07, core / 64 % 2), (0x08, core / 128 % 128 + 128 * (s.podIndex % 2048)),
   (0x0A, ((lanes.map g.stat).foldl (· ||| ·) 0).toNat), (0x0B, g.fstat.toNat),
   (0x0D, if s.isDet s.cur then g.quantum else 0),
   (0x80, 1 + 256 * Config.revStep.toNat), (0x81, 64 + 256 * 2 + 65536 * 8 + 16777216 * 16), (0x82, 768 + 65536 * 192),
   (0x83, 64 + 256 * 32 + 65536 * 8), (0x84, 1300 + 65536 * p.mhz), (0x85, p.plimit + 65536 * p.hdrm),
   (0x86, 36 + 256 * 16 + 65536 * (s.packages - 1)), (0x88, (s.ctxOf s.cur).wdog), (0x89, 128), (0x8A, g.ctx % 64)]

/-- R13, R14, R95 to R97: SREAD returns the register's value at issue, SWRITE clears at its completion the bits written as 1 of sr.astat in
every lane and sr.fstat with bit 6, GETFMT copies FMT and SETFMT replaces it under its mask unless the new RM is 0 or 7. -/
def Obligations.SpecialRegistersAndFormat : Prop :=
  ∀ (s : State) (c : Ctl) (f : FmtS3),
    (Acts s.me f.gd [] → ∀ n v, (n, v) ∈ special32 s → f.b.toNat = n →
      exec (.sread c f) s = .next (s.fixed c 2 [.g f.d.toNat (BitVec.ofNat 32 v) false])) ∧
    (Acts s.me f.gd [] → ∀ v : W64, ((f.b = 0x09 ∧ v = BitVec.ofNat 64 (s.clock - (s.pkg (s.coreOf s.cur / 128)).resetAt)) ∨
        (f.b = 0x0C ∧ v = s.me.fpc) ∨ (f.b = 0x0E ∧ v = s.me.rdcnt) ∨
        (f.b = 0x87 ∧ v = BitVec.ofNat 64 (s.core (s.coreOf s.cur)).ce)) →
      exec (.sread c f) s = .next (s.fixed c 2 (pairG f.d.toNat v))) ∧
    (Acts s.me f.gd [f.a.toNat] → f.b = 0x0A →
      exec (.swrite c f) s = .next (s.fixed c 2 [.statClear ((s.me.rg f.a.toNat).extractLsb' 0 8)])) ∧
    (∀ (g : Group) (m : Byte) (l : Nat), l < 32 → (g.apply1 (.statClear m)).stat l = g.stat l &&& ~~~m) ∧
    (∀ (g : Group) (x : Byte) (t : Bool) (l k : Nat), (g.apply1 (.stat l x t)).stat k = (if k = l then g.stat l ||| x else g.stat k) ∧
      (g.apply1 (.stat l x t)).trap = (if t ∧ x ≠ 0 then g.trap ||| (1#32 <<< l) else g.trap)) ∧
    (Acts s.me f.gd [f.a.toNat] → f.b = 0x0B →
      exec (.swrite c f) s = .next (s.fixed c 2 (if (s.me.rg f.a.toNat).getLsbD 6 then [.fstat 0] else []))) ∧
    (Acts s.me f.gd [f.a.toNat] → f.b ≠ 0x0A → f.b ≠ 0x0B → exec (.swrite c f) s = .next (s.fixed c 2 [])) ∧
    (Acts s.me f.gd [] → exec (.getfmt c f) s = .next (s.fixed c 2 [.g f.d.toNat s.me.fmt false])) ∧
    (Acts s.me f.gd (f.a.toNat :: (if f.i then [] else [f.b.toNat])) →
      ∀ n : W32, n = (let b : W32 := if f.i then f.b.signExtend 32 else s.me.rg f.b.toNat
        (s.me.fmt &&& ~~~b) ||| (s.me.rg f.a.toNat &&& b)) →
      exec (.setfmt c f) s = if n.extractLsb' 0 3 = 0 ∨ n.extractLsb' 0 3 = 7 then .next (raise s (fi 0x01))
        else .next (s.fixed c 2 [.fmt (n &&& 0x0FFFFFFF)]))

/-! ## Transfers (R98 to R103, R17 to R22) -/

/-- R98 to R100: BRA, CALL, BRX and RET go to their target; CALL links to its own address + 8; a computed target that is not a word
address raises MISALIGNED at the transfer. -/
def Obligations.UniformTransfers : Prop :=
  ∀ (s : State) (c : Ctl),
    (∀ f : FmtBR, Acts s.me f.gd [] →
      exec (.bra c f) s = .next (goto (s.transfer c []) (s.me.pc + 8 * f.off.signExtend 64)) ∧
      exec (.call c f) s = .next (goto (s.transfer c (pairG f.fn.toNat (s.me.pc + 8))) (s.me.pc + 8 * f.off.signExtend 64))) ∧
    (∀ f : FmtS3, Acts s.me f.gd ([f.a.toNat, f.a.toNat + 1] ++ (if f.i then [] else [f.b.toNat])) →
      ∀ t : W64, t = s.me.rgd f.a.toNat + 8 * (if f.i then f.b.signExtend 64 else (s.me.rg f.b.toNat).signExtend 64) →
      exec (.brx c f) s = if t &&& 7 = 0 then .next (goto (s.transfer c []) t) else .next (raise s (fi 0x03))) ∧
    (∀ f : FmtS3, Acts s.me f.gd [f.a.toNat, f.a.toNat + 1] →
      exec (.ret c f) s = if s.me.rgd f.a.toNat &&& 7 = 0 then .next (goto (s.transfer c []) (s.me.rgd f.a.toNat))
        else .next (raise s (fi 0x03)))

/-- The lane predicate of VB after negation, as a mask. -/
def Sys2Proof.Claims.predMask (g : Group) (gd : BitVec 4) : W32 :=
  if gd.getLsbD 3 then ~~~g.pm (gd.toNat % 8) else g.pm (gd.toNat % 8)
/-- No running lane reads a poisoned predicate there. -/
def Sys2Proof.Claims.predClean (g : Group) (gd : BitVec 4) : Prop :=
  ∀ l, l < 32 → (g.am &&& ~~~g.xm).getLsbD l = true → 32 * (gd.toNat % 8) + l ∉ g.badP

/-- R18 to R20, R101: VBR splits the running lanes; both sides not empty pushes the pending path, adds one to their nesting counters and
goes on with the fall-through lanes; otherwise nothing is pushed. Lanes whose counter stands at 255 where a push would take place leave
first, with DD and trap-pending. A push with the hardware stack full and no spill slot raises STACK_SPILL. -/
def Obligations.DivergentBranchSplitsLanes : Prop :=
  ∀ (s : State) (c : Ctl) (f : FmtVB) (deep : W32),
    let g := s.me
    let m0 := g.am &&& ~~~g.xm
    let pred := predMask g f.gd
    let m := m0 &&& ~~~deep
    let t := m &&& pred
    let n := m &&& ~~~t
    let target := g.pc + 8 * f.toff.signExtend 64
    let rpc := g.pc + 8 * f.roff.signExtend 64
    predClean g f.gd →
    (∀ l, l < 32 → deep.getLsbD l = (m0.getLsbD l && mget g.nest 0 l == 255 && m0 &&& pred != 0 && m0 &&& ~~~pred != 0)) →
    (t ≠ 0 → n ≠ 0 → g.stack.length - g.sc ≥ 8 → g.sc ≥ (s.kernelOf s.cur).spd → exec (.vbr c f) s = .next (raise s (fi 0x09))) ∧
    (t = 0 ∨ n = 0 ∨ g.stack.length - g.sc < 8 ∨ g.sc < (s.kernelOf s.cur).spd →
      ∃ u, exec (.vbr c f) s = .next u ∧
        (∀ h, h ≠ s.cur → u.grp h = s.grp h) ∧ u.mem = s.mem ∧
        (∀ l, l < 32 → mget u.me.astat 0 l = if deep.getLsbD l then g.stat l ||| 0x40 else g.stat l) ∧
        (∀ l, l < 32 → mget u.me.nest 0 l = mget g.nest 0 l + (if t ≠ 0 ∧ n ≠ 0 ∧ m.getLsbD l then 1 else 0)) ∧
        u.me = { (s.transfer c []).me with
          am := if t = 0 then n else if n = 0 then t else n
          pc := if t ≠ 0 ∧ n = 0 then target else g.pc + 8
          packet := none
          xm := g.xm ||| deep
          trap := g.trap ||| deep
          ddp := g.ddp ||| deep
          stack := if t ≠ 0 ∧ n ≠ 0 then ⟨target, rpc, t, 0, g.fmt, false⟩ :: g.stack else g.stack
          sc := if t ≠ 0 ∧ n ≠ 0 ∧ g.stack.length - g.sc ≥ 8 then g.sc + 1 else g.sc
          nest := u.me.nest
          astat := u.me.astat })

/-- R22, R102, R103: VBRK parks the lanes that take part at the newest entry with its RPC, and takes from their nesting counters the
number of entries above it; with no such entry it raises ILLEGAL_ENCODING. VEXIT exits the lanes that take part. -/
def Obligations.BreakAndExitLanes : Prop :=
  ∀ (s : State) (c : Ctl),
    (∀ f : FmtVB, predClean s.me f.gd →
      let g := s.me
      let rpc := g.pc + 8 * f.toff.signExtend 64
      let out := (g.am &&& ~~~g.xm) &&& predMask g f.gd
      ((∀ e ∈ g.stack, e.rpc ≠ rpc) → exec (.vbrk c f) s = .next (raise s (fi 0x01))) ∧
      (∀ d e, g.stack[d]? = some e → e.rpc = rpc → (∀ j x, j < d → g.stack[j]? = some x → x.rpc ≠ rpc) →
        ∃ u, exec (.vbrk c f) s = .next u ∧
          (∀ l, l < 32 → mget u.me.nest 0 l = mget g.nest 0 l - (if out.getLsbD l then d else 0)) ∧
          u = (s.transfer c []).modMe (fun x => { x with
            pc := g.pc + 8, packet := none, am := g.am &&& ~~~out, stack := g.stack.set d { e with brk := e.brk ||| out }, nest := u.me.nest }))) ∧
    (∀ f : FmtS3, Acts s.me f.gd [] → predClean s.me (f.fn.extractLsb' 0 4) →
      exec (.vexit c f) s = .next ((s.transfer c []).modMe (fun x => { x with
        pc := s.me.pc + 8, packet := none, xm := s.me.xm ||| ((s.me.am &&& ~~~s.me.xm) &&& predMask s.me (f.fn.extractLsb' 0 4)) })))

/-! ## Waiting and ending (R69, R104 to R109) -/

/-- R69, R67, R104 to R106: NOP and SLEEP 0 only issue; PFX keeps what it says for its bound word; WAITK, YIELD and SLEEP issue and
then hold the group: until the counter is at the threshold, until the other groups that the picker of the partition found eligible in this
cycle have issued or 64 cycles have passed, for IMM16 cycles. -/
def Obligations.WaitingInstructionsHoldTheGroup : Prop :=
  ∀ (s : State) (c : Ctl),
    (∀ f, exec (.nop c f) s = .next (s.idle c)) ∧
    (∀ f, exec (.pfx c f) s = .next (s.modMe (fun g => { g.issued s.clock 0 with pfx := some f }))) ∧
    (∀ f : FmtS3, Acts s.me f.gd (if f.i then [] else [f.b.toNat]) →
      exec (.waitk c f) s = .next (held (s.transfer c []) s.me.pc 0 s.clock (.waitk (f.fn.toNat % 16)
        (if f.i then (f.b.signExtend 32).toNat else (s.me.rg f.b.toNat).toNat)))) ∧
    (∀ f : FmtS3, Acts s.me f.gd [] → ∃ others, exec (.yield c f) s = .next (held (s.transfer c []) s.me.pc 0 s.clock (.yield others (s.clock + 64))) ∧
      ∀ h, h ∈ others ↔ (h ∈ (s.part s.me.part).el ∧ h ≠ s.cur)) ∧
    (∀ f : FmtSI, Acts s.me f.gd [] → exec (.sleep c f) s = if f.imm = 0 then .next (s.idle c)
      else .next (held (s.transfer c []) s.me.pc 0 s.clock (.sleep (s.clock + f.imm.toNat + 1))))

/-- R25, R107, R108: EXIT and TAIL are report points. With a trap-pending bit they raise DIV_DEPTH when a removed lane is pending and
ARITH otherwise, with the mask of pending lanes; with none they issue, the group's write-combining buffers drain (R162), and the group is
held until it has drained (EXIT) or a tracker entry is free (TAIL). TRAP and BKPT raise their faults, and with a false guard do not (R109). -/
def Obligations.EndingReportsAndTraps : Prop :=
  ∀ (s : State) (c : Ctl),
    (∀ f : FmtS3, Acts s.me f.gd [] → s.me.trap ≠ 0 →
      let r : FaultInfo := ⟨if s.me.ddp = 0 then 0x0A else 0x08, 0, 0, s.me.trap, 0⟩
      exec (.exit c f) s = .next (raise s r) ∧ exec (.tail c f) s = .next (raise s r)) ∧
    (∀ f : FmtS3, Acts s.me f.gd [] → s.me.trap = 0 →
      let p := wcDrainGroup (s.modMe (fun g => { g with hadHandler := g.inHandler, inHandler := false })) s.cur
      exec (.exit c f) s = .next (held (p.transfer c []) s.me.pc 0 s.clock .exiting) ∧
      exec (.tail c f) s = .next (held (p.transfer c []) s.me.pc 0 s.clock .tailWait)) ∧
    (∀ f : FmtSI, Acts s.me f.gd [] → exec (.trap c f) s = .next (raise s ⟨0x18, 0, 0, 0, f.imm.toNat⟩)) ∧
    (∀ f : FmtS3, Acts s.me f.gd [] → exec (.bkpt c f) s = .next (raise s ⟨0x19, 0, 0, 0, 0⟩))

/-- The control and A-class instructions: those with a q-guard (R61, R63, R64, R67), with their control fields and guard. -/
def Sys2Proof.Claims.qGuarded : Instr → Option (Ctl × BitVec 4)
  | .gmov c f | .gadd c f | .gsub c f | .gmul c f | .gmulh c f | .gdiv c f | .grem c f | .gand c f | .gor c f | .gxor c f | .gnot c f
  | .gshl c f | .gshr c f | .gsar c f | .grot c f | .gmin c f | .gmax c f | .gcmp c f | .gsel c f | .glea c f | .gpopc c f | .gclz c f
  | .gbfx c f | .gbfi c f | .qop c f | .sread c f | .swrite c f | .setfmt c f | .getfmt c f | .brx c f | .ret c f | .vexit c f
  | .waitk c f | .yield c f | .exit c f | .tail c f | .bkpt c f => some (c, f.gd)
  | .gmovi c f | .gmovh c f | .sleep c f | .trap c f => some (c, f.gd)
  | .bra c f | .call c f => some (c, f.gd)
  | .cpy c f | .bseal c f | .bwait c f | .skinit c f | .skadd c f | .skmrg c f | .skcmp c f | .skq c f | .skrank c f
  | .sktop c f | .skdc c f | .rngkSet c f | .rngkSeek c f | .rngkRead c f | .rngv c f | .rngu c f | .sgumb c f | .stopk c f
  | .mxm c f | .mxmt c f | .mxmg c f | .acld c f | .acst c f | .acz c f | .cbld c f | .qsplit c f | .wrsig c f | .mcst c f
  | .cpyr c f | .coll c f | .clrun c f | .launch c f | .lqryQueue c f | .lqrySys c f | .spapp c f | .spverExact c f
  | .spverProb c f | .spacc c f | .sprst c f => some (c, f.gd)
  | _ => none

/-- R61, R12: a q-guard that is false leaves only the SETK counter: the instruction issues with no writes, and its counter falls in the
next cycle. -/
def Obligations.FalseGuardLeavesOnlyTheCounter : Prop :=
  ∀ (s : State) (i : Instr) (c : Ctl) (gd : BitVec 4), qGuarded i = some (c, gd) →
    s.me.qGuard gd = false → 256 + gd.toNat % 8 ∉ s.me.badP → exec i s = .next (s.issue c (some (s.clock + 1)) [])

/-! ## Lane instructions (R16, R111) -/

/-- Active(l): AM is 1, XM is 0 and the guard is true in the lane (R16). -/
def Sys2Proof.Claims.active (g : Group) (gd : BitVec 4) (l : Nat) : Bool :=
  g.am.getLsbD l && !g.xm.getLsbD l && (g.rp (gd.toNat % 8) l != gd.getLsbD 3)
/-- The lanes that take part, in rising order: active, with the prefix's MP true where there is a prefix. -/
def Sys2Proof.Claims.takesPart (g : Group) (gd : BitVec 4) : List Nat :=
  (List.range 32).filter (fun l => active g gd l && (match g.pfx with | none => true | some p => g.rp p.mp.toNat l))
/-- The lanes a prefix with MZ = 1 zeroes: active, with MP false. -/
def Sys2Proof.Claims.zeroed (g : Group) (gd : BitVec 4) : List Nat :=
  (List.range 32).filter (fun l => active g gd l && (match g.pfx with | none => false | some p => p.mz == 1 && !g.rp p.mp.toNat l))

/-- No precise fault stands in the way of a lane instruction: its v-registers lie within the allocation (R11), and nothing that it
reads is poisoned: the guard in a running lane, MP in an active one, v-registers and predicates in the lanes that take part (R153). -/
structure Sys2Proof.Claims.Lanes (g : Group) (gd : BitVec 4) (named reads : List (Nat × Nat)) (preds : List Nat) : Prop where
  range : ∀ r ∈ named, r.1 + r.2 ≤ g.nv
  guard : ∀ l, l < 32 → (g.am &&& ~~~g.xm).getLsbD l = true → 32 * (gd.toNat % 8) + l ∉ g.badP
  mask : ∀ p, g.pfx = some p → ∀ l, l < 32 → active g gd l = true → 32 * p.mp.toNat + l ∉ g.badP
  reads : ∀ l ∈ takesPart g gd, ∀ r ∈ reads, ∀ j, j < r.2 → 32 * (r.1 + j) + l ∉ g.badV
  preds : ∀ l ∈ takesPart g gd, ∀ p ∈ preds, 32 * p + l ∉ g.badP

/-- The status bits whose trap is enabled in FMT[27:24] (R25): IV, DZ, OF, IDZ. -/
def Sys2Proof.Claims.enabled (fmt : W32) : BitVec 8 :=
  (if fmt.getLsbD 24 then 0x01 else 0) ||| (if fmt.getLsbD 25 then 0x02 else 0) ||| (if fmt.getLsbD 26 then 0x04 else 0) |||
  (if fmt.getLsbD 27 then 0x20 else 0)

/-- The status that an instruction sets in a lane, under the trap enables in force at its issue (R14, R25). -/
def Sys2Proof.Claims.statusOf (fmt : W32) (l : Nat) (st : BitVec 8) : List RegWr :=
  if st = 0 then [] else [.stat l st (st &&& enabled fmt != 0)]

/-- The outcome of a lane instruction (R16, R38, R111): in each lane that takes part, in rising order, the writes and the status of
`res`, from the words drawn for that lane; in each lane that MZ zeroes the writes of `zero`; nothing else is written. The writes are made,
and the status is set with the trap-pending bit where an enabled bit is among it, `lat` cycles later (none: at its completion point);
with no lane at all only the counter acts. -/
def Sys2Proof.Claims.LaneOutcome (s : State) (c : Ctl) (gd : BitVec 4) (lat : Option Nat) (coins : Nat)
    (res : Nat → List W32 → List RegWr × BitVec 8) (zero : Nat → List RegWr) (o : Out) : Prop :=
  let g := s.me
  let ls := takesPart g gd
  let words := fun k => ((s.draws (coins * ls.length)).drop (coins * k)).take coins
  o = .next ((s.drawn (coins * ls.length)).issue c
    (if ls = [] ∧ zeroed g gd = [] then some (s.clock + 1) else lat.map (s.clock + ·))
    (ls.zipIdx.flatMap (fun e => (res e.1 (words e.2)).1) ++ (zeroed g gd).flatMap zero ++
     ls.zipIdx.flatMap (fun e => statusOf g.fmt e.1 (res e.1 (words e.2)).2)))

/-! ## Types and elements (R62, R68) -/

/-- Element width and number of elements of a type (R68). -/
def Sys2Proof.Claims.shape (t : BitVec 4) : Nat × Nat :=
  match t.toNat with
  | 0x3 | 0x4 | 0x9 => (64, 1)
  | 0x5 | 0x6 | 0xA | 0xB => (16, 2)
  | 0x7 | 0xC | 0xD => (8, 4)
  | 0xE => (4, 8)
  | _ => (32, 1)
/-- Registers of a type. -/
def Sys2Proof.Claims.regs (t : BitVec 4) : Nat := if shape t = (64, 1) then 2 else 1
/-- Types whose elements are signed integers. -/
def Sys2Proof.Claims.signedType (t : BitVec 4) : Bool := t = 1 || t = 3 || t = 5 || t = 7
/-- A lane's operand: one register, or a pair for a 64-bit type. -/
def Sys2Proof.Claims.operand (g : Group) (t : BitVec 4) (r l : Nat) : W64 := if regs t = 2 then g.rvd r l else (g.rv r l).setWidth 64
/-- Element i of an operand. -/
def Sys2Proof.Claims.element (t : BitVec 4) (x : W64) (i : Nat) : BitVec (shape t).1 := x.extractLsb' ((shape t).1 * i) (shape t).1
/-- An integer from -128 to 127 in a binary floating format of eb exponent and mb mantissa bits, which holds it exactly. -/
def Sys2Proof.Claims.smallFloat (w eb mb bias : Nat) (n : Int) : BitVec w :=
  if n = 0 then 0
  else
    let e := Nat.log2 n.natAbs
    BitVec.ofNat w ((if n < 0 then 2 ^ (eb + mb) else 0) + (bias + e) * 2 ^ mb + (n.natAbs * 2 ^ (mb - e) - 2 ^ mb))
/-- An imm8 as one element (R62). -/
def Sys2Proof.Claims.immediate (t : BitVec 4) (b : BitVec 8) : BitVec (shape t).1 :=
  match t.toNat with
  | 0x8 => smallFloat _ 8 23 127 b.toInt
  | 0x9 => smallFloat _ 11 52 1023 b.toInt
  | 0xA => smallFloat _ 5 10 15 b.toInt
  | 0xB => smallFloat _ 8 7 127 b.toInt
  | _ => b.signExtend _
/-- b_i: the imm8 in every element when M[3] = 1, else the element of vB. -/
def Sys2Proof.Claims.elementB (g : Group) (f : FmtV3) (l i : Nat) : BitVec (shape f.t).1 :=
  if f.m.getLsbD 3 then immediate f.t f.b else element f.t (operand g f.t f.b.toNat l) i
/-- cat(d_(E-1), ..., d_0). -/
def Sys2Proof.Claims.joined (t : BitVec 4) (d : Nat → BitVec (shape t).1) : W64 :=
  (List.range (shape t).2).foldl (fun acc i => acc ||| ((d i).setWidth 64 <<< ((shape t).1 * i))) 0
/-- The writes of vD, a pair for 64-bit types. -/
def Sys2Proof.Claims.laneWrite (t : BitVec 4) (d l : Nat) (x : W64) : List RegWr :=
  if regs t = 2 then [.v d l (x.extractLsb' 0 32) false, .v (d + 1) l (x.extractLsb' 32 32) false] else [.v d l (x.extractLsb' 0 32) false]
/-- vCR when a prefix gives CR ≠ 0, else vD (R67, R113). -/
def Sys2Proof.Claims.fourth (g : Group) (d : BitVec 8) : Nat :=
  match g.pfx with | some p => if p.cr = 0 then d.toNat else p.cr.toNat | none => d.toNat
/-- SAT comes from a prefix. -/
def Sys2Proof.Claims.prefixSat (g : Group) : Bool := match g.pfx with | some p => p.sat == 1 | none => false

/-- A V3 instruction of R111: its fields, whether it reads a, b and c_i, its latency, the words it draws for each lane, and OP on elements
(coin word, a, b, c), with status. -/
structure Sys2Proof.Claims.Elementwise where
  c : Ctl
  f : FmtV3
  readsA : Bool
  readsB : Bool
  readsC : Bool
  lat : Option Nat
  coins : Nat
  op : W32 → BitVec (shape f.t).1 → BitVec (shape f.t).1 → BitVec (shape f.t).1 → BitVec (shape f.t).1 × BitVec 8

/-- The registers it names as sources. -/
def Sys2Proof.Claims.Elementwise.sources (g : Group) (e : Elementwise) : List (Nat × Nat) :=
  (if e.readsA then [(e.f.a.toNat, regs e.f.t)] else []) ++ ((if e.readsB && !e.f.m.getLsbD 3 then [(e.f.b.toNat, regs e.f.t)] else []) ++
    (if e.readsC then [(fourth g e.f.d, regs e.f.t)] else []))
/-- Its result in a lane. -/
def Sys2Proof.Claims.Elementwise.result (g : Group) (e : Elementwise) (l : Nat) (words : List W32) : List RegWr × BitVec 8 :=
  let r := fun i => e.op (words.getD i 0) (element e.f.t (operand g e.f.t e.f.a.toNat l) i) (elementB g e.f l i)
    (element e.f.t (operand g e.f.t (fourth g e.f.d) l) i)
  (laneWrite e.f.t e.f.d.toNat l (joined e.f.t (fun i => (r i).1)), (List.range (shape e.f.t).2).foldl (fun acc i => acc ||| (r i).2) 0)
/-- What R111 says the instruction does. -/
def Sys2Proof.Claims.Elementwise.Says (s : State) (i : Instr) (e : Elementwise) : Prop :=
  Lanes s.me e.f.gd ((e.f.d.toNat, regs e.f.t) :: e.sources s.me) (e.sources s.me) [] →
    LaneOutcome s e.c e.f.gd e.lat e.coins (e.result s.me) (fun l => laneWrite e.f.t e.f.d.toNat l 0) (exec i s)

/-! ## Integer lanes (R113 to R118) -/

/-- An exact integer as an element: modulo 2^w, or clamped to the element range with SAT (R32, R113). -/
def Sys2Proof.Claims.narrowed (w : Nat) (signed sat : Bool) (x : Int) : BitVec w × BitVec 8 :=
  let lo : Int := if signed then -(2 ^ (w - 1) : Nat) else 0
  let hi : Int := if signed then (2 ^ (w - 1) : Nat) - 1 else (2 ^ w : Nat) - 1
  if sat ∧ x < lo then (BitVec.ofInt w lo, 0x80) else if sat ∧ hi < x then (BitVec.ofInt w hi, 0x80) else (BitVec.ofInt w x, 0)

/-- The quotient and the remainder of R89, element by element. -/
def Sys2Proof.Claims.quotient {w : Nat} (sg : Bool) (a b : BitVec w) : BitVec w :=
  if b = 0 then BitVec.allOnes w else if sg && a.toInt == -(2 ^ (w - 1) : Nat) && b.toInt == -1 then a
  else BitVec.ofInt w ((num sg a).tdiv (num sg b))
def Sys2Proof.Claims.remainder {w : Nat} (sg : Bool) (a b : BitVec w) : BitVec w :=
  if b = 0 then a else if sg && a.toInt == -(2 ^ (w - 1) : Nat) && b.toInt == -1 then 0
  else BitVec.ofInt w (num sg a - num sg b * (num sg a).tdiv (num sg b))

/-- The integer, bit and permute instructions of R113, R116 and R117 on a group with this prefix SAT. -/
def Sys2Proof.Claims.integerOf (sat : Bool) : Instr → Option Elementwise
  | .vmov c f => some ⟨c, f, !f.m.getLsbD 3, f.m.getLsbD 3, false, some 4, 0, fun _ a b _ => (if f.m.getLsbD 3 then b else a, 0)⟩
  | .vadd c f => some ⟨c, f, true, true, false, some 4, 0, fun _ a b _ => narrowed _ (signedType f.t) sat (num (signedType f.t) a + num (signedType f.t) b)⟩
  | .vsub c f => some ⟨c, f, true, true, false, some 4, 0, fun _ a b _ => narrowed _ (signedType f.t) sat (num (signedType f.t) a - num (signedType f.t) b)⟩
  | .vmul c f => some ⟨c, f, true, true, false, some 4, 0, fun _ a b _ => narrowed _ (signedType f.t) sat (num (signedType f.t) a * num (signedType f.t) b)⟩
  | .vmulh c f => some ⟨c, f, true, true, false, some 4, 0, fun _ a b _ =>
      (BitVec.ofInt _ (num (signedType f.t) a * num (signedType f.t) b / (2 ^ (shape f.t).1 : Nat)), 0)⟩
  | .vmad c f => some ⟨c, f, true, true, true, some 4, 0, fun _ a b d =>
      narrowed _ (signedType f.t) sat (num (signedType f.t) a * num (signedType f.t) b + num (signedType f.t) d)⟩
  | .vdiv c f => some ⟨c, f, true, true, false, none, 0, fun _ a b _ => (quotient (signedType f.t) a b, if b = 0 then 0x20 else 0)⟩
  | .vrem c f => some ⟨c, f, true, true, false, none, 0, fun _ a b _ => (remainder (signedType f.t) a b, if b = 0 then 0x20 else 0)⟩
  | .vand c f => some ⟨c, f, true, true, false, some 4, 0, fun _ a b _ => (a &&& b, 0)⟩
  | .vor c f => some ⟨c, f, true, true, false, some 4, 0, fun _ a b _ => (a ||| b, 0)⟩
  | .vxor c f => some ⟨c, f, true, true, false, some 4, 0, fun _ a b _ => (a ^^^ b, 0)⟩
  | .vnot c f => some ⟨c, f, true, false, false, some 4, 0, fun _ a _ _ => (~~~a, 0)⟩
  | .vshl c f => some ⟨c, f, true, true, false, some 4, 0, fun _ a b _ =>
      narrowed _ (signedType f.t) sat (num (signedType f.t) a * (2 ^ (b.toNat % (shape f.t).1) : Nat))⟩
  | .vshr c f => some ⟨c, f, true, true, false, some 4, 0, fun _ a b _ => (a >>> (b.toNat % (shape f.t).1), 0)⟩
  | .vsar c f => some ⟨c, f, true, true, false, some 4, 0, fun _ a b _ => (a.sshiftRight (b.toNat % (shape f.t).1), 0)⟩
  | .vmin c f => some ⟨c, f, true, true, false, some 4, 0, fun _ a b _ => (if num (signedType f.t) a ≤ num (signedType f.t) b then a else b, 0)⟩
  | .vmax c f => some ⟨c, f, true, true, false, some 4, 0, fun _ a b _ => (if num (signedType f.t) a ≥ num (signedType f.t) b then a else b, 0)⟩
  | .vabs c f => some ⟨c, f, true, false, false, some 4, 0, fun _ a _ _ => narrowed _ (signedType f.t) sat (num (signedType f.t) a).natAbs⟩
  | .vpopc c f => some ⟨c, f, true, false, false, some 4, 0, fun _ a _ _ =>
      (BitVec.ofNat _ ((List.range (shape f.t).1).countP (fun i => a.getLsbD i)), 0)⟩
  | .vclz c f => some ⟨c, f, true, false, false, some 4, 0, fun _ a _ _ =>
      (BitVec.ofNat _ ((List.range (shape f.t).1).countP (fun i => a >>> i == 0)), 0)⟩
  | .vbrev c f => some ⟨c, f, true, false, false, some 4, 0, fun _ a _ _ => (a.reverse, 0)⟩
  | .vbfx c f => some ⟨c, f, true, true, false, some 4, 0, fun _ a b _ => (extractField (signedType f.t) a (b.setWidth 32), 0)⟩
  | .vbfi c f => some ⟨c, f, true, true, true, some 4, 0, fun _ a b d => (insertField d a (b.setWidth 32), 0)⟩
  | .vprmt c f => some ⟨c, f, true, true, true, some 4, 0, fun _ a b d =>
      let x : W64 := b.setWidth 32 ++ a.setWidth 32
      let byte := fun i => let n : BitVec 4 := d.extractLsb' (4 * i) 4
        let y : BitVec 8 := x.extractLsb' (8 * (n.toNat % 8)) 8
        if n.getLsbD 3 then (if y.getLsbD 7 then 0xFF#8 else 0x00#8) else y
      ((byte 3 ++ byte 2 ++ byte 1 ++ byte 0).setWidth _, 0)⟩
  | _ => none

/-- The types each of them accepts (R113, R116, R117): any other is refused when the word is decoded. -/
def Sys2Proof.Claims.integerTypes (i : Instr) (t : BitVec 4) : Prop :=
  match i with
  | .vmov _ _ => t.toNat ≤ 0xE
  | .vdiv _ _ | .vrem _ _ => 1 ≤ t.toNat ∧ t.toNat ≤ 4
  | .vpopc _ _ | .vclz _ _ | .vbrev _ _ | .vbfx _ _ | .vbfi _ _ => t.toNat ≤ 4
  | .vprmt _ _ => t = 0
  | _ => t.toNat ≤ 7

/-- R111 to R113, R116, R117: every element-wise integer instruction writes OP of its elements in each lane that takes part, with the
saturation and the status the table gives it, and keeps every other lane. -/
def Obligations.IntegerLanesComputeElements : Prop :=
  ∀ (s : State) (i : Instr) (e : Elementwise), integerOf (prefixSat s.me) i = some e → integerTypes i e.f.t → e.Says s i

/-- R114, R115, R118: the four modes of VMOVI, VCMP, VSEL, POP and VDOT4. -/
def Obligations.ImmediatesPredicatesAndByteDot : Prop :=
  ∀ (s : State) (c : Ctl),
    (∀ f : FmtVI,
      let old := fun l => s.me.rv f.d.toNat l
      let set := fun (x : Nat → W32) => fun l (_ : List W32) => (([.v f.d.toNat l (x l) false], 0) : List RegWr × BitVec 8)
      let zero := fun l => [RegWr.v f.d.toNat l 0 false]
      (Lanes s.me f.gd [(f.d.toNat, 1)] [] [] →
        LaneOutcome s c f.gd (some 4) 0 (set (fun _ => f.imm.signExtend 32)) zero (exec (.vmovi c f) s) ∧
        LaneOutcome s c f.gd (some 4) 0 (set (fun _ => f.imm.setWidth 32)) zero (exec (.vmoviZ c f) s) ∧
        LaneOutcome s c f.gd (some 4) 0 (set (fun _ => f.imm ++ f.imm)) zero (exec (.vmoviRep c f) s)) ∧
      (Lanes s.me f.gd [(f.d.toNat, 1)] [(f.d.toNat, 1)] [] →
        LaneOutcome s c f.gd (some 4) 0 (set (fun l => f.imm ++ (old l).extractLsb' 0 16)) zero (exec (.vmoviHi c f) s))) ∧
    (∀ f : FmtV3,
      let b := fun l => if f.m.getLsbD 3 then joined f.t (fun _ => immediate f.t f.b) else operand s.me f.t f.b.toNat l
      let srcs := (f.a.toNat, regs f.t) :: (if f.m.getLsbD 3 then [] else [(f.b.toNat, regs f.t)])
      let pzero := fun l => [RegWr.p f.d.toNat l false]
      (Lanes s.me f.gd srcs srcs [] → f.t.toNat ≤ 4 → (f.m.extractLsb' 0 3).toNat ≤ 5 →
        LaneOutcome s c f.gd (some 4) 0 (fun l _ => ([.p f.d.toNat l (condition (f.m.extractLsb' 0 3).toNat
          (num (signedType f.t) (element f.t (operand s.me f.t f.a.toNat l) 0)) (num (signedType f.t) (elementB s.me f l 0)))], 0))
          pzero (exec (.vcmp c f) s)) ∧
      (Lanes s.me f.gd ((f.d.toNat, regs f.t) :: srcs) srcs [(f.m.extractLsb' 0 3).toNat] → f.t.toNat ≤ 0xE →
        LaneOutcome s c f.gd (some 4) 0 (fun l _ => (laneWrite f.t f.d.toNat l
          (if s.me.rp (f.m.extractLsb' 0 3).toNat l then operand s.me f.t f.a.toNat l else b l), 0))
          (fun l => laneWrite f.t f.d.toNat l 0) (exec (.vsel c f) s)) ∧
      (Lanes s.me f.gd [] [] [f.a.toNat, f.b.toNat] →
        LaneOutcome s c f.gd (some 4) 0 (fun l _ => ([.p f.d.toNat l
          (f.m.getLsbD (2 * (s.me.rp f.a.toNat l).toNat + (s.me.rp f.b.toNat l).toNat))], 0)) pzero (exec (.pop c f) s)) ∧
      (let r4 := [(f.a.toNat, 1), (f.b.toNat, 1), (fourth s.me f.d, 1)]
       let byte := fun (uns : Bool) (x : W32) i => if uns then ((x.extractLsb' (8 * i) 8).toNat : Int) else (x.extractLsb' (8 * i) 8).toInt
       Lanes s.me f.gd ((f.d.toNat, 1) :: r4) r4 [] →
        LaneOutcome s c f.gd (some 4) 0 (fun l _ =>
          let term := fun i => byte (f.m.getLsbD 0) (s.me.rv f.a.toNat l) i * byte (f.m.getLsbD 1) (s.me.rv f.b.toNat l) i
          let r := narrowed 32 true (prefixSat s.me) ((s.me.rv (fourth s.me f.d) l).toInt + (term 0 + term 1 + term 2 + term 3))
          ([.v f.d.toNat l r.1 false], r.2)) (fun l => [.v f.d.toNat l 0 false]) (exec (.vdot4 c f) s)))

/-! ## Floating lanes (R119 to R128) -/

/-- The rounding environment (R36, R37, R67): RM of FMT unless the instruction or its prefix gives RND; DAZ, FTZ, NANP; SATC or SAT. -/
def Sys2Proof.Claims.environment (g : Group) (rnd : Nat) : FEnv where
  rm := if rnd = 0 then (g.fmt.extractLsb' 0 3).toNat else rnd
  daz := g.fmt.getLsbD 3
  ftz := g.fmt.getLsbD 4
  nanp := g.fmt.getLsbD 5
  sat := g.fmt.getLsbD 23 || prefixSat g
/-- RND of a prefix. -/
def Sys2Proof.Claims.prefixRnd (g : Group) : Nat := match g.pfx with | some p => p.rnd.toNat | none => 0
/-- The number format of a floating type. -/
def Sys2Proof.Claims.format (t : BitVec 4) : Fmt :=
  match t.toNat with
  | 0x9 => fF64
  | 0xA => fF16
  | 0xB => fBf16
  | 0xC => fE4m3
  | 0xD => fE5m2
  | 0xE => fE2m1
  | _ => fF32
/-- The coin of SR: the low 24 bits of the word (R38). -/
def Sys2Proof.Claims.coinOf (w : W32) : Nat := w.toNat % 2 ^ 24
/-- An instruction on elements from a function on bit patterns in a format. -/
def Sys2Proof.Claims.floating (g : Group) (c : Ctl) (f : FmtV3) (readsB readsC varLat rounds : Bool) (rnd : Nat)
    (op : FEnv → Fmt → Nat → Nat → Nat → Nat → Nat × BitVec 8) : Elementwise where
  c := c
  f := f
  readsA := true
  readsB := readsB
  readsC := readsC
  lat := if varLat then none else some (if f.t = 9 then 6 else 4)
  coins := if rounds && (environment g rnd).rm == 6 then (shape f.t).2 else 0
  op := fun w a b d =>
    let r := op (environment g rnd) (format f.t) (coinOf w) a.toNat b.toNat d.toNat
    (BitVec.ofNat _ r.1, r.2)

/-- The element-wise floating and special-function instructions: operand order, rounding mode (of the prefix, of FMT, or nearest even for
the seven functions R127 fixes), the words drawn under SR, latency. The value functions are the model's own (Num.lean, Transc.lean). -/
def Sys2Proof.Claims.floatingOf (g : Group) : Instr → Option Elementwise
  | .fadd c f => some (floating g c f true false false true (prefixRnd g) (fun e m k a b _ => fAdd e m k (unpack m e.daz a) (unpack m e.daz b)))
  | .fsub c f => some (floating g c f true false false true (prefixRnd g) (fun e m k a b _ => fSub e m k (unpack m e.daz a) (unpack m e.daz b)))
  | .fmul c f => some (floating g c f true false false true (prefixRnd g) (fun e m k a b _ => fMul e m k (unpack m e.daz a) (unpack m e.daz b)))
  | .ffma c f => some (floating g c f true true false true (prefixRnd g)
      (fun e m k a b d => fFma e m k (unpack m e.daz a) (unpack m e.daz b) (unpack m e.daz d)))
  | .fmin c f => some (floating g c f true false false false 0 (fun e m _ a b _ => fMinMax e m false false a b))
  | .fmax c f => some (floating g c f true false false false 0 (fun e m _ a b _ => fMinMax e m true false a b))
  | .fminn c f => some (floating g c f true false false false 0 (fun e m _ a b _ => fMinMax e m false true a b))
  | .fmaxn c f => some (floating g c f true false false false 0 (fun e m _ a b _ => fMinMax e m true true a b))
  | .fclass c f => some (floating g c f false false false false 0 (fun _ m _ a _ _ => (fClass m a, 0)))
  | .fclassKey c f => some (floating g c f false false false false 0 (fun _ m _ a _ _ => (fKey m a, 0)))
  | .fabs c f => some { floating g c f false false false false 0 (fun _ _ _ a _ _ => (a, 0)) with
      op := fun _ a _ _ => (a &&& ~~~((1 : BitVec _) <<< ((shape f.t).1 - 1)), 0) }
  | .fneg c f => some { floating g c f false false false false 0 (fun _ _ _ a _ _ => (a, 0)) with
      op := fun _ a _ _ => (a ^^^ ((1 : BitVec _) <<< ((shape f.t).1 - 1)), 0) }
  | .frnd c f => some (floating g c f false false false true (f.m.extractLsb' 0 3).toNat (fun e m k a _ _ => fRound e m k a))
  | .fscl c f => some { floating g c f true false false true (prefixRnd g) (fun _ _ _ a _ _ => (a, 0)) with
      op := fun w a b _ =>
        let r := fScale (environment g (prefixRnd g)) (format f.t) (coinOf w) a.toNat (if f.m.getLsbD 3 then f.b.toInt else b.toInt)
        (BitVec.ofNat _ r.1, r.2) }
  | .xrcp c f => some (floating g c f false false true true (prefixRnd g) (fun e m k a _ _ => xRcp e m k a))
  | .xsqrt c f => some (floating g c f false false true true (prefixRnd g) (fun e m k a _ _ => xSqrt e m k a))
  | .xrsq c f => some (floating g c f false false true false 1 (fun e m _ a _ _ => xRsq e m a))
  | .xexp2 c f => some (floating g c f false false true false 1 (fun e m _ a _ _ => xExp2 e m a))
  | .xlog2 c f => some (floating g c f false false true false 1 (fun e m _ a _ _ => xLog2 e m a))
  | .xsin c f => some (floating g c f false false true false 1 (fun e m _ a _ _ => xTrig false e m a))
  | .xcos c f => some (floating g c f false false true false 1 (fun e m _ a _ _ => xTrig true e m a))
  | .xtanh c f => some (floating g c f false false true false 1 (fun e m _ a _ _ => xTanh e m a))
  | .xsig c f => some (floating g c f false false true false 1 (fun e m _ a _ _ => xSig e m a))
  | _ => none

/-- R119, R120, R122, R123, R127: every element-wise floating and special-function instruction completes so, for f32, f64, f16x2 and
bf16x2. -/
def Obligations.FloatingLanesComputeElements : Prop :=
  ∀ (s : State) (i : Instr) (e : Elementwise), floatingOf s.me i = some e → 8 ≤ e.f.t.toNat → e.f.t.toNat ≤ 0xB → e.Says s i

/-- R121, R124 to R126: FCMP, FDOT2, FCVT, FPACK and FUNPK complete with these operands, words drawn and destinations. -/
def Obligations.FloatingComparesConversionsAndPacks : Prop :=
  ∀ (s : State) (c : Ctl) (f : FmtV3),
    let g := s.me
    let srcs := (f.a.toNat, regs f.t) :: (if f.m.getLsbD 3 then [] else [(f.b.toNat, regs f.t)])
    let word := fun (x : Nat → List W32 → Nat × BitVec 8) l w => (([.v f.d.toNat l (BitVec.ofNat 32 (x l w).1) false], (x l w).2) : List RegWr × BitVec 8)
    let zero := fun l => [RegWr.v f.d.toNat l 0 false]
    (Lanes g f.gd srcs srcs [] → f.t = 8 ∨ f.t = 9 →
      LaneOutcome s c f.gd (some (if f.t = 9 then 6 else 4)) 0 (fun l _ =>
        let r := fCmp (environment g 0) (format f.t) (f.m.extractLsb' 0 3).toNat
          (element f.t (operand g f.t f.a.toNat l) 0).toNat (elementB g f l 0).toNat
        ([.p f.d.toNat l r.1], r.2)) (fun l => [.p f.d.toNat l false]) (exec (.fcmp c f) s)) ∧
    (let r4 := [(f.a.toNat, 1), (f.b.toNat, 1), (fourth g f.d, 1)]
     Lanes g f.gd ((f.d.toNat, 1) :: r4) r4 [] → f.t = 0xA ∨ f.t = 0xB →
      let env := environment g (prefixRnd g)
      LaneOutcome s c f.gd (some 4) (if env.rm = 6 then 1 else 0) (word (fun l w =>
        let u := fun r i => unpack (format f.t) env.daz ((g.rv r l).extractLsb' (16 * i) 16).toNat
        fDot2 env (format f.t) (coinOf (w.getD 0 0)) (u f.a.toNat 0) (u f.b.toNat 0) (u f.a.toNat 1) (u f.b.toNat 1)
          (unpack fF32 env.daz (g.rv (fourth g f.d) l).toNat))) zero (exec (.fdot2 c f) s)) ∧
    (let src : BitVec 4 := f.b.extractLsb' 0 4
     let env := environment g (f.m.extractLsb' 0 3).toNat
     let r1 := [(f.a.toNat, regs src)]
     let isF := fun (t : BitVec 4) => 8 ≤ t.toNat ∧ t.toNat ≤ 0xB
     let isI := fun (t : BitVec 4) => 1 ≤ t.toNat ∧ t.toNat ≤ 4
     Lanes g f.gd ((f.d.toNat, regs f.t) :: r1) r1 [] →
      (isF f.t ∧ isF src ∧ f.t ≠ src) ∨ (isI src ∧ (f.t = 8 ∨ f.t = 9)) ∨ (isI f.t ∧ (src = 8 ∨ src = 9)) →
      LaneOutcome s c f.gd (some (if f.t = 9 ∨ src = 9 then 6 else 4)) (if env.rm = 6 then 1 else 0) (fun l w =>
        let x := (operand g src f.a.toNat l).toNat
        let k := coinOf (w.getD 0 0)
        let r := if src.toNat ≤ 4 then intToF env (format f.t) k x src.toNat
          else if f.t.toNat ≤ 4 then fToInt env (format src) k x f.t.toNat
          else fToF env (format src) (format f.t) k (if shape src = (16, 2) then x % 2 ^ 16 else x)
        (laneWrite f.t f.d.toNat l (BitVec.ofNat 64 r.1), r.2)) (fun l => laneWrite f.t f.d.toNat l 0) (exec (.fcvt c f) s)) ∧
    (let r2 := (f.a.toNat, 1) :: (if f.m.getLsbD 3 then [] else [(f.b.toNat, 1)])
     let env := environment g (prefixRnd g)
     let w := (shape f.t).1
     let at' := if w = 16 then 0 else 2 * w * (f.m.extractLsb' 0 3).toNat
     Lanes g f.gd ((f.d.toNat, 1) :: r2) (r2 ++ (if w = 16 then [] else [(f.d.toNat, 1)])) [] →
      0xA ≤ f.t.toNat → f.t.toNat ≤ 0xE → at' + 2 * w ≤ 32 →
      LaneOutcome s c f.gd (some 4) (if env.rm = 6 then 2 else 0) (fun l ws =>
        let x := fToF env fF32 (format f.t) (coinOf (ws.getD 0 0)) (g.rv f.a.toNat l).toNat
        let y := fToF env fF32 (format f.t) (coinOf (ws.getD 1 0))
          (if f.m.getLsbD 3 then smallFloat 32 8 23 127 f.b.toInt else g.rv f.b.toNat l).toNat
        let lo : BitVec w := BitVec.ofNat w x.1
        let hi : BitVec w := BitVec.ofNat w y.1
        let mask : W32 := ((BitVec.allOnes (w + w)).setWidth 32) <<< at'
        ([.v f.d.toNat l ((g.rv f.d.toNat l &&& ~~~mask) ||| ((hi ++ lo).setWidth 32 <<< at')) false], x.2 ||| y.2)) zero (exec (.fpack c f) s)) ∧
    (Lanes g f.gd [(f.d.toNat, 1), (f.a.toNat, 1)] [(f.a.toNat, 1)] [] → 0xA ≤ f.t.toNat → f.t.toNat ≤ 0xE →
      LaneOutcome s c f.gd (some 4) 0 (word (fun l _ =>
        fToF (environment g 0) (format f.t) fF32 0 ((g.rv f.a.toNat l).extractLsb' ((shape f.t).1 * (f.m.extractLsb' 0 3).toNat) (shape f.t).1).toNat))
        zero (exec (.funpk c f) s))

/-- The encodings of a binary format: zero, infinity, one, one half, and whether a pattern is a NaN. -/
def Sys2Proof.Claims.infinity (m : Fmt) (neg : Bool) : Nat := (if neg then 2 ^ (m.eb + m.mb) else 0) + (2 ^ m.eb - 1) * 2 ^ m.mb
def Sys2Proof.Claims.zeroBits (m : Fmt) (neg : Bool) : Nat := if neg then 2 ^ (m.eb + m.mb) else 0
def Sys2Proof.Claims.powerOfTwo (m : Fmt) (neg : Bool) (n : Int) : Nat := (if neg then 2 ^ (m.eb + m.mb) else 0) + (m.bias + n).toNat * 2 ^ m.mb
/-- The quiet NaN that an invalid operation gives: sign 0 and the top mantissa bit alone (R41). -/
def Sys2Proof.Claims.quietNan (m : Fmt) : Nat := (2 ^ m.eb - 1) * 2 ^ m.mb + 2 ^ (m.mb - 1)

/-- R128: the special values of the nine special functions at the two zeros, the two infinities and one, with their status, for f32,
f16 and bf16 (and f64 for the three that accept it), in every rounding environment. -/
def Obligations.SpecialFunctionValues : Prop :=
  ∀ (env : FEnv) (m : Fmt) (k : Nat), m = fF32 ∨ m = fF64 ∨ m = fF16 ∨ m = fBf16 →
    let z := zeroBits m
    let inf := infinity m
    let one := powerOfTwo m false 0
    let nan := (quietNan m, (0x01 : BitVec 8))
    (∀ sg, xRcp env m k (z sg) = (inf sg, 0x02) ∧ xRcp env m k (inf sg) = (z sg, 0) ∧ xRsq env m (z sg) = (inf sg, 0x02) ∧
      xSqrt env m k (z sg) = (z sg, 0) ∧ xExp2 env m (z sg) = (one, 0) ∧ xLog2 env m (z sg) = (inf true, 0x02) ∧
      xTrig false env m (z sg) = (z sg, 0) ∧ xTrig true env m (z sg) = (one, 0) ∧ xTanh env m (z sg) = (z sg, 0) ∧
      xSig env m (z sg) = (powerOfTwo m false (-1), 0) ∧ xTrig false env m (inf sg) = nan ∧ xTrig true env m (inf sg) = nan ∧
      xTanh env m (inf sg) = (powerOfTwo m sg 0, 0)) ∧
    xRsq env m (inf false) = (z false, 0) ∧ xRsq env m (inf true) = nan ∧ xSqrt env m k (inf false) = (inf false, 0) ∧
    xSqrt env m k (inf true) = nan ∧ xExp2 env m (inf false) = (inf false, 0) ∧ xExp2 env m (inf true) = (z false, 0) ∧
    xLog2 env m (inf false) = (inf false, 0) ∧ xLog2 env m (inf true) = nan ∧ xSig env m (inf false) = (one, 0) ∧
    xSig env m (inf true) = (z false, 0) ∧ xLog2 env m one = (z false, 0) ∧ xExp2 env m one = (powerOfTwo m false 1, 0)

/-- R120, R121: minimum and maximum order -0 below +0; a number wins against a NaN in FMIN and FMAX, and the NaN in FMINN and FMAXN;
equality holds between the zeros, and a quiet NaN is unordered with everything, with IV for the four orders alone. -/
def Obligations.MinimumMaximumAndOrder : Prop :=
  ∀ (env : FEnv) (m : Fmt), m = fF32 ∨ m = fF64 ∨ m = fF16 ∨ m = fBf16 →
    (∀ wins, fMinMax env m false wins (zeroBits m false) (zeroBits m true) = (zeroBits m true, 0) ∧
      fMinMax env m false wins (zeroBits m true) (zeroBits m false) = (zeroBits m true, 0) ∧
      fMinMax env m true wins (zeroBits m true) (zeroBits m false) = (zeroBits m false, 0) ∧
      fMinMax env m true wins (zeroBits m false) (zeroBits m true) = (zeroBits m false, 0)) ∧
    (∀ isMax sg, fMinMax env m isMax false (quietNan m) (powerOfTwo m sg 0) = (powerOfTwo m sg 0, 0) ∧
      fMinMax env m isMax false (powerOfTwo m sg 0) (quietNan m) = (powerOfTwo m sg 0, 0) ∧
      fMinMax env m isMax true (quietNan m) (powerOfTwo m sg 0) = (quietNan m, 0) ∧
      fMinMax env m isMax true (powerOfTwo m sg 0) (quietNan m) = (quietNan m, 0)) ∧
    (∀ cc, cc < 8 → ∀ sg sg',
      (fCmp env m cc (zeroBits m sg) (zeroBits m sg')).1 = decide (cc = 0 ∨ cc = 3 ∨ cc = 5 ∨ cc = 7) ∧
      (fCmp env m cc (quietNan m) (powerOfTwo m sg 0)) = (decide (cc = 1 ∨ cc = 6), if 2 ≤ cc ∧ cc ≤ 5 then 0x01 else 0) ∧
      (fCmp env m cc (powerOfTwo m true 0) (infinity m false)).1 = decide (cc = 1 ∨ cc = 2 ∨ cc = 3 ∨ cc = 7))

/-- R34: the canonical NaN of each format, whose sign bit is clear and whose quiet bit is set, and in the packed types element 0 in the low bits. -/
def Obligations.CanonicalNaNsAndElementZero : Prop :=
  fF64.canonNan = 0x7FF8000000000000 ∧ fF32.canonNan = 0x7FC00000 ∧ fF16.canonNan = 0x7E00 ∧ fBf16.canonNan = 0x7FC0 ∧ fE5m2.canonNan = 0x7E ∧ fE4m3.canonNan = 0x7F ∧
  (∀ x : Nat, elem 0xA x 0 = x % 2 ^ 16 ∧ elem 0xB x 0 = x % 2 ^ 16 ∧ elem 0xC x 0 = x % 2 ^ 8 ∧ elem 0xD x 0 = x % 2 ^ 8 ∧ elem 0xE x 0 = x % 2 ^ 4) ∧
  ∀ f ∈ [fF64, fF32, fF16, fBf16, fE5m2, fE4m3], f.canonNan < f.signBit ∧ f.canonNan.testBit (f.mb - 1) = true

/-! ## Cross-lane instructions (R130 to R138) -/

/-- The lanes that take part in a cross-lane instruction, which has no prefix (R16, R129). -/
def Sys2Proof.Claims.crossLanes (g : Group) (gd : BitVec 4) : List Nat := (List.range 32).filter (active g gd)

/-- What a cross-lane instruction needs (R11, R130, R153): registers within the allocation, sources clean in all 32 lanes, the guard clean in
running lanes, predicates clean in the lanes that take part, group registers clean. -/
structure Sys2Proof.Claims.Crosses (g : Group) (gd : BitVec 4) (dest reads : List (Nat × Nat)) (preds gregs : List Nat) : Prop where
  range : ∀ r ∈ dest ++ reads, r.1 + r.2 ≤ g.nv
  guard : ∀ l, l < 32 → (g.am &&& ~~~g.xm).getLsbD l = true → 32 * (gd.toNat % 8) + l ∉ g.badP
  reads : ∀ l, l < 32 → ∀ r ∈ reads, ∀ j, j < r.2 → 32 * (r.1 + j) + l ∉ g.badV
  preds : ∀ l ∈ crossLanes g gd, ∀ p ∈ preds, 32 * p + l ∉ g.badP
  gregs : ∀ r ∈ gregs, r ∉ g.badG

/-- Its outcome: these writes at its completion point, with this status in each lane that takes part; with no lane taking part and nothing
to write, only the counter acts (R12, R130). -/
def Sys2Proof.Claims.CrossOutcome (s : State) (c : Ctl) (gd : BitVec 4) (wr : List RegWr) (status : Nat → BitVec 8) (o : Out) : Prop :=
  let ls := crossLanes s.me gd
  o = .next (s.issue c (if ls = [] ∧ wr = [] then some (s.clock + 1) else none) (wr ++ ls.flatMap (fun l => statusOf s.me.fmt l (status l))))

/-- The state in which LRED and LSCAN run: their partition keeps that they occupy its L pipe until they complete (R144). -/
def Sys2Proof.Claims.occupying (s : State) : State := s.modPart s.me.part (fun p => { p with lBusy := some (s.cur, s.nextId) })

/-- A cross-lane move: fields, v-registers it writes and reads, predicates and group registers it reads, and its writes from the lanes
that take part. -/
structure Sys2Proof.Claims.LaneMove where
  c : Ctl
  f : FmtV3
  dest : List (Nat × Nat)
  reads : List (Nat × Nat)
  preds : List Nat
  gregs : List Nat
  writes : List Nat → List RegWr

/-- The source lane of LSHF (R131). -/
def Sys2Proof.Claims.shuffleFrom (mode : Nat) (l : Nat) (b : W32) : Int :=
  match mode with
  | 0 => b.toInt
  | 1 => (l : Int) - b.toInt
  | 2 => (l : Int) + b.toInt
  | _ => (BitVec.ofNat 32 l ^^^ b).toInt
/-- The writes of gD or gD.d from a 64-bit value. -/
def Sys2Proof.Claims.groupWrite (t : BitVec 4) (d : Nat) (x : W64) : List RegWr := if regs t = 2 then pairG d x else [.g d (x.extractLsb' 0 32) false]
/-- A mask from its bits. -/
def Sys2Proof.Claims.maskBits (p : Nat → Bool) : W32 := BitVec.ofNat 32 ((List.range 32).map (fun l => if p l then 2 ^ l else 0)).sum

/-- The moves, votes and matches of R131 to R133, R136 and R137. -/
def Sys2Proof.Claims.moveOf (g : Group) : Instr → Option LaneMove
  | .lshf c f => some ⟨c, f, [(f.d.toNat, 1)], (f.a.toNat, 1) :: (if f.m.getLsbD 3 then [] else [(f.b.toNat, 1)]), [], [], fun ls =>
      ls.flatMap (fun l =>
        let s := shuffleFrom (f.m.extractLsb' 0 2).toNat l (if f.m.getLsbD 3 then f.b.signExtend 32 else g.rv f.b.toNat l)
        let ok := decide (0 ≤ s ∧ s ≤ 31)
        .v f.d.toNat l (g.rv f.a.toNat (if ok then s.toNat else l)) false ::
          (if f.t.getLsbD 3 then [.p (f.t.extractLsb' 0 3).toNat l ok] else []))⟩
  | .lbc c f => some ⟨c, f, [(f.d.toNat, regs f.t)], (f.a.toNat, regs f.t) :: (if f.m.getLsbD 3 then [] else [(f.b.toNat, regs f.t)]), [], [],
      fun ls =>
        let src := if f.m.getLsbD 3 then f.b.toNat % 32 else (g.rv f.b.toNat (ls.headD 0)).toNat % 32
        ls.flatMap (fun l => laneWrite f.t f.d.toNat l (operand g f.t f.a.toNat src))⟩
  | .lvoteAll c f => some ⟨c, f, [], [], [f.a.toNat % 8], [], fun ls =>
      [.q (f.d.toNat % 8) (decide (∀ l ∈ ls, (g.rp (f.a.toNat % 8) l != f.a.getLsbD 3) = true))]⟩
  | .lvoteAny c f => some ⟨c, f, [], [], [f.a.toNat % 8], [], fun ls =>
      [.q (f.d.toNat % 8) (decide (∃ l ∈ ls, (g.rp (f.a.toNat % 8) l != f.a.getLsbD 3) = true))]⟩
  | .lvoteUni c f => some ⟨c, f, [], [], [f.a.toNat % 8], [], fun ls =>
      [.q (f.d.toNat % 8) (decide (∀ l ∈ ls, ∀ k ∈ ls, g.rp (f.a.toNat % 8) l = g.rp (f.a.toNat % 8) k))]⟩
  | .lvoteBal c f => some ⟨c, f, [(f.d.toNat, 1)], [], [f.a.toNat % 8], [], fun ls =>
      ls.map (fun l => .v f.d.toNat l (maskBits (fun k => ls.contains k && (g.rp (f.a.toNat % 8) k != f.a.getLsbD 3))) false)⟩
  | .lmatch c f => some ⟨c, f, [(f.d.toNat, regs f.t)], [(f.a.toNat, regs f.t)], [], [], fun ls =>
      ls.flatMap (fun l => laneWrite f.t f.d.toNat l
        ((maskBits (fun k => ls.contains k && operand g f.t f.a.toNat k == operand g f.t f.a.toNat l)).setWidth 64))⟩
  | .lcmpr c f => some ⟨c, f, [(f.d.toNat, regs f.t)], [(f.a.toNat, regs f.t)], [f.b.toNat % 8], [], fun ls =>
      let sel := ls.filter (fun l => g.rp (f.b.toNat % 8) l != f.b.getLsbD 3)
      ls.zipIdx.flatMap (fun e => match sel[e.2]? with
        | some k => laneWrite f.t f.d.toNat e.1 (operand g f.t f.a.toNat k)
        | none => [])⟩
  | .vfromg c f => some ⟨c, f, [(f.d.toNat, regs f.t)], [], [], (if regs f.t = 2 then [f.a.toNat, f.a.toNat + 1] else [f.a.toNat]), fun ls =>
      ls.flatMap (fun l => laneWrite f.t f.d.toNat l (if regs f.t = 2 then g.rgd f.a.toNat else (g.rg f.a.toNat).setWidth 64))⟩
  | .vtog c f => some ⟨c, f, [], [(f.a.toNat, regs f.t)], [], [], fun _ => groupWrite f.t f.d.toNat (operand g f.t f.a.toNat (f.b.toNat % 32))⟩
  | .vtogFirst c f => some ⟨c, f, [], [(f.a.toNat, regs f.t)], [], [], fun ls =>
      match ls.head? with
      | some l => groupWrite f.t f.d.toNat (operand g f.t f.a.toNat l)
      | none => []⟩
  | _ => none

/-- R130 to R133, R136, R137: shuffles, broadcasts, votes, matches, compaction and the moves between lanes and group registers complete
with the writes the rule gives, from the register contents of all 32 lanes, and set no status. -/
def Obligations.CrossLaneMoves : Prop :=
  ∀ (s : State) (i : Instr) (m : LaneMove), moveOf s.me i = some m → Crosses s.me m.f.gd m.dest m.reads m.preds m.gregs →
    CrossOutcome s m.c m.f.gd (m.writes (crossLanes s.me m.f.gd)) (fun _ => 0) (exec i s)

/-- The combining tree of R50 over values x 0, …, x (n-1): pairs, an odd last one passing up. -/
def Sys2Proof.Claims.treeOf {A : Type} (op : A → A → A) : Nat → Nat → (Nat → A) → A
  | 0, _, x => x 0
  | fuel + 1, n, x => if n ≤ 1 then x 0
      else treeOf op fuel ((n + 1) / 2) (fun i => if 2 * i + 1 < n then op (x (2 * i)) (x (2 * i + 1)) else x (2 * i))

/-- One combining step of LRED and LSCAN (R134, R135) on two values with their status. -/
def Sys2Proof.Claims.combineStep (g : Group) (op : Nat) (t : BitVec 4) (x y : W64 × BitVec 8) : W64 × BitVec 8 :=
  let w := (shape t).1
  let a : BitVec w := x.1.setWidth w
  let b : BitVec w := y.1.setWidth w
  let sg := signedType t
  if t = 8 ∨ t = 9 then
    let env := environment g 1
    let r := if op = 0 then fAdd env (format t) 0 (unpack (format t) env.daz a.toNat) (unpack (format t) env.daz b.toNat)
      else fMinMax env (format t) (op == 2) false a.toNat b.toNat
    (BitVec.ofNat 64 r.1, x.2 ||| y.2 ||| r.2)
  else ((match op with
    | 0 => a + b
    | 1 => if num sg a ≤ num sg b then a else b
    | 2 => if num sg a ≥ num sg b then a else b
    | 3 => a &&& b
    | 4 => a ||| b
    | _ => a ^^^ b).setWidth 64, x.2 ||| y.2)

/-- What an exclusive scan gives the first lane (R135). -/
def Sys2Proof.Claims.identityOf (op : Nat) (t : BitVec 4) : W64 :=
  let w := (shape t).1
  (match op with
    | 1 => if t = 8 ∨ t = 9 then BitVec.ofNat w (infinity (format t) false) else if signedType t then BitVec.intMax w else BitVec.allOnes w
    | 2 => if t = 8 ∨ t = 9 then BitVec.ofNat w (infinity (format t) true) else if signedType t then BitVec.intMin w else 0
    | 3 => BitVec.allOnes w
    | _ => (0 : BitVec w)).setWidth 64

/-- The types an operation of LRED and LSCAN accepts. -/
def Sys2Proof.Claims.reduceTypes (op : Nat) (t : BitVec 4) : Prop :=
  (op ≤ 2 ∧ ((1 ≤ t.toNat ∧ t.toNat ≤ 4) ∨ t = 8 ∨ t = 9)) ∨ (3 ≤ op ∧ op ≤ 5 ∧ t.toNat ≤ 4)

/-- R134, R135: LRED writes the value of the tree of R50 over the lanes that take part to each of them, with the status of its nodes; its
ARGMAX writes the largest key above the complement of its index; LSCAN gives the k-th lane the chain up to it. -/
def Obligations.CrossLaneReductionsAndScans : Prop :=
  ∀ (s : State) (c : Ctl) (f : FmtV3),
    let g := s.me
    let ls := crossLanes g f.gd
    let op := (f.m.extractLsb' 0 3).toNat
    let n := regs f.t
    let x := fun k => ((operand g f.t f.a.toNat (ls.getD k 0), 0) : W64 × BitVec 8)
    let chain := fun k => (List.range k).foldl (fun acc j => combineStep g op f.t acc (x (j + 1))) (x 0)
    let scan := fun k => if f.b.getLsbD 0 then (if k = 0 then (identityOf op f.t, 0) else chain (k - 1)) else chain k
    (Crosses g f.gd [(f.d.toNat, n)] [(f.a.toNat, n)] [] [] → reduceTypes op f.t →
      (let r := treeOf (combineStep g op f.t) 5 ls.length x
       CrossOutcome (occupying s) c f.gd (ls.flatMap (fun l => laneWrite f.t f.d.toNat l r.1)) (fun _ => r.2) (exec (.lred c f) s)) ∧
      CrossOutcome (occupying s) c f.gd (ls.zipIdx.flatMap (fun e => laneWrite f.t f.d.toNat e.1 (scan e.2).1))
        (fun l => (scan (ls.idxOf l)).2) (exec (.lscan c f) s)) ∧
    (Crosses g f.gd [(f.d.toNat, 1)] [(f.a.toNat, 1), (f.b.toNat, 1)] [] [] → op = 6 → f.t = 0xA ∨ f.t = 0xB →
      let key := fun l => fKey (format f.t) ((g.rv f.a.toNat l).extractLsb' 0 16).toNat * 2 ^ 16 +
        (0xFFFF - ((g.rv f.b.toNat l).extractLsb' 0 16).toNat)
      CrossOutcome (occupying s) c f.gd (ls.map (fun l => .v f.d.toNat l (BitVec.ofNat 32 ((ls.map key).foldl max 0)) false)) (fun _ => 0)
        (exec (.lred c f) s))

/-- The group has issued one side of a transfer, whose completion is still to come. -/
def Sys2Proof.Claims.transferIssued (s : State) (c : Ctl) : State :=
  { (s.issueHeld c).modMe (fun g => { g with pend := g.pend ++ [⟨s.nextId, none, c.setk.toNat, []⟩] }) with nextId := s.nextId + 1 }

/-- R138: an XSEND or XRECV that meets no waiting instruction of the other kind joins its slot with what it read; an XSEND that meets the
oldest waiting XRECV, or the reverse, with equal n, takes it from the slot, and the receiver is to receive in each lane of its mask the sender's
registers; with different n, RENDEZVOUS_MISMATCH is raised and nothing is paired. -/
def Obligations.TransferSlotsPairInOrder : Prop :=
  ∀ (s : State) (c : Ctl) (f : FmtV3) (slot n : Nat), slot = f.b.toNat % 16 → n = (f.m.extractLsb' 0 3).toNat + 1 →
    let g := s.me
    let b := s.cur / 512
    let queue := mget (s.blk b).xfer [] slot
    let send : XWait := ⟨s.cur, s.nextId, g.pc, n, true, f.a.toNat, 0xFFFFFFFF,
      (List.range n).flatMap (fun j => (List.range 32).map (fun l => (j, l, g.rv (f.a.toNat + j) l))), f.gd⟩
    let recv : XWait := ⟨s.cur, s.nextId, g.pc, n, false, f.d.toNat, maskBits (active g f.gd), [], f.gd⟩
    let sendOk := f.a.toNat + n ≤ g.nv ∧ (∀ l j, l < 32 → j < n → 32 * (f.a.toNat + j) + l ∉ g.badV)
    let recvOk := f.d.toNat + n ≤ g.nv ∧ crossLanes g f.gd ≠ [] ∧
      (∀ l, l < 32 → (g.am &&& ~~~g.xm).getLsbD l = true → 32 * (f.gd.toNat % 8) + l ∉ g.badP)
    (sendOk → (∀ w rest, queue = w :: rest → w.send = true) →
      exec (.xsend c f) s = .next ((transferIssued s c).modSlot b slot (· ++ [send]))) ∧
    (recvOk → (∀ w rest, queue = w :: rest → w.send = false) →
      exec (.xrecv c f) s = .next ((transferIssued s c).modSlot b slot (· ++ [recv]))) ∧
    (∀ w rest, queue = w :: rest → w.n = n → w.pend < s.nextId → (∀ x ∈ rest, x.pend ≠ w.pend ∧ x.pend ≠ s.nextId) →
      (sendOk → w.send = false → ∃ u, exec (.xsend c f) s = .next u ∧ mget (u.blk b).xfer [] slot = rest ∧
        ((∃ p ∈ (s.grp w.g).pend, p.id = w.pend) → ∃ p ∈ (u.grp w.g).pend, p.id = w.pend ∧ p.wr = (List.range n).flatMap (fun j =>
          ((List.range 32).filter (fun l => w.mask.getLsbD l)).map (fun l => .v (w.base + j) l (g.rv (f.a.toNat + j) l) false)))) ∧
      (recvOk → w.send = true → ∃ u, exec (.xrecv c f) s = .next u ∧ mget (u.blk b).xfer [] slot = rest ∧
        (u.me.pc = g.pc + 8) ∧ ((∀ p ∈ g.pend, p.id ≠ s.nextId) → ∃ p ∈ u.me.pend, p.id = s.nextId ∧ p.setk = c.setk.toNat ∧
          p.wr = w.vals.filterMap (fun v => if active g f.gd v.2.1 = true ∧ v.2.1 < 32 then some (.v (f.d.toNat + v.1) v.2.1 v.2.2 false) else none)))) ∧
    (∀ w rest, queue = w :: rest → w.n ≠ n → s.probe.on = false →
      (sendOk → w.send = false → exec (.xsend c f) s = .next (raise (faultPartner s b slot) (fi 0x17))) ∧
      (recvOk → w.send = true → exec (.xrecv c f) s = .next (raise (faultPartner s b slot) (fi 0x17))))

/-! ## Lane accesses to memory (R24, R155, R156, R170 to R174) -/

/-- A generic lane access as its word gives it: what it does, its first data register, the pair of the address, the scaled offset, the
size, the alignment and bytes checked, whether it must be single-copy atomic, and its hint, scope and ordering. -/
structure Sys2Proof.Claims.LaneMem where
  c : Ctl
  gd : BitVec 4
  store : Bool
  data : Nat
  addr : Nat
  offset : Int
  size : Nat
  check : Nat
  atomic : Bool
  hint : Nat
  scope : Nat
  ord : Nat

/-- LD and ST (format M), LDA and STL (format MO); a range acquire checks and reads the 32-byte record (R174). Ordered loads read at L2
(the model's reading, log 33). -/
def Sys2Proof.Claims.laneMemOf : Instr → Option LaneMem
  | .ld c f => some ⟨c, f.gd, false, f.data.toNat, f.addr.toNat, f.off.toInt * (2 ^ f.sz.toNat : Nat), 2 ^ f.sz.toNat, 2 ^ f.sz.toNat, false, f.hint.toNat, 0, 0⟩
  | .st c f => some ⟨c, f.gd, true, f.data.toNat, f.addr.toNat, f.off.toInt * (2 ^ f.sz.toNat : Nat), 2 ^ f.sz.toNat, 2 ^ f.sz.toNat, false, f.hint.toNat, 0, 0⟩
  | .lda c f => some ⟨c, f.gd, false, f.data.toNat, f.addr.toNat, f.off.toInt * (2 ^ f.sz.toNat : Nat), 2 ^ f.sz.toNat, 2 ^ f.sz.toNat, true, 2,
      f.scope.toNat, f.ord.toNat⟩
  | .ldaRng c f => some ⟨c, f.gd, false, f.data.toNat, f.addr.toNat, f.off.toInt * (2 ^ f.sz.toNat : Nat), 2 ^ f.sz.toNat, 32, true, 2,
      f.scope.toNat, f.ord.toNat⟩
  | .stl c f => some ⟨c, f.gd, true, f.data.toNat, f.addr.toNat, f.off.toInt * (2 ^ f.sz.toNat : Nat), 2 ^ f.sz.toNat, 2 ^ f.sz.toNat, true, 0,
      f.scope.toNat, f.ord.toNat⟩
  | _ => none

/-- The address of a lane: vA.d + sext(OFF8) * s, modulo 2^64 (R155, R170). -/
def Sys2Proof.Claims.LaneMem.va (m : LaneMem) (g : Group) (l : Nat) : Nat := (g.rvd m.addr l + BitVec.ofInt 64 m.offset).toNat
/-- The bytes a lane stores: the low bytes of its registers, in order. -/
def Sys2Proof.Claims.registerBytes (g : Group) (reg size l : Nat) : List Byte :=
  (List.range size).map (fun i => (g.rv (reg + i / 4) l).extractLsb' (8 * (i % 4)) 8)
/-- The data registers of a size: ⌈s/4⌉ (R65). -/
def Sys2Proof.Claims.wordsOf (size : Nat) : Nat := (size + 3) / 4
/-- The v-registers it names and reads. -/
def Sys2Proof.Claims.LaneMem.named (m : LaneMem) : List (Nat × Nat) := [(m.data, wordsOf m.size), (m.addr, 2)]
def Sys2Proof.Claims.LaneMem.reads (m : LaneMem) : List (Nat × Nat) := (m.addr, 2) :: (if m.store then [(m.data, wordsOf m.size)] else [])
/-- What a lane's address needs: alignment, a translation with the permission, and the atomic size of its memory (R156, R161, R172). -/
def Sys2Proof.Claims.LaneMem.Passes (m : LaneMem) (s : State) (l : Nat) (e : TlbEnt) (pa : Nat) : Prop :=
  m.va s.me l % m.check = 0 ∧ translate s s.me.ctx (s.coreOf s.cur) (if m.store then .write else .read) (m.va s.me l) = .ok (e, pa) ∧
    (m.atomic = true → m.check ≤ (if isHost pa then 8 else 32))

/-- R65, R155, R161, R163, R170, R172 to R174, R285: LD, ST, LDA and STL whose lanes all pass begin one access: the group issues, its registers
stay, and every byte of each participating lane lies in a request, which holds its addresses and bytes: a request is the part of the access
in one single-copy-atomic piece of one line, under one key and policy. Memory does not change when the access begins, except that a release drains
buffers. The premise on addresses is that translation keeps the place in a line, as every page does. -/
def Sys2Proof.Claims.laneAccessesBegin : Prop :=
  ∀ (s : State) (i : Instr) (m : LaneMem), laneMemOf i = some m →
    let g := s.me
    let ls := crossLanes g m.gd
    Crosses g m.gd m.named [] [] [] → (∀ l ∈ ls, ∀ r ∈ m.reads, ∀ j, j < r.2 → 32 * (r.1 + j) + l ∉ g.badV) →
    (∀ l ∈ ls, ∃ e pa, m.Passes s l e pa ∧ pa % 256 = m.va g l % 256) → ls ≠ [] → (m.store = true → s.isDet s.cur = false) →
    ∃ u a, exec i s = .next u ∧ u.me = { (s.issueHeld m.c).me with acc := g.acc ++ [a] } ∧
      (m.ord ≠ 2 → u.mem = s.mem) ∧ u.nextId = s.nextId + 1 ∧
      a.id = s.nextId ∧ a.setk = m.c.setk.toNat ∧ a.op = (if m.store then .store else .load) ∧ a.space = .generic ∧ a.size = m.size ∧
      a.dst = m.data ∧ a.hint = m.hint ∧ a.scope = m.scope ∧ a.ord = m.ord ∧
      (∀ l ∈ ls, ∀ j, j < m.check → ∃ r ∈ a.reqs, (∃ x ∈ r.lanes, x.lane = l) ∧ r.off ≤ j ∧ j < r.off + r.n) ∧
      (∀ r ∈ a.reqs, r.stage = .waiting ∧ r.asked = false ∧ ∀ x ∈ r.lanes, x.lane ∈ ls ∧ x.va = m.va g x.lane + r.off ∧ x.pa / 256 = r.line ∧
        r.n = min m.check (if isHost x.pa then 8 else 32) ∧ r.piece ≤ x.pa % 256 ∧
        x.pa % 256 + r.n ≤ r.piece + (if isHost x.pa then 8 else 32) ∧
        x.data = (if m.store then ((registerBytes g m.data m.size x.lane).drop r.off).take r.n else []) ∧
        ∃ e pa, m.Passes s x.lane e pa ∧ x.pa = pa + r.off ∧ e.key = r.key ∧ e.pol = r.pol) ∧
      a.reqs.Pairwise (fun r q => (r.line, r.key, r.pol, r.piece) ≠ (q.line, q.key, q.pol, q.piece))

/-- R24, R29, R156: a misaligned lane address makes the whole instruction raise MISALIGNED with the mask of such lanes and the lowest of their
addresses, and no lane's access is performed; LD and ST are meant here. -/
def Sys2Proof.Claims.misalignedLanes : Prop :=
  ∀ (s : State) (c : Ctl) (f : FmtM) (i : Instr) (m : LaneMem), i = .ld c f ∨ i = .st c f → laneMemOf i = some m →
    let ls := crossLanes s.me m.gd
    let hit := ls.filter (fun l => m.va s.me l % m.size != 0)
    (∀ r ∈ m.named, r.1 + r.2 ≤ s.me.nv) → hit ≠ [] →
    ∃ r : FaultInfo, exec i s = .next (raise s r) ∧ r.code = 0x03 ∧ r.lanes = maskBits (fun l => hit.contains l) ∧
      (∃ l ∈ hit, r.va = m.va s.me l) ∧ ∀ l ∈ hit, r.va ≤ m.va s.me l

/-- R24, R155, R156, R163, R170, R172 to R174: lane accesses begin whole, or raise MISALIGNED whole. -/
def Obligations.LaneAccessesBeginWithTheirRequests : Prop := laneAccessesBegin ∧ misalignedLanes

/-- R300, R303: in a DET context a lane store that passes is buffered with its quantum, one write for each lane, in an order of the lanes, and memory stays;
with too few commit-buffer units it raises QUANTUM_OVERFLOW. -/
def Sys2Proof.Claims.detStores : Prop :=
  ∀ (s : State) (i : Instr) (m : LaneMem), laneMemOf i = some m → m.store = true → s.isDet s.cur = true →
    let g := s.me
    let ls := crossLanes g m.gd
    let units := (m.size + 15) / 16 + 1
    Crosses g m.gd m.named [] [] [] → (∀ l ∈ ls, ∀ r ∈ m.reads, ∀ j, j < r.2 → 32 * (r.1 + j) + l ∉ g.badV) →
    (∀ l ∈ ls, ∃ e pa, m.Passes s l e pa) → ls ≠ [] →
    ((s.core (s.coreOf s.cur)).units + ls.length * units > 16384 → exec i s = .next (raise s (fi 0x1F))) ∧
    ((s.core (s.coreOf s.cur)).units + ls.length * units ≤ 16384 → ∃ u ws order, exec i s = .next u ∧ u.mem = s.mem ∧ u.l2 = s.l2 ∧
      List.Perm order ls ∧ u.me.detBuf = g.detBuf ++ ws ∧ ws.length = ls.length ∧
      (u.core (s.coreOf s.cur)).units = (s.core (s.coreOf s.cur)).units + ls.length * units ∧
      ∀ k, k < ls.length → ∃ w e, ws[k]? = some w ∧ m.Passes s (order.getD k 0) e w.pa ∧ w.pol = e.pol ∧ w.key = e.key ∧
        w.op = .write (registerBytes g m.data m.size (order.getD k 0)) ∧ w.quantum = some g.quantum ∧ w.pos = g.detCount ∧ w.eng = none)

/-! ## Scratchpad accesses (R149, R157, R170, R171) -/

/-- A lane's scratchpad place: block, rank and offset, or none where R171 raises SCRATCH_RANGE whatever the offset. -/
def Sys2Proof.Claims.scratchPlace (s : State) (cluster : Bool) (f : FmtM) (l : Nat) : Option (Nat × Nat × Int) :=
  let v := s.me.rv f.addr.toNat l
  let off : Int := f.off.toInt * (2 ^ f.sz.toNat : Nat)
  if cluster then
    (if v.extractLsb' 28 4 ≠ 0 then none
     else (cluTarget s s.cur (v.extractLsb' 24 4).toNat).map (fun t => (t.1, t.2, ((v.extractLsb' 0 24).toNat : Int) + off)))
  else some (s.cur / 512, s.me.rank, (v.toNat : Int) + off)

/-- LDS, STS, LDSC, STSC: fields, store, and whether another core of the cluster is named. -/
def Sys2Proof.Claims.scratchOf : Instr → Option (Ctl × FmtM × Bool × Bool)
  | .lds c f => some (c, f, false, false)
  | .sts c f => some (c, f, true, false)
  | .ldsc c f => some (c, f, false, true)
  | .stsc c f => some (c, f, true, true)
  | _ => none

/-- R149, R170, R171: LDS, STS, LDSC and STSC whose lanes are aligned and inside S_b begin one access, with each lane's place in the request
of its scratchpad; a lane that is aligned but outside raises SCRATCH_RANGE, and no lane is performed. -/
def Obligations.ScratchpadAccessesBegin : Prop :=
  ∀ (s : State) (i : Instr) (c : Ctl) (f : FmtM) (store cluster : Bool), scratchOf i = some (c, f, store, cluster) →
    let g := s.me
    let ls := crossLanes g f.gd
    let size := 2 ^ f.sz.toNat
    let fits := fun (l : Nat) (p : Nat × Nat × Int) => scratchPlace s cluster f l = some p ∧ 0 ≤ p.2.2 ∧
      p.2.2 + (size : Nat) ≤ (((s.blk p.1).loc p.2.1).sb : Nat)
    let aligned := fun (l : Nat) => if cluster then ((s.me.rv f.addr.toNat l).extractLsb' 0 24).toNat % size = 0 else (s.me.rv f.addr.toNat l).toNat % size = 0
    f.data.toNat + wordsOf size ≤ g.nv → f.addr.toNat + 1 ≤ g.nv → (∀ l ∈ ls, aligned l) →
    ((∃ l ∈ ls, ∀ p, ¬ fits l p) → ∃ r : FaultInfo, exec i s = .next (raise s r) ∧ r.code = 0x07) ∧
    ((∀ l, l < 32 → (g.am &&& ~~~g.xm).getLsbD l = true → 32 * (f.gd.toNat % 8) + l ∉ g.badP) →
     (∀ l ∈ ls, 32 * f.addr.toNat + l ∉ g.badV) → (store = true → ∀ l ∈ ls, ∀ j, j < wordsOf size → 32 * (f.data.toNat + j) + l ∉ g.badV) →
     (∀ l ∈ ls, ∃ p, fits l p) → ls ≠ [] →
      ∃ u a, exec i s = .next u ∧ u = { (s.issueHeld c).modMe (fun g => { g with acc := g.acc ++ [a] }) with nextId := s.nextId + 1 } ∧
        a.id = s.nextId ∧ a.setk = c.setk.toNat ∧ a.op = (if store then .store else .load) ∧ a.space = .scratch ∧ a.size = size ∧
        a.dst = f.data.toNat ∧ a.swz = f.swz.toNat ∧
        (∀ l ∈ ls, ∃ r ∈ a.reqs, ∃ x ∈ r.lanes, x.lane = l) ∧
        (∀ r ∈ a.reqs, r.stage = .waiting ∧ ∀ x ∈ r.lanes, x.lane ∈ ls ∧ (∃ p, fits x.lane p ∧ r.line = 16 * p.1 + p.2.1 ∧ (x.pa : Int) = p.2.2) ∧ r.key = x.pa / 64 ∧ r.n = size ∧
          x.data = (if store then registerBytes g f.data.toNat size x.lane else [])))

/-! ## Fences, prefetch, maintenance, waiting on memory (R175 to R178) -/

/-- R175 to R178: FENCE issues, having drained the group's buffers when it has a release part, and holds the group, or without `.t` the M- and A-class
words alone; PRF changes no register and no memory, whatever its lanes' addresses;
CINV and CWB with no lane or length 0 only issue, and CINV.l1 leaves no unsealed line of the range in the core's L1; WAITA ends at once with
the new value in gD where the word differs from the old one, and holds the group where it does not. -/
def Obligations.FencesPrefetchMaintenanceAndWaita : Prop :=
  ∀ (s : State) (c : Ctl),
    (∀ f : FmtMO, f.ord ≠ 0 →
      let p := (if f.ord.toNat ≥ 2 then wcDrainGroup s s.cur else s).issueHeld c
      let k : HoldKind := .fence f.ord.toNat f.scope.toNat (f.data.getLsbD 0)
      exec (.fence c f) s = .next (if f.data.getLsbD 0 then held p s.me.pc c.setk.toNat s.clock k
        else p.modMe (fun g => { g with fence := some ⟨k, s.clock, s.me.pc, c.setk.toNat⟩ }))) ∧
    (∀ f : FmtM, f.addr.toNat + 2 ≤ s.me.nv →
      ∃ u, exec (.prf c f) s = .next u ∧ u.mem = s.mem ∧ u.me.v = s.me.v ∧ u.me.g = s.me.g ∧ u.me.p = s.me.p ∧ u.me.q = s.me.q ∧
        u.me.pc = s.me.pc + 8) ∧
    (∀ f : FmtM, Crosses s.me f.gd [] [] [] (f.data.toNat :: [f.addr.toNat, f.addr.toNat + 1]) →
      let len := (s.me.rg f.data.toNat).toNat
      let va := (s.me.rgd f.addr.toNat + f.off.signExtend 64).toNat
      (crossLanes s.me f.gd = [] → ∀ i, i = .cinvL1 c f ∨ i = .cinvAll c f ∨ i = .cwb c f → exec i s = .next (s.issue c (some (s.clock + 1)) [])) ∧
      (crossLanes s.me f.gd ≠ [] → len = 0 → ∀ i, i = .cinvL1 c f ∨ i = .cinvAll c f ∨ i = .cwb c f → exec i s = .next (s.issue c none [])) ∧
      (crossLanes s.me f.gd ≠ [] → (∀ a, va ≤ a → a < va + len → a = va ∨ a % 4096 = 0 →
          (∃ r, translate s s.me.ctx (s.coreOf s.cur) .maint a = .ok r) ∨ ∃ x, translate s s.me.ctx (s.coreOf s.cur) .maint a = .error x ∧ x.code = 0x04) →
        (∀ i, i = .cinvL1 c f ∨ i = .cinvAll c f ∨ i = .cwb c f → ∃ u, exec i s = .next u ∧ u.me.pc = s.me.pc + 8 ∧ u.me.v = s.me.v ∧ u.me.g = s.me.g) ∧
        (∀ e pa, 0 < len → va % 256 + len ≤ 256 → translate s s.me.ctx (s.coreOf s.cur) .maint va = .ok (e, pa) → pa % 256 = va % 256 →
          fusedCores s s.cur = none → ∃ u, exec (.cinvL1 c f) s = .next u ∧ u.mem = s.mem ∧ u.l2 = s.l2 ∧
            ∀ l, mget? (u.core (s.coreOf s.cur)).l1 (pa / 256) = some l → l.sealedBy.isSome = true))) ∧
    (∀ (f : FmtM) (sp : Bool) (size addr v : Nat) (bad : Bool), size = 4 ∨ size = 8 → f.sz.toNat = (if size = 8 then 3 else 2) →
      addr = (if sp then ((s.me.rg f.addr.toNat).setWidth 64 + BitVec.ofInt 64 (f.off.toInt * size)).toNat
        else (s.me.rgd f.addr.toNat + BitVec.ofInt 64 (f.off.toInt * size)).toNat) →
      waitaRead s s.cur sp addr size = .ok (v, bad) → s.me.hold2 = none →
      (∀ r ∈ (if sp then [f.addr.toNat] else [f.addr.toNat, f.addr.toNat + 1]) ++ (if size = 8 then [f.data.toNat, f.data.toNat + 1] else [f.data.toNat]),
        r ∉ s.me.badG) →
      let i : Instr := if sp then .waitaSp c f else .waita c f
      let old := if size = 8 then (s.me.rgd f.data.toNat).toNat else (s.me.rg f.data.toNat).toNat
      (v = old →
        exec i s = .next (held (s.issueHeld c) s.me.pc c.setk.toNat s.clock (.waita sp addr size f.data.toNat old))) ∧
      (v ≠ old → s.me.hold = none → s.probe.on = false → ∃ u, exec i s = .next u ∧ u.mem = s.mem ∧ u.me.hold = none ∧ u.me.pc = s.me.pc + 8 ∧ u.me.v = s.me.v ∧
        (size = 4 → v < 2 ^ 32 → (u.me.rg f.data.toNat).toNat = v) ∧ (size = 8 → v < 2 ^ 64 → (u.me.rgd f.data.toNat).toNat = v) ∧
        ∀ r, r ≠ f.data.toNat → r ≠ f.data.toNat + 1 → u.me.rg r = s.me.rg r))

/-! ## Performing accesses (R160, R165, R169) -/

/-- One byte of a COH page as the home and the copies give it under a key. -/
def Sys2Proof.Claims.coherentByte (s : State) (key a : Nat) : Byte := (cohRead s a 1 key).1.getD 0 0

/-- R169, R170: MEM_ACCESS_COMPLETE performs a waiting store of one lane to a COH line whose home is the issuing die and that has no other copy:
the bytes stored read back, every other byte of memory reads as before, and with its one request the access is over and its counter falls. -/
def Sys2Proof.Claims.homeStore : Prop :=
  ∀ (s : State) (g aid : Nat) (a : Access) (r : Req) (x : LaneAcc),
    (s.grp g).acc = [a] → a.id = aid → a.op = .store → a.space = .generic → a.hint ≤ 2 → a.reqs = [r] → r.stage = .waiting → r.pol = 0 →
    r.lanes = [x] → x.pa / 256 = r.line → x.pa % 256 + x.data.length ≤ 256 → x.data.length = a.size → s.dieOf g = homeDie x.pa →
    mget? s.dir r.line = none → mget? s.busy r.line = none → answersOf s r.line = [] → (∀ l, mget? s.l2 (atDie (homeDie x.pa) r.line) = some l → l.key = r.key) → (s.grp g).hold = none →
    (∀ b ∈ (s.part (s.grp g).part).wc, b.g = g → b.line ≠ r.line) →
    ∃ u, exec (.memAccessComplete g aid 0) s = .next u ∧ (u.grp g).acc = [] ∧
      (∀ j, j < x.data.length → coherentByte u r.key (x.pa + j) = x.data.getD j 0) ∧
      (∀ b, (b < x.pa ∨ x.pa + x.data.length ≤ b) → b / 256 = r.line → coherentByte u r.key b = coherentByte s r.key b) ∧
      (∀ b k, b / 256 ≠ r.line → mget? s.dir (b / 256) = none → (b < 2 ^ 50 ∧ x.pa < 2 ^ 50) → coherentByte u k b = coherentByte s k b) ∧
      u.mem = s.mem ∧ (u.grp g).v = (s.grp g).v ∧ (u.grp g).g = (s.grp g).g

/-- R165, R170: LOAD_FILL_RETURN writes to the data registers of each lane the bytes that the performed request read, from its place in the access
on: whole registers, a narrow load zero-extended; no other register of the group and no byte of memory changes. -/
def Sys2Proof.Claims.loadReturn : Prop :=
  ∀ (s : State) (g aid : Nat) (a : Access) (r : Req),
    (s.grp g).acc = [a] → a.id = aid → a.op = .load → a.space = .generic → a.ord ≠ 3 → a.reqs = [r] → r.stage = .performed → r.bad = 0 →
    r.lanes.Pairwise (fun x y => x.lane ≠ y.lane) → (∀ x ∈ r.lanes, x.lane < 32) → (s.grp g).hold = none → a.size = 1 ∨ a.size = 2 ∨ a.size % 4 = 0 → r.off % 4 = 0 →
    let n := min r.n (a.size - r.off)
    let base := a.dst + r.off / 4
    ∃ u, exec (.loadFillReturn g aid 0) s = .next u ∧ u.mem = s.mem ∧ u.l2 = s.l2 ∧ (u.grp g).acc = [] ∧ (u.grp g).g = (s.grp g).g ∧
      (∀ x ∈ r.lanes, ∀ j, j < (n + 3) / 4 → ((u.grp g).rv (base + j) x.lane).toNat =
        (r.data.extractLsb' (8 * (x.pa % 256 + 4 * j)) (8 * min 4 (n - 4 * j))).toNat) ∧
      (∀ k l, l < 32 → ((∀ x ∈ r.lanes, x.lane ≠ l) ∨ k < base ∨ base + (n + 3) / 4 ≤ k) → (u.grp g).rv k l = (s.grp g).rv k l)

/-- R161, R331: a write to memory itself (a UC or WC page) changes exactly the bytes written, as memory reads under the key it was written with,
anywhere in the same package. -/
def Sys2Proof.Claims.uncachedWrite : Prop :=
  ∀ (s : State) (pol pa key a : Nat) (bytes : List Byte), pol ≠ 0 → pkgOfPa a = pkgOfPa pa → pa / 2 ^ 43 = (pa + bytes.length) / 2 ^ 43 →
    dramByte (physWrite s pol pa key bytes) a key = if pa ≤ a ∧ a < pa + bytes.length then bytes.getD (a - pa) 0 else dramByte s a key

/-- R161, R169, R170, R331: a store performed at its home, and a write to memory itself, change the bytes they store and no other; a load's return writes its data
registers and no other. -/
def Obligations.StoresAndLoadsArePerformed : Prop := homeStore ∧ uncachedWrite ∧ loadReturn

/-- The bits that a swizzle changes and how far above them stand the bits they are XORed with (R157): lowest bit, number of bits, distance. -/
def Sys2Proof.Claims.swizzleTable : List (Nat × Nat × Nat) := [(0, 0, 0), (4, 1, 4), (4, 2, 4), (4, 3, 4), (4, 4, 4), (4, 3, 3), (4, 2, 2), (2, 6, 6)]

/-- R158: with y the swizzled value of x, a byte is stored at y when y < S_b and at x otherwise, S_b being the block's scratchpad size; the swizzle is its own inverse and the
rule maps 0 to S_b - 1 one to one onto themselves; a read with another SWZ takes the place that this one selects; nothing at or above S_b, where the
spill areas lie, is reached. -/
def Obligations.SwizzlePlacesEveryByteBelowSb : Prop :=
  ∀ (n lo w k : Nat), swizzleTable[n]? = some (lo, w, k) →
    (∀ x i, (swizzle n x).testBit i = (x.testBit i ^^ (decide (lo ≤ i) && decide (i < lo + w) && x.testBit (i + k)))) ∧
    (∀ x, swizzle n (swizzle n x) = x) ∧
    (∀ (l : Local) (x : Nat) (b : Byte), x < l.sb → let y := swizzle n x
      let place := if y < l.sb then y else x
      place < l.sb ∧ cget (spPut l n x [b]).sp place = b ∧ (∀ z, z ≠ place → cget (spPut l n x [b]).sp z = cget l.sp z) ∧ (spPut l n x [b]).sb = l.sb) ∧
    (∀ (l : Local) (x : Nat), x < l.sb → (spRead l n x 1).1 = [cget l.sp (if swizzle n x < l.sb then swizzle n x else x)]) ∧
    ∀ (sb z : Nat), z < sb → ∃ x, x < sb ∧ spPlace sb n x = z ∧ ∀ v, v < sb → spPlace sb n v = z → v = x

/-! ## Barriers of the block and of the cluster (R185 to R189, R235) -/

/-- A report point with no trap-pending bit ends the protected part of a handler (R25, R26). -/
def Sys2Proof.Claims.passReport (s : State) : State := s.modMe (fun g => { g with hadHandler := g.inHandler, inHandler := false })
/-- The fault of a report point (R25). -/
def Sys2Proof.Claims.pending (g : Group) : FaultInfo := ⟨if g.ddp = 0 then 0x0A else 0x08, 0, 0, g.trap, 0⟩
/-- The threads of the block, and of the cluster (R186, R235). -/
def Sys2Proof.Claims.threads (s : State) (cluster : Bool) : Nat :=
  32 * (s.kernelOf s.cur).groups * (if cluster then ((s.cluOf s.cur).elim 1 (·.blocks.length)) else 1)
/-- NBARV, NBSYNC, CBARV and CBSYNC: fields, whether of the cluster, whether it waits. -/
def Sys2Proof.Claims.arrival : Instr → Option (Ctl × FmtM × Bool × Bool)
  | .nbarv c f => some (c, f, false, false)
  | .nbsync c f => some (c, f, false, true)
  | .cbarv c f => some (c, f, true, false)
  | .cbsync c f => some (c, f, true, true)
  | _ => none

/-- A barrier of the group's block or cluster: ARR, EXP, NPH. -/
def Sys2Proof.Claims.barrier (s : State) (g : Nat) (cluster : Bool) (id : Nat) : NBar :=
  if cluster then mget (s.clu ((s.blk (g / 512)).cluster.getD 0)).cb {} id else mget (s.blk (g / 512)).nb {} id

/-- R25, R29, R186, R188, R189, R235: the four arriving instructions check their count against 32 and the threads of the block or cluster; with
trap-pending bits, no earlier access outstanding and a count that fits EXP, they report them; otherwise the group's write-combining buffers drain
and the group is held until its arrival is counted. -/
def Sys2Proof.Claims.arrivalsHold : Prop :=
  ∀ (s : State) (i : Instr) (c : Ctl) (f : FmtM) (cluster sync : Bool), arrival i = some (c, f, cluster, sync) →
    (cluster = true → s.cluOf s.cur ≠ none) → (f.hint = 1 ∨ f.data.toNat ∉ s.me.badG) →
    let n := if f.hint = 1 then threads s cluster else (s.me.rg f.data.toNat).toNat
    let exp := (barrier s s.cur cluster (f.off.toNat % 16)).exp
    let later : Prop := s.me.acc ≠ [] ∨ (exp ≠ 0 ∧ n ≠ exp)
    (n % 32 ≠ 0 ∨ n < 32 ∨ n > threads s cluster → exec i s = .next (raise s (fi 0x20))) ∧
    (n % 32 = 0 → 32 ≤ n → n ≤ threads s cluster →
      (s.me.trap ≠ 0 → ¬ later → exec i s = .next (raise s (pending s.me))) ∧
      (s.me.trap = 0 ∨ later → exec i s = .next (held ((wcDrainGroup (passReport s) s.cur).issueHeld c) s.me.pc c.setk.toNat s.clock
        (.arrive cluster (f.off.toNat % 16) n sync))))

/-- R25, R29, R186 to R189: when its earlier accesses are complete and their write-combining buffers have drained, a waiting arrival is counted: a
count that differs from EXP makes BAR_COUNT at the waiting instruction and leaves the barrier; trap-pending bits are reported there; otherwise
ARR grows by 32 and EXP is the count, or, when ARR reaches it, NPH is inverted and ARR and EXP are 0. NBARV's group goes on; a group of NBSYNC
that did not complete the phase waits for it; every group of the block that waits for that parity goes on when it completes. -/
def Obligations.BarrierPhasesComplete : Prop :=
  ∀ (s : State) (g id count : Nat) (cluster sync : Bool) (h : Hold),
    (s.grp g).hold = some h → (s.grp g).hold2 = none → h.kind = .arrive cluster id count sync → (s.grp g).acc = [] →
    ((s.blk (g / 512)).cluster = none → cluster = false) →
    let b := barrier s g cluster id
    let p := wcDrainGroup s g
    let t := pollArrive s g cluster id count sync
    (b.exp ≠ 0 → count ≠ b.exp → t = faultHeld p g (fi 0x20)) ∧
    (b.exp = 0 ∨ count = b.exp → (s.grp g).trap ≠ 0 → t = faultHeld p g (pending (p.grp g))) ∧
    (b.exp = 0 ∨ count = b.exp → (s.grp g).trap = 0 →
      t.mem = p.mem ∧
      (b.arr + 32 ≠ count → barrier t g cluster id = ⟨b.arr + 32, count, b.nph⟩ ∧
        (sync = true → ∃ k, (t.grp g).hold = some k ∧ k.kind = .parity cluster id b.nph true ∧ k.pc = h.pc)) ∧
      (b.arr + 32 = count → barrier t g cluster id = ⟨0, 0, !b.nph⟩ ∧ (t.grp g).hold = none ∧
        (cluster = false → ∀ w k y, mget? s.groups w = some k → w / 512 = g / 512 → w ≠ g → k.hold = some y → k.hold2 = none →
          (∃ z, y.kind = .parity false id b.nph z) → (t.grp w).hold = none)) ∧
      (sync = false → (t.grp g).hold = none))

/-- R187 to R189: NBWAIT ends at once, with an acquire at BLK scope, when NPH differs from its parity, and holds the group otherwise. -/
def Sys2Proof.Claims.waitsForParity : Prop :=
  ∀ (s : State) (c : Ctl) (f : FmtM),
    let id := f.off.toNat % 16
    let par := f.off.getLsbD 4
    let h := held (s.issueHeld c) s.me.pc c.setk.toNat s.clock (.parity false id par false)
    s.me.hold2 = none →
    ((barrier s s.cur false id).nph = par → exec (.nbwait c f) s = .next h) ∧
    ((barrier s s.cur false id).nph ≠ par → s.me.hold = none → ∃ u, exec (.nbwait c f) s = .next u ∧ u = endHold (acquire h s.cur 1) s.cur ∧ u.me.hold = none ∧
      u.me.pc = s.me.pc + 8 ∧ u.mem = s.mem ∧ u.me.v = s.me.v ∧ u.me.g = s.me.g)

/-- R25, R186 to R189, R235: the arriving instructions hold the group until their arrival is counted or stop as the rules say, and NBWAIT waits
for the other parity. -/
def Obligations.BarrierInstructions : Prop := arrivalsHold ∧ waitsForParity

/-! ## Transaction barriers (R190 to R198) -/

/-- The word at an offset of a scratchpad. -/
def Sys2Proof.Claims.tbWord (l : Local) (off : Nat) : W64 := BitVec.ofNat 64 (ofBytes (cread l.sp off 8))
/-- Complete(w, code): PH inverted, ER and FC from the code, AP := AC, BP := 0 (R190, R192). -/
def Sys2Proof.Claims.tbCompleted (w : W64) (code : BitVec 6) : W64 :=
  (BitVec.ofBool (!w.getLsbD 63) ++ BitVec.ofBool (code != 0) ++ code ++ w.extractLsb' 8 12 ++ (0 : BitVec 24) ++ w.extractLsb' 8 12 ++ 0xB7#8).setWidth 64
/-- Update(w, da, db): the word, and whether it completed a phase and with which code (R192). -/
def Sys2Proof.Claims.tbUpdated (w : W64) (da db : Int) : W64 × Option (BitVec 6) :=
  let a : Int := ((w.extractLsb' 44 12).toNat : Int) - da
  let b : Int := (w.extractLsb' 20 24).toInt + db
  if a < 0 ∨ b < -8388608 ∨ b > 8388607 ∨ (a = 0 ∧ b < 0) then (tbCompleted w 0x0E, some 0x0E)
  else if a = 0 ∧ b = 0 then (tbCompleted w 0, some 0)
  else ((w.extractLsb' 56 8 ++ BitVec.ofInt 12 a ++ BitVec.ofInt 24 b ++ w.extractLsb' 8 12 ++ 0xB7#8).setWidth 64, none)
/-- The scratchpad of the current group. -/
def Sys2Proof.Claims.myScratch (s : State) : Local := (s.blk (s.cur / 512)).loc s.me.rank
/-- The offset gA + 8 * sext(OFF8) (R196), and the condition that it passes the checks. -/
def Sys2Proof.Claims.tbOffset (s : State) (f : FmtM) : Int := ((s.me.rg f.addr.toNat).toNat : Int) + 8 * f.off.toInt
structure Sys2Proof.Claims.TbGood (s : State) (f : FmtM) (off : Nat) : Prop where
  offset : tbOffset s f = off
  aligned : off % 8 = 0
  inside : off + 8 ≤ (myScratch s).sb
  clean : f.addr.toNat ∉ s.me.badG
/-- Every group of the block on this rank that waits on the word for the old parity goes on, with the code in gD and q6 (R192, R198): at once, or
when the updating instruction stands in a chain in the next cycle. -/
def Sys2Proof.Claims.TbReleased (s u : State) (off : Nat) (old : Bool) (code : BitVec 6) : Prop :=
  s.probe.on = false →
  ∀ w k y d, mget? s.groups w = some k → w ≠ s.cur → w / 512 = s.cur / 512 → k.rank = s.me.rank → k.hold = some y → k.hold2 = none →
    y.kind = .tbWait off old d →
    (u.grp w).hold = none ∧ (u.grp w).rg d = code.setWidth 32 ∧ (u.grp w).rq 6 = (code != 0)

/-- R190 to R192, R194, R196, R197: TBINIT, TBEXP and TBINV complete: TBINIT writes AP = AC = gC and makes the word LIVE, a LIVE word first
completing with BAR_REINIT, and clears the poison of its 8 bytes; TBEXP applies Update(w, 0, gB) to a LIVE word and otherwise gives the group a status; TBINV completes a LIVE word
with BAR_INVALID and makes it INVAL, and leaves a word that is not LIVE. A gC above 4,095 raises BAR_COUNT. -/
def Obligations.TransactionBarrierSetup : Prop :=
  ∀ (s : State) (c : Ctl) (f : FmtM) (off : Nat), TbGood s f off → s.me.hold = none →
    let l := myScratch s
    let w := tbWord l off
    let n := (s.me.rg f.data.toNat).toNat
    let tag := mget l.tags 0 (off / 8)
    (f.data.toNat ∉ s.me.badG →
      (n > 4095 → exec (.tbinit c f) s = .next (raise s (fi 0x20))) ∧
      (n ≤ 4095 → ∃ u, exec (.tbinit c f) s = .next u ∧ u.mem = s.mem ∧ mget (myScratch u).tags 0 (off / 8) = 1 ∧
        off / 4 ∉ (myScratch u).spBad ∧ off / 4 + 1 ∉ (myScratch u).spBad ∧
        tbWord (myScratch u) off = BitVec.ofNat 64 (n * 2 ^ 44 + n * 2 ^ 8 + 0xB7) ∧ (tag = 1 → TbReleased s u off w.msb 0x0B)) ∧
      (tag = 1 → ∃ u, exec (.tbexp c f) s = .next u ∧ u.mem = s.mem ∧ tbWord (myScratch u) off = (tbUpdated w 0 n).1 ∧
        mget (myScratch u).tags 0 (off / 8) = 1 ∧ ∀ code, (tbUpdated w 0 n).2 = some code → TbReleased s u off w.msb code) ∧
      (tag ≠ 1 → exec (.tbexp c f) s = .next ((s.modMe (fun g => { g with
        fstat := if tag = 3 then 0x4D else 0x4C })).variable c []))) ∧
    (tag = 1 → ∃ u, exec (.tbinv c f) s = .next u ∧ u.mem = s.mem ∧ mget (myScratch u).tags 0 (off / 8) = 2 ∧
      tbWord (myScratch u) off = tbCompleted w 0x0C ∧ TbReleased s u off w.msb 0x0C) ∧
    (tag ≠ 1 → exec (.tbinv c f) s = .next (s.variable c []))

/-- R25, R56, R188, R196 to R198: TBARV drains the group's buffers and holds the group until its update, which is Update(w, 1, n) on a LIVE word
when no earlier access is outstanding; TBWAIT on a word that is not LIVE gives 0x0D or 0x0C and q6, on a LIVE word whose PH differs from its
parity the code of an error phase or 0, and otherwise holds the group. -/
def Obligations.TransactionBarrierArriveAndWait : Prop :=
  ∀ (s : State) (c : Ctl) (f : FmtM) (off : Nat), TbGood s f off → s.me.hold = none → s.me.hold2 = none →
    let l := myScratch s
    let w := tbWord l off
    let tag := mget l.tags 0 (off / 8)
    let n := if f.hint = 1 then (s.me.rg f.data.toNat).toNat else 0
    (f.hint = 1 → f.data.toNat ∉ s.me.badG) →
    (s.me.trap ≠ 0 → exec (.tbarv c f) s = .next (raise s (pending s.me))) ∧
    (s.me.trap = 0 → ∃ u, exec (.tbarv c f) s = .next u ∧
      u = held ((wcDrainGroup (passReport s) s.cur).issueHeld c) s.me.pc c.setk.toNat s.clock (.tbArrive off n) ∧
      (s.me.acc = [] → tag = 1 → tbWord (myScratch (pollTbArrive u s.cur off n)) off = (tbUpdated w 1 n).1 ∧
        (pollTbArrive u s.cur off n).me.hold = none)) ∧
    (tag ≠ 1 → ∃ u, exec (.tbwait c f) s = .next u ∧ u.me.hold = none ∧ u.mem = s.mem ∧ u.blocks = s.blocks ∧
      (s.probe.on = false → u.me.rg f.data.toNat = (if tag = 3 then 0x0D else 0x0C) ∧ u.me.rq 6 = true)) ∧
    (tag = 1 → w.getLsbD 63 ≠ f.hint.getLsbD 0 → ∃ u, exec (.tbwait c f) s = .next u ∧ u.me.hold = none ∧ u.mem = s.mem ∧ u.blocks = s.blocks ∧
      (s.probe.on = false → u.me.rg f.data.toNat = (if w.getLsbD 62 then (w.extractLsb' 56 6).setWidth 32 else 0))) ∧
    (tag = 1 → w.getLsbD 63 = f.hint.getLsbD 0 → exec (.tbwait c f) s = .next (held (s.issueHeld c) s.me.pc c.setk.toNat s.clock
      (.tbWait off (f.hint.getLsbD 0) f.data.toNat)))

/-! ## Phase counters (R236 to R238) -/

/-- A rank directly left, right, above or below another in the cluster (R238). -/
def Sys2Proof.Claims.nextTo (k : Cluster) (rank r : Nat) : Prop :=
  r < k.cores.length ∧ ((r / k.w = rank / k.w ∧ (r = rank + 1 ∨ r + 1 = rank)) ∨ r = rank + k.w ∨ r + k.w = rank)
/-- PHWAIT is over: the count of every core it looks at has reached the core's own, or the core is retired. -/
def Sys2Proof.Claims.phaseReached (s : State) (k : Cluster) (rank : Nat) (all : Bool) : Prop :=
  ∀ r, (r < k.cores.length ∧ all = true) ∨ nextTo k rank r → liveOnRank s k r = 0 ∨ (mget k.phn 0 rank - mget k.phn 0 r).toInt ≤ 0
/-- PHWAIT has ended with the core's own count for gD, and nothing else of the machine's memory and clusters has changed. -/
def Sys2Proof.Claims.phaseGiven (s u : State) (d : Nat) (own : W32) : Prop :=
  u.me.hold = none ∧ (s.probe.on = false → u.me.rg d = own) ∧ u.mem = s.mem ∧ u.clusters = s.clusters ∧ u.me.pc = s.me.pc + 8

/-- R25, R188, R227, R236 to R238: outside a cluster PHADV and PHWAIT are illegal. PHADV issues and holds the group until it has arrived and its
neighbours are near enough; with no earlier access outstanding it counts its arrival, which advances its core when every live group of the
core has arrived, and goes on when no neighbour that lives is more than LA behind. PHWAIT ends at once, with the core's own count in gD, when every
core it looks at is retired or has reached that count, and otherwise holds the group. -/
def Obligations.PhaseCountersHoldAndRelease : Prop :=
  ∀ (s : State) (c : Ctl) (f : FmtM),
    (s.cluOf s.cur = none → exec (.phadv c f) s = .next (raise s (fi 0x01)) ∧ exec (.phwaitNbr c f) s = .next (raise s (fi 0x01)) ∧
      exec (.phwaitAll c f) s = .next (raise s (fi 0x01))) ∧
    (∀ k, s.cluOf s.cur = some k → s.me.hold = none → s.me.hold2 = none →
      let rank := cluRank s s.cur
      let own := mget k.phn 0 rank
      let la := f.off.toNat % 16
      (s.me.trap ≠ 0 → exec (.phadv c f) s = .next (raise s (pending s.me))) ∧
      (s.me.trap = 0 → exec (.phadv c f) s = .next (held ((wcDrainGroup (passReport s) s.cur).issueHeld c) s.me.pc c.setk.toNat s.clock (.phArrive la))) ∧
      (rank < k.cores.length → k.cores.length = k.w * k.h → 0 < k.w →
        (s.me.trap = 0 → s.me.acc = [] →
          let p := own + (if mget k.parr 0 rank + 1 ≥ liveOnRank s k rank then 1 else 0)
          (∀ r, nextTo k rank r → liveOnRank s k r = 0 ∨ (p - mget k.phn 0 r).toInt ≤ la) →
          ∃ t, exec (.phadv c f) s = .next t ∧ (pollPhArrive t s.cur la).me.hold = none ∧
            ∃ x, (pollPhArrive t s.cur la).cluOf s.cur = some x ∧ mget x.phn 0 rank = p) ∧
        (phaseReached s k rank false → ∃ u, exec (.phwaitNbr c f) s = .next u ∧ phaseGiven s u f.data.toNat own) ∧
        (phaseReached s k rank true → ∃ u, exec (.phwaitAll c f) s = .next u ∧ phaseGiven s u f.data.toNat own) ∧
        (¬ phaseReached s k rank false → exec (.phwaitNbr c f) s = .next (held (s.issueHeld c) s.me.pc c.setk.toNat s.clock (.phWait false f.data.toNat))) ∧
        (¬ phaseReached s k rank true → exec (.phwaitAll c f) s = .next (held (s.issueHeld c) s.me.pc c.setk.toNat s.clock (.phWait true f.data.toNat)))))

/-! ## Sealed regions, dropped lines and replication hints (R278, R280 to R283) -/

/-- The address gA.d + sext(OFF8) of a die instruction (R282). -/
def Sys2Proof.Claims.dieVa (s : State) (f : FmtM) : Nat := (s.me.rgd f.addr.toNat + f.off.signExtend 64).toNat

/-- R281 to R283: SEAL drains its group's buffers and holds the group; when no earlier access is left it gives status 3, 4, 2, 1 or 0 in that
order and adds a SEALED entry exactly on 0, which waits until no write of the context into the range is outstanding. REUSE of a base without an entry gives 1; with one it makes the entry DRAINING and holds the group.
DROP leaves memory and every register as they are, and no line of a one-page range within one line stays in the core's L1. -/
def Sys2Proof.Claims.sealReuseDrop : Prop :=
  ∀ (s : State) (c : Ctl) (f : FmtM), (∀ r ∈ [f.addr.toNat, f.addr.toNat + 1, f.data.toNat, f.data.toNat + 1], r ∉ s.me.badG) →
    let base := dieVa s f
    let len := (s.me.rgd f.data.toNat).toNat
    let d := f.data.toNat
    (∃ u, exec (.sealv c f) s = .next u ∧
      u = held ((wcDrainGroup s s.cur).issueHeld c) s.me.pc c.setk.toNat s.clock (.seal d base len) ∧
      (s.me.acc = [] → s.me.hold = none → s.me.hold2 = none → s.probe.on = false →
        ∀ (p : State) (st : Nat), p = wcDrainGroup u s.cur → st = (if base % 65536 ≠ 0 ∨ len % 65536 ≠ 0 ∨ len = 0 ∨ len > 2 ^ 33 then 3
          else if pageMissing p s.cur base len then 4
          else if ∃ e ∈ (u.ctxOf s.cur).seals, base < e.base + e.len ∧ e.base < base + len then 2
          else if (u.ctxOf s.cur).seals.length ≥ 64 then 1 else 0) →
        let t := pollSeal u s.cur d base len
        (st = 0 → writesOut p s.me.ctx base len = true → t = p) ∧
        (st ≠ 0 ∨ writesOut p s.me.ctx base len = false →
        t.me.rg d = BitVec.ofNat 32 st ∧ t.me.rg (d + 1) = 0 ∧ t.me.hold = none ∧ (st ≠ 0 → t.mem = p.mem) ∧
        (t.ctxOf s.cur).seals = (u.ctxOf s.cur).seals ++ (if st = 0 then [⟨base, len, false⟩] else [])))) ∧
    ((∀ e ∈ (s.ctxOf s.cur).seals, e.base ≠ base) → exec (.reuse c f) s = .next (s.issue c none [.g d 1 false])) ∧
    ((∃ e ∈ (s.ctxOf s.cur).seals, e.base = base) → ∃ u, exec (.reuse c f) s = .next u ∧ u.me = (held (s.issueHeld c) s.me.pc c.setk.toNat s.clock
        (.reuse base d)).me ∧ u.mem = s.mem ∧
      (u.ctxOf s.cur).seals = (s.ctxOf s.cur).seals.map (fun e => if e.base = base then { e with draining := true } else e)) ∧
    (∃ u, exec (.drop c f) s = .next u ∧ u.mem = s.mem ∧ u.l2 = s.l2 ∧ u.me.pc = s.me.pc + 8 ∧ u.me.v = s.me.v ∧ u.me.g = s.me.g ∧
      ∀ e pa, 0 < (s.me.rg d).toNat → base % 256 + (s.me.rg d).toNat ≤ 256 → translate s s.me.ctx (s.coreOf s.cur) .maint base = .ok (e, pa) →
        pa % 256 = base % 256 → fusedCores s s.cur = none → mget? (u.core (s.coreOf s.cur)).l1 (pa / 256) = none)

/-- R278, R280, R283: RDHINT.floor and .ceil give 3 off COH HBM, 2 for a value above 7 or crossing limits, 1 where a pin is needed and 1,024 are
taken, and otherwise set the limit and clamp RD; .clear sets 0 and 7 and leaves RD; .query gives 2 for a value above 7 and otherwise latches the
region's values in sr.rdcnt. A region whose set of the table is full of pinned ones gets no entry, and a limit for it the status 1: the model's
choice (log 81). -/
def Sys2Proof.Claims.replicationHints : Prop :=
  ∀ (s : State) (c : Ctl) (f : FmtM), (∀ r ∈ [f.addr.toNat, f.addr.toNat + 1], r ∉ s.me.badG) →
    let d := f.data.toNat
    let v := (s.me.rg d).toNat
    let at' := regionAt s (dieVa s f)
    let old := fun (x : Nat × Nat × Nat) => (mget? (s.die x.1).regions x.2.1).getD { rd := x.2.2 }
    let full := fun (x : Nat × Nat × Nat) => 1024 ≤ ((s.die x.1).regions.filter (fun e => e.2.floor != 0 || e.2.ceil != 7)).length
    let free := fun (x : Nat × Nat × Nat) => (old x).floor = 0 ∧ (old x).ceil = 7
    let set := fun (x : Nat × Nat × Nat) => (s.die x.1).regions.filter (fun e => e.1 / 2 % 256 == x.2.1 / 2 % 256)
    let room := fun (x : Nat × Nat × Nat) => mget? (s.die x.1).regions x.2.1 ≠ none ∨ (set x).length < 16 ∨ ∃ e ∈ set x, e.2.floor = 0 ∧ e.2.ceil = 7
    let after := fun (u : State) (x : Nat × Nat × Nat) => mget? (u.die x.1).regions x.2.1
    (d ∉ s.me.badG →
      (at' = none → ∀ i, i = .rdhintFloor c f ∨ i = .rdhintCeil c f → exec i s = .next (s.issue c none [.g d 3 false])) ∧
      (∀ x, at' = some x →
        (v > 7 ∨ v > (old x).ceil → exec (.rdhintFloor c f) s = .next (s.issue c none [.g d 2 false])) ∧
        (v > 7 ∨ (old x).floor > v → exec (.rdhintCeil c f) s = .next (s.issue c none [.g d 2 false])) ∧
        (v ≤ 7 → v ≤ (old x).ceil → (v ≠ 0 ∨ (old x).ceil ≠ 7) → free x → full x →
          exec (.rdhintFloor c f) s = .next (s.issue c none [.g d 1 false])) ∧
        (v ≤ 7 → (old x).floor ≤ v → ((old x).floor ≠ 0 ∨ v ≠ 7) → free x → full x →
          exec (.rdhintCeil c f) s = .next (s.issue c none [.g d 1 false])) ∧
        (v ≤ 7 → v ≤ (old x).ceil → (v = 0 ∧ (old x).ceil = 7) ∨ ¬ free x ∨ ¬ full x → ¬ room x →
          exec (.rdhintFloor c f) s = .next (s.issue c none [.g d 1 false])) ∧
        (v ≤ 7 → v ≤ (old x).ceil → (v = 0 ∧ (old x).ceil = 7) ∨ ¬ free x ∨ ¬ full x → room x → ∃ u, exec (.rdhintFloor c f) s = .next u ∧
          u.me = (s.issue c none [.g d 0 false]).me ∧ u.mem = s.mem ∧
          after u x = some { old x with floor := v, used := s.clock, rd := min (old x).ceil (max v (old x).rd) }) ∧
        (v ≤ 7 → (old x).floor ≤ v → ((old x).floor = 0 ∧ v = 7) ∨ ¬ free x ∨ ¬ full x → ¬ room x →
          exec (.rdhintCeil c f) s = .next (s.issue c none [.g d 1 false])) ∧
        (v ≤ 7 → (old x).floor ≤ v → ((old x).floor = 0 ∧ v = 7) ∨ ¬ free x ∨ ¬ full x → room x → ∃ u, exec (.rdhintCeil c f) s = .next u ∧
          u.me = (s.issue c none [.g d 0 false]).me ∧ u.mem = s.mem ∧
          after u x = some { old x with ceil := v, used := s.clock, rd := min v (max (old x).floor (old x).rd) }))) ∧
    (at' = none → exec (.rdhintClear c f) s = .next (s.issue c none []) ∧
      (d ∉ s.me.badG → exec (.rdhintQuery c f) s = .next (s.issue c none [.g d 3 false]))) ∧
    (∀ x, at' = some x → ∃ u, exec (.rdhintClear c f) s = .next u ∧ u.me = (s.issue c none []).me ∧ u.mem = s.mem ∧
      (room x → after u x = some { old x with floor := 0, ceil := 7, used := s.clock })) ∧
    (∀ x, at' = some x → d ∉ s.me.badG → v > 7 → exec (.rdhintQuery c f) s = .next (s.issue c none [.g d 2 false])) ∧
    (∀ x, at' = some x → d ∉ s.me.badG → v ≤ 7 → ∃ q,
      exec (.rdhintQuery c f) s = .next ((s.modMe (fun g => { g with rdcnt := q })).issue c none [.g d 0 false]) ∧
      (mget? (s.die x.1).regions x.2.1 = none → q = 0) ∧
      (∀ r, mget? (s.die x.1).regions x.2.1 = some r → r.rd < 8 → r.floor < 8 → r.ceil < 8 → r.lastRr < 65536 → r.lastNa < 65536 → r.lastWr < 65536 →
        q = (BitVec.ofNat 16 r.lastWr ++ BitVec.ofNat 16 r.lastNa ++ BitVec.ofNat 16 r.lastRr ++ 0#5 ++ 1#1 ++
          BitVec.ofBool (r.floor != 0 || r.ceil != 7) ++ BitVec.ofNat 3 r.ceil ++ BitVec.ofNat 3 r.floor ++ BitVec.ofNat 3 r.rd)))

/-- R278, R280 to R283: the die instructions: SEAL, REUSE, DROP and the four RDHINT forms. -/
def Obligations.DieInstructions : Prop := sealReuseDrop ∧ replicationHints

/-! ## Atomics (R306 to R312) -/

/-- ATOM, ATOMF, CAS, CAS.xchg and RED as their words give them: control, fields, scratchpad, floating, the access operation, the registers of
B, and whether UC and WC host memory accept it (R306, R307, R310). -/
structure Sys2Proof.Claims.AtomOp where
  c : Ctl
  f : FmtX
  sp : Bool
  op : MemOp
  returns : Bool
  nb : Nat
  simple : Bool

/-- Bytes and registers of the width. -/
def Sys2Proof.Claims.wideBytes (f : FmtX) : Nat := if f.wide = 1 then 8 else 4
def Sys2Proof.Claims.atomOpOf : Instr → Option AtomOp
  | .atom c f => some ⟨c, f, f.aop.getLsbD 3, .atom false (f.aop.toNat % 8) true, true, wideBytes f / 4, f.aop = 0⟩
  | .atomf c f => some ⟨c, f, f.aop.getLsbD 3, .atom true (f.aop.toNat % 8) true, true, wideBytes f / 4, false⟩
  | .cas c f => some ⟨c, f, f.aop.getLsbD 3, .atom false 8 true, true, wideBytes f / 2, true⟩
  | .casXchg c f => some ⟨c, f, f.aop.getLsbD 3, .atom false 9 true, true, wideBytes f / 4, true⟩
  | .red c f => some ⟨c, f, f.d.getLsbD 0, .atom (f.aop.getLsbD 3) (f.aop.toNat % 8) false, false, wideBytes f / 4, f.aop = 0⟩
  | _ => none
/-- The registers named and read. -/
def Sys2Proof.Claims.AtomOp.reads (m : AtomOp) : List (Nat × Nat) := [(m.f.addr.toNat, if m.sp then 1 else 2), (m.f.b.toNat, m.nb)]
def Sys2Proof.Claims.AtomOp.names (m : AtomOp) : List (Nat × Nat) := m.reads ++ (if m.returns then [(m.f.d.toNat, wideBytes m.f / 4)] else [])
/-- A generic lane address passes: aligned, translated for writing, and on memory that accepts the instruction (R306). -/
def Sys2Proof.Claims.AtomOp.Passes (m : AtomOp) (s : State) (l : Nat) (e : TlbEnt) (pa : Nat) : Prop :=
  let va := (s.me.rvd m.f.addr.toNat l).toNat
  va % wideBytes m.f = 0 ∧ translate s s.me.ctx (s.coreOf s.cur) .write va = .ok (e, pa) ∧ (isHbm pa = true ∨ e.pol = 0 ∨ m.simple = true) ∧
    wideBytes m.f ≤ (if isHost pa then 8 else 32)

/-- R24, R306 to R308, R310 to R312: ATOM, ATOMF, CAS, CAS.xchg and RED whose lanes all pass begin one access with each lane's operand bytes; on
generic memory this is outside a DET context. No memory changes when they begin, and no register but the PC, the counter and the access list. -/
def Obligations.AtomicsBeginWithTheirOperands : Prop :=
  ∀ (s : State) (i : Instr) (m : AtomOp), atomOpOf i = some m →
    let g := s.me
    let ls := crossLanes g m.f.gd
    let n := wideBytes m.f
    let scratchOk := fun (l : Nat) => (g.rv m.f.addr.toNat l).toNat % n = 0 ∧ (g.rv m.f.addr.toNat l).toNat + n ≤ (myScratch s).sb
    Crosses g m.f.gd m.names [] [] [] → (∀ l ∈ ls, ∀ r ∈ m.reads, ∀ j, j < r.2 → 32 * (r.1 + j) + l ∉ g.badV) → ls ≠ [] →
    (m.sp = true → ∀ l ∈ ls, scratchOk l) → (m.sp = false → s.isDet s.cur = false ∧ ∀ l ∈ ls, ∃ e pa, m.Passes s l e pa) →
    ∃ u a, exec i s = .next u ∧ u.me = { (s.issueHeld m.c).me with acc := g.acc ++ [a] } ∧ u.mem = s.mem ∧ u.l2 = s.l2 ∧ u.nextId = s.nextId + 1 ∧
      u.blocks = s.blocks ∧ a.id = s.nextId ∧ a.setk = m.c.setk.toNat ∧ a.op = m.op ∧ a.size = n ∧ a.dst = m.f.d.toNat ∧
      a.space = (if m.sp then .scratch else .generic) ∧ a.scope = m.f.scope.toNat ∧
      (∀ l ∈ ls, ∃ r ∈ a.reqs, ∃ x ∈ r.lanes, x.lane = l) ∧
      ∀ r ∈ a.reqs, r.stage = .waiting ∧ ∀ x ∈ r.lanes, x.lane ∈ ls ∧ x.data = registerBytes g m.f.b.toNat (4 * m.nb) x.lane ∧
        (if m.sp then r.line = 16 * (s.cur / 512) + g.rank ∧ x.pa = (g.rv m.f.addr.toNat x.lane).toNat
         else x.pa / 256 = r.line ∧ x.va = (g.rvd m.f.addr.toNat x.lane).toNat ∧ ∃ e, m.Passes s x.lane e x.pa ∧ e.key = r.key ∧ e.pol = r.pol)

/-- The new value of an integer atomic (R308): add, and, or, xor, mins, maxs, minn, maxn; exchange as 9. -/
def Sys2Proof.Claims.integerAtomic {w : Nat} (code : Nat) (old b : BitVec w) : BitVec w :=
  match code with
  | 0 => old + b
  | 1 => old &&& b
  | 2 => old ||| b
  | 3 => old ^^^ b
  | 4 => if b.toInt < old.toInt then b else old
  | 5 => if old.toInt < b.toInt then b else old
  | 6 => if b.toNat < old.toNat then b else old
  | 7 => if old.toNat < b.toNat then b else old
  | _ => b

/-- R158, R308, R310, R312: an atomic of one lane on its core's scratchpad, performed by MEM_ACCESS_COMPLETE, leaves the result of the operation
at its bytes and every other byte of the scratchpad as it was, and writes the old value to vD when it returns one; CAS stores its second value
exactly when the old value equals the first. The access is over, and generic memory stays. -/
def Obligations.ScratchpadAtomicPerformed : Prop :=
  ∀ (s : State) (g aid code : Nat) (ret : Bool) (a : Access) (r : Req) (x : LaneAcc) (w : Nat),
    (s.grp g).acc = [a] → a.id = aid → a.op = .atom false code ret → a.space = .scratch → a.reqs = [r] → r.stage = .waiting → r.lanes = [x] →
    r.line = 16 * (g / 512) + (s.grp g).rank → (s.grp g).rank < 16 → a.size = 4 ∨ a.size = 8 → w = 8 * a.size → code ≤ 9 → x.lane < 32 → (s.grp g).hold = none →
    x.data.length = (if code = 8 then 2 * a.size else a.size) →
    let l := (s.blk (g / 512)).loc (s.grp g).rank
    let old := BitVec.ofNat w (ofBytes (cread l.sp x.pa a.size))
    let b := BitVec.ofNat w (ofBytes (x.data.take a.size))
    let new := if code = 8 then (if old = b then BitVec.ofNat w (ofBytes (x.data.drop a.size)) else old) else integerAtomic code old b
    (∀ j, j < a.size → (x.pa + j) / 4 ∉ l.spBad ∧ x.pa + j < l.sb) → (∀ k, mget l.tags 0 k ≠ 1) →
    ∃ u, exec (.memAccessComplete g aid 0) s = .next u ∧ u.mem = s.mem ∧ (u.grp g).acc = [] ∧
      BitVec.ofNat w (ofBytes (cread ((u.blk (g / 512)).loc (s.grp g).rank).sp x.pa a.size)) = new ∧
      (∀ j, j < x.pa ∨ x.pa + a.size ≤ j → cget ((u.blk (g / 512)).loc (s.grp g).rank).sp j = cget l.sp j) ∧
      (ret = true → ∀ k, k < a.size / 4 → (u.grp g).rv (a.dst + k) x.lane = old.extractLsb' (32 * k) 32) ∧
      (∀ n l, l < 32 → (ret = false ∨ l ≠ x.lane ∨ n < a.dst ∨ a.dst + a.size / 4 ≤ n) → (u.grp g).rv n l = (s.grp g).rv n l)

/-- R300, R303, R318: in a DET context RED is buffered with its operand, one write for each lane, and ATOM, ATOMF and CAS to generic memory hold
their group until its turn; memory stays. -/
def Sys2Proof.Claims.detAtomics : Prop :=
  ∀ (s : State) (i : Instr) (m : AtomOp), atomOpOf i = some m → m.sp = false → s.isDet s.cur = true →
    let g := s.me
    let ls := crossLanes g m.f.gd
    let units := (wideBytes m.f + 15) / 16 + 1
    Crosses g m.f.gd m.names [] [] [] → (∀ l ∈ ls, ∀ r ∈ m.reads, ∀ j, j < r.2 → 32 * (r.1 + j) + l ∉ g.badV) → ls ≠ [] →
    (∀ l ∈ ls, ∃ e pa, m.Passes s l e pa) →
    ((s.core (s.coreOf s.cur)).units + ls.length * units > 16384 → exec i s = .next (raise s (fi 0x1F))) ∧
    ((s.core (s.coreOf s.cur)).units + ls.length * units ≤ 16384 → ∃ u, exec i s = .next u ∧ u.mem = s.mem ∧ u.l2 = s.l2 ∧
      (u.core (s.coreOf s.cur)).units = (s.core (s.coreOf s.cur)).units + ls.length * units ∧
      (m.returns = true → (if g.hold.isNone then u.me.hold else u.me.hold2) = some ⟨.ordered s.nextId, s.clock, g.pc, 0⟩ ∧ u.me.detBuf = g.detBuf) ∧
      (m.returns = false → ∃ ws, u.me.detBuf = g.detBuf ++ ws ∧ ws.length = ls.length ∧ u.me.hold = g.hold ∧
        ∀ k, k < ls.length → ∃ w e fl code, ws[k]? = some w ∧ m.Passes s (ls.getD k 0) e w.pa ∧ m.op = .atom fl code false ∧
          w.op = .red fl code (registerBytes g m.f.b.toNat (4 * m.nb) (ls.getD k 0)) ∧ w.quantum = some g.quantum))

/-- In a DET context lane stores and RED are buffered, and returning atomics wait for their turn. -/
def Obligations.DetWritesAreBufferedOrWait : Prop := detStores ∧ detAtomics

/-! ## Ordered append and merging at memory (R316 to R320) -/

/-- R312, R316, R317, R320: outside a DET context OAPP begins an access that adds each lane's amount at its address, and ODECL only issues. In a DET
context ODECL takes the block's turn on each stream it names, opening those that are not open, and does not wait; either way it completes at issue
+ 1. SKRED whose destination and
source pass takes one word of the group's stream and holds the group until its merge; with no lane it only issues. -/
def Sys2Proof.Claims.appendAndMerge : Prop :=
  ∀ (s : State) (c : Ctl) (f : FmtX),
    let g := s.me
    let ls := crossLanes g f.gd
    let n := wideBytes f
    let va := fun (l : Nat) => (g.rvd f.addr.toNat l).toNat
    let good := fun (l : Nat) (e : TlbEnt) (pa : Nat) => va l % n = 0 ∧ translate s g.ctx (s.coreOf s.cur) .write (va l) = .ok (e, pa) ∧
      e.pol = 0 ∧ isHbm pa = true ∧ isHost pa = false
    Crosses g f.gd [(f.d.toNat, n / 4)] [(f.addr.toNat, 2), (f.b.toNat, 2)] [] [] → f.b.toNat + n / 4 ≤ g.nv →
    (∀ l ∈ ls, ∃ e pa, good l e pa) →
    (s.isDet s.cur = false → exec (.odecl c f) s = .next (s.issue c (some (s.clock + 2)) []) ∧
      (ls = [] → exec (.oapp c f) s = .next (s.issue c (some (s.clock + 1)) [])) ∧
      (ls ≠ [] → ∃ u a, exec (.oapp c f) s = .next u ∧ u.me = { (s.issueHeld c).me with acc := g.acc ++ [a] } ∧ u.mem = s.mem ∧ a.id = s.nextId ∧
        a.setk = c.setk.toNat ∧ a.op = .atom false 0 true ∧ a.size = n ∧ a.dst = f.d.toNat ∧
        ∀ r ∈ a.reqs, ∀ x ∈ r.lanes, x.lane ∈ ls ∧ x.data = registerBytes g f.b.toNat n x.lane ∧ ∃ e, good x.lane e x.pa)) ∧
    (s.isDet s.cur = true → ∀ l e pa, ls = [l] → good l e pa → (s.ctxOf s.cur).streams = [] →
        (∀ h k, mget? s.groups h = some k → h / 512 = s.cur / 512 → k.hold = none ∧ k.hold2 = none) → streamsOfPkg s (s.ctxOf s.cur).pkg < 256 →
        ∃ u, exec (.odecl c f) s = .next u ∧ u.mem = s.mem ∧ u.me = (s.issue c (some (s.clock + 2)) []).me ∧
          (u.ctxOf s.cur).streams = [(pa, { wide := f.wide = 1, turns := [((s.blk (s.cur / 512)).kernel, (s.blk (s.cur / 512)).lin)] })]) ∧
    (ls = [] → exec (.skred c f) s = .next (s.issue c (some (s.clock + 1)) [])) ∧
    (∀ l src q, ls.head? = some l → f.aop = 0 → s.isDet s.cur = false → va l % 64 = 0 → (∀ e ∈ skDest s (va l) src.length, False) →
      skSource s false ((g.rvd f.b.toNat l).toNat) 64 = .ok (src.take 64) → skSize (src.take 64) = src.length →
      skSource s false ((g.rvd f.b.toNat l).toNat) src.length = .ok src → skParse (skType src) src = some q →
      ∃ u w gs gk, exec (.skred c f) s = .next u ∧ u.mem = s.mem ∧
        (if g.hold.isNone then u.me.hold else u.me.hold2) = some ⟨.skred (va l) src w gs gk, s.clock, g.pc, c.setk.toNat⟩ ∧ w = (s.draws 1).headD 0 ∧
        u.me.gpos = (g.genSettle s.clock).gpos + 1)

/-- One 4-byte lane of a waiting ordered access: its group alone in its DET context, with nothing buffered and no committed value to look back to. -/
structure Sys2Proof.Claims.OneOrdered (s : State) (g : Nat) (x : Group) (a : Access) (r : Req) (l : LaneAcc) : Prop where
  only : s.groups = [(g, x)] ∧ x.acc = [a] ∧ a.reqs = [r] ∧ r.lanes = [l]
  kind : a.size = 4 ∧ a.op = .atom false 0 true ∧ r.stage = .waiting
  lane : l.lane < 32 ∧ l.bad = false ∧ l.data.length = 4
  calm : x.hold2 = none ∧ s.probe.on = false ∧ x.detBuf = [] ∧ (s.ctx x.ctx).undo = [] ∧ (physRead s r.pol l.pa 4 r.key).2 = false

/-- R300, R301, R316 to R318: the events of DET contexts. OAPP_GRANT gives the lane the stream's running value and adds its amount once every lower block has had its turn; an ordered
addition reads the value committed and buffers the sum; LQ_EXCHANGE forms the lowest quantum not ended; a round starts for a group that has ended a
quantum below the frontier, and its completion applies the buffered bytes, lets the group begin its next quantum and sets CQ to the last quantum below its frontier. -/
def Sys2Proof.Claims.detEvents : Prop :=
  (∀ (s : State) (g : Nat) (x : Group) (a : Access) (r : Req) (l : LaneAcc), OneOrdered s g x a r l →
    let old := (physRead s r.pol l.pa 4 r.key).1
    (∀ h st v, x.hold = some h → h.kind = .oapp a.id → mget? (s.ctx x.ctx).streams l.pa = some st → st.running = some v → v < 2 ^ 32 →
      (lowerDone s (g / 512) l.pa = false → exec (.oappGrant g) s = .next s) ∧ exec (.orderedAtomicGrant g) s = .next s ∧
      (lowerDone s (g / 512) l.pa = true → ∃ u w, exec (.oappGrant g) s = .next u ∧ u.mem = s.mem ∧ (u.grp g).hold = none ∧ (u.grp g).acc = [] ∧
        ((u.grp g).rv a.dst l.lane).toNat = v ∧ (∀ n k, k < 32 → (n ≠ a.dst ∨ k ≠ l.lane) → (u.grp g).rv n k = x.rv n k) ∧
        (u.grp g).detBuf = [w] ∧ w.pa = l.pa ∧ w.quantum = some x.quantum ∧ w.op = .write (toBytes 4 ((v + ofBytes l.data) % 2 ^ 32)) ∧
        ∃ q, mget? (u.ctx x.ctx).streams l.pa = some q ∧ q.running = some ((v + ofBytes l.data) % 2 ^ 32) ∧
          ((s.blk (g / 512)).kernel, (s.blk (g / 512)).lin) ∈ q.turns)) ∧
    (∀ h, x.hold = some h → h.kind = .ordered a.id → exec (.oappGrant g) s = .next s ∧
      ∃ u w, exec (.orderedAtomicGrant g) s = .next u ∧ u.mem = s.mem ∧ (u.grp g).hold = none ∧ (u.grp g).acc = [] ∧
        ((u.grp g).rv a.dst l.lane).toNat = ofBytes old ∧ (∀ n k, k < 32 → (n ≠ a.dst ∨ k ≠ l.lane) → (u.grp g).rv n k = x.rv n k) ∧
        (u.grp g).detBuf = [w] ∧ w.pa = l.pa ∧ w.quantum = some x.quantum ∧ w.op = .write (toBytes 4 ((ofBytes old + ofBytes l.data) % 2 ^ 32)))) ∧
  (∀ (s : State) (cx g : Nat) (x : Group), s.groups = [(g, x)] → x.ctx = cx → x.stop = .running → (s.blk (g / 512)).stage = .running → x.quantum + 1 < 2 ^ 32 - 1 →
    let q := if x.detHold.isSome then x.quantum + 1 else x.quantum
    ((s.ctx cx).det = false → exec (.lqExchange cx) s = .next s ∧ exec (.commitRoundStart cx) s = .next s) ∧
    ((s.ctx cx).det = true →
      (mget? s.cores (s.coreOf g) ≠ none → ∃ u, exec (.lqExchange cx) s = .next u ∧ u.mem = s.mem ∧ u.groups = s.groups ∧ (u.ctx cx).front = q ∧ (u.core (s.coreOf g)).lq.toNat = q) ∧
      ((s.ctx cx).round ≠ none ∨ x.detHold = none → exec (.commitRoundStart cx) s = .next s) ∧
      (∀ k, (s.ctx cx).round = none → x.detHold = some k → x.quantum < (s.ctx cx).front → ∃ u f, exec (.commitRoundStart cx) s = .next u ∧ u.mem = s.mem ∧
        u.groups = s.groups ∧ (u.ctx cx).rounds = (s.ctx cx).rounds + 1 ∧ (u.ctx cx).round = some f ∧ x.quantum < f ∧ f ≤ (s.ctx cx).front) ∧
      ((s.ctx cx).round = none → exec (.commitRoundComplete cx) s = .next s) ∧
      (∀ k f w bs, (s.ctx cx).round = some f → x.detHold = some k → k < (s.ctx cx).rounds → x.quantum < f → x.detBuf = [w] → w.op = .write bs → w.quantum = some x.quantum →
        s.kernels = [] → w.pol = 0 → bs ≠ [] → w.pa % 256 + bs.length ≤ 256 → mget? s.dir (w.pa / 256) = none → answersOf s (w.pa / 256) = [] →
        (∀ l, mget? s.l2 (atDie (homeDie w.pa) (w.pa / 256)) = some l → l.key = w.key) →
        ∃ u, exec (.commitRoundComplete cx) s = .next u ∧ (∀ j, j < bs.length → coherentByte u w.key (w.pa + j) = bs.getD j 0) ∧
          (∀ b, b / 256 = w.pa / 256 → (b < w.pa ∨ w.pa + bs.length ≤ b) → coherentByte u w.key b = coherentByte s w.key b) ∧
          (u.grp g).detBuf = [] ∧ (u.grp g).quantum = x.quantum + 1 ∧ (u.grp g).detHold = none ∧ (u.ctx cx).round = none ∧
          (u.core (s.coreOf g)).cq = BitVec.ofNat 32 (f - 1) ∧ (u.core (s.coreOf g)).units = (s.core (s.coreOf g)).units - w.units)))

/-- Ordered append and merging at memory: what the instructions begin, and what the ordered-append unit and the commit rounds do. -/
def Obligations.OrderedAppendMergesAndCommits : Prop := appendAndMerge ∧ detEvents

/-! ## Engine operations (R179 to R183, R214 to R217, R233, R244 to R247, R259, R260, R392 to R395, R404, R405, R415) -/

/-- Word i of the frame, and the pair at i (R67). -/
def Sys2Proof.Claims.word (g : Group) (f : FmtA) (i : Nat) : Nat := (g.rg (f.fb.toNat + i)).toNat
def Sys2Proof.Claims.pairAt (g : Group) (f : FmtA) (i : Nat) : Nat := word g f i + 2 ^ 32 * word g f (i + 1)
/-- The registers from i on are zero. -/
def Sys2Proof.Claims.zeroAfter (g : Group) (f : FmtA) (n : Nat) : Prop := ∀ i, n ≤ i → i < 16 → word g f i = 0
/-- A barrier field: none, or 8-aligned and wholly below S_b. -/
def Sys2Proof.Claims.TbField (l : Local) (x : Nat) : Prop := x = 0xFFFFFFFF ∨ (x % 8 = 0 ∧ x + 8 ≤ l.sb)
/-- The 16 frame registers. -/
def Sys2Proof.Claims.frameList (f : FmtA) : List Nat := (List.range 16).map (f.fb.toNat + ·)

/-- An engine instruction: its fields, opcode, class (CPY 0, MX 1, SK 2, COL 3), the frame register of its barrier, the code of a failed frame,
and whether it is a query. -/
structure Sys2Proof.Claims.EngineKind where
  c : Ctl
  f : FmtA
  opc : Nat
  cls : Nat
  tb : Option Nat
  code : Nat
  query : Bool
def Sys2Proof.Claims.engineOf : Instr → Option EngineKind
  | .cpy c f => some ⟨c, f, 0xBA, 0, some 8, 0x12, false⟩
  | .wrsig c f => some ⟨c, f, 0xF0, 0, some 10, 0x12, false⟩
  | .mcst c f => some ⟨c, f, 0xF1, 0, some 6, 0x12, false⟩
  | .cpyr c f => some ⟨c, f, 0xF2, 0, some 6, 0x12, false⟩
  | .skinit c f => some ⟨c, f, 0xD8, 2, some 4, 0x1B, false⟩
  | .skadd c f => some ⟨c, f, 0xD9, 2, some 6, 0x1B, false⟩
  | .skmrg c f => some ⟨c, f, 0xDA, 2, some 4, 0x1B, false⟩
  | .skcmp c f => some ⟨c, f, 0xDB, 2, some 3, 0x1B, false⟩
  | .skq c f => some ⟨c, f, 0xDC, 2, none, 0x1B, true⟩
  | .skrank c f => some ⟨c, f, 0xDD, 2, none, 0x1B, true⟩
  | .sktop c f => some ⟨c, f, 0xDE, 2, some 5, 0x1B, true⟩
  | .skdc c f => some ⟨c, f, 0xDF, 2, none, 0x1B, true⟩
  | .sgumb c f => some ⟨c, f, 0xE3, 2, none, 0x1B, true⟩
  | .stopk c f => some ⟨c, f, 0xE4, 2, some 7, 0x1B, false⟩
  | .mxm c f => some ⟨c, f, 0xE8, 1, some 8, 0x0F, false⟩
  | .mxmt c f => some ⟨c, f, 0xE9, 1, some 8, 0x0F, false⟩
  | .mxmg c f => some ⟨c, f, 0xEA, 1, some 8, 0x0F, false⟩
  | .cbld c f => some ⟨c, f, 0xEE, 1, some 3, 0x0F, false⟩
  | .qsplit c f => some ⟨c, f, 0xEF, 1, some 11, 0x0F, false⟩
  | .coll c f => some ⟨c, f, 0xF3, 3, some 2, 0x13, false⟩
  | .clrun c f => some ⟨c, f, 0xF4, 3, none, 0x13, false⟩
  | _ => none

/-- The frame of a copy passes R180. -/
def Sys2Proof.Claims.GoodCopy (g : Group) (l : Local) (f : FmtA) : Prop :=
  let w := word g f
  let dir := w 11 % 4
  zeroAfter g f 12 ∧ w 11 < 128 ∧ w 5 < 65536 ∧ (dir = 1 ∨ dir = 2 → w 1 = 0) ∧ (dir = 0 ∨ dir = 2 → w 3 = 0) ∧ w 4 % 16 = 0 ∧ w 6 % 16 = 0 ∧
    w 7 % 16 = 0 ∧ w 0 % 16 = 0 ∧ w 2 % 16 = 0 ∧ TbField l (w 8) ∧ (w 9 = 0xFFFFFFFF ∨ (w 9 % 4 = 0 ∧ w 9 + 4 ≤ l.sb)) ∧ w 4 * w 5 ≤ 0x7FFFF0

/-- The frames of the summary operations pass R215 to R218, R221 and R222. -/
def Sys2Proof.Claims.GoodSummary (g : Group) (l : Local) (det : Bool) (opc : Nat) (f : FmtA) : Prop :=
  let w := word g f
  let object := (f.fn.getLsbD 0 = true → w 1 = 0) ∧ w 0 % 64 = 0
  let row := fun (code : Nat) => 1 ≤ code ∧ code ≤ 3 ∧ w 0 % (if code = 1 then 4 else 2) = 0
  match opc with
  | 0xD8 => object ∧ zeroAfter g f 5 ∧ TbField l (w 4) ∧ w 2 = w 2 % 4 + 256 * (w 2 / 256 % 16) ∧
      (if f.eng = 1 then w 2 < 256 ∧ w 2 % 4 ≠ 3 ∧ (w 2 % 4 = 0 → det = false)
       else if f.eng = 2 then w 2 = 0 ∧ w 3 = 0 else w 2 % 4 = 0 ∧ 10 ≤ w 2 / 256 ∧ w 2 / 256 ≤ 14)
  | 0xD9 => object ∧ zeroAfter g f 7 ∧ TbField l (w 6) ∧
      (if f.eng = 0 then w 2 < 4096 ∧ w 3 = 0 ∧ w 4 = 0 ∧ w 2 % 256 + w 2 / 256 + 1 ≤ g.nv
       else (f.eng ≠ 3 → w 3 = 0) ∧ w 2 % 4 = 0 ∧ 1 ≤ w 4 ∧ w 4 ≤ 2 ^ 24)
  | 0xDA => object ∧ (f.fn.getLsbD 1 = true → w 3 = 0) ∧ w 2 % 64 = 0 ∧ zeroAfter g f 5 ∧ TbField l (w 4)
  | 0xDB => object ∧ 1 ≤ w 2 ∧ w 2 ≤ 48 ∧ zeroAfter g f 4 ∧ TbField l (w 3)
  | 0xDC => object ∧ zeroAfter g f 3
  | 0xDD => object ∧ zeroAfter g f 3
  | 0xDE => object ∧ (f.fn.getLsbD 1 = true → w 3 = 0) ∧ w 2 % 16 = 0 ∧ 1 ≤ w 4 ∧ w 4 ≤ 64 ∧ zeroAfter g f 6 ∧ TbField l (w 5)
  | 0xDF => object ∧ zeroAfter g f 2
  | 0xE3 => (f.fn.getLsbD 0 = true → w 1 = 0) ∧ row (w 3) ∧ 1 ≤ w 2 ∧ w 2 ≤ 2 ^ 20 ∧ (w 4 < 0x7F800000 ∨ w 4 = 0x80000000) ∧ w 5 ≤ 1024 ∧
      w 6 % 2 ^ 31 ≤ 0x7F800000 ∧ zeroAfter g f 13
  | _ => (f.fn.getLsbD 0 = true → w 1 = 0) ∧ (f.fn.getLsbD 1 = true → w 3 = 0) ∧ row (w 5) ∧ w 2 % 8 = 0 ∧ 1 ≤ w 4 ∧ w 4 ≤ 2 ^ 20 ∧ 1 ≤ w 6 ∧
      w 6 ≤ 1024 ∧ zeroAfter g f 8 ∧ TbField l (w 7)

/-- FMT holds a combination of matrix formats that R48 accepts. -/
def Sys2Proof.Claims.MatrixFormats (fmt : W32) : Prop :=
  let a := (fmt.extractLsb' 6 4).toNat
  let b := (fmt.extractLsb' 10 4).toNat
  let c := (fmt.extractLsb' 14 2).toNat
  fmt.extractLsb' 16 2 ≠ 3 ∧ (fmt.getLsbD 18 = true ↔ a = 11) ∧
    ((a = 0 ∧ b = 0 ∧ c = 3 ∧ fmt.extractLsb' 16 2 = 0) ∨ (a = 3 ∧ b = 3 ∧ c ≤ 1) ∨ (a = 2 ∧ b = 2 ∧ (c = 0 ∨ c = 2)) ∨
     (a ∈ [4, 5] ∧ b ∈ [4, 5] ∧ c ≠ 3) ∨ (a ∈ [9, 10] ∧ b ∈ [9, 10] ∧ c = 0) ∨ (a ∈ [6, 7, 8, 11] ∧ b ∈ [4, 5, 6, 7, 8] ∧ c ≠ 3))

/-- The AUX block as scratchpad holds it, and a field of it (R246). -/
def Sys2Proof.Claims.auxField (g : Group) (l : Local) (f : FmtA) (i n : Nat) : Nat :=
  if word g f 14 = 0xFFFFFFFF then 0 else ofBytes (cread l.sp (word g f 14 + i) n)
/-- The bytes of an accumulator row (R243). -/
def Sys2Proof.Claims.accRow (n cf : Nat) : Nat := 64 * ((n * (if cf = 3 then 8 else if cf = 0 then 4 else 2) + 63) / 64)

/-- The frame, FMT and AUX of a matrix operation pass R247. -/
def Sys2Proof.Claims.GoodMatrix (s : State) (opc : Nat) (f : FmtA) : Prop :=
  let g := s.me
  let l := myScratch s
  let w := word g f
  let m := w 5 % 512
  let n := w 5 / 65536
  let k := w 6 % 2 ^ 17
  let row := accRow n (g.fmt.extractLsb' 14 2).toNat
  let acm := (s.kernelOf s.cur).acm
  let flag := fun (i : Nat) => w 9 / 2 ^ i % 2 = 1
  let dcnt := auxField g l f 8 2
  let kx := 32 * ((dcnt + 31) / 32)
  let solo := flag 0
  MatrixFormats g.fmt ∧ 1 ≤ m ∧ m ≤ 256 ∧ (solo → m ≤ 128) ∧ 1 ≤ n ∧ n ≤ 256 ∧ w 5 % 65536 = m ∧ k % 32 = 0 ∧ 32 ≤ k ∧ k ≤ 65536 ∧
    w 6 % 2 ^ 24 = k ∧ w 6 / 2 ^ 24 < min m 128 ∧ w 0 % 16 = 0 ∧ w 2 % 16 = 0 ∧ w 7 % 64 = 0 ∧ w 7 < 2 ^ 18 ∧ w 9 < 64 ∧
    (opc ≠ 0xE9 → w 9 < 32 ∧ w 10 = 0 ∧ w 11 = 0) ∧ (g.fmt.extractLsb' 16 2 = 0 → w 12 = 0 ∧ w 13 = 0) ∧
    w 7 + min m 128 * row ≤ acm ∧
    (solo ∨ ∃ p, follower s s.cur = some p ∧ (m > 128 → w 7 + (m - 128) * row ≤ (s.krn (s.blk p.1).kernel).acm)) ∧
    TbField l (w 8) ∧ (w 14 = 0xFFFFFFFF ∨ (w 14 % 64 = 0 ∧ w 14 + 512 ≤ l.sb)) ∧ (w 15 = 0xFFFFFFFF ∨ (w 15 % 16 = 0 ∧ w 15 + 16 ≤ l.sb)) ∧
    (w 14 = 0xFFFFFFFF → w 9 / 4 % 8 = 0 ∧ opc ≠ 0xEA) ∧
    (flag 4 → g.fmt.extractLsb' 16 2 = 0 ∧ g.fmt.getLsbD 18 = false ∧ opc ≠ 0xEA ∧ 1 ≤ dcnt ∧ dcnt ≤ 64 ∧ k > kx ∧
      ∀ t, t < dcnt → auxField g l f (16 + 2 * t) 2 < k - kx) ∧
    (opc = 0xEA → auxField g l f 10 1 ≤ 16 ∧ w 2 = 0 ∧ w 3 = 0 ∧ ∀ i, i < auxField g l f 10 1 → auxField g l f (200 + 16 * i) 8 % 16 = 0)
/-- MXMG's rows stay within M (R247). -/
def Sys2Proof.Claims.RowsFit (g : Group) (l : Local) (opc : Nat) (f : FmtA) : Prop :=
  opc = 0xEA → ((List.range (auxField g l f 10 1)).map (fun i => auxField g l f (192 + 16 * i) 4)).sum ≤ word g f 5 % 512

/-- The frames of CBLD and QSPLIT pass (R259, R260). -/
def Sys2Proof.Claims.GoodTable (s : State) (opc : Nat) (f : FmtA) : Prop :=
  let w := word s.me f
  let l := myScratch s
  if opc = 0xEE then
    (f.fn.getLsbD 0 = true → w 1 = 0) ∧ w 0 % 64 = 0 ∧ w 2 % 16 ≠ 0 ∧ w 2 = w 2 % 16 + 256 * (w 2 / 256 % 2) ∧ TbField l (w 3) ∧ zeroAfter s.me f 4 ∧
      (w 2 / 256 = 0 → ∃ p, follower s s.cur = some p)
  else
    w 0 % 16 = 0 ∧ w 2 % 16 = 0 ∧ 1 ≤ w 5 ∧ w 5 ≤ 65535 ∧ w 6 % 32 = 0 ∧ 32 ≤ w 6 ∧ w 6 ≤ 65536 ∧ 2 ≤ w 7 ∧ w 7 ≤ 5 ∧
      (w 8 < 0x7F800000 ∨ w 8 = 0x80000000) ∧ w 9 % 64 = 0 ∧ w 9 + 512 ≤ l.sb ∧ w 10 ≤ 64 ∧ TbField l (w 11) ∧ zeroAfter s.me f 12

/-- The frames of WRSIG, MCST, CPYR, COLL and CLRUN pass (R392 to R395, R405, R415); of CPYR the form with MODE 0 is meant. -/
def Sys2Proof.Claims.GoodFabric (g : Group) (l : Local) (opc : Nat) (f : FmtA) : Prop :=
  let w := word g f
  match opc with
  | 0xF0 => zeroAfter g f 11 ∧ w 5 < 4 ∧ w 0 % 16 = 0 ∧ (w 5 % 2 = 1 → w 1 = 0) ∧ w 2 % 16 = 0 ∧ w 4 % 16 = 0 ∧ w 4 ≤ 65536 ∧ w 6 % 8 = 0 ∧
      TbField l (w 10)
  | 0xF1 => zeroAfter g f 7 ∧ w 5 < 2 ∧ w 0 % 16 = 0 ∧ (w 5 = 1 → w 1 = 0) ∧ w 2 % 16 = 0 ∧ 1 ≤ w 3 ∧ w 3 ≤ 64 ∧ w 4 % 16 = 0 ∧ 16 ≤ w 4 ∧
      w 4 ≤ 2 ^ 24 ∧ TbField l (w 6) ∧ w 2 + 16 * w 3 ≤ l.sb ∧
      ∀ i, i < w 3 → ofBytes (cread l.sp (w 2 + 16 * i) 8) % 16 = 0 ∧ ofBytes (cread l.sp (w 2 + 16 * i + 8) 8) % 8 = 0
  | 0xF2 => zeroAfter g f 9 ∧ w 5 % 4 = 0 ∧ w 5 / 8 % 2 = 0 ∧ w 5 / 32 % 8 = 0 ∧ w 5 < 1024 ∧ (w 5 / 16 % 2 = 1 → w 5 / 256 = 1 ∨ w 5 / 256 = 2) ∧
      w 0 % 16 = 0 ∧ (w 5 / 4 % 2 = 1 → w 1 = 0) ∧ w 2 % 16 = 0 ∧ w 4 % 16 = 0 ∧ 16 ≤ w 4 ∧ w 4 ≤ 2 ^ 24 ∧ TbField l (w 6) ∧ w 7 % 8 = 0
  | 0xF3 => zeroAfter g f 8 ∧ w 0 % 64 = 0 ∧ w 4 % 32 = 0 ∧ TbField l (w 2)
  | _ => zeroAfter g f 2 ∧ w 0 % 64 = 0

/-- The frame of a CPYR with MODE 1 passes, and so does the record of its reduction set, read at issue (R390, R395). -/
def Sys2Proof.Claims.GoodSwitch (s : State) (e : EngineKind) : Prop :=
  let w := word s.me e.f
  let o := newOp s e.c e.f 0xF2 0 ((frameList e.f).map s.me.rg)
  zeroAfter s.me e.f 10 ∧ w 5 % 4 = 1 ∧ w 5 / 16 % 16 = 1 ∧ w 5 < 1024 ∧ (w 5 / 256 = 1 ∨ w 5 / 256 = 2) ∧ w 0 % 16 = 0 ∧ (w 5 / 4 % 2 = 1 → w 1 = 0) ∧
    w 2 % 16 = 0 ∧ (w 5 / 8 % 2 = 1 → w 3 = 0) ∧ w 4 % 16 = 0 ∧ 16 ≤ w 4 ∧ w 4 ≤ 2 ^ 24 ∧ TbField (myScratch s) (w 6) ∧ w 7 % 64 = 0 ∧
    ∃ b, redRecRead s o (s.coreOf s.cur) (pairAt s.me e.f 7) = .ok b ∧
      let n := fun (a k : Nat) => ofBytes ((b.drop a).take k)
      let p := n 0 2
      2 ≤ p ∧ p ≤ 256 ∧ n 2 1 = w 5 / 256 ∧ n 3 1 = 1 ∧ n 4 4 ≠ 0 ∧ n 8 4 = w 4 ∧ (∀ r, r < p → n (64 + 2 * r) 2 < 256) ∧
      (∀ r q, r < p → q < p → n (64 + 2 * r) 2 = n (64 + 2 * q) 2 → r = q) ∧ w 9 < p ∧ n (64 + 2 * w 9) 2 = s.dieOf s.cur

/-- The frame of an engine instruction passes. -/
def Sys2Proof.Claims.GoodFrame (s : State) (e : EngineKind) : Prop :=
  if e.opc = 0xBA then GoodCopy s.me (myScratch s) e.f
  else if e.cls = 2 then GoodSummary s.me (myScratch s) (s.isDet s.cur) e.opc e.f
  else if e.opc ∈ [0xE8, 0xE9, 0xEA] then GoodMatrix s e.opc e.f ∧ RowsFit s.me (myScratch s) e.opc e.f
  else if e.cls = 1 then GoodTable s e.opc e.f
  else GoodFabric s.me (myScratch s) e.opc e.f ∨ (e.opc = 0xF2 ∧ GoodSwitch s e)

/-- A matrix operation names an AUX block that lies in the scratchpad and holds a poisoned byte. -/
def Sys2Proof.Claims.AuxPoisoned (s : State) (e : EngineKind) : Prop :=
  let a := word s.me e.f 14
  e.opc ∈ [0xE8, 0xE9, 0xEA] ∧ a ≠ 0xFFFFFFFF ∧ a % 64 = 0 ∧ a + 512 ≤ (myScratch s).sb ∧ ∃ i, i < 512 ∧ (a + i) / 4 ∈ (myScratch s).spBad

/-- What is read at issue beside the frame and AUX is clean: a destination list, the registers of SKADD.vreg (R153). -/
def Sys2Proof.Claims.CleanReads (s : State) (e : EngineKind) : Prop :=
  let w := word s.me e.f
  (e.opc = 0xF1 → ∀ x ∈ (myScratch s).spBad, 4 * x + 4 ≤ w 2 ∨ w 2 + 16 * w 3 ≤ 4 * x) ∧
  (e.opc = 0xD9 → e.f.eng = 0 → ∀ r, w 2 % 256 ≤ r → r ≤ w 2 % 256 + w 2 / 256 % 16 → ∀ l, l < 32 → 32 * r + l ∉ s.me.badV)

/-- The queue of a class on a core (R143). -/
def Sys2Proof.Claims.queueAt (k : Core) (cls : Nat) : List EngOp :=
  if cls = 0 then k.copyQ else if cls = 1 then k.mxQ else if cls = 2 then k.skQ else k.colQ

/-- A queued summary operation that issued in this cycle from a higher partition: the new one enters before it (R200). -/
def Sys2Proof.Claims.entersAfter (s : State) (e : EngineKind) (o : EngOp) : Bool :=
  decide (e.cls = 2) && skIssued o == some s.clock && decide (s.me.part < (s.grp o.gid).part)

/-- R180, R183, R200, R215, R241, R247, R392, R405: an engine instruction whose frame passes queues one operation of its class behind the others (a
summary operation before those that issue in the same cycle from higher partitions), with the frame, FMT and fields read at issue, joins the open set of its class as not complete, and sets g(ST) to 0; a query leaves its registers to the
end of the operation. Memory stays. -/
def Obligations.EngineOperationsAreQueued : Prop :=
  ∀ (s : State) (i : Instr) (e : EngineKind), engineOf i = some e → Acts s.me e.f.gd (frameList e.f) → GoodFrame s e → ¬ AuxPoisoned s e → CleanReads s e →
    let q := queueAt (s.core (s.coreOf s.cur)) e.cls
    ∃ u o, exec i s = .next u ∧ u.mem = s.mem ∧ u.l2 = s.l2 ∧
      queueAt (u.core (s.coreOf s.cur)) e.cls = q.filter (fun x => !entersAfter s e x) ++ o :: q.filter (entersAfter s e) ∧
      o.id = s.nextId ∧ o.opc = e.opc ∧ o.cls = e.cls ∧ o.gid = s.cur ∧ o.block = s.cur / 512 ∧ o.rank = s.me.rank ∧ o.ctx = s.me.ctx ∧
      o.eng = e.f.eng.toNat ∧ o.fn = e.f.fn.toNat ∧ o.fmt = s.me.fmt ∧ o.frame = (frameList e.f).map s.me.rg ∧ o.started = false ∧
      mget u.me.openSets [] e.cls = mget s.me.openSets [] e.cls ++ [⟨s.nextId, false, 0⟩] ∧
      u.me.pend = (if e.query then (s.issueHeld e.c).me else (s.issue e.c none [.g e.f.st.toNat 0 false]).me).pend ∧ u.me.pc = s.me.pc + 8 ∧
      u.me.v = s.me.v ∧ u.me.g = s.me.g

/-- R180, R183, R215, R247, R259, R260, R392, R405: an engine instruction whose frame fails sets g(ST) to its code, joins the open set of its class
as failed with that code, and queues nothing; MXMG whose rows do not fit gives 0x10. A matrix operation whose AUX block is poisoned fails so with
UNCORRECTABLE (R153). CPYR with MODE 1 is not meant. -/
def Obligations.EngineFramesThatFailAreRejected : Prop :=
  ∀ (s : State) (i : Instr) (e : EngineKind) (code : Nat), engineOf i = some e → Acts s.me e.f.gd (frameList e.f) → CleanReads s e →
    (e.opc = 0xF2 → word s.me e.f 5 % 4 ≠ 1) → AuxPoisoned s e ∨ ¬ GoodFrame s e → (AuxPoisoned s e → code = 0x16) →
    (¬ AuxPoisoned s e → e.opc = 0xEA ∧ GoodMatrix s e.opc e.f → code = 0x10) →
    (¬ AuxPoisoned s e → ¬ (e.opc = 0xEA ∧ GoodMatrix s e.opc e.f) → code = e.code) →
    ∃ u, exec i s = .next u ∧ u.mem = s.mem ∧ (∀ k, queueAt (u.core (s.coreOf s.cur)) k = queueAt (s.core (s.coreOf s.cur)) k) ∧
      mget u.me.openSets [] e.cls = mget s.me.openSets [] e.cls ++ [⟨s.nextId, true, code⟩] ∧
      u.me.pend = (s.issue e.c none [.g e.f.st.toNat (BitVec.ofNat 32 code) false]).me.pend

/-- R183: BSEAL moves the open set into the batch, behind what the batch holds. BWAIT on a batch whose operations are complete empties it and gives
the lowest code of those that failed, or 0; on any other batch it holds the group. -/
def Obligations.BatchesSealAndWait : Prop :=
  ∀ (s : State) (c : Ctl) (f : FmtA), Acts s.me f.gd [] → s.me.hold2 = none →
    let n := 16 * f.eng.toNat + f.batch.toNat
    let ops := mget s.me.batches [] n
    let h := held (s.issueHeld c) s.me.pc c.setk.toNat s.clock (.bwait f.eng.toNat f.batch.toNat f.st.toNat)
    (∃ u, exec (.bseal c f) s = .next u ∧ u.mem = s.mem ∧ mget u.me.batches [] n = ops ++ mget s.me.openSets [] f.eng.toNat ∧
      mget u.me.openSets [] f.eng.toNat = [] ∧ u.me.pend = (s.transfer c []).me.pend ∧ u.me.pc = s.me.pc + 8 ∧
      (∀ m, m ≠ n → mget u.me.batches [] m = mget s.me.batches [] m)) ∧
    ((∃ o ∈ ops, o.done = false) → exec (.bwait c f) s = .next h) ∧
    ((∀ o ∈ ops, o.done = true) → s.me.hold = none → ∃ u, exec (.bwait c f) s = .next u ∧ u.mem = s.mem ∧ u.me.hold = none ∧ u.me.pc = s.me.pc + 8 ∧
      mget u.me.batches [] n = [] ∧
      (s.probe.on = false → (∀ o ∈ ops, o.code = 0) → u.me.rg f.st.toNat = 0) ∧
      (s.probe.on = false → ∀ o ∈ ops, o.code ≠ 0 → (∀ x ∈ ops, x.code = 0 ∨ o.code ≤ x.code) → u.me.rg f.st.toNat = BitVec.ofNat 32 o.code))

/-! ## The generator (R201 to R203, R219, R220) -/

/-- One round of R201 on words x0 to x3 under the key; an odd round adds the key, rotated by its number, and its multiple of the constant. -/
def Sys2Proof.Claims.generatorRound (k : Nat → W32) (r : Nat) (x : W32 × W32 × W32 × W32) : W32 × W32 × W32 × W32 :=
  let x0 := x.1 + x.2.1
  let x3 := (x.2.2.2 ^^^ x0).rotateLeft (if r % 2 = 0 then 16 else 8)
  let x2 := x.2.2.1 + x3
  let x1 := (x.2.1 ^^^ x2).rotateLeft (if r % 2 = 0 then 12 else 20)
  let j := (r + 1) / 2
  if r % 2 = 0 then (x0, x1, x2, x3)
  else (x0 + k (j % 4) + BitVec.ofNat 32 (j * 0x9E3779B9), x1 + k ((j + 1) % 4), x2 + k ((j + 2) % 4), x3 + k ((j + 3) % 4))
/-- The block function G, ten rounds from counter plus key, and its word i. -/
def Sys2Proof.Claims.generator (k c : Nat → W32) (i : Nat) : W32 :=
  let y := (List.range 10).foldl (fun x r => generatorRound k r x) (c 0 + k 0, c 1 + k 1, c 2 + k 2, c 3 + k 3)
  if i = 0 then y.1 else if i = 1 then y.2.1 else if i = 2 then y.2.2.1 else y.2.2.2
/-- Draw number n of a group's stream (R203). -/
def Sys2Proof.Claims.drawAt (g : Group) (n : Nat) : W32 :=
  let p := (g.gpos.toNat + n) % 2 ^ 64
  generator (fun i => g.gk.extractLsb' (32 * i) 32)
    (fun i => if i = 0 then BitVec.ofNat 32 (p / 4) else if i = 1 then BitVec.ofNat 32 (p / 4 / 2 ^ 32) else if i = 2 then g.gsid else 0) (p % 4)
/-- The 32-bit float of a random word, exact: m * 2^-24 (R220). -/
def Sys2Proof.Claims.uniformOf (opened : Bool) (w : W32) : W32 :=
  let m := if opened then 2 * (w.toNat / 512) + 1 else w.toNat / 256
  if m = 0 then 0 else BitVec.ofNat 32 ((103 + Nat.log2 m) * 2 ^ 23 + (m * 2 ^ (23 - Nat.log2 m) - 2 ^ 23))

/-- R201 to R203, R219, R220: RNGK.set and .seek give the group its new generator state from the next cycle on; .read gives the state; RNGV writes
the next draws, or the counter form's words, to its registers in lane order, and RNGU the same words as exact floats; the stream moves on by the
words drawn. The group's stream has no change of RNGK still to come. -/
def Obligations.GeneratorInstructions : Prop :=
  ∀ (s : State) (c : Ctl) (f : FmtA), s.me.gnext = none →
    let g := s.me
    let w := fun i => g.rg (f.fb.toNat + i)
    let st := f.st.toNat
    (Acts g f.gd (frameList f) → zeroAfter g f 7 →
      (zeroAfter g f 4 → ∃ u, exec (.rngkSet c f) s = .next u ∧ u = (s.modMe (fun g => { g with
        gnext := some (s.clock, w 3 ++ w 2 ++ w 1 ++ w 0, 0, g.gsid) })).fixed c 1 [.g st 0 false]) ∧
      (∃ u, exec (.rngkSeek c f) s = .next u ∧ u = (s.modMe (fun g => { g with
        gnext := some (s.clock, w 3 ++ w 2 ++ w 1 ++ w 0, w 5 ++ w 4, w 6) })).fixed c 1 [.g st 0 false])) ∧
    (Acts g f.gd [] → exec (.rngkRead c f) s = .next (s.fixed c 1
      ((List.range 8).map (fun i => .g (st + i) (if i < 4 then g.gk.extractLsb' (32 * i) 32 else if i = 4 then g.gpos.extractLsb' 0 32
        else if i = 5 then g.gpos.extractLsb' 32 32 else if i = 6 then g.gsid else 0) false)))) ∧
    (Acts g f.gd (frameList f) → ∀ (d n : Nat) (ctr uni : Bool) (i : Instr), (w 0).toNat = d + 256 * (n - 1) → d < 256 → 1 ≤ n → n ≤ 8 → d + n ≤ g.nv →
      (f.eng = if ctr then 1 else 0) → (ctr = true → n ≤ 4) → i = (if uni then .rngu c f else .rngv c f) →
      let ls := (List.range 32).filter (fun l => (g.am &&& ~~~g.xm).getLsbD l)
      let raw := fun (q j l : Nat) => if ctr then generator (fun i => w (6 + i)) (fun i => if i = 0 then w 2 + BitVec.ofNat 32 l else w (2 + i)) j
        else drawAt g (n * q + j)
      exec i s = .next ((s.modMe (fun g => { g with gpos := g.gpos + BitVec.ofNat 64 (if ctr then 0 else n * ls.length) })).issue c none
        ((ls.zipIdx.flatMap (fun l => (List.range n).map (fun j =>
          RegWr.v (d + j) l.1 (if uni then uniformOf (f.fn.getLsbD 0) (raw l.2 j l.1) else raw l.2 j l.1) false))) ++ [.g st 0 false])))

/-! ## Accumulator access (R256, R257) -/

/-- Accumulator formats by code, their bytes (R242). -/
def Sys2Proof.Claims.accFormat (cf : Nat) : Fmt := if cf = 1 then fF16 else if cf = 2 then fBf16 else if cf = 3 then fF64 else fF32
def Sys2Proof.Claims.accSize (cf : Nat) : Nat := if cf = 3 then 8 else if cf = 0 then 4 else 2
/-- The fields of a frame of ACLD, ACST or ACZ: registers, type, format, width, and the consecutive columns of a lane. -/
structure Sys2Proof.Claims.AccFrame where
  vr : Nat
  nr : Nat
  t : BitVec 4
  cf : Nat
  n : Nat
def Sys2Proof.Claims.accFrame (g : Group) (f : FmtA) : AccFrame :=
  ⟨word g f 0 % 256, word g f 0 / 256 % 16 + 1, BitVec.ofNat 4 (word g f 0 / 4096), word g f 4 / 65536, word g f 4 % 65536⟩
def Sys2Proof.Claims.AccFrame.cols (x : AccFrame) : Nat := x.nr / regs x.t * (shape x.t).2
/-- The ACM offset of an element. -/
def Sys2Proof.Claims.accAt (g : Group) (f : FmtA) (row col : Nat) : Nat :=
  let x := accFrame g f
  word g f 1 + row * accRow x.n x.cf + col * accSize x.cf
/-- The limits that every frame keeps, those of ACLD and ACST over their lanes, and those of ACZ. -/
def Sys2Proof.Claims.GoodAcc (g : Group) (f : FmtA) : Prop :=
  let w := word g f
  zeroAfter g f 6 ∧ w 1 < 2 ^ 18 ∧ w 1 % 64 = 0 ∧ w 2 ≤ 127 ∧ w 3 < 512 ∧ w 4 < 2 ^ 18 ∧ 1 ≤ w 4 % 65536 ∧ w 4 % 65536 ≤ 256
def Sys2Proof.Claims.GoodAccLanes (s : State) (f : FmtA) (ls : List Nat) : Prop :=
  let g := s.me
  let w := word g f
  let x := accFrame g f
  GoodAcc g f ∧ w 0 < 65536 ∧ 8 ≤ x.t.toNat ∧ x.t.toNat ≤ 14 ∧ x.nr % regs x.t = 0 ∧ w 3 + x.cols ≤ x.n ∧ x.vr + x.nr ≤ g.nv ∧
    ∀ l ∈ ls, w 2 + l ≤ 127 ∧ accAt g f (w 2 + l) (w 3 + x.cols) ≤ (s.kernelOf s.cur).acm
def Sys2Proof.Claims.GoodAccZero (s : State) (f : FmtA) : Prop :=
  let w := word s.me f
  let x := accFrame s.me f
  GoodAcc s.me f ∧ w 0 = 0 ∧ 1 ≤ w 3 ∧ w 3 ≤ 128 ∧ w 2 + w 3 ≤ 128 ∧ accAt s.me f (w 2 + w 3 - 1) x.n ≤ (s.kernelOf s.cur).acm

/-- R25, R38, R256, R257: ACLD writes to each lane's registers, and ACST to its row of ACM, each element times SCALE rounded once to the
destination format, with the stream's words under SR; ACZ writes FILL, rounded to nearest even, to whole rows. Other bytes of ACM stay; g(ST) is 0
and status is set in the lanes at the completion point. A frame that breaks a limit gives g(ST) = 0x0F and nothing else. -/
def Obligations.AccumulatorAccessScalesAndFills : Prop :=
  ∀ (s : State) (c : Ctl) (f : FmtA), Acts s.me f.gd (frameList f) → s.me.gnext = none →
    let g := s.me
    let w := word g f
    let x := accFrame g f
    let ls := (List.range 32).filter (fun l => (g.am &&& ~~~g.xm).getLsbD l)
    let env := environment g 0
    let st := f.st.toNat
    let per := if env.rm = 6 then x.cols else 0
    let words := fun k => ((s.draws (per * ls.length)).drop (per * k)).take per
    let m := (myScratch s).acm
    let cf := accFormat x.cf
    let size := accSize x.cf
    let scale := unpack fF32 env.daz (w 5)
    let acc := fun (t : State) (row col : Nat) => ofBytes (cread (myScratch t).acm (accAt g f row col) size)
    let loaded := fun (k l e : Nat) => scaleTo env cf (format x.t) (coinOf ((words k).getD e 0)) (unpack cf env.daz (acc s (w 2 + l) (w 3 + e))) scale
    let k := (shape x.t).2
    let element' := fun (l e : Nat) => (element x.t (operand g x.t (x.vr + regs x.t * (e / k)) l) (e % k)).toNat
    let stored := fun (q l e : Nat) => scaleTo env (format x.t) cf (coinOf ((words q).getD e 0)) (unpack (format x.t) env.daz (element' l e)) scale
    let raised := fun (v : Nat → Nat → Nat → Nat × BitVec 8) => ls.zipIdx.flatMap (fun y =>
      statusOf g.fmt y.1 ((List.range x.cols).foldl (fun a e => a ||| (v y.2 y.1 e).2) 0))
    let failed := (s.issue c none [.g st 0x0F false])
    (¬ GoodAccLanes s f ls → exec (.acld c f) s = .next failed ∧ exec (.acst c f) s = .next failed) ∧
    (¬ GoodAccZero s f → exec (.acz c f) s = .next failed) ∧
    (GoodAccLanes s f ls → (myScratch s).acmBad = [] → exec (.acld c f) s = .next ((s.drawn (per * ls.length)).issue c none (ls.zipIdx.flatMap (fun y => (List.range (x.nr / regs x.t)).flatMap (fun j =>
          laneWrite x.t (x.vr + regs x.t * j) y.1 (joined x.t (fun i => BitVec.ofNat _ (loaded y.2 y.1 (k * j + i)).1)))) ++ raised loaded ++ [.g st 0 false]))) ∧
    (GoodAccLanes s f ls → (∀ l ∈ ls, ∀ j, j < x.nr → 32 * (x.vr + j) + l ∉ g.badV) → ∃ u, exec (.acst c f) s = .next u ∧ u.mem = s.mem ∧
      u.me.pend = (s.issue c none (raised stored ++ [.g st 0 false])).me.pend ∧
      (∀ q l, ls.idxOf? l = some q → ∀ e, e < x.cols → acc u (w 2 + l) (w 3 + e) = (stored q l e).1 % 2 ^ (8 * size)) ∧
      (∀ b, (∀ l ∈ ls, b < accAt g f (w 2 + l) (w 3) ∨ accAt g f (w 2 + l) (w 3 + x.cols) ≤ b) → cget (myScratch u).acm b = cget m b)) ∧
    (GoodAccZero s f → ∃ u, exec (.acz c f) s = .next u ∧ u.mem = s.mem ∧ u.me.pend = (s.issue c none [.g st 0 false]).me.pend ∧
      u.me.astat = g.astat ∧
      (∀ i j, i < w 3 → j < x.n → acc u (w 2 + i) j = (if (unpack fF32 false (w 5)).isNan then quietNan cf
        else (roundFV envRne fF32 cf 0 (unpack fF32 false (w 5))).1) % 2 ^ (8 * size)) ∧
      (∀ b, (∀ i, i < w 3 → b < accAt g f (w 2 + i) 0 ∨ accAt g f (w 2 + i) x.n ≤ b) → cget (myScratch u).acm b = cget m b))

/-! ## LAUNCH and LQRY (R348, R350, R355, R357) -/

/-- R348, R355: with no earlier access of the group left, a LAUNCH whose record and descriptor can be read and pass R348 appends the kernel to its
queue with g(ST) = 0, or finds 64 records there and queues nothing with g(ST) = 1; a record that fails raises LAUNCH_INVALID, a misaligned one
MISALIGNED, and a frame with other registers set ILLEGAL_ENCODING. With earlier accesses left it holds the group. -/
def Sys2Proof.Claims.launchQueues : Prop :=
  ∀ (s : State) (c : Ctl) (f : FmtA), Acts s.me f.gd (frameList f) →
    let lr := pairAt s.me f 0
    let p := wcDrainGroup s s.cur
    let cx := s.me.ctx
    let core := s.coreOf s.cur
    let pages := fun (k : Kind) (va n : Nat) => ∀ x ∈ pagePieces va n, ∃ r, translate p cx core k x.1 = .ok r
    (¬ zeroAfter s.me f 2 → exec (.launch c f) s = .next (raise s (fi 0x01))) ∧
    (zeroAfter s.me f 2 → p.me.acc ≠ [] →
      exec (.launch c f) s = .next (held (p.issueHeld c) s.me.pc c.setk.toNat s.clock (.launch lr f.st.toNat))) ∧
    (zeroAfter s.me f 2 → p.me.acc = [] →
      (lr % 64 ≠ 0 → pages .read lr 64 → exec (.launch c f) s = .next (raise s ⟨0x03, 0, lr, 0, 0⟩)) ∧
      (∀ r d, lr % 64 = 0 → pages .read lr 64 → specRead p s.cur lr 64 false = .ok r →
        let kd := ofBytes (r.take 8)
        let cw := ofBytes ((r.drop 8).take 8)
        let k := kernelFrom cx lr r d
        pages .read kd 128 → specRead p s.cur kd 128 false = .ok d → (cw ≠ 0 → pages .write cw 8) → (∀ a ∈ k.after, pages .read a 8) →
        (recordBad (p.ctx cx) k r d = true → exec (.launch c f) s = .next (raise s (fi 0x1D))) ∧
        (recordBad (p.ctx cx) k r d = false → 64 ≤ (mget (p.ctx cx).queues [] k.queue).length → ∃ u, exec (.launch c f) s = .next u ∧
          (∃ id, u.me.pend = s.me.pend ++ [⟨id, none, c.setk.toNat, [.g f.st.toNat 1 false]⟩]) ∧ u.kernels = s.kernels ∧ (u.ctx cx).queues = (p.ctx cx).queues) ∧
        (recordBad (p.ctx cx) k r d = false → (mget (p.ctx cx).queues [] k.queue).length < 64 → ∃ u n, exec (.launch c f) s = .next u ∧
          mget? u.kernels n = some { k with launchAt := s.clock, order := n } ∧ (∀ q, mget (u.ctx cx).queues [] q =
            mget (p.ctx cx).queues [] q ++ (if q = k.queue then [n] else [])) ∧ u.me.pc = s.me.pc + 8 ∧ u.me.v = s.me.v ∧ u.me.g = s.me.g ∧
          (∃ id, u.me.pend = s.me.pend ++ [⟨id, none, c.setk.toNat, [.g f.st.toNat 0 false]⟩]) ∧ (cw = 0 → u.mem = p.mem))))

/-- R357: LQRY.queue gives the records queued, the free entries and the records placed; LQRY.sys the phase (0 outside DET), the headroom, whether a
channel of this die runs and a save is under way, and the resident blocks of the context on this die. -/
def Sys2Proof.Claims.launchQueries : Prop :=
  ∀ (s : State) (c : Ctl) (f : FmtA), Acts s.me f.gd (frameList f) →
    let x := s.ctxOf s.cur
    let q := word s.me f 0
    let n := (mget x.queues [] q).length
    let st := f.st.toNat
    let die := s.dieOf s.cur
    (zeroAfter s.me f 1 → q < 64 → exec (.lqryQueue c f) s = .next (s.issue c none (
      .g st (BitVec.ofNat 32 n) false :: .g (st + 1) (BitVec.ofNat 32 (64 - n)) false :: pairG (st + 2) (BitVec.ofNat 64 (mget x.placed 0 q))))) ∧
    (zeroAfter s.me f 0 → ∃ bits : W32, exec (.lqrySys c f) s = .next (s.issue c none [.g st (BitVec.ofNat 32 (if x.det then x.phase else 0)) false,
        .g (st + 1) (BitVec.ofNat 32 (s.pkg (die / 2)).hdrm) false, .g (st + 2) bits false,
        .g (st + 3) (BitVec.ofNat 32 (s.blocks.filter (fun b => (b.2.stage == .placed || b.2.stage == .running) && b.2.ctx == s.me.ctx &&
          b.2.cores.any (fun k => k / 64 == die))).length) false]) ∧
      bits.toNat < 4 ∧ (bits.getLsbD 0 = true ↔ ∃ e ∈ (s.die die).chans, e.2.op ≠ none) ∧
      ((∀ k gr, mget? s.groups k = some gr → gr.stop ≠ .saved) → x.stopping = false → bits.getLsbD 1 = false)) ∧
    (¬ zeroAfter s.me f 1 → exec (.lqryQueue c f) s = .next (raise s (fi 0x01)) ∧ exec (.lqrySys c f) s = .next (raise s (fi 0x01)))

/-- The launch instruction queues a record or gives a status, and the three queries give their counters. -/
def Obligations.LaunchAndQueries : Prop := launchQueues ∧ launchQueries

/-! ## The generation instructions (R361 to R370) -/

/-- The fields of a header that the instructions read (R361, R362), of its 64 bytes. -/
structure Sys2Proof.Claims.Header where
  base : Nat
  nstop : Nat
  req : Nat
  rb : Nat
  clen : Nat
  spn : Nat
  maxr : Nat
  stops : Nat → Nat
def Sys2Proof.Claims.header (b : List Byte) : Header :=
  let n := fun (a k : Nat) => ofBytes ((b.drop a).take k)
  ⟨n 0 8 / 64 * 64, n 0 8 % 32, n 8 4, n 12 4, n 16 3, n 19 1, n 20 3, fun k => n 24 40 / 2 ^ (20 * k) % 2 ^ 20⟩
/-- The header is well formed and the generation has not ended (R363). -/
def Sys2Proof.Claims.HeaderLive (b : List Byte) : Prop :=
  let h := header b
  let w0 := ofBytes (b.take 8)
  b.length = 64 ∧ w0 / 32 % 2 = 0 ∧ w0 < 2 ^ 57 ∧ h.nstop ≤ 16 ∧ h.rb % 64 = 0 ∧ 64 ≤ h.rb ∧ h.rb ≤ 2 ^ 24 ∧ 1 ≤ h.maxr ∧ h.clen + h.spn ≤ h.maxr ∧
    (∀ k, h.nstop ≤ k → k < 16 → h.stops k = 0) ∧ ofBytes ((b.drop 23).take 1) = 0
/-- The STATE word with new fields. -/
def Sys2Proof.Claims.stateWord (clen spn maxr done reason : Nat) : List Byte :=
  toBytes 3 clen ++ toBytes 1 spn ++ toBytes 3 maxr ++ toBytes 1 (done + 2 * reason)
/-- Memory as it stands with these bytes stored at a virtual address by the group. -/
def Sys2Proof.Claims.storedBy (s u : State) (va : Nat) (bytes : List Byte) : Prop :=
  let t := specWrite s s.cur va bytes
  u.mem = t.mem ∧ u.l2 = t.l2
/-- The tokens emitted: up to and with the first that matches the stop list (R363, R368), and whether one did. -/
def Sys2Proof.Claims.emittedOf (h : Header) (ts : List Nat) : Nat × Bool :=
  match ts.findIdx? (fun t => t < 2 ^ 20 ∧ ∃ k, k < h.nstop ∧ h.stops k = t) with
  | some i => (i + 1, true)
  | none => (ts.length, false)
/-- An array of 32-bit words. -/
def Sys2Proof.Claims.wordList (b : List Byte) : List Nat := (List.range (b.length / 4)).map (fun i => ofBytes ((b.drop (4 * i)).take 4))

/-- R361 to R370, outside a DET context: with addresses that translate, SPAPP adds n speculative rows and gives the first new row and its address;
SPVER gives the count of accepted drafts, the bonus and ND; SPACC emits tokens up to the first stop, keeps the rows of the accepted drafts, and
gives count, rows and DONE with REASON; SPRST starts the region. Each leaves its group free to go on, with its STATE stored where the rule says. The
count of `.prob` is by the model's comparison of exact reals. SPACC is meant with an empty rollback range or one on pages that are skipped. -/
def Obligations.GenerationInstructionsRun : Prop :=
  ∀ (s : State) (c : Ctl) (f : FmtA) (b : List Byte), Acts s.me f.gd (frameList f) → s.isDet s.cur = false → s.me.hold = none → s.me.hold2 = none →
    let g := s.me
    let w := word g f
    let va := pairAt g f 0
    let h := header b
    let st := f.st.toNat
    let p := wcDrainGroup s s.cur
    let results := fun (u : State) (l : List Nat) => u.me.hold = none ∧ u.me.pc = g.pc + 8 ∧ u.me.v = g.v ∧
      (s.probe.on = false → ∀ i, i < l.length → u.me.rg (st + i) = BitVec.ofNat 32 (l.getD i 0))
    HeaderLive b → specRead s s.cur va 64 true = .ok b → specRead p s.cur va 64 true = .ok b → headFaults s va .write = [] → headFaults s va .read = [] →
    (zeroAfter g f 3 → 1 ≤ w 2 → w 2 ≤ 255 - h.spn → h.clen + h.spn + w 2 ≤ h.maxr → ∃ u, exec (.spapp c f) s = .next u ∧
      (let a := (h.base + (h.clen + h.spn) * h.rb) % 2 ^ 64
       results u [0, h.clen + h.spn, a % 2 ^ 32, a / 2 ^ 32]) ∧ storedBy p u (va + 16) (stateWord h.clen (h.spn + w 2) h.maxr 0 0)) ∧
    (zeroAfter g f 3 → w 2 = 0 ∨ w 2 > 255 - h.spn ∨ h.clen + h.spn + w 2 > h.maxr → ∃ r : FaultInfo, r.code = 0x1C ∧
      exec (.spapp c f) s = .next (raise s r)) ∧
    (∀ d t, w 14 ≤ h.spn → w 15 = 0 → (∀ i, 6 ≤ i → i ≤ 13 → w i = 0) → (specArrs 0xF9 0 ((frameList f).map g.rg)).flatMap (arrFaults s) = [] →
      (specRead s s.cur va 64 false = .ok b) →
      specRead s s.cur (pairAt g f 2) (4 * w 14) false = .ok d → specRead s s.cur (pairAt g f 4) (4 * w 14 + 4) false = .ok t →
      d.length = 4 * w 14 → t.length = 4 * w 14 + 4 →
      ∃ u a, exec (.spverExact c f) s = .next u ∧ u.mem = s.mem ∧ u.l2 = s.l2 ∧ a ≤ w 14 ∧
        (wordList d).take a = (wordList t).take a ∧ (a < w 14 → (wordList d)[a]? ≠ (wordList t)[a]?) ∧ results u [0, a, (wordList t).getD a 0, w 14]) ∧
    (∀ pt pd, w 14 ≤ h.spn → w 15 = 0 → w 4 = 0 → w 5 = 0 → (specArrs 0xF9 1 ((frameList f).map g.rg)).flatMap (arrFaults s) = [] →
      (specRead s s.cur va 64 false = .ok b) →
      specRead s s.cur (pairAt g f 6) (4 * w 14) false = .ok pt → specRead s s.cur (pairAt g f 8) (4 * w 14) false = .ok pd →
      pt.length = 4 * w 14 → pd.length = 4 * w 14 →
      let row := h.clen + h.spn - w 14
      let accepted := fun i => probAccepts (generator (fun j => g.rg (f.fb.toNat + 10 + j)) (fun j => if j = 0 then 0x80000000
        else if j = 1 then BitVec.ofNat 32 (row + i) else if j = 2 then BitVec.ofNat 32 h.req else 1) 0).toNat ((wordList pd).getD i 0) ((wordList pt).getD i 0)
      ∃ u a, exec (.spverProb c f) s = .next u ∧ u.mem = s.mem ∧ u.l2 = s.l2 ∧ a ≤ w 14 ∧ (∀ i, i < a → accepted i = true) ∧
        (a < w 14 → accepted a = false) ∧ results u [0, a, 0xFFFFFFFF, w 14]) ∧
    (∀ d, w 8 ≤ h.spn → w 2 ≤ w 8 → zeroAfter g f 9 → (specArrs 0xFA 0 ((frameList f).map g.rg)).flatMap (arrFaults s) = [] → pairAt g f 6 = 0 →
      specRead s s.cur (pairAt g f 4) (4 * w 2) true = .ok d → specRead p s.cur (pairAt g f 4) (4 * w 2) true = .ok d → d.length = 4 * w 2 →
      let em := emittedOf h (wordList d ++ (if w 3 = 0xFFFFFFFF then [] else [w 3]))
      let keep := h.spn - w 8 + min (w 2) em.1
      let clen := h.clen + keep
      let done := if em.2 then 1 else if clen = h.maxr then 1 else 0
      let reason := if em.2 then 1 else if clen = h.maxr then 2 else 0
      cohPieces p s.cur ((h.base + h.rb * clen) % 2 ^ 64) (h.rb * (h.spn - keep)) = [] →
      ∃ u, exec (.spacc c f) s = .next u ∧ results u [0, em.1, keep, done + 2 * reason] ∧
        storedBy p u (va + 16) (stateWord clen 0 h.maxr done reason)) ∧
    (zeroAfter g f 4 → w 3 ≤ h.maxr → ∃ u, exec (.sprst c f) s = .next u ∧ results u [0] ∧
      storedBy (specWrite p s.cur (va + 8) (toBytes 4 (w 2))) u (va + 16) (stateWord (w 3) 0 h.maxr 0 0))

/-! ## Reset, memory, the step -/

/-- The invariant of memory: addresses rise strictly, and no listed byte is what an unlisted one reads as (log 6). -/
def Sys2Proof.Claims.MemoryCanonical (s : State) : Prop := Memory.wf s.mem = true

/-- The machine right after reset keeps memory in its canonical form, and holds no group, block, kernel, context, copy or message. The empty
tables are the model's choice where no rule gives a value (log 5); that an unlisted byte reads 0 is the model's choice (log 6). -/
def Obligations.ResetStateIsCanonicalAndEmpty : Prop :=
  MemoryCanonical State.reset ∧ (∀ a, cget State.reset.mem a = 0) ∧
  State.reset.groups = [] ∧ State.reset.blocks = [] ∧ State.reset.kernels = [] ∧ State.reset.ctxs = [] ∧ State.reset.l2 = [] ∧
  State.reset.dir = [] ∧ State.reset.net = [] ∧
  (∀ c i, mget (State.reset.core c).pred 0 i = 0) ∧ (∀ p, (State.reset.pkg p).hdrm = 0 ∧ (State.reset.pkg p).keys = []) ∧
  ∀ g : Group, g = {} → g.fmt = 0x21 ∧ g.am = 0xFFFFFFFF ∧ g.xm = 0 ∧ g.stack = [] ∧ g.q = 0 ∧ (∀ n, g.rg n = 0) ∧ (∀ n l, g.rv n l = 0) ∧
    (∀ l, g.rp 7 l = decide (l < 32)) ∧ g.rq 7 = true ∧ ∀ k, g.kc k = 0

/-- An invariant that every step keeps: the canonical form of memory, from every state that has it. -/
def Obligations.EveryStepKeepsMemoryCanonical : Prop :=
  ∀ s u : State, MemoryCanonical s → step s = .next u → MemoryCanonical u

/-- R6, R379: MODULE_RESET and POD_RESET leave no group, kernel, context, copy, directory entry or message, no key, sr.clock counting from 0 and the
headroom 0; ports that are down stay down at MODULE_RESET, and all are up after POD_RESET. That memory keeps its bytes is the model's choice
(log 44). -/
def Obligations.ResetsClearTheMachine : Prop :=
  ∀ s : State, ∃ u v, exec .moduleReset s = .next u ∧ exec .podReset s = .next v ∧ u.ports = s.ports ∧ (∀ p, mget v.ports .up p = .up) ∧
    ∀ t : State, t = u ∨ t = v → t.mem = s.mem ∧ t.packages = s.packages ∧ t.groups = [] ∧ t.blocks = [] ∧ t.kernels = [] ∧ t.ctxs = [] ∧
      t.clusters = [] ∧ t.l2 = [] ∧ t.dir = [] ∧ t.busy = [] ∧ t.net = [] ∧ t.retryStore = [] ∧ t.turn = [] ∧
      (∀ c i, mget (t.core c).pred 0 i = 0 ∧ (t.core c).tlb = [] ∧ (t.core c).l1 = []) ∧
      ∀ p, p < t.packages → t.clock - (t.pkg p).resetAt = 0 ∧ (t.pkg p).hdrm = 0 ∧ (t.pkg p).keys = [] ∧ (t.pkg p).fatal = false ∧ (t.pkg p).hbmCe = 0

/-- The packet of an address that a group has received, without an error in it: 32 bytes that start at a multiple of 32 (R51, R54). -/
def Sys2Proof.Claims.Holds (t : State) (g : Nat) (a : W64) (bs : List Byte) : Prop :=
  (∃ e, translate t (t.grp g).ctx (t.coreOf g) .fetch a.toNat = .ok e) ∧ (t.grp g).packet = some (a.toNat / 32 * 32, bs, false)

/-- An instruction word that a group fetches: the eight bytes at its place in the packet the group has received. -/
def Sys2Proof.Claims.Fetched (t : State) (g : Nat) (a w : W64) : Prop :=
  ∃ bs, Holds t g a bs ∧ w = BitVec.ofNat 64 (ofBytes ((bs.drop (a.toNat % 32)).take 8))

/-- R54: the packet a group receives is the one it issues from, or all 32 bytes at once, as they stand in memory or, for a kernel whose start left
a snapshot, as they stood at that start. Which of the two the machine takes is a free choice (log 79). -/
def Sys2Proof.Claims.Received (s t : State) (g : Nat) : Prop :=
  let a := (s.grp g).pc.toNat / 32 * 32
  t = fetchPacket s g ∧ (t.grp g).pc = (s.grp g).pc ∧ t.mem = s.mem ∧
    ((∃ r, (s.grp g).packet = some (a, r)) → t = s) ∧
    ∀ e pa, (∀ r, (s.grp g).packet ≠ some (a, r)) → translate s (s.grp g).ctx (s.coreOf g) .fetch a = .ok (e, pa) →
      ∃ from', (from' = s ∨ ∃ x, mget? s.starts (s.blk (g / 512)).kernel = some x ∧ from' = s.atStart x) ∧
        (t.grp g).packet = some (a, physRead from' e.pol pa 32 e.key)

/-- R51, R53, R54, R55, R24, R29: a step whose turn is a group's receives its packet and runs the instruction its PC's word decodes to; a word with
the chain bit runs with the word after it, both with their faults noted, and either both take effect or, with a fault of either, neither (behind a
first word that faults the second still stands at its own address); a word that does not decode raises ILLEGAL_ENCODING, as does a chain bit at
position 3; a failed fetch raises its own fault. Of a chain that holds the group, the register writes belong to the chain. With no turn the oldest
outside event is executed, and with none of these the machine's own next happening. -/
def Obligations.StepRunsTheDecodedInstruction : Prop :=
  (∀ (s : State) (g : Nat) (rest : List Nat), s.turn = g :: rest → ∃ t, Received { s with turn := rest, cur := g, probe := {} } t g ∧
    let pc := (t.grp g).pc
    (∀ w i, Fetched t g pc w → decode w = .ok i → w.getLsbD 63 = false → step s = exec i t) ∧
    (∀ w x, Fetched t g pc w → decode w = .error x → step s = .next (deliver t g (fi 0x01))) ∧
    (∀ w i, Fetched t g pc w → decode w = .ok i → w.getLsbD 63 = true →
      (pc.toNat / 8 % 4 = 3 → step s = .next (deliver t g (fi 0x01))) ∧
      (∀ v x, pc.toNat / 8 % 4 ≠ 3 → Fetched t g (pc + 8) v → decode v = .error x → step s = .next (deliver t g (fi 0x01))) ∧
      (∀ v j, pc.toNat / 8 % 4 ≠ 3 → Fetched t g (pc + 8) v → decode v = .ok j →
        (chainLegal (pc.toNat / 8 % 4) i j = false → step s = .next (deliver t g (fi 0x01))) ∧
        (∀ u y, chainLegal (pc.toNat / 8 % 4) i j = true → exec i { t with probe := { on := true } } = .next u →
          exec j (if u.probe.raised = none then u else u.modGrp g (fun x => { x with pc := pc + 8 })) = .next y →
          (y.probe.raised = none → (y.grp g).hold = none → step s = .next { y with probe := {} }) ∧
          (y.probe.raised = none → (y.grp g).hold ≠ none →
            step s = .next { y.modGrp g (fun x => { x with chain := some (pc, t.nextId) }) with probe := {} }) ∧
          (∀ r, y.probe.raised = some r → y.probe.partner = none → step s = .next (deliver t g r)) ∧
          (∀ r p, y.probe.raised = some r → y.probe.partner = some p → step s = .next (deliver (faultPartner t p.1 p.2) g r))))) ∧
    (∀ r, translate t (t.grp g).ctx (t.coreOf g) .fetch pc.toNat = .error r → step s = .next (deliver t g ⟨r.code, r.flags, pc.toNat, 0, 0⟩)) ∧
    (∀ e bs, translate t (t.grp g).ctx (t.coreOf g) .fetch pc.toNat = .ok e → (t.grp g).packet = some (pc.toNat / 32 * 32, bs, true) →
      step s = .next (deliver t g ⟨0x16, 0, pc.toNat, 0, 0⟩))) ∧
  (∀ (s : State) (e : Instr) (rest : List Instr), s.turn = [] → s.inputs = e :: rest → step s = exec e { s with inputs := rest }) ∧
  ∀ s : State, s.turn = [] → s.inputs = [] → step s = autoStep s

/-- R57 to R68: the encoder gives every well-formed instruction a word, and that word decodes to the instruction, whatever its fields hold. -/
def Obligations.DecodeOfEncodeIsTheInstruction : Prop :=
  ∀ i : Instr, WellFormed i → ∃ w : W64, encode i = some w ∧ decode w = .ok i

/-- Words that the spec's encoding tables print, with the instruction each stands for, one or two of a family. -/
def Sys2Proof.Claims.printedWords : List (W64 × Instr) := [
  (0x0000000000000000, .nop ⟨0, 0, 0, 0⟩ ⟨0⟩),
  (0x8000001E40900000, .pfx ⟨1, 0, 0, 0⟩ ⟨7, 0, 2, 0, 9, 0⟩),
  (0x0000013704041080, .gadd ⟨0, 0, 0, 0⟩ ⟨7, 4, 4, 0x10, 0x80⟩),
  (0x000002F2FFFFFA00, .bra ⟨0, 0, 0, 0⟩ ⟨2, 0xFFFFFA, 0⟩),
  (0x0000152B02000518, .vadd ⟨0, 0, 0, 1⟩ ⟨0xB, 2, 0, 5, 1, 8⟩),
  (0x0000083704050680, .ffma ⟨0, 0, 0, 0⟩ ⟨7, 4, 5, 6, 8, 0⟩),
  (0x00000A77080607A6, .lred ⟨0, 0, 0, 0⟩ ⟨7, 8, 6, 7, 0xA, 6⟩),
  (0x00001B270C03F002, .lds ⟨0, 0, 0, 1⟩ ⟨7, 12, 3, 7, 4, 0, 2⟩),
  (0x00000B770604AA00, .stl ⟨0, 0, 0, 0⟩ ⟨7, 6, 4, 5, 2, 2, 0⟩),
  (0x00000C4709030D20, .tbarv ⟨0, 0, 0, 0⟩ ⟨7, 9, 3, 0, 3, 1, 0x20⟩),
  (0x00000CF706040300, .rdhintQuery ⟨0, 0, 0, 0⟩ ⟨7, 6, 4, 0, 0, 3, 0⟩),
  (0x00002D070402060A, .atom ⟨0, 0, 0, 2⟩ ⟨7, 4, 2, 6, 0, 5, 0⟩),
  (0x00003D9720300001, .skadd ⟨0, 0, 0, 3⟩ ⟨7, 0x20, 0x30, 0, 0, 1⟩),
  (0x00002E8720300000, .mxm ⟨0, 0, 0, 2⟩ ⟨7, 0x20, 0x30, 0, 0, 0⟩),
  (0x00004F4740500006, .clrun ⟨0, 0, 0, 4⟩ ⟨7, 0x40, 0x50, 0, 0, 6⟩),
  (0x00000F7710081000, .lqrySys ⟨0, 0, 0, 0⟩ ⟨7, 0x10, 8, 1, 0, 0⟩),
  (0x00000F9740501000, .spverProb ⟨0, 0, 0, 0⟩ ⟨7, 0x40, 0x50, 1, 0, 0⟩)]

/-- The printed words decode to their instructions, and the printed illegal ones do not decode. -/
def Obligations.PrintedWordsDecode : Prop :=
  (∀ x ∈ printedWords, decode x.1 = .ok x.2) ∧
  ∀ w ∈ ([0x0000092000000000, 0x0000D83704050680, 0x00000837040506F0, 0xFFFFFFFFFFFFFFFF] : List W64), ∃ e, decode w = .error e

/-! ## Completion points (R12, R59, R60) -/

/-- R12, R59, R60: what an issued instruction wrote down becomes visible exactly when it completes: COMPLETION_POINT of a fixed latency whose cycle has
come, or of a variable one that is ready, writes the registers, lowers the counter of its SETK field by 1, removes the entry and changes nothing
else of the group; before its cycle it does nothing, nor while a chain it belongs to holds the group (R24). The visible cycle of a variable-latency result is the model's reading (log 11). -/
def Obligations.ResultsAppearAtCompletionPoints : Prop :=
  ∀ (s : State) (g : Nat) (p : Pend), (s.grp g).pend.find? (fun q => q.id == p.id) = some p → (s.grp g).live = true →
    (∀ d, p.due = some d → s.clock < d → exec (.completionPoint g p.id) s = .next s) ∧
    (∀ h a n, (s.grp g).hold = some h → (s.grp g).chain = some (a, n) → n ≤ p.id → exec (.completionPoint g p.id) s = .next s) ∧
    ((s.grp g).hold = none ∨ (s.grp g).chain = none ∨ (∃ a n, (s.grp g).chain = some (a, n) ∧ p.id < n) →
      (∃ d, p.due = some d ∧ d ≤ s.clock) ∨ (p.due = none ∧ (s.blk (g / 512)).xfer = [] ∧ ∀ t, (s.grp g).lastIssue = some t → t < s.clock) →
      ∃ u x, exec (.completionPoint g p.id) s = .next u ∧ u = s.setGrp g x ∧
        x.pend = (s.grp g).pend.filter (fun q => q.id != p.id) ∧ x.pc = (s.grp g).pc ∧ x.am = (s.grp g).am ∧ x.hold = (s.grp g).hold ∧
        (∀ k, x.kc k = if p.setk ≠ 0 ∧ k = p.setk - 1 then (s.grp g).kc k - 1 else (s.grp g).kc k) ∧
        (∀ n v b, p.wr = [.g n v b] → (∀ i, x.rg i = if i = n then v else (s.grp g).rg i) ∧ (n ∈ x.badG ↔ b = true) ∧ x.v = (s.grp g).v) ∧
        (∀ n l v b, p.wr = [.v n l v b] → l < 32 → (∀ i k, k < 32 → x.rv i k = if i = n ∧ k = l then v else (s.grp g).rv i k) ∧ x.g = (s.grp g).g) ∧
        (∀ i l b, p.wr = [.p i l b] → l < 32 → ∀ j k, k < 32 → x.rp j k = if j = i ∧ k = l ∧ i ≠ 7 then b else (s.grp g).rp j k) ∧
        (∀ i b, p.wr = [.q i b] → i < 8 → ∀ j, j < 8 → x.rq j = if j = i ∧ i ≠ 7 then b else (s.grp g).rq j) ∧
        (∀ l st b, p.wr = [.stat l st b] → st ≠ 0 → l < 32 → x.stat l = (s.grp g).stat l ||| st ∧
          x.trap = (if b then (s.grp g).trap ||| (1#32 <<< l) else (s.grp g).trap) ∧ x.g = (s.grp g).g ∧ x.v = (s.grp g).v) ∧
        (∀ m, p.wr = [.statClear m] → ∀ l, l < 32 → x.stat l = (s.grp g).stat l &&& ~~~m) ∧
        (∀ v, p.wr = [.fstat v] → x.fstat = v) ∧
        (∀ v, p.wr = [.fmt v] → x.fmt = v ∧ x.g = (s.grp g).g ∧ x.v = (s.grp g).v) ∧
        (p.wr = [] → x.g = (s.grp g).g ∧ x.v = (s.grp g).v ∧ x.p = (s.grp g).p ∧ x.q = (s.grp g).q ∧ x.fmt = (s.grp g).fmt))

/-! ## Taking a precise fault (R24 to R26) -/

/-- The general registers, lane registers, predicates, masks, stack and generator of a group stay. -/
def Sys2Proof.Claims.SameWork (x y : Group) : Prop :=
  x.g = y.g ∧ x.v = y.v ∧ x.p = y.p ∧ x.q = y.q ∧ x.k = y.k ∧ x.fmt = y.fmt ∧ x.am = y.am ∧ x.xm = y.xm ∧ x.stack = y.stack ∧ x.sc = y.sc ∧
    x.nest = y.nest ∧ x.gk = y.gk ∧ x.gpos = y.gpos ∧ x.gsid = y.gsid ∧ x.pend = y.pend

/-- R24, R26: where a precise fault goes. A page fault of a context with a fault service, not outside the virtual space, whose record is
written, suspends the group at its PC. Any other fault enters the handler of its kernel: sr.fpc holds the PC of the faulting instruction, PC the
handler, sr.fstat the code, V and REC, and the trap-pending bits stay but for ARITH and DIV_DEPTH. With no handler, or in the handler before its
first report point, every group of the block stops and the kernel counts the block with the lowest code. Registers stay in each case. -/
def Obligations.PreciseFaultsSuspendEnterTheHandlerOrEndTheBlock : Prop :=
  ∀ (s : State) (g : Nat) (f : FaultInfo), (mget? s.groups g).isSome = true →
    let x := s.grp g
    let page := (f.code = 0x04 ∨ f.code = 0x05) ∧ (s.ctx x.ctx).fsvc ≠ 0 ∧ f.flags / 2 % 2 = 0
    let k := (s.kernelOf g)
    (page → ∀ t n, logTry s x.ctx (s.coreOf g) (groupRec s g f true) = (t, .written n) →
      ((deliver s g f).grp g).stop = .replay n ∧ ((deliver s g f).grp g).pc = (t.grp g).pc ∧ SameWork ((deliver s g f).grp g) (t.grp g)) ∧
    (page → ∀ t, logTry s x.ctx (s.coreOf g) (groupRec s g f true) = (t, .full) → t = s ∧
      ((deliver s g f).grp g).stop = .logWait ∧ ((deliver s g f).grp g).pc = x.pc ∧ SameWork ((deliver s g f).grp g) x) ∧
    (¬ page → ∀ h, k.handler = some h → x.inHandler = false →
      let y := (deliver s g f).grp g
      let r := logTry s x.ctx (s.coreOf g) (groupRec s g f false)
      y.fpc = x.pc ∧ y.pc = BitVec.ofNat 64 h ∧ y.inHandler = true ∧ y.stop = .running ∧ y.hold = none ∧ y.hold2 = none ∧ y.packet = none ∧
        y.trap = (if f.code = 0x0A ∨ f.code = 0x08 then 0 else x.trap) ∧
        (f.code < 64 → (y.fstat.extractLsb' 0 6).toNat = f.code ∧ y.fstat.getLsbD 6 = true ∧ (y.fstat.getLsbD 7 = true ↔ ∃ n, r.2 = .written n)) ∧
        SameWork y x) ∧
    (¬ page → k.handler = none ∨ x.inHandler = true → (s.blk (g / 512)).term = none →
      let t := deliver s g f
      (∀ w e, mget? t.groups w = some e → w / 512 = g / 512 → e.stop = .ended ∧ e.hold = none ∧ e.hold2 = none) ∧
      (t.blk (g / 512)).term = some f.code ∧
      (∀ m, mget? s.kernels (s.blk (g / 512)).kernel = some m → m.code = none → m.nterm < 2 ^ 24 - 1 →
        (t.krn (s.blk (g / 512)).kernel).code = some f.code ∧ (t.krn (s.blk (g / 512)).kernel).nterm = m.nterm + 1) ∧
      ∀ w, w / 512 ≠ g / 512 → ((t.grp w).stop = (s.grp w).stop ∧ (t.grp w).pc = (s.grp w).pc ∧ SameWork (t.grp w) (s.grp w)))

/-! ## Events of groups, partitions and time (R30, R60, R104 to R108, R145, R162, R178, R279, R337, R349) -/

/-- A waiting instruction is over: its hold is gone and its counter has fallen (R12). -/
def Sys2Proof.Claims.released (s : State) (g : Nat) (h : Hold) : State :=
  s.modGrp g (fun x => { (x.kDec h.setk) with hold := x.hold2, hold2 := none, waitFrom := if x.stop = .saved then 0 else s.clock })

/-- R5: the time in whole microseconds since a cycle, each cycle at the clock its package had then. -/
def Sys2Proof.Claims.timePasses : Prop :=
  ∀ (s : State) (p t : Nat),
    ((∀ c ∈ (s.pkg p).clocks, c.1 ≤ t) → elapsedUs s p t = (s.clock - t) / (s.pkg p).mhz) ∧
    ∀ a mhz rest, (s.pkg p).clocks = (a, mhz) :: rest → t < a → (∀ c ∈ rest, c.1 ≤ t) →
      elapsedUs s p t = ((s.clock - a) * mhz + (a - t) * (s.pkg p).mhz) / (mhz * (s.pkg p).mhz)

/-- The waits of R30 that leave nothing to take back, which the watchdog limit bounds. -/
def Sys2Proof.Claims.plainWait : HoldKind → Bool
  | .waitk _ _ | .parity _ _ _ false | .phWait _ _ | .tbWait _ _ _ | .waita _ _ _ _ _ | .bwait _ _ _ => true
  | _ => false

/-- R30, R105, R106, R178: SLEEP ends at its cycle and not before; YIELD ends when its 64 cycles are over or every group it waits for has issued or ended;
WAITA goes on when the word differs from the old value, with the new value; a wait that the watchdog limit bounds raises WATCHDOG at its own
instruction once the limit has passed, and a SLEEP never does; a group that does not run raises none. -/
def Sys2Proof.Claims.holdsEnd : Prop :=
  ∀ (s : State) (g : Nat) (h : Hold), (s.grp g).hold = some h →
    (∀ t, h.kind = .sleep t → (t ≤ s.clock → exec (.sleepEnd g) s = .next (released s g h)) ∧
      (s.clock < t → exec (.sleepEnd g) s = .next s) ∧ ((s.grp g).hold2 = none → exec (.watchdogExpiry g) s = .next s)) ∧
    (∀ os t, h.kind = .yield os t →
      let isOver := t ≤ s.clock ∨ ∀ o ∈ os, (s.grp o).stop = .ended ∨ ∃ x, (s.grp o).lastIssue = some x ∧ h.since ≤ x
      (isOver → exec (.yieldEnd g) s = .next (released s g h)) ∧ (¬ isOver → exec (.yieldEnd g) s = .next s)) ∧
    (∀ sp addr size gd old v bad, h.kind = .waita sp addr size gd old → (s.grp g).stop = .running → waitaRead s g sp addr size = .ok (v, bad) →
      (v = old → exec (.waitaWake g) s = .next s) ∧
      (v ≠ old → size = 4 → v < 2 ^ 32 → s.probe.on = false → ∃ u, exec (.waitaWake g) s = .next u ∧ u.mem = s.mem ∧ u.l2 = s.l2 ∧
        (u.grp g).hold = (s.grp g).hold2 ∧ (u.grp g).hold2 = none ∧
        ((u.grp g).rg gd).toNat = v ∧ (gd ∈ (u.grp g).badG ↔ bad = true) ∧
        (∀ r, r ≠ gd → (u.grp g).rg r = (s.grp g).rg r) ∧ (u.grp g).v = (s.grp g).v)) ∧
    (plainWait h.kind = true → (s.grp g).hold2 = none → (s.grp g).stop = .running → (s.blk (g / 512)).stage = .running →
      let limit := if (s.ctx (s.grp g).ctx).wdog = 0 then 2 ^ 32 else (s.ctx (s.grp g).ctx).wdog
      (limit ≤ elapsedUs s (s.pkgOf g) h.since → exec (.watchdogExpiry g) s = .next (faultHeld s g (fi 0x1A))) ∧
      (elapsedUs s (s.pkgOf g) h.since < limit → exec (.watchdogExpiry g) s = .next s)) ∧
    ((s.grp g).stop ≠ .running → exec (.watchdogExpiry g) s = .next s)

/-- R145: the picker of a partition runs once in a cycle and begins the next when every partition with groups has picked. With one resident group
that is ready and eligible, has its packet, has nothing pending and is in no DET context, that group gets the turn; with two whose next words are
single, the older one gets the first turn, unless only the younger has been eligible for 48 cycles, and the other the second where their pipes differ
(of two words with no pipe only one issues: the model's reading, log 86). -/
def Sys2Proof.Claims.pickerTurn : Prop :=
  ∀ (s : State) (p : Nat),
    let ready := fun (g : Nat) (x : Group) => x.part = p ∧ x.stop = .running ∧ x.hold = none ∧ x.hold2 = none ∧ x.fence = none ∧
      (∃ r, x.packet = some (x.pc.toNat / 32 * 32, r)) ∧ x.pend = [] ∧ x.acc = [] ∧ x.gnext = none ∧ x.stack = [] ∧
      x.run ≠ 0 ∧ s.isDet g = false ∧ (s.blk (g / 512)).stage = .running ∧ (s.blk (g / 512)).term = none ∧ eligible s g = true
    ((s.part p).pickedAt = some s.clock → (∃ g x, mget? s.groups g = some x ∧ (s.blk (g / 512)).stage = .running ∧ (s.part x.part).pickedAt ≠ some s.clock) →
      exec (.pickerIssue p) s = .next s) ∧
    ((s.part p).pickedAt ≠ some s.clock → ∀ g x, s.groups = [(g, x)] → ready g x → g ∉ s.turn →
      (∀ b, (s.blk b).stage = .running → b = g / 512) → ∃ u, exec (.pickerIssue p) s = .next u ∧ u.turn = s.turn ++ [g] ∧ u.clock = s.clock ∧ u.mem = s.mem ∧ (u.part p).pickedAt = some s.clock) ∧
    ((s.part p).pickedAt ≠ some s.clock → ∀ g x h y i j, s.groups = [(g, x), (h, y)] → g < h → ready g x → ready h y → s.turn = [] →
      planOf s g = .one i → planOf s h = .one j → x.startAt ≠ y.startAt → (x.fresh + 48 ≤ s.clock ↔ y.fresh + 48 ≤ s.clock) →
      ∃ u, exec (.pickerIssue p) s = .next u ∧
        let first := if x.startAt < y.startAt then g else h
        let second := if x.startAt < y.startAt then h else g
        u.turn = (if pipeOfOp (opcodeOf i) = pipeOfOp (opcodeOf j) then [first] else [first, second]))

/-- Waits end by their events, and the picker gives the turn to the oldest ready group. -/
def Obligations.WaitsEndAndThePickerGivesTurns : Prop := timePasses ∧ holdsEnd ∧ pickerTurn

/-- R162, R108, R337, R349, R279: a write-combining buffer drains 4,096 cycles after its first write, with exactly its bytes; a tracker entry leaves when
the last access it holds is over, and what these left in write-combining buffers drains; a fault that waits for a free log slot is delivered again; a completion word that waits is written once TAIL of
the fault log has moved and the page can be written; a replication interval ends every 2^20 cycles with the new RD of R279. -/
def Obligations.PartitionKernelAndIntervalEvents : Prop :=
  (∀ (s : State) (p n : Nat) (b : WcBuf), (s.part p).wc[n]? = some b → (s.part p).wc.Pairwise (fun x y => (x.g, x.line) ≠ (y.g, y.line)) →
    (s.clock < b.first + 4096 → exec (.wcBufferTimeout p n) s = .next s) ∧
    (b.first + 4096 ≤ s.clock → b.pol ≠ 0 → b.bytes.Pairwise (fun x y => x.1 ≠ y.1) → (∀ x ∈ b.bytes, x.1 < 256) →
      ∃ u, exec (.wcBufferTimeout p n) s = .next u ∧ (u.part p).wc = (s.part p).wc.eraseIdx n ∧
        (∀ x ∈ b.bytes, dramByte u (256 * b.line + x.1) b.key = x.2) ∧
        ∀ a, a / 2 ^ 43 = 256 * b.line / 2 ^ 43 → (∀ x ∈ b.bytes, a ≠ 256 * b.line + x.1) → dramByte u a b.key = dramByte s a b.key)) ∧
  (∀ (s : State) (p n : Nat) (t : TrackEnt), (s.part p).tracker.find? (fun e => e.id == n) = some t →
    ((s.grp t.g).acc ≠ [] → (s.grp t.g).fence = none → exec (.trackerEntryRetire p n) s = .next s) ∧
    ((s.grp t.g).acc = [] → (s.grp t.g).fence = none → (s.grp t.g).stop = .ended → (∃ w e, mget? s.groups w = some e ∧ w / 512 = t.block ∧ e.stop ≠ .ended) →
      exec (.trackerEntryRetire p n) s = .next ((wcDrainGroup s t.g).modPart p (fun x => { x with tracker := x.tracker.filter (fun e => e.id != n) })))) ∧
  (∀ (s : State) (cx g : Nat) (x : Group) (f : FaultInfo), s.groups = [(g, x)] → x.ctx = cx → x.waiting = some f →
    (s.blk (g / 512)).stage = .running →
    (x.stop = .logWait → exec (.logSlotFree cx) s = .next (deliver s g f)) ∧ (x.stop ≠ .logWait → exec (.logSlotFree cx) s = .next s)) ∧
  (∀ (s : State) (cx kn : Nat) (k : Kernel), s.kernels = [(kn, k)] → k.ctx = cx → k.cwWaiting = true →
    let word := toBytes 8 (1 + 2 * k.code.getD 0 + 256 * k.nterm)
    (k.cwTail = logTail s cx → exec (.completionWordRetry cx) s = .next s) ∧
    (k.cwTail ≠ logTail s cx → (∀ t, sysWrite s cx k.cw word = .ok t → ∃ u, exec (.completionWordRetry cx) s = .next u ∧ u.mem = t.mem ∧ u.l2 = t.l2 ∧
        ∀ m, mget? u.kernels kn = some m → m.cwWaiting = false) ∧
      (∀ e, sysWrite s cx k.cw word = .error e → exec (.completionWordRetry cx) s = .next (s.modKrn kn (fun k => { k with cwTail := logTail s cx }))))) ∧
  (∀ (s : State) (die : Nat),
    let n := (s.clock - (s.pkg (die / 2)).resetAt) / 2 ^ 20
    (n ≤ (s.die die).intervals → exec (.intervalEnd die) s = .next s) ∧
    ((s.die die).intervals < n → ∃ u, exec (.intervalEnd die) s = .next u ∧ u.mem = s.mem ∧ u.groups = s.groups ∧
      (u.die die).intervals = (s.die die).intervals + 1 ∧
      ∀ i r, mget? (s.die die).regions i = some r → ∃ q, mget? (u.die die).regions i = some q ∧ q.floor = r.floor ∧ q.ceil = r.ceil ∧
        q.lastRr = r.rr ∧ q.lastNa = r.na ∧ q.lastWr = r.wr ∧ q.rr = 0 ∧ q.na = 0 ∧ q.wr = 0 ∧ q.lowered = false ∧
        (q.rd : Int) = min (r.ceil : Int) (max r.floor (if r.wr ≥ 32 then (r.rd : Int) - 1
          else if r.wr < 8 ∧ r.na ≥ 64 ∧ 4 * r.na ≥ r.rr then r.rd + 1 else r.rd))))

/-! ## Dispatch events (R10, R141, R145, R148, R203, R229 to R231, R352, R354, R358, R359) -/

/-- R352: the record chosen is eligible, of its context, of the lowest class among all eligible ones, and, unless another was passed over or a
command list runs, none of its class and context was launched earlier. -/
def Sys2Proof.Claims.choiceRule (s : State) : Prop :=
  ∀ (die cx r : Nat) (p : Option Nat), choose s die cx = some (r, p) → ∃ k, (r, k) ∈ eligibleOn s die ∧ k.ctx = cx ∧
    (∀ e ∈ eligibleOn s die, k.cls ≤ e.2.cls) ∧
    (p = none → (∀ ch core o, chanOp s die ch = some (core, o) → o.opc ≠ 0xF4) →
      ∀ e ∈ eligibleOn s die, e.2.ctx = cx → e.2.cls = k.cls → k.launchAt ≤ e.2.launchAt)

/-- The block that stands placed under a number: where it lies in the grid, its cores, when its clearing is over (R148). -/
def Sys2Proof.Claims.PlacedAs (s u : State) (b r lin : Nat) (cores : List Nat) (cluster : Option Nat) : Prop :=
  let k := s.krn r
  let x := u.blk b
  x.kernel = r ∧ x.lin = lin ∧ x.x = lin % k.gx ∧ x.y = lin / k.gx % k.gy ∧ x.z = lin / k.gx / k.gy ∧ x.cores = cores ∧ x.cluster = cluster ∧
    x.stage = .placed ∧ x.clearAt = s.clock + (k.scratch + 255) / 256 ∧ ∀ r a, cget (x.loc r).sp a = 0 ∧ cget (x.loc r).acm a = 0

/-- R148, R352, R353: the dispatcher's choice, and BLOCK_PLACE: the next block of the chosen record is placed on a core that fits it, with memories
that read zero; the record's byp becomes 0 and that of the record passed over grows by 1. -/
def Sys2Proof.Claims.blocksPlaced : Prop :=
  ∀ s : State, choiceRule s ∧
    ∀ (die cx core r : Nat) (p : Option Nat), dispatched s cx = true → (∀ e ∈ headsOf s cx, ∀ va, afterRes s e.2 ≠ .unread va) →
      choose s die cx = some (r, p) → (s.krn r).span = 1 → savedOf s r = [] → dieOfCore core = die →
      fitsCore s core (s.krn r) (List.range (s.krn r).groups) = true →
      ∃ u, exec (.blockPlace die cx core) s = .next u ∧ u.mem = s.mem ∧ u.nextId = s.nextId + 1 ∧ PlacedAs s u s.nextId r (s.krn r).next [core] none ∧
        (((u.blk s.nextId).loc 0).sb : Int) = max 0 ((s.krn r).scratch - 32 * (s.krn r).spd * (s.krn r).groups) ∧
        (u.krn r).next = (s.krn r).next + 1 ∧ (u.krn r).byp = 0 ∧ (∀ q, p = some q → q ≠ r → (u.krn q).byp = (s.krn q).byp + 1) ∧
        (blocksOn s core = [] → (u.core core).tlb = [] ∧ (u.core core).l1 = [])

/-- R10, R54, R86, R141, R148, R203, R229, R317, R353: BLOCK_START does nothing before the clearing is over, nor, in a DET context, while a lower block of
the kernel has not started; then the block runs, and each of its groups, taken on one core, starts with the values of R10 and R203 on partition
j mod 8; what memory holds at the kernel's first start is kept for its fetches. The blocks of a cluster start together, once all are cleared. -/
def Sys2Proof.Claims.blocksStart : Prop :=
  ∀ (s : State) (b core : Nat), (s.blk b).stage = .placed → (s.blk b).cluster = none → (s.blk b).cores = [core] →
    let k := s.krn (s.blk b).kernel
    let bl := s.blk b
    (s.clock < bl.clearAt → exec (.blockStart b) s = .next s) ∧
    ((s.ctx bl.ctx).det = true → (∃ e ∈ s.blocks, e.2.kernel = bl.kernel ∧ e.2.stage = .placed ∧ e.2.lin < bl.lin ∧ e.1 ≠ b) → exec (.blockStart b) s = .next s) ∧
    (bl.clearAt ≤ s.clock → ((s.ctx bl.ctx).det = true → ∀ e ∈ s.blocks, e.2.kernel = bl.kernel → e.2.stage = .placed → e.1 ≠ b → bl.lin ≤ e.2.lin) → k.share (s.ctx bl.ctx).det 0 = List.range k.groups → ∃ u, exec (.blockStart b) s = .next u ∧ u.mem = s.mem ∧
      (u.blk b).stage = .running ∧ ((s.ctx bl.ctx).det = true → (u.core core).lq = 0) ∧
      (mget? u.starts bl.kernel = some s.snap ∨ ∃ x, mget? s.starts bl.kernel = some x ∧ mget? u.starts bl.kernel = some x) ∧
      ∀ j, j < k.groups → ∃ x, mget? u.groups (512 * b + j) = some x ∧ x.stop = .running ∧ x.ctx = bl.ctx ∧ x.idx = j ∧ x.part = 8 * core + j % 8 ∧ x.rank = 0 ∧
        x.nv = (k.roleOf j).vregs ∧ x.pc = BitVec.ofNat 64 (if k.hasRoles then k.text + (k.roleOf j).entry else k.entry) ∧
        (∀ l, l < 32 → x.rv 0 l = BitVec.ofNat 32 l ∧ ∀ n, n ≠ 0 → x.rv n l = 0) ∧ x.rgd 0 = BitVec.ofNat 64 (k.lr + 64) ∧ (∀ n, 2 ≤ n → x.rg n = 0) ∧
        (∀ i, i < 7 → x.pm i = 0) ∧ x.q = 0 ∧ (∀ i, x.kc i = 0) ∧ x.fmt = 0x21 ∧ x.am = 0xFFFFFFFF ∧ x.xm = 0 ∧ x.stack = [] ∧ x.trap = 0 ∧
        x.fstat = 0 ∧ x.fpc = 0 ∧ x.gk = k.gk ∧ x.gpos = 0 ∧ x.gsid = BitVec.ofNat 32 (bl.lin * k.groups + j))

/-- R229: the blocks of a cluster start together, and only when every one of them has been cleared. -/
def Sys2Proof.Claims.matesStart : Prop :=
  ∀ (s : State) (b c : Nat), (s.blk b).stage = .placed → (s.blk b).cluster = some c →
    ((∃ m ∈ (s.clu c).blocks, s.clock < (s.blk m).clearAt) → exec (.blockStart b) s = .next s) ∧
    ((∀ m ∈ (s.clu c).blocks, (s.blk m).clearAt ≤ s.clock) → (s.ctx (s.blk b).ctx).det = false →
      ∃ u, exec (.blockStart b) s = .next u ∧ u.mem = s.mem ∧ ∀ m ∈ (s.clu c).blocks, (s.blk m).stage = .placed → (u.blk m).stage = .running)

/-- R228, R229, R231, R354: CLUSTER_RESERVE: when every core of the rectangle grants its share, the cluster and its blocks are placed in one
admission, a block that fits a core on each core and any other across all of them; otherwise nothing is placed and the record waits 64·2^min(a, 8) + j
cycles after its a-th failure in a row, which CLUSTER_RETRY ends. -/
def Sys2Proof.Claims.clustersAdmitted : Prop :=
  (∀ (s : State) (die cx core r : Nat) (p : Option Nat) (cs : List Nat), choose s die cx = some (r, p) → (s.krn r).span ≠ 1 → savedOf s r = [] →
    dieOfCore core = die → rectAt (s.krn r) core = some cs →
    let k := s.krn r
    let one := k.oneCore (s.ctx k.ctx).det
    (rectFits s k core = true → ∃ u, exec (.clusterReserve die cx core) s = .next u ∧ u.mem = s.mem ∧ mget? (u.die die).retry r = none ∧
      (u.clu s.nextId).cores = cs ∧ (u.clu s.nextId).w = k.cw' ∧ (u.clu s.nextId).h = k.ch' ∧ (u.clu s.nextId).fused = k.fused ∧
      (one = false → (u.clu s.nextId).blocks = [s.nextId + 1] ∧ PlacedAs s u (s.nextId + 1) r k.next cs (some s.nextId)) ∧
      (one = true → let n := min cs.length (k.blocks - k.next)
        (u.clu s.nextId).blocks = (List.range n).map (s.nextId + 1 + ·) ∧
        ∀ i, i < n → PlacedAs s u (s.nextId + 1 + i) r (k.next + i) [cs.getD i 0] (some s.nextId) ∧ (u.blk (s.nextId + 1 + i)).crank = i) ∧
      (k.fused = true → ∀ c ∈ cs, (u.core c).reservedBy = some s.nextId)) ∧
    (rectFits s k core = false → ∃ u j, exec (.clusterReserve die cx core) s = .next u ∧ u.mem = s.mem ∧ u.blocks = s.blocks ∧ u.groups = s.groups ∧
      u.clusters = s.clusters ∧ (u.die die).attempts = (s.die die).attempts + 1 ∧ j < 1024 ∧
      let a := (mget (s.die die).retry (0, 0) r).1 + 1
      mget? (u.die die).retry r = some (a, s.clock + 64 * 2 ^ min a 8 + j))) ∧
  (∀ (s : State) (die r a t : Nat), mget? (s.die die).retry r = some (a, t) →
    (t = 0 ∨ s.clock < t → exec (.clusterRetry die r) s = .next s) ∧
    (t ≠ 0 → t ≤ s.clock → ∃ u, exec (.clusterRetry die r) s = .next u ∧ mget? (u.die die).retry r = some (a, 0) ∧ u.blocks = s.blocks))

/-- R31, R230, R298, R358, R359: pre-emption of a block, told for one with a single group and no cluster: while an access of it is outstanding issue stops and
the block stays; with nothing left to drain it is saved with the group's whole working state, and the L1 and TLBs of its core are emptied. A restore
puts it on a core that fits, and the group runs on at its PC with the same state, its codebooks and the part of its wait that has passed. -/
def Sys2Proof.Claims.saveAndRestore : Prop :=
  ∀ (s : State) (g : Nat) (x : Group) (b j : Nat), s.groups = [(g, x)] → g = 512 * b + j → j < 512 → (s.blk b).cluster = none →
    ((s.blk b).stage = .running → x.stop = .running → x.hold = none → x.hold2 = none → x.fence = none →
      (x.acc ≠ [] → ∃ u, exec (.preempt b) s = .next u ∧ (u.blk b).stage = .running ∧ (u.grp g).stop = .saved ∧ SameWork (u.grp g) x ∧ (u.grp g).pc = x.pc ∧ (u.grp g).waitFrom = s.clock - x.waitFrom) ∧
      (x.acc = [] → x.pend = [] → opsOf s b = [] → (∀ p ∈ s.parts, ∀ t ∈ p.2.tracker, t.block ≠ b) → (s.part x.part).wc = [] →
        ∃ u, exec (.preempt b) s = .next u ∧ u.mem = s.mem ∧ (u.blk b).stage = .saved ∧ (u.grp g).stop = .saved ∧ SameWork (u.grp g) x ∧
          (u.grp g).pc = x.pc ∧ (u.grp g).detBuf = x.detBuf ∧ (u.grp g).waitFrom = s.clock - x.waitFrom ∧
          (∀ c, (s.blk b).cores = [c] → mget (u.blk b).codebooks [] 0 = (s.core c).codebook) ∧ ∀ c ∈ (s.blk b).cores, (u.core c).tlb = [] ∧ (u.core c).tlb2 = [] ∧ (u.core c).l1 = [])) ∧
    (∀ (die core : Nat) (p : Option Nat), let k := s.krn (s.blk b).kernel
      (s.blk b).stage = .saved → x.stop = .saved → dieOfCore core = die → choose s die (s.blk b).ctx = some ((s.blk b).kernel, p) →
      (∀ e ∈ savedOf s (s.blk b).kernel, (s.blk b).lin ≤ e.2.lin) → dieFree s die [b] = true → fitsCore s core k (List.range k.groups) = true →
      j < k.groups → k.share (s.ctx (s.blk b).ctx).det 0 = List.range k.groups →
      ∃ u, exec (.restore b core) s = .next u ∧ u.mem = s.mem ∧ (u.blk b).stage = .running ∧ (u.blk b).cores = [core] ∧ (u.grp g).stop = .running ∧
        SameWork (u.grp g) x ∧ (u.grp g).pc = x.pc ∧ (u.grp g).detBuf = x.detBuf ∧ (u.grp g).part = 8 * core + j % 8 ∧ (u.grp g).startAt = s.clock ∧
        (u.grp g).waitFrom = s.clock - x.waitFrom ∧ (u.core core).codebook = mget (s.blk b).codebooks [] 0)

/-- The dispatcher places a block and starts its groups. -/
def Obligations.BlocksArePlacedAndStart : Prop := blocksPlaced ∧ blocksStart ∧ matesStart

/-- Clusters are admitted whole or retried; a block saved goes on from where it stood. -/
def Obligations.ClustersAndPreemption : Prop := clustersAdmitted ∧ saveAndRestore

/-! ## Events of the engines (R181, R183, R222, R249, R253, R259) -/

/-- The scratchpad of an operation, word i of its frame, and the pair at i. -/
def Sys2Proof.Claims.scratchOfOp (s : State) (o : EngOp) : Local := (s.blk o.block).loc o.rank
def Sys2Proof.Claims.fw (o : EngOp) (i : Nat) : Nat := (o.frame.getD i 0).toNat
def Sys2Proof.Claims.fw2 (o : EngOp) (i : Nat) : Nat := fw o i + 2 ^ 32 * fw o (i + 1)

/-- An operation has ended with a code: no queue holds it, and its entry in every open set and batch of its group is complete, failed exactly when
the code is not 0 (R183). -/
def Sys2Proof.Claims.OpEnded (s u : State) (core : Nat) (o : EngOp) (code : Nat) : Prop :=
  (∀ k, ∀ x ∈ queueAt (u.core core) k, x.id ≠ o.id) ∧
  ∀ n m, (m = mget (u.grp o.gid).openSets [] n ∨ m = mget (u.grp o.gid).batches [] n) → ∀ r ∈ m, r.id = o.id → r.done = true ∧
    ((∀ j l, (l = mget (s.grp o.gid).openSets [] j ∨ l = mget (s.grp o.gid).batches [] j) → ∀ q ∈ l, q.id = o.id → q.code = 0) → r.code = code)

/-- A copy from generic memory to scratchpad outside a DET context, without a barrier and without swizzle, whose scratchpad holds no barrier. -/
structure Sys2Proof.Claims.PlainCopy (s : State) (core : Nat) (o : EngOp) : Prop where
  alone : (s.core core).copyQ = [o]
  others : (s.core core).mxQ = [] ∧ (s.core core).skQ = [] ∧ (s.core core).colQ = []
  code : o.opc = 0xBA
  calm : (s.ctx o.ctx).det = false ∧ (s.pkg (core / 128)).linkRetrain = false
  form : fw o 11 = 0 ∧ fw o 8 = 0xFFFFFFFF
  untagged : (scratchOfOp s o).tags = []

/-- R181: a queued copy starts; each piece of at most 256 bytes is written where the frame says, and nothing else but, with the last piece, CV at CW; a
piece whose source cannot be read stops the copy with that code; LEN × ROWS = 0 moves nothing, writes CW and completes. -/
def Sys2Proof.Claims.copyRule : Prop :=
  ∀ (s : State) (core : Nat) (o : EngOp), PlainCopy s core o →
    let len := fw o 4
    let per := (len + 255) / 256
    let total := per * (fw o 5 % 65536)
    let src := fun (n : Nat) => fw2 o 0 + n / per * fw o 6 + 256 * (n % per)
    let dst := fun (n : Nat) => fw o 2 + n / per * fw o 7 + 256 * (n % per)
    let size := fun (n : Nat) => min 256 (len - 256 * (n % per))
    let l := scratchOfOp s o
    (o.started = false → total ≠ 0 → ∃ u, exec (.copyEngineOpStart core) s = .next u ∧ u.mem = s.mem ∧ (u.core core).copyQ = [{ o with started := true }]) ∧
    (o.started = false → total = 0 → ∃ u, exec (.copyEngineOpStart core) s = .next u ∧ u.mem = s.mem ∧ OpEnded s u core o 0 ∧
      (fw o 9 ≠ 0xFFFFFFFF → cread (scratchOfOp u o).sp (fw o 9) 4 = toBytes 4 (fw o 10))) ∧
    (o.started = true → exec (.copyEngineOpStart core) s = .next s) ∧
    (∀ n bs, o.started = true → n < total → n ∉ o.pieces → engRead s o core 0x12 (src n) (size n) = .ok bs → bs.length = size n → dst n + size n ≤ l.sb →
      (fw o 9 = 0xFFFFFFFF ∨ fw o 9 + 4 ≤ dst n ∨ dst n + size n ≤ fw o 9) → ∃ u, exec (.copyPieceWrite core o.id n) s = .next u ∧ u.mem = s.mem ∧
        cread (scratchOfOp u o).sp (dst n) (size n) = bs ∧
        (o.pieces.length + 1 < total → (u.core core).copyQ = [{ o with pieces := n :: o.pieces }] ∧
          ∀ a, (a < dst n ∨ dst n + size n ≤ a) → cget (scratchOfOp u o).sp a = cget l.sp a) ∧
        (o.pieces.length + 1 = total → OpEnded s u core o 0 ∧ (fw o 9 ≠ 0xFFFFFFFF → cread (scratchOfOp u o).sp (fw o 9) 4 = toBytes 4 (fw o 10)))) ∧
    (∀ e, o.started = true → (∃ n, n < total ∧ n ∉ o.pieces) →
      (∀ n, n < total → n ∉ o.pieces → engRead s o core 0x12 (src n) (size n) = .error e) →
      ∃ u, exec (.copyFaultStop core o.id) s = .next u ∧ u.mem = s.mem ∧ OpEnded s u core o e ∧ (scratchOfOp u o).sp = l.sp) ∧
    (o.started = true → (∀ n, n < total → n ∉ o.pieces → (∃ bs, engRead s o core 0x12 (src n) (size n) = .ok bs) ∧ dst n + size n ≤ l.sb) →
      exec (.copyFaultStop core o.id) s = .next s)

/-- The order of R122 over f32 words that are no NaN. -/
def Sys2Proof.Claims.floatKey (x : W32) : Nat := if x.msb then (~~~x).toNat else x.toNat + 2 ^ 31

/-- R222: STOPK at the head of the summary queue, over f32 values that are no NaN, from scratchpad to scratchpad: it writes K pairs of value and index, each a row element, in
descending order with ties to the lower index, none left out that is larger, and pairs of minus infinity and all ones beyond the row. -/
def Sys2Proof.Claims.selectionRule : Prop :=
  ∀ (s : State) (core : Nat) (o : EngOp) (rest : List EngOp), (s.core core).skQ = o :: rest → (∀ x ∈ rest, x.id ≠ o.id) →
    (s.core core).copyQ = [] ∧ (s.core core).mxQ = [] ∧ (s.core core).colQ = [] → o.opc = 0xE4 → o.fn % 4 = 3 → fw o 5 = 1 → fw o 7 = 0xFFFFFFFF →
    (s.ctx o.ctx).det = false → (scratchOfOp s o).tags = [] → (scratchOfOp s o).spBad = [] → (s.pkg (core / 128)).linkRetrain = false →
    o.out = none ∧ o.latch = [] ∧ o.pieces = [] → (4, s.clock) ∉ o.extra →
    let l := scratchOfOp s o
    let n := fw o 4
    let k := fw o 6
    let x := fun (i : Nat) => BitVec.ofNat 32 (ofBytes (cread l.sp (fw o 0 + 4 * i) 4))
    fw o 0 + 4 * n ≤ l.sb → fw o 2 + 8 * k ≤ l.sb → 0 < n → (∀ i, i < n → (x i).toNat % 2 ^ 31 ≤ 0x7F800000) →
    ∃ (u : State) (sel : Nat → Nat), exec (.summaryOpRun ⟨core, 0⟩) s = .next u ∧ u.mem = s.mem ∧ (u.core core).skQ = rest ∧ OpEnded s u core o 0 ∧
      (∀ t, t < k → t < n → sel t < n ∧ cread (scratchOfOp u o).sp (fw o 2 + 8 * t) 8 = toBytes 4 (x (sel t)).toNat ++ toBytes 4 (sel t)) ∧
      (∀ t, t < k → n ≤ t → cread (scratchOfOp u o).sp (fw o 2 + 8 * t) 8 = toBytes 4 0xFF800000 ++ toBytes 4 0xFFFFFFFF) ∧
      (∀ t v, t < v → v < k → v < n → floatKey (x (sel v)) < floatKey (x (sel t)) ∨ (x (sel v) = x (sel t) ∧ sel t < sel v)) ∧
      (∀ i, i < n → (∃ t, t < k ∧ t < n ∧ sel t = i) ∨ ∀ t, t < k → floatKey (x i) ≤ floatKey (x (sel t))) ∧
      ∀ a, (a < fw o 2 ∨ fw o 2 + 8 * k ≤ a) → cget (scratchOfOp u o).sp a = cget l.sp a

/-- R200, R223: an operation of the summary unit is not atomic: it may compute before it writes, and then writes each aligned 64-byte piece by itself;
it does not start in the cycle in which it issued. -/
def Sys2Proof.Claims.summaryPieces : Prop :=
  ∀ (s : State) (core : Nat) (o : EngOp) (rest : List EngOp), (s.core core).skQ = o :: rest → (∀ x ∈ rest, x.id ≠ o.id) →
    (s.core core).copyQ = [] ∧ (s.core core).mxQ = [] ∧ (s.core core).colQ = [] → (s.pkg (core / 128)).linkRetrain = false →
    (skIssued o = some s.clock → ∀ n, exec (.summaryOpRun ⟨core, n⟩) s = .next s) ∧
    (skIssued o ≠ some s.clock → ∀ a bytes regs, o.out = some (true, a, bytes, regs) → a % 64 = 0 → a + bytes.length ≤ (scratchOfOp s o).sb →
      (scratchOfOp s o).tags = [] →
      exec (.summaryOpRun ⟨core, 1⟩) s = .next s ∧
      ∀ i, 64 * i < bytes.length → i ∉ o.pieces → ∃ u, exec (.summaryOpRun ⟨core, i + 2⟩) s = .next u ∧ u.mem = s.mem ∧
        (u.core core).skQ = { o with pieces := i :: o.pieces } :: rest ∧
        ∀ y, cget (scratchOfOp u o).sp y = if a + 64 * i ≤ y ∧ y < a + 64 * i + 64 ∧ y < a + bytes.length then bytes.getD (y - a) 0 else cget (scratchOfOp s o).sp y)

/-- A byte of an 8-bit integer operand, signed for code 9 (R35). -/
def Sys2Proof.Claims.int8 (code : Nat) (b : Byte) : Int := if code = 9 then b.toInt else b.toNat

/-- An MXM on one core with 8-bit integer operands and f32 accumulators from zero, at its first row, without scales, maps or barrier. -/
structure Sys2Proof.Claims.PlainMatrix (s : State) (core : Nat) (o : EngOp) (ca cb : Nat) : Prop where
  alone : (s.core core).mxQ = [o] ∧ (s.core core).copyQ = [] ∧ (s.core core).skQ = [] ∧ (s.core core).colQ = []
  live : (s.blk o.block).stage = .running
  code : o.opc = 0xE8
  calm : (s.ctx o.ctx).det = false ∧ (s.pkg (core / 128)).linkRetrain = false ∧ (s.core (tlb2Core s core)).tlb2 = []
  fresh : o.prog = 0 ∧ o.part = [] ∧ o.keep = []
  formats : (o.fmt.extractLsb' 6 4).toNat = ca ∧ (o.fmt.extractLsb' 10 4).toNat = cb ∧ o.fmt.extractLsb' 14 4 = 0 ∧ (ca = 9 ∨ ca = 10) ∧ (cb = 9 ∨ cb = 10)
  shape : 0 < fw o 5 % 512 ∧ fw o 5 % 512 ≤ 128 ∧ 0 < fw o 5 / 65536 ∧ fw o 5 / 65536 ≤ 256 ∧ fw o 6 % 32 = 0 ∧ 0 < fw o 6 ∧ fw o 6 ≤ 256 ∧ fw o 7 < 2 ^ 18
  form : fw o 8 = 0xFFFFFFFF ∧ fw o 9 = 3
  untagged : (scratchOfOp s o).tags = []

/-- R49, R249, R253, R259: MATRIX_OP_RUN: each element of a PlainMatrix is the f32 of its exact sum of products, and only the tile's accumulators change;
CBLD sets its table. The rows go in order, and within a row each element in chunks of 16: after its first chunk an accumulator shows the sum of the
first 16 products. MATRIX_OP_FAULT: with a byte of the first row of A that cannot be reached nothing of the tile changes, the report word holds the
row, the code, the source and the address, and the batch the code; with no fault it does nothing. -/
def Sys2Proof.Claims.matrixRule : Prop :=
  (∀ (s : State) (core : Nat) (o : EngOp) (ca cb : Nat), PlainMatrix s core o ca cb →
    let m := fw o 5 % 512
    let n := fw o 5 / 65536
    let k := fw o 6
    let row := 64 * ((4 * n + 63) / 64)
    let aAt := fun (i : Nat) => fw2 o 0 + i * (16 * (fw o 4 % 65536))
    let bAt := fun (j : Nat) => fw2 o 2 + j * (16 * (fw o 4 / 65536))
    let l := scratchOfOp s o
    (∀ (A B : Nat → List Byte), (∀ i, i < m → mxRead s o core (aAt i) k = .ok (A i)) → (∀ j, j < n → mxRead s o core (bAt j) k = .ok (B j)) →
      fw o 15 = 0xFFFFFFFF →
      exec (.matrixOpFault core) s = .next s ∧ ∃ u, exec (.matrixOpRun ⟨core, 0⟩) s = .next u ∧ u.mem = s.mem ∧ OpEnded s u core o 0 ∧
        (∀ i j, i < m → j < n → cread (scratchOfOp u o).acm (fw o 7 + i * row + 4 * j) 4 = toBytes 4 (smallFloat 32 8 23 127
          (((List.range k).map (fun t => int8 ca ((A i).getD t 0) * int8 cb ((B j).getD t 0))).sum)).toNat) ∧
        ∀ a, (∀ i j, i < m → j < n → a < fw o 7 + i * row + 4 * j ∨ fw o 7 + i * row + 4 * j + 4 ≤ a) →
          cget (scratchOfOp u o).acm a = cget l.acm a) ∧
    (∀ (A B : Nat → List Byte), (∀ i, i < m → mxRead s o core (aAt i) k = .ok (A i)) → (∀ j, j < n → mxRead s o core (bAt j) k = .ok (B j)) →
      let dot := fun (i j c : Nat) => toBytes 4 (smallFloat 32 8 23 127
        (((List.range c).map (fun t => int8 ca ((A i).getD t 0) * int8 cb ((B j).getD t 0))).sum)).toNat
      (∀ j, j < n → ∃ u, exec (.matrixOpRun ⟨core, j + 2⟩) s = .next u ∧ u.mem = s.mem ∧
        (u.core core).mxQ.map (fun x => (x.id, x.prog)) = [(o.id, 0)] ∧ cread (scratchOfOp u o).acm (fw o 7 + 4 * j) 4 = dot 0 j 16 ∧
        ∀ a, a < fw o 7 + 4 * j ∨ fw o 7 + 4 * j + 4 ≤ a → cget (scratchOfOp u o).acm a = cget l.acm a) ∧
      (1 < m → ∃ u, exec (.matrixOpRun ⟨core, 1⟩) s = .next u ∧ u.mem = s.mem ∧ (u.core core).mxQ = [{ o with prog := 1 }] ∧
        (∀ j, j < n → cread (scratchOfOp u o).acm (fw o 7 + 4 * j) 4 = dot 0 j k) ∧
        ∀ a, a < fw o 7 ∨ fw o 7 + 4 * n ≤ a → cget (scratchOfOp u o).acm a = cget l.acm a)) ∧
    (∀ (va : Nat) (B : Nat → List Byte), mxRead s o core (aAt 0) k = .error (va, 0x11) → (∀ j, j < n → mxRead s o core (bAt j) k = .ok (B j)) →
      fw o 15 % 16 = 0 → fw o 15 + 16 ≤ l.sb →
      ∃ u, exec (.matrixOpFault core) s = .next u ∧ u.mem = s.mem ∧ OpEnded s u core o 0x11 ∧ (scratchOfOp u o).acm = l.acm ∧
        cread (scratchOfOp u o).sp (fw o 15) 16 = toBytes 8 (2 ^ 16 * 0x11) ++ toBytes 8 va)) ∧
  (∀ (s : State) (core : Nat) (o : EngOp), (s.core core).mxQ = [o] ∧ (s.core core).copyQ = [] ∧ (s.core core).skQ = [] ∧ (s.core core).colQ = [] →
    (s.blk o.block).stage = .running → (s.pkg (core / 128)).linkRetrain = false → o.opc = 0xEE → o.fn % 2 = 1 → (fw o 2).testBit 8 = true → fw o 3 = 0xFFFFFFFF →
    (scratchOfOp s o).spBad = [] → fw o 0 + 512 ≤ (scratchOfOp s o).sb →
    ∃ u, exec (.matrixOpRun ⟨core, 0⟩) s = .next u ∧ u.mem = s.mem ∧ OpEnded s u core o 0 ∧
      (∀ i, i < 256 → mget (u.core core).codebook 0 (256 * (fw o 2 % 16) + i) =
        BitVec.ofNat 16 (ofBytes (cread (scratchOfOp s o).sp (fw o 0 + 2 * i) 2))) ∧
      ∀ t i, i < 256 → t ≠ fw o 2 % 16 → mget (u.core core).codebook 0 (256 * t + i) = mget (s.core core).codebook 0 (256 * t + i))

/-- The engine events: copies, selections, matrix tiles and table loads. -/
def Obligations.EnginesRunTheirOperations : Prop := copyRule ∧ selectionRule ∧ summaryPieces ∧ matrixRule

/-! ## Errors, power and links (R5, R151 to R153, R273, R329, R342, R344, R379, R380, R387) -/

/-- Of a state change that concerns one package alone: its memory, its groups and the other packages are as before. -/
def Sys2Proof.Claims.OnlyPkg (s u : State) (p : Nat) : Prop :=
  u.mem = s.mem ∧ u.groups = s.groups ∧ u.l2 = s.l2 ∧ ∀ q, q ≠ p → u.pkg q = s.pkg q

/-- R151, R152: a single-bit error is counted, saturating, and a scrub changes nothing; a double-bit error discards an L1 or TLB entry, poisons a
register in its lane or a granule, and keeps every value. -/
def Sys2Proof.Claims.sramErrors : Prop :=
  (∀ (s : State) (c : Nat), exec (.scrubPass c) s = .next s ∧ exec (.patrolScrub c) s = .next s ∧ exec (.linkLevelReplay c) s = .next s ∧
    ∃ u, exec (.sramSingleBitError c) s = .next u ∧ u.mem = s.mem ∧ u.groups = s.groups ∧ u.blocks = s.blocks ∧
      (u.core c).ce = min ((s.core c).ce + 1) (2 ^ 64 - 1) ∧ (u.core c).l1 = (s.core c).l1 ∧ ∀ d, d ≠ c → u.core d = s.core d) ∧
  (∀ (s : State) (c line page : Nat),
    (∃ u, exec (.sramDoubleBitError (.l1 c line)) s = .next u ∧ u.mem = s.mem ∧ u.groups = s.groups ∧ u.l2 = s.l2 ∧
      mget? (u.core c).l1 line = none ∧ (∀ n, n ≠ line → mget? (u.core c).l1 n = mget? (s.core c).l1 n) ∧ ∀ d, d ≠ c → u.core d = s.core d) ∧
    (∃ u, exec (.sramDoubleBitError (.tlb c page)) s = .next u ∧ u.mem = s.mem ∧ u.groups = s.groups ∧
      ∀ e, e ∈ (u.core c).tlb ↔ e ∈ (s.core c).tlb ∧ (4096 * page < e.va ∨ e.va + e.size ≤ 4096 * page))) ∧
  (∀ (s : State) (g reg lane : Nat) (x : Group), mget? s.groups g = some x → x.live = true →
    (reg < x.nv → lane < 32 → ∃ u, exec (.sramDoubleBitError (.vreg g reg lane)) s = .next u ∧ u.mem = s.mem ∧ (u.grp g).v = x.v ∧
      (∀ n, n ∈ (u.grp g).badV ↔ n ∈ x.badV ∨ n = 32 * reg + lane) ∧ ∀ h, h ≠ g → u.grp h = s.grp h) ∧
    (reg < 256 → ∃ u, exec (.sramDoubleBitError (.greg g reg)) s = .next u ∧ u.mem = s.mem ∧ (u.grp g).g = x.g ∧
      (∀ n, n ∈ (u.grp g).badG ↔ n ∈ x.badG ∨ n = reg) ∧ ∀ h, h ≠ g → u.grp h = s.grp h) ∧
    (reg < 7 → lane < 32 → ∃ u, exec (.sramDoubleBitError (.preg g reg lane)) s = .next u ∧ u.mem = s.mem ∧ (u.grp g).p = x.p ∧
      (∀ n, n ∈ (u.grp g).badP ↔ n ∈ x.badP ∨ n = 32 * reg + lane) ∧ ∀ h, h ≠ g → u.grp h = s.grp h) ∧
    (reg < 7 → ∃ u, exec (.sramDoubleBitError (.qreg g reg)) s = .next u ∧ u.mem = s.mem ∧ (u.grp g).q = x.q ∧
      (∀ n, n ∈ (u.grp g).badP ↔ n ∈ x.badP ∨ n = 256 + reg) ∧ ∀ h, h ≠ g → u.grp h = s.grp h) ∧
    exec (.sramDoubleBitError (.groupFatal g)) s = .next (terminate s g (fi 0x16))) ∧
  (∀ (s : State) (b rank off : Nat), let k := s.krn (s.blk b).kernel
    (off < k.scratch → ∃ u, exec (.sramDoubleBitError (.scratch b rank off)) s = .next u ∧ u.mem = s.mem ∧ u.groups = s.groups ∧
      ((u.blk b).loc rank).sp = ((s.blk b).loc rank).sp ∧ ∀ n, n ∈ ((u.blk b).loc rank).spBad ↔ n ∈ ((s.blk b).loc rank).spBad ∨ n = off / 4) ∧
    (off < k.acmBytes → ∃ u, exec (.sramDoubleBitError (.acm b rank off)) s = .next u ∧ u.mem = s.mem ∧ u.groups = s.groups ∧
      ((u.blk b).loc rank).acm = ((s.blk b).loc rank).acm ∧ ∀ n, n ∈ ((u.blk b).loc rank).acmBad ↔ n ∈ ((s.blk b).loc rank).acmBad ∨ n = off / 4))

/-- R344, R331, R332, R273: a corrected HBM error is counted; a larger one poisons its 64-byte sector of HBM; an error in a key slot makes the slot
invalid and keeps the other slots; a lost directory entry leaves the directory, and a line whose data is lost is poisoned. -/
def Sys2Proof.Claims.memoryErrors : Prop :=
  (∀ (s : State) (p : Nat), ∃ u, exec (.hbmCorrectedError p) s = .next u ∧ OnlyPkg s u p ∧ u.badMem = s.badMem ∧ (u.pkg p).hbmCe = (s.pkg p).hbmCe + 1) ∧
  (∀ (s : State) (x : Nat), 64 * x % 2 ^ 43 < 0xC000000000 → ∃ u, exec (.hbmUncorrectableError x) s = .next u ∧ u.mem = s.mem ∧ u.groups = s.groups ∧
    ∀ n, n ∈ u.badMem ↔ n ∈ s.badMem ∨ n = x) ∧
  (∀ (s : State) (p n : Nat) (k : BitVec 512), mget? (s.pkg p).keys n = some k → 0 < n → n < 128 →
    ∃ u, exec (.keySlotError p n) s = .next u ∧ OnlyPkg s u p ∧ ∀ m, m ∈ (u.pkg p).badKeys ↔ m ∈ (s.pkg p).badKeys ∨ m = n) ∧
  (∀ (s : State) (line : Nat) (lost : Bool), (mget? s.dir line = none → exec (.directoryEntryError line lost) s = .next s) ∧
    (mget? s.dir line ≠ none → ∃ u, exec (.directoryEntryError line lost) s = .next u ∧ u.groups = s.groups ∧ mget? u.dir line = none ∧
      (∀ n, n ≠ line → mget? u.dir n = mget? s.dir n) ∧ (lost = true → ∀ i, i < 4 → 4 * line + i ∈ u.badMem) ∧
      ∀ e, mget? s.dir line = some e → e.st = .s → answersOf s line = [] → (∀ d ∈ e.sharers, ∀ l, copyAt s d line = some l → l.dirty = 0) →
        u.mem = s.mem ∧ (∀ d ∈ e.sharers, copyAt u d line = none) ∧
        ∀ n, (∀ x ∈ e.sharers, atDie x line ≠ n) → n ≠ atDie (homeDie (256 * line)) line → mget? u.l2 n = mget? s.l2 n))

/-- R342, R344: the power controller, as a rule on its registers: the average over the last ten samples, the step down above the limit or on
reaching 100 degrees, the step up after 10 ms at least 100 W below the limit and below 95 degrees, and the headroom; no step before the first average
is formed. A step keeps the length of the cycles that have passed (R5). -/
def Sys2Proof.Claims.powerRule : Prop :=
  let down := fun (f : Nat) => if f = 1300 then 1100 else 900
  let up := fun (f : Nat) => if f = 900 then 1100 else 1300
  (∀ (s : State) (p w deg : Nat), p < s.packages → let k := s.pkg p
    (k.mhz = 900 ∨ k.mhz = 1100 ∨ k.mhz = 1300) → k.samples.length ≤ 10 →
    (elapsedUs s p k.time < 100 → exec (.powerSample p w deg) s = .next s) ∧
    (100 ≤ elapsedUs s p k.time → ∃ u, exec (.powerSample p w deg) s = .next u ∧ OnlyPkg s u p ∧ (u.pkg p).time = s.clock ∧ (u.pkg p).degC = deg ∧
      (u.pkg p).plimit = k.plimit ∧
      let ws := if k.samples.length = 10 then k.samples.drop 1 ++ [w] else k.samples ++ [w]
      let avg := ws.sum / 10
      let heat := fun (f : Nat) => if 100 ≤ deg ∧ k.degC < 100 then down f else f
      (u.pkg p).samples = ws ∧ (u.pkg p).clocks = (if (u.pkg p).mhz = k.mhz then k.clocks else (s.clock, k.mhz) :: k.clocks) ∧
      (ws.length < 10 → (u.pkg p).mhz = k.mhz ∧ (u.pkg p).hdrm = k.hdrm) ∧
      (ws.length = 10 → (u.pkg p).hdrm = k.plimit - avg ∧
        (k.plimit < avg → (u.pkg p).mhz = heat (down k.mhz)) ∧
        (avg ≤ k.plimit → k.plimit < avg + 100 → (u.pkg p).mhz = heat k.mhz ∧ (u.pkg p).calm = 0) ∧
        (avg + 100 ≤ k.plimit → k.calm + 1 < 100 → deg < 100 → (u.pkg p).mhz = k.mhz ∧ (u.pkg p).calm = k.calm + 1) ∧
        (avg + 100 ≤ k.plimit → 100 ≤ k.calm + 1 → deg < 95 → (u.pkg p).mhz = up k.mhz ∧ (u.pkg p).calm = 0)))) ∧
  (∀ (s : State) (p : Nat), p < s.packages → let k := s.pkg p
    (k.mhz = 900 ∨ k.mhz = 1100 ∨ k.mhz = 1300) →
    (100 ≤ k.degC → exec (.thermalLimit p) s = .next s) ∧
    (k.degC < 100 → ∃ u, exec (.thermalLimit p) s = .next u ∧ OnlyPkg s u p ∧ (u.pkg p).degC = 100 ∧
      (u.pkg p).mhz = (if k.samples.length < 10 then k.mhz else down k.mhz)))

/-- R329, R344, R379, R380, R387: failures of a flit of the die link change nothing but the count of its direction; when its 64 replays have failed as
well a retraining begins; and a failed retraining ends
the package's contexts: each unfinished kernel's completion word receives UNCORRECTABLE. A port that has not retrained within 2 ms is down; a
message under a reservation on its route is lost, with its entry in the record of the sending package. Other requests are dropped and counted. -/
def Sys2Proof.Claims.linkRule : Prop :=
  (∀ (s : State) (p d : Nat), ∃ u, exec (.dieLinkFlitCrcFail ⟨p, d⟩) s = .next u ∧ OnlyPkg s u p ∧ u.net = s.net ∧
    ((s.pkg p).linkRetrain = false → mget (s.pkg p).fails 0 (d % 2) < 64 → (u.pkg p).linkRetrain = false ∧
      mget (u.pkg p).fails 0 (d % 2) = mget (s.pkg p).fails 0 (d % 2) + 1 ∧ ∀ e, e ≠ d % 2 → mget (u.pkg p).fails 0 e = mget (s.pkg p).fails 0 e) ∧
    ((s.pkg p).linkRetrain = false → 64 ≤ mget (s.pkg p).fails 0 (d % 2) → (u.pkg p).linkRetrain = true ∧ (u.pkg p).fails = []) ∧ ((s.pkg p).linkRetrain = true → u.pkg p = s.pkg p)) ∧
  (∀ (s : State) (p : Nat), ((s.pkg p).linkRetrain = false → ∀ ok, exec (.dieLinkRetrainEnd p ok) s = .next s) ∧
    ((s.pkg p).linkRetrain = true → (∃ u, exec (.dieLinkRetrainEnd p true) s = .next u ∧ OnlyPkg s u p ∧ (u.pkg p).linkRetrain = false) ∧
      ∀ cx c kn k, s.ctxs = [(cx, c)] → c.pkg = p → s.blocks = [] → s.groups = [] → s.kernels = [(kn, k)] → k.ctx = cx → k.code = none → k.finished = false → k.cw ≠ 0 →
        ∀ t, sysWrite s cx k.cw (toBytes 8 (1 + 2 * 0x16 + 256 * k.nterm)) = .ok t →
          ∃ u, exec (.dieLinkRetrainEnd p false) s = .next u ∧ u.mem = t.mem ∧ u.l2 = t.l2 ∧ u.ctxs = [] ∧ u.kernels = [] ∧
            (u.pkg p).fatal = true ∧ (u.pkg p).linkRetrain = false ∧ (u.pkg p).msi = (t.pkg p).msi + 1)) ∧
  (∀ (s : State) (port : Nat),
    (mget? s.ports port = none → portLinks s port ≠ [] → ∃ u, exec (.ualinkPortRetrain port) s = .next u ∧ u.net = s.net ∧ u.mem = s.mem ∧
      mget? u.ports port = some (.retraining s.clock) ∧ ∀ q, q ≠ port → mget? u.ports q = mget? s.ports q) ∧
    (∀ t, mget? s.ports port = some (.retraining t) →
      (elapsedUs s (port / 36) t < 2000 → exec (.portDown port) s = .next s ∧
        ∃ u, exec (.ualinkPortRetrainEnd port) s = .next u ∧ u.net = s.net ∧ u.mem = s.mem ∧ mget? u.ports port = some .up) ∧
      (2000 ≤ elapsedUs s (port / 36) t → exec (.ualinkPortRetrainEnd port) s = .next s ∧
        ∃ u, exec (.portDown port) s = .next u ∧ u.mem = s.mem ∧ mget? u.ports port = some .down ∧
          (∀ q, q ≠ port → mget? u.ports q = mget? s.ports q) ∧ (s.net = [] → u.net = [] ∧ u.pkgs = s.pkgs) ∧
          ∀ id m, s.net = [(id, m)] → m.rsvd = true → m.typ = 0x20 → m.aux < 2 ^ 40 → m.seq = none → usesPort s port m = true →
            (∀ c ∈ s.cores, c.2.copyQ = [] ∧ c.2.mxQ = [] ∧ c.2.skQ = [] ∧ c.2.colQ = []) → s.dies = [] → (s.pkg (m.src / 2)).errs.length < 4096 →
            u.net = [] ∧ (u.pkg (m.src / 2)).errs = (s.pkg (m.src / 2)).errs ++
              [toBytes 8 m.addr ++ toBytes 2 m.data.length ++ toBytes 1 m.typ ++ toBytes 1 m.src ++ toBytes 1 m.dst ++ toBytes 1 m.ctx ++
                toBytes 8 (s.clock - (s.pkg (m.src / 2)).resetAt) ++ toBytes 10 0]))) ∧
  (∀ (s : State) (p : Nat), ∃ u, exec (.nonWindowRequestDrop p) s = .next u ∧ OnlyPkg s u p ∧ u.net = s.net ∧ (u.pkg p).drops = (s.pkg p).drops + 1) ∧
  (∀ (s : State) (id : Nat) (m : Msg), mget? s.net id = some m →
    let reserved := 5 ≤ m.cls ∨ ¬ ((1 ≤ m.typ ∧ m.typ ≤ 0x18) ∨ (0x20 ≤ m.typ ∧ m.typ ≤ 0x25) ∨ (0x30 ≤ m.typ ∧ m.typ ≤ 0x33))
    (¬ reserved → exec (.reservedMessageDrop id) s = .next s) ∧
    (reserved → (s.pkg (m.src / 2)).errs.length < 4096 → ∃ u, exec (.reservedMessageDrop id) s = .next u ∧ u.mem = s.mem ∧ mget? u.net id = none ∧
      (∀ n, n ≠ id → mget? u.net n = mget? s.net n) ∧ (u.pkg (m.src / 2)).errs.length = (s.pkg (m.src / 2)).errs.length + 1))

/-- What errors, power samples and links do to the machine. -/
def Obligations.ErrorsPowerAndLinks : Prop := sramErrors ∧ memoryErrors ∧ powerRule ∧ linkRule

/-! ## The Serow monitor and the host's accesses (R333, R336, R338 to R342, R350) -/

/-- What the mailbox of a package shows after a request: STATUS and the result field, and MSI-X vector 0 once more (R339). -/
def Sys2Proof.Claims.told (s : State) (p status result : Nat) : State :=
  s.modPkg p (fun k => { k with reply := k.reply ++ [(status, result)], msi := k.msi + 1 })

/-- The mailbox of a package of the pod takes its next request: no CTXSTOP of the package is under way. -/
def Sys2Proof.Claims.MailFree (s : State) (p : Nat) : Prop := p < s.packages ∧ ∀ e ∈ s.ctxs, e.2.pkg = p → e.2.stopping = false

/-- The ring of a context holds request q at CONS, and after STATUS and CONS + 1 are written there the state is t (R338). -/
def Sys2Proof.Claims.RingAnswered (s : State) (cx cons : Nat) (status : Nat) (t : State) : Prop :=
  ∃ m, sysWrite s cx ((s.ctx cx).svc + 64 + 32 * (cons % 64) + 4) (toBytes 4 status) = .ok m ∧
    sysWrite m cx ((m.ctx cx).svc + 4) (toBytes 4 (cons + 1)) = .ok t ∧ m.ctx cx = s.ctx cx

/-- R338: what the ring answers: services 3 to 9 are PRIVILEGED, an unknown OP gives STATUS 1, an INVAL gives STATUS 0 over TLBs that hold nothing of the range, and
a REPLAY of a SEQ that no group is suspended under gives 1; the service of a request that does not stand at CONS has no effect. -/
def Sys2Proof.Claims.ringRule : Prop :=
  ∀ (s : State) (cx cons : Nat) (q : SvcReq), q.src = .ring cx →
    (ringReq s cx = some (cons, q) →
      (∀ t, RingAnswered s cx cons 2 t →
        (q.op = 3 → exec (.svcCtxstart q) s = .next t) ∧ (q.op = 4 → exec (.svcCtxstop q) s = .next t) ∧ (q.op = 5 → exec (.svcKeyload q) s = .next t) ∧
        (q.op = 6 → exec (.svcKeyclr q) s = .next t) ∧ (q.op = 7 → exec (.svcPlimit q) s = .next t) ∧ (q.op = 8 → exec (.svcAttest q) s = .next t) ∧
        (q.op = 9 → exec (.svcGrant q) s = .next t)) ∧
      (∀ t, (q.op = 0 ∨ 9 < q.op) → RingAnswered s cx cons 1 t → exec (.svcUnknown q) s = .next t) ∧
      (∀ t, q.op = 1 → q.arg1.toNat ≤ 1 → q.arg2 = 0 → (∀ e ∈ s.groups, e.2.ctx = cx → e.2.stop ≠ .replay q.arg0.toNat) → RingAnswered s cx cons 1 t →
        exec (.svcReplay q) s = .next t) ∧
      (∀ t, q.op = 1 → (1 < q.arg1.toNat ∨ q.arg2 ≠ 0) → RingAnswered s cx cons 0x102 t → exec (.svcReplay q) s = .next t)) ∧
    ((∀ c, ringReq s cx ≠ some (c, q)) → exec (.svcReplay q) s = .next s ∧ exec (.svcInval q) s = .next s ∧ exec (.svcUnknown q) s = .next s ∧
      exec (.svcGrant q) s = .next s)

/-- R338, R336: REPLAY and INVAL through the mailbox: resume lets the suspended group go on at its PC with its state, abort ends its block under R26, and INVAL
removes the translations of the range from the cores of the package's contexts, and no others. -/
def Sys2Proof.Claims.replayInvalRule : Prop :=
  ∀ (s : State) (p : Nat) (a0 a1 a2 : W64), MailFree s p →
    let q := SvcReq.mk (.mailbox p) 1 a0 a1 a2
    (1 < a1.toNat ∨ a2 ≠ 0 → exec (.svcReplay q) s = .next (told s p 0x102 0)) ∧
    (a1.toNat ≤ 1 → a2 = 0 →
      ((∀ e ∈ s.groups, e.2.stop ≠ .replay a0.toNat) → exec (.svcReplay q) s = .next (told s p 1 0)) ∧
      (∀ g x, s.groups = [(g, x)] → x.stop = .replay a0.toNat → (∃ c, mget? s.ctxs x.ctx = some c ∧ c.pkg = p) →
        (s.blk (g / 512)).stage = .running →
        (a1 = 0 → ∃ u, exec (.svcReplay q) s = .next u ∧ u.mem = s.mem ∧ (u.pkg p).reply = (s.pkg p).reply ++ [(0, 0)] ∧ (u.grp g).stop = .running ∧
          (u.grp g).waiting = none ∧ (u.grp g).pc = x.pc ∧ SameWork (u.grp g) x) ∧
        (a1 = 1 → exec (.svcReplay q) s = .next (told (checkBlock (terminate s g (x.waiting.getD (fi 4))) (g / 512)) p 0 0)))) ∧
    let i := SvcReq.mk (.mailbox p) 2 a0 a1 a2
    (a2 ≠ 0 → exec (.svcInval i) s = .next (told s p 0x102 0)) ∧
    (a2 = 0 → ∃ u, exec (.svcInval i) s = .next u ∧ u.mem = s.mem ∧ u.groups = s.groups ∧ (u.pkg p).reply = (s.pkg p).reply ++ [(0, 0)] ∧
      ∀ c, (∀ e, e ∈ (u.core c).tlb → e ∈ (s.core c).tlb) ∧
        (∀ e ∈ (s.core c).tlb, (a0.toNat + a1.toNat ≤ e.va ∨ e.va + e.size ≤ a0.toNat) → e ∈ (u.core c).tlb) ∧
        ∀ cx x, mget? s.ctxs cx = some x → x.pkg = p → (∀ b ∈ blocksOn s c, b.2.ctx = cx) →
          ∀ e, (e ∈ (u.core c).tlb ∨ e ∈ (u.core c).tlb2) → a0.toNat + a1.toNat ≤ e.va ∨ e.va + e.size ≤ a0.toNat)

/-- A number of a context image header. -/
def Sys2Proof.Claims.hf (h : List Byte) (a n : Nat) : Nat := ofBytes ((h.drop a).take n)

/-- R333: a header that obeys its table, for a package of a pod. -/
structure Sys2Proof.Claims.GoodHeader (s : State) (p : Nat) (h : List Byte) : Prop where
  root : hf h 0 8 % 4096 = 0 ∧ hf h 0 8 / 2 ^ 43 = p ∧ hf h 0 8 % 2 ^ 43 + 4096 ≤ 0xC000000000
  tkey : hf h 8 1 < 128
  attr : hf h 9 1 < 128 ∧ hf h 9 1 / 2 % 16 ≤ 8 ∧ hf h 9 1 / 32 % 4 ≠ 3
  zero : hf h 10 2 = 0 ∧ hf h 56 8 = 0
  areas : hf h 32 8 % 64 = 0 ∧ hf h 40 8 % 64 = 0
  grants : ∀ i, i < 8 → let b := hf h (64 + 16 * i) 8
    let n := hf h (72 + 16 * i) 8
    b % 4096 = 0 ∧ n % 4096 = 0 ∧ (n ≠ 0 → b + n - 1 < 2 ^ 50 ∧ b / 2 ^ 43 < s.packages ∧ (b + n - 1) / 2 ^ 43 < s.packages)

/-- R333, R339, R350: CTXSTART: bad arguments, a refused header, a good header with no context id free, and the start: the lowest free id holds a context with the fields of the
header, and its root kernel is queued. -/
def Sys2Proof.Claims.startRule : Prop :=
  ∀ (s : State) (p : Nat) (a0 a1 a2 : W64), MailFree s p →
    let q := SvcReq.mk (.mailbox p) 3 a0 a1 a2
    let h := (physRead s 0 (p * 2 ^ 43 + a0.toNat) 192 0).1
    let args := a1 = 0 ∧ a2 = 0 ∧ a0.toNat % 64 = 0 ∧ a0.toNat + 192 ≤ 0xC000000000
    (¬ args → exec (.svcCtxstart q) s = .next (told s p 0x102 0)) ∧
    (args → (physRead s 0 (p * 2 ^ 43 + a0.toNat) 192 0).2 = false →
      (hf h 56 8 ≠ 0 ∨ hf h 0 8 % 4096 ≠ 0 ∨ hf h 9 1 / 32 % 4 = 3 ∨ 8 < hf h 9 1 / 2 % 16 → exec (.svcCtxstart q) s = .next (told s p 0x1D 0)) ∧
      (GoodHeader s p h → (∀ i, i < 64 → mget? s.ctxs (64 * p + i) ≠ none) → exec (.svcCtxstart q) s = .next (told s p 0x101 0)) ∧
      ∀ i k, GoodHeader s p h → i < 64 → mget? s.ctxs (64 * p + i) = none → (∀ j, j < i → mget? s.ctxs (64 * p + j) ≠ none) →
        rootKernel { s with ctxs := mput s.ctxs (64 * p + i) (ctxFrom p h) } (64 * p + i) (hf h 48 8) = some k → k.cw = 0 →
        ∃ u, exec (.svcCtxstart q) s = .next u ∧ u.mem = s.mem ∧ (u.pkg p).reply = (s.pkg p).reply ++ [(0, i)] ∧ (u.pkg p).msi = (s.pkg p).msi + 1 ∧
          (∃ e, mget? u.kernels s.nextId = some e ∧ e.kd = k.kd ∧ e.text = k.text ∧ e.blocks = k.blocks ∧ e.ctx = k.ctx ∧ e.launchAt = s.clock) ∧
          (∀ j, j ≠ 64 * p + i → j ≠ k.ctx → mget? u.ctxs j = mget? s.ctxs j) ∧ ∃ c, mget? u.ctxs (64 * p + i) = some c ∧ c.pkg = p ∧ c.root = hf h 0 8 ∧
            c.tkey = hf h 8 1 ∧ (c.det = true ↔ hf h 9 1 % 2 = 1) ∧ c.quantum = 2 ^ (8 + hf h 9 1 / 2 % 16) ∧ c.fsvc = hf h 9 1 / 32 % 4 ∧ c.wdog = hf h 12 4 ∧
            (∀ b, 1 ≤ b → b < 128 → c.keyGrant.getLsbD b = (hf h 16 16).testBit b) ∧ c.log = hf h 32 8 ∧ c.svc = hf h 40 8 ∧
            ∀ g, g < 8 → mget? c.grants g = if hf h (72 + 16 * g) 8 = 0 then none else some (hf h (64 + 16 * g) 8, hf h (72 + 16 * g) 8))

/-- R339, R358: CTXSTOP: nonzero arguments, an unknown id; a context whose blocks are gone is forgotten with its kernels; while a block still drains its issue
is stopped and no answer is given. -/
def Sys2Proof.Claims.stopRule : Prop :=
  ∀ (s : State) (p : Nat) (a0 a1 a2 : W64), MailFree s p →
    let q := SvcReq.mk (.mailbox p) 4 a0 a1 a2
    let cx := 64 * p + a0.toNat
    (a1 ≠ 0 ∨ a2 ≠ 0 → exec (.svcCtxstop q) s = .next (told s p 0x102 0)) ∧
    (a1 = 0 → a2 = 0 → (64 ≤ a0.toNat ∨ mget? s.ctxs cx = none) → exec (.svcCtxstop q) s = .next (told s p 0x100 0)) ∧
    (a1 = 0 → a2 = 0 → a0.toNat < 64 → ∀ c, mget? s.ctxs cx = some c → c.pkg = p →
      (s.blocks = [] → s.groups = [] → c.grants = [] → ∃ u, exec (.svcCtxstop q) s = .next u ∧ u.mem = s.mem ∧ u.l2 = s.l2 ∧ mget? u.ctxs cx = none ∧
        (∀ j, j ≠ cx → mget? u.ctxs j = mget? s.ctxs j) ∧ (∀ e ∈ u.kernels, e.2.ctx ≠ cx) ∧ (∀ e ∈ u.clusters, e.2.ctx ≠ cx) ∧
        (u.pkg p).reply = (s.pkg p).reply ++ [(0, 0)] ∧ (u.pkg p).msi = (s.pkg p).msi + 1) ∧
      (∀ b x bl, s.groups = [(512 * b, x)] → s.blocks = [(b, bl)] → bl.ctx = cx → bl.stage = .running → x.stop = .running → x.hold = none → x.hold2 = none → x.acc ≠ [] →
        (s.part x.part).wc = [] →
        ∃ u, exec (.svcCtxstop q) s = .next u ∧ u.mem = s.mem ∧ u.pkgs = s.pkgs ∧ (u.ctx cx).stopping = true ∧ (u.grp (512 * b)).stop = .saved))

/-- R331, R332, R339, R341: keys: a secure session message keeps its 64 bytes under session and handle; KEYLOAD puts them into an empty slot; KEYCLR empties the
slot, its bit in every KEYGRANT of the package and the L2 lines under it, whose dirty bytes reach memory. -/
def Sys2Proof.Claims.keyRule : Prop :=
  (∀ (s : State) (p ses han : Nat) (key : BitVec 512), p < s.packages → ∃ u, exec (.spdmSecureSessionMessage p ses han key) s = .next u ∧ OnlyPkg s u p ∧
    (u.pkg p).keys = (s.pkg p).keys ∧ ∀ n, n ≠ 0 → n < 128 → han < 2 ^ 64 → ses < 2 ^ 64 → MailFree u p → mget? (u.pkg p).keys n = none →
      ∃ v, exec (.svcKeyload ⟨.mailbox p, 5, BitVec.ofNat 64 n, BitVec.ofNat 64 ses, BitVec.ofNat 64 han⟩) u = .next v ∧ OnlyPkg u v p ∧
        mget? (v.pkg p).keys n = some key ∧ (∀ m, m ≠ n → mget? (v.pkg p).keys m = mget? (u.pkg p).keys m) ∧ n ∉ (v.pkg p).badKeys ∧
        (v.pkg p).reply = (u.pkg p).reply ++ [(0, 0)]) ∧
  (∀ (s : State) (p : Nat) (a0 a1 a2 : W64), MailFree s p →
    let q := SvcReq.mk (.mailbox p) 5 a0 a1 a2
    (a0 = 0 ∨ 127 < a0.toNat → exec (.svcKeyload q) s = .next (told s p 0x102 0)) ∧
    (0 < a0.toNat → a0.toNat ≤ 127 → mget? (s.pkg p).keys a0.toNat ≠ none → a0.toNat ∉ (s.pkg p).badKeys → exec (.svcKeyload q) s = .next (told s p 0x101 0)) ∧
    (0 < a0.toNat → a0.toNat ≤ 127 → mget? (s.pkg p).keys a0.toNat = none → mget? (s.pkg p).sessions (a1.toNat * 2 ^ 64 + a2.toNat) = none →
      exec (.svcKeyload q) s = .next (told s p 6 0)) ∧
    let r := SvcReq.mk (.mailbox p) 6 a0 a1 a2
    (a0 = 0 ∨ 127 < a0.toNat ∨ a1 ≠ 0 ∨ a2 ≠ 0 → exec (.svcKeyclr r) s = .next (told s p 0x102 0)) ∧
    (0 < a0.toNat → a0.toNat ≤ 127 → a1 = 0 → a2 = 0 → s.dir = [] → (s.l2.map (·.1)).Nodup →
      (∀ e ∈ s.l2, e.2.key = a0.toNat → e.1 / 2 ^ 43 = p → e.1 / 2 ^ 42 = homeDie (256 * (e.1 % 2 ^ 42))) →
      ∃ u, exec (.svcKeyclr r) s = .next u ∧ u.groups = s.groups ∧ (u.pkg p).reply = (s.pkg p).reply ++ [(0, 0)] ∧ mget? (u.pkg p).keys a0.toNat = none ∧
        (∀ m, m ≠ a0.toNat → mget? (u.pkg p).keys m = mget? (s.pkg p).keys m) ∧
        (∀ cx c, mget? s.ctxs cx = some c → ∃ d, mget? u.ctxs cx = some d ∧ d.root = c.root ∧
          ∀ b, b < 128 → d.keyGrant.getLsbD b = (c.keyGrant.getLsbD b && !(decide (c.pkg = p) && decide (b = a0.toNat)))) ∧
        (∀ n l, mget? s.l2 n = some l → n / 2 ^ 43 = p → l.key = a0.toNat → mget? u.l2 n = none ∧
          ∀ i, i < 256 → l.dirty.getLsbD i = true → cget u.mem (256 * (n % 2 ^ 42) + i) = l.data.extractLsb' (8 * i) 8) ∧
        ∀ n l, mget? s.l2 n = some l → (n / 2 ^ 43 ≠ p ∨ l.key ≠ a0.toNat) → mget? u.l2 n = some l))

/-- R339, R340, R342: PLIMIT, ATTEST, GRANT and an unknown OP through the mailbox. What ATTEST writes is the SPDM response, which the spec leaves to that standard (log 4). -/
def Sys2Proof.Claims.otherServices : Prop :=
  ∀ (s : State) (p : Nat) (a0 a1 a2 : W64), MailFree s p →
    (∀ op, (op = 0 ∨ 9 < op) → exec (.svcUnknown ⟨.mailbox p, op, a0, a1, a2⟩) s = .next (told s p 1 0)) ∧
    (let q := SvcReq.mk (.mailbox p) 7 a0 a1 a2
     let ok := 1000 ≤ a0.toNat ∧ a0.toNat ≤ 2700 ∧ a1 = 0 ∧ a2 = 0
     (¬ ok → exec (.svcPlimit q) s = .next (told s p 0x102 0)) ∧
     (ok → ∃ u, exec (.svcPlimit q) s = .next u ∧ OnlyPkg s u p ∧ (u.pkg p).plimit = a0.toNat ∧ (u.pkg p).reply = (s.pkg p).reply ++ [(0, 0)] ∧
       ((s.pkg p).samples.length < 10 → (u.pkg p).mhz = (s.pkg p).mhz ∧ (u.pkg p).hdrm = (s.pkg p).hdrm) ∧
       (10 ≤ (s.pkg p).samples.length → (u.pkg p).hdrm = a0.toNat - (s.pkg p).samples.sum / 10))) ∧
    (let q := SvcReq.mk (.mailbox p) 8 a0 a1 a2
     let a := a0.toNat
     let resp := Config.attestResponse p (physRead s 0 (p * 2 ^ 43 + a) 32 0).1
     (a2 ≠ 0 ∨ a < 0x40000000000 ∨ 2 ^ 43 < a + 32 + a1.toNat → exec (.svcAttest q) s = .next (told s p 0x102 0)) ∧
     (a2 = 0 → 0x40000000000 ≤ a → a + 32 + a1.toNat ≤ 2 ^ 43 →
       (a1.toNat < resp.length → exec (.svcAttest q) s = .next (told s p 0x103 resp.length)) ∧
       (resp.length ≤ a1.toNat → exec (.svcAttest q) s = .next (told (physWrite s 0 (p * 2 ^ 43 + a + 32) 0 resp) p 0 resp.length)))) ∧
    (let q := SvcReq.mk (.mailbox p) 9 a0 a1 a2
     let a := a0.toNat
     let cx := 64 * p + a % 64
     let i := a / 64 % 8
     let base := a1.toNat
     let len := a2.toNat
     (a < 512 → mget? s.ctxs cx = none → exec (.svcGrant q) s = .next (told s p 0x100 0)) ∧
     (a < 512 → mget? s.ctxs cx ≠ none → (base % 4096 ≠ 0 ∨ len % 4096 ≠ 0) → exec (.svcGrant q) s = .next (told s p 0x102 0)) ∧
     (a < 512 → base % 4096 = 0 → len % 4096 = 0 → (len ≠ 0 → base + len - 1 < 2 ^ 50 ∧ base / 2 ^ 43 < s.packages ∧ (base + len - 1) / 2 ^ 43 < s.packages) →
       ∀ c, mget? s.ctxs cx = some c → ∃ u d, exec (.svcGrant q) s = .next u ∧ u.mem = s.mem ∧ (u.pkg p).reply = (s.pkg p).reply ++ [(0, 0)] ∧
         mget? u.ctxs cx = some d ∧ mget? d.grants i = (if len = 0 then none else some (base, len)) ∧ (∀ j, j ≠ i → mget? d.grants j = mget? c.grants j) ∧
         d.root = c.root ∧ d.keyGrant = c.keyGrant ∧ ∀ j, j ≠ cx → mget? u.ctxs j = mget? s.ctxs j) ∧
     (a / 512 % 2 = 1 → a % 64 = 0 → a < 2 ^ 17 → base % 4096 = 0 → len % 4096 = 0 → base + len ≤ 0xC000000000 →
       ∃ u, exec (.svcGrant q) s = .next u ∧ OnlyPkg s u p ∧ (u.pkg p).reply = (s.pkg p).reply ++ [(0, 0)] ∧
         mget? (u.pkg p).windows i = (if len = 0 then none else some ⟨base, len, a / 1024 % 128⟩) ∧
         ∀ j, j ≠ i → mget? (u.pkg p).windows j = mget? (s.pkg p).windows j))

/-- R178, R340: the host's accesses: inside one window a coherent read or write at the home under the window's key, outside every window an all-ones read or a
dropped write, counted; on host memory that no cache holds, the host's own write is the bytes and its read what stands there. -/
def Sys2Proof.Claims.hostRule : Prop :=
  (∀ (s : State) (p pa n : Nat) (bs : List Byte), p < s.packages →
    ((∀ w ∈ (s.pkg p).windows, ¬ (w.2.base ≤ pa ∧ pa + n ≤ w.2.base + w.2.len)) →
      (∃ u, exec (.cxlMemAccess ⟨p, pa, n, none⟩) s = .next u ∧ OnlyPkg s u p ∧ (u.pkg p).hostData = List.replicate n 0xFF ∧ (u.pkg p).rejects = (s.pkg p).rejects + 1) ∧
      (bs.length = n → ∃ u, exec (.cxlMemAccess ⟨p, pa, 0, some bs⟩) s = .next u ∧ OnlyPkg s u p ∧ (u.pkg p).hostData = (s.pkg p).hostData ∧
        (u.pkg p).rejects = (s.pkg p).rejects + 1)) ∧
    (∀ i w, (s.pkg p).windows = [(i, w)] → w.base ≤ pa → pa + n ≤ w.base + w.len →
      (w.key = 0 ∨ (mget? (s.pkg p).keys w.key ≠ none ∧ w.key ∉ (s.pkg p).badKeys)) →
      (∃ u, exec (.cxlMemAccess ⟨p, pa, n, none⟩) s = .next u ∧ OnlyPkg s u p ∧ (u.pkg p).hostData = (physRead s 0 (p * 2 ^ 43 + pa) n w.key).1 ∧
        (u.pkg p).rejects = (s.pkg p).rejects) ∧
      (bs.length = n → exec (.cxlMemAccess ⟨p, pa, 0, some bs⟩) s = .next (physWrite s 0 (p * 2 ^ 43 + pa) w.key bs)))) ∧
  (∀ (s : State) (p pa n : Nat) (bs : List Byte), p < s.packages →
    (pa < 0x40000000000 ∨ 2 ^ 43 < pa + n → exec (.cxlCacheSnoop ⟨p, pa, n, none⟩) s = .next s) ∧
    (0x40000000000 ≤ pa → 0 < n → pa + n ≤ 2 ^ 43 → s.l2 = [] → s.dir = [] → s.victims = [] → s.cipher = [] → (∀ e ∈ s.groups, e.2.hold = none ∧ e.2.hold2 = none) →
      (∃ u, exec (.cxlCacheSnoop ⟨p, pa, n, none⟩) s = .next u ∧ OnlyPkg s u p ∧ (u.pkg p).hostData = cread s.mem (p * 2 ^ 43 + pa) n) ∧
      (bs.length = n → ∃ u, exec (.cxlCacheSnoop ⟨p, pa, 0, some bs⟩) s = .next u ∧ u.groups = s.groups ∧ cread u.mem (p * 2 ^ 43 + pa) n = bs ∧
        ∀ a, (a < p * 2 ^ 43 + pa ∨ p * 2 ^ 43 + pa + n ≤ a) → cget u.mem a = cget s.mem a)))

/-- The monitor's services, and the host's accesses. -/
def Obligations.MonitorServicesAndHostAccesses : Prop :=
  ringRule ∧ replayInvalRule ∧ startRule ∧ stopRule ∧ keyRule ∧ otherServices ∧ hostRule

/-! ## Coherence messages and accesses of other packages (R161, R266 to R277, R308, R313, R383) -/

/-- Messages about a line sent in order by a die, each with its type and destination; no other message is new. -/
def Sys2Proof.Claims.Sends (s u : State) (src line : Nat) (ms : List (Nat × Nat)) : Prop :=
  u.nextId = s.nextId + ms.length ∧ ∀ i x, ms[i]? = some x → ∃ m, mget? u.net (s.nextId + i) = some m ∧ m.typ = x.1 ∧ m.src = src ∧ m.dst = x.2 ∧
    m.addr = 256 * line

/-- The number of entries in the directory set of a line (R268). -/
def Sys2Proof.Claims.setSize (s : State) (line : Nat) : Nat :=
  (s.dir.filter (fun e => e.1 % 2 ^ 18 == line % 2 ^ 18 && homeDie (256 * e.1) == homeDie (256 * line))).length

/-- The home takes a message about a line: it can be delivered, the line is not busy, every copy has the key of the message, and the set of the
directory has room. -/
structure Sys2Proof.Claims.AtHome (s : State) (id typ : Nat) (m : Msg) : Prop where
  comes : arriving s id typ = some m
  idle : mget? s.busy (m.addr / 256) = none
  key : ∀ l, mget? s.l2 (atDie (homeDie (256 * (m.addr / 256))) (m.addr / 256)) = some l → l.key = m.aux / 16
  copies : ∀ e d l, mget? s.dir (m.addr / 256) = some e → d ∈ e.dies → copyAt s d (m.addr / 256) = some l → l.key = m.aux / 16
  room : setSize s (m.addr / 256) < 16

/-- The groups are as before, but for which waiting loads an answer may serve. -/
def Sys2Proof.Claims.SameButAcc (s u : State) : Prop :=
  u.groups.map (fun e => (e.1, { e.2 with acc := [] })) = s.groups.map (fun e => (e.1, { e.2 with acc := [] }))

/-- R268, R273: the holders that an invalidation for another's ownership goes to: the pointers, or in coarse mode every die of the pod in a marked
group; the home die and the requester never. -/
def Sys2Proof.Claims.invalidated (s : State) (e : DirEnt) (home d : Nat) : List Nat :=
  (if e.cm then (List.range 256).filter (fun x => e.coarse.getLsbD (x / 8)) else e.ptrs).filter (fun x => x != d && x != home && decide (x < 2 * s.packages))

/-- R277, R278: the replica limit that a read of an address meets: that of its region, where the region has no entry that of the request's hint; host memory has none. -/
def Sys2Proof.Claims.replicaLimit (s : State) (m : Msg) : Nat :=
  let rd := match mget? (s.die (homeDie m.addr)).regions (m.addr / 2 ^ 21) with
    | some r => r.rd
    | none => m.aux % 16
  if isHbm m.addr then (match rd with | 0 => 0 | 1 => 1 | 2 => 2 | 3 => 4 | 4 => 8 | 5 => 16 | 6 => 64 | _ => 256) else 0

/-- Of a message with the whole line: its bytes. -/
def Sys2Proof.Claims.Carries (u : State) (id : Nat) (d : BitVec 2048) : Prop := ∃ m, mget? u.net id = some m ∧ m.data.length = 256 ∧ msgLine m = d

/-- R269, R270, R273, R276, R277: a ReqS at the home waits while the line is busy, and while its set of the directory is full where it needs an entry. From I and S it is answered with the home copy, as DataS below the limit, else as
DataSN; from E/M and O the owner is snooped, from P every holder is asked to merge; the line is then busy. -/
def Sys2Proof.Claims.reqsRule : Prop :=
  ∀ (s : State) (id : Nat) (m : Msg), arriving s id 1 = some m →
    let line := m.addr / 256
    let home := homeDie (256 * line)
    (mget? s.busy line ≠ none → exec (.msgReqs id) s = .next s) ∧
    (mget? s.busy line = none → mget? s.dir line = none → 16 ≤ setSize s line → 0 < replicaLimit s m → m.addr % 256 = 0 → id < s.nextId →
      ∃ u, exec (.msgReqs id) s = .next u ∧ u.mem = s.mem ∧ u.groups = s.groups ∧ mget? u.net id = some m ∧ mget? u.dir line = none) ∧
    (AtHome s id 1 m → m.aux % 16 < 8 → m.addr % 256 = 0 → ∃ u, exec (.msgReqs id) s = .next u ∧ u.mem = s.mem ∧ SameButAcc s u ∧
      (mget? s.dir line = none →
        (0 < replicaLimit s m → Sends s u home line [(0x0E, m.src)] ∧ Carries u s.nextId (homeData s line (m.aux / 16)).1 ∧
          ∃ e, mget? u.dir line = some e ∧ e.st = .s ∧ e.cm = false ∧ e.ptrs = [m.src] ∧ e.cnt = 1) ∧
        (replicaLimit s m = 0 → Sends s u home line [(0x0F, m.src)] ∧ Carries u s.nextId (homeData s line (m.aux / 16)).1 ∧ mget? u.dir line = none)) ∧
      (∀ e, mget? s.dir line = some e →
        (e.st = .s → e.cm = false → m.src ∉ e.ptrs → e.ptrs.length < 4 →
          (e.cnt < replicaLimit s m → Sends s u home line [(0x0E, m.src)] ∧ ∃ f, mget? u.dir line = some f ∧ f.st = .s ∧ f.cnt = e.cnt + 1 ∧
            ∀ d, d ∈ f.ptrs ↔ d ∈ e.ptrs ∨ d = m.src) ∧
          (replicaLimit s m ≤ e.cnt → 0 < e.cnt → Sends s u home line [(0x0F, m.src)] ∧ ∃ f, mget? u.dir line = some f ∧ f.st = .s ∧ f.cnt = e.cnt ∧ f.ptrs = e.ptrs)) ∧
        (e.st = .em ∨ e.st = .o → Sends s u home line [(7, e.own)] ∧ mget? u.dir line = some e ∧
          ∃ t, mget? u.busy line = some t ∧ t.typ = 1 ∧ t.from' = m.src ∧ t.waits = [e.own]) ∧
        (e.st = .p → Sends s u home line (e.holders.map (fun h => (0x0A, h.1))) ∧ mget? u.dir line = some e ∧
          ∃ t, mget? u.busy line = some t ∧ t.typ = 1 ∧ t.from' = m.src ∧ t.waits = e.holders.map (·.1))))

/-- R270, R275, R276: ReqX, Upg and PExt at the home. From I, and from S with no other holder, ownership is granted (to an Upg by a holder without data); from S
the other holders are invalidated (in coarse mode every die in a marked group, but not the home), and the entry stays coarse until it returns to I; an owner is snooped, with SnpMask at its third transfer where the table has room; from P a holder's mask grows
where the bytes are free and there are fewer than four holders, else the line merges. -/
def Sys2Proof.Claims.reqwRule : Prop :=
  ∀ (s : State) (id typ : Nat) (m : Msg) (i : Instr), (typ, i) ∈ [(2, Instr.msgReqx id), (3, .msgUpg id), (4, .msgPext id)] → arriving s id typ = some m →
    let line := m.addr / 256
    let home := homeDie (256 * line)
    (mget? s.busy line ≠ none → exec i s = .next s) ∧
    (AtHome s id typ m → ∃ u, exec i s = .next u ∧ u.mem = s.mem ∧ u.groups = s.groups ∧
      let owned := ∃ f, mget? u.dir line = some f ∧ f.st = .em ∧ f.own = m.src
      let opens := fun (ws : List Nat) => ∃ t, mget? u.busy line = some t ∧ t.typ = typ ∧ t.from' = m.src ∧ t.mask = m.mask ∧ t.waits = ws
      (mget? s.dir line = none → Sends s u home line [(0x10, m.src)] ∧ Carries u s.nextId (homeData s line (m.aux / 16)).1 ∧ owned) ∧
      (∀ e, mget? s.dir line = some e →
        (e.st = .s → e.cm = false → e.ptrs = [m.src] → Sends s u home line [(0x10, m.src)] ∧ owned ∧
          (typ = 3 → ∃ x, mget? u.net s.nextId = some x ∧ x.data = []) ∧ (typ ≠ 3 → Carries u s.nextId (homeData s line (m.aux / 16)).1)) ∧
        (e.st = .s → let ws := invalidated s e home m.src
          ws ≠ [] → Sends s u home line (ws.map (fun d => (0x0B, d))) ∧ opens ws ∧ mget? u.dir line = some e) ∧
        (e.st = .s → invalidated s e home m.src = [] → owned ∧ Sends s u home line [(0x10, m.src)] ∧
          ∀ f, mget? u.dir line = some f → f.cm = e.cm) ∧
        (e.st = .em → e.own ≠ m.src →
          let priv := 3 ≤ e.xf ∧ (s.dir.filter (fun x => x.2.st == .p && homeDie (256 * x.1) == home)).length < 4096
          (¬ priv → Sends s u home line [(8, e.own)] ∧ opens [e.own] ∧ ∃ t, mget? u.busy line = some t ∧ t.probe = false) ∧
          (priv → Sends s u home line [(9, e.own)] ∧ opens [e.own] ∧ ∃ t, mget? u.busy line = some t ∧ t.probe = true)) ∧
        (e.st = .o → e.own ≠ m.src → let ws := invalidated s e home m.src
          Sends s u home line (ws.map (fun d => (0x0B, d)) ++ [(8, e.own)]) ∧ opens (ws ++ [e.own])) ∧
        (e.st = .p →
          let free := typ = 4 ∧ (∃ h ∈ e.holders, h.1 = m.src) ∧ (∀ h ∈ e.holders, h.1 ≠ m.src → h.2 &&& m.mask = 0) ∧ e.holders.length < 4
          (free → Sends s u home line [(0x11, m.src)] ∧ mget? u.busy line = none ∧ ∃ f, mget? u.dir line = some f ∧ f.st = .p ∧
            f.holders = e.holders.map (fun h => if h.1 = m.src then (h.1, h.2 ||| m.mask) else h)) ∧
          (¬ free → Sends s u home line (e.holders.map (fun h => (0x0A, h.1))) ∧ opens (e.holders.map (·.1))))))

/-- R271, R272, R276: EvN and EvD are acknowledged always. A recorded holder leaves the entry, and the dirty bytes of its EvD stand in the home copy, dirty; from a die
that is no holder nothing is taken. EvAck frees the victim buffer. -/
def Sys2Proof.Claims.evictRule : Prop :=
  (∀ (s : State) (id typ : Nat) (m : Msg) (i : Instr), (typ, i) ∈ [(5, Instr.msgEvn id), (6, .msgEvd id)] → arriving s id typ = some m →
    let line := m.addr / 256
    let home := homeDie (256 * line)
    (mget? s.busy line ≠ none → exec i s = .next s) ∧
    (AtHome s id typ m → ∃ u, exec i s = .next u ∧ u.mem = s.mem ∧ u.groups = s.groups ∧ Sends s u home line [(0x12, m.src)] ∧
      (mget? s.dir line = none → mget? u.dir line = none ∧ u.l2 = s.l2) ∧
      ∀ e, mget? s.dir line = some e →
        (e.st = .em → e.own ≠ m.src → mget? u.dir line = some e ∧ u.l2 = s.l2) ∧
        (e.st = .em → e.own = m.src → mget? u.dir line = none) ∧
        (e.st = .s → e.cm = false → m.src ∈ e.ptrs →
          (e.cnt = 1 → mget? u.dir line = none) ∧ (1 < e.cnt → ∃ f, mget? u.dir line = some f ∧ f.st = .s ∧ f.cnt = e.cnt - 1 ∧ f.ptrs = e.ptrs.filter (· != m.src))) ∧
        (e.st = .o → e.own = m.src → (e.cnt = 0 → mget? u.dir line = none) ∧ (0 < e.cnt → ∃ f, mget? u.dir line = some f ∧ f.st = .s ∧ f.cnt = e.cnt)) ∧
        (e.st = .p → (∃ h ∈ e.holders, h.1 = m.src) → (∃ h ∈ e.holders, h.1 ≠ m.src) → ∃ f, mget? u.dir line = some f ∧ f.st = .p ∧
          f.holders = e.holders.filter (fun h => h.1 != m.src)) ∧
        ((e.st = .em ∨ e.st = .o) → e.own = m.src → typ = 6 → m.mask ≠ 0 → ∃ l, mget? u.l2 (atDie home line) = some l ∧ ∀ j, j < 256 → m.mask.getLsbD j = true →
          l.data.extractLsb' (8 * j) 8 = (msgLine m).extractLsb' (8 * j) 8 ∧ l.dirty.getLsbD j = true))) ∧
  (∀ (s : State) (id : Nat) (m : Msg), arriving s id 0x12 = some m → ∃ u, exec (.msgEvack id) s = .next u ∧ u.mem = s.mem ∧ u.l2 = s.l2 ∧ u.groups = s.groups ∧
    mget? u.net id = none ∧ mget? u.victims (atDie m.dst (m.addr / 256)) = none ∧
    atDie m.dst (m.addr / 256) ∉ u.spent ∧ ∀ n, n ≠ atDie m.dst (m.addr / 256) → mget? u.victims n = mget? s.victims n)

/-- R267, R270, R271, R274, R276: the five snoops at a die that no data of the line is on its way to: what stays of its copy, and the answer; a victim buffer answers as the
line would have, and then counts as gone, though it stays taken until EvAck. -/
def Sys2Proof.Claims.snoopRule : Prop :=
  ∀ (s : State) (id typ : Nat) (m : Msg) (i : Instr),
    (typ, i) ∈ [(7, Instr.msgSnpshr id), (8, .msgSnpinv id), (9, .msgSnpmask id), (0x0A, .msgSnpmerge id), (0x0B, .msgInv id)] → arriving s id typ = some m →
    let line := m.addr / 256
    let home := homeDie (256 * line)
    let at' := atDie m.dst line
    (dataComing s m.dst line = true → exec i s = .next s) ∧
    (dataComing s m.dst line = false → ∃ u, exec i s = .next u ∧ u.mem = s.mem ∧ u.groups = s.groups ∧ u.dir = s.dir ∧
      (∀ n, n ≠ at' → mget? u.l2 n = mget? s.l2 n) ∧
      (∀ l, mget? s.l2 at' = some l →
        (typ = 7 ∨ typ = 9 → mget? u.l2 at' = some { l with st := if typ = 7 then .o else .p }) ∧ ((typ = 8 ∨ typ = 0x0A ∨ typ = 0x0B) → mget? u.l2 at' = none) ∧
        (typ ≠ 0x0B → l.dirty ≠ 0 ∨ typ ≠ 8 → Sends s u m.dst line [(0x0D, home)] ∧ Carries u s.nextId l.data ∧
          ∃ x, mget? u.net s.nextId = some x ∧ x.mask = l.dirty ∧ x.aux / 16 = l.key) ∧
        (typ = 0x0B ∨ (typ = 8 ∧ l.dirty = 0) → Sends s u m.dst line [(0x0C, home)])) ∧
      (mget? s.l2 at' = none → at' ∉ s.spent → ∀ l, mget? s.victims at' = some l → u.victims = s.victims ∧ at' ∈ u.spent ∧
        (typ ≠ 0x0B → l.dirty ≠ 0 ∨ typ ≠ 8 → Sends s u m.dst line [(0x0D, home)] ∧ Carries u s.nextId l.data ∧
          ∃ x, mget? u.net s.nextId = some x ∧ x.mask = l.dirty) ∧
        (typ = 0x0B ∨ (typ = 8 ∧ l.dirty = 0) → Sends s u m.dst line [(0x0C, home)])) ∧
      (mget? s.l2 at' = none → (mget? s.victims at' = none ∨ at' ∈ s.spent) → Sends s u m.dst line [(0x0C, home)]))

/-- R270, R275, R276: an answer to the home's snoops: before the last the transaction waits for the others; with the last of a transaction for ownership the requester
owns the line and its DataE holds the answers' bytes; an owner that keeps its line after SnpShr leaves it O and the requester is answered; after SnpMask
disjoint masks privatise the line. -/
def Sys2Proof.Claims.answerRule : Prop :=
  ∀ (s : State) (id typ : Nat) (m : Msg) (t : Txn) (i : Instr), (typ, i) ∈ [(0x0C, Instr.msgAck id), (0x0D, .msgAckd id)] → arriving s id typ = some m →
    let line := m.addr / 256
    let home := homeDie (256 * line)
    mget? s.busy line = some t → m.src ∈ t.waits → (∀ l, mget? s.l2 (atDie home line) = some l → l.key = t.req) → (typ = 0x0D → m.aux / 16 = t.req) →
    t.evict = false → t.from' ≠ home → ∃ u, exec i s = .next u ∧ u.mem = s.mem ∧ SameButAcc s u ∧
      (t.probe = false → t.typ ≠ 1 → t.waits.filter (· != m.src) ≠ [] → Sends s u home line [] ∧ mget? u.dir line = mget? s.dir line ∧
        ∃ w, mget? u.busy line = some w ∧ w.waits = t.waits.filter (· != m.src) ∧ w.typ = t.typ ∧ w.from' = t.from') ∧
      (t.probe = false → t.typ = 2 → t.waits.filter (· != m.src) = [] → (∀ e, mget? s.dir line = some e → e.st ≠ .o ∨ e.own ≠ t.from') →
        Sends s u home line [(0x10, t.from')] ∧ mget? u.busy line = none ∧ (∃ e, mget? u.dir line = some e ∧ e.st = .em ∧ e.own = t.from') ∧
        (typ = 0x0D → ∃ x, mget? u.net s.nextId = some x ∧ ∀ j, j < 256 → m.mask.getLsbD j = true →
          (msgLine x).extractLsb' (8 * j) 8 = (msgLine m).extractLsb' (8 * j) 8)) ∧
      (t.probe = false → t.typ = 1 → t.waits.filter (· != m.src) = [] → m.last = false → ∀ e, mget? s.dir line = some e → e.st = .em → e.own ≠ t.from' →
        mget? u.busy line = none ∧ (∃ f, mget? u.dir line = some f ∧ f.st = .o ∧ f.own = e.own) ∧ (Sends s u home line [(0x0E, t.from')] ∨ Sends s u home line [(0x0F, t.from')])) ∧
      (t.probe = true → typ = 0x0D → m.last = false → m.mask &&& t.mask = 0 → Sends s u home line [(0x11, t.from')] ∧ mget? u.busy line = none ∧
        ∃ f, mget? u.dir line = some f ∧ f.st = .p ∧ f.holders = [(m.src, m.mask), (t.from', t.mask)]) ∧
      (t.probe = true → typ = 0x0D → m.last = false → m.mask &&& t.mask ≠ 0 → Sends s u home line [(8, m.src)] ∧
        ∃ w, mget? u.busy line = some w ∧ w.probe = false ∧ w.waits = [m.src] ∧ w.from' = t.from')

/-- R267, R270, R275, R277: data that arrives at a die whose groups wait for nothing of the line and that replaces no line: DataS installs an S copy, DataE an E copy or
ownership of the copy that stands, DataP a P copy with its mask; DataSN installs nothing. A load that waits for the line is performed with the data of
DataS and DataSN; one that came after the home read the data of a DataSN is not, and asks again. -/
def Sys2Proof.Claims.dataRule : Prop :=
  (∀ (s : State) (id typ : Nat) (m : Msg) (i : Instr),
    (typ, i) ∈ [(0x0E, Instr.msgDatas id none), (0x0F, .msgDatasn id), (0x10, .msgDatae id none), (0x11, .msgDatap id none)] → arriving s id typ = some m →
    let line := m.addr / 256
    let at' := atDie m.dst line
    waitingFor s m.dst line = [] → ∃ u, exec i s = .next u ∧ u.mem = s.mem ∧ u.groups = s.groups ∧ u.dir = s.dir ∧ mget? u.net id = none ∧
      (∀ n, n ≠ at' → mget? u.l2 n = mget? s.l2 n) ∧
      (typ = 0x0F → mget? u.l2 at' = mget? s.l2 at') ∧
      (typ = 0x0E → ∃ l, mget? u.l2 at' = some l ∧ l.st = .s ∧ l.data = msgLine m ∧ l.dirty = 0 ∧ l.key = m.aux / 16) ∧
      (typ = 0x10 → m.data ≠ [] → ∃ l, mget? u.l2 at' = some l ∧ l.st = .e ∧ l.data = msgLine m ∧ l.dirty = 0 ∧ l.key = m.aux / 16) ∧
      (typ = 0x10 → m.data = [] → ∀ l, mget? s.l2 at' = some l → mget? u.l2 at' = some { l with st := if l.dirty = 0 then .e else .m }) ∧
      (typ = 0x11 → m.data ≠ [] → ∃ l, mget? u.l2 at' = some l ∧ l.st = .p ∧ l.data = msgLine m ∧ l.dirty = m.mask ∧ l.key = m.aux / 16) ∧
      (typ = 0x11 → m.data = [] → ∀ l, mget? s.l2 at' = some l → mget? u.l2 at' = some { l with st := .p, dirty := m.mask })) ∧
  (∀ (s : State) (id typ : Nat) (m : Msg) (i : Instr) (g : Nat) (x : Group) (a : Access) (r : Req),
    (typ, i) ∈ [(0x0E, Instr.msgDatas id none), (0x0F, .msgDatasn id)] → arriving s id typ = some m →
    s.groups = [(g, x)] → x.acc = [a] → a.reqs = [r] → a.op = .load → a.space = .generic → r.stage = .waiting → r.pol = 0 → r.line = m.addr / 256 → r.key = m.aux / 16 →
    s.dieOf g = m.dst → s.isDet g = false → 2 ≤ a.hint → s.parts = [] → m.dst ≠ homeDie (256 * r.line) →
    ∃ u, exec i s = .next u ∧ u.mem = s.mem ∧ (typ = 0x0F → r.asked = false → u.groups = s.groups) ∧ (typ = 0x0E ∨ r.asked = true → (u.grp g).v = x.v ∧ ∃ b q, (u.grp g).acc = [b] ∧ b.reqs = [q] ∧ q.stage = .performed ∧ q.data = msgLine m ∧ q.lanes = r.lanes))

/-- R161, R308, R313, R383: far accesses. RdU answers with the line's bytes in memory and WrU writes its masked bytes and no other there; their answers perform the load and
end the store. AtomF waits until no other die holds its line; with an integer addition in one lane it adds at the home and answers with the old value; AtomR writes it to vD. -/
def Sys2Proof.Claims.farRule : Prop :=
  (∀ (s : State) (id : Nat) (m : Msg), arriving s id 0x15 = some m → ∃ u, exec (.msgRdu id) s = .next u ∧ u.mem = s.mem ∧ u.l2 = s.l2 ∧ u.groups = s.groups ∧
    ∃ x, mget? u.net s.nextId = some x ∧ x.typ = 0x16 ∧ x.src = m.dst ∧ x.dst = m.src ∧ x.tid = m.tid ∧ x.addr = m.addr ∧
      ∀ j, j < 256 → x.data.getD j 0 = dramByte s (256 * (m.addr / 256) + j) (m.aux / 16)) ∧
  (∀ (s : State) (id : Nat) (m : Msg), arriving s id 0x17 = some m → ∃ u, exec (.msgWru id) s = .next u ∧ u.l2 = s.l2 ∧ u.groups = s.groups ∧
    (∃ x, mget? u.net s.nextId = some x ∧ x.typ = 0x18 ∧ x.src = m.dst ∧ x.dst = m.src ∧ x.tid = m.tid ∧ x.addr = m.addr) ∧
    ∀ b, pkgOfPa b = pkgOfPa (256 * (m.addr / 256)) → dramByte u b (m.aux / 16) =
      (if b / 256 = m.addr / 256 ∧ m.mask.getLsbD (b % 256) = true then m.data.getD (b % 256) 0 else dramByte s b (m.aux / 16))) ∧
  (∀ (s : State) (id typ : Nat) (m : Msg) (g : Nat) (x : Group) (a : Access) (r : Req), s.groups = [(g, x)] → x.acc = [a] → a.reqs = [r] → a.id = m.tid →
    r.stage = .waiting → 256 * r.line + r.piece = m.addr → x.hold = none →
    (typ = 0x16 → arriving s id typ = some m → ∃ u, exec (.msgRdur id) s = .next u ∧ u.mem = s.mem ∧ (u.grp g).v = x.v ∧
      ∃ b q, (u.grp g).acc = [b] ∧ b.reqs = [q] ∧ q.stage = .performed ∧ q.data = msgLine m ∧ q.lanes = r.lanes) ∧
    (typ = 0x18 → arriving s id typ = some m → ∃ u, exec (.msgWrua id) s = .next u ∧ u.mem = s.mem ∧ (u.grp g).acc = [] ∧ (u.grp g).v = x.v ∧ (u.grp g).g = x.g ∧
      (0 < a.setk → a.setk < 8 → 0 < x.kc (a.setk - 1) → (u.grp g).kc (a.setk - 1) = x.kc (a.setk - 1) - 1)) ∧
    (typ = 0x14 → arriving s id typ = some m → ∀ lane old code, m.data = toBytes 1 lane ++ toBytes 1 0 ++ old → lane < 32 → old.length = 4 → a.size = 4 →
      a.op = .atom false code true → ∃ u, exec (.msgAtomr id) s = .next u ∧ u.mem = s.mem ∧ (u.grp g).acc = [] ∧ (u.grp g).rv a.dst lane = BitVec.ofNat 32 (ofBytes old) ∧
        ∀ n l, l < 32 → (n ≠ a.dst ∨ l ≠ lane) → (u.grp g).rv n l = x.rv n l)) ∧
  (∀ (s : State) (id : Nat) (m : Msg), arriving s id 0x13 = some m →
    (mget? s.busy (m.addr / 256) ≠ none → m.aux % 16 = 0 → exec (.msgAtomf id) s = .next s) ∧
    (mget? s.busy (m.addr / 256) = none → mget? s.dir (m.addr / 256) ≠ none → m.aux % 16 = 0 → id < s.nextId →
      ∃ u, exec (.msgAtomf id) s = .next u ∧ u.mem = s.mem ∧ u.l2 = s.l2 ∧ u.groups = s.groups ∧ mget? u.net id = some m) ∧
    (∀ lane off b, mget? s.busy (m.addr / 256) = none → mget? s.dir (m.addr / 256) = none → m.aux % 16 = 0 →
      (∀ l, mget? s.l2 (atDie (homeDie (256 * (m.addr / 256))) (m.addr / 256)) = some l → l.key = m.aux / 16) →
      m.mask = 4 → m.data = toBytes 1 lane ++ toBytes 1 off ++ b → b.length = 4 → lane < 32 → off % 4 = 0 → off < 256 →
      let pa := 256 * (m.addr / 256) + off
      (cohRead s pa 4 (m.aux / 16)).2 = false → answersOf s (m.addr / 256) = [] →
      ∃ u, exec (.msgAtomf id) s = .next u ∧ u.mem = s.mem ∧ u.groups = s.groups ∧
        ofBytes (cohRead u pa 4 (m.aux / 16)).1 = (ofBytes (cohRead s pa 4 (m.aux / 16)).1 + ofBytes b) % 2 ^ 32 ∧
        (∀ a, a / 256 = m.addr / 256 → (a < pa ∨ pa + 4 ≤ a) → coherentByte u (m.aux / 16) a = coherentByte s (m.aux / 16) a) ∧
        ∃ x, mget? u.net s.nextId = some x ∧ x.typ = 0x14 ∧ x.src = m.dst ∧ x.dst = m.src ∧ x.tid = m.tid ∧
          x.data = toBytes 1 lane ++ toBytes 1 0 ++ (cohRead s pa 4 (m.aux / 16)).1))

/-- What the coherence messages and those of far accesses do. -/
def Obligations.CoherenceAndFarAccessMessages : Prop :=
  reqsRule ∧ reqwRule ∧ evictRule ∧ snoopRule ∧ answerRule ∧ dataRule ∧ farRule

/-! ## Fabric messages and reductions (R384 to R387, R389 to R398) -/

/-- R381, R384, R392 to R395: PUT and MCD payload without addition for one line is performed at its home and acknowledged by PUTA; a SIG waits for payload of its
operation to the same destination, then sets its 8-byte word or adds to it, and is acknowledged. The line has no other copy. -/
def Sys2Proof.Claims.payloadRule : Prop :=
  ∀ (s : State) (id typ : Nat) (m : Msg) (i : Instr), (typ, i) ∈ [(0x20, Instr.msgPut id), (0x23, .msgMcd id), (0x22, .msgSig id)] → arriving s id typ = some m →
    let line := m.addr / 256
    let key := m.aux / 16 % 128
    m.aux < 2 ^ 40 → m.aux % 16 = 0 → m.addr % 256 + m.data.length ≤ 256 → m.data ≠ [] → mget? s.dir line = none → answersOf s line = [] →
    (∀ l, mget? s.l2 (atDie (homeDie m.addr) line) = some l → l.key = key) →
    let acked := fun (u : State) => ∃ x, mget? u.net s.nextId = some x ∧ x.typ = 0x21 ∧ x.src = m.dst ∧ x.dst = m.src ∧ x.tid = id ∧ x.aux = 0
    let others := fun (u : State) (n : Nat) => ∀ a, a / 256 = line → (a < m.addr ∨ m.addr + n ≤ a) → coherentByte u key a = coherentByte s key a
    (typ ≠ 0x22 → m.aux / 2048 % 32 = 0 → ∃ u, exec i s = .next u ∧ u.mem = s.mem ∧ acked u ∧ others u m.data.length ∧
      ∀ j, j < m.data.length → coherentByte u key (m.addr + j) = m.data.getD j 0) ∧
    (typ = 0x22 → m.data.length = 8 →
      let payload := ∃ e ∈ s.net, (e.2.typ = 0x20 ∨ e.2.typ = 0x23) ∧ e.2.tid = m.tid ∧ e.2.src = m.src ∧ e.2.dst / 2 = m.dst / 2 ∧ e.2.aux / 65536 = m.aux / 65536
      (payload → exec i s = .next s) ∧
      (¬ payload → (m.aux / 2048 % 32 = 0 ∨ (m.aux / 2048 % 32 = 1 ∧ (cohRead s m.addr 8 key).2 = false)) → ∃ u, exec i s = .next u ∧ u.mem = s.mem ∧ acked u ∧ others u 8 ∧
        ofBytes ((List.range 8).map (fun j => coherentByte u key (m.addr + j))) =
          (ofBytes m.data + (if m.aux / 2048 % 32 = 1 then ofBytes (cohRead s m.addr 8 key).1 else 0)) % 2 ^ 64))

/-- A CPYR in MODE 0 to generic memory without addition, counter and barrier, outside a DET context, alone on its core. -/
structure Sys2Proof.Claims.PlainRemoteCopy (s : State) (core : Nat) (o : EngOp) : Prop where
  alone : (s.core core).copyQ = [o] ∧ (s.core core).mxQ = [] ∧ (s.core core).skQ = [] ∧ (s.core core).colQ = []
  others : ∀ e ∈ s.cores, e.1 ≠ core → e.2.copyQ = [] ∧ e.2.mxQ = [] ∧ e.2.skQ = [] ∧ e.2.colQ = []
  once : (mkeys s.cores).Nodup
  code : o.opc = 0xF2 ∧ o.cls = 0 ∧ o.started = true ∧ o.fail = none
  form : fw o 5 % 4 = 0 ∧ (fw o 5).testBit 3 = false ∧ fw o 5 / 16 % 4 = 0 ∧ fw o 6 = 0xFFFFFFFF ∧ fw2 o 7 = 0
  calm : (s.ctx o.ctx).det = false ∧ (s.pkg (core / 128)).linkRetrain = false

/-- R385, R392, R395: a piece of such a CPYR whose home is another die leaves as a PUT with its bytes, outright below 4 KiB; a transfer of 4 KiB or more first asks for
min(64 KiB, what remains). PUTA takes the answered message off; with the last one the operation completes, or fails with the code that came. -/
def Sys2Proof.Claims.remoteCopyRule : Prop :=
  ∀ (s : State) (core : Nat) (o : EngOp), PlainRemoteCopy s core o →
    (∀ n va off len bs e pa, fabPiece (fabFrame o) n = some (0, va, off, len) → n ∉ o.pieces → 2 ^ 32 ∉ o.pieces → fabRead s core o (fabFrame o) off len = .ok bs →
      translate s o.ctx core .write va = .ok (e, pa) → homeDie pa ≠ dieOfCore core →
      let size := transferBytes s o core (homeDie pa) (fabFrame o)
      (size < 4096 → ∃ u m, exec (.copyPieceWrite core o.id n) s = .next u ∧ u.mem = s.mem ∧ mget? u.net s.nextId = some m ∧ m.typ = 0x20 ∧ m.rsvd = false ∧
        m.src = dieOfCore core ∧ m.dst = homeDie pa ∧ m.addr = pa ∧ m.data = bs ∧ m.tid = o.id) ∧
      (4096 ≤ size → rsvOf s o.id (homeDie pa) = none → ∃ u m, exec (.copyPieceWrite core o.id n) s = .next u ∧ u.mem = s.mem ∧ mget? u.net s.nextId = some m ∧
        m.typ = 0x30 ∧ m.src = dieOfCore core ∧ m.dst = homeDie pa ∧ m.aux = min 65536 (size - sentBytes s o core (homeDie pa) (fabFrame o)) ∧
        u.nextId = s.nextId + 1)) ∧
    (∀ id m, arriving s id 0x21 = some m → m.aux ≠ 2 ^ 40 → o.sent = [m.tid] →
      (m.aux = 0 → (∀ p ∈ destPieces (fabFrame o) 0, p ∈ o.pieces) → ∃ u, exec (.msgPuta id) s = .next u ∧ u.mem = s.mem ∧ OpEnded s u core o 0) ∧
      (m.aux = 0 → (∃ p ∈ destPieces (fabFrame o) 0, p ∉ o.pieces) → 2 ^ 32 ∉ o.pieces → ∃ u, exec (.msgPuta id) s = .next u ∧ u.mem = s.mem ∧
        (u.core core).copyQ = [{ o with sent := [] }]) ∧
      (m.aux ≠ 0 → ∃ u, exec (.msgPuta id) s = .next u ∧ u.mem = s.mem ∧ OpEnded s u core o m.aux))

/-- R385, R386: RSV is answered by GNT; GNT gives leave, which is withdrawn after 100 µs without use. NAK stops its sequence alone, which the back-off of 1 µs · 2^min(n, 6)
ends; an ACK takes the delivered message out of the retry store and the NAKs count from 0 again. -/
def Sys2Proof.Claims.reservationRule : Prop :=
  (∀ (s : State) (id : Nat) (m : Msg), (arriving s id 0x30 = some m → ∃ u x, exec (.msgRsv id) s = .next u ∧ u.mem = s.mem ∧ u.nextId = s.nextId + 1 ∧
      mget? u.net s.nextId = some x ∧ x.typ = 0x31 ∧ x.src = m.dst ∧ x.dst = m.src ∧ x.tid = m.tid ∧ x.aux = m.aux) ∧
    (arriving s id 0x31 = some m → ∀ r, mget? s.rsvs m.tid = some r → findXfer s r.op = none → (∀ core o, findOp s r.op = some (core, o) → o.opc ≠ 0xF3) → ∃ u, exec (.msgGnt id) s = .next u ∧ u.mem = s.mem ∧ u.nextId = s.nextId ∧
      mget? u.rsvs m.tid = some { r with granted := some s.clock } ∧ ∀ n, n ≠ m.tid → mget? u.rsvs n = mget? s.rsvs n)) ∧
  (∀ (s : State) (id t : Nat) (r : Rsv), mget? s.rsvs id = some r → r.granted = some t →
    (elapsedUs s (r.src / 2) t < 100 → exec (.grantWithdraw id) s = .next s) ∧
    (100 ≤ elapsedUs s (r.src / 2) t → ∃ u, exec (.grantWithdraw id) s = .next u ∧ u.net = s.net ∧ mget? u.rsvs id = none ∧ ∀ n, n ≠ id → mget? u.rsvs n = mget? s.rsvs n)) ∧
  (∀ (s : State) (id typ n : Nat) (m : Msg), arriving s id typ = some m → m.rsvd = false → m.cls ≠ 2 → typ < 0x30 → m.seq = some n → mget? s.retryStore id ≠ none →
    ∃ u, exec (.msgNak id) s = .next u ∧ u.net = s.net ∧ u.retryStore = s.retryStore ∧ (mget u.sendSeq {} (seqKey m)).naks = (mget s.sendSeq {} (seqKey m)).naks + 1 ∧
      (mget u.sendSeq {} (seqKey m)).since = s.clock ∧
      (∀ j t x, mget? s.net j = some x → seqKey x = seqKey m → arriving u j t = none) ∧
      (∀ j t x, mget? s.net j = some x → seqKey x ≠ seqKey m → arriving u j t = arriving s j t)) ∧
  (∀ (s : State) (sk n : Nat), (mget s.sendSeq {} sk).refused = some n →
    let q := mget s.sendSeq {} sk
    (elapsedUs s (sk / 8192) q.since < 2 ^ min (q.naks - 1) 6 → exec (.nakBackoffExpiry sk) s = .next s) ∧
    (2 ^ min (q.naks - 1) 6 ≤ elapsedUs s (sk / 8192) q.since → ∃ u, exec (.nakBackoffExpiry sk) s = .next u ∧ u.net = s.net ∧
      (mget u.sendSeq {} sk).refused = none ∧ (mget u.recvSeq {} sk).refused = none ∧ (mget u.sendSeq {} sk).naks = q.naks)) ∧
  (∀ (s : State) (id : Nat) (m : Msg), mget? s.retryStore id = some m →
    (mget? s.net id ≠ none → exec (.fabricAck id) s = .next s) ∧
    (mget? s.net id = none → ∃ u, exec (.fabricAck id) s = .next u ∧ u.net = s.net ∧ mget? u.retryStore id = none ∧ (mget u.sendSeq {} (seqKey m)).naks = 0 ∧
      ∀ n, n ≠ id → mget? u.retryStore n = mget? s.retryStore n))

/-- R390, R391, R395: a reduction of two participants at its root: a part of a contribution is kept under its rank and place; with the last part of the chunk the tree's result goes, in bodies of
256 bytes, to each that takes the chunk; one that differs in P, DT or LEN is refused with COPY_FAULT. A body of a result lands in the running CPYR of its set, which the last one ends. 50 µs after a
chunk's head a missing contribution fails the CPYRs of the set with COLL_TIMEOUT. -/
def Sys2Proof.Claims.reductionRule : Prop :=
  (∀ (s : State) (id : Nat) (m : Msg), arriving s id 0x24 = some m →
    let set := m.addr % 2 ^ 32
    let chunk := m.addr / 2 ^ 32 % 2 ^ 24
    let key := (64 * m.dst + m.ctx % 64) * 2 ^ 32 + set
    let i := redInOf m.aux
    let check := i.p + 2 ^ 16 * i.dt + 2 ^ 20 * i.len
    let n := min 4096 (i.len - 4096 * chunk)
    let place := 256 * i.rank + m.addr / 2 ^ 56
    i.p = 2 →
    (mget? s.redSets key = none → m.data.length < 2 * n → ∃ u r c, exec (.msgRdc id) s = .next u ∧ u.mem = s.mem ∧ u.nextId = s.nextId ∧ mget? u.redSets key = some r ∧
      mget? r.chunks chunk = some c ∧ c.parts = [(place, m.data)] ∧ c.head = s.clock) ∧
    (∀ r c, mget? s.redSets key = some r → r.failedAt = none → mget? r.chunks chunk = some c →
      let all := (mvals (mput c.parts place m.data)).flatten
      (c.check ≠ check → ∃ u x, exec (.msgRdc id) s = .next u ∧ u.mem = s.mem ∧ mget? u.net s.nextId = some x ∧ x.typ = 0x21 ∧ x.dst = m.src ∧ x.tid = id ∧ x.aux = 0x12) ∧
      (c.check = check → all.length < 2 * n → ∃ u r' c', exec (.msgRdc id) s = .next u ∧ u.mem = s.mem ∧ u.nextId = s.nextId ∧ mget? u.redSets key = some r' ∧
        mget? r'.chunks chunk = some c' ∧ c'.parts = mput c.parts place m.data ∧ c'.head = c.head) ∧
      (c.check = check → 2 * n ≤ all.length → i.want = true → ∃ u, exec (.msgRdc id) s = .next u ∧ u.mem = s.mem ∧
        ∀ w j, (w = i.rank ∨ w ∈ c.wants) → 256 * j < (redCombine i.dt [all.take n, (all.drop n).take n]).length → ∃ k x, mget? u.net k = some x ∧ x.typ = 0x25 ∧
          x.dst = (if w = i.rank then m.src else mget r.dies m.dst w) ∧ x.addr = set + 2 ^ 32 * chunk + 2 ^ 56 * (16 * j) ∧
          x.data = ((redCombine i.dt [all.take n, (all.drop n).take n]).drop (256 * j)).take 256 ∧
          (i.dt = 1 → ∀ e, 256 * j + 4 * e + 4 ≤ n → e < 64 → ofBytes ((x.data.drop (4 * e)).take 4) =
            (let a := fun (l : List Byte) => ofBytes ((l.drop (256 * j + 4 * e)).take 4)
             addF32 (a all) (a (all.drop n))))))) ∧
  (∀ (s : State) (id core : Nat) (m : Msg) (o : EngOp), arriving s id 0x25 = some m → (s.pkg (m.dst / 2)).linkRetrain = false → redOpAt s m.dst m.ctx (m.addr % 2 ^ 32) = some (core, o) →
    (s.core core).copyQ = [o] → (s.core core).mxQ = [] ∧ (s.core core).skQ = [] ∧ (s.core core).colQ = [] → (fw o 5).testBit 3 = true → fw o 6 = 0xFFFFFFFF →
    let chunk := m.addr / 2 ^ 32 % 2 ^ 24
    let place := m.addr / 2 ^ 56
    let at' := fw o 2 + 4096 * chunk + 16 * place
    2 ^ 34 + (256 * chunk + place) ∉ o.pieces → at' + m.data.length ≤ (scratchOfOp s o).sb → (scratchOfOp s o).tags = [] →
    ∃ u, exec (.msgRdr id) s = .next u ∧ u.mem = s.mem ∧ cread (scratchOfOp u o).sp at' m.data.length = m.data ∧
      (∀ a, (a < at' ∨ at' + m.data.length ≤ a) → cget (scratchOfOp u o).sp a = cget (scratchOfOp s o).sp a) ∧
      (place % 16 = 0 → 16 * place < fw o 4 - 4096 * chunk → 16 * place < 4096 →
        (∀ c k, 4096 * c + 256 * k < fw o 4 → k < 16 → (c ≠ chunk ∨ 16 * k ≠ place) → 2 ^ 34 + (256 * c + 16 * k) ∈ o.pieces) → OpEnded s u core o 0)) ∧
  (∀ (s : State) (key chunk core : Nat) (r : RedSet) (c : RedChunk) (o : EngOp), mget? s.redSets key = some r → mget? r.chunks chunk = some c →
    (elapsedUs s (key / 2 ^ 39) c.head < 50 → exec (.reductionDeadline key chunk) s = .next s) ∧
    (50 ≤ elapsedUs s (key / 2 ^ 39) c.head → s.cores = [(core, s.core core)] → (s.core core).copyQ = [o] → (s.core core).mxQ = [] → (s.core core).skQ = [] →
      (s.core core).colQ = [] → o.opc = 0xF2 → fw o 5 % 4 = 1 → o.started = true → opRedKey o = key → s.dies = [] → fw o 6 = 0xFFFFFFFF →
      ∃ u, exec (.reductionDeadline key chunk) s = .next u ∧ u.mem = s.mem ∧ OpEnded s u core o 0x14))

/-- R398: bytes from another pod reach the receive posted for them, and count, unless the lengths differ: then the command list fails with COLL_LAYOUT. -/
def Sys2Proof.Claims.otherPodRule : Prop :=
  ∀ (s : State) (q : UePacket), let ch := s.chan q.die q.ch
    let fits := fun (y : ChXfer) => y.send = false ∧ y.matched = false ∧ y.peer = q.peer ∧ y.tag = q.tag ∧ y.idx = q.idx ∧ y.peer / 256 ≠ s.podIndex
    ((∀ y ∈ ch.xfers, ¬ fits y) → exec (.ultraEthernetDelivery q) s = .next s) ∧
    (∀ y core o va n, ch.xfers = [y] → fits y → chanOp s q.die q.ch = some (core, o) → o.opc = 0xF4 → ch.ending = none → y.into = none → y.runs = [(va, n)] → y.tb = 0xFFFFFFFF →
      (q.bytes.length ≠ n → ch.desc = [] → ∃ u, exec (.ultraEthernetDelivery q) s = .next u ∧ u.mem = s.mem ∧ OpEnded s u core o 0x13 ∧ (u.chan q.die q.ch).op = none) ∧
      (q.bytes.length = n → n = 0 → exec (.ultraEthernetDelivery q) s = .next (delXfer s q.die q.ch y.id)) ∧
      (q.bytes.length = n → 0 < n → ∀ t, chWrite s o core va q.bytes = .ok t → exec (.ultraEthernetDelivery q) s = .next (delXfer t q.die q.ch y.id)))

/-- What the messages of fabric operations, reservations, reductions and deliveries from other pods do. -/
def Obligations.FabricMessagesAndReductions : Prop := payloadRule ∧ remoteCopyRule ∧ reservationRule ∧ reductionRule ∧ otherPodRule

/-! ## The Chamois engine (R397, R398, R406 to R415) -/

/-- The state in which a command list has moved on to its next command (R414). -/
def Sys2Proof.Claims.nextCommand (s : State) (d c : Nat) : State := s.modChan d c (fun ch => { ch with pos := ch.pos + 1 })

/-- The channel runs a CLRUN whose block is not saved, no failure waits, and it stands at command m of the type. -/
structure Sys2Proof.Claims.StandsAt (s : State) (d c core : Nat) (o : EngOp) (m : Cmd) (typ : Nat) : Prop where
  runs : chanOp s d c = some (core, o)
  list : o.opc = 0xF4 ∧ (s.chan d c).ending = none ∧ (s.blk o.block).stage ≠ .saved ∧ (s.pkg (d / 2)).linkRetrain = false
  inside : (s.chan d c).pos < ncmd (s.chan d c).desc
  cmd : cmdAt (s.chan d c).desc (s.chan d c).pos = m
  typ : m.typ = typ

/-- It stands there, and a command that is none of the reserved types follows. -/
structure Sys2Proof.Claims.AtCommand (s : State) (d c core : Nat) (o : EngOp) (m : Cmd) (typ : Nat) : Prop where
  stands : StandsAt s d c core o m typ
  more : (s.chan d c).pos + 1 < ncmd (s.chan d c).desc
  next : (cmdAt (s.chan d c).desc ((s.chan d c).pos + 1)).typ < 12

/-- The state in which a grant for a channel's transfer has been used. -/
def Sys2Proof.Claims.grantUsed (s : State) (id : Nat) (g : Msg) : State :=
  { taken s id g with rsvs := mdel (mupd s.rsvs g.tid (fun r => { r with granted := some s.clock })) g.tid }

/-- R382, R385, R398, R412, R413: SEND starts a transfer and RECV posts one, each with its peer, tag, place, memory and barrier; a SEND whose receive is posted leaves as PUTs of 256 bytes, outright below
4 KiB, and from there on after RSV for min(64 KiB, rest) and its GNT; MCAST starts one to every peer but SELF. -/
def Sys2Proof.Claims.transferCommands : Prop :=
  ∀ (s : State) (d c core : Nat) (o : EngOp) (m : Cmd), let ch := s.chan d c
    ch.xfers = [] → (mkeys s.dies).Nodup → (∀ p, p < npeer ch.desc → p ≠ fieldOf ch.desc 4 4 → fieldOf ch.mesh (4 * p) 4 % 2 ^ 19 / 256 = s.podIndex ∧ fieldOf ch.mesh (4 * p) 4 % 2 ^ 19 % 256 ≠ d) →
    (∀ va len tb, slotAt ch.desc (loopIndex ch) m.a = some (va, len) → cmdTb ch.desc m = some tb → m.b = 0 → m.x < 2 ^ 32 →
      let k := m.x % 2 ^ 16
      let peer := fieldOf ch.mesh (4 * k) 4 % 2 ^ 19
      k < npeer ch.desc → k ≠ fieldOf ch.desc 4 4 →
      (AtCommand s d c core o m 0 → (∀ e ∈ s.dies, e.1 ≠ d → (mget e.2.chans {} c).xfers = []) → ∃ u x, exec (.clSend d c) s = .next u ∧ u.mem = s.mem ∧ u.net = s.net ∧
        (u.chan d c).pos = ch.pos + 1 ∧ (u.chan d c).xfers = [x] ∧ x.send = true ∧ x.peer = peer ∧ x.tag = m.x / 2 ^ 16 ∧ x.runs = [(va, len)] ∧ x.tb = tb ∧
        x.count = len ∧ x.idx = mget ch.sends 0 (peer * 2 ^ 16 + m.x / 2 ^ 16)) ∧
      (AtCommand s d c core o m 1 → (∀ e ∈ s.dies, e.1 ≠ d → (mget e.2.chans {} c).xfers = []) → ∃ u x, exec (.clRecv d c) s = .next u ∧ u.mem = s.mem ∧ u.net = s.net ∧
        (u.chan d c).pos = ch.pos + 1 ∧ (u.chan d c).xfers = [x] ∧ x.send = false ∧ x.peer = peer ∧ x.tag = m.x / 2 ^ 16 ∧ x.runs = [(va, len)] ∧ x.tb = tb ∧
        x.count = len ∧ x.idx = mget ch.recvs 0 (peer * 2 ^ 16 + m.x / 2 ^ 16)) ∧
      (AtCommand s d c core o m 0 → ∀ e x y bs, s.dies = [(d, s.die d), (e, x)] → d ≠ e → peer % 256 = e → (s.chan e c).xfers = [y] → y.send = false → y.matched = false →
        y.peer = d + 256 * s.podIndex → y.tag = m.x / 2 ^ 16 → y.idx = mget ch.sends 0 (peer * 2 ^ 16 + m.x / 2 ^ 16) → y.into = none → runTotal y.runs = len →
        (len < 4096 → engRead s o core 0x12 va len = .ok bs → bs.length = len → ∃ u, exec (.clSend d c) s = .next u ∧ u.mem = s.mem ∧ (u.chan d c).pos = ch.pos + 1 ∧
          ∀ j, 256 * j < len → ∃ i p, mget? u.net i = some p ∧ p.typ = 0x20 ∧ p.src = d ∧ p.dst = e ∧ p.rsvd = false ∧ p.addr = 256 * j ∧ p.data = (bs.drop (256 * j)).take 256) ∧
        (4096 ≤ len → ∃ u i p, exec (.clSend d c) s = .next u ∧ u.mem = s.mem ∧ (u.chan d c).pos = ch.pos + 1 ∧ mget? u.net i = some p ∧ p.typ = 0x30 ∧ p.src = d ∧ p.dst = e ∧ p.aux = min 65536 len))) ∧
    (∀ id g r x bs, arriving s id 0x31 = some g → mget? s.rsvs g.tid = some r → findXfer s r.op = some (d, c, x) → chanOp s d c = some (core, o) →
      xferPart (grantUsed s id g) o core x x.pos r.bytes = .ok bs → bs.length = r.bytes → 0 < r.bytes → g.tid < s.nextId → ∃ u, exec (.msgGnt id) s = .next u ∧ u.mem = s.mem ∧ mget? u.rsvs g.tid = none ∧
        ∀ j, 256 * j < r.bytes → ∃ i p, mget? u.net i = some p ∧ p.typ = 0x20 ∧ p.src = d ∧ p.dst = x.mate.1 ∧ p.rsvd = true ∧ p.addr = x.pos + 256 * j ∧ p.data = (bs.drop (256 * j)).take 256) ∧
    (∀ va len tb, slotAt ch.desc (loopIndex ch) m.a = some (va, len) → cmdTb ch.desc m = some tb → m.b = 0 → m.x < 2 ^ 32 → m.x % 2 ^ 16 = 0 →
      AtCommand s d c core o m 4 → (∀ e ∈ s.dies, e.1 ≠ d → (mget e.2.chans {} c).xfers = []) → 2 ≤ npeer ch.desc → fieldOf ch.desc 4 4 < npeer ch.desc →
      ∃ u, exec (.clMcast d c) s = .next u ∧ u.mem = s.mem ∧ u.net = s.net ∧ (u.chan d c).pos = ch.pos + 1 ∧ (u.chan d c).xfers.length = npeer ch.desc - 1 ∧
        ∀ p, p < npeer ch.desc → p ≠ fieldOf ch.desc 4 4 → ∃ x ∈ (u.chan d c).xfers, x.send = true ∧ x.peer = fieldOf ch.mesh (4 * p) 4 % 2 ^ 19 ∧ x.tag = m.x / 2 ^ 16 ∧
          x.runs = [(va, len)] ∧ x.tb = tb ∧ x.count = (npeer ch.desc - 1) * len)

/-- R50, R411, R412: COPY writes the bytes of slot A to slot B of equal length, REDUCE the tree of n contributions at A, each counted at the barrier; either fails with what its reads or
writes give. -/
def Sys2Proof.Claims.dataCommands : Prop :=
  ∀ (s : State) (d c core : Nat) (o : EngOp) (m : Cmd) (va vb n len tb : Nat), let ch := s.chan d c
    slotAt ch.desc (loopIndex ch) m.a = some (va, n) → slotAt ch.desc (loopIndex ch) m.b = some (vb, len) → cmdTb ch.desc m = some tb →
    (AtCommand s d c core o m 3 → m.x = 0 → n = len →
      (∀ bs t, engRead s o core 0x12 va len = .ok bs → chWrite s o core vb bs = .ok t → exec (.clCopy d c) s = .next (nextCommand (opArrive t o tb len) d c)) ∧
      (∀ e, engRead s o core 0x12 va len = .error e → ch.desc ≠ [] → (∀ j, j < 8 → fieldOf ch.desc (40 + 4 * j) 4 = 0xFFFFFFFF) →
        ∃ u, exec (.clCopy d c) s = .next u ∧ u.mem = s.mem ∧ OpEnded s u core o e ∧ (u.chan d c).op = none)) ∧
    (AtCommand s d c core o m 2 → 0 < m.x → m.x < 2 ^ 16 → fieldOf ch.desc 72 1 ≠ 0 →
      ∀ bs t, engRead s o core 0x12 va (m.x * len) = .ok bs →
        chWrite s o core vb (redCombine (fieldOf ch.desc 72 1) ((List.range m.x).map (fun j => (bs.drop (j * len)).take len))) = .ok t →
        exec (.clReduce d c) s = .next (nextCommand (opArrive t o tb len) d c))

/-- R195, R198, R412, R413: WAITB goes on when the phase of a LIVE barrier differs from its operand, and waits while it does not; SIGNAL, ARRIVE and RANGE wait for every earlier data command; then
SIGNAL sets its word or adds to it, ARRIVE arrives once, RANGE names the record's range. -/
def Sys2Proof.Claims.barrierCommands : Prop :=
  ∀ (s : State) (d c core : Nat) (o : EngOp) (m : Cmd), let ch := s.chan d c
    let tb := (listTbs ch.desc).getD m.fl 0
    (AtCommand s d c core o m 5 → m.fl < 8 → tb ≠ 0xFFFFFFFF → m.a = 0 → m.b = 0 → m.x < 2 → tbTag (opLoc s o) tb = 1 →
      ((tbGet (opLoc s o) tb).ph = m.x → exec (.clWaitb d c) s = .next s) ∧
      ((tbGet (opLoc s o) tb).ph ≠ m.x → (tbGet (opLoc s o) tb).er = 0 → exec (.clWaitb d c) s = .next (nextCommand s d c))) ∧
    (AtCommand s d c core o m 7 → m.fl < 8 → tb ≠ 0xFFFFFFFF → m.a = 0 → m.b = 0 → m.x = 0 → tbTag (opLoc s o) tb = 1 →
      (ch.xfers ≠ [] → exec (.clArrive d c) s = .next s) ∧
      (ch.xfers = [] → exec (.clArrive d c) s = .next (nextCommand (tbUpdate s o.block o.rank tb 1 0) d c))) ∧
    (∀ va len e pa, AtCommand s d c core o m 6 → (m.fl = 0 ∨ m.fl = 8) → m.b = 0 → slotAt ch.desc (loopIndex ch) m.a = some (va, len) →
      (ch.xfers ≠ [] → exec (.clSignal d c) s = .next s) ∧
      (ch.xfers = [] → translate s o.ctx core .write va = .ok (e, pa) → e.pol = 0 → (s.ctx o.ctx).det = false → (physRead s 0 pa 8 e.key).2 = false →
        exec (.clSignal d c) s = .next (nextCommand (physWrite s 0 pa e.key
          (toBytes 8 (m.x + (if m.fl = 8 then ofBytes (physRead s 0 pa 8 e.key).1 else 0)))) d c))) ∧
    (∀ va len, AtCommand s d c core o m 10 → m.fl = 0 → m.b = 0 → m.x = 0 → slotAt ch.desc (loopIndex ch) m.a = some (va, len) →
      (ch.xfers ≠ [] → exec (.clRange d c) s = .next s) ∧
      (ch.xfers = [] → exec (.clRange d c) s = .next (nextCommand (s.modChan d c (fun k => { k with range := (va, len) })) d c)))

/-- R412, R414: LOOP opens a loop of n iterations, at most four deep, or with none skips to behind its ENDLOOP; ENDLOOP begins the next iteration or closes the loop; END writes the record, here none, and
ends the operation; a command that breaks its form fails the list with COLL_LAYOUT. -/
def Sys2Proof.Claims.loopCommands : Prop :=
  ∀ (s : State) (d c core : Nat) (o : EngOp) (m : Cmd), let ch := s.chan d c
    let plain := m.fl = 0 ∧ m.a = 0 ∧ m.b = 0
    (AtCommand s d c core o m 8 → plain → 0 < m.x → m.x < 2 ^ 16 → ch.loops.length < 4 →
      exec (.clLoop d c) s = .next (nextCommand (s.modChan d c (fun k => { k with loops := (k.pos + 1, m.x, 0) :: k.loops })) d c)) ∧
    (AtCommand s d c core o m 8 → plain → m.x = 0 → ch.loops.length < 4 → (cmdAt ch.desc (ch.pos + 1)).typ = 9 → ch.pos + 2 < ncmd ch.desc →
      (cmdAt ch.desc (ch.pos + 2)).typ < 12 → exec (.clLoop d c) s = .next (s.modChan d c (fun k => { k with pos := ch.pos + 2 }))) ∧
    (AtCommand s d c core o m 9 → plain → m.x = 0 → ∀ p n i ls, ch.loops = (p, n, i) :: ls →
      (i + 1 < n → p < ncmd ch.desc → (cmdAt ch.desc p).typ < 12 →
        exec (.clEndloop d c) s = .next (s.modChan d c (fun k => { k with pos := p, loops := (p, n, i + 1) :: ls }))) ∧
      (n ≤ i + 1 → exec (.clEndloop d c) s = .next (nextCommand (s.modChan d c (fun k => { k with loops := ls })) d c))) ∧
    (StandsAt s d c core o m 11 → plain → m.x = 0 →
      (ch.xfers ≠ [] → exec (.clEnd d c) s = .next s) ∧
      (ch.xfers = [] → fieldOf ch.desc 24 8 = 0 → ∃ u, exec (.clEnd d c) s = .next u ∧ u.mem = s.mem ∧ OpEnded s u core o 0 ∧ (u.chan d c).op = none)) ∧
    (StandsAt s d c core o m 9 → ch.loops = [] → ch.xfers = [] → ch.desc ≠ [] → (∀ j, j < 8 → fieldOf ch.desc (40 + 4 * j) 4 = 0xFFFFFFFF) →
      ∃ u, exec (.clEndloop d c) s = .next u ∧ u.mem = s.mem ∧ OpEnded s u core o 0x13 ∧ (u.chan d c).op = none)

/-- R397, R406, R410, R411: CHAMOIS_OP_START does nothing on a channel that is busy or has nothing queued. An operation whose descriptor or list cannot be read ends with that code; a CLRUN outside a DET
context stands at its first command. A fallback that has waited as long as the watchdog limit fails with COLL_TIMEOUT. -/
def Sys2Proof.Claims.startsAndFallbacks : Prop :=
  ∀ (s : State) (d c core : Nat) (o : EngOp), let ch := s.chan d c
    (ch.op ≠ none → exec (.chamoisOpStart d c) s = .next s) ∧
    (ch.op = none → (∀ e ∈ s.cores, e.2.colQ = []) → exec (.chamoisOpStart d c) s = .next s) ∧
    (ch.op = none → s.cores = [(core, s.core core)] → dieOfCore core = d → (s.core core).colQ = [o] → (s.core core).copyQ = [] → (s.core core).mxQ = [] → (s.core core).skQ = [] →
      o.eng = c → o.started = false → (s.blk o.block).stage ≠ .saved → (s.pkg (d / 2)).linkRetrain = false → (o.extra.headD (0, 0)).1 < s.clock →
      let t := s.modCore core (fun k => { k with colQ := [{ o with started := true }] })
      (∀ e, chRead (t.modChan d c (fun k => { k with op := some (core, o.id) })) core o = .error e → ch.desc = [] → (o.opc = 0xF4 ∨ (o.opc = 0xF3 ∧ fw o 2 = 0xFFFFFFFF)) →
        ∃ u, exec (.chamoisOpStart d c) s = .next u ∧ u.mem = s.mem ∧ OpEnded s u core o e ∧ (u.chan d c).op = none) ∧
      (∀ list peers, chRead (t.modChan d c (fun k => { k with op := some (core, o.id) })) core o = .ok (list, peers) → o.opc = 0xF4 → (s.ctx o.ctx).det = false →
        ch.pos = 0 → ch.ending = none → 0 < ncmd list → (cmdAt list 0).typ < 12 →
        exec (.chamoisOpStart d c) s = .next (t.modChan d c (fun k => { k with op := some (core, o.id), desc := list, mesh := peers })))) ∧
    (chanOp s d c = some (core, o) →
      let limit := if (s.ctx o.ctx).wdog = 0 then 2 ^ 32 else (s.ctx o.ctx).wdog
      (ch.fallback = none ∨ elapsedUs s (d / 2) ch.since < limit → exec (.fallbackWatchdogLimit d c) s = .next s) ∧
      (ch.fallback ≠ none → limit ≤ elapsedUs s (d / 2) ch.since → ∃ u, exec (.fallbackWatchdogLimit d c) s = .next u ∧ u.mem = s.mem ∧ OpEnded s u core o 0x14 ∧
        (u.chan d c).op = none))

/-- What a channel of the Chamois engine does: starts, the commands of a list, and fallbacks. -/
def Obligations.ChamoisStartsAndCommands : Prop := transferCommands ∧ dataCommands ∧ barrierCommands ∧ loopCommands ∧ startsAndFallbacks

end
end

