-- ==== Sys2Proof/Laws/Exec.lean ====
section
/-!
SUPPORT. The arms of exec, one equation for each instruction and event: what a proof rewrites with instead of unfolding exec.
-/
namespace Sys2Proof.Machine

theorem exec_nop (c : Ctl) (f : FmtNOP) (s : State) : exec (.nop c f) s = execNop c f s := rfl
theorem exec_pfx (c : Ctl) (f : FmtPFX) (s : State) : exec (.pfx c f) s = execPfx c f s := rfl
theorem exec_gmov (c : Ctl) (f : FmtS3) (s : State) : exec (.gmov c f) s = execGmov c f s := rfl
theorem exec_gmovi (c : Ctl) (f : FmtSI) (s : State) : exec (.gmovi c f) s = execGmovi c f s := rfl
theorem exec_gmovh (c : Ctl) (f : FmtSI) (s : State) : exec (.gmovh c f) s = execGmovh c f s := rfl
theorem exec_gadd (c : Ctl) (f : FmtS3) (s : State) : exec (.gadd c f) s = execGadd c f s := rfl
theorem exec_gsub (c : Ctl) (f : FmtS3) (s : State) : exec (.gsub c f) s = execGsub c f s := rfl
theorem exec_gmul (c : Ctl) (f : FmtS3) (s : State) : exec (.gmul c f) s = execGmul c f s := rfl
theorem exec_gmulh (c : Ctl) (f : FmtS3) (s : State) : exec (.gmulh c f) s = execGmulh c f s := rfl
theorem exec_gdiv (c : Ctl) (f : FmtS3) (s : State) : exec (.gdiv c f) s = execGdiv c f s := rfl
theorem exec_grem (c : Ctl) (f : FmtS3) (s : State) : exec (.grem c f) s = execGrem c f s := rfl
theorem exec_gand (c : Ctl) (f : FmtS3) (s : State) : exec (.gand c f) s = execGand c f s := rfl
theorem exec_gor (c : Ctl) (f : FmtS3) (s : State) : exec (.gor c f) s = execGor c f s := rfl
theorem exec_gxor (c : Ctl) (f : FmtS3) (s : State) : exec (.gxor c f) s = execGxor c f s := rfl
theorem exec_gnot (c : Ctl) (f : FmtS3) (s : State) : exec (.gnot c f) s = execGnot c f s := rfl
theorem exec_gshl (c : Ctl) (f : FmtS3) (s : State) : exec (.gshl c f) s = execGshl c f s := rfl
theorem exec_gshr (c : Ctl) (f : FmtS3) (s : State) : exec (.gshr c f) s = execGshr c f s := rfl
theorem exec_gsar (c : Ctl) (f : FmtS3) (s : State) : exec (.gsar c f) s = execGsar c f s := rfl
theorem exec_grot (c : Ctl) (f : FmtS3) (s : State) : exec (.grot c f) s = execGrot c f s := rfl
theorem exec_gmin (c : Ctl) (f : FmtS3) (s : State) : exec (.gmin c f) s = execGmin c f s := rfl
theorem exec_gmax (c : Ctl) (f : FmtS3) (s : State) : exec (.gmax c f) s = execGmax c f s := rfl
theorem exec_gcmp (c : Ctl) (f : FmtS3) (s : State) : exec (.gcmp c f) s = execGcmp c f s := rfl
theorem exec_gsel (c : Ctl) (f : FmtS3) (s : State) : exec (.gsel c f) s = execGsel c f s := rfl
theorem exec_glea (c : Ctl) (f : FmtS3) (s : State) : exec (.glea c f) s = execGlea c f s := rfl
theorem exec_gpopc (c : Ctl) (f : FmtS3) (s : State) : exec (.gpopc c f) s = execGpopc c f s := rfl
theorem exec_gclz (c : Ctl) (f : FmtS3) (s : State) : exec (.gclz c f) s = execGclz c f s := rfl
theorem exec_gbfx (c : Ctl) (f : FmtS3) (s : State) : exec (.gbfx c f) s = execGbfx c f s := rfl
theorem exec_gbfi (c : Ctl) (f : FmtS3) (s : State) : exec (.gbfi c f) s = execGbfi c f s := rfl
theorem exec_qop (c : Ctl) (f : FmtS3) (s : State) : exec (.qop c f) s = execQop c f s := rfl
theorem exec_sread (c : Ctl) (f : FmtS3) (s : State) : exec (.sread c f) s = execSread c f s := rfl
theorem exec_swrite (c : Ctl) (f : FmtS3) (s : State) : exec (.swrite c f) s = execSwrite c f s := rfl
theorem exec_setfmt (c : Ctl) (f : FmtS3) (s : State) : exec (.setfmt c f) s = execSetfmt c f s := rfl
theorem exec_getfmt (c : Ctl) (f : FmtS3) (s : State) : exec (.getfmt c f) s = execGetfmt c f s := rfl
theorem exec_bra (c : Ctl) (f : FmtBR) (s : State) : exec (.bra c f) s = execBra c f s := rfl
theorem exec_brx (c : Ctl) (f : FmtS3) (s : State) : exec (.brx c f) s = execBrx c f s := rfl
theorem exec_call (c : Ctl) (f : FmtBR) (s : State) : exec (.call c f) s = execCall c f s := rfl
theorem exec_ret (c : Ctl) (f : FmtS3) (s : State) : exec (.ret c f) s = execRet c f s := rfl
theorem exec_vbr (c : Ctl) (f : FmtVB) (s : State) : exec (.vbr c f) s = execVbr c f s := rfl
theorem exec_vbrk (c : Ctl) (f : FmtVB) (s : State) : exec (.vbrk c f) s = execVbrk c f s := rfl
theorem exec_vexit (c : Ctl) (f : FmtS3) (s : State) : exec (.vexit c f) s = execVexit c f s := rfl
theorem exec_waitk (c : Ctl) (f : FmtS3) (s : State) : exec (.waitk c f) s = execWaitk c f s := rfl
theorem exec_yield (c : Ctl) (f : FmtS3) (s : State) : exec (.yield c f) s = execYield c f s := rfl
theorem exec_sleep (c : Ctl) (f : FmtSI) (s : State) : exec (.sleep c f) s = execSleep c f s := rfl
theorem exec_exit (c : Ctl) (f : FmtS3) (s : State) : exec (.exit c f) s = execExit c f s := rfl
theorem exec_tail (c : Ctl) (f : FmtS3) (s : State) : exec (.tail c f) s = execTail c f s := rfl
theorem exec_trap (c : Ctl) (f : FmtSI) (s : State) : exec (.trap c f) s = execTrap c f s := rfl
theorem exec_bkpt (c : Ctl) (f : FmtS3) (s : State) : exec (.bkpt c f) s = execBkpt c f s := rfl
theorem exec_vmov (c : Ctl) (f : FmtV3) (s : State) : exec (.vmov c f) s = execVmov c f s := rfl
theorem exec_vmovi (c : Ctl) (f : FmtVI) (s : State) : exec (.vmovi c f) s = execVmovi c f s := rfl
theorem exec_vmoviHi (c : Ctl) (f : FmtVI) (s : State) : exec (.vmoviHi c f) s = execVmoviHi c f s := rfl
theorem exec_vmoviZ (c : Ctl) (f : FmtVI) (s : State) : exec (.vmoviZ c f) s = execVmoviZ c f s := rfl
theorem exec_vmoviRep (c : Ctl) (f : FmtVI) (s : State) : exec (.vmoviRep c f) s = execVmoviRep c f s := rfl
theorem exec_vadd (c : Ctl) (f : FmtV3) (s : State) : exec (.vadd c f) s = execVadd c f s := rfl
theorem exec_vsub (c : Ctl) (f : FmtV3) (s : State) : exec (.vsub c f) s = execVsub c f s := rfl
theorem exec_vmul (c : Ctl) (f : FmtV3) (s : State) : exec (.vmul c f) s = execVmul c f s := rfl
theorem exec_vmulh (c : Ctl) (f : FmtV3) (s : State) : exec (.vmulh c f) s = execVmulh c f s := rfl
theorem exec_vmad (c : Ctl) (f : FmtV3) (s : State) : exec (.vmad c f) s = execVmad c f s := rfl
theorem exec_vdiv (c : Ctl) (f : FmtV3) (s : State) : exec (.vdiv c f) s = execVdiv c f s := rfl
theorem exec_vrem (c : Ctl) (f : FmtV3) (s : State) : exec (.vrem c f) s = execVrem c f s := rfl
theorem exec_vand (c : Ctl) (f : FmtV3) (s : State) : exec (.vand c f) s = execVand c f s := rfl
theorem exec_vor (c : Ctl) (f : FmtV3) (s : State) : exec (.vor c f) s = execVor c f s := rfl
theorem exec_vxor (c : Ctl) (f : FmtV3) (s : State) : exec (.vxor c f) s = execVxor c f s := rfl
theorem exec_vnot (c : Ctl) (f : FmtV3) (s : State) : exec (.vnot c f) s = execVnot c f s := rfl
theorem exec_vshl (c : Ctl) (f : FmtV3) (s : State) : exec (.vshl c f) s = execVshl c f s := rfl
theorem exec_vshr (c : Ctl) (f : FmtV3) (s : State) : exec (.vshr c f) s = execVshr c f s := rfl
theorem exec_vsar (c : Ctl) (f : FmtV3) (s : State) : exec (.vsar c f) s = execVsar c f s := rfl
theorem exec_vmin (c : Ctl) (f : FmtV3) (s : State) : exec (.vmin c f) s = execVmin c f s := rfl
theorem exec_vmax (c : Ctl) (f : FmtV3) (s : State) : exec (.vmax c f) s = execVmax c f s := rfl
theorem exec_vabs (c : Ctl) (f : FmtV3) (s : State) : exec (.vabs c f) s = execVabs c f s := rfl
theorem exec_vcmp (c : Ctl) (f : FmtV3) (s : State) : exec (.vcmp c f) s = execVcmp c f s := rfl
theorem exec_vsel (c : Ctl) (f : FmtV3) (s : State) : exec (.vsel c f) s = execVsel c f s := rfl
theorem exec_vpopc (c : Ctl) (f : FmtV3) (s : State) : exec (.vpopc c f) s = execVpopc c f s := rfl
theorem exec_vclz (c : Ctl) (f : FmtV3) (s : State) : exec (.vclz c f) s = execVclz c f s := rfl
theorem exec_vbrev (c : Ctl) (f : FmtV3) (s : State) : exec (.vbrev c f) s = execVbrev c f s := rfl
theorem exec_vbfx (c : Ctl) (f : FmtV3) (s : State) : exec (.vbfx c f) s = execVbfx c f s := rfl
theorem exec_vbfi (c : Ctl) (f : FmtV3) (s : State) : exec (.vbfi c f) s = execVbfi c f s := rfl
theorem exec_vprmt (c : Ctl) (f : FmtV3) (s : State) : exec (.vprmt c f) s = execVprmt c f s := rfl
theorem exec_vdot4 (c : Ctl) (f : FmtV3) (s : State) : exec (.vdot4 c f) s = execVdot4 c f s := rfl
theorem exec_pop (c : Ctl) (f : FmtV3) (s : State) : exec (.pop c f) s = execPop c f s := rfl
theorem exec_fadd (c : Ctl) (f : FmtV3) (s : State) : exec (.fadd c f) s = execFadd c f s := rfl
theorem exec_fsub (c : Ctl) (f : FmtV3) (s : State) : exec (.fsub c f) s = execFsub c f s := rfl
theorem exec_fmul (c : Ctl) (f : FmtV3) (s : State) : exec (.fmul c f) s = execFmul c f s := rfl
theorem exec_ffma (c : Ctl) (f : FmtV3) (s : State) : exec (.ffma c f) s = execFfma c f s := rfl
theorem exec_fmin (c : Ctl) (f : FmtV3) (s : State) : exec (.fmin c f) s = execFmin c f s := rfl
theorem exec_fmax (c : Ctl) (f : FmtV3) (s : State) : exec (.fmax c f) s = execFmax c f s := rfl
theorem exec_fminn (c : Ctl) (f : FmtV3) (s : State) : exec (.fminn c f) s = execFminn c f s := rfl
theorem exec_fmaxn (c : Ctl) (f : FmtV3) (s : State) : exec (.fmaxn c f) s = execFmaxn c f s := rfl
theorem exec_fcmp (c : Ctl) (f : FmtV3) (s : State) : exec (.fcmp c f) s = execFcmp c f s := rfl
theorem exec_fclass (c : Ctl) (f : FmtV3) (s : State) : exec (.fclass c f) s = execFclass c f s := rfl
theorem exec_fclassKey (c : Ctl) (f : FmtV3) (s : State) : exec (.fclassKey c f) s = execFclassKey c f s := rfl
theorem exec_fabs (c : Ctl) (f : FmtV3) (s : State) : exec (.fabs c f) s = execFabs c f s := rfl
theorem exec_fneg (c : Ctl) (f : FmtV3) (s : State) : exec (.fneg c f) s = execFneg c f s := rfl
theorem exec_frnd (c : Ctl) (f : FmtV3) (s : State) : exec (.frnd c f) s = execFrnd c f s := rfl
theorem exec_fdot2 (c : Ctl) (f : FmtV3) (s : State) : exec (.fdot2 c f) s = execFdot2 c f s := rfl
theorem exec_fcvt (c : Ctl) (f : FmtV3) (s : State) : exec (.fcvt c f) s = execFcvt c f s := rfl
theorem exec_fpack (c : Ctl) (f : FmtV3) (s : State) : exec (.fpack c f) s = execFpack c f s := rfl
theorem exec_funpk (c : Ctl) (f : FmtV3) (s : State) : exec (.funpk c f) s = execFunpk c f s := rfl
theorem exec_fscl (c : Ctl) (f : FmtV3) (s : State) : exec (.fscl c f) s = execFscl c f s := rfl
theorem exec_xrcp (c : Ctl) (f : FmtV3) (s : State) : exec (.xrcp c f) s = execXrcp c f s := rfl
theorem exec_xrsq (c : Ctl) (f : FmtV3) (s : State) : exec (.xrsq c f) s = execXrsq c f s := rfl
theorem exec_xsqrt (c : Ctl) (f : FmtV3) (s : State) : exec (.xsqrt c f) s = execXsqrt c f s := rfl
theorem exec_xexp2 (c : Ctl) (f : FmtV3) (s : State) : exec (.xexp2 c f) s = execXexp2 c f s := rfl
theorem exec_xlog2 (c : Ctl) (f : FmtV3) (s : State) : exec (.xlog2 c f) s = execXlog2 c f s := rfl
theorem exec_xsin (c : Ctl) (f : FmtV3) (s : State) : exec (.xsin c f) s = execXsin c f s := rfl
theorem exec_xcos (c : Ctl) (f : FmtV3) (s : State) : exec (.xcos c f) s = execXcos c f s := rfl
theorem exec_xtanh (c : Ctl) (f : FmtV3) (s : State) : exec (.xtanh c f) s = execXtanh c f s := rfl
theorem exec_xsig (c : Ctl) (f : FmtV3) (s : State) : exec (.xsig c f) s = execXsig c f s := rfl
theorem exec_lshf (c : Ctl) (f : FmtV3) (s : State) : exec (.lshf c f) s = execLshf c f s := rfl
theorem exec_lbc (c : Ctl) (f : FmtV3) (s : State) : exec (.lbc c f) s = execLbc c f s := rfl
theorem exec_lvoteAll (c : Ctl) (f : FmtV3) (s : State) : exec (.lvoteAll c f) s = execLvoteAll c f s := rfl
theorem exec_lvoteAny (c : Ctl) (f : FmtV3) (s : State) : exec (.lvoteAny c f) s = execLvoteAny c f s := rfl
theorem exec_lvoteUni (c : Ctl) (f : FmtV3) (s : State) : exec (.lvoteUni c f) s = execLvoteUni c f s := rfl
theorem exec_lvoteBal (c : Ctl) (f : FmtV3) (s : State) : exec (.lvoteBal c f) s = execLvoteBal c f s := rfl
theorem exec_lred (c : Ctl) (f : FmtV3) (s : State) : exec (.lred c f) s = execLred c f s := rfl
theorem exec_lscan (c : Ctl) (f : FmtV3) (s : State) : exec (.lscan c f) s = execLscan c f s := rfl
theorem exec_lmatch (c : Ctl) (f : FmtV3) (s : State) : exec (.lmatch c f) s = execLmatch c f s := rfl
theorem exec_lcmpr (c : Ctl) (f : FmtV3) (s : State) : exec (.lcmpr c f) s = execLcmpr c f s := rfl
theorem exec_xsend (c : Ctl) (f : FmtV3) (s : State) : exec (.xsend c f) s = execXsend c f s := rfl
theorem exec_xrecv (c : Ctl) (f : FmtV3) (s : State) : exec (.xrecv c f) s = execXrecv c f s := rfl
theorem exec_vfromg (c : Ctl) (f : FmtV3) (s : State) : exec (.vfromg c f) s = execVfromg c f s := rfl
theorem exec_vtog (c : Ctl) (f : FmtV3) (s : State) : exec (.vtog c f) s = execVtog c f s := rfl
theorem exec_vtogFirst (c : Ctl) (f : FmtV3) (s : State) : exec (.vtogFirst c f) s = execVtogFirst c f s := rfl
theorem exec_ld (c : Ctl) (f : FmtM) (s : State) : exec (.ld c f) s = execLd c f s := rfl
theorem exec_st (c : Ctl) (f : FmtM) (s : State) : exec (.st c f) s = execSt c f s := rfl
theorem exec_lds (c : Ctl) (f : FmtM) (s : State) : exec (.lds c f) s = execLds c f s := rfl
theorem exec_sts (c : Ctl) (f : FmtM) (s : State) : exec (.sts c f) s = execSts c f s := rfl
theorem exec_ldsc (c : Ctl) (f : FmtM) (s : State) : exec (.ldsc c f) s = execLdsc c f s := rfl
theorem exec_stsc (c : Ctl) (f : FmtM) (s : State) : exec (.stsc c f) s = execStsc c f s := rfl
theorem exec_lda (c : Ctl) (f : FmtMO) (s : State) : exec (.lda c f) s = execLda c f s := rfl
theorem exec_ldaRng (c : Ctl) (f : FmtMO) (s : State) : exec (.ldaRng c f) s = execLdaRng c f s := rfl
theorem exec_stl (c : Ctl) (f : FmtMO) (s : State) : exec (.stl c f) s = execStl c f s := rfl
theorem exec_fence (c : Ctl) (f : FmtMO) (s : State) : exec (.fence c f) s = execFence c f s := rfl
theorem exec_prf (c : Ctl) (f : FmtM) (s : State) : exec (.prf c f) s = execPrf c f s := rfl
theorem exec_cpy (c : Ctl) (f : FmtA) (s : State) : exec (.cpy c f) s = execCpy c f s := rfl
theorem exec_bseal (c : Ctl) (f : FmtA) (s : State) : exec (.bseal c f) s = execBseal c f s := rfl
theorem exec_bwait (c : Ctl) (f : FmtA) (s : State) : exec (.bwait c f) s = execBwait c f s := rfl
theorem exec_waita (c : Ctl) (f : FmtM) (s : State) : exec (.waita c f) s = execWaita c f s := rfl
theorem exec_waitaSp (c : Ctl) (f : FmtM) (s : State) : exec (.waitaSp c f) s = execWaitaSp c f s := rfl
theorem exec_cinvL1 (c : Ctl) (f : FmtM) (s : State) : exec (.cinvL1 c f) s = execCinvL1 c f s := rfl
theorem exec_cinvAll (c : Ctl) (f : FmtM) (s : State) : exec (.cinvAll c f) s = execCinvAll c f s := rfl
theorem exec_cwb (c : Ctl) (f : FmtM) (s : State) : exec (.cwb c f) s = execCwb c f s := rfl
theorem exec_nbarv (c : Ctl) (f : FmtM) (s : State) : exec (.nbarv c f) s = execNbarv c f s := rfl
theorem exec_nbsync (c : Ctl) (f : FmtM) (s : State) : exec (.nbsync c f) s = execNbsync c f s := rfl
theorem exec_nbwait (c : Ctl) (f : FmtM) (s : State) : exec (.nbwait c f) s = execNbwait c f s := rfl
theorem exec_tbinit (c : Ctl) (f : FmtM) (s : State) : exec (.tbinit c f) s = execTbinit c f s := rfl
theorem exec_tbarv (c : Ctl) (f : FmtM) (s : State) : exec (.tbarv c f) s = execTbarv c f s := rfl
theorem exec_tbexp (c : Ctl) (f : FmtM) (s : State) : exec (.tbexp c f) s = execTbexp c f s := rfl
theorem exec_tbwait (c : Ctl) (f : FmtM) (s : State) : exec (.tbwait c f) s = execTbwait c f s := rfl
theorem exec_tbinv (c : Ctl) (f : FmtM) (s : State) : exec (.tbinv c f) s = execTbinv c f s := rfl
theorem exec_cbarv (c : Ctl) (f : FmtM) (s : State) : exec (.cbarv c f) s = execCbarv c f s := rfl
theorem exec_cbsync (c : Ctl) (f : FmtM) (s : State) : exec (.cbsync c f) s = execCbsync c f s := rfl
theorem exec_phadv (c : Ctl) (f : FmtM) (s : State) : exec (.phadv c f) s = execPhadv c f s := rfl
theorem exec_phwaitNbr (c : Ctl) (f : FmtM) (s : State) : exec (.phwaitNbr c f) s = execPhwaitNbr c f s := rfl
theorem exec_phwaitAll (c : Ctl) (f : FmtM) (s : State) : exec (.phwaitAll c f) s = execPhwaitAll c f s := rfl
theorem exec_sealv (c : Ctl) (f : FmtM) (s : State) : exec (.sealv c f) s = execSeal c f s := rfl
theorem exec_reuse (c : Ctl) (f : FmtM) (s : State) : exec (.reuse c f) s = execReuse c f s := rfl
theorem exec_drop (c : Ctl) (f : FmtM) (s : State) : exec (.drop c f) s = execDrop c f s := rfl
theorem exec_rdhintFloor (c : Ctl) (f : FmtM) (s : State) : exec (.rdhintFloor c f) s = execRdhintFloor c f s := rfl
theorem exec_rdhintCeil (c : Ctl) (f : FmtM) (s : State) : exec (.rdhintCeil c f) s = execRdhintCeil c f s := rfl
theorem exec_rdhintClear (c : Ctl) (f : FmtM) (s : State) : exec (.rdhintClear c f) s = execRdhintClear c f s := rfl
theorem exec_rdhintQuery (c : Ctl) (f : FmtM) (s : State) : exec (.rdhintQuery c f) s = execRdhintQuery c f s := rfl
theorem exec_atom (c : Ctl) (f : FmtX) (s : State) : exec (.atom c f) s = execAtom c f s := rfl
theorem exec_atomf (c : Ctl) (f : FmtX) (s : State) : exec (.atomf c f) s = execAtomf c f s := rfl
theorem exec_cas (c : Ctl) (f : FmtX) (s : State) : exec (.cas c f) s = execCas c f s := rfl
theorem exec_casXchg (c : Ctl) (f : FmtX) (s : State) : exec (.casXchg c f) s = execCasXchg c f s := rfl
theorem exec_red (c : Ctl) (f : FmtX) (s : State) : exec (.red c f) s = execRed c f s := rfl
theorem exec_oapp (c : Ctl) (f : FmtX) (s : State) : exec (.oapp c f) s = execOapp c f s := rfl
theorem exec_odecl (c : Ctl) (f : FmtX) (s : State) : exec (.odecl c f) s = execOdecl c f s := rfl
theorem exec_skred (c : Ctl) (f : FmtX) (s : State) : exec (.skred c f) s = execSkred c f s := rfl
theorem exec_skinit (c : Ctl) (f : FmtA) (s : State) : exec (.skinit c f) s = execSkinit c f s := rfl
theorem exec_skadd (c : Ctl) (f : FmtA) (s : State) : exec (.skadd c f) s = execSkadd c f s := rfl
theorem exec_skmrg (c : Ctl) (f : FmtA) (s : State) : exec (.skmrg c f) s = execSkmrg c f s := rfl
theorem exec_skcmp (c : Ctl) (f : FmtA) (s : State) : exec (.skcmp c f) s = execSkcmp c f s := rfl
theorem exec_skq (c : Ctl) (f : FmtA) (s : State) : exec (.skq c f) s = execSkq c f s := rfl
theorem exec_skrank (c : Ctl) (f : FmtA) (s : State) : exec (.skrank c f) s = execSkrank c f s := rfl
theorem exec_sktop (c : Ctl) (f : FmtA) (s : State) : exec (.sktop c f) s = execSktop c f s := rfl
theorem exec_skdc (c : Ctl) (f : FmtA) (s : State) : exec (.skdc c f) s = execSkdc c f s := rfl
theorem exec_rngkSet (c : Ctl) (f : FmtA) (s : State) : exec (.rngkSet c f) s = execRngkSet c f s := rfl
theorem exec_rngkSeek (c : Ctl) (f : FmtA) (s : State) : exec (.rngkSeek c f) s = execRngkSeek c f s := rfl
theorem exec_rngkRead (c : Ctl) (f : FmtA) (s : State) : exec (.rngkRead c f) s = execRngkRead c f s := rfl
theorem exec_rngv (c : Ctl) (f : FmtA) (s : State) : exec (.rngv c f) s = execRngv c f s := rfl
theorem exec_rngu (c : Ctl) (f : FmtA) (s : State) : exec (.rngu c f) s = execRngu c f s := rfl
theorem exec_sgumb (c : Ctl) (f : FmtA) (s : State) : exec (.sgumb c f) s = execSgumb c f s := rfl
theorem exec_stopk (c : Ctl) (f : FmtA) (s : State) : exec (.stopk c f) s = execStopk c f s := rfl
theorem exec_mxm (c : Ctl) (f : FmtA) (s : State) : exec (.mxm c f) s = execMxm c f s := rfl
theorem exec_mxmt (c : Ctl) (f : FmtA) (s : State) : exec (.mxmt c f) s = execMxmt c f s := rfl
theorem exec_mxmg (c : Ctl) (f : FmtA) (s : State) : exec (.mxmg c f) s = execMxmg c f s := rfl
theorem exec_acld (c : Ctl) (f : FmtA) (s : State) : exec (.acld c f) s = execAcld c f s := rfl
theorem exec_acst (c : Ctl) (f : FmtA) (s : State) : exec (.acst c f) s = execAcst c f s := rfl
theorem exec_acz (c : Ctl) (f : FmtA) (s : State) : exec (.acz c f) s = execAcz c f s := rfl
theorem exec_cbld (c : Ctl) (f : FmtA) (s : State) : exec (.cbld c f) s = execCbld c f s := rfl
theorem exec_qsplit (c : Ctl) (f : FmtA) (s : State) : exec (.qsplit c f) s = execQsplit c f s := rfl
theorem exec_wrsig (c : Ctl) (f : FmtA) (s : State) : exec (.wrsig c f) s = execWrsig c f s := rfl
theorem exec_mcst (c : Ctl) (f : FmtA) (s : State) : exec (.mcst c f) s = execMcst c f s := rfl
theorem exec_cpyr (c : Ctl) (f : FmtA) (s : State) : exec (.cpyr c f) s = execCpyr c f s := rfl
theorem exec_coll (c : Ctl) (f : FmtA) (s : State) : exec (.coll c f) s = execColl c f s := rfl
theorem exec_clrun (c : Ctl) (f : FmtA) (s : State) : exec (.clrun c f) s = execClrun c f s := rfl
theorem exec_launch (c : Ctl) (f : FmtA) (s : State) : exec (.launch c f) s = execLaunch c f s := rfl
theorem exec_lqryQueue (c : Ctl) (f : FmtA) (s : State) : exec (.lqryQueue c f) s = execLqryQueue c f s := rfl
theorem exec_lqrySys (c : Ctl) (f : FmtA) (s : State) : exec (.lqrySys c f) s = execLqrySys c f s := rfl
theorem exec_spapp (c : Ctl) (f : FmtA) (s : State) : exec (.spapp c f) s = execSpapp c f s := rfl
theorem exec_spverExact (c : Ctl) (f : FmtA) (s : State) : exec (.spverExact c f) s = execSpverExact c f s := rfl
theorem exec_spverProb (c : Ctl) (f : FmtA) (s : State) : exec (.spverProb c f) s = execSpverProb c f s := rfl
theorem exec_spacc (c : Ctl) (f : FmtA) (s : State) : exec (.spacc c f) s = execSpacc c f s := rfl
theorem exec_sprst (c : Ctl) (f : FmtA) (s : State) : exec (.sprst c f) s = execSprst c f s := rfl
theorem exec_moduleReset (s : State) : exec (.moduleReset) s = execModuleReset s := rfl
theorem exec_pickerIssue (p : Nat) (s : State) : exec (.pickerIssue p) s = execPickerIssue p s := rfl
theorem exec_logSlotFree (cx : Nat) (s : State) : exec (.logSlotFree cx) s = execLogSlotFree cx s := rfl
theorem exec_watchdogExpiry (g : Nat) (s : State) : exec (.watchdogExpiry g) s = execWatchdogExpiry g s := rfl
theorem exec_sleepEnd (g : Nat) (s : State) : exec (.sleepEnd g) s = execSleepEnd g s := rfl
theorem exec_yieldEnd (g : Nat) (s : State) : exec (.yieldEnd g) s = execYieldEnd g s := rfl
theorem exec_memAccessComplete (g : Nat) (a : Nat) (r : Nat) (s : State) : exec (.memAccessComplete g a r) s = execMemAccessComplete g a r s := rfl
theorem exec_loadFillReturn (g : Nat) (a : Nat) (r : Nat) (s : State) : exec (.loadFillReturn g a r) s = execLoadFillReturn g a r s := rfl
theorem exec_wcBufferTimeout (p : Nat) (n : Nat) (s : State) : exec (.wcBufferTimeout p n) s = execWcBufferTimeout p n s := rfl
theorem exec_trackerEntryRetire (p : Nat) (n : Nat) (s : State) : exec (.trackerEntryRetire p n) s = execTrackerEntryRetire p n s := rfl
theorem exec_completionWordRetry (cx : Nat) (s : State) : exec (.completionWordRetry cx) s = execCompletionWordRetry cx s := rfl
theorem exec_blockPlace (die : Nat) (cx : Nat) (core : Nat) (s : State) : exec (.blockPlace die cx core) s = execBlockPlace die cx core s := rfl
theorem exec_blockStart (b : Nat) (s : State) : exec (.blockStart b) s = execBlockStart b s := rfl
theorem exec_clusterReserve (die : Nat) (cx : Nat) (core : Nat) (s : State) : exec (.clusterReserve die cx core) s = execClusterReserve die cx core s := rfl
theorem exec_clusterRetry (die : Nat) (k : Nat) (s : State) : exec (.clusterRetry die k) s = execClusterRetry die k s := rfl
theorem exec_preempt (b : Nat) (s : State) : exec (.preempt b) s = execPreempt b s := rfl
theorem exec_restore (b : Nat) (core : Nat) (s : State) : exec (.restore b core) s = execRestore b core s := rfl
theorem exec_copyPieceWrite (core : Nat) (op : Nat) (n : Nat) (s : State) : exec (.copyPieceWrite core op n) s = execCopyPieceWrite core op n s := rfl
theorem exec_copyFaultStop (core : Nat) (op : Nat) (s : State) : exec (.copyFaultStop core op) s = execCopyFaultStop core op s := rfl
theorem exec_summaryOpRun (r : UnitRun) (s : State) : exec (.summaryOpRun r) s = execSummaryOpRun r s := rfl
theorem exec_matrixOpRun (r : UnitRun) (s : State) : exec (.matrixOpRun r) s = execMatrixOpRun r s := rfl
theorem exec_matrixOpFault (core : Nat) (s : State) : exec (.matrixOpFault core) s = execMatrixOpFault core s := rfl
theorem exec_sramSingleBitError (core : Nat) (s : State) : exec (.sramSingleBitError core) s = execSramSingleBitError core s := rfl
theorem exec_sramDoubleBitError (site : SramSite) (s : State) : exec (.sramDoubleBitError site) s = execSramDoubleBitError site s := rfl
theorem exec_scrubPass (core : Nat) (s : State) : exec (.scrubPass core) s = execScrubPass core s := rfl
theorem exec_hbmCorrectedError (pkg : Nat) (s : State) : exec (.hbmCorrectedError pkg) s = execHbmCorrectedError pkg s := rfl
theorem exec_hbmUncorrectableError (sector : Nat) (s : State) : exec (.hbmUncorrectableError sector) s = execHbmUncorrectableError sector s := rfl
theorem exec_patrolScrub (pkg : Nat) (s : State) : exec (.patrolScrub pkg) s = execPatrolScrub pkg s := rfl
theorem exec_keySlotError (pkg : Nat) (slot : Nat) (s : State) : exec (.keySlotError pkg slot) s = execKeySlotError pkg slot s := rfl
theorem exec_dieLinkFlitCrcFail (l : LinkDir) (s : State) : exec (.dieLinkFlitCrcFail l) s = execDieLinkFlitCrcFail l s := rfl
theorem exec_dieLinkRetrainEnd (pkg : Nat) (ok : Bool) (s : State) : exec (.dieLinkRetrainEnd pkg ok) s = execDieLinkRetrainEnd pkg ok s := rfl
theorem exec_powerSample (pkg : Nat) (watts : Nat) (degC : Nat) (s : State) : exec (.powerSample pkg watts degC) s = execPowerSample pkg watts degC s := rfl
theorem exec_thermalLimit (pkg : Nat) (s : State) : exec (.thermalLimit pkg) s = execThermalLimit pkg s := rfl
theorem exec_ualinkPortRetrain (port : Nat) (s : State) : exec (.ualinkPortRetrain port) s = execUalinkPortRetrain port s := rfl
theorem exec_portDown (port : Nat) (s : State) : exec (.portDown port) s = execPortDown port s := rfl
theorem exec_podReset (s : State) : exec (.podReset) s = execPodReset s := rfl
theorem exec_svcReplay (q : SvcReq) (s : State) : exec (.svcReplay q) s = execSvcReplay q s := rfl
theorem exec_svcInval (q : SvcReq) (s : State) : exec (.svcInval q) s = execSvcInval q s := rfl
theorem exec_svcCtxstart (q : SvcReq) (s : State) : exec (.svcCtxstart q) s = execSvcCtxstart q s := rfl
theorem exec_svcCtxstop (q : SvcReq) (s : State) : exec (.svcCtxstop q) s = execSvcCtxstop q s := rfl
theorem exec_svcKeyload (q : SvcReq) (s : State) : exec (.svcKeyload q) s = execSvcKeyload q s := rfl
theorem exec_svcKeyclr (q : SvcReq) (s : State) : exec (.svcKeyclr q) s = execSvcKeyclr q s := rfl
theorem exec_svcPlimit (q : SvcReq) (s : State) : exec (.svcPlimit q) s = execSvcPlimit q s := rfl
theorem exec_svcAttest (q : SvcReq) (s : State) : exec (.svcAttest q) s = execSvcAttest q s := rfl
theorem exec_svcGrant (q : SvcReq) (s : State) : exec (.svcGrant q) s = execSvcGrant q s := rfl
theorem exec_svcUnknown (q : SvcReq) (s : State) : exec (.svcUnknown q) s = execSvcUnknown q s := rfl
theorem exec_cxlMemAccess (h : HostAccess) (s : State) : exec (.cxlMemAccess h) s = execCxlMemAccess h s := rfl
theorem exec_cxlCacheSnoop (h : HostAccess) (s : State) : exec (.cxlCacheSnoop h) s = execCxlCacheSnoop h s := rfl
theorem exec_waitaWake (g : Nat) (s : State) : exec (.waitaWake g) s = execWaitaWake g s := rfl
theorem exec_oappGrant (g : Nat) (s : State) : exec (.oappGrant g) s = execOappGrant g s := rfl
theorem exec_orderedAtomicGrant (g : Nat) (s : State) : exec (.orderedAtomicGrant g) s = execOrderedAtomicGrant g s := rfl
theorem exec_lqExchange (cx : Nat) (s : State) : exec (.lqExchange cx) s = execLqExchange cx s := rfl
theorem exec_commitRoundStart (cx : Nat) (s : State) : exec (.commitRoundStart cx) s = execCommitRoundStart cx s := rfl
theorem exec_commitRoundComplete (cx : Nat) (s : State) : exec (.commitRoundComplete cx) s = execCommitRoundComplete cx s := rfl
theorem exec_intervalEnd (die : Nat) (s : State) : exec (.intervalEnd die) s = execIntervalEnd die s := rfl
theorem exec_directoryEntryError (line : Nat) (lost : Bool) (s : State) : exec (.directoryEntryError line lost) s = execDirectoryEntryError line lost s := rfl
theorem exec_msgReqs (id : Nat) (s : State) : exec (.msgReqs id) s = execMsgReqs id s := rfl
theorem exec_msgReqx (id : Nat) (s : State) : exec (.msgReqx id) s = execMsgReqx id s := rfl
theorem exec_msgUpg (id : Nat) (s : State) : exec (.msgUpg id) s = execMsgUpg id s := rfl
theorem exec_msgPext (id : Nat) (s : State) : exec (.msgPext id) s = execMsgPext id s := rfl
theorem exec_msgEvn (id : Nat) (s : State) : exec (.msgEvn id) s = execMsgEvn id s := rfl
theorem exec_msgEvd (id : Nat) (s : State) : exec (.msgEvd id) s = execMsgEvd id s := rfl
theorem exec_msgSnpshr (id : Nat) (s : State) : exec (.msgSnpshr id) s = execMsgSnpshr id s := rfl
theorem exec_msgSnpinv (id : Nat) (s : State) : exec (.msgSnpinv id) s = execMsgSnpinv id s := rfl
theorem exec_msgSnpmask (id : Nat) (s : State) : exec (.msgSnpmask id) s = execMsgSnpmask id s := rfl
theorem exec_msgSnpmerge (id : Nat) (s : State) : exec (.msgSnpmerge id) s = execMsgSnpmerge id s := rfl
theorem exec_msgInv (id : Nat) (s : State) : exec (.msgInv id) s = execMsgInv id s := rfl
theorem exec_msgAck (id : Nat) (s : State) : exec (.msgAck id) s = execMsgAck id s := rfl
theorem exec_msgAckd (id : Nat) (s : State) : exec (.msgAckd id) s = execMsgAckd id s := rfl
theorem exec_msgDatas (id : Nat) (vic : Option Nat) (s : State) : exec (.msgDatas id vic) s = execMsgDatas id vic s := rfl
theorem exec_msgDatasn (id : Nat) (s : State) : exec (.msgDatasn id) s = execMsgDatasn id s := rfl
theorem exec_msgDatae (id : Nat) (vic : Option Nat) (s : State) : exec (.msgDatae id vic) s = execMsgDatae id vic s := rfl
theorem exec_msgDatap (id : Nat) (vic : Option Nat) (s : State) : exec (.msgDatap id vic) s = execMsgDatap id vic s := rfl
theorem exec_msgEvack (id : Nat) (s : State) : exec (.msgEvack id) s = execMsgEvack id s := rfl
theorem exec_msgAtomf (id : Nat) (s : State) : exec (.msgAtomf id) s = execMsgAtomf id s := rfl
theorem exec_msgAtomr (id : Nat) (s : State) : exec (.msgAtomr id) s = execMsgAtomr id s := rfl
theorem exec_msgRdu (id : Nat) (s : State) : exec (.msgRdu id) s = execMsgRdu id s := rfl
theorem exec_msgRdur (id : Nat) (s : State) : exec (.msgRdur id) s = execMsgRdur id s := rfl
theorem exec_msgWru (id : Nat) (s : State) : exec (.msgWru id) s = execMsgWru id s := rfl
theorem exec_msgWrua (id : Nat) (s : State) : exec (.msgWrua id) s = execMsgWrua id s := rfl
theorem exec_msgPut (id : Nat) (s : State) : exec (.msgPut id) s = execMsgPut id s := rfl
theorem exec_msgPuta (id : Nat) (s : State) : exec (.msgPuta id) s = execMsgPuta id s := rfl
theorem exec_msgSig (id : Nat) (s : State) : exec (.msgSig id) s = execMsgSig id s := rfl
theorem exec_msgMcd (id : Nat) (s : State) : exec (.msgMcd id) s = execMsgMcd id s := rfl
theorem exec_msgRdc (id : Nat) (s : State) : exec (.msgRdc id) s = execMsgRdc id s := rfl
theorem exec_msgRdr (id : Nat) (s : State) : exec (.msgRdr id) s = execMsgRdr id s := rfl
theorem exec_reductionDeadline (setid : Nat) (chunk : Nat) (s : State) : exec (.reductionDeadline setid chunk) s = execReductionDeadline setid chunk s := rfl
theorem exec_msgRsv (id : Nat) (s : State) : exec (.msgRsv id) s = execMsgRsv id s := rfl
theorem exec_msgGnt (id : Nat) (s : State) : exec (.msgGnt id) s = execMsgGnt id s := rfl
theorem exec_grantWithdraw (id : Nat) (s : State) : exec (.grantWithdraw id) s = execGrantWithdraw id s := rfl
theorem exec_msgNak (id : Nat) (s : State) : exec (.msgNak id) s = execMsgNak id s := rfl
theorem exec_nakBackoffExpiry (sk : Nat) (s : State) : exec (.nakBackoffExpiry sk) s = execNakBackoffExpiry sk s := rfl
theorem exec_fabricAck (id : Nat) (s : State) : exec (.fabricAck id) s = execFabricAck id s := rfl
theorem exec_reservedMessageDrop (id : Nat) (s : State) : exec (.reservedMessageDrop id) s = execReservedMessageDrop id s := rfl
theorem exec_chamoisOpStart (die : Nat) (ch : Nat) (s : State) : exec (.chamoisOpStart die ch) s = execChamoisOpStart die ch s := rfl
theorem exec_clSend (die : Nat) (ch : Nat) (s : State) : exec (.clSend die ch) s = execClSend die ch s := rfl
theorem exec_clRecv (die : Nat) (ch : Nat) (s : State) : exec (.clRecv die ch) s = execClRecv die ch s := rfl
theorem exec_clReduce (die : Nat) (ch : Nat) (s : State) : exec (.clReduce die ch) s = execClReduce die ch s := rfl
theorem exec_clCopy (die : Nat) (ch : Nat) (s : State) : exec (.clCopy die ch) s = execClCopy die ch s := rfl
theorem exec_clMcast (die : Nat) (ch : Nat) (s : State) : exec (.clMcast die ch) s = execClMcast die ch s := rfl
theorem exec_clWaitb (die : Nat) (ch : Nat) (s : State) : exec (.clWaitb die ch) s = execClWaitb die ch s := rfl
theorem exec_clSignal (die : Nat) (ch : Nat) (s : State) : exec (.clSignal die ch) s = execClSignal die ch s := rfl
theorem exec_clArrive (die : Nat) (ch : Nat) (s : State) : exec (.clArrive die ch) s = execClArrive die ch s := rfl
theorem exec_clLoop (die : Nat) (ch : Nat) (s : State) : exec (.clLoop die ch) s = execClLoop die ch s := rfl
theorem exec_clEndloop (die : Nat) (ch : Nat) (s : State) : exec (.clEndloop die ch) s = execClEndloop die ch s := rfl
theorem exec_clRange (die : Nat) (ch : Nat) (s : State) : exec (.clRange die ch) s = execClRange die ch s := rfl
theorem exec_clEnd (die : Nat) (ch : Nat) (s : State) : exec (.clEnd die ch) s = execClEnd die ch s := rfl
theorem exec_ualinkPortRetrainEnd (port : Nat) (s : State) : exec (.ualinkPortRetrainEnd port) s = execUalinkPortRetrainEnd port s := rfl
theorem exec_linkLevelReplay (port : Nat) (s : State) : exec (.linkLevelReplay port) s = execLinkLevelReplay port s := rfl
theorem exec_completionPoint (g : Nat) (n : Nat) (s : State) : exec (.completionPoint g n) s = execCompletionPoint g n s := rfl
theorem exec_copyEngineOpStart (core : Nat) (s : State) : exec (.copyEngineOpStart core) s = execCopyEngineOpStart core s := rfl
theorem exec_fallbackWatchdogLimit (die : Nat) (ch : Nat) (s : State) : exec (.fallbackWatchdogLimit die ch) s = execFallbackWatchdogLimit die ch s := rfl
theorem exec_ultraEthernetDelivery (q : UePacket) (s : State) : exec (.ultraEthernetDelivery q) s = execUltraEthernetDelivery q s := rfl
theorem exec_spdmSecureSessionMessage (pkg : Nat) (session : Nat) (handle : Nat) (key : BitVec 512) (s : State) : exec (.spdmSecureSessionMessage pkg session handle key) s = execSpdmSecureSessionMessage pkg session handle key s := rfl
theorem exec_nonWindowRequestDrop (pkg : Nat) (s : State) : exec (.nonWindowRequestDrop pkg) s = execNonWindowRequestDrop pkg s := rfl

end Sys2Proof.Machine
end

