-- ==== Sys2Proof/Laws/Map.lean ====
section
/-!
SUPPORT. The laws of sparse maps and of byte memory: a read after a write, and that every operation on memory keeps its canonical
form.
-/
namespace Sys2Proof.Machine

variable {V : Type}

/-! ## Reading after a write -/

theorem mget?_mput (m : FMap V) (n k : Nat) (x : V) : mget? (mput m n x) k = if k = n then some x else mget? m k := by
  fun_induction mput m n x <;> grind [mget?]

@[simp] theorem mget_mput_same (m : FMap V) (d : V) (n : Nat) (x : V) : mget (mput m n x) d n = x := by simp [mget, mget?_mput]

@[simp] theorem mget_mput_ne (m : FMap V) (d : V) (n k : Nat) (x : V) (h : k ≠ n) : mget (mput m n x) d k = mget m d k := by
  simp [mget, mget?_mput, h]

/-! ## Rising keys -/

theorem risingFrom_mono (m : FMap V) {a b : Nat} (h : risingFrom (some b) m = true) (hab : a ≤ b) : risingFrom (some a) m = true := by
  cases m <;> grind [risingFrom]

theorem risingFrom_none (m : FMap V) {a : Nat} (h : risingFrom (some a) m = true) : risingFrom none m = true := by
  cases m <;> grind [risingFrom]

/-- No key at or below the bound is listed. -/
theorem mget?_of_risingFrom (m : FMap V) {a k : Nat} (h : risingFrom (some a) m = true) (hk : k ≤ a) : mget? m k = none := by
  induction m generalizing a <;> grind [risingFrom, mget?]

theorem risingFrom_mput (m : FMap V) (lo : Option Nat) (n : Nat) (x : V) (h : risingFrom lo m = true) (hn : ∀ l, lo = some l → l < n) :
    risingFrom lo (mput m n x) = true := by
  induction m generalizing lo <;> cases lo <;> grind [risingFrom, mput]

theorem risingFrom_mdel (m : FMap V) (lo : Option Nat) (n : Nat) (h : risingFrom lo m = true) : risingFrom lo (mdel m n) = true := by
  induction m generalizing lo <;> cases lo <;> grind [risingFrom, mdel, risingFrom_none, risingFrom_mono]

theorem mget?_mdel (m : FMap V) (n k : Nat) : mget? (mdel m n) k = if k = n then none else mget? m k := by
  fun_induction mdel m n <;> grind [mget?]

theorem mem_mput (m : FMap V) (n : Nat) (x : V) (e : Nat × V) (h : e ∈ mput m n x) : e = (n, x) ∨ e ∈ m := by
  fun_induction mput m n x <;> grind

theorem mem_mdel (m : FMap V) (n : Nat) (e : Nat × V) (h : e ∈ mdel m n) : e ∈ m := by
  fun_induction mdel m n <;> grind

/-! ## Setting with a default -/

variable [DecidableEq V]

theorem mget_mset (m : FMap V) (d : V) (n k : Nat) (x : V) : mget (mset m d n x) d k = if k = n then x else mget m d k := by
  unfold mset
  split
  · rename_i hx
    by_cases h : k = n <;> simp [mget, mget?_mdel, h, hx]
  · by_cases h : k = n <;> simp [mget, mget?_mput, h]

@[simp] theorem mget_mset_same (m : FMap V) (d : V) (n : Nat) (x : V) : mget (mset m d n x) d n = x := by simp [mget_mset]

@[simp] theorem mget_mset_ne (m : FMap V) (d : V) (n k : Nat) (x : V) (h : k ≠ n) : mget (mset m d n x) d k = mget m d k := by
  simp [mget_mset, h]

/-- Setting a key keeps the canonical form. -/
theorem canonical_mset (m : FMap V) (d : V) (n : Nat) (x : V) (h : canonical d m = true) : canonical d (mset m d n x) = true := by
  simp only [canonical, Bool.and_eq_true, List.all_eq_true, decide_eq_true_eq] at h ⊢
  unfold mset
  split
  · exact ⟨risingFrom_mdel m none n h.1, fun e he => h.2 e (mem_mdel m n e he)⟩
  · rename_i hx
    refine ⟨risingFrom_mput m none n x h.1 (by simp), fun e he => ?_⟩
    rcases mem_mput m n x e he with rfl | he
    · exact hx
    · exact h.2 e he

/-! ## Byte memory -/

/-- Writing a byte keeps the canonical form. -/
theorem wf_cset (m : Cells) (a : Nat) (b : Byte) (h : Memory.wf m = true) : Memory.wf (cset m a b) = true := canonical_mset m 0 a b h

/-- Writing bytes keeps the canonical form. -/
theorem wf_cwrite (m : Cells) (a : Nat) (bs : List Byte) (h : Memory.wf m = true) : Memory.wf (cwrite m a bs) = true := by
  induction bs generalizing m a with
  | nil => exact h
  | cons b bs ih => exact ih (cset m a b) (a + 1) (wf_cset m a b h)

/-- A byte that a write does not reach reads as before. -/
theorem cget_cwrite_out (m : Cells) (a k : Nat) (bs : List Byte) (h : k < a ∨ a + bs.length ≤ k) : cget (cwrite m a bs) k = cget m k := by
  induction bs generalizing m a with
  | nil => rfl
  | cons b bs ih =>
    have hk : k ≠ a := by
      simp only [List.length_cons] at h
      omega
    rw [cwrite, ih (cset m a b) (a + 1) (by simp only [List.length_cons] at h; omega)]
    exact mget_mset_ne m 0 a k b hk

/-- A byte that a write reaches reads as what was written. -/
theorem cget_cwrite_in (m : Cells) (a i : Nat) (bs : List Byte) (hi : i < bs.length) :
    cget (cwrite m a bs) (a + i) = bs[i] := by
  induction bs generalizing m a i with
  | nil => simp at hi
  | cons b bs ih =>
    rw [cwrite]
    cases i with
    | zero =>
      show cget (cwrite (cset m a b) (a + 1) bs) a = b
      rw [cget_cwrite_out _ (a + 1) a bs (.inl (Nat.lt_succ_self a))]
      exact mget_mset_same m 0 a b
    | succ j =>
      have := ih (cset m a b) (a + 1) j (by simpa using hi)
      rw [show a + (j + 1) = a + 1 + j by omega, this]
      rfl

/-! ## Storage behind the caches -/

/-- A write to storage keeps the canonical form of memory. -/
theorem wf_dramWrite (s : State) (pa key : Nat) (bs : List Byte) (h : Memory.wf s.mem = true) :
    Memory.wf (dramWrite s pa key bs).mem = true := by
  simp only [dramWrite]
  split
  · exact wf_cwrite _ _ _ h
  · exact wf_cwrite _ _ _ (wf_cwrite _ _ _ h)

theorem wf_dramWriteAll (s : State) (key : Nat) (cs : List (Nat × Byte)) (h : Memory.wf s.mem = true) :
    Memory.wf (dramWriteAll s key cs).mem = true := by
  unfold dramWriteAll
  induction cs generalizing s with
  | nil => exact h
  | cons c cs ih => exact ih _ (wf_dramWrite s c.1 key [c.2] h)

end Sys2Proof.Machine
end

