-- ==== Sys2Proof/Laws/State.lean ====
section
/-!
SUPPORT. The small laws of State: what each update of a table leaves alone, by field and by table, and what it reads back as; and
the same for the writes of a group's registers. Later proofs cite these and unfold no record update.
-/
namespace Sys2Proof.Machine

variable (s : State) (n k : Nat)

/-! ## modGrp -/

@[simp] theorem State.modGrp_clock (u : Group → Group) : (s.modGrp n u).clock = s.clock := rfl
@[simp] theorem State.modGrp_inputs (u : Group → Group) : (s.modGrp n u).inputs = s.inputs := rfl
@[simp] theorem State.modGrp_turn (u : Group → Group) : (s.modGrp n u).turn = s.turn := rfl
@[simp] theorem State.modGrp_cur (u : Group → Group) : (s.modGrp n u).cur = s.cur := rfl
@[simp] theorem State.modGrp_probe (u : Group → Group) : (s.modGrp n u).probe = s.probe := rfl
@[simp] theorem State.modGrp_nextId (u : Group → Group) : (s.modGrp n u).nextId = s.nextId := rfl
@[simp] theorem State.modGrp_free (u : Group → Group) : (s.modGrp n u).free = s.free := rfl
@[simp] theorem State.modGrp_packages (u : Group → Group) : (s.modGrp n u).packages = s.packages := rfl
@[simp] theorem State.modGrp_podIndex (u : Group → Group) : (s.modGrp n u).podIndex = s.podIndex := rfl
@[simp] theorem State.modGrp_mem (u : Group → Group) : (s.modGrp n u).mem = s.mem := rfl
@[simp] theorem State.modGrp_cipher (u : Group → Group) : (s.modGrp n u).cipher = s.cipher := rfl
@[simp] theorem State.modGrp_badMem (u : Group → Group) : (s.modGrp n u).badMem = s.badMem := rfl
@[simp] theorem State.modGrp_l2 (u : Group → Group) : (s.modGrp n u).l2 = s.l2 := rfl
@[simp] theorem State.modGrp_victims (u : Group → Group) : (s.modGrp n u).victims = s.victims := rfl
@[simp] theorem State.modGrp_spent (u : Group → Group) : (s.modGrp n u).spent = s.spent := rfl
@[simp] theorem State.modGrp_dir (u : Group → Group) : (s.modGrp n u).dir = s.dir := rfl
@[simp] theorem State.modGrp_busy (u : Group → Group) : (s.modGrp n u).busy = s.busy := rfl
@[simp] theorem State.modGrp_net (u : Group → Group) : (s.modGrp n u).net = s.net := rfl
@[simp] theorem State.modGrp_retryStore (u : Group → Group) : (s.modGrp n u).retryStore = s.retryStore := rfl
@[simp] theorem State.modGrp_sendSeq (u : Group → Group) : (s.modGrp n u).sendSeq = s.sendSeq := rfl
@[simp] theorem State.modGrp_recvSeq (u : Group → Group) : (s.modGrp n u).recvSeq = s.recvSeq := rfl
@[simp] theorem State.modGrp_rsvs (u : Group → Group) : (s.modGrp n u).rsvs = s.rsvs := rfl
@[simp] theorem State.modGrp_redSets (u : Group → Group) : (s.modGrp n u).redSets = s.redSets := rfl
@[simp] theorem State.modGrp_ports (u : Group → Group) : (s.modGrp n u).ports = s.ports := rfl
@[simp] theorem State.modGrp_pkgs (u : Group → Group) : (s.modGrp n u).pkgs = s.pkgs := rfl
@[simp] theorem State.modGrp_dies (u : Group → Group) : (s.modGrp n u).dies = s.dies := rfl
@[simp] theorem State.modGrp_cores (u : Group → Group) : (s.modGrp n u).cores = s.cores := rfl
@[simp] theorem State.modGrp_parts (u : Group → Group) : (s.modGrp n u).parts = s.parts := rfl
@[simp] theorem State.modGrp_ctxs (u : Group → Group) : (s.modGrp n u).ctxs = s.ctxs := rfl
@[simp] theorem State.modGrp_kernels (u : Group → Group) : (s.modGrp n u).kernels = s.kernels := rfl
@[simp] theorem State.modGrp_starts (u : Group → Group) : (s.modGrp n u).starts = s.starts := rfl
@[simp] theorem State.modGrp_clusters (u : Group → Group) : (s.modGrp n u).clusters = s.clusters := rfl
@[simp] theorem State.modGrp_blocks (u : Group → Group) : (s.modGrp n u).blocks = s.blocks := rfl
@[simp] theorem State.modGrp_blk_of (u : Group → Group) : (s.modGrp n u).blk k = s.blk k := rfl
@[simp] theorem State.modGrp_krn_of (u : Group → Group) : (s.modGrp n u).krn k = s.krn k := rfl
@[simp] theorem State.modGrp_clu_of (u : Group → Group) : (s.modGrp n u).clu k = s.clu k := rfl
@[simp] theorem State.modGrp_core_of (u : Group → Group) : (s.modGrp n u).core k = s.core k := rfl
@[simp] theorem State.modGrp_part_of (u : Group → Group) : (s.modGrp n u).part k = s.part k := rfl
@[simp] theorem State.modGrp_die_of (u : Group → Group) : (s.modGrp n u).die k = s.die k := rfl
@[simp] theorem State.modGrp_pkg_of (u : Group → Group) : (s.modGrp n u).pkg k = s.pkg k := rfl
@[simp] theorem State.modGrp_ctx_of (u : Group → Group) : (s.modGrp n u).ctx k = s.ctx k := rfl
@[simp] theorem State.modGrp_grp_same (u : Group → Group) : (s.modGrp n u).grp n = u (s.grp n) := by simp [State.modGrp, State.grp]
theorem State.modGrp_grp_ne (u : Group → Group) (h : k ≠ n) : (s.modGrp n u).grp k = s.grp k := by simp [State.modGrp, State.grp, h]

/-! ## modBlk -/

@[simp] theorem State.modBlk_clock (u : Block → Block) : (s.modBlk n u).clock = s.clock := rfl
@[simp] theorem State.modBlk_inputs (u : Block → Block) : (s.modBlk n u).inputs = s.inputs := rfl
@[simp] theorem State.modBlk_turn (u : Block → Block) : (s.modBlk n u).turn = s.turn := rfl
@[simp] theorem State.modBlk_cur (u : Block → Block) : (s.modBlk n u).cur = s.cur := rfl
@[simp] theorem State.modBlk_probe (u : Block → Block) : (s.modBlk n u).probe = s.probe := rfl
@[simp] theorem State.modBlk_nextId (u : Block → Block) : (s.modBlk n u).nextId = s.nextId := rfl
@[simp] theorem State.modBlk_free (u : Block → Block) : (s.modBlk n u).free = s.free := rfl
@[simp] theorem State.modBlk_packages (u : Block → Block) : (s.modBlk n u).packages = s.packages := rfl
@[simp] theorem State.modBlk_podIndex (u : Block → Block) : (s.modBlk n u).podIndex = s.podIndex := rfl
@[simp] theorem State.modBlk_mem (u : Block → Block) : (s.modBlk n u).mem = s.mem := rfl
@[simp] theorem State.modBlk_cipher (u : Block → Block) : (s.modBlk n u).cipher = s.cipher := rfl
@[simp] theorem State.modBlk_badMem (u : Block → Block) : (s.modBlk n u).badMem = s.badMem := rfl
@[simp] theorem State.modBlk_l2 (u : Block → Block) : (s.modBlk n u).l2 = s.l2 := rfl
@[simp] theorem State.modBlk_victims (u : Block → Block) : (s.modBlk n u).victims = s.victims := rfl
@[simp] theorem State.modBlk_spent (u : Block → Block) : (s.modBlk n u).spent = s.spent := rfl
@[simp] theorem State.modBlk_dir (u : Block → Block) : (s.modBlk n u).dir = s.dir := rfl
@[simp] theorem State.modBlk_busy (u : Block → Block) : (s.modBlk n u).busy = s.busy := rfl
@[simp] theorem State.modBlk_net (u : Block → Block) : (s.modBlk n u).net = s.net := rfl
@[simp] theorem State.modBlk_retryStore (u : Block → Block) : (s.modBlk n u).retryStore = s.retryStore := rfl
@[simp] theorem State.modBlk_sendSeq (u : Block → Block) : (s.modBlk n u).sendSeq = s.sendSeq := rfl
@[simp] theorem State.modBlk_recvSeq (u : Block → Block) : (s.modBlk n u).recvSeq = s.recvSeq := rfl
@[simp] theorem State.modBlk_rsvs (u : Block → Block) : (s.modBlk n u).rsvs = s.rsvs := rfl
@[simp] theorem State.modBlk_redSets (u : Block → Block) : (s.modBlk n u).redSets = s.redSets := rfl
@[simp] theorem State.modBlk_ports (u : Block → Block) : (s.modBlk n u).ports = s.ports := rfl
@[simp] theorem State.modBlk_pkgs (u : Block → Block) : (s.modBlk n u).pkgs = s.pkgs := rfl
@[simp] theorem State.modBlk_dies (u : Block → Block) : (s.modBlk n u).dies = s.dies := rfl
@[simp] theorem State.modBlk_cores (u : Block → Block) : (s.modBlk n u).cores = s.cores := rfl
@[simp] theorem State.modBlk_parts (u : Block → Block) : (s.modBlk n u).parts = s.parts := rfl
@[simp] theorem State.modBlk_ctxs (u : Block → Block) : (s.modBlk n u).ctxs = s.ctxs := rfl
@[simp] theorem State.modBlk_kernels (u : Block → Block) : (s.modBlk n u).kernels = s.kernels := rfl
@[simp] theorem State.modBlk_starts (u : Block → Block) : (s.modBlk n u).starts = s.starts := rfl
@[simp] theorem State.modBlk_clusters (u : Block → Block) : (s.modBlk n u).clusters = s.clusters := rfl
@[simp] theorem State.modBlk_groups (u : Block → Block) : (s.modBlk n u).groups = s.groups := rfl
@[simp] theorem State.modBlk_grp_of (u : Block → Block) : (s.modBlk n u).grp k = s.grp k := rfl
@[simp] theorem State.modBlk_krn_of (u : Block → Block) : (s.modBlk n u).krn k = s.krn k := rfl
@[simp] theorem State.modBlk_clu_of (u : Block → Block) : (s.modBlk n u).clu k = s.clu k := rfl
@[simp] theorem State.modBlk_core_of (u : Block → Block) : (s.modBlk n u).core k = s.core k := rfl
@[simp] theorem State.modBlk_part_of (u : Block → Block) : (s.modBlk n u).part k = s.part k := rfl
@[simp] theorem State.modBlk_die_of (u : Block → Block) : (s.modBlk n u).die k = s.die k := rfl
@[simp] theorem State.modBlk_pkg_of (u : Block → Block) : (s.modBlk n u).pkg k = s.pkg k := rfl
@[simp] theorem State.modBlk_ctx_of (u : Block → Block) : (s.modBlk n u).ctx k = s.ctx k := rfl
@[simp] theorem State.modBlk_blk_same (u : Block → Block) : (s.modBlk n u).blk n = u (s.blk n) := by simp [State.modBlk, State.blk]
theorem State.modBlk_blk_ne (u : Block → Block) (h : k ≠ n) : (s.modBlk n u).blk k = s.blk k := by simp [State.modBlk, State.blk, h]

/-! ## modKrn -/

@[simp] theorem State.modKrn_clock (u : Kernel → Kernel) : (s.modKrn n u).clock = s.clock := rfl
@[simp] theorem State.modKrn_inputs (u : Kernel → Kernel) : (s.modKrn n u).inputs = s.inputs := rfl
@[simp] theorem State.modKrn_turn (u : Kernel → Kernel) : (s.modKrn n u).turn = s.turn := rfl
@[simp] theorem State.modKrn_cur (u : Kernel → Kernel) : (s.modKrn n u).cur = s.cur := rfl
@[simp] theorem State.modKrn_probe (u : Kernel → Kernel) : (s.modKrn n u).probe = s.probe := rfl
@[simp] theorem State.modKrn_nextId (u : Kernel → Kernel) : (s.modKrn n u).nextId = s.nextId := rfl
@[simp] theorem State.modKrn_free (u : Kernel → Kernel) : (s.modKrn n u).free = s.free := rfl
@[simp] theorem State.modKrn_packages (u : Kernel → Kernel) : (s.modKrn n u).packages = s.packages := rfl
@[simp] theorem State.modKrn_podIndex (u : Kernel → Kernel) : (s.modKrn n u).podIndex = s.podIndex := rfl
@[simp] theorem State.modKrn_mem (u : Kernel → Kernel) : (s.modKrn n u).mem = s.mem := rfl
@[simp] theorem State.modKrn_cipher (u : Kernel → Kernel) : (s.modKrn n u).cipher = s.cipher := rfl
@[simp] theorem State.modKrn_badMem (u : Kernel → Kernel) : (s.modKrn n u).badMem = s.badMem := rfl
@[simp] theorem State.modKrn_l2 (u : Kernel → Kernel) : (s.modKrn n u).l2 = s.l2 := rfl
@[simp] theorem State.modKrn_victims (u : Kernel → Kernel) : (s.modKrn n u).victims = s.victims := rfl
@[simp] theorem State.modKrn_spent (u : Kernel → Kernel) : (s.modKrn n u).spent = s.spent := rfl
@[simp] theorem State.modKrn_dir (u : Kernel → Kernel) : (s.modKrn n u).dir = s.dir := rfl
@[simp] theorem State.modKrn_busy (u : Kernel → Kernel) : (s.modKrn n u).busy = s.busy := rfl
@[simp] theorem State.modKrn_net (u : Kernel → Kernel) : (s.modKrn n u).net = s.net := rfl
@[simp] theorem State.modKrn_retryStore (u : Kernel → Kernel) : (s.modKrn n u).retryStore = s.retryStore := rfl
@[simp] theorem State.modKrn_sendSeq (u : Kernel → Kernel) : (s.modKrn n u).sendSeq = s.sendSeq := rfl
@[simp] theorem State.modKrn_recvSeq (u : Kernel → Kernel) : (s.modKrn n u).recvSeq = s.recvSeq := rfl
@[simp] theorem State.modKrn_rsvs (u : Kernel → Kernel) : (s.modKrn n u).rsvs = s.rsvs := rfl
@[simp] theorem State.modKrn_redSets (u : Kernel → Kernel) : (s.modKrn n u).redSets = s.redSets := rfl
@[simp] theorem State.modKrn_ports (u : Kernel → Kernel) : (s.modKrn n u).ports = s.ports := rfl
@[simp] theorem State.modKrn_pkgs (u : Kernel → Kernel) : (s.modKrn n u).pkgs = s.pkgs := rfl
@[simp] theorem State.modKrn_dies (u : Kernel → Kernel) : (s.modKrn n u).dies = s.dies := rfl
@[simp] theorem State.modKrn_cores (u : Kernel → Kernel) : (s.modKrn n u).cores = s.cores := rfl
@[simp] theorem State.modKrn_parts (u : Kernel → Kernel) : (s.modKrn n u).parts = s.parts := rfl
@[simp] theorem State.modKrn_ctxs (u : Kernel → Kernel) : (s.modKrn n u).ctxs = s.ctxs := rfl
@[simp] theorem State.modKrn_starts (u : Kernel → Kernel) : (s.modKrn n u).starts = s.starts := rfl
@[simp] theorem State.modKrn_clusters (u : Kernel → Kernel) : (s.modKrn n u).clusters = s.clusters := rfl
@[simp] theorem State.modKrn_blocks (u : Kernel → Kernel) : (s.modKrn n u).blocks = s.blocks := rfl
@[simp] theorem State.modKrn_groups (u : Kernel → Kernel) : (s.modKrn n u).groups = s.groups := rfl
@[simp] theorem State.modKrn_grp_of (u : Kernel → Kernel) : (s.modKrn n u).grp k = s.grp k := rfl
@[simp] theorem State.modKrn_blk_of (u : Kernel → Kernel) : (s.modKrn n u).blk k = s.blk k := rfl
@[simp] theorem State.modKrn_clu_of (u : Kernel → Kernel) : (s.modKrn n u).clu k = s.clu k := rfl
@[simp] theorem State.modKrn_core_of (u : Kernel → Kernel) : (s.modKrn n u).core k = s.core k := rfl
@[simp] theorem State.modKrn_part_of (u : Kernel → Kernel) : (s.modKrn n u).part k = s.part k := rfl
@[simp] theorem State.modKrn_die_of (u : Kernel → Kernel) : (s.modKrn n u).die k = s.die k := rfl
@[simp] theorem State.modKrn_pkg_of (u : Kernel → Kernel) : (s.modKrn n u).pkg k = s.pkg k := rfl
@[simp] theorem State.modKrn_ctx_of (u : Kernel → Kernel) : (s.modKrn n u).ctx k = s.ctx k := rfl
@[simp] theorem State.modKrn_krn_same (u : Kernel → Kernel) : (s.modKrn n u).krn n = u (s.krn n) := by simp [State.modKrn, State.krn]
theorem State.modKrn_krn_ne (u : Kernel → Kernel) (h : k ≠ n) : (s.modKrn n u).krn k = s.krn k := by simp [State.modKrn, State.krn, h]

/-! ## modClu -/

@[simp] theorem State.modClu_clock (u : Cluster → Cluster) : (s.modClu n u).clock = s.clock := rfl
@[simp] theorem State.modClu_inputs (u : Cluster → Cluster) : (s.modClu n u).inputs = s.inputs := rfl
@[simp] theorem State.modClu_turn (u : Cluster → Cluster) : (s.modClu n u).turn = s.turn := rfl
@[simp] theorem State.modClu_cur (u : Cluster → Cluster) : (s.modClu n u).cur = s.cur := rfl
@[simp] theorem State.modClu_probe (u : Cluster → Cluster) : (s.modClu n u).probe = s.probe := rfl
@[simp] theorem State.modClu_nextId (u : Cluster → Cluster) : (s.modClu n u).nextId = s.nextId := rfl
@[simp] theorem State.modClu_free (u : Cluster → Cluster) : (s.modClu n u).free = s.free := rfl
@[simp] theorem State.modClu_packages (u : Cluster → Cluster) : (s.modClu n u).packages = s.packages := rfl
@[simp] theorem State.modClu_podIndex (u : Cluster → Cluster) : (s.modClu n u).podIndex = s.podIndex := rfl
@[simp] theorem State.modClu_mem (u : Cluster → Cluster) : (s.modClu n u).mem = s.mem := rfl
@[simp] theorem State.modClu_cipher (u : Cluster → Cluster) : (s.modClu n u).cipher = s.cipher := rfl
@[simp] theorem State.modClu_badMem (u : Cluster → Cluster) : (s.modClu n u).badMem = s.badMem := rfl
@[simp] theorem State.modClu_l2 (u : Cluster → Cluster) : (s.modClu n u).l2 = s.l2 := rfl
@[simp] theorem State.modClu_victims (u : Cluster → Cluster) : (s.modClu n u).victims = s.victims := rfl
@[simp] theorem State.modClu_spent (u : Cluster → Cluster) : (s.modClu n u).spent = s.spent := rfl
@[simp] theorem State.modClu_dir (u : Cluster → Cluster) : (s.modClu n u).dir = s.dir := rfl
@[simp] theorem State.modClu_busy (u : Cluster → Cluster) : (s.modClu n u).busy = s.busy := rfl
@[simp] theorem State.modClu_net (u : Cluster → Cluster) : (s.modClu n u).net = s.net := rfl
@[simp] theorem State.modClu_retryStore (u : Cluster → Cluster) : (s.modClu n u).retryStore = s.retryStore := rfl
@[simp] theorem State.modClu_sendSeq (u : Cluster → Cluster) : (s.modClu n u).sendSeq = s.sendSeq := rfl
@[simp] theorem State.modClu_recvSeq (u : Cluster → Cluster) : (s.modClu n u).recvSeq = s.recvSeq := rfl
@[simp] theorem State.modClu_rsvs (u : Cluster → Cluster) : (s.modClu n u).rsvs = s.rsvs := rfl
@[simp] theorem State.modClu_redSets (u : Cluster → Cluster) : (s.modClu n u).redSets = s.redSets := rfl
@[simp] theorem State.modClu_ports (u : Cluster → Cluster) : (s.modClu n u).ports = s.ports := rfl
@[simp] theorem State.modClu_pkgs (u : Cluster → Cluster) : (s.modClu n u).pkgs = s.pkgs := rfl
@[simp] theorem State.modClu_dies (u : Cluster → Cluster) : (s.modClu n u).dies = s.dies := rfl
@[simp] theorem State.modClu_cores (u : Cluster → Cluster) : (s.modClu n u).cores = s.cores := rfl
@[simp] theorem State.modClu_parts (u : Cluster → Cluster) : (s.modClu n u).parts = s.parts := rfl
@[simp] theorem State.modClu_ctxs (u : Cluster → Cluster) : (s.modClu n u).ctxs = s.ctxs := rfl
@[simp] theorem State.modClu_kernels (u : Cluster → Cluster) : (s.modClu n u).kernels = s.kernels := rfl
@[simp] theorem State.modClu_starts (u : Cluster → Cluster) : (s.modClu n u).starts = s.starts := rfl
@[simp] theorem State.modClu_blocks (u : Cluster → Cluster) : (s.modClu n u).blocks = s.blocks := rfl
@[simp] theorem State.modClu_groups (u : Cluster → Cluster) : (s.modClu n u).groups = s.groups := rfl
@[simp] theorem State.modClu_grp_of (u : Cluster → Cluster) : (s.modClu n u).grp k = s.grp k := rfl
@[simp] theorem State.modClu_blk_of (u : Cluster → Cluster) : (s.modClu n u).blk k = s.blk k := rfl
@[simp] theorem State.modClu_krn_of (u : Cluster → Cluster) : (s.modClu n u).krn k = s.krn k := rfl
@[simp] theorem State.modClu_core_of (u : Cluster → Cluster) : (s.modClu n u).core k = s.core k := rfl
@[simp] theorem State.modClu_part_of (u : Cluster → Cluster) : (s.modClu n u).part k = s.part k := rfl
@[simp] theorem State.modClu_die_of (u : Cluster → Cluster) : (s.modClu n u).die k = s.die k := rfl
@[simp] theorem State.modClu_pkg_of (u : Cluster → Cluster) : (s.modClu n u).pkg k = s.pkg k := rfl
@[simp] theorem State.modClu_ctx_of (u : Cluster → Cluster) : (s.modClu n u).ctx k = s.ctx k := rfl
@[simp] theorem State.modClu_clu_same (u : Cluster → Cluster) : (s.modClu n u).clu n = u (s.clu n) := by simp [State.modClu, State.clu]
theorem State.modClu_clu_ne (u : Cluster → Cluster) (h : k ≠ n) : (s.modClu n u).clu k = s.clu k := by simp [State.modClu, State.clu, h]

/-! ## modCore -/

@[simp] theorem State.modCore_clock (u : Core → Core) : (s.modCore n u).clock = s.clock := rfl
@[simp] theorem State.modCore_inputs (u : Core → Core) : (s.modCore n u).inputs = s.inputs := rfl
@[simp] theorem State.modCore_turn (u : Core → Core) : (s.modCore n u).turn = s.turn := rfl
@[simp] theorem State.modCore_cur (u : Core → Core) : (s.modCore n u).cur = s.cur := rfl
@[simp] theorem State.modCore_probe (u : Core → Core) : (s.modCore n u).probe = s.probe := rfl
@[simp] theorem State.modCore_nextId (u : Core → Core) : (s.modCore n u).nextId = s.nextId := rfl
@[simp] theorem State.modCore_free (u : Core → Core) : (s.modCore n u).free = s.free := rfl
@[simp] theorem State.modCore_packages (u : Core → Core) : (s.modCore n u).packages = s.packages := rfl
@[simp] theorem State.modCore_podIndex (u : Core → Core) : (s.modCore n u).podIndex = s.podIndex := rfl
@[simp] theorem State.modCore_mem (u : Core → Core) : (s.modCore n u).mem = s.mem := rfl
@[simp] theorem State.modCore_cipher (u : Core → Core) : (s.modCore n u).cipher = s.cipher := rfl
@[simp] theorem State.modCore_badMem (u : Core → Core) : (s.modCore n u).badMem = s.badMem := rfl
@[simp] theorem State.modCore_l2 (u : Core → Core) : (s.modCore n u).l2 = s.l2 := rfl
@[simp] theorem State.modCore_victims (u : Core → Core) : (s.modCore n u).victims = s.victims := rfl
@[simp] theorem State.modCore_spent (u : Core → Core) : (s.modCore n u).spent = s.spent := rfl
@[simp] theorem State.modCore_dir (u : Core → Core) : (s.modCore n u).dir = s.dir := rfl
@[simp] theorem State.modCore_busy (u : Core → Core) : (s.modCore n u).busy = s.busy := rfl
@[simp] theorem State.modCore_net (u : Core → Core) : (s.modCore n u).net = s.net := rfl
@[simp] theorem State.modCore_retryStore (u : Core → Core) : (s.modCore n u).retryStore = s.retryStore := rfl
@[simp] theorem State.modCore_sendSeq (u : Core → Core) : (s.modCore n u).sendSeq = s.sendSeq := rfl
@[simp] theorem State.modCore_recvSeq (u : Core → Core) : (s.modCore n u).recvSeq = s.recvSeq := rfl
@[simp] theorem State.modCore_rsvs (u : Core → Core) : (s.modCore n u).rsvs = s.rsvs := rfl
@[simp] theorem State.modCore_redSets (u : Core → Core) : (s.modCore n u).redSets = s.redSets := rfl
@[simp] theorem State.modCore_ports (u : Core → Core) : (s.modCore n u).ports = s.ports := rfl
@[simp] theorem State.modCore_pkgs (u : Core → Core) : (s.modCore n u).pkgs = s.pkgs := rfl
@[simp] theorem State.modCore_dies (u : Core → Core) : (s.modCore n u).dies = s.dies := rfl
@[simp] theorem State.modCore_parts (u : Core → Core) : (s.modCore n u).parts = s.parts := rfl
@[simp] theorem State.modCore_ctxs (u : Core → Core) : (s.modCore n u).ctxs = s.ctxs := rfl
@[simp] theorem State.modCore_kernels (u : Core → Core) : (s.modCore n u).kernels = s.kernels := rfl
@[simp] theorem State.modCore_starts (u : Core → Core) : (s.modCore n u).starts = s.starts := rfl
@[simp] theorem State.modCore_clusters (u : Core → Core) : (s.modCore n u).clusters = s.clusters := rfl
@[simp] theorem State.modCore_blocks (u : Core → Core) : (s.modCore n u).blocks = s.blocks := rfl
@[simp] theorem State.modCore_groups (u : Core → Core) : (s.modCore n u).groups = s.groups := rfl
@[simp] theorem State.modCore_grp_of (u : Core → Core) : (s.modCore n u).grp k = s.grp k := rfl
@[simp] theorem State.modCore_blk_of (u : Core → Core) : (s.modCore n u).blk k = s.blk k := rfl
@[simp] theorem State.modCore_krn_of (u : Core → Core) : (s.modCore n u).krn k = s.krn k := rfl
@[simp] theorem State.modCore_clu_of (u : Core → Core) : (s.modCore n u).clu k = s.clu k := rfl
@[simp] theorem State.modCore_part_of (u : Core → Core) : (s.modCore n u).part k = s.part k := rfl
@[simp] theorem State.modCore_die_of (u : Core → Core) : (s.modCore n u).die k = s.die k := rfl
@[simp] theorem State.modCore_pkg_of (u : Core → Core) : (s.modCore n u).pkg k = s.pkg k := rfl
@[simp] theorem State.modCore_ctx_of (u : Core → Core) : (s.modCore n u).ctx k = s.ctx k := rfl
@[simp] theorem State.modCore_core_same (u : Core → Core) : (s.modCore n u).core n = u (s.core n) := by simp [State.modCore, State.core]
theorem State.modCore_core_ne (u : Core → Core) (h : k ≠ n) : (s.modCore n u).core k = s.core k := by simp [State.modCore, State.core, h]

/-! ## modPart -/

@[simp] theorem State.modPart_clock (u : Part → Part) : (s.modPart n u).clock = s.clock := rfl
@[simp] theorem State.modPart_inputs (u : Part → Part) : (s.modPart n u).inputs = s.inputs := rfl
@[simp] theorem State.modPart_turn (u : Part → Part) : (s.modPart n u).turn = s.turn := rfl
@[simp] theorem State.modPart_cur (u : Part → Part) : (s.modPart n u).cur = s.cur := rfl
@[simp] theorem State.modPart_probe (u : Part → Part) : (s.modPart n u).probe = s.probe := rfl
@[simp] theorem State.modPart_nextId (u : Part → Part) : (s.modPart n u).nextId = s.nextId := rfl
@[simp] theorem State.modPart_free (u : Part → Part) : (s.modPart n u).free = s.free := rfl
@[simp] theorem State.modPart_packages (u : Part → Part) : (s.modPart n u).packages = s.packages := rfl
@[simp] theorem State.modPart_podIndex (u : Part → Part) : (s.modPart n u).podIndex = s.podIndex := rfl
@[simp] theorem State.modPart_mem (u : Part → Part) : (s.modPart n u).mem = s.mem := rfl
@[simp] theorem State.modPart_cipher (u : Part → Part) : (s.modPart n u).cipher = s.cipher := rfl
@[simp] theorem State.modPart_badMem (u : Part → Part) : (s.modPart n u).badMem = s.badMem := rfl
@[simp] theorem State.modPart_l2 (u : Part → Part) : (s.modPart n u).l2 = s.l2 := rfl
@[simp] theorem State.modPart_victims (u : Part → Part) : (s.modPart n u).victims = s.victims := rfl
@[simp] theorem State.modPart_spent (u : Part → Part) : (s.modPart n u).spent = s.spent := rfl
@[simp] theorem State.modPart_dir (u : Part → Part) : (s.modPart n u).dir = s.dir := rfl
@[simp] theorem State.modPart_busy (u : Part → Part) : (s.modPart n u).busy = s.busy := rfl
@[simp] theorem State.modPart_net (u : Part → Part) : (s.modPart n u).net = s.net := rfl
@[simp] theorem State.modPart_retryStore (u : Part → Part) : (s.modPart n u).retryStore = s.retryStore := rfl
@[simp] theorem State.modPart_sendSeq (u : Part → Part) : (s.modPart n u).sendSeq = s.sendSeq := rfl
@[simp] theorem State.modPart_recvSeq (u : Part → Part) : (s.modPart n u).recvSeq = s.recvSeq := rfl
@[simp] theorem State.modPart_rsvs (u : Part → Part) : (s.modPart n u).rsvs = s.rsvs := rfl
@[simp] theorem State.modPart_redSets (u : Part → Part) : (s.modPart n u).redSets = s.redSets := rfl
@[simp] theorem State.modPart_ports (u : Part → Part) : (s.modPart n u).ports = s.ports := rfl
@[simp] theorem State.modPart_pkgs (u : Part → Part) : (s.modPart n u).pkgs = s.pkgs := rfl
@[simp] theorem State.modPart_dies (u : Part → Part) : (s.modPart n u).dies = s.dies := rfl
@[simp] theorem State.modPart_cores (u : Part → Part) : (s.modPart n u).cores = s.cores := rfl
@[simp] theorem State.modPart_ctxs (u : Part → Part) : (s.modPart n u).ctxs = s.ctxs := rfl
@[simp] theorem State.modPart_kernels (u : Part → Part) : (s.modPart n u).kernels = s.kernels := rfl
@[simp] theorem State.modPart_starts (u : Part → Part) : (s.modPart n u).starts = s.starts := rfl
@[simp] theorem State.modPart_clusters (u : Part → Part) : (s.modPart n u).clusters = s.clusters := rfl
@[simp] theorem State.modPart_blocks (u : Part → Part) : (s.modPart n u).blocks = s.blocks := rfl
@[simp] theorem State.modPart_groups (u : Part → Part) : (s.modPart n u).groups = s.groups := rfl
@[simp] theorem State.modPart_grp_of (u : Part → Part) : (s.modPart n u).grp k = s.grp k := rfl
@[simp] theorem State.modPart_blk_of (u : Part → Part) : (s.modPart n u).blk k = s.blk k := rfl
@[simp] theorem State.modPart_krn_of (u : Part → Part) : (s.modPart n u).krn k = s.krn k := rfl
@[simp] theorem State.modPart_clu_of (u : Part → Part) : (s.modPart n u).clu k = s.clu k := rfl
@[simp] theorem State.modPart_core_of (u : Part → Part) : (s.modPart n u).core k = s.core k := rfl
@[simp] theorem State.modPart_die_of (u : Part → Part) : (s.modPart n u).die k = s.die k := rfl
@[simp] theorem State.modPart_pkg_of (u : Part → Part) : (s.modPart n u).pkg k = s.pkg k := rfl
@[simp] theorem State.modPart_ctx_of (u : Part → Part) : (s.modPart n u).ctx k = s.ctx k := rfl
@[simp] theorem State.modPart_part_same (u : Part → Part) : (s.modPart n u).part n = u (s.part n) := by simp [State.modPart, State.part]
theorem State.modPart_part_ne (u : Part → Part) (h : k ≠ n) : (s.modPart n u).part k = s.part k := by simp [State.modPart, State.part, h]

/-! ## modDie -/

@[simp] theorem State.modDie_clock (u : Die → Die) : (s.modDie n u).clock = s.clock := rfl
@[simp] theorem State.modDie_inputs (u : Die → Die) : (s.modDie n u).inputs = s.inputs := rfl
@[simp] theorem State.modDie_turn (u : Die → Die) : (s.modDie n u).turn = s.turn := rfl
@[simp] theorem State.modDie_cur (u : Die → Die) : (s.modDie n u).cur = s.cur := rfl
@[simp] theorem State.modDie_probe (u : Die → Die) : (s.modDie n u).probe = s.probe := rfl
@[simp] theorem State.modDie_nextId (u : Die → Die) : (s.modDie n u).nextId = s.nextId := rfl
@[simp] theorem State.modDie_free (u : Die → Die) : (s.modDie n u).free = s.free := rfl
@[simp] theorem State.modDie_packages (u : Die → Die) : (s.modDie n u).packages = s.packages := rfl
@[simp] theorem State.modDie_podIndex (u : Die → Die) : (s.modDie n u).podIndex = s.podIndex := rfl
@[simp] theorem State.modDie_mem (u : Die → Die) : (s.modDie n u).mem = s.mem := rfl
@[simp] theorem State.modDie_cipher (u : Die → Die) : (s.modDie n u).cipher = s.cipher := rfl
@[simp] theorem State.modDie_badMem (u : Die → Die) : (s.modDie n u).badMem = s.badMem := rfl
@[simp] theorem State.modDie_l2 (u : Die → Die) : (s.modDie n u).l2 = s.l2 := rfl
@[simp] theorem State.modDie_victims (u : Die → Die) : (s.modDie n u).victims = s.victims := rfl
@[simp] theorem State.modDie_spent (u : Die → Die) : (s.modDie n u).spent = s.spent := rfl
@[simp] theorem State.modDie_dir (u : Die → Die) : (s.modDie n u).dir = s.dir := rfl
@[simp] theorem State.modDie_busy (u : Die → Die) : (s.modDie n u).busy = s.busy := rfl
@[simp] theorem State.modDie_net (u : Die → Die) : (s.modDie n u).net = s.net := rfl
@[simp] theorem State.modDie_retryStore (u : Die → Die) : (s.modDie n u).retryStore = s.retryStore := rfl
@[simp] theorem State.modDie_sendSeq (u : Die → Die) : (s.modDie n u).sendSeq = s.sendSeq := rfl
@[simp] theorem State.modDie_recvSeq (u : Die → Die) : (s.modDie n u).recvSeq = s.recvSeq := rfl
@[simp] theorem State.modDie_rsvs (u : Die → Die) : (s.modDie n u).rsvs = s.rsvs := rfl
@[simp] theorem State.modDie_redSets (u : Die → Die) : (s.modDie n u).redSets = s.redSets := rfl
@[simp] theorem State.modDie_ports (u : Die → Die) : (s.modDie n u).ports = s.ports := rfl
@[simp] theorem State.modDie_pkgs (u : Die → Die) : (s.modDie n u).pkgs = s.pkgs := rfl
@[simp] theorem State.modDie_cores (u : Die → Die) : (s.modDie n u).cores = s.cores := rfl
@[simp] theorem State.modDie_parts (u : Die → Die) : (s.modDie n u).parts = s.parts := rfl
@[simp] theorem State.modDie_ctxs (u : Die → Die) : (s.modDie n u).ctxs = s.ctxs := rfl
@[simp] theorem State.modDie_kernels (u : Die → Die) : (s.modDie n u).kernels = s.kernels := rfl
@[simp] theorem State.modDie_starts (u : Die → Die) : (s.modDie n u).starts = s.starts := rfl
@[simp] theorem State.modDie_clusters (u : Die → Die) : (s.modDie n u).clusters = s.clusters := rfl
@[simp] theorem State.modDie_blocks (u : Die → Die) : (s.modDie n u).blocks = s.blocks := rfl
@[simp] theorem State.modDie_groups (u : Die → Die) : (s.modDie n u).groups = s.groups := rfl
@[simp] theorem State.modDie_grp_of (u : Die → Die) : (s.modDie n u).grp k = s.grp k := rfl
@[simp] theorem State.modDie_blk_of (u : Die → Die) : (s.modDie n u).blk k = s.blk k := rfl
@[simp] theorem State.modDie_krn_of (u : Die → Die) : (s.modDie n u).krn k = s.krn k := rfl
@[simp] theorem State.modDie_clu_of (u : Die → Die) : (s.modDie n u).clu k = s.clu k := rfl
@[simp] theorem State.modDie_core_of (u : Die → Die) : (s.modDie n u).core k = s.core k := rfl
@[simp] theorem State.modDie_part_of (u : Die → Die) : (s.modDie n u).part k = s.part k := rfl
@[simp] theorem State.modDie_pkg_of (u : Die → Die) : (s.modDie n u).pkg k = s.pkg k := rfl
@[simp] theorem State.modDie_ctx_of (u : Die → Die) : (s.modDie n u).ctx k = s.ctx k := rfl
@[simp] theorem State.modDie_die_same (u : Die → Die) : (s.modDie n u).die n = u (s.die n) := by simp [State.modDie, State.die]
theorem State.modDie_die_ne (u : Die → Die) (h : k ≠ n) : (s.modDie n u).die k = s.die k := by simp [State.modDie, State.die, h]

/-! ## modPkg -/

@[simp] theorem State.modPkg_clock (u : Pkg → Pkg) : (s.modPkg n u).clock = s.clock := rfl
@[simp] theorem State.modPkg_inputs (u : Pkg → Pkg) : (s.modPkg n u).inputs = s.inputs := rfl
@[simp] theorem State.modPkg_turn (u : Pkg → Pkg) : (s.modPkg n u).turn = s.turn := rfl
@[simp] theorem State.modPkg_cur (u : Pkg → Pkg) : (s.modPkg n u).cur = s.cur := rfl
@[simp] theorem State.modPkg_probe (u : Pkg → Pkg) : (s.modPkg n u).probe = s.probe := rfl
@[simp] theorem State.modPkg_nextId (u : Pkg → Pkg) : (s.modPkg n u).nextId = s.nextId := rfl
@[simp] theorem State.modPkg_free (u : Pkg → Pkg) : (s.modPkg n u).free = s.free := rfl
@[simp] theorem State.modPkg_packages (u : Pkg → Pkg) : (s.modPkg n u).packages = s.packages := rfl
@[simp] theorem State.modPkg_podIndex (u : Pkg → Pkg) : (s.modPkg n u).podIndex = s.podIndex := rfl
@[simp] theorem State.modPkg_mem (u : Pkg → Pkg) : (s.modPkg n u).mem = s.mem := rfl
@[simp] theorem State.modPkg_cipher (u : Pkg → Pkg) : (s.modPkg n u).cipher = s.cipher := rfl
@[simp] theorem State.modPkg_badMem (u : Pkg → Pkg) : (s.modPkg n u).badMem = s.badMem := rfl
@[simp] theorem State.modPkg_l2 (u : Pkg → Pkg) : (s.modPkg n u).l2 = s.l2 := rfl
@[simp] theorem State.modPkg_victims (u : Pkg → Pkg) : (s.modPkg n u).victims = s.victims := rfl
@[simp] theorem State.modPkg_spent (u : Pkg → Pkg) : (s.modPkg n u).spent = s.spent := rfl
@[simp] theorem State.modPkg_dir (u : Pkg → Pkg) : (s.modPkg n u).dir = s.dir := rfl
@[simp] theorem State.modPkg_busy (u : Pkg → Pkg) : (s.modPkg n u).busy = s.busy := rfl
@[simp] theorem State.modPkg_net (u : Pkg → Pkg) : (s.modPkg n u).net = s.net := rfl
@[simp] theorem State.modPkg_retryStore (u : Pkg → Pkg) : (s.modPkg n u).retryStore = s.retryStore := rfl
@[simp] theorem State.modPkg_sendSeq (u : Pkg → Pkg) : (s.modPkg n u).sendSeq = s.sendSeq := rfl
@[simp] theorem State.modPkg_recvSeq (u : Pkg → Pkg) : (s.modPkg n u).recvSeq = s.recvSeq := rfl
@[simp] theorem State.modPkg_rsvs (u : Pkg → Pkg) : (s.modPkg n u).rsvs = s.rsvs := rfl
@[simp] theorem State.modPkg_redSets (u : Pkg → Pkg) : (s.modPkg n u).redSets = s.redSets := rfl
@[simp] theorem State.modPkg_ports (u : Pkg → Pkg) : (s.modPkg n u).ports = s.ports := rfl
@[simp] theorem State.modPkg_dies (u : Pkg → Pkg) : (s.modPkg n u).dies = s.dies := rfl
@[simp] theorem State.modPkg_cores (u : Pkg → Pkg) : (s.modPkg n u).cores = s.cores := rfl
@[simp] theorem State.modPkg_parts (u : Pkg → Pkg) : (s.modPkg n u).parts = s.parts := rfl
@[simp] theorem State.modPkg_ctxs (u : Pkg → Pkg) : (s.modPkg n u).ctxs = s.ctxs := rfl
@[simp] theorem State.modPkg_kernels (u : Pkg → Pkg) : (s.modPkg n u).kernels = s.kernels := rfl
@[simp] theorem State.modPkg_starts (u : Pkg → Pkg) : (s.modPkg n u).starts = s.starts := rfl
@[simp] theorem State.modPkg_clusters (u : Pkg → Pkg) : (s.modPkg n u).clusters = s.clusters := rfl
@[simp] theorem State.modPkg_blocks (u : Pkg → Pkg) : (s.modPkg n u).blocks = s.blocks := rfl
@[simp] theorem State.modPkg_groups (u : Pkg → Pkg) : (s.modPkg n u).groups = s.groups := rfl
@[simp] theorem State.modPkg_grp_of (u : Pkg → Pkg) : (s.modPkg n u).grp k = s.grp k := rfl
@[simp] theorem State.modPkg_blk_of (u : Pkg → Pkg) : (s.modPkg n u).blk k = s.blk k := rfl
@[simp] theorem State.modPkg_krn_of (u : Pkg → Pkg) : (s.modPkg n u).krn k = s.krn k := rfl
@[simp] theorem State.modPkg_clu_of (u : Pkg → Pkg) : (s.modPkg n u).clu k = s.clu k := rfl
@[simp] theorem State.modPkg_core_of (u : Pkg → Pkg) : (s.modPkg n u).core k = s.core k := rfl
@[simp] theorem State.modPkg_part_of (u : Pkg → Pkg) : (s.modPkg n u).part k = s.part k := rfl
@[simp] theorem State.modPkg_die_of (u : Pkg → Pkg) : (s.modPkg n u).die k = s.die k := rfl
@[simp] theorem State.modPkg_ctx_of (u : Pkg → Pkg) : (s.modPkg n u).ctx k = s.ctx k := rfl
@[simp] theorem State.modPkg_pkg_same (u : Pkg → Pkg) : (s.modPkg n u).pkg n = u (s.pkg n) := by simp [State.modPkg, State.pkg]
theorem State.modPkg_pkg_ne (u : Pkg → Pkg) (h : k ≠ n) : (s.modPkg n u).pkg k = s.pkg k := by simp [State.modPkg, State.pkg, h]

/-! ## modCtx -/

@[simp] theorem State.modCtx_clock (u : Ctx → Ctx) : (s.modCtx n u).clock = s.clock := rfl
@[simp] theorem State.modCtx_inputs (u : Ctx → Ctx) : (s.modCtx n u).inputs = s.inputs := rfl
@[simp] theorem State.modCtx_turn (u : Ctx → Ctx) : (s.modCtx n u).turn = s.turn := rfl
@[simp] theorem State.modCtx_cur (u : Ctx → Ctx) : (s.modCtx n u).cur = s.cur := rfl
@[simp] theorem State.modCtx_probe (u : Ctx → Ctx) : (s.modCtx n u).probe = s.probe := rfl
@[simp] theorem State.modCtx_nextId (u : Ctx → Ctx) : (s.modCtx n u).nextId = s.nextId := rfl
@[simp] theorem State.modCtx_free (u : Ctx → Ctx) : (s.modCtx n u).free = s.free := rfl
@[simp] theorem State.modCtx_packages (u : Ctx → Ctx) : (s.modCtx n u).packages = s.packages := rfl
@[simp] theorem State.modCtx_podIndex (u : Ctx → Ctx) : (s.modCtx n u).podIndex = s.podIndex := rfl
@[simp] theorem State.modCtx_mem (u : Ctx → Ctx) : (s.modCtx n u).mem = s.mem := rfl
@[simp] theorem State.modCtx_cipher (u : Ctx → Ctx) : (s.modCtx n u).cipher = s.cipher := rfl
@[simp] theorem State.modCtx_badMem (u : Ctx → Ctx) : (s.modCtx n u).badMem = s.badMem := rfl
@[simp] theorem State.modCtx_l2 (u : Ctx → Ctx) : (s.modCtx n u).l2 = s.l2 := rfl
@[simp] theorem State.modCtx_victims (u : Ctx → Ctx) : (s.modCtx n u).victims = s.victims := rfl
@[simp] theorem State.modCtx_spent (u : Ctx → Ctx) : (s.modCtx n u).spent = s.spent := rfl
@[simp] theorem State.modCtx_dir (u : Ctx → Ctx) : (s.modCtx n u).dir = s.dir := rfl
@[simp] theorem State.modCtx_busy (u : Ctx → Ctx) : (s.modCtx n u).busy = s.busy := rfl
@[simp] theorem State.modCtx_net (u : Ctx → Ctx) : (s.modCtx n u).net = s.net := rfl
@[simp] theorem State.modCtx_retryStore (u : Ctx → Ctx) : (s.modCtx n u).retryStore = s.retryStore := rfl
@[simp] theorem State.modCtx_sendSeq (u : Ctx → Ctx) : (s.modCtx n u).sendSeq = s.sendSeq := rfl
@[simp] theorem State.modCtx_recvSeq (u : Ctx → Ctx) : (s.modCtx n u).recvSeq = s.recvSeq := rfl
@[simp] theorem State.modCtx_rsvs (u : Ctx → Ctx) : (s.modCtx n u).rsvs = s.rsvs := rfl
@[simp] theorem State.modCtx_redSets (u : Ctx → Ctx) : (s.modCtx n u).redSets = s.redSets := rfl
@[simp] theorem State.modCtx_ports (u : Ctx → Ctx) : (s.modCtx n u).ports = s.ports := rfl
@[simp] theorem State.modCtx_pkgs (u : Ctx → Ctx) : (s.modCtx n u).pkgs = s.pkgs := rfl
@[simp] theorem State.modCtx_dies (u : Ctx → Ctx) : (s.modCtx n u).dies = s.dies := rfl
@[simp] theorem State.modCtx_cores (u : Ctx → Ctx) : (s.modCtx n u).cores = s.cores := rfl
@[simp] theorem State.modCtx_parts (u : Ctx → Ctx) : (s.modCtx n u).parts = s.parts := rfl
@[simp] theorem State.modCtx_kernels (u : Ctx → Ctx) : (s.modCtx n u).kernels = s.kernels := rfl
@[simp] theorem State.modCtx_starts (u : Ctx → Ctx) : (s.modCtx n u).starts = s.starts := rfl
@[simp] theorem State.modCtx_clusters (u : Ctx → Ctx) : (s.modCtx n u).clusters = s.clusters := rfl
@[simp] theorem State.modCtx_blocks (u : Ctx → Ctx) : (s.modCtx n u).blocks = s.blocks := rfl
@[simp] theorem State.modCtx_groups (u : Ctx → Ctx) : (s.modCtx n u).groups = s.groups := rfl
@[simp] theorem State.modCtx_grp_of (u : Ctx → Ctx) : (s.modCtx n u).grp k = s.grp k := rfl
@[simp] theorem State.modCtx_blk_of (u : Ctx → Ctx) : (s.modCtx n u).blk k = s.blk k := rfl
@[simp] theorem State.modCtx_krn_of (u : Ctx → Ctx) : (s.modCtx n u).krn k = s.krn k := rfl
@[simp] theorem State.modCtx_clu_of (u : Ctx → Ctx) : (s.modCtx n u).clu k = s.clu k := rfl
@[simp] theorem State.modCtx_core_of (u : Ctx → Ctx) : (s.modCtx n u).core k = s.core k := rfl
@[simp] theorem State.modCtx_part_of (u : Ctx → Ctx) : (s.modCtx n u).part k = s.part k := rfl
@[simp] theorem State.modCtx_die_of (u : Ctx → Ctx) : (s.modCtx n u).die k = s.die k := rfl
@[simp] theorem State.modCtx_pkg_of (u : Ctx → Ctx) : (s.modCtx n u).pkg k = s.pkg k := rfl
@[simp] theorem State.modCtx_ctx_same (u : Ctx → Ctx) : (s.modCtx n u).ctx n = u (s.ctx n) := by simp [State.modCtx, State.ctx]
theorem State.modCtx_ctx_ne (u : Ctx → Ctx) (h : k ≠ n) : (s.modCtx n u).ctx k = s.ctx k := by simp [State.modCtx, State.ctx, h]

/-! ## The current group -/

@[simp] theorem State.modMe_clock (u : Group → Group) : (s.modMe u).clock = s.clock := rfl
@[simp] theorem State.modMe_inputs (u : Group → Group) : (s.modMe u).inputs = s.inputs := rfl
@[simp] theorem State.modMe_turn (u : Group → Group) : (s.modMe u).turn = s.turn := rfl
@[simp] theorem State.modMe_cur (u : Group → Group) : (s.modMe u).cur = s.cur := rfl
@[simp] theorem State.modMe_probe (u : Group → Group) : (s.modMe u).probe = s.probe := rfl
@[simp] theorem State.modMe_nextId (u : Group → Group) : (s.modMe u).nextId = s.nextId := rfl
@[simp] theorem State.modMe_free (u : Group → Group) : (s.modMe u).free = s.free := rfl
@[simp] theorem State.modMe_packages (u : Group → Group) : (s.modMe u).packages = s.packages := rfl
@[simp] theorem State.modMe_podIndex (u : Group → Group) : (s.modMe u).podIndex = s.podIndex := rfl
@[simp] theorem State.modMe_mem (u : Group → Group) : (s.modMe u).mem = s.mem := rfl
@[simp] theorem State.modMe_cipher (u : Group → Group) : (s.modMe u).cipher = s.cipher := rfl
@[simp] theorem State.modMe_badMem (u : Group → Group) : (s.modMe u).badMem = s.badMem := rfl
@[simp] theorem State.modMe_l2 (u : Group → Group) : (s.modMe u).l2 = s.l2 := rfl
@[simp] theorem State.modMe_victims (u : Group → Group) : (s.modMe u).victims = s.victims := rfl
@[simp] theorem State.modMe_spent (u : Group → Group) : (s.modMe u).spent = s.spent := rfl
@[simp] theorem State.modMe_dir (u : Group → Group) : (s.modMe u).dir = s.dir := rfl
@[simp] theorem State.modMe_busy (u : Group → Group) : (s.modMe u).busy = s.busy := rfl
@[simp] theorem State.modMe_net (u : Group → Group) : (s.modMe u).net = s.net := rfl
@[simp] theorem State.modMe_retryStore (u : Group → Group) : (s.modMe u).retryStore = s.retryStore := rfl
@[simp] theorem State.modMe_sendSeq (u : Group → Group) : (s.modMe u).sendSeq = s.sendSeq := rfl
@[simp] theorem State.modMe_recvSeq (u : Group → Group) : (s.modMe u).recvSeq = s.recvSeq := rfl
@[simp] theorem State.modMe_rsvs (u : Group → Group) : (s.modMe u).rsvs = s.rsvs := rfl
@[simp] theorem State.modMe_redSets (u : Group → Group) : (s.modMe u).redSets = s.redSets := rfl
@[simp] theorem State.modMe_ports (u : Group → Group) : (s.modMe u).ports = s.ports := rfl
@[simp] theorem State.modMe_pkgs (u : Group → Group) : (s.modMe u).pkgs = s.pkgs := rfl
@[simp] theorem State.modMe_dies (u : Group → Group) : (s.modMe u).dies = s.dies := rfl
@[simp] theorem State.modMe_cores (u : Group → Group) : (s.modMe u).cores = s.cores := rfl
@[simp] theorem State.modMe_parts (u : Group → Group) : (s.modMe u).parts = s.parts := rfl
@[simp] theorem State.modMe_ctxs (u : Group → Group) : (s.modMe u).ctxs = s.ctxs := rfl
@[simp] theorem State.modMe_kernels (u : Group → Group) : (s.modMe u).kernels = s.kernels := rfl
@[simp] theorem State.modMe_starts (u : Group → Group) : (s.modMe u).starts = s.starts := rfl
@[simp] theorem State.modMe_clusters (u : Group → Group) : (s.modMe u).clusters = s.clusters := rfl
@[simp] theorem State.modMe_blocks (u : Group → Group) : (s.modMe u).blocks = s.blocks := rfl
@[simp] theorem State.modMe_blk_of (u : Group → Group) : (s.modMe u).blk k = s.blk k := rfl
@[simp] theorem State.modMe_krn_of (u : Group → Group) : (s.modMe u).krn k = s.krn k := rfl
@[simp] theorem State.modMe_clu_of (u : Group → Group) : (s.modMe u).clu k = s.clu k := rfl
@[simp] theorem State.modMe_core_of (u : Group → Group) : (s.modMe u).core k = s.core k := rfl
@[simp] theorem State.modMe_part_of (u : Group → Group) : (s.modMe u).part k = s.part k := rfl
@[simp] theorem State.modMe_die_of (u : Group → Group) : (s.modMe u).die k = s.die k := rfl
@[simp] theorem State.modMe_pkg_of (u : Group → Group) : (s.modMe u).pkg k = s.pkg k := rfl
@[simp] theorem State.modMe_ctx_of (u : Group → Group) : (s.modMe u).ctx k = s.ctx k := rfl
@[simp] theorem State.modMe_me (u : Group → Group) : (s.modMe u).me = u s.me := by simp [State.modMe, State.me]
theorem State.modMe_grp_ne (u : Group → Group) (h : k ≠ s.cur) : (s.modMe u).grp k = s.grp k := by simp [State.modMe, State.modGrp_grp_ne, h]

/-! ## Issue -/

@[simp] theorem State.issue_clock (c : Ctl) (d : Option Nat) (w : List RegWr) : (s.issue c d w).clock = s.clock := rfl
@[simp] theorem State.issue_inputs (c : Ctl) (d : Option Nat) (w : List RegWr) : (s.issue c d w).inputs = s.inputs := rfl
@[simp] theorem State.issue_turn (c : Ctl) (d : Option Nat) (w : List RegWr) : (s.issue c d w).turn = s.turn := rfl
@[simp] theorem State.issue_cur (c : Ctl) (d : Option Nat) (w : List RegWr) : (s.issue c d w).cur = s.cur := rfl
@[simp] theorem State.issue_probe (c : Ctl) (d : Option Nat) (w : List RegWr) : (s.issue c d w).probe = s.probe := rfl
@[simp] theorem State.issue_free (c : Ctl) (d : Option Nat) (w : List RegWr) : (s.issue c d w).free = s.free := rfl
@[simp] theorem State.issue_packages (c : Ctl) (d : Option Nat) (w : List RegWr) : (s.issue c d w).packages = s.packages := rfl
@[simp] theorem State.issue_podIndex (c : Ctl) (d : Option Nat) (w : List RegWr) : (s.issue c d w).podIndex = s.podIndex := rfl
@[simp] theorem State.issue_mem (c : Ctl) (d : Option Nat) (w : List RegWr) : (s.issue c d w).mem = s.mem := rfl
@[simp] theorem State.issue_cipher (c : Ctl) (d : Option Nat) (w : List RegWr) : (s.issue c d w).cipher = s.cipher := rfl
@[simp] theorem State.issue_badMem (c : Ctl) (d : Option Nat) (w : List RegWr) : (s.issue c d w).badMem = s.badMem := rfl
@[simp] theorem State.issue_l2 (c : Ctl) (d : Option Nat) (w : List RegWr) : (s.issue c d w).l2 = s.l2 := rfl
@[simp] theorem State.issue_victims (c : Ctl) (d : Option Nat) (w : List RegWr) : (s.issue c d w).victims = s.victims := rfl
@[simp] theorem State.issue_spent (c : Ctl) (d : Option Nat) (w : List RegWr) : (s.issue c d w).spent = s.spent := rfl
@[simp] theorem State.issue_dir (c : Ctl) (d : Option Nat) (w : List RegWr) : (s.issue c d w).dir = s.dir := rfl
@[simp] theorem State.issue_busy (c : Ctl) (d : Option Nat) (w : List RegWr) : (s.issue c d w).busy = s.busy := rfl
@[simp] theorem State.issue_net (c : Ctl) (d : Option Nat) (w : List RegWr) : (s.issue c d w).net = s.net := rfl
@[simp] theorem State.issue_retryStore (c : Ctl) (d : Option Nat) (w : List RegWr) : (s.issue c d w).retryStore = s.retryStore := rfl
@[simp] theorem State.issue_sendSeq (c : Ctl) (d : Option Nat) (w : List RegWr) : (s.issue c d w).sendSeq = s.sendSeq := rfl
@[simp] theorem State.issue_recvSeq (c : Ctl) (d : Option Nat) (w : List RegWr) : (s.issue c d w).recvSeq = s.recvSeq := rfl
@[simp] theorem State.issue_rsvs (c : Ctl) (d : Option Nat) (w : List RegWr) : (s.issue c d w).rsvs = s.rsvs := rfl
@[simp] theorem State.issue_redSets (c : Ctl) (d : Option Nat) (w : List RegWr) : (s.issue c d w).redSets = s.redSets := rfl
@[simp] theorem State.issue_ports (c : Ctl) (d : Option Nat) (w : List RegWr) : (s.issue c d w).ports = s.ports := rfl
@[simp] theorem State.issue_pkgs (c : Ctl) (d : Option Nat) (w : List RegWr) : (s.issue c d w).pkgs = s.pkgs := rfl
@[simp] theorem State.issue_dies (c : Ctl) (d : Option Nat) (w : List RegWr) : (s.issue c d w).dies = s.dies := rfl
@[simp] theorem State.issue_cores (c : Ctl) (d : Option Nat) (w : List RegWr) : (s.issue c d w).cores = s.cores := rfl
@[simp] theorem State.issue_parts (c : Ctl) (d : Option Nat) (w : List RegWr) : (s.issue c d w).parts = s.parts := rfl
@[simp] theorem State.issue_ctxs (c : Ctl) (d : Option Nat) (w : List RegWr) : (s.issue c d w).ctxs = s.ctxs := rfl
@[simp] theorem State.issue_kernels (c : Ctl) (d : Option Nat) (w : List RegWr) : (s.issue c d w).kernels = s.kernels := rfl
@[simp] theorem State.issue_starts (c : Ctl) (d : Option Nat) (w : List RegWr) : (s.issue c d w).starts = s.starts := rfl
@[simp] theorem State.issue_clusters (c : Ctl) (d : Option Nat) (w : List RegWr) : (s.issue c d w).clusters = s.clusters := rfl
@[simp] theorem State.issue_blocks (c : Ctl) (d : Option Nat) (w : List RegWr) : (s.issue c d w).blocks = s.blocks := rfl
@[simp] theorem State.issue_blk_of (c : Ctl) (d : Option Nat) (w : List RegWr) : (s.issue c d w).blk k = s.blk k := rfl
@[simp] theorem State.issue_krn_of (c : Ctl) (d : Option Nat) (w : List RegWr) : (s.issue c d w).krn k = s.krn k := rfl
@[simp] theorem State.issue_clu_of (c : Ctl) (d : Option Nat) (w : List RegWr) : (s.issue c d w).clu k = s.clu k := rfl
@[simp] theorem State.issue_core_of (c : Ctl) (d : Option Nat) (w : List RegWr) : (s.issue c d w).core k = s.core k := rfl
@[simp] theorem State.issue_part_of (c : Ctl) (d : Option Nat) (w : List RegWr) : (s.issue c d w).part k = s.part k := rfl
@[simp] theorem State.issue_die_of (c : Ctl) (d : Option Nat) (w : List RegWr) : (s.issue c d w).die k = s.die k := rfl
@[simp] theorem State.issue_pkg_of (c : Ctl) (d : Option Nat) (w : List RegWr) : (s.issue c d w).pkg k = s.pkg k := rfl
@[simp] theorem State.issue_ctx_of (c : Ctl) (d : Option Nat) (w : List RegWr) : (s.issue c d w).ctx k = s.ctx k := rfl
theorem State.issue_grp_ne (c : Ctl) (d : Option Nat) (w : List RegWr) (h : k ≠ s.cur) : (s.issue c d w).grp k = s.grp k := by
  simp [State.issue, State.grp, State.modGrp, h]

/-! ## Register writes of a group -/

variable (g : Group)

@[simp] theorem Group.wg_ctx (x : W32) : (g.wg n x).ctx = g.ctx := rfl
@[simp] theorem Group.wg_block (x : W32) : (g.wg n x).block = g.block := rfl
@[simp] theorem Group.wg_idx (x : W32) : (g.wg n x).idx = g.idx := rfl
@[simp] theorem Group.wg_rank (x : W32) : (g.wg n x).rank = g.rank := rfl
@[simp] theorem Group.wg_part (x : W32) : (g.wg n x).part = g.part := rfl
@[simp] theorem Group.wg_slot (x : W32) : (g.wg n x).slot = g.slot := rfl
@[simp] theorem Group.wg_startAt (x : W32) : (g.wg n x).startAt = g.startAt := rfl
@[simp] theorem Group.wg_stop (x : W32) : (g.wg n x).stop = g.stop := rfl
@[simp] theorem Group.wg_waiting (x : W32) : (g.wg n x).waiting = g.waiting := rfl
@[simp] theorem Group.wg_pc (x : W32) : (g.wg n x).pc = g.pc := rfl
@[simp] theorem Group.wg_nv (x : W32) : (g.wg n x).nv = g.nv := rfl
@[simp] theorem Group.wg_v (x : W32) : (g.wg n x).v = g.v := rfl
@[simp] theorem Group.wg_p (x : W32) : (g.wg n x).p = g.p := rfl
@[simp] theorem Group.wg_q (x : W32) : (g.wg n x).q = g.q := rfl
@[simp] theorem Group.wg_k (x : W32) : (g.wg n x).k = g.k := rfl
@[simp] theorem Group.wg_fmt (x : W32) : (g.wg n x).fmt = g.fmt := rfl
@[simp] theorem Group.wg_am (x : W32) : (g.wg n x).am = g.am := rfl
@[simp] theorem Group.wg_xm (x : W32) : (g.wg n x).xm = g.xm := rfl
@[simp] theorem Group.wg_stack (x : W32) : (g.wg n x).stack = g.stack := rfl
@[simp] theorem Group.wg_sc (x : W32) : (g.wg n x).sc = g.sc := rfl
@[simp] theorem Group.wg_nest (x : W32) : (g.wg n x).nest = g.nest := rfl
@[simp] theorem Group.wg_astat (x : W32) : (g.wg n x).astat = g.astat := rfl
@[simp] theorem Group.wg_trap (x : W32) : (g.wg n x).trap = g.trap := rfl
@[simp] theorem Group.wg_ddp (x : W32) : (g.wg n x).ddp = g.ddp := rfl
@[simp] theorem Group.wg_fstat (x : W32) : (g.wg n x).fstat = g.fstat := rfl
@[simp] theorem Group.wg_fpc (x : W32) : (g.wg n x).fpc = g.fpc := rfl
@[simp] theorem Group.wg_badV (x : W32) : (g.wg n x).badV = g.badV := rfl
@[simp] theorem Group.wg_badP (x : W32) : (g.wg n x).badP = g.badP := rfl
@[simp] theorem Group.wg_inHandler (x : W32) : (g.wg n x).inHandler = g.inHandler := rfl
@[simp] theorem Group.wg_hadHandler (x : W32) : (g.wg n x).hadHandler = g.hadHandler := rfl
@[simp] theorem Group.wg_afterEnd (x : W32) : (g.wg n x).afterEnd = g.afterEnd := rfl
@[simp] theorem Group.wg_pend (x : W32) : (g.wg n x).pend = g.pend := rfl
@[simp] theorem Group.wg_acc (x : W32) : (g.wg n x).acc = g.acc := rfl
@[simp] theorem Group.wg_hold (x : W32) : (g.wg n x).hold = g.hold := rfl
@[simp] theorem Group.wg_hold2 (x : W32) : (g.wg n x).hold2 = g.hold2 := rfl
@[simp] theorem Group.wg_fence (x : W32) : (g.wg n x).fence = g.fence := rfl
@[simp] theorem Group.wg_chain (x : W32) : (g.wg n x).chain = g.chain := rfl
@[simp] theorem Group.wg_packet (x : W32) : (g.wg n x).packet = g.packet := rfl
@[simp] theorem Group.wg_fetches (x : W32) : (g.wg n x).fetches = g.fetches := rfl
@[simp] theorem Group.wg_lastIssue (x : W32) : (g.wg n x).lastIssue = g.lastIssue := rfl
@[simp] theorem Group.wg_fresh (x : W32) : (g.wg n x).fresh = g.fresh := rfl
@[simp] theorem Group.wg_waitFrom (x : W32) : (g.wg n x).waitFrom = g.waitFrom := rfl
@[simp] theorem Group.wg_pfx (x : W32) : (g.wg n x).pfx = g.pfx := rfl
@[simp] theorem Group.wg_openSets (x : W32) : (g.wg n x).openSets = g.openSets := rfl
@[simp] theorem Group.wg_batches (x : W32) : (g.wg n x).batches = g.batches := rfl
@[simp] theorem Group.wg_gk (x : W32) : (g.wg n x).gk = g.gk := rfl
@[simp] theorem Group.wg_gpos (x : W32) : (g.wg n x).gpos = g.gpos := rfl
@[simp] theorem Group.wg_gsid (x : W32) : (g.wg n x).gsid = g.gsid := rfl
@[simp] theorem Group.wg_gnext (x : W32) : (g.wg n x).gnext = g.gnext := rfl
@[simp] theorem Group.wg_rdcnt (x : W32) : (g.wg n x).rdcnt = g.rdcnt := rfl
@[simp] theorem Group.wg_detCount (x : W32) : (g.wg n x).detCount = g.detCount := rfl
@[simp] theorem Group.wg_quantum (x : W32) : (g.wg n x).quantum = g.quantum := rfl
@[simp] theorem Group.wg_early (x : W32) : (g.wg n x).early = g.early := rfl
@[simp] theorem Group.wg_qRound (x : W32) : (g.wg n x).qRound = g.qRound := rfl
@[simp] theorem Group.wg_detHold (x : W32) : (g.wg n x).detHold = g.detHold := rfl
@[simp] theorem Group.wg_detBuf (x : W32) : (g.wg n x).detBuf = g.detBuf := rfl
@[simp] theorem Group.wv_ctx (x : W32) (b : Bool) : (g.wv n k x b).ctx = g.ctx := rfl
@[simp] theorem Group.wv_block (x : W32) (b : Bool) : (g.wv n k x b).block = g.block := rfl
@[simp] theorem Group.wv_idx (x : W32) (b : Bool) : (g.wv n k x b).idx = g.idx := rfl
@[simp] theorem Group.wv_rank (x : W32) (b : Bool) : (g.wv n k x b).rank = g.rank := rfl
@[simp] theorem Group.wv_part (x : W32) (b : Bool) : (g.wv n k x b).part = g.part := rfl
@[simp] theorem Group.wv_slot (x : W32) (b : Bool) : (g.wv n k x b).slot = g.slot := rfl
@[simp] theorem Group.wv_startAt (x : W32) (b : Bool) : (g.wv n k x b).startAt = g.startAt := rfl
@[simp] theorem Group.wv_stop (x : W32) (b : Bool) : (g.wv n k x b).stop = g.stop := rfl
@[simp] theorem Group.wv_waiting (x : W32) (b : Bool) : (g.wv n k x b).waiting = g.waiting := rfl
@[simp] theorem Group.wv_pc (x : W32) (b : Bool) : (g.wv n k x b).pc = g.pc := rfl
@[simp] theorem Group.wv_nv (x : W32) (b : Bool) : (g.wv n k x b).nv = g.nv := rfl
@[simp] theorem Group.wv_g (x : W32) (b : Bool) : (g.wv n k x b).g = g.g := rfl
@[simp] theorem Group.wv_p (x : W32) (b : Bool) : (g.wv n k x b).p = g.p := rfl
@[simp] theorem Group.wv_q (x : W32) (b : Bool) : (g.wv n k x b).q = g.q := rfl
@[simp] theorem Group.wv_k (x : W32) (b : Bool) : (g.wv n k x b).k = g.k := rfl
@[simp] theorem Group.wv_fmt (x : W32) (b : Bool) : (g.wv n k x b).fmt = g.fmt := rfl
@[simp] theorem Group.wv_am (x : W32) (b : Bool) : (g.wv n k x b).am = g.am := rfl
@[simp] theorem Group.wv_xm (x : W32) (b : Bool) : (g.wv n k x b).xm = g.xm := rfl
@[simp] theorem Group.wv_stack (x : W32) (b : Bool) : (g.wv n k x b).stack = g.stack := rfl
@[simp] theorem Group.wv_sc (x : W32) (b : Bool) : (g.wv n k x b).sc = g.sc := rfl
@[simp] theorem Group.wv_nest (x : W32) (b : Bool) : (g.wv n k x b).nest = g.nest := rfl
@[simp] theorem Group.wv_astat (x : W32) (b : Bool) : (g.wv n k x b).astat = g.astat := rfl
@[simp] theorem Group.wv_trap (x : W32) (b : Bool) : (g.wv n k x b).trap = g.trap := rfl
@[simp] theorem Group.wv_ddp (x : W32) (b : Bool) : (g.wv n k x b).ddp = g.ddp := rfl
@[simp] theorem Group.wv_fstat (x : W32) (b : Bool) : (g.wv n k x b).fstat = g.fstat := rfl
@[simp] theorem Group.wv_fpc (x : W32) (b : Bool) : (g.wv n k x b).fpc = g.fpc := rfl
@[simp] theorem Group.wv_badG (x : W32) (b : Bool) : (g.wv n k x b).badG = g.badG := rfl
@[simp] theorem Group.wv_badP (x : W32) (b : Bool) : (g.wv n k x b).badP = g.badP := rfl
@[simp] theorem Group.wv_inHandler (x : W32) (b : Bool) : (g.wv n k x b).inHandler = g.inHandler := rfl
@[simp] theorem Group.wv_hadHandler (x : W32) (b : Bool) : (g.wv n k x b).hadHandler = g.hadHandler := rfl
@[simp] theorem Group.wv_afterEnd (x : W32) (b : Bool) : (g.wv n k x b).afterEnd = g.afterEnd := rfl
@[simp] theorem Group.wv_pend (x : W32) (b : Bool) : (g.wv n k x b).pend = g.pend := rfl
@[simp] theorem Group.wv_acc (x : W32) (b : Bool) : (g.wv n k x b).acc = g.acc := rfl
@[simp] theorem Group.wv_hold (x : W32) (b : Bool) : (g.wv n k x b).hold = g.hold := rfl
@[simp] theorem Group.wv_hold2 (x : W32) (b : Bool) : (g.wv n k x b).hold2 = g.hold2 := rfl
@[simp] theorem Group.wv_fence (x : W32) (b : Bool) : (g.wv n k x b).fence = g.fence := rfl
@[simp] theorem Group.wv_chain (x : W32) (b : Bool) : (g.wv n k x b).chain = g.chain := rfl
@[simp] theorem Group.wv_packet (x : W32) (b : Bool) : (g.wv n k x b).packet = g.packet := rfl
@[simp] theorem Group.wv_fetches (x : W32) (b : Bool) : (g.wv n k x b).fetches = g.fetches := rfl
@[simp] theorem Group.wv_lastIssue (x : W32) (b : Bool) : (g.wv n k x b).lastIssue = g.lastIssue := rfl
@[simp] theorem Group.wv_fresh (x : W32) (b : Bool) : (g.wv n k x b).fresh = g.fresh := rfl
@[simp] theorem Group.wv_waitFrom (x : W32) (b : Bool) : (g.wv n k x b).waitFrom = g.waitFrom := rfl
@[simp] theorem Group.wv_pfx (x : W32) (b : Bool) : (g.wv n k x b).pfx = g.pfx := rfl
@[simp] theorem Group.wv_openSets (x : W32) (b : Bool) : (g.wv n k x b).openSets = g.openSets := rfl
@[simp] theorem Group.wv_batches (x : W32) (b : Bool) : (g.wv n k x b).batches = g.batches := rfl
@[simp] theorem Group.wv_gk (x : W32) (b : Bool) : (g.wv n k x b).gk = g.gk := rfl
@[simp] theorem Group.wv_gpos (x : W32) (b : Bool) : (g.wv n k x b).gpos = g.gpos := rfl
@[simp] theorem Group.wv_gsid (x : W32) (b : Bool) : (g.wv n k x b).gsid = g.gsid := rfl
@[simp] theorem Group.wv_gnext (x : W32) (b : Bool) : (g.wv n k x b).gnext = g.gnext := rfl
@[simp] theorem Group.wv_rdcnt (x : W32) (b : Bool) : (g.wv n k x b).rdcnt = g.rdcnt := rfl
@[simp] theorem Group.wv_detCount (x : W32) (b : Bool) : (g.wv n k x b).detCount = g.detCount := rfl
@[simp] theorem Group.wv_quantum (x : W32) (b : Bool) : (g.wv n k x b).quantum = g.quantum := rfl
@[simp] theorem Group.wv_early (x : W32) (b : Bool) : (g.wv n k x b).early = g.early := rfl
@[simp] theorem Group.wv_qRound (x : W32) (b : Bool) : (g.wv n k x b).qRound = g.qRound := rfl
@[simp] theorem Group.wv_detHold (x : W32) (b : Bool) : (g.wv n k x b).detHold = g.detHold := rfl
@[simp] theorem Group.wv_detBuf (x : W32) (b : Bool) : (g.wv n k x b).detBuf = g.detBuf := rfl

@[simp] theorem Group.wg_rg_same (x : W32) : (g.wg n x).rg n = x := by simp [Group.wg, Group.rg]
theorem Group.wg_rg_ne (x : W32) (h : k ≠ n) : (g.wg n x).rg k = g.rg k := by simp [Group.wg, Group.rg, h]
@[simp] theorem Group.wv_rv_same (x : W32) (b : Bool) : (g.wv n k x b).rv n k = x := by simp [Group.wv, Group.rv]
theorem Group.wv_rv_ne (x : W32) (b : Bool) (n2 k2 : Nat) (h : 32 * n2 + k2 ≠ 32 * n + k) : (g.wv n k x b).rv n2 k2 = g.rv n2 k2 := by
  simp [Group.wv, Group.rv, h]
@[simp] theorem Group.rq_seven : g.rq 7 = true := by simp [Group.rq]
@[simp] theorem Group.pm_seven : g.pm 7 = 0xFFFFFFFF := by simp [Group.pm]
@[simp] theorem Group.wq_seven (b : Bool) : g.wq 7 b = g := by simp [Group.wq]
@[simp] theorem Group.wp_seven (b : Bool) : g.wp 7 k b = g := by simp [Group.wp]

end Sys2Proof.Machine
end

