-- ==== Sys2Proof/Laws/Mem.lean ====
section
/-!
SUPPORT. What the coherent accesses of Machine/Mem.lean do to the rest of the machine: each keeps the canonical form of memory, and changes
nothing but storage, copies, directory and messages.
-/
namespace Sys2Proof.Machine

/-- Nothing outside memory, its copies and its messages differs: no group, block, kernel, cluster, context, partition, package or port, and of the
machine's own counters none. -/
structure SameMachine (s u : State) : Prop where
  clock : u.clock = s.clock
  inputs : u.inputs = s.inputs
  turn : u.turn = s.turn
  cur : u.cur = s.cur
  probe : u.probe = s.probe
  nextId : u.nextId = s.nextId
  free : u.free = s.free
  packages : u.packages = s.packages
  podIndex : u.podIndex = s.podIndex
  sendSeq : u.sendSeq = s.sendSeq
  recvSeq : u.recvSeq = s.recvSeq
  rsvs : u.rsvs = s.rsvs
  redSets : u.redSets = s.redSets
  ports : u.ports = s.ports
  pkgs : u.pkgs = s.pkgs
  parts : u.parts = s.parts
  ctxs : u.ctxs = s.ctxs
  kernels : u.kernels = s.kernels
  starts : u.starts = s.starts
  clusters : u.clusters = s.clusters
  blocks : u.blocks = s.blocks
  groups : u.groups = s.groups

theorem SameMachine.refl (s : State) : SameMachine s s := by constructor <;> rfl

theorem SameMachine.trans {s u v : State} (a : SameMachine s u) (b : SameMachine u v) : SameMachine s v := by
  constructor <;> first
    | exact b.clock.trans a.clock | exact b.inputs.trans a.inputs | exact b.turn.trans a.turn | exact b.cur.trans a.cur
    | exact b.probe.trans a.probe | exact b.nextId.trans a.nextId | exact b.free.trans a.free | exact b.packages.trans a.packages
    | exact b.podIndex.trans a.podIndex | exact b.sendSeq.trans a.sendSeq | exact b.recvSeq.trans a.recvSeq | exact b.rsvs.trans a.rsvs
    | exact b.redSets.trans a.redSets | exact b.ports.trans a.ports | exact b.pkgs.trans a.pkgs | exact b.parts.trans a.parts
    | exact b.ctxs.trans a.ctxs | exact b.kernels.trans a.kernels | exact b.starts.trans a.starts | exact b.clusters.trans a.clusters
    | exact b.blocks.trans a.blocks | exact b.groups.trans a.groups

/-- What an access to memory may do: it keeps the canonical form and the rest of the machine. -/
structure MemStep (s u : State) : Prop where
  work : SameMachine s u
  wf : Memory.wf s.mem = true → Memory.wf u.mem = true

theorem MemStep.refl (s : State) : MemStep s s := ⟨.refl s, id⟩

theorem MemStep.trans {s u v : State} (a : MemStep s u) (b : MemStep u v) : MemStep s v := ⟨a.work.trans b.work, b.wf ∘ a.wf⟩

/-- Where memory itself stays, only the rest is to be looked at. -/
theorem MemStep.of_mem {s u : State} (h : u.mem = s.mem) (w : SameMachine s u) : MemStep s u := ⟨w, fun k => h ▸ k⟩

theorem MemStep.foldl {A : Type} (f : State → A → State) (hf : ∀ s a, MemStep s (f s a)) (l : List A) (s : State) : MemStep s (l.foldl f s) := by
  induction l generalizing s with
  | nil => exact .refl s
  | cons a l ih => exact (hf s a).trans (ih (f s a))

theorem memStep_dramWrite (s : State) (pa key : Nat) (bs : List Byte) : MemStep s (dramWrite s pa key bs) where
  work := by
    unfold dramWrite
    constructor <;> (dsimp only; split <;> rfl)
  wf := wf_dramWrite s pa key bs

theorem memStep_dramWriteAll (s : State) (key : Nat) (cs : List (Nat × Byte)) : MemStep s (dramWriteAll s key cs) :=
  MemStep.foldl _ (fun s _ => memStep_dramWrite s _ key _) cs s

theorem memStep_writeBack (s : State) (line : Nat) : MemStep s (writeBack s line) := by
  unfold writeBack
  dsimp only
  split
  · exact (memStep_dramWriteAll s _ _).trans (.of_mem rfl (by constructor <;> rfl))
  · exact .refl s

theorem memStep_homeFill (s : State) (line key : Nat) : MemStep s (homeFill s line key) := by
  unfold homeFill
  dsimp only
  split
  · split
    · exact .refl s
    · exact (memStep_writeBack s line).trans (.of_mem rfl (by constructor <;> rfl))
  · exact .of_mem rfl (by constructor <;> rfl)

theorem memStep_dropCopy (s : State) (die line : Nat) : MemStep s (dropCopy s die line) := .of_mem rfl (by constructor <;> rfl)

theorem memStep_dropSealed (s : State) (die line : Nat) : MemStep s (dropSealed s die line) := .of_mem rfl (by constructor <;> rfl)

theorem memStep_mergeHome (s : State) (line key : Nat) (mask : BitVec 256) (data : BitVec 2048) (bad : BitVec 4) :
    MemStep s (mergeHome s line key mask data bad) := by
  unfold mergeHome
  split
  · exact .refl s
  · exact (memStep_homeFill s line key).trans (.of_mem rfl (by constructor <;> rfl))

theorem memStep_collapseWith (keep : Bool) (s : State) (line : Nat) : MemStep s (collapseWith keep s line) := by
  have drop : ∀ s d, MemStep s (if keep = true then s else dropSealed s d line) := fun s d => by
    cases keep
    · exact memStep_dropSealed s d line
    · exact .refl s
  unfold collapseWith
  dsimp only
  split
  · exact .refl s
  · refine ((MemStep.foldl _ (fun s m => memStep_mergeHome s _ _ _ _ _) _ s).trans
      (MemStep.foldl _ (fun s d => ?_) _ _)).trans (.of_mem rfl (by constructor <;> rfl))
    split
    · exact ((memStep_dropCopy s d line).trans (drop _ d)).trans (memStep_mergeHome _ _ _ _ _ _)
    · exact drop s d

theorem memStep_collapse (s : State) (line : Nat) : MemStep s (collapse s line) := memStep_collapseWith false s line

theorem memStep_countHomeStore (s : State) (pa : Nat) : MemStep s (countHomeStore s pa) := by
  unfold countHomeStore
  split
  · exact .of_mem rfl (by constructor <;> rfl)
  · exact .refl s

theorem memStep_l2 (s : State) (l : FMap Line) : MemStep s { s with l2 := l } := .of_mem rfl (by constructor <;> rfl)

/-- A coherent write of bytes of one line. -/
theorem memStep_cohWrite (s : State) (pa key : Nat) (bs : List Byte) : MemStep s (cohWrite s pa key bs) := by
  have fill := (memStep_collapse s (lineOf pa)).trans (memStep_homeFill _ (lineOf pa) key)
  unfold cohWrite
  dsimp only
  split
  · exact (fill.trans (memStep_l2 _ _)).trans (memStep_countHomeStore _ pa)
  · exact fill.trans (memStep_l2 _ _)

/-- A write of any bytes at a physical address. -/
theorem memStep_physWrite (s : State) (pol pa key : Nat) (bs : List Byte) : MemStep s (physWrite s pol pa key bs) := by
  unfold physWrite
  split
  · exact MemStep.foldl _ (fun s p => memStep_cohWrite s _ key _) _ s
  · exact MemStep.foldl _ (fun s i => memStep_dramWrite s _ key _) _ s

end Sys2Proof.Machine
end

