-- ==== Sys2Proof/Laws/Ops.lean ====
section
/-!
SUPPORT. One law for each shared operation of the meanings: what it answers, by the condition that decides it. Later proofs cite these and do not
unfold the operations.
-/
namespace Sys2Proof.Machine

/-! ## The fault that counts (R29) -/

theorem lowest_eq_none {fs : List FaultInfo} : lowest fs = none ↔ fs = [] := by
  cases fs with
  | nil => simp [lowest]
  | cons f fs =>
    cases h : lowest fs with
    | none => simp [lowest, h]
    | some r =>
      simp only [lowest, h]
      split <;> simp

/-- The fault that counts stands in the list, and none of the list has a lower code. -/
theorem lowest_spec {fs : List FaultInfo} {f : FaultInfo} (h : lowest fs = some f) : f ∈ fs ∧ ∀ x ∈ fs, f.code ≤ x.code := by
  induction fs generalizing f with
  | nil => simp [lowest] at h
  | cons a fs ih =>
    cases hl : lowest fs with
    | none =>
      have e : fs = [] := lowest_eq_none.mp hl
      simp [lowest, e] at h
      simp [e, h]
    | some r =>
      obtain ⟨hr, hm⟩ := ih hl
      simp only [lowest, hl] at h
      split at h <;> (obtain rfl := Option.some.inj h; refine ⟨by simp [hr], fun x hx => ?_⟩)
      all_goals
        rcases List.mem_cons.mp hx with rfl | hx
        · omega
        · have := hm x hx
          omega

theorem orFault_ok {s : State} {fs : List FaultInfo} {k : State → Out} (h : fs = []) : orFault s fs k = k s := by
  simp [orFault, lowest_eq_none.mpr h]

theorem orFault_spec (s : State) (fs : List FaultInfo) (k : State → Out) :
    (fs = [] ∧ orFault s fs k = k s) ∨ ∃ f ∈ fs, (∀ x ∈ fs, f.code ≤ x.code) ∧ orFault s fs k = .next (raise s f) := by
  cases h : lowest fs with
  | none => exact .inl ⟨lowest_eq_none.mp h, by simp [orFault, h]⟩
  | some f => exact .inr ⟨f, (lowest_spec h).1, (lowest_spec h).2, by simp [orFault, h]⟩

/-! ## Raising and reporting (R24, R25) -/

theorem raise_off {s : State} (h : s.probe.on = false) (f : FaultInfo) : raise s f = deliver s s.cur f := by simp [raise, h]

/-- While an issue of two words is probed a fault is only noted: the rest of the machine stays. -/
theorem raise_on {s : State} (h : s.probe.on = true) (f : FaultInfo) :
    ∃ r, (r = f ∨ s.probe.raised = some r) ∧ raise s f = { s with probe := { s.probe with raised := some r } } := by
  cases hr : s.probe.raised with
  | none => exact ⟨f, .inl rfl, by simp [raise, h, hr]⟩
  | some r =>
    by_cases hc : f.code < r.code
    · exact ⟨f, .inl rfl, by simp [raise, h, hr, hc]⟩
    · exact ⟨r, .inr rfl, by simp [raise, h, hr, hc]⟩

theorem reportPoint_spec (s : State) (k : State → Out) :
    (s.me.trap = 0 ∧ reportPoint s k = k (s.modMe (fun g => { g with hadHandler := g.inHandler, inHandler := false }))) ∨
    (s.me.trap ≠ 0 ∧ reportPoint s k = .next (raise s (reportFault s.me))) := by
  by_cases h : s.me.trap = 0
  · exact .inl ⟨h, by simp only [reportPoint, if_pos h]⟩
  · exact .inr ⟨h, by simp only [reportPoint, if_neg h]⟩

/-! ## Guards of control and A-class instructions (R61, R153) -/

/-- A control or A-class instruction faults on poison, leaves only its counter under a false guard, and otherwise acts. -/
theorem ctlOp_spec (c : Ctl) (gd : BitVec 4) (srcs : List Nat) (s : State) (k : State → Out) :
    ctlOp c gd srcs s k = fail s fcUncorrectable ∨
    (s.me.qGuard gd = false ∧ qGuardBad s.me gd = false ∧ ctlOp c gd srcs s k = .next (s.idle c)) ∨
    (s.me.qGuard gd = true ∧ qGuardBad s.me gd = false ∧ srcs.any s.me.gBad = false ∧ ctlOp c gd srcs s k = k s) := by
  unfold ctlOp
  dsimp only
  cases qGuardBad s.me gd <;> cases s.me.qGuard gd <;> cases srcs.any s.me.gBad <;> simp

theorem ctlOp_acts {c : Ctl} {gd : BitVec 4} {srcs : List Nat} {s : State} {k : State → Out} (hg : s.me.qGuard gd = true)
    (hb : qGuardBad s.me gd = false) (hs : srcs.any s.me.gBad = false) : ctlOp c gd srcs s k = k s := by
  simp [ctlOp, hg, hb, hs]

theorem ctlOp_false {c : Ctl} {gd : BitVec 4} {srcs : List Nat} {s : State} {k : State → Out} (hg : s.me.qGuard gd = false)
    (hb : qGuardBad s.me gd = false) : ctlOp c gd srcs s k = .next (s.idle c) := by
  simp [ctlOp, hg, hb]

/-! ## Holds (R12, R56) -/

@[simp] theorem State.holdMe_mem (s : State) (pc : W64) (n : Nat) (k : HoldKind) : (s.holdMe pc n k).mem = s.mem := rfl
@[simp] theorem State.holdMe_cur (s : State) (pc : W64) (n : Nat) (k : HoldKind) : (s.holdMe pc n k).cur = s.cur := rfl
@[simp] theorem State.holdMe_clock (s : State) (pc : W64) (n : Nat) (k : HoldKind) : (s.holdMe pc n k).clock = s.clock := rfl

/-- The current group is held, besides by the hold that the first word of its chain began. -/
theorem State.holdMe_me (s : State) (pc : W64) (n : Nat) (k : HoldKind) :
    (s.holdMe pc n k).me = (match s.me.hold with
      | none => { s.me with hold := some ⟨k, s.clock, pc, n⟩ }
      | some _ => { s.me with hold2 := some ⟨k, s.clock, pc, n⟩ }) := by
  simp only [State.holdMe, State.modMe, State.me, State.modGrp_cur, State.modGrp_grp_same]
  all_goals cases (s.grp s.cur).hold <;> rfl

theorem State.holdMe_grp_ne {s : State} {pc : W64} {n : Nat} {k : HoldKind} {g : Nat} (h : g ≠ s.cur) : (s.holdMe pc n k).grp g = s.grp g := by
  simp [State.holdMe, State.modMe, State.modGrp, State.grp, h]

/-- The end of a hold is the end of it alone: the counter falls and the other hold of the chain stands. -/
theorem endHold_hold {s : State} {g : Nat} {h : Hold} (hh : (s.grp g).hold = some h) :
    ((endHold s g).grp g).hold = (s.grp g).hold2 ∧ ((endHold s g).grp g).hold2 = none := by
  simp only [endHold, State.modGrp_grp_same, hh, and_self]

@[simp] theorem endHold_mem (s : State) (g : Nat) : (endHold s g).mem = s.mem := rfl

theorem endHold_grp_ne {s : State} {g k : Nat} (h : k ≠ g) : (endHold s g).grp k = s.grp k := by
  simp [endHold, State.modGrp, State.grp, h]

/-! ## Virtual writes and the fault log (R335, R337) -/

theorem countRemote_mem (s : State) (core pa rdh : Nat) : (countRemote s core pa rdh).mem = s.mem := by
  unfold countRemote
  split <;> first
    | rfl
    | (unfold countRegion; split <;> rfl)

/-- A fold of steps that leave memory alone leaves it alone. -/
theorem foldl_mem {A : Type} (f : State → A → State) (hf : ∀ s a, (f s a).mem = s.mem) (l : List A) (s : State) : (l.foldl f s).mem = s.mem := by
  induction l generalizing s with
  | nil => rfl
  | cons a l ih => exact (ih (f s a)).trans (hf s a)

theorem l1Update_mem (s : State) (core va pa : Nat) (bs : List Byte) : (l1Update s core va pa bs).mem = s.mem :=
  foldl_mem (fun s c => markFills s c (fun r => r.line == lineOf pa)) (fun _ _ => rfl) _ _

/-- A write at virtual addresses keeps the canonical form of memory. -/
theorem wf_virtWrite {s u : State} {cx core va : Nat} {bs : List Byte} (h : virtWrite s cx core va bs = .ok u) (hw : Memory.wf s.mem = true) :
    Memory.wf u.mem = true := by
  have fold : ∀ {A : Type} (f : State → A → State) (_ : ∀ s a, Memory.wf s.mem = true → Memory.wf (f s a).mem = true) (l : List A) (s : State),
      Memory.wf s.mem = true → Memory.wf (l.foldl f s).mem = true := fun f hf l => by
    induction l with
    | nil => exact fun _ => id
    | cons a l ih => exact fun s hs => ih (f s a) (hf s a hs)
  unfold virtWrite at h
  split at h
  · cases h
  · obtain rfl := Except.ok.inj h
    apply fold _ _ _ _ hw
    intro s p hs
    split
    · exact hs
    · apply fold
      · intro s q hs
        rw [l1Update_mem]
        exact hs
      · apply (memStep_physWrite _ _ _ _ _).wf
        split
        · apply fold _ _ _ _ hs
          intro s q hs
          rw [countRemote_mem]
          exact hs
        · exact hs

/-- Writing a record to the fault log, or counting one that is dropped, keeps the canonical form of memory. -/
theorem wf_logTry (s : State) (cx core : Nat) (rec : Nat → List Byte) (h : Memory.wf s.mem = true) : Memory.wf (logTry s cx core rec).1.mem = true := by
  unfold logTry
  dsimp only
  split
  · split
    · exact h
    · split
      · exact h
      · split
        · exact h
        · rename_i h1
          split
          · exact h
          · rename_i h2
            exact wf_virtWrite h2 (wf_virtWrite h1 h)
  · exact h

theorem wf_logDrop (s : State) (cx core : Nat) (h : Memory.wf s.mem = true) : Memory.wf (logDrop s cx core).mem = true := by
  unfold logDrop
  dsimp only
  split
  · exact h
  · split
    · exact h
    · rename_i hw
      exact wf_virtWrite hw h

theorem wf_logPut (s : State) (cx core : Nat) (rec : Nat → List Byte) (h : Memory.wf s.mem = true) : Memory.wf (logPut s cx core rec).1.mem = true := by
  have t := wf_logTry s cx core rec h
  unfold logPut
  split <;> rename_i hl <;> rw [hl] at t
  · exact t
  · exact wf_logDrop _ cx core t

end Sys2Proof.Machine
end

