-- ==== Sys2Proof/Laws/PerInstr.lean ====
section
/-!
SUPPORT. One law for each instruction: the opcode field of its word, bits [43:36], is its opcode (R57, R71); an event has no word.
-/
namespace Sys2Proof

/-- The opcode bits of a word put together from its control fields, opcode and operands. -/
theorem fld_opcode (c : Ctl) (op : BitVec 8) (x : BitVec 36) : fld (encCtl c op ++ x) 36 8 = op := by
  simp only [fld, encCtl]
  apply BitVec.eq_of_getLsbD_eq
  intro i hi
  simp only [BitVec.getLsbD_extractLsb', BitVec.getLsbD_append]
  have h1 : ¬ (36 + i < 36) := by omega
  have h2 : 36 + i - 36 < 8 := by omega
  simp [hi]

/-- The family: the word of an instruction names its opcode. -/
def Laws.Opcode.Statement (i : Instr) : Prop := ∀ w, encode i = some w → (fld w 36 8).toNat = opcodeOf i

/-- A word built from a constructor's opcode names it. -/
theorem Laws.opcode_of_word (i : Instr) (c : Ctl) (op : BitVec 8) (x : BitVec 36) (h : encode i = some (encCtl c op ++ x))
    (ho : op.toNat = opcodeOf i) : Laws.Opcode.Statement i := by
  intro w hw
  have : w = encCtl c op ++ x := Option.some.inj (hw.symm.trans h)
  rw [this, fld_opcode, ho]

/-- An event has no word. -/
theorem Laws.opcode_of_none (i : Instr) (h : encode i = none) : Laws.Opcode.Statement i := by
  intro w hw
  rw [h] at hw
  exact absurd hw (by simp)

namespace Laws.Opcode

theorem nop (c : Ctl) (f : FmtNOP) : Statement (.nop c f) := Laws.opcode_of_word _ c 0x00 _ rfl rfl
theorem pfx (c : Ctl) (f : FmtPFX) : Statement (.pfx c f) := Laws.opcode_of_word _ c 0x01 _ rfl rfl
theorem gmov (c : Ctl) (f : FmtS3) : Statement (.gmov c f) := Laws.opcode_of_word _ c 0x10 _ rfl rfl
theorem gmovi (c : Ctl) (f : FmtSI) : Statement (.gmovi c f) := Laws.opcode_of_word _ c 0x11 _ rfl rfl
theorem gmovh (c : Ctl) (f : FmtSI) : Statement (.gmovh c f) := Laws.opcode_of_word _ c 0x12 _ rfl rfl
theorem gadd (c : Ctl) (f : FmtS3) : Statement (.gadd c f) := Laws.opcode_of_word _ c 0x13 _ rfl rfl
theorem gsub (c : Ctl) (f : FmtS3) : Statement (.gsub c f) := Laws.opcode_of_word _ c 0x14 _ rfl rfl
theorem gmul (c : Ctl) (f : FmtS3) : Statement (.gmul c f) := Laws.opcode_of_word _ c 0x15 _ rfl rfl
theorem gmulh (c : Ctl) (f : FmtS3) : Statement (.gmulh c f) := Laws.opcode_of_word _ c 0x16 _ rfl rfl
theorem gdiv (c : Ctl) (f : FmtS3) : Statement (.gdiv c f) := Laws.opcode_of_word _ c 0x17 _ rfl rfl
theorem grem (c : Ctl) (f : FmtS3) : Statement (.grem c f) := Laws.opcode_of_word _ c 0x18 _ rfl rfl
theorem gand (c : Ctl) (f : FmtS3) : Statement (.gand c f) := Laws.opcode_of_word _ c 0x19 _ rfl rfl
theorem gor (c : Ctl) (f : FmtS3) : Statement (.gor c f) := Laws.opcode_of_word _ c 0x1A _ rfl rfl
theorem gxor (c : Ctl) (f : FmtS3) : Statement (.gxor c f) := Laws.opcode_of_word _ c 0x1B _ rfl rfl
theorem gnot (c : Ctl) (f : FmtS3) : Statement (.gnot c f) := Laws.opcode_of_word _ c 0x1C _ rfl rfl
theorem gshl (c : Ctl) (f : FmtS3) : Statement (.gshl c f) := Laws.opcode_of_word _ c 0x1D _ rfl rfl
theorem gshr (c : Ctl) (f : FmtS3) : Statement (.gshr c f) := Laws.opcode_of_word _ c 0x1E _ rfl rfl
theorem gsar (c : Ctl) (f : FmtS3) : Statement (.gsar c f) := Laws.opcode_of_word _ c 0x1F _ rfl rfl
theorem grot (c : Ctl) (f : FmtS3) : Statement (.grot c f) := Laws.opcode_of_word _ c 0x20 _ rfl rfl
theorem gmin (c : Ctl) (f : FmtS3) : Statement (.gmin c f) := Laws.opcode_of_word _ c 0x21 _ rfl rfl
theorem gmax (c : Ctl) (f : FmtS3) : Statement (.gmax c f) := Laws.opcode_of_word _ c 0x22 _ rfl rfl
theorem gcmp (c : Ctl) (f : FmtS3) : Statement (.gcmp c f) := Laws.opcode_of_word _ c 0x23 _ rfl rfl
theorem gsel (c : Ctl) (f : FmtS3) : Statement (.gsel c f) := Laws.opcode_of_word _ c 0x24 _ rfl rfl
theorem glea (c : Ctl) (f : FmtS3) : Statement (.glea c f) := Laws.opcode_of_word _ c 0x25 _ rfl rfl
theorem gpopc (c : Ctl) (f : FmtS3) : Statement (.gpopc c f) := Laws.opcode_of_word _ c 0x26 _ rfl rfl
theorem gclz (c : Ctl) (f : FmtS3) : Statement (.gclz c f) := Laws.opcode_of_word _ c 0x27 _ rfl rfl
theorem gbfx (c : Ctl) (f : FmtS3) : Statement (.gbfx c f) := Laws.opcode_of_word _ c 0x28 _ rfl rfl
theorem gbfi (c : Ctl) (f : FmtS3) : Statement (.gbfi c f) := Laws.opcode_of_word _ c 0x29 _ rfl rfl
theorem qop (c : Ctl) (f : FmtS3) : Statement (.qop c f) := Laws.opcode_of_word _ c 0x2A _ rfl rfl
theorem sread (c : Ctl) (f : FmtS3) : Statement (.sread c f) := Laws.opcode_of_word _ c 0x2B _ rfl rfl
theorem swrite (c : Ctl) (f : FmtS3) : Statement (.swrite c f) := Laws.opcode_of_word _ c 0x2C _ rfl rfl
theorem setfmt (c : Ctl) (f : FmtS3) : Statement (.setfmt c f) := Laws.opcode_of_word _ c 0x2D _ rfl rfl
theorem getfmt (c : Ctl) (f : FmtS3) : Statement (.getfmt c f) := Laws.opcode_of_word _ c 0x2E _ rfl rfl
theorem bra (c : Ctl) (f : FmtBR) : Statement (.bra c f) := Laws.opcode_of_word _ c 0x2F _ rfl rfl
theorem brx (c : Ctl) (f : FmtS3) : Statement (.brx c f) := Laws.opcode_of_word _ c 0x30 _ rfl rfl
theorem call (c : Ctl) (f : FmtBR) : Statement (.call c f) := Laws.opcode_of_word _ c 0x31 _ rfl rfl
theorem ret (c : Ctl) (f : FmtS3) : Statement (.ret c f) := Laws.opcode_of_word _ c 0x32 _ rfl rfl
theorem vbr (c : Ctl) (f : FmtVB) : Statement (.vbr c f) := Laws.opcode_of_word _ c 0x33 _ rfl rfl
theorem vbrk (c : Ctl) (f : FmtVB) : Statement (.vbrk c f) := Laws.opcode_of_word _ c 0x34 _ rfl rfl
theorem vexit (c : Ctl) (f : FmtS3) : Statement (.vexit c f) := Laws.opcode_of_word _ c 0x35 _ rfl rfl
theorem waitk (c : Ctl) (f : FmtS3) : Statement (.waitk c f) := Laws.opcode_of_word _ c 0x36 _ rfl rfl
theorem yield (c : Ctl) (f : FmtS3) : Statement (.yield c f) := Laws.opcode_of_word _ c 0x37 _ rfl rfl
theorem sleep (c : Ctl) (f : FmtSI) : Statement (.sleep c f) := Laws.opcode_of_word _ c 0x38 _ rfl rfl
theorem exit (c : Ctl) (f : FmtS3) : Statement (.exit c f) := Laws.opcode_of_word _ c 0x39 _ rfl rfl
theorem tail (c : Ctl) (f : FmtS3) : Statement (.tail c f) := Laws.opcode_of_word _ c 0x3A _ rfl rfl
theorem trap (c : Ctl) (f : FmtSI) : Statement (.trap c f) := Laws.opcode_of_word _ c 0x3B _ rfl rfl
theorem bkpt (c : Ctl) (f : FmtS3) : Statement (.bkpt c f) := Laws.opcode_of_word _ c 0x3C _ rfl rfl
theorem vmov (c : Ctl) (f : FmtV3) : Statement (.vmov c f) := Laws.opcode_of_word _ c 0x50 _ rfl rfl
theorem vmovi (c : Ctl) (f : FmtVI) : Statement (.vmovi c f) := Laws.opcode_of_word _ c 0x51 _ rfl rfl
theorem vmoviHi (c : Ctl) (f : FmtVI) : Statement (.vmoviHi c f) := Laws.opcode_of_word _ c 0x51 _ rfl rfl
theorem vmoviZ (c : Ctl) (f : FmtVI) : Statement (.vmoviZ c f) := Laws.opcode_of_word _ c 0x51 _ rfl rfl
theorem vmoviRep (c : Ctl) (f : FmtVI) : Statement (.vmoviRep c f) := Laws.opcode_of_word _ c 0x51 _ rfl rfl
theorem vadd (c : Ctl) (f : FmtV3) : Statement (.vadd c f) := Laws.opcode_of_word _ c 0x52 _ rfl rfl
theorem vsub (c : Ctl) (f : FmtV3) : Statement (.vsub c f) := Laws.opcode_of_word _ c 0x53 _ rfl rfl
theorem vmul (c : Ctl) (f : FmtV3) : Statement (.vmul c f) := Laws.opcode_of_word _ c 0x54 _ rfl rfl
theorem vmulh (c : Ctl) (f : FmtV3) : Statement (.vmulh c f) := Laws.opcode_of_word _ c 0x55 _ rfl rfl
theorem vmad (c : Ctl) (f : FmtV3) : Statement (.vmad c f) := Laws.opcode_of_word _ c 0x56 _ rfl rfl
theorem vdiv (c : Ctl) (f : FmtV3) : Statement (.vdiv c f) := Laws.opcode_of_word _ c 0x57 _ rfl rfl
theorem vrem (c : Ctl) (f : FmtV3) : Statement (.vrem c f) := Laws.opcode_of_word _ c 0x58 _ rfl rfl
theorem vand (c : Ctl) (f : FmtV3) : Statement (.vand c f) := Laws.opcode_of_word _ c 0x59 _ rfl rfl
theorem vor (c : Ctl) (f : FmtV3) : Statement (.vor c f) := Laws.opcode_of_word _ c 0x5A _ rfl rfl
theorem vxor (c : Ctl) (f : FmtV3) : Statement (.vxor c f) := Laws.opcode_of_word _ c 0x5B _ rfl rfl
theorem vnot (c : Ctl) (f : FmtV3) : Statement (.vnot c f) := Laws.opcode_of_word _ c 0x5C _ rfl rfl
theorem vshl (c : Ctl) (f : FmtV3) : Statement (.vshl c f) := Laws.opcode_of_word _ c 0x5D _ rfl rfl
theorem vshr (c : Ctl) (f : FmtV3) : Statement (.vshr c f) := Laws.opcode_of_word _ c 0x5E _ rfl rfl
theorem vsar (c : Ctl) (f : FmtV3) : Statement (.vsar c f) := Laws.opcode_of_word _ c 0x5F _ rfl rfl
theorem vmin (c : Ctl) (f : FmtV3) : Statement (.vmin c f) := Laws.opcode_of_word _ c 0x60 _ rfl rfl
theorem vmax (c : Ctl) (f : FmtV3) : Statement (.vmax c f) := Laws.opcode_of_word _ c 0x61 _ rfl rfl
theorem vabs (c : Ctl) (f : FmtV3) : Statement (.vabs c f) := Laws.opcode_of_word _ c 0x62 _ rfl rfl
theorem vcmp (c : Ctl) (f : FmtV3) : Statement (.vcmp c f) := Laws.opcode_of_word _ c 0x63 _ rfl rfl
theorem vsel (c : Ctl) (f : FmtV3) : Statement (.vsel c f) := Laws.opcode_of_word _ c 0x64 _ rfl rfl
theorem vpopc (c : Ctl) (f : FmtV3) : Statement (.vpopc c f) := Laws.opcode_of_word _ c 0x65 _ rfl rfl
theorem vclz (c : Ctl) (f : FmtV3) : Statement (.vclz c f) := Laws.opcode_of_word _ c 0x66 _ rfl rfl
theorem vbrev (c : Ctl) (f : FmtV3) : Statement (.vbrev c f) := Laws.opcode_of_word _ c 0x67 _ rfl rfl
theorem vbfx (c : Ctl) (f : FmtV3) : Statement (.vbfx c f) := Laws.opcode_of_word _ c 0x68 _ rfl rfl
theorem vbfi (c : Ctl) (f : FmtV3) : Statement (.vbfi c f) := Laws.opcode_of_word _ c 0x69 _ rfl rfl
theorem vprmt (c : Ctl) (f : FmtV3) : Statement (.vprmt c f) := Laws.opcode_of_word _ c 0x6A _ rfl rfl
theorem vdot4 (c : Ctl) (f : FmtV3) : Statement (.vdot4 c f) := Laws.opcode_of_word _ c 0x6B _ rfl rfl
theorem pop (c : Ctl) (f : FmtV3) : Statement (.pop c f) := Laws.opcode_of_word _ c 0x6C _ rfl rfl
theorem fadd (c : Ctl) (f : FmtV3) : Statement (.fadd c f) := Laws.opcode_of_word _ c 0x80 _ rfl rfl
theorem fsub (c : Ctl) (f : FmtV3) : Statement (.fsub c f) := Laws.opcode_of_word _ c 0x81 _ rfl rfl
theorem fmul (c : Ctl) (f : FmtV3) : Statement (.fmul c f) := Laws.opcode_of_word _ c 0x82 _ rfl rfl
theorem ffma (c : Ctl) (f : FmtV3) : Statement (.ffma c f) := Laws.opcode_of_word _ c 0x83 _ rfl rfl
theorem fmin (c : Ctl) (f : FmtV3) : Statement (.fmin c f) := Laws.opcode_of_word _ c 0x84 _ rfl rfl
theorem fmax (c : Ctl) (f : FmtV3) : Statement (.fmax c f) := Laws.opcode_of_word _ c 0x85 _ rfl rfl
theorem fminn (c : Ctl) (f : FmtV3) : Statement (.fminn c f) := Laws.opcode_of_word _ c 0x86 _ rfl rfl
theorem fmaxn (c : Ctl) (f : FmtV3) : Statement (.fmaxn c f) := Laws.opcode_of_word _ c 0x87 _ rfl rfl
theorem fcmp (c : Ctl) (f : FmtV3) : Statement (.fcmp c f) := Laws.opcode_of_word _ c 0x88 _ rfl rfl
theorem fclass (c : Ctl) (f : FmtV3) : Statement (.fclass c f) := Laws.opcode_of_word _ c 0x89 _ rfl rfl
theorem fclassKey (c : Ctl) (f : FmtV3) : Statement (.fclassKey c f) := Laws.opcode_of_word _ c 0x89 _ rfl rfl
theorem fabs (c : Ctl) (f : FmtV3) : Statement (.fabs c f) := Laws.opcode_of_word _ c 0x8A _ rfl rfl
theorem fneg (c : Ctl) (f : FmtV3) : Statement (.fneg c f) := Laws.opcode_of_word _ c 0x8B _ rfl rfl
theorem frnd (c : Ctl) (f : FmtV3) : Statement (.frnd c f) := Laws.opcode_of_word _ c 0x8C _ rfl rfl
theorem fdot2 (c : Ctl) (f : FmtV3) : Statement (.fdot2 c f) := Laws.opcode_of_word _ c 0x8D _ rfl rfl
theorem fcvt (c : Ctl) (f : FmtV3) : Statement (.fcvt c f) := Laws.opcode_of_word _ c 0x8E _ rfl rfl
theorem fpack (c : Ctl) (f : FmtV3) : Statement (.fpack c f) := Laws.opcode_of_word _ c 0x8F _ rfl rfl
theorem funpk (c : Ctl) (f : FmtV3) : Statement (.funpk c f) := Laws.opcode_of_word _ c 0x90 _ rfl rfl
theorem fscl (c : Ctl) (f : FmtV3) : Statement (.fscl c f) := Laws.opcode_of_word _ c 0x91 _ rfl rfl
theorem xrcp (c : Ctl) (f : FmtV3) : Statement (.xrcp c f) := Laws.opcode_of_word _ c 0x98 _ rfl rfl
theorem xrsq (c : Ctl) (f : FmtV3) : Statement (.xrsq c f) := Laws.opcode_of_word _ c 0x99 _ rfl rfl
theorem xsqrt (c : Ctl) (f : FmtV3) : Statement (.xsqrt c f) := Laws.opcode_of_word _ c 0x9A _ rfl rfl
theorem xexp2 (c : Ctl) (f : FmtV3) : Statement (.xexp2 c f) := Laws.opcode_of_word _ c 0x9B _ rfl rfl
theorem xlog2 (c : Ctl) (f : FmtV3) : Statement (.xlog2 c f) := Laws.opcode_of_word _ c 0x9C _ rfl rfl
theorem xsin (c : Ctl) (f : FmtV3) : Statement (.xsin c f) := Laws.opcode_of_word _ c 0x9D _ rfl rfl
theorem xcos (c : Ctl) (f : FmtV3) : Statement (.xcos c f) := Laws.opcode_of_word _ c 0x9E _ rfl rfl
theorem xtanh (c : Ctl) (f : FmtV3) : Statement (.xtanh c f) := Laws.opcode_of_word _ c 0x9F _ rfl rfl
theorem xsig (c : Ctl) (f : FmtV3) : Statement (.xsig c f) := Laws.opcode_of_word _ c 0xA0 _ rfl rfl
theorem lshf (c : Ctl) (f : FmtV3) : Statement (.lshf c f) := Laws.opcode_of_word _ c 0xA4 _ rfl rfl
theorem lbc (c : Ctl) (f : FmtV3) : Statement (.lbc c f) := Laws.opcode_of_word _ c 0xA5 _ rfl rfl
theorem lvoteAll (c : Ctl) (f : FmtV3) : Statement (.lvoteAll c f) := Laws.opcode_of_word _ c 0xA6 _ rfl rfl
theorem lvoteAny (c : Ctl) (f : FmtV3) : Statement (.lvoteAny c f) := Laws.opcode_of_word _ c 0xA6 _ rfl rfl
theorem lvoteUni (c : Ctl) (f : FmtV3) : Statement (.lvoteUni c f) := Laws.opcode_of_word _ c 0xA6 _ rfl rfl
theorem lvoteBal (c : Ctl) (f : FmtV3) : Statement (.lvoteBal c f) := Laws.opcode_of_word _ c 0xA6 _ rfl rfl
theorem lred (c : Ctl) (f : FmtV3) : Statement (.lred c f) := Laws.opcode_of_word _ c 0xA7 _ rfl rfl
theorem lscan (c : Ctl) (f : FmtV3) : Statement (.lscan c f) := Laws.opcode_of_word _ c 0xA8 _ rfl rfl
theorem lmatch (c : Ctl) (f : FmtV3) : Statement (.lmatch c f) := Laws.opcode_of_word _ c 0xA9 _ rfl rfl
theorem lcmpr (c : Ctl) (f : FmtV3) : Statement (.lcmpr c f) := Laws.opcode_of_word _ c 0xAA _ rfl rfl
theorem xsend (c : Ctl) (f : FmtV3) : Statement (.xsend c f) := Laws.opcode_of_word _ c 0xAB _ rfl rfl
theorem xrecv (c : Ctl) (f : FmtV3) : Statement (.xrecv c f) := Laws.opcode_of_word _ c 0xAC _ rfl rfl
theorem vfromg (c : Ctl) (f : FmtV3) : Statement (.vfromg c f) := Laws.opcode_of_word _ c 0xAD _ rfl rfl
theorem vtog (c : Ctl) (f : FmtV3) : Statement (.vtog c f) := Laws.opcode_of_word _ c 0xAE _ rfl rfl
theorem vtogFirst (c : Ctl) (f : FmtV3) : Statement (.vtogFirst c f) := Laws.opcode_of_word _ c 0xAE _ rfl rfl
theorem ld (c : Ctl) (f : FmtM) : Statement (.ld c f) := Laws.opcode_of_word _ c 0xB0 _ rfl rfl
theorem st (c : Ctl) (f : FmtM) : Statement (.st c f) := Laws.opcode_of_word _ c 0xB1 _ rfl rfl
theorem lds (c : Ctl) (f : FmtM) : Statement (.lds c f) := Laws.opcode_of_word _ c 0xB2 _ rfl rfl
theorem sts (c : Ctl) (f : FmtM) : Statement (.sts c f) := Laws.opcode_of_word _ c 0xB3 _ rfl rfl
theorem ldsc (c : Ctl) (f : FmtM) : Statement (.ldsc c f) := Laws.opcode_of_word _ c 0xB4 _ rfl rfl
theorem stsc (c : Ctl) (f : FmtM) : Statement (.stsc c f) := Laws.opcode_of_word _ c 0xB5 _ rfl rfl
theorem lda (c : Ctl) (f : FmtMO) : Statement (.lda c f) := Laws.opcode_of_word _ c 0xB6 _ rfl rfl
theorem ldaRng (c : Ctl) (f : FmtMO) : Statement (.ldaRng c f) := Laws.opcode_of_word _ c 0xB6 _ rfl rfl
theorem stl (c : Ctl) (f : FmtMO) : Statement (.stl c f) := Laws.opcode_of_word _ c 0xB7 _ rfl rfl
theorem fence (c : Ctl) (f : FmtMO) : Statement (.fence c f) := Laws.opcode_of_word _ c 0xB8 _ rfl rfl
theorem prf (c : Ctl) (f : FmtM) : Statement (.prf c f) := Laws.opcode_of_word _ c 0xB9 _ rfl rfl
theorem cpy (c : Ctl) (f : FmtA) : Statement (.cpy c f) := Laws.opcode_of_word _ c 0xBA _ rfl rfl
theorem bseal (c : Ctl) (f : FmtA) : Statement (.bseal c f) := Laws.opcode_of_word _ c 0xBB _ rfl rfl
theorem bwait (c : Ctl) (f : FmtA) : Statement (.bwait c f) := Laws.opcode_of_word _ c 0xBC _ rfl rfl
theorem waita (c : Ctl) (f : FmtM) : Statement (.waita c f) := Laws.opcode_of_word _ c 0xBD _ rfl rfl
theorem waitaSp (c : Ctl) (f : FmtM) : Statement (.waitaSp c f) := Laws.opcode_of_word _ c 0xBD _ rfl rfl
theorem cinvL1 (c : Ctl) (f : FmtM) : Statement (.cinvL1 c f) := Laws.opcode_of_word _ c 0xBE _ rfl rfl
theorem cinvAll (c : Ctl) (f : FmtM) : Statement (.cinvAll c f) := Laws.opcode_of_word _ c 0xBE _ rfl rfl
theorem cwb (c : Ctl) (f : FmtM) : Statement (.cwb c f) := Laws.opcode_of_word _ c 0xBF _ rfl rfl
theorem nbarv (c : Ctl) (f : FmtM) : Statement (.nbarv c f) := Laws.opcode_of_word _ c 0xC0 _ rfl rfl
theorem nbsync (c : Ctl) (f : FmtM) : Statement (.nbsync c f) := Laws.opcode_of_word _ c 0xC1 _ rfl rfl
theorem nbwait (c : Ctl) (f : FmtM) : Statement (.nbwait c f) := Laws.opcode_of_word _ c 0xC2 _ rfl rfl
theorem tbinit (c : Ctl) (f : FmtM) : Statement (.tbinit c f) := Laws.opcode_of_word _ c 0xC3 _ rfl rfl
theorem tbarv (c : Ctl) (f : FmtM) : Statement (.tbarv c f) := Laws.opcode_of_word _ c 0xC4 _ rfl rfl
theorem tbexp (c : Ctl) (f : FmtM) : Statement (.tbexp c f) := Laws.opcode_of_word _ c 0xC5 _ rfl rfl
theorem tbwait (c : Ctl) (f : FmtM) : Statement (.tbwait c f) := Laws.opcode_of_word _ c 0xC6 _ rfl rfl
theorem tbinv (c : Ctl) (f : FmtM) : Statement (.tbinv c f) := Laws.opcode_of_word _ c 0xC7 _ rfl rfl
theorem cbarv (c : Ctl) (f : FmtM) : Statement (.cbarv c f) := Laws.opcode_of_word _ c 0xC8 _ rfl rfl
theorem cbsync (c : Ctl) (f : FmtM) : Statement (.cbsync c f) := Laws.opcode_of_word _ c 0xC9 _ rfl rfl
theorem phadv (c : Ctl) (f : FmtM) : Statement (.phadv c f) := Laws.opcode_of_word _ c 0xCA _ rfl rfl
theorem phwaitNbr (c : Ctl) (f : FmtM) : Statement (.phwaitNbr c f) := Laws.opcode_of_word _ c 0xCB _ rfl rfl
theorem phwaitAll (c : Ctl) (f : FmtM) : Statement (.phwaitAll c f) := Laws.opcode_of_word _ c 0xCB _ rfl rfl
theorem sealv (c : Ctl) (f : FmtM) : Statement (.sealv c f) := Laws.opcode_of_word _ c 0xCC _ rfl rfl
theorem reuse (c : Ctl) (f : FmtM) : Statement (.reuse c f) := Laws.opcode_of_word _ c 0xCD _ rfl rfl
theorem drop (c : Ctl) (f : FmtM) : Statement (.drop c f) := Laws.opcode_of_word _ c 0xCE _ rfl rfl
theorem rdhintFloor (c : Ctl) (f : FmtM) : Statement (.rdhintFloor c f) := Laws.opcode_of_word _ c 0xCF _ rfl rfl
theorem rdhintCeil (c : Ctl) (f : FmtM) : Statement (.rdhintCeil c f) := Laws.opcode_of_word _ c 0xCF _ rfl rfl
theorem rdhintClear (c : Ctl) (f : FmtM) : Statement (.rdhintClear c f) := Laws.opcode_of_word _ c 0xCF _ rfl rfl
theorem rdhintQuery (c : Ctl) (f : FmtM) : Statement (.rdhintQuery c f) := Laws.opcode_of_word _ c 0xCF _ rfl rfl
theorem atom (c : Ctl) (f : FmtX) : Statement (.atom c f) := Laws.opcode_of_word _ c 0xD0 _ rfl rfl
theorem atomf (c : Ctl) (f : FmtX) : Statement (.atomf c f) := Laws.opcode_of_word _ c 0xD1 _ rfl rfl
theorem cas (c : Ctl) (f : FmtX) : Statement (.cas c f) := Laws.opcode_of_word _ c 0xD2 _ rfl rfl
theorem casXchg (c : Ctl) (f : FmtX) : Statement (.casXchg c f) := Laws.opcode_of_word _ c 0xD2 _ rfl rfl
theorem red (c : Ctl) (f : FmtX) : Statement (.red c f) := Laws.opcode_of_word _ c 0xD3 _ rfl rfl
theorem oapp (c : Ctl) (f : FmtX) : Statement (.oapp c f) := Laws.opcode_of_word _ c 0xD4 _ rfl rfl
theorem odecl (c : Ctl) (f : FmtX) : Statement (.odecl c f) := Laws.opcode_of_word _ c 0xD5 _ rfl rfl
theorem skred (c : Ctl) (f : FmtX) : Statement (.skred c f) := Laws.opcode_of_word _ c 0xD6 _ rfl rfl
theorem skinit (c : Ctl) (f : FmtA) : Statement (.skinit c f) := Laws.opcode_of_word _ c 0xD8 _ rfl rfl
theorem skadd (c : Ctl) (f : FmtA) : Statement (.skadd c f) := Laws.opcode_of_word _ c 0xD9 _ rfl rfl
theorem skmrg (c : Ctl) (f : FmtA) : Statement (.skmrg c f) := Laws.opcode_of_word _ c 0xDA _ rfl rfl
theorem skcmp (c : Ctl) (f : FmtA) : Statement (.skcmp c f) := Laws.opcode_of_word _ c 0xDB _ rfl rfl
theorem skq (c : Ctl) (f : FmtA) : Statement (.skq c f) := Laws.opcode_of_word _ c 0xDC _ rfl rfl
theorem skrank (c : Ctl) (f : FmtA) : Statement (.skrank c f) := Laws.opcode_of_word _ c 0xDD _ rfl rfl
theorem sktop (c : Ctl) (f : FmtA) : Statement (.sktop c f) := Laws.opcode_of_word _ c 0xDE _ rfl rfl
theorem skdc (c : Ctl) (f : FmtA) : Statement (.skdc c f) := Laws.opcode_of_word _ c 0xDF _ rfl rfl
theorem rngkSet (c : Ctl) (f : FmtA) : Statement (.rngkSet c f) := Laws.opcode_of_word _ c 0xE0 _ rfl rfl
theorem rngkSeek (c : Ctl) (f : FmtA) : Statement (.rngkSeek c f) := Laws.opcode_of_word _ c 0xE0 _ rfl rfl
theorem rngkRead (c : Ctl) (f : FmtA) : Statement (.rngkRead c f) := Laws.opcode_of_word _ c 0xE0 _ rfl rfl
theorem rngv (c : Ctl) (f : FmtA) : Statement (.rngv c f) := Laws.opcode_of_word _ c 0xE1 _ rfl rfl
theorem rngu (c : Ctl) (f : FmtA) : Statement (.rngu c f) := Laws.opcode_of_word _ c 0xE2 _ rfl rfl
theorem sgumb (c : Ctl) (f : FmtA) : Statement (.sgumb c f) := Laws.opcode_of_word _ c 0xE3 _ rfl rfl
theorem stopk (c : Ctl) (f : FmtA) : Statement (.stopk c f) := Laws.opcode_of_word _ c 0xE4 _ rfl rfl
theorem mxm (c : Ctl) (f : FmtA) : Statement (.mxm c f) := Laws.opcode_of_word _ c 0xE8 _ rfl rfl
theorem mxmt (c : Ctl) (f : FmtA) : Statement (.mxmt c f) := Laws.opcode_of_word _ c 0xE9 _ rfl rfl
theorem mxmg (c : Ctl) (f : FmtA) : Statement (.mxmg c f) := Laws.opcode_of_word _ c 0xEA _ rfl rfl
theorem acld (c : Ctl) (f : FmtA) : Statement (.acld c f) := Laws.opcode_of_word _ c 0xEB _ rfl rfl
theorem acst (c : Ctl) (f : FmtA) : Statement (.acst c f) := Laws.opcode_of_word _ c 0xEC _ rfl rfl
theorem acz (c : Ctl) (f : FmtA) : Statement (.acz c f) := Laws.opcode_of_word _ c 0xED _ rfl rfl
theorem cbld (c : Ctl) (f : FmtA) : Statement (.cbld c f) := Laws.opcode_of_word _ c 0xEE _ rfl rfl
theorem qsplit (c : Ctl) (f : FmtA) : Statement (.qsplit c f) := Laws.opcode_of_word _ c 0xEF _ rfl rfl
theorem wrsig (c : Ctl) (f : FmtA) : Statement (.wrsig c f) := Laws.opcode_of_word _ c 0xF0 _ rfl rfl
theorem mcst (c : Ctl) (f : FmtA) : Statement (.mcst c f) := Laws.opcode_of_word _ c 0xF1 _ rfl rfl
theorem cpyr (c : Ctl) (f : FmtA) : Statement (.cpyr c f) := Laws.opcode_of_word _ c 0xF2 _ rfl rfl
theorem coll (c : Ctl) (f : FmtA) : Statement (.coll c f) := Laws.opcode_of_word _ c 0xF3 _ rfl rfl
theorem clrun (c : Ctl) (f : FmtA) : Statement (.clrun c f) := Laws.opcode_of_word _ c 0xF4 _ rfl rfl
theorem launch (c : Ctl) (f : FmtA) : Statement (.launch c f) := Laws.opcode_of_word _ c 0xF6 _ rfl rfl
theorem lqryQueue (c : Ctl) (f : FmtA) : Statement (.lqryQueue c f) := Laws.opcode_of_word _ c 0xF7 _ rfl rfl
theorem lqrySys (c : Ctl) (f : FmtA) : Statement (.lqrySys c f) := Laws.opcode_of_word _ c 0xF7 _ rfl rfl
theorem spapp (c : Ctl) (f : FmtA) : Statement (.spapp c f) := Laws.opcode_of_word _ c 0xF8 _ rfl rfl
theorem spverExact (c : Ctl) (f : FmtA) : Statement (.spverExact c f) := Laws.opcode_of_word _ c 0xF9 _ rfl rfl
theorem spverProb (c : Ctl) (f : FmtA) : Statement (.spverProb c f) := Laws.opcode_of_word _ c 0xF9 _ rfl rfl
theorem spacc (c : Ctl) (f : FmtA) : Statement (.spacc c f) := Laws.opcode_of_word _ c 0xFA _ rfl rfl
theorem sprst (c : Ctl) (f : FmtA) : Statement (.sprst c f) := Laws.opcode_of_word _ c 0xFB _ rfl rfl
theorem moduleReset : Statement (.moduleReset) := Laws.opcode_of_none _ rfl
theorem pickerIssue (p : Nat) : Statement (.pickerIssue p) := Laws.opcode_of_none _ rfl
theorem logSlotFree (cx : Nat) : Statement (.logSlotFree cx) := Laws.opcode_of_none _ rfl
theorem watchdogExpiry (g : Nat) : Statement (.watchdogExpiry g) := Laws.opcode_of_none _ rfl
theorem sleepEnd (g : Nat) : Statement (.sleepEnd g) := Laws.opcode_of_none _ rfl
theorem yieldEnd (g : Nat) : Statement (.yieldEnd g) := Laws.opcode_of_none _ rfl
theorem memAccessComplete (g : Nat) (a : Nat) (r : Nat) : Statement (.memAccessComplete g a r) := Laws.opcode_of_none _ rfl
theorem loadFillReturn (g : Nat) (a : Nat) (r : Nat) : Statement (.loadFillReturn g a r) := Laws.opcode_of_none _ rfl
theorem wcBufferTimeout (p : Nat) (n : Nat) : Statement (.wcBufferTimeout p n) := Laws.opcode_of_none _ rfl
theorem trackerEntryRetire (p : Nat) (n : Nat) : Statement (.trackerEntryRetire p n) := Laws.opcode_of_none _ rfl
theorem completionWordRetry (cx : Nat) : Statement (.completionWordRetry cx) := Laws.opcode_of_none _ rfl
theorem blockPlace (die : Nat) (cx : Nat) (core : Nat) : Statement (.blockPlace die cx core) := Laws.opcode_of_none _ rfl
theorem blockStart (b : Nat) : Statement (.blockStart b) := Laws.opcode_of_none _ rfl
theorem clusterReserve (die : Nat) (cx : Nat) (core : Nat) : Statement (.clusterReserve die cx core) := Laws.opcode_of_none _ rfl
theorem clusterRetry (die : Nat) (k : Nat) : Statement (.clusterRetry die k) := Laws.opcode_of_none _ rfl
theorem preempt (b : Nat) : Statement (.preempt b) := Laws.opcode_of_none _ rfl
theorem restore (b : Nat) (core : Nat) : Statement (.restore b core) := Laws.opcode_of_none _ rfl
theorem copyPieceWrite (core : Nat) (op : Nat) (n : Nat) : Statement (.copyPieceWrite core op n) := Laws.opcode_of_none _ rfl
theorem copyFaultStop (core : Nat) (op : Nat) : Statement (.copyFaultStop core op) := Laws.opcode_of_none _ rfl
theorem summaryOpRun (r : UnitRun) : Statement (.summaryOpRun r) := Laws.opcode_of_none _ rfl
theorem matrixOpRun (r : UnitRun) : Statement (.matrixOpRun r) := Laws.opcode_of_none _ rfl
theorem matrixOpFault (core : Nat) : Statement (.matrixOpFault core) := Laws.opcode_of_none _ rfl
theorem sramSingleBitError (core : Nat) : Statement (.sramSingleBitError core) := Laws.opcode_of_none _ rfl
theorem sramDoubleBitError (site : SramSite) : Statement (.sramDoubleBitError site) := Laws.opcode_of_none _ rfl
theorem scrubPass (core : Nat) : Statement (.scrubPass core) := Laws.opcode_of_none _ rfl
theorem hbmCorrectedError (pkg : Nat) : Statement (.hbmCorrectedError pkg) := Laws.opcode_of_none _ rfl
theorem hbmUncorrectableError (sector : Nat) : Statement (.hbmUncorrectableError sector) := Laws.opcode_of_none _ rfl
theorem patrolScrub (pkg : Nat) : Statement (.patrolScrub pkg) := Laws.opcode_of_none _ rfl
theorem keySlotError (pkg : Nat) (slot : Nat) : Statement (.keySlotError pkg slot) := Laws.opcode_of_none _ rfl
theorem dieLinkFlitCrcFail (l : LinkDir) : Statement (.dieLinkFlitCrcFail l) := Laws.opcode_of_none _ rfl
theorem dieLinkRetrainEnd (pkg : Nat) (ok : Bool) : Statement (.dieLinkRetrainEnd pkg ok) := Laws.opcode_of_none _ rfl
theorem powerSample (pkg : Nat) (watts : Nat) (degC : Nat) : Statement (.powerSample pkg watts degC) := Laws.opcode_of_none _ rfl
theorem thermalLimit (pkg : Nat) : Statement (.thermalLimit pkg) := Laws.opcode_of_none _ rfl
theorem ualinkPortRetrain (port : Nat) : Statement (.ualinkPortRetrain port) := Laws.opcode_of_none _ rfl
theorem portDown (port : Nat) : Statement (.portDown port) := Laws.opcode_of_none _ rfl
theorem podReset : Statement (.podReset) := Laws.opcode_of_none _ rfl
theorem svcReplay (q : SvcReq) : Statement (.svcReplay q) := Laws.opcode_of_none _ rfl
theorem svcInval (q : SvcReq) : Statement (.svcInval q) := Laws.opcode_of_none _ rfl
theorem svcCtxstart (q : SvcReq) : Statement (.svcCtxstart q) := Laws.opcode_of_none _ rfl
theorem svcCtxstop (q : SvcReq) : Statement (.svcCtxstop q) := Laws.opcode_of_none _ rfl
theorem svcKeyload (q : SvcReq) : Statement (.svcKeyload q) := Laws.opcode_of_none _ rfl
theorem svcKeyclr (q : SvcReq) : Statement (.svcKeyclr q) := Laws.opcode_of_none _ rfl
theorem svcPlimit (q : SvcReq) : Statement (.svcPlimit q) := Laws.opcode_of_none _ rfl
theorem svcAttest (q : SvcReq) : Statement (.svcAttest q) := Laws.opcode_of_none _ rfl
theorem svcGrant (q : SvcReq) : Statement (.svcGrant q) := Laws.opcode_of_none _ rfl
theorem svcUnknown (q : SvcReq) : Statement (.svcUnknown q) := Laws.opcode_of_none _ rfl
theorem cxlMemAccess (h : HostAccess) : Statement (.cxlMemAccess h) := Laws.opcode_of_none _ rfl
theorem cxlCacheSnoop (h : HostAccess) : Statement (.cxlCacheSnoop h) := Laws.opcode_of_none _ rfl
theorem waitaWake (g : Nat) : Statement (.waitaWake g) := Laws.opcode_of_none _ rfl
theorem oappGrant (g : Nat) : Statement (.oappGrant g) := Laws.opcode_of_none _ rfl
theorem orderedAtomicGrant (g : Nat) : Statement (.orderedAtomicGrant g) := Laws.opcode_of_none _ rfl
theorem lqExchange (cx : Nat) : Statement (.lqExchange cx) := Laws.opcode_of_none _ rfl
theorem commitRoundStart (cx : Nat) : Statement (.commitRoundStart cx) := Laws.opcode_of_none _ rfl
theorem commitRoundComplete (cx : Nat) : Statement (.commitRoundComplete cx) := Laws.opcode_of_none _ rfl
theorem intervalEnd (die : Nat) : Statement (.intervalEnd die) := Laws.opcode_of_none _ rfl
theorem directoryEntryError (line : Nat) (lost : Bool) : Statement (.directoryEntryError line lost) := Laws.opcode_of_none _ rfl
theorem msgReqs (id : Nat) : Statement (.msgReqs id) := Laws.opcode_of_none _ rfl
theorem msgReqx (id : Nat) : Statement (.msgReqx id) := Laws.opcode_of_none _ rfl
theorem msgUpg (id : Nat) : Statement (.msgUpg id) := Laws.opcode_of_none _ rfl
theorem msgPext (id : Nat) : Statement (.msgPext id) := Laws.opcode_of_none _ rfl
theorem msgEvn (id : Nat) : Statement (.msgEvn id) := Laws.opcode_of_none _ rfl
theorem msgEvd (id : Nat) : Statement (.msgEvd id) := Laws.opcode_of_none _ rfl
theorem msgSnpshr (id : Nat) : Statement (.msgSnpshr id) := Laws.opcode_of_none _ rfl
theorem msgSnpinv (id : Nat) : Statement (.msgSnpinv id) := Laws.opcode_of_none _ rfl
theorem msgSnpmask (id : Nat) : Statement (.msgSnpmask id) := Laws.opcode_of_none _ rfl
theorem msgSnpmerge (id : Nat) : Statement (.msgSnpmerge id) := Laws.opcode_of_none _ rfl
theorem msgInv (id : Nat) : Statement (.msgInv id) := Laws.opcode_of_none _ rfl
theorem msgAck (id : Nat) : Statement (.msgAck id) := Laws.opcode_of_none _ rfl
theorem msgAckd (id : Nat) : Statement (.msgAckd id) := Laws.opcode_of_none _ rfl
theorem msgDatas (id : Nat) (vic : Option Nat) : Statement (.msgDatas id vic) := Laws.opcode_of_none _ rfl
theorem msgDatasn (id : Nat) : Statement (.msgDatasn id) := Laws.opcode_of_none _ rfl
theorem msgDatae (id : Nat) (vic : Option Nat) : Statement (.msgDatae id vic) := Laws.opcode_of_none _ rfl
theorem msgDatap (id : Nat) (vic : Option Nat) : Statement (.msgDatap id vic) := Laws.opcode_of_none _ rfl
theorem msgEvack (id : Nat) : Statement (.msgEvack id) := Laws.opcode_of_none _ rfl
theorem msgAtomf (id : Nat) : Statement (.msgAtomf id) := Laws.opcode_of_none _ rfl
theorem msgAtomr (id : Nat) : Statement (.msgAtomr id) := Laws.opcode_of_none _ rfl
theorem msgRdu (id : Nat) : Statement (.msgRdu id) := Laws.opcode_of_none _ rfl
theorem msgRdur (id : Nat) : Statement (.msgRdur id) := Laws.opcode_of_none _ rfl
theorem msgWru (id : Nat) : Statement (.msgWru id) := Laws.opcode_of_none _ rfl
theorem msgWrua (id : Nat) : Statement (.msgWrua id) := Laws.opcode_of_none _ rfl
theorem msgPut (id : Nat) : Statement (.msgPut id) := Laws.opcode_of_none _ rfl
theorem msgPuta (id : Nat) : Statement (.msgPuta id) := Laws.opcode_of_none _ rfl
theorem msgSig (id : Nat) : Statement (.msgSig id) := Laws.opcode_of_none _ rfl
theorem msgMcd (id : Nat) : Statement (.msgMcd id) := Laws.opcode_of_none _ rfl
theorem msgRdc (id : Nat) : Statement (.msgRdc id) := Laws.opcode_of_none _ rfl
theorem msgRdr (id : Nat) : Statement (.msgRdr id) := Laws.opcode_of_none _ rfl
theorem reductionDeadline (setid : Nat) (chunk : Nat) : Statement (.reductionDeadline setid chunk) := Laws.opcode_of_none _ rfl
theorem msgRsv (id : Nat) : Statement (.msgRsv id) := Laws.opcode_of_none _ rfl
theorem msgGnt (id : Nat) : Statement (.msgGnt id) := Laws.opcode_of_none _ rfl
theorem grantWithdraw (id : Nat) : Statement (.grantWithdraw id) := Laws.opcode_of_none _ rfl
theorem msgNak (id : Nat) : Statement (.msgNak id) := Laws.opcode_of_none _ rfl
theorem nakBackoffExpiry (sk : Nat) : Statement (.nakBackoffExpiry sk) := Laws.opcode_of_none _ rfl
theorem fabricAck (id : Nat) : Statement (.fabricAck id) := Laws.opcode_of_none _ rfl
theorem reservedMessageDrop (id : Nat) : Statement (.reservedMessageDrop id) := Laws.opcode_of_none _ rfl
theorem chamoisOpStart (die : Nat) (ch : Nat) : Statement (.chamoisOpStart die ch) := Laws.opcode_of_none _ rfl
theorem clSend (die : Nat) (ch : Nat) : Statement (.clSend die ch) := Laws.opcode_of_none _ rfl
theorem clRecv (die : Nat) (ch : Nat) : Statement (.clRecv die ch) := Laws.opcode_of_none _ rfl
theorem clReduce (die : Nat) (ch : Nat) : Statement (.clReduce die ch) := Laws.opcode_of_none _ rfl
theorem clCopy (die : Nat) (ch : Nat) : Statement (.clCopy die ch) := Laws.opcode_of_none _ rfl
theorem clMcast (die : Nat) (ch : Nat) : Statement (.clMcast die ch) := Laws.opcode_of_none _ rfl
theorem clWaitb (die : Nat) (ch : Nat) : Statement (.clWaitb die ch) := Laws.opcode_of_none _ rfl
theorem clSignal (die : Nat) (ch : Nat) : Statement (.clSignal die ch) := Laws.opcode_of_none _ rfl
theorem clArrive (die : Nat) (ch : Nat) : Statement (.clArrive die ch) := Laws.opcode_of_none _ rfl
theorem clLoop (die : Nat) (ch : Nat) : Statement (.clLoop die ch) := Laws.opcode_of_none _ rfl
theorem clEndloop (die : Nat) (ch : Nat) : Statement (.clEndloop die ch) := Laws.opcode_of_none _ rfl
theorem clRange (die : Nat) (ch : Nat) : Statement (.clRange die ch) := Laws.opcode_of_none _ rfl
theorem clEnd (die : Nat) (ch : Nat) : Statement (.clEnd die ch) := Laws.opcode_of_none _ rfl
theorem ualinkPortRetrainEnd (port : Nat) : Statement (.ualinkPortRetrainEnd port) := Laws.opcode_of_none _ rfl
theorem linkLevelReplay (port : Nat) : Statement (.linkLevelReplay port) := Laws.opcode_of_none _ rfl
theorem completionPoint (g : Nat) (n : Nat) : Statement (.completionPoint g n) := Laws.opcode_of_none _ rfl
theorem copyEngineOpStart (core : Nat) : Statement (.copyEngineOpStart core) := Laws.opcode_of_none _ rfl
theorem fallbackWatchdogLimit (die : Nat) (ch : Nat) : Statement (.fallbackWatchdogLimit die ch) := Laws.opcode_of_none _ rfl
theorem ultraEthernetDelivery (q : UePacket) : Statement (.ultraEthernetDelivery q) := Laws.opcode_of_none _ rfl
theorem spdmSecureSessionMessage (pkg : Nat) (session : Nat) (handle : Nat) (key : BitVec 512) : Statement (.spdmSecureSessionMessage pkg session handle key) := Laws.opcode_of_none _ rfl
theorem nonWindowRequestDrop (pkg : Nat) : Statement (.nonWindowRequestDrop pkg) := Laws.opcode_of_none _ rfl

end Laws.Opcode

end Sys2Proof
end

