-- ==== Sys2Proof/Tests/Slice0.lean ====
section
/-!
SUPPORT. The tests: ill-formed terms that the checks refuse, words written out from the encoding tables, for every obligation a state and operands that meet its hypotheses,
and single steps whose expected results are worked out from the rules.
-/
namespace Sys2Proof.Tests

open Sys2Proof Sys2Proof.Machine Sys2Proof.Claims
open Host (Outcome)

-- each test is a kernel evaluation: one after the other
set_option Elab.async false

/-! ## Helpers -/

/-- The control fields without a chain, waits or a counter, and with counter 1. -/
def c0 : Ctl := ⟨0, 0, 0, 0⟩
def c1 : Ctl := ⟨0, 0, 0, 1⟩

/-- A running group: group 0 of block 1, with some register contents. -/
def g0 : Group :=
  { block := 1, stop := .running, pc := 0x2000, nv := 64,
    g := [(2, 7), (3, 0xFFFFFFFE), (4, 0x1000), (6, 3), (8, 0x80000000), (9, 0xFFFFFFFF), (10, 5)],
    v := [(32 * 4 + 1, 9), (32 * 5 + 1, 0xFFFFFFFF), (32 * 8, 0x3F800000), (32 * 10, 0x3C003C00)],
    p := [(0, 0x0F), (1, 0xFF)], q := 0x02 }
/-- A pod with one package in which that group is the current one, on core 0, in context 0. Its core holds one translation, of the first
terabyte to the same physical addresses, and the context is granted all memory of the package. -/
def sOf (g : Group) : State :=
  { clock := 1000, cur := 512, nextId := 7, groups := [(512, g)],
    blocks := [(1, { kernel := 1, cores := [0], stage := .running, local' := [(0, { sb := 0x4000 })] })],
    kernels := [(1, { groups := 4 })], cores := [(0, { tlb := [⟨0, 2 ^ 40, 0, true, true, 0, 0, 0⟩] })],
    ctxs := [(0, { grants := [(0, 0, 2 ^ 43)] })] }
def s0 : State := sOf g0

/-- The outcome is a next state, and it is as told. -/
def goes (o : Outcome State Fault Refusal) (p : State → Bool) : Bool :=
  match o with
  | .next u => p u
  | _ => false

theorem goes_next {o : Outcome State Fault Refusal} {p : State → Bool} (h : goes o p = true) : ∃ u, o = .next u ∧ p u = true := by
  cases o with
  | next u => exact ⟨u, rfl, h⟩
  | fault r => simp [goes] at h
  | refused r => simp [goes] at h

theorem acts {g : Group} {gd : BitVec 4} {srcs : List Nat}
    (h : g.qGuard gd = true ∧ 256 + gd.toNat % 8 ∉ g.badP ∧ ∀ r ∈ srcs, r ∉ g.badG) : Acts g gd srcs := ⟨h.1, h.2.1, h.2.2⟩

theorem lanesOk {g : Group} {gd : BitVec 4} {named reads : List (Nat × Nat)} {preds : List Nat}
    (h : (∀ r ∈ named, r.1 + r.2 ≤ g.nv) ∧ g.badP = [] ∧ g.badV = []) : Lanes g gd named reads preds := by
  constructor <;> simp_all

theorem crosses {g : Group} {gd : BitVec 4} {dest reads : List (Nat × Nat)} {preds gregs : List Nat}
    (h : (∀ r ∈ dest ++ reads, r.1 + r.2 ≤ g.nv) ∧ g.badP = [] ∧ g.badV = [] ∧ g.badG = []) : Crosses g gd dest reads preds gregs := by
  constructor <;> simp_all
/-- Words 1 to 35, composed field by field from the layouts of R57 and R61 to R67 and the opcodes of R71. -/
def wordRows0 : List (W64 × Instr) := [
  (0x9001100000000000, .nop ⟨1, 1, 1, 1⟩ ⟨0⟩),
  (0x8000001B62100000, .pfx ⟨1, 0, 0, 0⟩ ⟨5, 1, 3, 0, 0x21, 0⟩),
  (0x3004310914260040, .gmov ⟨0, 3, 4, 3⟩ ⟨9, 0x14, 0x26, 0, 0x40⟩),
  (0x4008411915008001, .gmovi ⟨0, 4, 8, 4⟩ ⟨9, 0x15, 0, 0x8001⟩),
  (0x5010512317001234, .gmovh ⟨0, 5, 16, 5⟩ ⟨3, 0x17, 0, 0x1234⟩),
  (0xE02061391426FEC0, .gadd ⟨1, 6, 32, 6⟩ ⟨9, 0x14, 0x26, 0xFE, 0xC0⟩),
  (0x7040714015273900, .gsub ⟨0, 7, 64, 7⟩ ⟨0, 0x15, 0x27, 0x39, 0⟩),
  (0x1080815115273900, .gmul ⟨0, 1, 128, 8⟩ ⟨1, 0x15, 0x27, 0x39, 0⟩),
  (0x2100916215273920, .gmulh ⟨0, 2, 256, 9⟩ ⟨2, 0x15, 0x27, 0x39, 0x20⟩),
  (0x3200A17314263860, .gdiv ⟨0, 3, 512, 10⟩ ⟨3, 0x14, 0x26, 0x38, 0x60⟩),
  (0xC400B184152739A0, .grem ⟨1, 4, 1024, 11⟩ ⟨4, 0x15, 0x27, 0x39, 0xA0⟩),
  (0x5800C19915273900, .gand ⟨0, 5, 2048, 12⟩ ⟨9, 0x15, 0x27, 0x39, 0⟩),
  (0x600111A915273900, .gor ⟨0, 6, 1, 1⟩ ⟨9, 0x15, 0x27, 0x39, 0⟩),
  (0x700221B915273900, .gxor ⟨0, 7, 2, 2⟩ ⟨9, 0x15, 0x27, 0x39, 0⟩),
  (0x100431C515270000, .gnot ⟨0, 1, 4, 3⟩ ⟨5, 0x15, 0x27, 0, 0⟩),
  (0xA00841D915273900, .gshl ⟨1, 2, 8, 4⟩ ⟨9, 0x15, 0x27, 0x39, 0⟩),
  (0x301051E915273900, .gshr ⟨0, 3, 16, 5⟩ ⟨9, 0x15, 0x27, 0x39, 0⟩),
  (0x402061F915273900, .gsar ⟨0, 4, 32, 6⟩ ⟨9, 0x15, 0x27, 0x39, 0⟩),
  (0x5040720915273900, .grot ⟨0, 5, 64, 7⟩ ⟨9, 0x15, 0x27, 0x39, 0⟩),
  (0x6080821615273920, .gmin ⟨0, 6, 128, 8⟩ ⟨6, 0x15, 0x27, 0x39, 0x20⟩),
  (0xF100922715273900, .gmax ⟨1, 7, 256, 9⟩ ⟨7, 0x15, 0x27, 0x39, 0⟩),
  (0x1200A23905273924, .gcmp ⟨0, 1, 512, 10⟩ ⟨9, 5, 0x27, 0x39, 0x24⟩),
  (0x2400B2491527390D, .gsel ⟨0, 2, 1024, 11⟩ ⟨9, 0x15, 0x27, 0x39, 0xD⟩),
  (0x3800C25914263925, .glea ⟨0, 3, 2048, 12⟩ ⟨9, 0x14, 0x26, 0x39, 0x25⟩),
  (0x4001126915260040, .gpopc ⟨0, 4, 1, 1⟩ ⟨9, 0x15, 0x26, 0, 0x40⟩),
  (0xD002227915270000, .gclz ⟨1, 5, 2, 2⟩ ⟨9, 0x15, 0x27, 0, 0⟩),
  (0x6004328915273920, .gbfx ⟨0, 6, 4, 3⟩ ⟨9, 0x15, 0x27, 0x39, 0x20⟩),
  (0x7008429914263840, .gbfi ⟨0, 7, 8, 4⟩ ⟨9, 0x14, 0x26, 0x38, 0x40⟩),
  (0x101052A90305060B, .qop ⟨0, 1, 16, 5⟩ ⟨9, 3, 5, 6, 0xB⟩),
  (0x202062B706000900, .sread ⟨0, 2, 32, 6⟩ ⟨7, 6, 0, 9, 0⟩),
  (0xB04072C700220600, .swrite ⟨1, 3, 64, 7⟩ ⟨7, 0, 0x22, 6, 0⟩),
  (0x408082D700112380, .setfmt ⟨0, 4, 128, 8⟩ ⟨7, 0, 0x11, 0x23, 0x80⟩),
  (0x510092E744000000, .getfmt ⟨0, 5, 256, 9⟩ ⟨7, 0x44, 0, 0, 0⟩),
  (0x6200A2F2FFFFFA00, .bra ⟨0, 6, 512, 10⟩ ⟨2, 0xFFFFFA, 0⟩),
  (0x7400B30900263980, .brx ⟨0, 7, 1024, 11⟩ ⟨9, 0, 0x26, 0x39, 0x80⟩)]
theorem test_words_0 : wordRows0.all (fun r => (match decode r.1 with | .ok i => i == r.2 | .error _ => false) && encode r.2 == some r.1) = true := by decide +kernel

/-- Words 36 to 70, composed field by field from the layouts of R57 and R61 to R67 and the opcodes of R71. -/
def wordRows1 : List (W64 × Instr) := [
  (0x9800C3170000A00A, .call ⟨1, 1, 2048, 12⟩ ⟨7, 0xA0, 0xA⟩),
  (0x20011327000A0000, .ret ⟨0, 2, 1, 1⟩ ⟨7, 0, 0xA, 0, 0⟩),
  (0x3002233BFFF00020, .vbr ⟨0, 3, 2, 2⟩ ⟨0xB, 0xFFF0, 0x20⟩),
  (0x4004334900300030, .vbrk ⟨0, 4, 4, 3⟩ ⟨9, 0x30, 0x30⟩),
  (0x5008435B00000005, .vexit ⟨0, 5, 8, 4⟩ ⟨0xB, 0, 0, 0, 5⟩),
  (0xE01053690000138A, .waitk ⟨1, 6, 16, 5⟩ ⟨9, 0, 0, 0x13, 0x8A⟩),
  (0x7020637700000000, .yield ⟨0, 7, 32, 6⟩ ⟨7, 0, 0, 0, 0⟩),
  (0x1040738900001234, .sleep ⟨0, 1, 64, 7⟩ ⟨9, 0, 0, 0x1234⟩),
  (0x2080839700000000, .exit ⟨0, 2, 128, 8⟩ ⟨7, 0, 0, 0, 0⟩),
  (0x310093A600000000, .tail ⟨0, 3, 256, 9⟩ ⟨6, 0, 0, 0, 0⟩),
  (0xC200A3B90000BEEF, .trap ⟨1, 4, 512, 10⟩ ⟨9, 0, 0, 0xBEEF⟩),
  (0x5400B3C700000000, .bkpt ⟨0, 5, 1024, 11⟩ ⟨7, 0, 0, 0, 0⟩),
  (0x6800C50B11220000, .vmov ⟨0, 6, 2048, 12⟩ ⟨0xB, 0x11, 0x22, 0, 0, 0⟩),
  (0x7001151B1100ABCD, .vmovi ⟨0, 7, 1, 1⟩ ⟨0xB, 0x11, 0, 0xABCD⟩),
  (0x1002251B1101ABCD, .vmoviHi ⟨0, 1, 2, 2⟩ ⟨0xB, 0x11, 1, 0xABCD⟩),
  (0xA004351B1102ABCD, .vmoviZ ⟨1, 2, 4, 3⟩ ⟨0xB, 0x11, 2, 0xABCD⟩),
  (0x3008451B1103ABCD, .vmoviRep ⟨0, 3, 8, 4⟩ ⟨0xB, 0x11, 3, 0xABCD⟩),
  (0x4010552B1122F318, .vadd ⟨0, 4, 16, 5⟩ ⟨0xB, 0x11, 0x22, 0xF3, 1, 8⟩),
  (0x5020653B11223310, .vsub ⟨0, 5, 32, 6⟩ ⟨0xB, 0x11, 0x22, 0x33, 1, 0⟩),
  (0x6040754B11223310, .vmul ⟨0, 6, 64, 7⟩ ⟨0xB, 0x11, 0x22, 0x33, 1, 0⟩),
  (0xF080855B11223310, .vmulh ⟨1, 7, 128, 8⟩ ⟨0xB, 0x11, 0x22, 0x33, 1, 0⟩),
  (0x1100956B11223310, .vmad ⟨0, 1, 256, 9⟩ ⟨0xB, 0x11, 0x22, 0x33, 1, 0⟩),
  (0x2200A57B11223310, .vdiv ⟨0, 2, 512, 10⟩ ⟨0xB, 0x11, 0x22, 0x33, 1, 0⟩),
  (0x3400B58B11223310, .vrem ⟨0, 3, 1024, 11⟩ ⟨0xB, 0x11, 0x22, 0x33, 1, 0⟩),
  (0x4800C59B11223310, .vand ⟨0, 4, 2048, 12⟩ ⟨0xB, 0x11, 0x22, 0x33, 1, 0⟩),
  (0xD00115AB11223310, .vor ⟨1, 5, 1, 1⟩ ⟨0xB, 0x11, 0x22, 0x33, 1, 0⟩),
  (0x600225BB11223310, .vxor ⟨0, 6, 2, 2⟩ ⟨0xB, 0x11, 0x22, 0x33, 1, 0⟩),
  (0x700435CB11220000, .vnot ⟨0, 7, 4, 3⟩ ⟨0xB, 0x11, 0x22, 0, 0, 0⟩),
  (0x100845DB11223310, .vshl ⟨0, 1, 8, 4⟩ ⟨0xB, 0x11, 0x22, 0x33, 1, 0⟩),
  (0x201055EB11223310, .vshr ⟨0, 2, 16, 5⟩ ⟨0xB, 0x11, 0x22, 0x33, 1, 0⟩),
  (0xB02065FB11223310, .vsar ⟨1, 3, 32, 6⟩ ⟨0xB, 0x11, 0x22, 0x33, 1, 0⟩),
  (0x4040760B11223310, .vmin ⟨0, 4, 64, 7⟩ ⟨0xB, 0x11, 0x22, 0x33, 1, 0⟩),
  (0x5080861B11223310, .vmax ⟨0, 5, 128, 8⟩ ⟨0xB, 0x11, 0x22, 0x33, 1, 0⟩),
  (0x6100962B11220010, .vabs ⟨0, 6, 256, 9⟩ ⟨0xB, 0x11, 0x22, 0, 1, 0⟩),
  (0x7200A63B05223314, .vcmp ⟨0, 7, 512, 10⟩ ⟨0xB, 5, 0x22, 0x33, 1, 4⟩)]
theorem test_words_1 : wordRows1.all (fun r => (match decode r.1 with | .ok i => i == r.2 | .error _ => false) && encode r.2 == some r.1) = true := by decide +kernel

/-- Words 71 to 105, composed field by field from the layouts of R57 and R61 to R67 and the opcodes of R71. -/
def wordRows2 : List (W64 × Instr) := [
  (0x9400B64B1122330D, .vsel ⟨1, 1, 1024, 11⟩ ⟨0xB, 0x11, 0x22, 0x33, 0, 0xD⟩),
  (0x2800C65B11220000, .vpopc ⟨0, 2, 2048, 12⟩ ⟨0xB, 0x11, 0x22, 0, 0, 0⟩),
  (0x3001166B11220000, .vclz ⟨0, 3, 1, 1⟩ ⟨0xB, 0x11, 0x22, 0, 0, 0⟩),
  (0x4002267B11220000, .vbrev ⟨0, 4, 2, 2⟩ ⟨0xB, 0x11, 0x22, 0, 0, 0⟩),
  (0x5004368B11223300, .vbfx ⟨0, 5, 4, 3⟩ ⟨0xB, 0x11, 0x22, 0x33, 0, 0⟩),
  (0xE008469B11223300, .vbfi ⟨1, 6, 8, 4⟩ ⟨0xB, 0x11, 0x22, 0x33, 0, 0⟩),
  (0x701056AB11223300, .vprmt ⟨0, 7, 16, 5⟩ ⟨0xB, 0x11, 0x22, 0x33, 0, 0⟩),
  (0x102066BB11223373, .vdot4 ⟨0, 1, 32, 6⟩ ⟨0xB, 0x11, 0x22, 0x33, 7, 3⟩),
  (0x204076CB05030609, .pop ⟨0, 2, 64, 7⟩ ⟨0xB, 5, 3, 6, 0, 9⟩),
  (0x3080880B11223380, .fadd ⟨0, 3, 128, 8⟩ ⟨0xB, 0x11, 0x22, 0x33, 8, 0⟩),
  (0xC100981B11223380, .fsub ⟨1, 4, 256, 9⟩ ⟨0xB, 0x11, 0x22, 0x33, 8, 0⟩),
  (0x5200A82B11223380, .fmul ⟨0, 5, 512, 10⟩ ⟨0xB, 0x11, 0x22, 0x33, 8, 0⟩),
  (0x6400B83B11223380, .ffma ⟨0, 6, 1024, 11⟩ ⟨0xB, 0x11, 0x22, 0x33, 8, 0⟩),
  (0x7800C84B11223380, .fmin ⟨0, 7, 2048, 12⟩ ⟨0xB, 0x11, 0x22, 0x33, 8, 0⟩),
  (0x1001185B11223380, .fmax ⟨0, 1, 1, 1⟩ ⟨0xB, 0x11, 0x22, 0x33, 8, 0⟩),
  (0xA002286B11223380, .fminn ⟨1, 2, 2, 2⟩ ⟨0xB, 0x11, 0x22, 0x33, 8, 0⟩),
  (0x3004387B11223380, .fmaxn ⟨0, 3, 4, 3⟩ ⟨0xB, 0x11, 0x22, 0x33, 8, 0⟩),
  (0x4008488B05223387, .fcmp ⟨0, 4, 8, 4⟩ ⟨0xB, 5, 0x22, 0x33, 8, 7⟩),
  (0x5010589B11220080, .fclass ⟨0, 5, 16, 5⟩ ⟨0xB, 0x11, 0x22, 0, 8, 0⟩),
  (0x6020689B11220081, .fclassKey ⟨0, 6, 32, 6⟩ ⟨0xB, 0x11, 0x22, 0, 8, 1⟩),
  (0xF04078AB11220080, .fabs ⟨1, 7, 64, 7⟩ ⟨0xB, 0x11, 0x22, 0, 8, 0⟩),
  (0x108088BB11220080, .fneg ⟨0, 1, 128, 8⟩ ⟨0xB, 0x11, 0x22, 0, 8, 0⟩),
  (0x210098CB11220082, .frnd ⟨0, 2, 256, 9⟩ ⟨0xB, 0x11, 0x22, 0, 8, 2⟩),
  (0x3200A8DB112233A0, .fdot2 ⟨0, 3, 512, 10⟩ ⟨0xB, 0x11, 0x22, 0x33, 0xA, 0⟩),
  (0x4400B8E705060812, .fcvt ⟨0, 4, 1024, 11⟩ ⟨7, 5, 6, 8, 1, 2⟩),
  (0xD800C8F7112233A0, .fpack ⟨1, 5, 2048, 12⟩ ⟨7, 0x11, 0x22, 0x33, 0xA, 0⟩),
  (0x60011907112200E5, .funpk ⟨0, 6, 1, 1⟩ ⟨7, 0x11, 0x22, 0, 0xE, 5⟩),
  (0x7002291B11223380, .fscl ⟨0, 7, 2, 2⟩ ⟨0xB, 0x11, 0x22, 0x33, 8, 0⟩),
  (0x1004398B11220080, .xrcp ⟨0, 1, 4, 3⟩ ⟨0xB, 0x11, 0x22, 0, 8, 0⟩),
  (0x2008499B11220080, .xrsq ⟨0, 2, 8, 4⟩ ⟨0xB, 0x11, 0x22, 0, 8, 0⟩),
  (0xB01059AB11220080, .xsqrt ⟨1, 3, 16, 5⟩ ⟨0xB, 0x11, 0x22, 0, 8, 0⟩),
  (0x402069BB11220080, .xexp2 ⟨0, 4, 32, 6⟩ ⟨0xB, 0x11, 0x22, 0, 8, 0⟩),
  (0x504079CB11220080, .xlog2 ⟨0, 5, 64, 7⟩ ⟨0xB, 0x11, 0x22, 0, 8, 0⟩),
  (0x608089DB11220080, .xsin ⟨0, 6, 128, 8⟩ ⟨0xB, 0x11, 0x22, 0, 8, 0⟩),
  (0x710099EB11220080, .xcos ⟨0, 7, 256, 9⟩ ⟨0xB, 0x11, 0x22, 0, 8, 0⟩)]
theorem test_words_2 : wordRows2.all (fun r => (match decode r.1 with | .ok i => i == r.2 | .error _ => false) && encode r.2 == some r.1) = true := by decide +kernel

/-- Words 106 to 140, composed field by field from the layouts of R57 and R61 to R67 and the opcodes of R71. -/
def wordRows3 : List (W64 × Instr) := [
  (0x9200A9FB11220080, .xtanh ⟨1, 1, 512, 10⟩ ⟨0xB, 0x11, 0x22, 0, 8, 0⟩),
  (0x2400BA0B11220080, .xsig ⟨0, 2, 1024, 11⟩ ⟨0xB, 0x11, 0x22, 0, 8, 0⟩),
  (0x3800CA47030401A9, .lshf ⟨0, 3, 2048, 12⟩ ⟨7, 3, 4, 1, 0xA, 9⟩),
  (0x40011A5B11221F08, .lbc ⟨0, 4, 1, 1⟩ ⟨0xB, 0x11, 0x22, 0x1F, 0, 8⟩),
  (0x50022A6B050B0000, .lvoteAll ⟨0, 5, 2, 2⟩ ⟨0xB, 5, 0xB, 0, 0, 0⟩),
  (0xE0043A6B050B0001, .lvoteAny ⟨1, 6, 4, 3⟩ ⟨0xB, 5, 0xB, 0, 0, 1⟩),
  (0x70084A6B050B0002, .lvoteUni ⟨0, 7, 8, 4⟩ ⟨0xB, 5, 0xB, 0, 0, 2⟩),
  (0x10105A6B150B0003, .lvoteBal ⟨0, 1, 16, 5⟩ ⟨0xB, 0x15, 0xB, 0, 0, 3⟩),
  (0x20206A77080607A6, .lred ⟨0, 2, 32, 6⟩ ⟨7, 8, 6, 7, 0xA, 6⟩),
  (0x30407A8B11220113, .lscan ⟨0, 3, 64, 7⟩ ⟨0xB, 0x11, 0x22, 1, 1, 3⟩),
  (0xC0808A9B11220000, .lmatch ⟨1, 4, 128, 8⟩ ⟨0xB, 0x11, 0x22, 0, 0, 0⟩),
  (0x51009AAB11220B00, .lcmpr ⟨0, 5, 256, 9⟩ ⟨0xB, 0x11, 0x22, 0xB, 0, 0⟩),
  (0x6200AAB700100309, .xsend ⟨0, 6, 512, 10⟩ ⟨7, 0, 0x10, 3, 0, 9⟩),
  (0x7400BACB1000030A, .xrecv ⟨0, 7, 1024, 11⟩ ⟨0xB, 0x10, 0, 3, 0, 0xA⟩),
  (0x1800CADB11220000, .vfromg ⟨0, 1, 2048, 12⟩ ⟨0xB, 0x11, 0x22, 0, 0, 0⟩),
  (0xA0011AEB11221E08, .vtog ⟨1, 2, 1, 1⟩ ⟨0xB, 0x11, 0x22, 0x1E, 0, 8⟩),
  (0x30022AEB11220001, .vtogFirst ⟨0, 3, 2, 2⟩ ⟨0xB, 0x11, 0x22, 0, 0, 1⟩),
  (0x40043B0B142A0DF5, .ld ⟨0, 4, 4, 3⟩ ⟨0xB, 0x14, 0x2A, 0, 3, 1, 0xF5⟩),
  (0x50084B1B142A1305, .st ⟨0, 5, 8, 4⟩ ⟨0xB, 0x14, 0x2A, 0, 4, 3, 5⟩),
  (0x60105B2B152BA8F5, .lds ⟨0, 6, 16, 5⟩ ⟨0xB, 0x15, 0x2B, 5, 2, 0, 0xF5⟩),
  (0xF0206B3B152BE001, .sts ⟨1, 7, 32, 6⟩ ⟨0xB, 0x15, 0x2B, 7, 0, 0, 1⟩),
  (0x10407B4B152B2402, .ldsc ⟨0, 1, 64, 7⟩ ⟨0xB, 0x15, 0x2B, 1, 1, 0, 2⟩),
  (0x20808B5B142B4C03, .stsc ⟨0, 2, 128, 8⟩ ⟨0xB, 0x14, 0x2B, 2, 3, 0, 3⟩),
  (0x31009B6B152A89F5, .lda ⟨0, 3, 256, 9⟩ ⟨0xB, 0x15, 0x2A, 4, 2, 1, 0xF5⟩),
  (0x4200AB6B142A6F05, .ldaRng ⟨0, 4, 512, 10⟩ ⟨0xB, 0x14, 0x2A, 3, 3, 3, 5⟩),
  (0xD400BB7B152AAA01, .stl ⟨1, 5, 1024, 11⟩ ⟨0xB, 0x15, 0x2A, 5, 2, 2, 1⟩),
  (0x6800CB870100C300, .fence ⟨0, 6, 2048, 12⟩ ⟨7, 1, 0, 6, 0, 3, 0⟩),
  (0x70011B9B012A0AF5, .prf ⟨0, 7, 1, 1⟩ ⟨0xB, 1, 0x2A, 0, 2, 2, 0xF5⟩),
  (0x10022BA230470000, .cpy ⟨0, 1, 2, 2⟩ ⟨2, 0x30, 0x47, 0, 0, 0⟩),
  (0x20043BB200002D00, .bseal ⟨0, 2, 4, 3⟩ ⟨2, 0, 0, 2, 0xD, 0⟩),
  (0xB0084BC200473D00, .bwait ⟨1, 3, 8, 4⟩ ⟨2, 0, 0x47, 3, 0xD, 0⟩),
  (0x40105BD7162A0CF5, .waita ⟨0, 4, 16, 5⟩ ⟨7, 0x16, 0x2A, 0, 3, 0, 0xF5⟩),
  (0x50206BD7152B0905, .waitaSp ⟨0, 5, 32, 6⟩ ⟨7, 0x15, 0x2B, 0, 2, 1, 5⟩),
  (0x60407BEB152A0004, .cinvL1 ⟨0, 6, 64, 7⟩ ⟨0xB, 0x15, 0x2A, 0, 0, 0, 4⟩),
  (0x70808BEB152A0204, .cinvAll ⟨0, 7, 128, 8⟩ ⟨0xB, 0x15, 0x2A, 0, 0, 2, 4⟩)]
theorem test_words_3 : wordRows3.all (fun r => (match decode r.1 with | .ok i => i == r.2 | .error _ => false) && encode r.2 == some r.1) = true := by decide +kernel

/-- Words 141 to 175, composed field by field from the layouts of R57 and R61 to R67 and the opcodes of R71. -/
def wordRows4 : List (W64 × Instr) := [
  (0x91009BFB152A0004, .cwb ⟨1, 1, 256, 9⟩ ⟨0xB, 0x15, 0x2A, 0, 0, 0, 4⟩),
  (0x2200AC071500000E, .nbarv ⟨0, 2, 512, 10⟩ ⟨7, 0x15, 0, 0, 0, 0, 0xE⟩),
  (0x3400BC1700000109, .nbsync ⟨0, 3, 1024, 11⟩ ⟨7, 0, 0, 0, 0, 1, 9⟩),
  (0x4800CC270000001D, .nbwait ⟨0, 4, 2048, 12⟩ ⟨7, 0, 0, 0, 0, 0, 0x1D⟩),
  (0x50011C37152B0C05, .tbinit ⟨0, 5, 1, 1⟩ ⟨7, 0x15, 0x2B, 0, 3, 0, 5⟩),
  (0xE0022C4709030D20, .tbarv ⟨1, 6, 2, 2⟩ ⟨7, 9, 3, 0, 3, 1, 0x20⟩),
  (0x70043C57152B0CF5, .tbexp ⟨0, 7, 4, 3⟩ ⟨7, 0x15, 0x2B, 0, 3, 0, 0xF5⟩),
  (0x10084C67152B0D05, .tbwait ⟨0, 1, 8, 4⟩ ⟨7, 0x15, 0x2B, 0, 3, 1, 5⟩),
  (0x20105C77002B0C05, .tbinv ⟨0, 2, 16, 5⟩ ⟨7, 0, 0x2B, 0, 3, 0, 5⟩),
  (0x30206C8715000007, .cbarv ⟨0, 3, 32, 6⟩ ⟨7, 0x15, 0, 0, 0, 0, 7⟩),
  (0xC0407C9700000106, .cbsync ⟨1, 4, 64, 7⟩ ⟨7, 0, 0, 0, 0, 1, 6⟩),
  (0x50808CA700000009, .phadv ⟨0, 5, 128, 8⟩ ⟨7, 0, 0, 0, 0, 0, 9⟩),
  (0x61009CB715000000, .phwaitNbr ⟨0, 6, 256, 9⟩ ⟨7, 0x15, 0, 0, 0, 0, 0⟩),
  (0x7200ACB715000100, .phwaitAll ⟨0, 7, 512, 10⟩ ⟨7, 0x15, 0, 0, 0, 1, 0⟩),
  (0x1400BCC7162A0005, .sealv ⟨0, 1, 1024, 11⟩ ⟨7, 0x16, 0x2A, 0, 0, 0, 5⟩),
  (0xA800CCD7152A0005, .reuse ⟨1, 2, 2048, 12⟩ ⟨7, 0x15, 0x2A, 0, 0, 0, 5⟩),
  (0x30011CE7152A0005, .drop ⟨0, 3, 1, 1⟩ ⟨7, 0x15, 0x2A, 0, 0, 0, 5⟩),
  (0x40022CF7152A0005, .rdhintFloor ⟨0, 4, 2, 2⟩ ⟨7, 0x15, 0x2A, 0, 0, 0, 5⟩),
  (0x50043CF7152A0105, .rdhintCeil ⟨0, 5, 4, 3⟩ ⟨7, 0x15, 0x2A, 0, 0, 1, 5⟩),
  (0x60084CF7002A0205, .rdhintClear ⟨0, 6, 8, 4⟩ ⟨7, 0, 0x2A, 0, 0, 2, 5⟩),
  (0xF0105CF706040300, .rdhintQuery ⟨1, 7, 16, 5⟩ ⟨7, 6, 4, 0, 0, 3, 0⟩),
  (0x10206D0B12243657, .atom ⟨0, 1, 32, 6⟩ ⟨0xB, 0x12, 0x24, 0x36, 5, 3, 1⟩),
  (0x20407D1B122536B2, .atomf ⟨0, 2, 64, 7⟩ ⟨0xB, 0x12, 0x25, 0x36, 0xB, 1, 0⟩),
  (0x30808D2B12243409, .cas ⟨0, 3, 128, 8⟩ ⟨0xB, 0x12, 0x24, 0x34, 0, 4, 1⟩),
  (0x41009D2B12243518, .casXchg ⟨0, 4, 256, 9⟩ ⟨0xB, 0x12, 0x24, 0x35, 1, 4, 0⟩),
  (0xD200AD3B002435AC, .red ⟨1, 5, 512, 10⟩ ⟨0xB, 0, 0x24, 0x35, 0xA, 6, 0⟩),
  (0x6400BD4B1224360B, .oapp ⟨0, 6, 1024, 11⟩ ⟨0xB, 0x12, 0x24, 0x36, 0, 5, 1⟩),
  (0x7800CD5B00240001, .odecl ⟨0, 7, 2048, 12⟩ ⟨0xB, 0, 0x24, 0, 0, 0, 1⟩),
  (0x10011D6B00243608, .skred ⟨0, 1, 1, 1⟩ ⟨0xB, 0, 0x24, 0x36, 0, 4, 0⟩),
  (0x20022D8230472001, .skinit ⟨0, 2, 2, 2⟩ ⟨2, 0x30, 0x47, 2, 0, 1⟩),
  (0xB0043D9720303001, .skadd ⟨1, 3, 4, 3⟩ ⟨7, 0x20, 0x30, 3, 0, 1⟩),
  (0x40084DA230470003, .skmrg ⟨0, 4, 8, 4⟩ ⟨2, 0x30, 0x47, 0, 0, 3⟩),
  (0x50105DB230470001, .skcmp ⟨0, 5, 16, 5⟩ ⟨2, 0x30, 0x47, 0, 0, 1⟩),
  (0x60206DC230470000, .skq ⟨0, 6, 32, 6⟩ ⟨2, 0x30, 0x47, 0, 0, 0⟩),
  (0x70407DD230480001, .skrank ⟨0, 7, 64, 7⟩ ⟨2, 0x30, 0x48, 0, 0, 1⟩)]
theorem test_words_4 : wordRows4.all (fun r => (match decode r.1 with | .ok i => i == r.2 | .error _ => false) && encode r.2 == some r.1) = true := by decide +kernel

/-- Words 176 to 205, composed field by field from the layouts of R57 and R61 to R67 and the opcodes of R71. -/
def wordRows5 : List (W64 × Instr) := [
  (0x90808DE230470002, .sktop ⟨1, 1, 128, 8⟩ ⟨2, 0x30, 0x47, 0, 0, 2⟩),
  (0x21009DF230480001, .skdc ⟨0, 2, 256, 9⟩ ⟨2, 0x30, 0x48, 0, 0, 1⟩),
  (0x3200AE0230470000, .rngkSet ⟨0, 3, 512, 10⟩ ⟨2, 0x30, 0x47, 0, 0, 0⟩),
  (0x4400BE0230471000, .rngkSeek ⟨0, 4, 1024, 11⟩ ⟨2, 0x30, 0x47, 1, 0, 0⟩),
  (0x5800CE0200482000, .rngkRead ⟨0, 5, 2048, 12⟩ ⟨2, 0, 0x48, 2, 0, 0⟩),
  (0xE0011E1230471000, .rngv ⟨1, 6, 1, 1⟩ ⟨2, 0x30, 0x47, 1, 0, 0⟩),
  (0x70022E2230471001, .rngu ⟨0, 7, 2, 2⟩ ⟨2, 0x30, 0x47, 1, 0, 1⟩),
  (0x10043E3230480001, .sgumb ⟨0, 1, 4, 3⟩ ⟨2, 0x30, 0x48, 0, 0, 1⟩),
  (0x20084E4230470003, .stopk ⟨0, 2, 8, 4⟩ ⟨2, 0x30, 0x47, 0, 0, 3⟩),
  (0x30105E8230470000, .mxm ⟨0, 3, 16, 5⟩ ⟨2, 0x30, 0x47, 0, 0, 0⟩),
  (0xC0206E9230470000, .mxmt ⟨1, 4, 32, 6⟩ ⟨2, 0x30, 0x47, 0, 0, 0⟩),
  (0x50407EA230470000, .mxmg ⟨0, 5, 64, 7⟩ ⟨2, 0x30, 0x47, 0, 0, 0⟩),
  (0x60808EB230470000, .acld ⟨0, 6, 128, 8⟩ ⟨2, 0x30, 0x47, 0, 0, 0⟩),
  (0x71009EC230470000, .acst ⟨0, 7, 256, 9⟩ ⟨2, 0x30, 0x47, 0, 0, 0⟩),
  (0x1200AED230470000, .acz ⟨0, 1, 512, 10⟩ ⟨2, 0x30, 0x47, 0, 0, 0⟩),
  (0xA400BEE230470001, .cbld ⟨1, 2, 1024, 11⟩ ⟨2, 0x30, 0x47, 0, 0, 1⟩),
  (0x3800CEF230470000, .qsplit ⟨0, 3, 2048, 12⟩ ⟨2, 0x30, 0x47, 0, 0, 0⟩),
  (0x40011F0230470005, .wrsig ⟨0, 4, 1, 1⟩ ⟨2, 0x30, 0x47, 0, 0, 5⟩),
  (0x50022F1230470006, .mcst ⟨0, 5, 2, 2⟩ ⟨2, 0x30, 0x47, 0, 0, 6⟩),
  (0x60043F2230470003, .cpyr ⟨0, 6, 4, 3⟩ ⟨2, 0x30, 0x47, 0, 0, 3⟩),
  (0xF0084F3230479004, .coll ⟨1, 7, 8, 4⟩ ⟨2, 0x30, 0x47, 9, 0, 4⟩),
  (0x10105F4740504006, .clrun ⟨0, 1, 16, 5⟩ ⟨7, 0x40, 0x50, 4, 0, 6⟩),
  (0x20206F6230470000, .launch ⟨0, 2, 32, 6⟩ ⟨2, 0x30, 0x47, 0, 0, 0⟩),
  (0x30407F7230480000, .lqryQueue ⟨0, 3, 64, 7⟩ ⟨2, 0x30, 0x48, 0, 0, 0⟩),
  (0x40808F7710081000, .lqrySys ⟨0, 4, 128, 8⟩ ⟨7, 0x10, 8, 1, 0, 0⟩),
  (0xD1009F8230480000, .spapp ⟨1, 5, 256, 9⟩ ⟨2, 0x30, 0x48, 0, 0, 0⟩),
  (0x6200AF9230480000, .spverExact ⟨0, 6, 512, 10⟩ ⟨2, 0x30, 0x48, 0, 0, 0⟩),
  (0x7400BF9740501000, .spverProb ⟨0, 7, 1024, 11⟩ ⟨7, 0x40, 0x50, 1, 0, 0⟩),
  (0x1800CFA230480000, .spacc ⟨0, 1, 2048, 12⟩ ⟨2, 0x30, 0x48, 0, 0, 0⟩),
  (0x20011FB230470000, .sprst ⟨0, 2, 1, 1⟩ ⟨2, 0x30, 0x47, 0, 0, 0⟩)]
theorem test_words_5 : wordRows5.all (fun r => (match decode r.1 with | .ok i => i == r.2 | .error _ => false) && encode r.2 == some r.1) = true := by decide +kernel

/-- Ill-formed terms, one or more for each check, with the error that refuses each (R57, R61 to R68, R72 and the instruction chapters). -/
def illFormed0 : List (Instr × DecodeError) := [
  (.gadd ⟨0, 0, 0, 13⟩ ⟨7, 1, 2, 3, 0⟩, .reservedSetk),
  (.nop ⟨0, 0, 0, 0⟩ ⟨1⟩, .unusedField),
  (.pfx ⟨0, 0, 0, 0⟩ ⟨7, 0, 2, 0, 9, 0⟩, .pfxControl),
  (.pfx ⟨1, 0, 0, 0⟩ ⟨7, 0, 7, 0, 9, 0⟩, .reservedRnd),
  (.pfx ⟨1, 0, 0, 0⟩ ⟨7, 0, 2, 0, 9, 1⟩, .unusedField),
  (.gmov ⟨0, 0, 0, 0⟩ ⟨7, 1, 2, 0, 0x80⟩, .unusedField),
  (.gadd ⟨0, 0, 0, 0⟩ ⟨7, 1, 2, 3, 0x20⟩, .unusedField),
  (.gadd ⟨0, 0, 0, 0⟩ ⟨7, 1, 2, 3, 1⟩, .unusedField),
  (.gnot ⟨0, 0, 0, 0⟩ ⟨7, 1, 2, 3, 0⟩, .unusedField),
  (.gadd ⟨0, 0, 0, 0⟩ ⟨7, 1, 2, 4, 0x40⟩, .badRegister),
  (.gadd ⟨0, 0, 0, 0⟩ ⟨7, 2, 3, 4, 0x40⟩, .badRegister),
  (.gadd ⟨0, 0, 0, 0⟩ ⟨7, 2, 4, 5, 0x40⟩, .badRegister),
  (.gpopc ⟨0, 0, 0, 0⟩ ⟨7, 2, 3, 0, 0x40⟩, .badRegister),
  (.gmovi ⟨0, 0, 0, 0⟩ ⟨7, 1, 1, 0⟩, .unusedField),
  (.sleep ⟨0, 0, 0, 0⟩ ⟨7, 1, 0, 5⟩, .unusedField),
  (.gcmp ⟨0, 0, 0, 0⟩ ⟨7, 8, 2, 3, 0⟩, .unusedField),
  (.gcmp ⟨0, 0, 0, 0⟩ ⟨7, 1, 2, 3, 6⟩, .reservedCode),
  (.gcmp ⟨0, 0, 0, 0⟩ ⟨7, 1, 3, 4, 0x40⟩, .badRegister),
  (.gsel ⟨0, 0, 0, 0⟩ ⟨7, 1, 2, 3, 0x20⟩, .unusedField),
  (.gsel ⟨0, 0, 0, 0⟩ ⟨7, 1, 2, 3, 0x10⟩, .unusedField),
  (.gsel ⟨0, 0, 0, 0⟩ ⟨7, 1, 2, 4, 0x40⟩, .badRegister),
  (.glea ⟨0, 0, 0, 0⟩ ⟨7, 2, 4, 5, 0x40⟩, .unusedField),
  (.glea ⟨0, 0, 0, 0⟩ ⟨7, 2, 4, 5, 8⟩, .unusedField),
  (.glea ⟨0, 0, 0, 0⟩ ⟨7, 1, 4, 5, 0⟩, .badRegister),
  (.gbfx ⟨0, 0, 0, 0⟩ ⟨7, 1, 2, 3, 0x80⟩, .unusedField),
  (.gbfx ⟨0, 0, 0, 0⟩ ⟨7, 1, 2, 3, 1⟩, .unusedField),
  (.gbfx ⟨0, 0, 0, 0⟩ ⟨7, 2, 4, 5, 0x40⟩, .badRegister),
  (.gbfi ⟨0, 0, 0, 0⟩ ⟨7, 1, 2, 3, 0x80⟩, .unusedField),
  (.gbfi ⟨0, 0, 0, 0⟩ ⟨7, 1, 2, 3, 0x20⟩, .unusedField),
  (.gbfi ⟨0, 0, 0, 0⟩ ⟨7, 1, 2, 3, 1⟩, .unusedField),
  (.gbfi ⟨0, 0, 0, 0⟩ ⟨7, 1, 2, 4, 0x40⟩, .badRegister),
  (.qop ⟨0, 0, 0, 0⟩ ⟨7, 8, 1, 2, 0⟩, .unusedField),
  (.qop ⟨0, 0, 0, 0⟩ ⟨7, 1, 8, 2, 0⟩, .unusedField),
  (.qop ⟨0, 0, 0, 0⟩ ⟨7, 1, 2, 8, 0⟩, .unusedField),
  (.qop ⟨0, 0, 0, 0⟩ ⟨7, 1, 2, 3, 0x10⟩, .unusedField),
  (.sread ⟨0, 0, 0, 0⟩ ⟨7, 1, 0, 0, 1⟩, .unusedField),
  (.sread ⟨0, 0, 0, 0⟩ ⟨7, 1, 1, 0, 0⟩, .unusedField),
  (.sread ⟨0, 0, 0, 0⟩ ⟨7, 1, 0, 0xF, 0⟩, .reservedCode),
  (.sread ⟨0, 0, 0, 0⟩ ⟨7, 1, 0, 0x8B, 0⟩, .reservedCode),
  (.sread ⟨0, 0, 0, 0⟩ ⟨7, 1, 0, 9, 0⟩, .badRegister),
  (.swrite ⟨0, 0, 0, 0⟩ ⟨7, 0, 1, 6, 1⟩, .unusedField),
  (.swrite ⟨0, 0, 0, 0⟩ ⟨7, 1, 1, 6, 0⟩, .unusedField),
  (.swrite ⟨0, 0, 0, 0⟩ ⟨7, 0, 1, 0x7F, 0⟩, .reservedCode),
  (.setfmt ⟨0, 0, 0, 0⟩ ⟨7, 1, 1, 2, 0⟩, .unusedField),
  (.setfmt ⟨0, 0, 0, 0⟩ ⟨7, 0, 1, 2, 1⟩, .unusedField),
  (.getfmt ⟨0, 0, 0, 0⟩ ⟨7, 1, 0, 1, 0⟩, .unusedField),
  (.bra ⟨0, 0, 0, 0⟩ ⟨7, 1, 1⟩, .unusedField),
  (.brx ⟨0, 0, 0, 0⟩ ⟨7, 1, 2, 0, 0⟩, .unusedField),
  (.brx ⟨0, 0, 0, 0⟩ ⟨7, 0, 2, 0, 1⟩, .unusedField),
  (.brx ⟨0, 0, 0, 0⟩ ⟨7, 0, 3, 0, 0⟩, .badRegister)]
theorem test_illFormed_0 : illFormed0.all (fun r => encodingError r.1 == some r.2) = true := by decide +kernel

/-- Ill-formed terms, one or more for each check, with the error that refuses each (R57, R61 to R68, R72 and the instruction chapters). -/
def illFormed1 : List (Instr × DecodeError) := [
  (.call ⟨0, 0, 0, 0⟩ ⟨7, 1, 3⟩, .badRegister),
  (.ret ⟨0, 0, 0, 0⟩ ⟨7, 0, 2, 1, 0⟩, .unusedField),
  (.ret ⟨0, 0, 0, 0⟩ ⟨7, 0, 3, 0, 0⟩, .badRegister),
  (.vbr ⟨0, 0, 0, 0⟩ ⟨1, 4, 0⟩, .reservedCode),
  (.vbr ⟨0, 0, 0, 0⟩ ⟨1, 4, 0x8000⟩, .reservedCode),
  (.vbrk ⟨0, 0, 0, 0⟩ ⟨1, 4, 5⟩, .reservedCode),
  (.vexit ⟨0, 0, 0, 0⟩ ⟨7, 0, 1, 0, 0⟩, .unusedField),
  (.vexit ⟨0, 0, 0, 0⟩ ⟨7, 0, 0, 0, 0x10⟩, .unusedField),
  (.waitk ⟨0, 0, 0, 0⟩ ⟨7, 1, 0, 0, 0⟩, .unusedField),
  (.waitk ⟨0, 0, 0, 0⟩ ⟨7, 0, 0, 0, 0xC⟩, .reservedCode),
  (.waitk ⟨0, 0, 0, 0⟩ ⟨7, 0, 0, 0, 0x10⟩, .unusedField),
  (.yield ⟨0, 0, 0, 0⟩ ⟨7, 0, 0, 0, 1⟩, .unusedField),
  (.exit ⟨0, 0, 0, 0⟩ ⟨7, 1, 0, 0, 0⟩, .unusedField),
  (.tail ⟨0, 0, 0, 0⟩ ⟨7, 0, 1, 0, 0⟩, .unusedField),
  (.bkpt ⟨0, 0, 0, 0⟩ ⟨7, 0, 0, 1, 0⟩, .unusedField),
  (.trap ⟨0, 0, 0, 0⟩ ⟨7, 1, 0, 5⟩, .unusedField),
  (.vmov ⟨0, 0, 0, 0⟩ ⟨7, 1, 2, 3, 0, 0⟩, .unusedField),
  (.vmov ⟨0, 0, 0, 0⟩ ⟨7, 1, 2, 3, 0, 8⟩, .unusedField),
  (.vmovi ⟨0, 0, 0, 0⟩ ⟨7, 1, 4, 0⟩, .reservedCode),
  (.vadd ⟨0, 0, 0, 0⟩ ⟨7, 1, 2, 3, 8, 0⟩, .reservedType),
  (.vadd ⟨0, 0, 0, 0⟩ ⟨7, 1, 2, 3, 1, 1⟩, .unusedField),
  (.vadd ⟨0, 0, 0, 0⟩ ⟨7, 1, 2, 4, 3, 0⟩, .badRegister),
  (.vsel ⟨0, 0, 0, 0⟩ ⟨7, 1, 2, 3, 0xC, 8⟩, .badImmediate),
  (.vnot ⟨0, 0, 0, 0⟩ ⟨7, 1, 2, 3, 0, 0⟩, .unusedField),
  (.vnot ⟨0, 0, 0, 0⟩ ⟨7, 1, 2, 0, 0, 8⟩, .unusedField),
  (.vmulh ⟨0, 0, 0, 0⟩ ⟨7, 1, 2, 3, 0, 0⟩, .reservedType),
  (.vdiv ⟨0, 0, 0, 0⟩ ⟨7, 1, 2, 3, 0, 0⟩, .reservedType),
  (.vabs ⟨0, 0, 0, 0⟩ ⟨7, 1, 2, 0, 2, 0⟩, .reservedType),
  (.vcmp ⟨0, 0, 0, 0⟩ ⟨7, 8, 2, 3, 1, 0⟩, .unusedField),
  (.vcmp ⟨0, 0, 0, 0⟩ ⟨7, 1, 2, 3, 1, 6⟩, .reservedCode),
  (.vcmp ⟨0, 0, 0, 0⟩ ⟨7, 1, 3, 4, 3, 0⟩, .badRegister),
  (.vbfx ⟨0, 0, 0, 0⟩ ⟨7, 1, 2, 3, 0, 8⟩, .badImmediate),
  (.vdot4 ⟨0, 0, 0, 0⟩ ⟨7, 1, 2, 3, 7, 4⟩, .unusedField),
  (.vdot4 ⟨0, 0, 0, 0⟩ ⟨7, 1, 2, 3, 0, 0⟩, .reservedType),
  (.pop ⟨0, 0, 0, 0⟩ ⟨7, 1, 2, 3, 1, 0⟩, .reservedType),
  (.pop ⟨0, 0, 0, 0⟩ ⟨7, 8, 2, 3, 0, 0⟩, .unusedField),
  (.fadd ⟨0, 0, 0, 0⟩ ⟨7, 1, 2, 3, 1, 0⟩, .reservedType),
  (.fcmp ⟨0, 0, 0, 0⟩ ⟨7, 1, 2, 3, 0xA, 0⟩, .reservedType),
  (.fclass ⟨0, 0, 0, 0⟩ ⟨7, 1, 2, 0, 8, 2⟩, .reservedCode),
  (.frnd ⟨0, 0, 0, 0⟩ ⟨7, 1, 2, 0, 8, 7⟩, .reservedRnd),
  (.fcvt ⟨0, 0, 0, 0⟩ ⟨7, 1, 2, 0x10, 8, 0⟩, .unusedField),
  (.fcvt ⟨0, 0, 0, 0⟩ ⟨7, 1, 2, 8, 8, 0⟩, .reservedType),
  (.fcvt ⟨0, 0, 0, 0⟩ ⟨7, 1, 2, 8, 1, 7⟩, .reservedRnd),
  (.fcvt ⟨0, 0, 0, 0⟩ ⟨7, 1, 2, 8, 9, 0⟩, .badRegister),
  (.fcvt ⟨0, 0, 0, 0⟩ ⟨7, 1, 3, 9, 8, 0⟩, .badRegister),
  (.fpack ⟨0, 0, 0, 0⟩ ⟨7, 1, 2, 3, 8, 0⟩, .reservedType),
  (.fpack ⟨0, 0, 0, 0⟩ ⟨7, 1, 2, 3, 0xC, 2⟩, .reservedCode),
  (.funpk ⟨0, 0, 0, 0⟩ ⟨7, 1, 2, 1, 0xA, 0⟩, .unusedField),
  (.funpk ⟨0, 0, 0, 0⟩ ⟨7, 1, 2, 0, 0xC, 4⟩, .reservedCode),
  (.xsin ⟨0, 0, 0, 0⟩ ⟨7, 2, 4, 0, 9, 0⟩, .reservedType)]
theorem test_illFormed_1 : illFormed1.all (fun r => encodingError r.1 == some r.2) = true := by decide +kernel

/-- Ill-formed terms, one or more for each check, with the error that refuses each (R57, R61 to R68, R72 and the instruction chapters). -/
def illFormed2 : List (Instr × DecodeError) := [
  (.lshf ⟨0, 0, 0, 0⟩ ⟨7, 1, 2, 3, 1, 0⟩, .reservedType),
  (.lshf ⟨0, 0, 0, 0⟩ ⟨7, 1, 2, 3, 0, 4⟩, .unusedField),
  (.lbc ⟨0, 0, 0, 0⟩ ⟨7, 1, 2, 0x20, 0, 8⟩, .badImmediate),
  (.lbc ⟨0, 0, 0, 0⟩ ⟨7, 1, 2, 3, 0, 1⟩, .unusedField),
  (.lbc ⟨0, 0, 0, 0⟩ ⟨7, 1, 2, 4, 3, 0⟩, .badRegister),
  (.lvoteAll ⟨0, 0, 0, 0⟩ ⟨7, 1, 2, 0, 1, 0⟩, .reservedType),
  (.lvoteAny ⟨0, 0, 0, 0⟩ ⟨7, 1, 2, 1, 0, 1⟩, .unusedField),
  (.lvoteUni ⟨0, 0, 0, 0⟩ ⟨7, 1, 0x10, 0, 0, 2⟩, .unusedField),
  (.lvoteBal ⟨0, 0, 0, 0⟩ ⟨7, 1, 2, 0, 0, 4⟩, .reservedCode),
  (.lred ⟨0, 0, 0, 0⟩ ⟨7, 1, 2, 0, 1, 8⟩, .unusedField),
  (.lred ⟨0, 0, 0, 0⟩ ⟨7, 1, 2, 0, 1, 7⟩, .reservedCode),
  (.lred ⟨0, 0, 0, 0⟩ ⟨7, 1, 2, 0, 0, 0⟩, .reservedType),
  (.lred ⟨0, 0, 0, 0⟩ ⟨7, 1, 2, 3, 1, 0⟩, .unusedField),
  (.lred ⟨0, 0, 0, 0⟩ ⟨7, 1, 2, 0, 3, 0⟩, .badRegister),
  (.lscan ⟨0, 0, 0, 0⟩ ⟨7, 1, 2, 0, 1, 6⟩, .reservedCode),
  (.lscan ⟨0, 0, 0, 0⟩ ⟨7, 1, 2, 2, 1, 0⟩, .unusedField),
  (.lscan ⟨0, 0, 0, 0⟩ ⟨7, 1, 2, 0, 5, 0⟩, .reservedType),
  (.lmatch ⟨0, 0, 0, 0⟩ ⟨7, 1, 2, 1, 0, 0⟩, .unusedField),
  (.lcmpr ⟨0, 0, 0, 0⟩ ⟨7, 1, 2, 0x10, 0, 0⟩, .unusedField),
  (.xsend ⟨0, 0, 0, 0⟩ ⟨7, 0, 2, 3, 0, 1⟩, .badImmediate),
  (.xsend ⟨0, 0, 0, 0⟩ ⟨7, 0, 2, 0x10, 0, 9⟩, .badImmediate),
  (.xsend ⟨0, 0, 0, 0⟩ ⟨7, 1, 2, 3, 0, 9⟩, .unusedField),
  (.xsend ⟨0, 0, 0, 0⟩ ⟨6, 0, 2, 3, 0, 9⟩, .badGuard),
  (.xrecv ⟨0, 0, 0, 0⟩ ⟨7, 1, 2, 3, 0, 9⟩, .unusedField),
  (.vfromg ⟨0, 0, 0, 0⟩ ⟨7, 1, 2, 0, 1, 0⟩, .reservedType),
  (.vtog ⟨0, 0, 0, 0⟩ ⟨7, 1, 2, 3, 0, 2⟩, .reservedCode),
  (.vtog ⟨0, 0, 0, 0⟩ ⟨7, 1, 2, 0x20, 0, 8⟩, .badImmediate),
  (.vtogFirst ⟨0, 0, 0, 0⟩ ⟨7, 1, 2, 3, 0, 1⟩, .unusedField),
  (.ld ⟨0, 0, 0, 0⟩ ⟨7, 1, 2, 0, 7, 0, 0⟩, .reservedSize),
  (.ld ⟨0, 0, 0, 0⟩ ⟨7, 1, 2, 1, 2, 0, 0⟩, .unusedField),
  (.lds ⟨0, 0, 0, 0⟩ ⟨7, 1, 2, 0, 2, 1, 0⟩, .unusedField),
  (.ld ⟨0, 0, 0, 0⟩ ⟨7, 1, 3, 0, 2, 0, 0⟩, .badRegister),
  (.st ⟨0, 0, 0, 0⟩ ⟨7, 1, 2, 0, 3, 0, 0⟩, .badRegister),
  (.lds ⟨0, 0, 0, 0⟩ ⟨7, 2, 2, 0, 4, 0, 0⟩, .badRegister),
  (.lda ⟨0, 0, 0, 0⟩ ⟨7, 1, 2, 7, 2, 1, 0⟩, .reservedScope),
  (.lda ⟨0, 0, 0, 0⟩ ⟨7, 1, 2, 0, 6, 1, 0⟩, .reservedSize),
  (.lda ⟨0, 0, 0, 0⟩ ⟨7, 1, 2, 0, 2, 2, 0⟩, .reservedOrd),
  (.lda ⟨0, 0, 0, 0⟩ ⟨7, 1, 3, 0, 2, 1, 0⟩, .badRegister),
  (.lda ⟨0, 0, 0, 0⟩ ⟨7, 1, 2, 0, 3, 1, 0⟩, .badRegister),
  (.ldaRng ⟨0, 0, 0, 0⟩ ⟨7, 4, 2, 0, 2, 3, 0⟩, .reservedSize),
  (.stl ⟨0, 0, 0, 0⟩ ⟨7, 1, 2, 0, 2, 1, 0⟩, .reservedOrd),
  (.fence ⟨0, 0, 0, 0⟩ ⟨7, 0, 0, 7, 0, 1, 0⟩, .reservedScope),
  (.fence ⟨0, 0, 0, 0⟩ ⟨7, 0, 0, 0, 0, 0, 0⟩, .reservedOrd),
  (.fence ⟨0, 0, 0, 0⟩ ⟨7, 2, 0, 0, 0, 1, 0⟩, .unusedField),
  (.fence ⟨0, 0, 0, 0⟩ ⟨7, 0, 1, 0, 0, 1, 0⟩, .unusedField),
  (.fence ⟨0, 0, 0, 0⟩ ⟨7, 0, 0, 0, 1, 1, 0⟩, .unusedField),
  (.fence ⟨0, 0, 0, 0⟩ ⟨7, 0, 0, 0, 0, 1, 1⟩, .unusedField),
  (.prf ⟨0, 0, 0, 0⟩ ⟨7, 0, 2, 0, 7, 0, 0⟩, .reservedSize),
  (.prf ⟨0, 0, 0, 0⟩ ⟨7, 0, 2, 1, 2, 0, 0⟩, .unusedField),
  (.prf ⟨0, 0, 0, 0⟩ ⟨7, 2, 2, 0, 2, 0, 0⟩, .unusedField)]
theorem test_illFormed_2 : illFormed2.all (fun r => encodingError r.1 == some r.2) = true := by decide +kernel

/-- Ill-formed terms, one or more for each check, with the error that refuses each (R57, R61 to R68, R72 and the instruction chapters). -/
def illFormed3 : List (Instr × DecodeError) := [
  (.prf ⟨0, 0, 0, 0⟩ ⟨7, 0, 3, 0, 2, 0, 0⟩, .badRegister),
  (.waita ⟨0, 0, 0, 0⟩ ⟨7, 1, 2, 0, 2, 2, 0⟩, .reservedCode),
  (.waita ⟨0, 0, 0, 0⟩ ⟨7, 1, 2, 0, 1, 0, 0⟩, .reservedSize),
  (.waita ⟨0, 0, 0, 0⟩ ⟨7, 1, 2, 1, 2, 0, 0⟩, .unusedField),
  (.waita ⟨0, 0, 0, 0⟩ ⟨7, 1, 3, 0, 2, 0, 0⟩, .badRegister),
  (.waitaSp ⟨0, 0, 0, 0⟩ ⟨7, 1, 3, 0, 3, 1, 0⟩, .badRegister),
  (.cinvL1 ⟨0, 0, 0, 0⟩ ⟨7, 1, 2, 0, 1, 0, 0⟩, .unusedField),
  (.cinvAll ⟨0, 0, 0, 0⟩ ⟨7, 1, 2, 1, 0, 2, 0⟩, .unusedField),
  (.cwb ⟨0, 0, 0, 0⟩ ⟨7, 1, 2, 0, 0, 1, 0⟩, .reservedCode),
  (.cwb ⟨0, 0, 0, 0⟩ ⟨7, 1, 3, 0, 0, 0, 0⟩, .badRegister),
  (.nbarv ⟨0, 0, 0, 0⟩ ⟨6, 1, 0, 0, 0, 0, 0⟩, .badGuard),
  (.nbarv ⟨0, 0, 0, 0⟩ ⟨7, 1, 0, 1, 0, 0, 0⟩, .unusedField),
  (.nbarv ⟨0, 0, 0, 0⟩ ⟨7, 1, 0, 0, 1, 0, 0⟩, .unusedField),
  (.nbarv ⟨0, 0, 0, 0⟩ ⟨7, 1, 1, 0, 0, 0, 0⟩, .unusedField),
  (.nbsync ⟨0, 0, 0, 0⟩ ⟨7, 0, 0, 0, 0, 2, 0⟩, .reservedCode),
  (.nbsync ⟨0, 0, 0, 0⟩ ⟨7, 1, 0, 0, 0, 1, 0⟩, .unusedField),
  (.nbarv ⟨0, 0, 0, 0⟩ ⟨7, 1, 0, 0, 0, 0, 0x10⟩, .unusedField),
  (.cbarv ⟨0, 0, 0, 0⟩ ⟨7, 1, 0, 0, 0, 0, 8⟩, .unusedField),
  (.nbwait ⟨0, 0, 0, 0⟩ ⟨7, 0, 0, 0, 0, 1, 0⟩, .reservedCode),
  (.nbwait ⟨0, 0, 0, 0⟩ ⟨7, 1, 0, 0, 0, 0, 0⟩, .unusedField),
  (.nbwait ⟨0, 0, 0, 0⟩ ⟨7, 0, 1, 0, 0, 0, 0⟩, .unusedField),
  (.nbwait ⟨0, 0, 0, 0⟩ ⟨7, 0, 0, 0, 0, 0, 0x20⟩, .unusedField),
  (.tbinit ⟨0, 0, 0, 0⟩ ⟨7, 1, 2, 0, 3, 1, 0⟩, .reservedCode),
  (.tbinit ⟨0, 0, 0, 0⟩ ⟨7, 1, 2, 0, 2, 0, 0⟩, .unusedField),
  (.tbarv ⟨0, 0, 0, 0⟩ ⟨7, 1, 2, 0, 3, 0, 0⟩, .unusedField),
  (.tbinv ⟨0, 0, 0, 0⟩ ⟨7, 1, 2, 0, 3, 0, 0⟩, .unusedField),
  (.phadv ⟨0, 0, 0, 0⟩ ⟨7, 1, 0, 0, 0, 0, 0⟩, .unusedField),
  (.phadv ⟨0, 0, 0, 0⟩ ⟨7, 0, 0, 0, 0, 1, 0⟩, .reservedCode),
  (.phadv ⟨0, 0, 0, 0⟩ ⟨7, 0, 0, 0, 0, 0, 0x10⟩, .unusedField),
  (.phwaitNbr ⟨0, 0, 0, 0⟩ ⟨7, 1, 0, 0, 0, 0, 1⟩, .unusedField),
  (.phwaitAll ⟨0, 0, 0, 0⟩ ⟨7, 1, 0, 0, 0, 2, 0⟩, .reservedCode),
  (.sealv ⟨0, 0, 0, 0⟩ ⟨7, 1, 2, 0, 0, 0, 0⟩, .badRegister),
  (.sealv ⟨0, 0, 0, 0⟩ ⟨7, 2, 3, 0, 0, 0, 0⟩, .badRegister),
  (.reuse ⟨0, 0, 0, 0⟩ ⟨7, 1, 2, 0, 0, 1, 0⟩, .reservedCode),
  (.rdhintClear ⟨0, 0, 0, 0⟩ ⟨7, 1, 2, 0, 0, 2, 0⟩, .unusedField),
  (.atom ⟨0, 0, 0, 0⟩ ⟨7, 1, 2, 3, 0, 7, 0⟩, .reservedScope),
  (.atom ⟨0, 0, 0, 0⟩ ⟨7, 1, 2, 3, 8, 2, 0⟩, .reservedScope),
  (.atom ⟨0, 0, 0, 0⟩ ⟨7, 1, 3, 3, 0, 0, 0⟩, .badRegister),
  (.atom ⟨0, 0, 0, 0⟩ ⟨7, 1, 2, 4, 5, 0, 1⟩, .badRegister),
  (.atomf ⟨0, 0, 0, 0⟩ ⟨7, 1, 2, 3, 5, 0, 0⟩, .reservedCode),
  (.atomf ⟨0, 0, 0, 0⟩ ⟨7, 2, 2, 4, 1, 0, 1⟩, .reservedCode),
  (.atomf ⟨0, 0, 0, 0⟩ ⟨7, 1, 2, 4, 0, 0, 1⟩, .badRegister),
  (.cas ⟨0, 0, 0, 0⟩ ⟨7, 1, 2, 4, 2, 0, 0⟩, .reservedCode),
  (.cas ⟨0, 0, 0, 0⟩ ⟨7, 1, 2, 3, 0, 0, 0⟩, .badRegister),
  (.cas ⟨0, 0, 0, 0⟩ ⟨7, 2, 2, 6, 0, 0, 1⟩, .badRegister),
  (.cas ⟨0, 0, 0, 0⟩ ⟨7, 1, 2, 4, 0, 0, 1⟩, .badRegister),
  (.casXchg ⟨0, 0, 0, 0⟩ ⟨7, 2, 2, 3, 1, 0, 1⟩, .badRegister),
  (.red ⟨0, 0, 0, 0⟩ ⟨7, 2, 2, 3, 0, 0, 0⟩, .unusedField),
  (.red ⟨0, 0, 0, 0⟩ ⟨7, 0, 2, 3, 0xD, 0, 0⟩, .reservedCode),
  (.red ⟨0, 0, 0, 0⟩ ⟨7, 1, 2, 3, 0, 2, 0⟩, .reservedScope)]
theorem test_illFormed_3 : illFormed3.all (fun r => encodingError r.1 == some r.2) = true := by decide +kernel

/-- Ill-formed terms, one or more for each check, with the error that refuses each (R57, R61 to R68, R72 and the instruction chapters). -/
def illFormed4 : List (Instr × DecodeError) := [
  (.red ⟨0, 0, 0, 0⟩ ⟨7, 0, 2, 3, 0, 0, 1⟩, .badRegister),
  (.oapp ⟨0, 0, 0, 0⟩ ⟨7, 1, 2, 3, 1, 0, 0⟩, .reservedCode),
  (.oapp ⟨0, 0, 0, 0⟩ ⟨7, 1, 2, 4, 0, 0, 1⟩, .badRegister),
  (.odecl ⟨0, 0, 0, 0⟩ ⟨7, 0, 2, 0, 0, 1, 0⟩, .reservedScope),
  (.odecl ⟨0, 0, 0, 0⟩ ⟨7, 0, 3, 0, 0, 0, 0⟩, .badRegister),
  (.odecl ⟨0, 0, 0, 0⟩ ⟨7, 0, 2, 0, 1, 0, 0⟩, .reservedCode),
  (.odecl ⟨0, 0, 0, 0⟩ ⟨7, 1, 2, 0, 0, 0, 0⟩, .unusedField),
  (.odecl ⟨0, 0, 0, 0⟩ ⟨7, 0, 2, 1, 0, 0, 0⟩, .unusedField),
  (.skred ⟨0, 0, 0, 0⟩ ⟨7, 0, 2, 4, 2, 0, 0⟩, .reservedCode),
  (.skred ⟨0, 0, 0, 0⟩ ⟨7, 1, 2, 4, 0, 0, 0⟩, .unusedField),
  (.skred ⟨0, 0, 0, 0⟩ ⟨7, 0, 2, 4, 0, 0, 1⟩, .unusedField),
  (.skred ⟨0, 0, 0, 0⟩ ⟨7, 0, 2, 3, 0, 0, 0⟩, .badRegister),
  (.cpy ⟨0, 0, 0, 0⟩ ⟨7, 0x11, 2, 0, 0, 0⟩, .frameBase),
  (.cpy ⟨0, 0, 0, 0⟩ ⟨7, 0x10, 2, 1, 0, 0⟩, .reservedEng),
  (.cpy ⟨0, 0, 0, 0⟩ ⟨7, 0x10, 2, 0, 0, 1⟩, .unusedField),
  (.cpy ⟨0, 0, 0, 0⟩ ⟨7, 0x10, 2, 0, 1, 0⟩, .unusedField),
  (.bseal ⟨0, 0, 0, 0⟩ ⟨7, 0, 0, 4, 1, 0⟩, .reservedEng),
  (.bseal ⟨0, 0, 0, 0⟩ ⟨7, 0x10, 0, 0, 1, 0⟩, .unusedField),
  (.bwait ⟨0, 0, 0, 0⟩ ⟨7, 0x10, 2, 0, 1, 0⟩, .unusedField),
  (.skq ⟨0, 0, 0, 0⟩ ⟨7, 0x10, 0xFF, 0, 0, 0⟩, .badRegister),
  (.skrank ⟨0, 0, 0, 0⟩ ⟨7, 0x10, 0x11, 0, 0, 0⟩, .badRegister),
  (.sktop ⟨0, 0, 0, 0⟩ ⟨7, 0x10, 0xFF, 0, 0, 0⟩, .badRegister),
  (.skdc ⟨0, 0, 0, 0⟩ ⟨7, 0x10, 0xFC, 0, 0, 0⟩, .badRegister),
  (.rngkSet ⟨0, 0, 0, 0⟩ ⟨7, 0x10, 0, 3, 0, 0⟩, .reservedEng),
  (.rngkRead ⟨0, 0, 0, 0⟩ ⟨7, 0, 4, 2, 0, 0⟩, .badRegister),
  (.rngkRead ⟨0, 0, 0, 0⟩ ⟨7, 0x10, 8, 2, 0, 0⟩, .unusedField),
  (.sgumb ⟨0, 0, 0, 0⟩ ⟨7, 0x10, 2, 0, 0, 0⟩, .badRegister),
  (.wrsig ⟨0, 0, 0, 0⟩ ⟨7, 0x10, 2, 0, 0, 7⟩, .reservedScope),
  (.wrsig ⟨0, 0, 0, 0⟩ ⟨7, 0x10, 2, 0, 0, 8⟩, .unusedField),
  (.coll ⟨0, 0, 0, 0⟩ ⟨7, 0x10, 2, 5, 0, 7⟩, .reservedScope),
  (.lqryQueue ⟨0, 0, 0, 0⟩ ⟨7, 0x10, 3, 0, 0, 0⟩, .badRegister),
  (.lqrySys ⟨0, 0, 0, 0⟩ ⟨7, 0x10, 8, 2, 0, 0⟩, .reservedEng),
  (.spapp ⟨0, 0, 0, 0⟩ ⟨7, 0x10, 2, 0, 0, 0⟩, .badRegister),
  (.spverExact ⟨0, 0, 0, 0⟩ ⟨7, 0x10, 2, 0, 0, 0⟩, .badRegister),
  (.spverProb ⟨0, 0, 0, 0⟩ ⟨7, 0x10, 2, 1, 0, 0⟩, .badRegister),
  (.spacc ⟨0, 0, 0, 0⟩ ⟨7, 0x10, 2, 0, 0, 0⟩, .badRegister),
  (.sprst ⟨0, 0, 0, 0⟩ ⟨7, 0x10, 2, 1, 0, 0⟩, .reservedEng)]
theorem test_illFormed_4 : illFormed4.all (fun r => encodingError r.1 == some r.2) = true := by decide +kernel

/-- An event is no instruction word. -/
theorem test_illFormed_event : encodingError .moduleReset = some .notAWord := by decide +kernel

/-- Words printed as illegal: a reserved opcode, SETK 13, T = 0xF, opcode 0xFF (03_encoding.md). -/
theorem test_illegal_words : (decode 0x0000092000000000 = .error .reservedOpcode ∧ decode 0x0000D83704050680 = .error .reservedSetk) ∧
    decode 0x00000837040506F0 = .error .reservedType ∧ decode 0xFFFFFFFFFFFFFFFF = .error .permanentlyIllegal := by decide +kernel
/-! ## Witnesses and steps: control instructions -/

theorem witness_GroupAluWritesResult :
    (∃ (s : State) (i : Instr) (r : Alu), aluOf i = some r ∧ r.f.w = false ∧ Acts s.me r.f.gd (aluSources r.f r.readsB)) ∧
    (∃ (s : State) (i : Instr) (r : Alu), aluOf i = some r ∧ r.f.w = true ∧ r.narrow = true ∧ Acts s.me r.f.gd (aluSources r.f r.readsB)) ∧
    (∃ (s : State) (i : Instr) (r : Alu), aluOf i = some r ∧ r.f.w = true ∧ r.narrow = false ∧ Acts s.me r.f.gd (aluSources r.f r.readsB)) ∧
    (∃ (i : Instr) (r : Alu), aluOf i = some r ∧ r.f.w = true ∧ r.f.a.toNat % 2 = 1) ∧
    (∃ (i : Instr) (r : Alu), aluOf i = some r ∧ r.f.w = true ∧ r.narrow = false ∧ r.f.d.toNat % 2 = 1) ∧
    (∃ (i : Instr) (r : Alu), aluOf i = some r ∧ r.f.w = true ∧ r.readsB = true ∧ r.f.i = false ∧ r.f.b.toNat % 2 = 1) :=
  ⟨⟨s0, .gsub c0 ⟨7, 6, 2, 3, 0⟩, _, rfl, by decide, acts (by decide +kernel)⟩,
   ⟨s0, .gclz c0 ⟨1, 7, 8, 0, 0x40⟩, _, rfl, by decide, by decide, acts (by decide +kernel)⟩,
   ⟨s0, .gdiv c0 ⟨1, 6, 8, 2, 0x60⟩, _, rfl, by decide, by decide, acts (by decide +kernel)⟩,
   ⟨.gmov c0 ⟨7, 6, 3, 0, 0x40⟩, _, rfl, by decide, by decide⟩,
   ⟨.gadd c0 ⟨7, 7, 2, 4, 0x40⟩, _, rfl, by decide, by decide, by decide⟩,
   ⟨.gadd c0 ⟨7, 6, 2, 5, 0x40⟩, _, rfl, by decide, by decide, by decide, by decide⟩⟩

/-- R89: 7 - (-2) = 9 in 32 bits. -/
theorem test_gsub : exec (.gsub c1 ⟨7, 6, 2, 3, 0⟩) s0 = .next (s0.issue c1 (some 1002) [.g 6 9 false]) := by rfl
/-- R89: the quotient truncates toward zero: -2 / 7 = 0; -(2^31) / -1 is -(2^31); the remainder of -2 by 7 is -2. -/
theorem test_gdiv : exec (.gdiv c1 ⟨7, 6, 3, 2, 0x20⟩) s0 = .next (s0.issue c1 none [.g 6 0 false]) ∧
    exec (.gdiv c1 ⟨7, 6, 8, 9, 0x20⟩) s0 = .next (s0.issue c1 none [.g 6 0x80000000 false]) ∧
    exec (.grem c1 ⟨7, 6, 3, 2, 0x20⟩) s0 = .next (s0.issue c1 none [.g 6 0xFFFFFFFE false]) := ⟨rfl, rfl, rfl⟩
/-- R89: a division by 0 gives all ones. -/
theorem test_gdiv_zero : exec (.gdiv c1 ⟨7, 6, 2, 1, 0⟩) s0 = .next (s0.issue c1 none [.g 6 0xFFFFFFFF false]) := by rfl

theorem witness_GroupConstantsAddressesAndFields :
    (∃ (s : State) (f : FmtSI), Acts s.me f.gd [] ∧ Acts s.me f.gd [f.d.toNat]) ∧
    (∃ (s : State) (f : FmtS3), f.i = true ∧ Acts s.me f.gd ([f.a.toNat, f.a.toNat + 1] ++ (if f.i then [] else [f.b.toNat]))) ∧
    (∃ (s : State) (f : FmtS3), f.i = false ∧ Acts s.me f.gd ([f.a.toNat, f.a.toNat + 1] ++ (if f.i then [] else [f.b.toNat]))) ∧
    (∃ (s : State) (f : FmtS3), f.i = false ∧ f.w = true ∧ Acts s.me f.gd (aluSources f true) ∧
      Acts s.me f.gd (aluSources f true ++ (if f.w then [f.d.toNat, f.d.toNat + 1] else [f.d.toNat]))) :=
  ⟨⟨s0, ⟨7, 3, 0, 0x8000⟩, acts (by decide +kernel), acts (by decide +kernel)⟩,
   ⟨s0, ⟨7, 6, 2, 0xFF, 0xA0⟩, by decide, acts (by decide +kernel)⟩,
   ⟨s0, ⟨7, 6, 2, 3, 0x07⟩, by decide, acts (by decide +kernel)⟩,
   ⟨s0, ⟨7, 6, 2, 4, 0x40⟩, by decide, by decide, acts (by decide +kernel), acts (by decide +kernel)⟩⟩

/-- R92: the field at 12 of length 16 (g4 = 0x1000 gives position 0 and length 16): bits 15 to 0 of g3 = 0xFFFFFFFE, sign-extended or not. -/
theorem test_gbfx : exec (.gbfx c0 ⟨7, 6, 3, 4, 0⟩) s0 = .next (s0.issue c0 (some 1002) [.g 6 0xFFFE false]) ∧
    exec (.gbfx c0 ⟨7, 6, 3, 4, 0x20⟩) s0 = .next (s0.issue c0 (some 1002) [.g 6 0xFFFFFFFE false]) := ⟨rfl, rfl⟩

theorem witness_GroupPredicates :
    (∃ (s : State) (f : FmtS3), Acts s.me f.gd (aluSources f true) ∧ f.sub % 8 = 5 ∧ f.w = true) ∧
    (∃ (s : State) (f : FmtS3), Acts s.me f.gd (aluSources f true) ∧ f.sub % 8 = 0 ∧ f.w = false) ∧
    (∃ (s : State) (f : FmtS3), Acts s.me f.gd (aluSources f true) ∧ 256 + f.sub % 8 ∉ s.me.badP) ∧
    (∃ (s : State) (f : FmtS3), Acts s.me f.gd [] ∧ 256 + f.a.toNat ∉ s.me.badP ∧ 256 + f.b.toNat ∉ s.me.badP) :=
  ⟨⟨s0, ⟨7, 1, 2, 4, 0x45⟩, acts (by decide +kernel), by decide, by decide⟩,
   ⟨s0, ⟨7, 1, 2, 3, 0x20⟩, acts (by decide +kernel), by decide, by decide⟩,
   ⟨s0, ⟨7, 6, 2, 4, 0x09⟩, acts (by decide +kernel), by decide +kernel⟩,
   ⟨s0, ⟨7, 6, 1, 7, 0x08⟩, acts (by decide +kernel), by decide +kernel, by decide +kernel⟩⟩

/-- R93: 7 > -2 signed, and 7 < 0xFFFFFFFE unsigned. -/
theorem test_gcmp : exec (.gcmp c0 ⟨7, 1, 2, 3, 0x24⟩) s0 = .next (s0.issue c0 (some 1002) [.q 1 true]) ∧
    exec (.gcmp c0 ⟨7, 1, 2, 3, 0x02⟩) s0 = .next (s0.issue c0 (some 1002) [.q 1 true]) := ⟨rfl, rfl⟩

theorem witness_SpecialRegistersAndFormat :
    (∃ (s : State) (f : FmtS3) (n v : Nat), Acts s.me f.gd [] ∧ (n, v) ∈ special32 s ∧ f.b.toNat = n) ∧
    (∃ (s : State) (f : FmtS3) (v : W64), Acts s.me f.gd [] ∧ f.b = 0x09 ∧ v = BitVec.ofNat 64 (s.clock - (s.pkg (s.coreOf s.cur / 128)).resetAt)) ∧
    (∃ (s : State) (f : FmtS3), Acts s.me f.gd [] ∧ f.b = 0x0C) ∧ (∃ (s : State) (f : FmtS3), Acts s.me f.gd [] ∧ f.b = 0x0E) ∧
    (∃ (s : State) (f : FmtS3), Acts s.me f.gd [] ∧ f.b = 0x87) ∧
    (∃ (s : State) (f : FmtS3), Acts s.me f.gd [f.a.toNat] ∧ f.b = 0x0A) ∧ (∃ (s : State) (f : FmtS3), Acts s.me f.gd [f.a.toNat] ∧ f.b = 0x0B) ∧
    (∃ (s : State) (f : FmtS3), Acts s.me f.gd [f.a.toNat] ∧ f.b ≠ 0x0A ∧ f.b ≠ 0x0B) ∧
    (∃ (s : State) (f : FmtS3) (n : W32), Acts s.me f.gd (f.a.toNat :: (if f.i then [] else [f.b.toNat])) ∧
      n = (let b : W32 := if f.i then f.b.signExtend 32 else s.me.rg f.b.toNat; (s.me.fmt &&& ~~~b) ||| (s.me.rg f.a.toNat &&& b)) ∧
      n.extractLsb' 0 3 = 7) ∧
    (∃ (s : State) (f : FmtS3) (n : W32), Acts s.me f.gd (f.a.toNat :: (if f.i then [] else [f.b.toNat])) ∧
      n = (let b : W32 := if f.i then f.b.signExtend 32 else s.me.rg f.b.toNat; (s.me.fmt &&& ~~~b) ||| (s.me.rg f.a.toNat &&& b)) ∧
      n.extractLsb' 0 3 = 6) :=
  ⟨⟨s0, ⟨7, 6, 0, 0x8A, 0⟩, 0x8A, 0, acts (by decide +kernel), by simp [special32, s0, sOf, State.me, State.grp, mget, mget?, g0], by decide⟩,
   ⟨s0, ⟨7, 6, 0, 0x09, 0⟩, _, acts (by decide +kernel), by decide, rfl⟩,
   ⟨s0, ⟨7, 6, 0, 0x0C, 0⟩, acts (by decide +kernel), by decide⟩, ⟨s0, ⟨7, 6, 0, 0x0E, 0⟩, acts (by decide +kernel), by decide⟩,
   ⟨s0, ⟨7, 6, 0, 0x87, 0⟩, acts (by decide +kernel), by decide⟩,
   ⟨s0, ⟨7, 0, 2, 0x0A, 0⟩, acts (by decide +kernel), by decide⟩, ⟨s0, ⟨7, 0, 2, 0x0B, 0⟩, acts (by decide +kernel), by decide⟩,
   ⟨s0, ⟨7, 0, 2, 0x09, 0⟩, acts (by decide +kernel), by decide, by decide⟩,
   ⟨s0, ⟨7, 0, 2, 7, 0x80⟩, _, acts (by decide +kernel), rfl, by decide +kernel⟩,
   ⟨s0, ⟨7, 0, 3, 7, 0x80⟩, _, acts (by decide +kernel), rfl, by decide +kernel⟩⟩

/-- R97: a mask 7 over FMT 0x21 with RM 7 of g2 is reserved; with RM 6 of g3 it leaves 0x26. -/
theorem test_setfmt : exec (.setfmt c0 ⟨7, 0, 2, 7, 0x80⟩) s0 = .next (raise s0 (fi 1)) ∧
    exec (.setfmt c0 ⟨7, 0, 3, 7, 0x80⟩) s0 = .next (s0.issue c0 (some 1002) [.fmt 0x26]) := ⟨rfl, rfl⟩

theorem witness_UniformTransfers :
    (∃ (s : State) (f : FmtBR), Acts s.me f.gd []) ∧
    (∃ (s : State) (f : FmtS3) (t : W64), Acts s.me f.gd ([f.a.toNat, f.a.toNat + 1] ++ (if f.i then [] else [f.b.toNat])) ∧
      t = s.me.rgd f.a.toNat + 8 * (if f.i then f.b.signExtend 64 else (s.me.rg f.b.toNat).signExtend 64) ∧ t &&& 7 = 0) ∧
    (∃ (s : State) (f : FmtS3) (t : W64), Acts s.me f.gd ([f.a.toNat, f.a.toNat + 1] ++ (if f.i then [] else [f.b.toNat])) ∧
      t = s.me.rgd f.a.toNat + 8 * (if f.i then f.b.signExtend 64 else (s.me.rg f.b.toNat).signExtend 64) ∧ t &&& 7 ≠ 0) ∧
    (∃ (s : State) (f : FmtS3), Acts s.me f.gd [f.a.toNat, f.a.toNat + 1] ∧ s.me.rgd f.a.toNat &&& 7 = 0) ∧
    (∃ (s : State) (f : FmtS3), Acts s.me f.gd [f.a.toNat, f.a.toNat + 1] ∧ s.me.rgd f.a.toNat &&& 7 ≠ 0) :=
  ⟨⟨s0, ⟨7, 0xFFFFFA, 0⟩, acts (by decide +kernel)⟩,
   ⟨s0, ⟨7, 0, 4, 0xFF, 0x80⟩, _, acts (by decide +kernel), rfl, by decide +kernel⟩,
   ⟨s0, ⟨7, 0, 2, 3, 0⟩, _, acts (by decide +kernel), rfl, by decide +kernel⟩,
   ⟨s0, ⟨7, 0, 4, 0, 0⟩, acts (by decide +kernel), by decide +kernel⟩,
   ⟨s0, ⟨7, 0, 2, 0, 0⟩, acts (by decide +kernel), by decide +kernel⟩⟩

/-- R98 to R100: a branch back by 6 words from 0x2000 goes to 0x1FD0, and CALL leaves 0x2008 in g6.d. -/
theorem test_call : goes (exec (.call c0 ⟨7, 0xFFFFFA, 6⟩) s0) (fun u => u.me.pc == 0x1FD0 &&
    u.me.pend.any (fun p => p.wr == [.g 6 0x2008 false, .g 7 0 false])) = true := by decide +kernel

/-- Entries of a stack, one lane mask each. -/
def entry (rpc : W64) (mask : W32) : Entry := ⟨0x4000, rpc, mask, 0, 0x21, false⟩
/-- A group whose hardware stack is full and that has no spill slot. -/
def gFull : Group := { g0 with stack := List.replicate 8 (entry 0x3000 0xF0000000) }
/-- A group whose lane 0 stands at nesting 255. -/
def gDeep : Group := { g0 with nest := [(0, 255)] }

theorem witness_DivergentBranchSplitsLanes :
    (∃ (s : State) (f : FmtVB) (deep : W32), predClean s.me f.gd ∧
      (∀ l, l < 32 → deep.getLsbD l = ((s.me.am &&& ~~~s.me.xm).getLsbD l && mget s.me.nest 0 l == 255 && (s.me.am &&& ~~~s.me.xm) &&& predMask s.me f.gd != 0 &&
        (s.me.am &&& ~~~s.me.xm) &&& ~~~predMask s.me f.gd != 0)) ∧
      (s.me.am &&& ~~~s.me.xm &&& ~~~deep) &&& predMask s.me f.gd ≠ 0 ∧
      (s.me.am &&& ~~~s.me.xm &&& ~~~deep) &&& ~~~predMask s.me f.gd ≠ 0 ∧ s.me.stack.length - s.me.sc = 8 ∧ s.me.sc ≥ (s.kernelOf s.cur).spd) ∧
    (∃ (s : State) (f : FmtVB) (deep : W32), predClean s.me f.gd ∧ deep = 1 ∧
      (∀ l, l < 32 → deep.getLsbD l = ((s.me.am &&& ~~~s.me.xm).getLsbD l && mget s.me.nest 0 l == 255 && (s.me.am &&& ~~~s.me.xm) &&& predMask s.me f.gd != 0 &&
        (s.me.am &&& ~~~s.me.xm) &&& ~~~predMask s.me f.gd != 0)) ∧ s.me.stack.length - s.me.sc < 8) :=
  ⟨⟨sOf gFull, ⟨0, 4, 8⟩, 0, by unfold predClean; decide +kernel, by decide +kernel, by decide +kernel, by decide +kernel, by decide +kernel, by decide +kernel⟩,
   ⟨sOf gDeep, ⟨0, 4, 8⟩, 1, by unfold predClean; decide +kernel, rfl, by decide +kernel, by decide +kernel⟩⟩

/-- R18, R19, R101: on predicate 0 (lanes 0 to 3) the other lanes go on, and the pending path keeps lanes 1 to 3, since lane 0 stands at 255 and leaves;
a full stack without a spill slot faults with 0x09. -/
theorem test_vbr : goes (exec (.vbr c0 ⟨0, 4, 8⟩) (sOf gDeep)) (fun u => u.me.am == 0xFFFFFFF0 && u.me.pc == 0x2008 && u.me.xm == 1 && u.me.ddp == 1 &&
      u.me.stack == [⟨0x2020, 0x2040, 0xE, 0, 0x21, false⟩] && u.me.stat 0 == 0x40 && mget u.me.nest 0 31 == 1) = true ∧
    exec (.vbr c0 ⟨0, 4, 8⟩) (sOf gFull) = .next (raise (sOf gFull) (fi 9)) := ⟨by decide +kernel, by rfl⟩

/-- A group in two nested regions. -/
def gIn : Group := { g0 with stack := [entry 0x2040 0xF, entry 0x2080 0xF0], nest := [(4, 2), (5, 2)] }

theorem witness_BreakAndExitLanes :
    (∃ (s : State) (f : FmtVB), predClean s.me f.gd ∧ ∀ e ∈ s.me.stack, e.rpc ≠ s.me.pc + 8 * f.toff.signExtend 64) ∧
    (∃ (s : State) (f : FmtVB) (d : Nat) (e : Entry), predClean s.me f.gd ∧ s.me.stack[d]? = some e ∧ e.rpc = s.me.pc + 8 * f.toff.signExtend 64 ∧
      d = 1 ∧ ∀ j, j < d → ∀ x ∈ s.me.stack[j]?, x.rpc ≠ s.me.pc + 8 * f.toff.signExtend 64) ∧
    (∃ (s : State) (f : FmtS3), Acts s.me f.gd [] ∧ predClean s.me (f.fn.extractLsb' 0 4)) :=
  ⟨⟨s0, ⟨7, 16, 0⟩, by unfold predClean; decide +kernel, by decide +kernel⟩,
   ⟨sOf gIn, ⟨1, 16, 0⟩, 1, entry 0x2080 0xF0, by unfold predClean; decide +kernel, rfl, by decide +kernel, rfl, by decide +kernel⟩,
   ⟨s0, ⟨7, 0, 0, 0, 1⟩, acts (by decide +kernel), by unfold predClean; decide +kernel⟩⟩

/-- R102: lanes 0 to 7 break to the outer entry, one level up from the newest, and their nesting counters fall by 1. -/
theorem test_vbrk : goes (exec (.vbrk c0 ⟨1, 16, 0⟩) (sOf gIn)) (fun u => u.me.am == 0xFFFFFF00 && u.me.pc == 0x2008 &&
    u.me.stack == [entry 0x2040 0xF, { entry 0x2080 0xF0 with brk := 0xFF }] && mget u.me.nest 0 4 == 1 && mget u.me.nest 0 5 == 1) = true := by decide +kernel

theorem witness_WaitingInstructionsHoldTheGroup :
    (∃ (s : State) (f : FmtS3), Acts s.me f.gd (if f.i then [] else [f.b.toNat])) ∧ (∃ (s : State) (f : FmtS3), Acts s.me f.gd []) ∧
    (∃ (s : State) (f : FmtSI), Acts s.me f.gd [] ∧ f.imm = 0) ∧ (∃ (s : State) (f : FmtSI), Acts s.me f.gd [] ∧ f.imm = 0xFFFF) :=
  ⟨⟨s0, ⟨7, 0, 0, 2, 0x01⟩, acts (by decide +kernel)⟩, ⟨s0, ⟨7, 0, 0, 0, 0⟩, acts (by decide +kernel)⟩,
   ⟨s0, ⟨7, 0, 0, 0⟩, acts (by decide +kernel), rfl⟩, ⟨s0, ⟨7, 0, 0, 0xFFFF⟩, acts (by decide +kernel), rfl⟩⟩

theorem witness_EndingReportsAndTraps :
    (∃ (s : State) (f : FmtS3), Acts s.me f.gd [] ∧ s.me.trap ≠ 0) ∧ (∃ (s : State) (f : FmtS3), Acts s.me f.gd [] ∧ s.me.trap = 0) ∧
    (∃ (s : State) (f : FmtSI), Acts s.me f.gd []) :=
  ⟨⟨sOf { g0 with trap := 1 }, ⟨7, 0, 0, 0, 0⟩, acts (by decide +kernel), by decide +kernel⟩, ⟨s0, ⟨7, 0, 0, 0, 0⟩, acts (by decide +kernel), by decide +kernel⟩,
   ⟨s0, ⟨7, 0, 0, 0xFFFF⟩, acts (by decide +kernel)⟩⟩

theorem witness_FalseGuardLeavesOnlyTheCounter :
    ∃ (s : State) (i : Instr) (c : Ctl) (gd : BitVec 4), qGuarded i = some (c, gd) ∧ s.me.qGuard gd = false ∧ 256 + gd.toNat % 8 ∉ s.me.badP :=
  ⟨s0, .gadd c1 ⟨9, 6, 2, 3, 0⟩, c1, 9, rfl, by decide +kernel, by decide +kernel⟩

/-! ## Witnesses and steps: lane instructions -/

/-- The group behind a prefix with SAT, CR = 4, MZ and the mask predicate 1. -/
def gPfx : Group := { g0 with pfx := some ⟨1, 1, 6, 1, 4, 0⟩ }
/-- The writes of the newest pending instruction. -/
def wrote (u : State) : List RegWr := (u.me.pend.getLast?.map (·.wr)).getD []

theorem witness_IntegerLanesComputeElements :
    (∃ (s : State) (i : Instr) (e : Elementwise), integerOf (prefixSat s.me) i = some e ∧ integerTypes i e.f.t ∧ s.me.pfx = none ∧
      Lanes s.me e.f.gd ((e.f.d.toNat, regs e.f.t) :: e.sources s.me) (e.sources s.me) []) ∧
    (∃ (s : State) (i : Instr) (e : Elementwise), integerOf (prefixSat s.me) i = some e ∧ integerTypes i e.f.t ∧ s.me.pfx ≠ none ∧
      Lanes s.me e.f.gd ((e.f.d.toNat, regs e.f.t) :: e.sources s.me) (e.sources s.me) []) :=
  ⟨⟨s0, .vmulh c0 ⟨7, 62, 4, 6, 3, 0⟩, _, rfl, (by decide : (3 : Nat) ≤ 7), rfl, lanesOk (by decide +kernel)⟩,
   ⟨sOf gPfx, .vmad c0 ⟨0, 6, 4, 5, 1, 8⟩, _, rfl, (by decide : (1 : Nat) ≤ 7), by decide +kernel, lanesOk (by decide +kernel)⟩⟩

/-- R113: lane 1 of 9 + (-1) is 8; with T = u32 and no SAT the sum wraps as well; a byte sum stays in its byte. -/
theorem test_vadd : goes (exec (.vadd c0 ⟨7, 6, 4, 5, 1, 0⟩) s0) (fun u => (wrote u).contains (.v 6 1 8 false) && (wrote u).length == 32) = true ∧
    goes (exec (.vadd c0 ⟨7, 6, 5, 1, 7, 8⟩) s0) (fun u => (wrote u).contains (.v 6 1 0 false) && (wrote u).contains (.v 6 0 0x01010101 false)) = true := by decide +kernel
/-- R111, R113, R67: guard P0 and MP = P1 (both true in lanes 0 to 3): a * b + vCR with SAT; MZ zeroes no lane of the guard here, and lanes outside P0 are not written. -/
theorem test_vmad_prefix : goes (exec (.vmad c0 ⟨0, 6, 4, 5, 1, 0⟩) (sOf gPfx)) (fun u => wrote u ==
    [.v 6 0 0 false, .v 6 1 0 false, .v 6 2 0 false, .v 6 3 0 false]) = true := by decide +kernel

theorem witness_ImmediatesPredicatesAndByteDot :
    (∃ (s : State) (f : FmtVI), Lanes s.me f.gd [(f.d.toNat, 1)] [] [] ∧ Lanes s.me f.gd [(f.d.toNat, 1)] [(f.d.toNat, 1)] []) ∧
    (∃ (s : State) (f : FmtV3), f.t = 3 ∧ f.m.extractLsb' 0 3 = 5 ∧ Lanes s.me f.gd ((f.a.toNat, regs f.t) :: (if f.m.getLsbD 3 then [] else [(f.b.toNat, regs f.t)]))
      ((f.a.toNat, regs f.t) :: (if f.m.getLsbD 3 then [] else [(f.b.toNat, regs f.t)])) []) ∧
    (∃ (s : State) (f : FmtV3), f.t = 0xE ∧ Lanes s.me f.gd ((f.d.toNat, regs f.t) :: (f.a.toNat, regs f.t) :: (if f.m.getLsbD 3 then [] else [(f.b.toNat, regs f.t)]))
      ((f.a.toNat, regs f.t) :: (if f.m.getLsbD 3 then [] else [(f.b.toNat, regs f.t)])) [(f.m.extractLsb' 0 3).toNat]) ∧
    (∃ (s : State) (f : FmtV3), Lanes s.me f.gd [] [] [f.a.toNat, f.b.toNat]) ∧
    (∃ (s : State) (f : FmtV3), Lanes s.me f.gd ((f.d.toNat, 1) :: [(f.a.toNat, 1), (f.b.toNat, 1), (fourth s.me f.d, 1)])
      [(f.a.toNat, 1), (f.b.toNat, 1), (fourth s.me f.d, 1)] []) :=
  ⟨⟨s0, ⟨7, 63, 0, 0x8000⟩, lanesOk (by decide +kernel), lanesOk (by decide +kernel)⟩,
   ⟨s0, ⟨7, 1, 4, 6, 3, 5⟩, rfl, rfl, lanesOk (by decide +kernel)⟩, ⟨s0, ⟨7, 6, 4, 0x80, 0xE, 0xF⟩, rfl, lanesOk (by decide +kernel)⟩,
   ⟨s0, ⟨7, 2, 0, 7, 0, 8⟩, lanesOk (by decide +kernel)⟩, ⟨sOf gPfx, ⟨7, 6, 4, 5, 0, 1⟩, lanesOk (by decide +kernel)⟩⟩

/-- R118: lane 1: 9 * (-1) with both signed, 9 * 255 with b unsigned, in the lowest byte alone. -/
theorem test_vdot4 : goes (exec (.vdot4 c0 ⟨7, 6, 4, 5, 0, 0⟩) s0) (fun u => (wrote u).contains (.v 6 1 0xFFFFFFF7 false)) = true ∧
    goes (exec (.vdot4 c0 ⟨7, 6, 4, 5, 0, 2⟩) s0) (fun u => (wrote u).contains (.v 6 1 2295 false)) = true := by decide +kernel

theorem witness_FloatingLanesComputeElements :
    (∃ (s : State) (i : Instr) (e : Elementwise), floatingOf s.me i = some e ∧ e.f.t = 8 ∧ s.me.pfx = none ∧
      Lanes s.me e.f.gd ((e.f.d.toNat, regs e.f.t) :: e.sources s.me) (e.sources s.me) []) ∧
    (∃ (s : State) (i : Instr) (e : Elementwise), floatingOf s.me i = some e ∧ e.f.t = 0xB ∧ s.me.pfx ≠ none ∧
      Lanes s.me e.f.gd ((e.f.d.toNat, regs e.f.t) :: e.sources s.me) (e.sources s.me) []) :=
  ⟨⟨s0, .fadd c0 ⟨7, 6, 8, 1, 8, 8⟩, _, rfl, rfl, rfl, lanesOk (by decide +kernel)⟩,
   ⟨sOf gPfx, .ffma c0 ⟨0, 6, 10, 10, 0xB, 0⟩, _, rfl, rfl, by decide +kernel, lanesOk (by decide +kernel)⟩⟩

/-- R119: 1.0 + 1 = 2.0 and 0 + 1 = 1.0 in f32; two halves 1.0 * 1.0 in f16x2. -/
theorem test_fadd : goes (exec (.fadd c0 ⟨7, 6, 8, 1, 8, 8⟩) s0) (fun u => (wrote u).contains (.v 6 0 0x40000000 false) && (wrote u).contains (.v 6 1 0x3F800000 false)) = true ∧
    goes (exec (.fmul c0 ⟨7, 6, 10, 10, 0xA, 0⟩) s0) (fun u => (wrote u).contains (.v 6 0 0x3C003C00 false)) = true := by decide +kernel

theorem witness_FloatingComparesConversionsAndPacks :
    (∃ (s : State) (f : FmtV3), f.t = 9 ∧ Lanes s.me f.gd ((f.a.toNat, regs f.t) :: (if f.m.getLsbD 3 then [] else [(f.b.toNat, regs f.t)]))
      ((f.a.toNat, regs f.t) :: (if f.m.getLsbD 3 then [] else [(f.b.toNat, regs f.t)])) []) ∧
    (∃ (s : State) (f : FmtV3), f.t = 0xA ∧ Lanes s.me f.gd ((f.d.toNat, 1) :: [(f.a.toNat, 1), (f.b.toNat, 1), (fourth s.me f.d, 1)])
      [(f.a.toNat, 1), (f.b.toNat, 1), (fourth s.me f.d, 1)] []) ∧
    (∃ (s : State) (f : FmtV3), (8 ≤ f.t.toNat ∧ f.t.toNat ≤ 0xB) ∧ f.b.extractLsb' 0 4 = 0xB ∧ f.t = 9 ∧
      Lanes s.me f.gd ((f.d.toNat, regs f.t) :: [(f.a.toNat, regs (f.b.extractLsb' 0 4))]) [(f.a.toNat, regs (f.b.extractLsb' 0 4))] []) ∧
    (∃ (s : State) (f : FmtV3), f.t = 8 ∧ f.b.extractLsb' 0 4 = 4 ∧
      Lanes s.me f.gd ((f.d.toNat, regs f.t) :: [(f.a.toNat, regs (f.b.extractLsb' 0 4))]) [(f.a.toNat, regs (f.b.extractLsb' 0 4))] []) ∧
    (∃ (s : State) (f : FmtV3), f.t = 1 ∧ f.b.extractLsb' 0 4 = 9 ∧
      Lanes s.me f.gd ((f.d.toNat, regs f.t) :: [(f.a.toNat, regs (f.b.extractLsb' 0 4))]) [(f.a.toNat, regs (f.b.extractLsb' 0 4))] []) ∧
    (∃ (s : State) (f : FmtV3), f.t = 0xE ∧ 2 * (shape f.t).1 * (f.m.extractLsb' 0 3).toNat + 2 * (shape f.t).1 = 32 ∧
      Lanes s.me f.gd ((f.d.toNat, 1) :: (f.a.toNat, 1) :: (if f.m.getLsbD 3 then [] else [(f.b.toNat, 1)]))
        (((f.a.toNat, 1) :: (if f.m.getLsbD 3 then [] else [(f.b.toNat, 1)])) ++ [(f.d.toNat, 1)]) []) ∧
    (∃ (s : State) (f : FmtV3), f.t = 0xA ∧ Lanes s.me f.gd [(f.d.toNat, 1), (f.a.toNat, 1)] [(f.a.toNat, 1)] []) :=
  ⟨⟨s0, ⟨7, 1, 8, 10, 9, 7⟩, rfl, lanesOk (by decide +kernel)⟩, ⟨s0, ⟨7, 6, 10, 10, 0xA, 0⟩, rfl, lanesOk (by decide +kernel)⟩,
   ⟨s0, ⟨7, 6, 10, 0xB, 9, 0⟩, by decide, rfl, rfl, lanesOk (by decide +kernel)⟩, ⟨s0, ⟨7, 6, 4, 4, 8, 0⟩, rfl, rfl, lanesOk (by decide +kernel)⟩,
   ⟨s0, ⟨7, 6, 8, 9, 1, 0⟩, rfl, rfl, lanesOk (by decide +kernel)⟩, ⟨s0, ⟨7, 6, 8, 10, 0xE, 3⟩, rfl, rfl, lanesOk (by decide +kernel)⟩,
   ⟨s0, ⟨7, 6, 10, 0, 0xA, 1⟩, rfl, lanesOk (by decide +kernel)⟩⟩

/-- R124, R125: 9 as f32 is 0x41100000, 1.0 to i32 is 1; R124 packs 1.0 and 0 to f16x2, and FUNPK gives element 1 of 0x3C003C00, 1.0. -/
theorem test_fcvt : goes (exec (.fcvt c0 ⟨7, 6, 4, 1, 8, 0⟩) s0) (fun u => (wrote u).contains (.v 6 1 0x41100000 false)) = true ∧
    goes (exec (.fcvt c0 ⟨7, 6, 8, 8, 1, 0⟩) s0) (fun u => (wrote u).contains (.v 6 0 1 false)) = true ∧
    goes (exec (.fpack c0 ⟨7, 6, 8, 4, 0xA, 0⟩) s0) (fun u => (wrote u).contains (.v 6 0 0x00003C00 false)) = true ∧
    goes (exec (.funpk c0 ⟨7, 6, 10, 0, 0xA, 1⟩) s0) (fun u => (wrote u).contains (.v 6 0 0x3F800000 false)) = true := by decide +kernel

theorem witness_SpecialFunctionValues : ∃ m : Fmt, m = fF32 ∨ m = fF64 ∨ m = fF16 ∨ m = fBf16 := ⟨fBf16, by decide⟩
theorem witness_MinimumMaximumAndOrder : (∃ m : Fmt, m = fF32 ∨ m = fF64 ∨ m = fF16 ∨ m = fBf16) ∧ ∃ cc : Nat, cc < 8 := ⟨⟨fF64, by decide⟩, 7, by decide⟩

/-- R128: XRCP of 0 is infinity with DZ, XRSQ of 4.0 is 0.5, XEXP2 of 3.0 is 8.0, in f32. -/
theorem test_special : goes (exec (.xrcp c0 ⟨7, 6, 4, 0, 8, 0⟩) s0) (fun u => (wrote u).contains (.v 6 0 0x7F800000 false) && (wrote u).contains (.stat 0 2 false)) = true ∧
    xRsq envRne fF32 0x40800000 = (0x3F000000, 0) ∧ (xExp2 envRne fF32 0x40400000).1 = 0x41000000 := by decide +kernel

/-! ## Witnesses and steps: cross-lane instructions -/

theorem witness_CrossLaneMoves :
    (∃ (s : State) (i : Instr) (m : LaneMove), moveOf s.me i = some m ∧ crossLanes s.me m.f.gd ≠ [] ∧ Crosses s.me m.f.gd m.dest m.reads m.preds m.gregs) ∧
    (∃ (s : State) (i : Instr) (m : LaneMove), moveOf s.me i = some m ∧ crossLanes s.me m.f.gd = [] ∧ Crosses s.me m.f.gd m.dest m.reads m.preds m.gregs) :=
  ⟨⟨s0, .lshf c0 ⟨0, 6, 4, 0xFF, 0xA, 8⟩, _, rfl, by decide +kernel, crosses (by decide +kernel)⟩,
   ⟨s0, .vtogFirst c0 ⟨15, 6, 4, 0, 3, 0⟩, _, rfl, by decide +kernel, crosses (by decide +kernel)⟩⟩

/-- R131: LSHF up by 1 under P0 (lanes 0 to 3): lane 0 has no source and keeps its own value with the predicate false; lane 2 takes lane 1's 9. -/
theorem test_lshf : goes (exec (.lshf c0 ⟨0, 6, 4, 1, 0xA, 9⟩) s0) (fun u => wrote u == [.v 6 0 0 false, .p 2 0 false, .v 6 1 0 false, .p 2 1 true,
    .v 6 2 9 false, .p 2 2 true, .v 6 3 0 false, .p 2 3 true]) = true := by decide +kernel
/-- R133: under P1 (lanes 0 to 7), the ballot of P0 is 0xF. -/
theorem test_lvoteBal : goes (exec (.lvoteBal c0 ⟨1, 6, 0, 0, 0, 3⟩) s0) (fun u => wrote u == (List.range 8).map (fun l => .v 6 l 0xF false)) = true := by decide +kernel

theorem witness_CrossLaneReductionsAndScans :
    (∃ (s : State) (f : FmtV3), Crosses s.me f.gd [(f.d.toNat, regs f.t)] [(f.a.toNat, regs f.t)] [] [] ∧ reduceTypes (f.m.extractLsb' 0 3).toNat f.t ∧ f.t = 9 ∧
      (f.m.extractLsb' 0 3).toNat = 2) ∧
    (∃ (s : State) (f : FmtV3), Crosses s.me f.gd [(f.d.toNat, regs f.t)] [(f.a.toNat, regs f.t)] [] [] ∧ reduceTypes (f.m.extractLsb' 0 3).toNat f.t ∧ f.t = 0 ∧
      (f.m.extractLsb' 0 3).toNat = 5) ∧
    (∃ (s : State) (f : FmtV3), Crosses s.me f.gd [(f.d.toNat, 1)] [(f.a.toNat, 1), (f.b.toNat, 1)] [] [] ∧ (f.m.extractLsb' 0 3).toNat = 6 ∧ f.t = 0xA) :=
  ⟨⟨s0, ⟨7, 6, 4, 0, 9, 2⟩, crosses (by decide +kernel), by unfold reduceTypes; decide, rfl, rfl⟩,
   ⟨s0, ⟨7, 6, 4, 1, 0, 5⟩, crosses (by decide +kernel), by unfold reduceTypes; decide, rfl, rfl⟩,
   ⟨s0, ⟨7, 6, 10, 4, 0xA, 6⟩, crosses (by decide +kernel), rfl, rfl⟩⟩

/-- R134, R135: the sum of v4 over lanes 0 to 3 is 9, and its exclusive scan is 0, 0, 9, 9. -/
theorem test_lred : goes (exec (.lred c0 ⟨0, 6, 4, 0, 1, 0⟩) s0) (fun u => wrote u == (List.range 4).map (fun l => .v 6 l 9 false)) = true ∧
    goes (exec (.lscan c0 ⟨0, 6, 4, 1, 1, 0⟩) s0) (fun u => wrote u == [.v 6 0 0 false, .v 6 1 0 false, .v 6 2 9 false, .v 6 3 9 false]) = true := by decide +kernel

/-- Group 1 of the block waits to receive, or to send, two registers in slot 3. -/
def sMeets (send : Bool) (n : Nat) : State :=
  let s := sOf { g0 with pend := [⟨2, none, 0, []⟩] }
  { s with groups := [(512, s.me), (513, { g0 with idx := 1, pend := [⟨5, none, 1, []⟩] })],
           blocks := mmap (fun _ b => { b with xfer := [(3, [⟨513, 5, 0x3000, n, send, 20, 0x3, if send then [(0, 1, 77), (1, 0, 78)] else [], 7⟩])] }) s.blocks }
theorem witness_TransferSlotsPairInOrder :
    (∃ (s : State) (f : FmtV3), f.a.toNat + ((f.m.extractLsb' 0 3).toNat + 1) ≤ s.me.nv ∧ s.me.badV = [] ∧ mget (s.blk 1).xfer [] (f.b.toNat % 16) = []) ∧
    (∃ (s : State) (f : FmtV3), f.d.toNat + ((f.m.extractLsb' 0 3).toNat + 1) ≤ s.me.nv ∧ crossLanes s.me f.gd ≠ [] ∧ s.me.badP = [] ∧
      mget (s.blk 1).xfer [] (f.b.toNat % 16) = []) ∧
    (∃ (s : State) (f : FmtV3) (w : XWait) (rest : List XWait), mget (s.blk (s.cur / 512)).xfer [] (f.b.toNat % 16) = w :: rest ∧
      w.n = (f.m.extractLsb' 0 3).toNat + 1 ∧ w.pend < s.nextId ∧ (∀ x ∈ rest, x.pend ≠ w.pend ∧ x.pend ≠ s.nextId) ∧ w.send = false ∧
      f.a.toNat + ((f.m.extractLsb' 0 3).toNat + 1) ≤ s.me.nv ∧ s.me.badV = [] ∧ ∃ p ∈ (s.grp w.g).pend, p.id = w.pend) ∧
    (∃ (s : State) (f : FmtV3) (w : XWait) (rest : List XWait), mget (s.blk (s.cur / 512)).xfer [] (f.b.toNat % 16) = w :: rest ∧
      w.n = (f.m.extractLsb' 0 3).toNat + 1 ∧ w.pend < s.nextId ∧ (∀ x ∈ rest, x.pend ≠ w.pend ∧ x.pend ≠ s.nextId) ∧ w.send = true ∧
      f.d.toNat + ((f.m.extractLsb' 0 3).toNat + 1) ≤ s.me.nv ∧ crossLanes s.me f.gd ≠ [] ∧ s.me.badP = [] ∧ ∀ p ∈ s.me.pend, p.id ≠ s.nextId) ∧
    (∀ send : Bool, ∃ (s : State) (f : FmtV3) (w : XWait) (rest : List XWait), mget (s.blk (s.cur / 512)).xfer [] (f.b.toNat % 16) = w :: rest ∧
      w.n ≠ (f.m.extractLsb' 0 3).toNat + 1 ∧ s.probe.on = false ∧ w.send = send ∧ f.a.toNat + ((f.m.extractLsb' 0 3).toNat + 1) ≤ s.me.nv ∧
      f.d.toNat + ((f.m.extractLsb' 0 3).toNat + 1) ≤ s.me.nv ∧ crossLanes s.me f.gd ≠ [] ∧ s.me.badP = [] ∧ s.me.badV = []) :=
  ⟨⟨s0, ⟨7, 0, 4, 3, 0, 1⟩, by decide +kernel, rfl, by decide +kernel⟩, ⟨s0, ⟨7, 6, 0, 3, 0, 7⟩, by decide +kernel, by decide +kernel, rfl, by decide +kernel⟩,
   ⟨sMeets false 2, ⟨7, 0, 4, 3, 0, 1⟩, _, _, rfl, by decide, by decide, by simp, rfl, by decide +kernel, rfl, by decide +kernel⟩,
   ⟨sMeets true 2, ⟨7, 6, 0, 3, 0, 1⟩, _, _, rfl, by decide, by decide, by simp, rfl, by decide +kernel, by decide +kernel, rfl, by decide +kernel⟩,
   fun b => ⟨sMeets b 3, ⟨7, 6, 4, 3, 0, 1⟩, ⟨513, 5, 0x3000, 3, b, 20, 0x3, if b then [(0, 1, 77), (1, 0, 78)] else [], 7⟩, [], by cases b <;> decide +kernel, (by decide : 3 ≠ 1 + 1), rfl, rfl,
     by cases b <;> decide +kernel, by cases b <;> decide +kernel, by cases b <;> decide +kernel, rfl, rfl⟩⟩

/-- R138: the waiting receiver is to get v4 and v5 of lanes 0 and 1; the waiting sender's values go to v6 and v7. -/
theorem test_xsend : goes (exec (.xsend c0 ⟨7, 0, 4, 3, 0, 1⟩) (sMeets false 2)) (fun u => mget (u.blk 1).xfer [] 3 == [] &&
      (u.grp 513).pend == [⟨5, none, 1, [.v 20 0 0 false, .v 20 1 9 false, .v 21 0 0 false, .v 21 1 0xFFFFFFFF false]⟩]) = true ∧
    goes (exec (.xrecv c1 ⟨7, 6, 0, 3, 0, 1⟩) (sMeets true 2)) (fun u => mget (u.blk 1).xfer [] 3 == [] && wrote u == [.v 6 1 77 false, .v 7 0 78 false]) = true := by
  decide +kernel

/-! ## Witnesses and steps: lane accesses -/

/-- The page of the translation in the core's TLB. -/
def page0 : TlbEnt := ⟨0, 2 ^ 40, 0, true, true, 0, 0, 0⟩
/-- Lanes 0 to 3 address 0x10000, 0x10004, 0x101FC and 0x10200 by v20.d, and the scratchpad by the low half; lane 4 is misaligned. -/
def gMem : Group :=
  { g0 with v := [(32 * 4, 0x11), (32 * 4 + 1, 0x22), (32 * 4 + 2, 0x33), (32 * 4 + 3, 0x44), (640, 0x10000), (641, 0x10004), (642, 0x101FC), (643, 0x10200), (644, 0x10006),
    (32 * 24, 0x3FFC), (32 * 24 + 1, 0x100), (32 * 24 + 2, 0x104), (32 * 24 + 3, 0)] }
def sMem : State := sOf gMem
/-- The same in a DET context. -/
def sDet : State := { sMem with ctxs := [(0, { grants := [(0, 0, 2 ^ 43)], det := true })] }
def sDetFull : State := { sDet with cores := mmap (fun _ c => { c with units := 16384 - 7 }) sDet.cores }

theorem witness_LaneAccessesBeginWithTheirRequests :
    (∃ (s : State) (i : Instr) (m : LaneMem), laneMemOf i = some m ∧ m.store = true ∧ Crosses s.me m.gd m.named [] [] [] ∧
      (∀ l ∈ crossLanes s.me m.gd, ∀ r ∈ m.reads, ∀ j, j < r.2 → 32 * (r.1 + j) + l ∉ s.me.badV) ∧ m.ord ≠ 2 ∧
      (∀ l ∈ crossLanes s.me m.gd, ∃ e pa, m.Passes s l e pa ∧ pa % 256 = m.va s.me l % 256) ∧ crossLanes s.me m.gd ≠ [] ∧ s.isDet s.cur = false) ∧
    (∃ (s : State) (i : Instr) (m : LaneMem), laneMemOf i = some m ∧ m.store = false ∧ m.ord % 2 = 1 ∧ Crosses s.me m.gd m.named [] [] [] ∧
      (∀ l ∈ crossLanes s.me m.gd, ∀ r ∈ m.reads, ∀ j, j < r.2 → 32 * (r.1 + j) + l ∉ s.me.badV) ∧
      (∀ l ∈ crossLanes s.me m.gd, ∃ e pa, m.Passes s l e pa ∧ pa % 256 = m.va s.me l % 256) ∧ crossLanes s.me m.gd ≠ []) ∧
    (∃ (s : State) (c : Ctl) (f : FmtM) (i : Instr) (m : LaneMem), (i = .ld c f ∨ i = .st c f) ∧ laneMemOf i = some m ∧ (∀ r ∈ m.named, r.1 + r.2 ≤ s.me.nv) ∧
      (crossLanes s.me m.gd).filter (fun l => m.va s.me l % m.size != 0) ≠ []) :=
  ⟨⟨sMem, .st c1 ⟨0, 4, 20, 0, 2, 1, 0⟩, _, rfl, rfl, crosses (by decide +kernel), by decide +kernel, by decide,
     fun l hl => ⟨page0, (sMem.me.rv 20 l).toNat, by revert l hl; unfold LaneMem.Passes; decide +kernel⟩, by decide +kernel, by decide +kernel⟩,
   ⟨sMem, .lda c1 ⟨0, 6, 20, 1, 2, 1, 0xFF⟩, _, rfl, rfl, rfl, crosses (by decide +kernel), by decide +kernel,
     fun l hl => ⟨page0, (sMem.me.rv 20 l).toNat - 4, by revert l hl; unfold LaneMem.Passes; decide +kernel⟩, by decide +kernel⟩,
   ⟨sMem, c1, ⟨1, 4, 20, 0, 2, 0, 0⟩, _, _, .inl rfl, rfl, by decide +kernel, by decide +kernel⟩⟩

/-- R163, R170: a 4-byte store of lanes 0 to 3 makes one request for each line: 0x10000 and 0x10004 share line 0x100, 0x101FC is in line
0x101 and 0x10200 in line 0x102; the lowest bytes of v4 are its data. R156: with lane 4 misaligned the load faults with that lane and address. -/
theorem test_st : goes (exec (.st c1 ⟨0, 4, 20, 0, 2, 1, 0⟩) sMem) (fun u => u.mem == [] && u.me.pc == 0x2008 && u.me.kc 0 == 1 &&
      (u.me.acc.map (fun a => a.reqs.map (fun r => (r.line, r.lanes.map (fun x => (x.lane, x.data)))))) ==
        [[(0x100, [(0, [0x11, 0, 0, 0]), (1, [0x22, 0, 0, 0])]), (0x101, [(2, [0x33, 0, 0, 0])]), (0x102, [(3, [0x44, 0, 0, 0])])]]) = true ∧
    exec (.ld c1 ⟨1, 6, 20, 0, 2, 0, 0⟩) sMem = .next (raise sMem ⟨3, 0, 0x10006, 0x10, 0⟩) := ⟨by decide +kernel, by rfl⟩
/-- R161, R285: a 64-byte load of lane 0 from HBM is two requests, one for each 32-byte piece. -/
theorem test_ld_pieces : goes (exec (.ld c1 ⟨0, 6, 20, 0, 6, 0, 0⟩) (sOf { gMem with am := 1 })) (fun u =>
    u.me.acc.map (fun a => a.reqs.map (fun r => (r.line, r.n, r.off, r.piece, r.lanes.map (·.pa)))) == [[(0x100, 32, 0, 0, [0x10000]), (0x100, 32, 32, 32, [0x10020])]]) = true := by
  decide +kernel

theorem witness_DetWritesAreBufferedOrWait_stores :
    (∃ (s : State) (i : Instr) (m : LaneMem), laneMemOf i = some m ∧ m.store = true ∧ s.isDet s.cur = true ∧ Crosses s.me m.gd m.named [] [] [] ∧
      (∀ l ∈ crossLanes s.me m.gd, ∀ r ∈ m.reads, ∀ j, j < r.2 → 32 * (r.1 + j) + l ∉ s.me.badV) ∧ (∀ l ∈ crossLanes s.me m.gd, ∃ e pa, m.Passes s l e pa) ∧
      crossLanes s.me m.gd ≠ [] ∧ (s.core (s.coreOf s.cur)).units + (crossLanes s.me m.gd).length * ((m.size + 15) / 16 + 1) > 16384) ∧
    (∃ (s : State) (i : Instr) (m : LaneMem), laneMemOf i = some m ∧ m.store = true ∧ s.isDet s.cur = true ∧ Crosses s.me m.gd m.named [] [] [] ∧
      (∀ l ∈ crossLanes s.me m.gd, ∀ r ∈ m.reads, ∀ j, j < r.2 → 32 * (r.1 + j) + l ∉ s.me.badV) ∧ (∀ l ∈ crossLanes s.me m.gd, ∃ e pa, m.Passes s l e pa) ∧
      crossLanes s.me m.gd ≠ [] ∧ (s.core (s.coreOf s.cur)).units + (crossLanes s.me m.gd).length * ((m.size + 15) / 16 + 1) ≤ 16384) :=
  ⟨⟨sDetFull, .st c1 ⟨0, 4, 20, 0, 2, 1, 0⟩, _, rfl, rfl, by decide +kernel, crosses (by decide +kernel), by decide +kernel,
     fun l hl => ⟨page0, (sMem.me.rv 20 l).toNat, by revert l hl; unfold LaneMem.Passes; decide +kernel⟩, by decide +kernel, by decide +kernel⟩,
   ⟨sDet, .st c1 ⟨0, 4, 20, 0, 2, 1, 0⟩, _, rfl, rfl, by decide +kernel, crosses (by decide +kernel), by decide +kernel,
     fun l hl => ⟨page0, (sMem.me.rv 20 l).toNat, by revert l hl; unfold LaneMem.Passes; decide +kernel⟩, by decide +kernel, by decide +kernel⟩⟩

/-- R303: four lanes of 4 bytes take 8 units, one too many for a core with 7 left; with all free they are buffered in some order, with their quantum. -/
theorem test_st_det : exec (.st c1 ⟨0, 4, 20, 0, 2, 1, 0⟩) sDetFull = .next (raise sDetFull (fi 0x1F)) := by rfl

theorem witness_ScratchpadAccessesBegin :
    (∃ (s : State) (i : Instr) (c : Ctl) (f : FmtM) (store cluster : Bool), scratchOf i = some (c, f, store, cluster) ∧ store = true ∧
      f.data.toNat + wordsOf (2 ^ f.sz.toNat) ≤ s.me.nv ∧ f.addr.toNat + 1 ≤ s.me.nv ∧ (∀ l ∈ crossLanes s.me f.gd, (s.me.rv f.addr.toNat l).toNat % 2 ^ f.sz.toNat = 0) ∧
      s.me.badP = [] ∧ s.me.badV = [] ∧ (∀ l ∈ crossLanes s.me f.gd, ∃ p, scratchPlace s cluster f l = some p ∧ 0 ≤ p.2.2 ∧
        p.2.2 + ((2 ^ f.sz.toNat : Nat) : Int) ≤ (((s.blk p.1).loc p.2.1).sb : Nat)) ∧ crossLanes s.me f.gd ≠ []) ∧
    (∃ (s : State) (i : Instr) (c : Ctl) (f : FmtM) (store cluster : Bool), scratchOf i = some (c, f, store, cluster) ∧
      f.data.toNat + wordsOf (2 ^ f.sz.toNat) ≤ s.me.nv ∧ f.addr.toNat + 1 ≤ s.me.nv ∧ (∀ l ∈ crossLanes s.me f.gd, (s.me.rv f.addr.toNat l).toNat % 2 ^ f.sz.toNat = 0) ∧
      ∃ l ∈ crossLanes s.me f.gd, ∀ p, ¬ (scratchPlace s cluster f l = some p ∧ 0 ≤ p.2.2 ∧
        p.2.2 + ((2 ^ f.sz.toNat : Nat) : Int) ≤ (((s.blk p.1).loc p.2.1).sb : Nat))) :=
  ⟨⟨sMem, .sts c1 ⟨0, 4, 24, 7, 2, 0, 0⟩, _, _, _, _, rfl, rfl, by decide +kernel, by decide +kernel, by decide +kernel, rfl, rfl,
     fun l hl => ⟨(1, 0, ((sMem.me.rv 24 l).toNat : Int)), by revert l hl; decide +kernel⟩, by decide +kernel⟩,
   ⟨sMem, .lds c1 ⟨0, 6, 24, 0, 2, 0, 1⟩, _, _, _, _, rfl, by decide +kernel, by decide +kernel, by decide +kernel, 0, by decide +kernel, by
     rintro p ⟨h1, -, h3⟩
     have : p = (1, 0, 0x4000) := by
       have h : scratchPlace sMem false ⟨0, 6, 24, 0, 2, 0, 1⟩ 0 = some (1, 0, 0x4000) := by decide +kernel
       exact (Option.some.inj (h.symm.trans h1)).symm
     subst this; revert h3; decide +kernel⟩⟩

/-- R171: S_b is 0x4000, so the word at 0x3FFC is the last one, and with an offset of 4 it is outside. -/
theorem test_lds : exec (.lds c1 ⟨0, 6, 24, 0, 2, 0, 1⟩) sMem = .next (raise sMem ⟨7, 0, 0x4000, 1, 0⟩) ∧
    goes (exec (.lds c1 ⟨0, 6, 24, 0, 2, 0, 0⟩) sMem) (fun u => u.me.acc.length == 1) = true := ⟨by rfl, by decide +kernel⟩

theorem witness_FencesPrefetchMaintenanceAndWaita :
    (∃ f : FmtMO, f.ord ≠ 0) ∧
    (∃ (s : State) (f : FmtM), Crosses s.me f.gd [(f.addr.toNat, 2)] [] [] [] ∧ s.me.badV = []) ∧
    (∃ (s : State) (f : FmtM), Crosses s.me f.gd [] [] [] (f.data.toNat :: [f.addr.toNat, f.addr.toNat + 1]) ∧ crossLanes s.me f.gd = []) ∧
    (∃ (s : State) (f : FmtM), Crosses s.me f.gd [] [] [] (f.data.toNat :: [f.addr.toNat, f.addr.toNat + 1]) ∧ crossLanes s.me f.gd ≠ [] ∧ (s.me.rg f.data.toNat).toNat = 0) ∧
    (∃ (s : State) (f : FmtM) (e : TlbEnt) (pa : Nat), Crosses s.me f.gd [] [] [] (f.data.toNat :: [f.addr.toNat, f.addr.toNat + 1]) ∧ crossLanes s.me f.gd ≠ [] ∧
      let va := (s.me.rgd f.addr.toNat + f.off.signExtend 64).toNat
      let len := (s.me.rg f.data.toNat).toNat
      0 < len ∧ va % 256 + len = 256 ∧ (∀ a, va ≤ a → a < va + len → a = va ∨ a % 4096 = 0 →
          (∃ r, translate s s.me.ctx (s.coreOf s.cur) .maint a = .ok r) ∨ ∃ x, translate s s.me.ctx (s.coreOf s.cur) .maint a = .error x ∧ x.code = 0x04) ∧
      translate s s.me.ctx (s.coreOf s.cur) .maint va = .ok (e, pa) ∧ pa % 256 = va % 256 ∧ fusedCores s s.cur = none) ∧
    (∀ same : Bool, ∃ (s : State) (f : FmtM) (sp : Bool) (size addr v : Nat) (bad : Bool), (size = 4 ∨ size = 8) ∧ f.sz.toNat = (if size = 8 then 3 else 2) ∧
      addr = (if sp then ((s.me.rg f.addr.toNat).setWidth 64 + BitVec.ofInt 64 (f.off.toInt * size)).toNat
        else (s.me.rgd f.addr.toNat + BitVec.ofInt 64 (f.off.toInt * size)).toNat) ∧
      waitaRead s s.cur sp addr size = .ok (v, bad) ∧ s.me.badG = [] ∧ s.me.hold = none ∧ s.me.hold2 = none ∧ s.probe.on = false ∧
      ((v = if size = 8 then (s.me.rgd f.data.toNat).toNat else (s.me.rg f.data.toNat).toNat) ↔ same = true) ∧ bad = false) := by
  refine ⟨⟨⟨7, 0, 0, 0, 0, 3, 0⟩, by decide⟩, ⟨sMem, ⟨0, 0, 20, 0, 0, 0, 0⟩, crosses (by decide +kernel), rfl⟩, ⟨sMem, ⟨15, 0, 4, 0, 0, 0, 0⟩, crosses (by decide +kernel), by decide +kernel⟩,
    ⟨sMem, ⟨7, 0, 4, 0, 0, 0, 0⟩, crosses (by decide +kernel), by decide +kernel, by decide +kernel⟩,
    ⟨sMem, ⟨7, 2, 4, 0, 0, 0, 0xF9⟩, page0, 0xFF9, crosses (by decide +kernel), by decide +kernel, by decide +kernel, by decide +kernel, ?_, by decide +kernel, by decide +kernel, by decide +kernel⟩, ?_⟩
  · intro a h1 h2 h3
    have e1 : (sMem.me.rgd (4 : Nat) + (0xF9 : BitVec 8).signExtend 64).toNat = 0xFF9 := by decide +kernel
    have e2 : (sMem.me.rg 2).toNat = 7 := by decide +kernel
    have h1' : 0xFF9 ≤ a := by rw [← e1]; exact h1
    have h2' : a < 0xFF9 + 7 := by rw [← e1, ← e2]; exact h2
    have h3' : a = 0xFF9 ∨ a % 4096 = 0 := by rw [← e1]; exact h3
    have : a = 0xFF9 := by omega
    subst this
    exact .inl ⟨(page0, 0xFF9), by decide +kernel⟩
  · intro same
    cases same
    · exact ⟨sMem, ⟨7, 2, 4, 0, 2, 0, 0⟩, false, 4, _, 0, false, .inl rfl, rfl, rfl, by decide +kernel, rfl, rfl, rfl, rfl, by decide +kernel, rfl⟩
    · exact ⟨sMem, ⟨7, 12, 4, 0, 3, 0, 0⟩, true, 8, _, 0, false, .inr rfl, rfl, rfl, by decide +kernel, rfl, rfl, rfl, rfl, by decide +kernel, rfl⟩

/-- R178: the word at g4.d reads 0, which differs from 7 in g2: WAITA ends with 0 in g2. -/
theorem test_waita : goes (exec (.waita c1 ⟨7, 2, 4, 0, 2, 0, 0⟩) sMem) (fun u => u.me.rg 2 == 0 && u.me.hold == none && u.me.pc == 0x2008 && u.me.kc 0 == 0) = true := by
  decide +kernel

/-- One request of one lane, for line 0x100, and a state whose group waits for it. -/
def lane0 : LaneAcc := ⟨0, 0x10010, 0x10010, [0xAA, 0xBB, 0xCC, 0xDD], false⟩
def req0 (stage : ReqStage) : Req := ⟨0x100, 0, 0, [lane0], 4, 0, 0, stage, 0x44332211 <<< 128, 0, false, false⟩
def acc0 (op : MemOp) (stage : ReqStage) : Access := ⟨5, 1, op, .generic, 4, 6, 0, 0, 0, 0, [req0 stage]⟩
def sAcc (op : MemOp) (stage : ReqStage) : State := sOf { g0 with acc := [acc0 op stage], k := [(0, 1)] }

theorem witness_StoresAndLoadsArePerformed :
    (∃ (s : State) (g aid : Nat) (a : Access) (r : Req) (x : LaneAcc), (s.grp g).acc = [a] ∧ a.id = aid ∧ a.op = .store ∧ a.space = .generic ∧ a.hint ≤ 2 ∧ a.reqs = [r] ∧
      r.stage = .waiting ∧ r.pol = 0 ∧ r.lanes = [x] ∧ x.pa / 256 = r.line ∧ x.pa % 256 + x.data.length ≤ 256 ∧ x.data.length = a.size ∧ s.dieOf g = homeDie x.pa ∧
      mget? s.dir r.line = none ∧ mget? s.busy r.line = none ∧ answersOf s r.line = [] ∧ (∀ l, mget? s.l2 (atDie (homeDie x.pa) r.line) = some l → l.key = r.key) ∧ (s.grp g).hold = none ∧
      ∀ b ∈ (s.part (s.grp g).part).wc, b.g = g → b.line ≠ r.line) ∧
    (∃ (pol pa a : Nat) (bytes : List Byte), pol ≠ 0 ∧ pkgOfPa a = pkgOfPa pa ∧ pa / 2 ^ 43 = (pa + bytes.length) / 2 ^ 43) ∧
    (∃ (s : State) (g aid : Nat) (a : Access) (r : Req), (s.grp g).acc = [a] ∧ a.id = aid ∧ a.op = .load ∧ a.space = .generic ∧ a.ord ≠ 3 ∧ a.reqs = [r] ∧
      r.stage = .performed ∧ r.bad = 0 ∧ r.lanes.Pairwise (fun x y => x.lane ≠ y.lane) ∧ (∀ x ∈ r.lanes, x.lane < 32) ∧ (s.grp g).hold = none ∧
      (a.size = 1 ∨ a.size = 2 ∨ a.size % 4 = 0) ∧ r.off % 4 = 0) :=
  ⟨⟨sAcc .store .waiting, 512, 5, acc0 .store .waiting, req0 .waiting, lane0, rfl, rfl, rfl, rfl, by decide, rfl, rfl, rfl, rfl, by decide, by decide, by decide,
     by decide +kernel, rfl, rfl, by decide +kernel, fun l h => by simp [sAcc, sOf, mget?] at h, rfl, by decide +kernel⟩,
   ⟨2, 0x1000, 0x1003, [1, 2, 3, 4], by decide, by decide, by decide⟩,
   ⟨sAcc .load .performed, 512, 5, acc0 .load .performed, req0 .performed, rfl, rfl, rfl, rfl, by decide, rfl, rfl, rfl, by decide, by decide, rfl, by decide, rfl⟩⟩

/-- R165, R169: the store's bytes stand at 0x10010 and its counter falls; the load gives v6 of lane 0 the bytes at offset 16 of its line. -/
theorem test_performed : goes (exec (.memAccessComplete 512 5 0) (sAcc .store .waiting)) (fun u => (u.grp 512).acc == [] && (u.grp 512).kc 0 == 0 &&
      (cohRead u 0x10010 5 0).1 == [0xAA, 0xBB, 0xCC, 0xDD, 0]) = true ∧
    goes (exec (.loadFillReturn 512 5 0) (sAcc .load .performed)) (fun u => (u.grp 512).acc == [] && (u.grp 512).rv 6 0 == 0x44332211 && (u.grp 512).kc 0 == 0) = true := by
  decide +kernel

theorem witness_SwizzlePlacesEveryByteBelowSb :
    (∃ (n lo w k : Nat) (l : Local) (x : Nat), swizzleTable[n]? = some (lo, w, k) ∧ x < l.sb ∧ n = 7) ∧ ∃ (n lo w k sb z : Nat), swizzleTable[n]? = some (lo, w, k) ∧ z + 1 = sb ∧ z < sb :=
  ⟨⟨7, 2, 6, 6, { sb := 0x100 }, 0xFF, rfl, by decide, rfl⟩, 0, 0, 0, 0, 4, 3, rfl, rfl, by decide⟩
/-- R157: SWZ 1 XORs bit 4 of an offset with bit 8, SWZ 7 bits 2 to 7 with bits 8 to 13. -/
theorem test_swizzle : swizzle 1 0x110 = 0x100 ∧ swizzle 1 0x100 = 0x110 ∧ swizzle 7 0x1FF = 0x1FB := by decide

/-! ## Witnesses and steps: barriers, phase counters, die instructions -/

/-- The state with a cluster of two cores, whose blocks are 1 and 2. -/
def inCluster (s : State) (k : Cluster) : State :=
  { s with clusters := [(0, k)], blocks := [(1, { s.blk 1 with cluster := some 0 }), (2, { s.blk 1 with cluster := some 0, crank := 1, cores := [1] })],
           groups := s.groups ++ [(1024, { g0 with block := 2 })] }
def clu0 : Cluster := { w := 2, h := 1, blocks := [1, 2], cores := [0, 1] }
def sClu : State := inCluster s0 clu0
/-- A word of scratchpad at 0x100 with this value and tag; g6 = 0x100. -/
def sTb (word tag : Nat) : State :=
  let s := sOf { g0 with g := [(2, 7), (6, 0x100), (10, 4095), (12, 4096), (14, 0x7FFFFF)] }
  { s with blocks := mmap (fun _ b => { b with local' := [(0, { sb := 0x4000, sp := cwrite [] 0x100 (toBytes 8 word), tags := if tag = 0 then [] else [(32, tag)] })] }) s.blocks }

/-- Barrier 2 expects 64 threads, of which 32 have arrived, the group has a trap-pending bit, and g0 is 32. -/
def sExp : State :=
  let s := sOf { g0 with g := [(0, 32)], trap := 1 }
  { s with blocks := mmap (fun _ b => { b with nb := [(2, { arr := 32, exp := 64 })] }) s.blocks }

theorem witness_BarrierInstructions :
    (∃ (s : State) (i : Instr) (c : Ctl) (f : FmtM) (sync : Bool), arrival i = some (c, f, true, sync) ∧ s.cluOf s.cur ≠ none ∧ f.hint = 1 ∧
      threads s true % 32 = 0 ∧ 32 ≤ threads s true ∧ s.me.trap = 0) ∧
    (∀ n : Nat, n = 0 ∨ n = 33 ∨ n = 160 → ∃ (s : State) (i : Instr) (c : Ctl) (f : FmtM) (cluster sync : Bool), arrival i = some (c, f, cluster, sync) ∧ cluster = false ∧
      f.hint ≠ 1 ∧ f.data.toNat ∉ s.me.badG ∧ (s.me.rg f.data.toNat).toNat = n ∧ (n % 32 ≠ 0 ∨ n < 32 ∨ n > threads s cluster)) ∧
    (∀ n : Nat, n = 32 ∨ n = 128 → ∀ tr : W32, tr = 0 ∨ tr = 1 → ∃ (s : State) (i : Instr) (c : Ctl) (f : FmtM) (cluster sync : Bool),
      arrival i = some (c, f, cluster, sync) ∧ cluster = false ∧ f.data.toNat ∉ s.me.badG ∧ f.hint ≠ 1 ∧ (s.me.rg f.data.toNat).toNat = n ∧ n % 32 = 0 ∧ 32 ≤ n ∧
      n ≤ threads s cluster ∧ s.me.trap = tr ∧ s.me.acc = [] ∧ (barrier s s.cur cluster (f.off.toNat % 16)).exp = 0) ∧
    (∃ (s : State) (i : Instr) (c : Ctl) (f : FmtM) (cluster sync : Bool), arrival i = some (c, f, cluster, sync) ∧ cluster = false ∧ f.data.toNat ∉ s.me.badG ∧ f.hint ≠ 1 ∧
      (s.me.rg f.data.toNat).toNat = 32 ∧ 32 ≤ threads s cluster ∧ s.me.trap ≠ 0 ∧ s.me.acc = [] ∧ (barrier s s.cur cluster (f.off.toNat % 16)).exp = 64) ∧
    (∀ b : Bool, ∃ (s : State) (f : FmtM), ((barrier s s.cur false (f.off.toNat % 16)).nph = f.off.getLsbD 4 ↔ b = true) ∧ s.me.hold = none ∧ s.me.hold2 = none) :=
  ⟨⟨sClu, .cbarv c1 ⟨7, 0, 0, 0, 0, 1, 2⟩, _, _, _, rfl, by decide +kernel, rfl, by decide +kernel, by decide +kernel, rfl⟩,
   fun n h => by
     rcases h with rfl | rfl | rfl
     · exact ⟨s0, .nbarv c1 ⟨7, 0, 0, 0, 0, 0, 2⟩, _, _, _, _, rfl, rfl, by decide, by decide +kernel, by decide +kernel, by decide⟩
     · exact ⟨sOf { g0 with g := [(0, 33)] }, .nbsync c1 ⟨7, 0, 0, 0, 0, 0, 2⟩, _, _, _, _, rfl, rfl, by decide, by decide +kernel, by decide +kernel, by decide⟩
     · exact ⟨sOf { g0 with g := [(0, 160)] }, .nbsync c1 ⟨7, 0, 0, 0, 0, 0, 2⟩, _, _, _, _, rfl, rfl, by decide, by decide +kernel, by decide +kernel, by decide +kernel⟩,
   fun n h tr ht => by
     rcases h with rfl | rfl
     · exact ⟨sOf { g0 with g := [(0, 32)], trap := tr }, .nbarv c1 ⟨7, 0, 0, 0, 0, 0, 2⟩, _, _, _, _, rfl, rfl, by simp [sOf, State.me, State.grp, mget, mget?, g0], by decide,
         by simp [sOf, State.me, State.grp, Group.rg, mget, mget?], by decide, by decide, by simp [threads, sOf, State.kernelOf, State.krn, State.blk, blockOf, mget, mget?], rfl, rfl, by rcases ht with rfl | rfl <;> decide +kernel⟩
     · exact ⟨sOf { g0 with g := [(0, 128)], trap := tr }, .nbsync c1 ⟨7, 0, 0, 0, 0, 0, 2⟩, _, _, _, _, rfl, rfl, by simp [sOf, State.me, State.grp, mget, mget?, g0], by decide,
         by simp [sOf, State.me, State.grp, Group.rg, mget, mget?], by decide, by decide, by simp [threads, sOf, State.kernelOf, State.krn, State.blk, blockOf, mget, mget?], rfl, rfl, by rcases ht with rfl | rfl <;> decide +kernel⟩,
   ⟨sExp, .nbarv c1 ⟨7, 0, 0, 0, 0, 0, 2⟩, _, _, _, _, rfl, rfl, by decide +kernel, by decide, by decide +kernel, by decide +kernel, by decide +kernel, by decide +kernel, by decide +kernel⟩,
   fun b => by
     cases b
     · exact ⟨s0, ⟨7, 0, 0, 0, 0, 0, 0x12⟩, by decide +kernel, rfl, rfl⟩
     · exact ⟨s0, ⟨7, 0, 0, 0, 0, 0, 0x02⟩, by decide +kernel, rfl, rfl⟩⟩

/-- The group waits for its arrival at barrier 2, which another group has reached with 64 expected, to be counted. -/
def sArrive (count : Nat) (exp : Nat) (sync : Bool) : State :=
  let s := sOf { g0 with hold := some ⟨.arrive false 2 count sync, 990, 0x2000, 1⟩, k := [(0, 1)], pc := 0x2008 }
  { s with groups := s.groups ++ [(513, { g0 with idx := 1, hold := some ⟨.parity false 2 false true, 980, 0x2000, 0⟩ })],
           blocks := mmap (fun _ b => { b with nb := if exp = 0 then [] else [(2, { arr := 32, exp := exp })] }) s.blocks }

theorem witness_BarrierPhasesComplete :
    (∃ (s : State) (g id count : Nat) (cluster sync : Bool) (h : Hold), (s.grp g).hold = some h ∧ (s.grp g).hold2 = none ∧ h.kind = .arrive cluster id count sync ∧ (s.grp g).acc = [] ∧ cluster = false ∧ (s.grp g).trap = 0 ∧
      (barrier s g cluster id).exp ≠ 0 ∧ count ≠ (barrier s g cluster id).exp) ∧
    (∃ (s : State) (g id count : Nat) (cluster sync : Bool) (h : Hold), (s.grp g).hold = some h ∧ (s.grp g).hold2 = none ∧ h.kind = .arrive cluster id count sync ∧ (s.grp g).acc = [] ∧ cluster = false ∧ (s.grp g).trap = 0 ∧
      (barrier s g cluster id).exp = 0 ∧ (barrier s g cluster id).arr + 32 ≠ count ∧ sync = true) ∧
    (∃ (s : State) (g id count : Nat) (cluster sync : Bool) (h : Hold), (s.grp g).hold = some h ∧ (s.grp g).hold2 = none ∧ h.kind = .arrive cluster id count sync ∧ (s.grp g).acc = [] ∧ cluster = false ∧ (s.grp g).trap = 0 ∧
      count = (barrier s g cluster id).exp ∧ (barrier s g cluster id).arr + 32 = count ∧ sync = false ∧
      ∃ w k y z, mget? s.groups w = some k ∧ w / 512 = g / 512 ∧ w ≠ g ∧ k.hold = some y ∧ k.hold2 = none ∧ y.kind = .parity false id (barrier s g cluster id).nph z) ∧
    (∃ (s : State) (g id count : Nat) (cluster sync : Bool) (h : Hold), (s.grp g).hold = some h ∧ (s.grp g).hold2 = none ∧ h.kind = .arrive cluster id count sync ∧ (s.grp g).acc = [] ∧
      cluster = false ∧ (barrier s g cluster id).exp = 0 ∧ (s.grp g).trap ≠ 0) :=
  ⟨⟨sArrive 96 64 false, 512, 2, 96, false, false, _, rfl, rfl, rfl, rfl, rfl, rfl, by decide +kernel, by decide +kernel⟩,
   ⟨sArrive 64 0 true, 512, 2, 64, false, true, _, rfl, rfl, rfl, rfl, rfl, rfl, by decide +kernel, by decide +kernel, rfl⟩,
   ⟨sArrive 64 64 false, 512, 2, 64, false, false, _, rfl, rfl, rfl, rfl, rfl, rfl, by decide +kernel, by decide +kernel, rfl, 513, _, _, true, rfl, rfl, by decide, rfl, rfl, rfl⟩,
   ⟨(sArrive 64 0 true).modGrp 512 (fun k => { k with trap := 2 }), 512, 2, 64, false, true, _, rfl, rfl, rfl, rfl, rfl, by decide +kernel, by decide +kernel⟩⟩

/-- R187: the second arrival of 64 completes the phase: NPH inverts, ARR and EXP are 0, both groups go on; a count of 96 against 64 is BAR_COUNT. -/
theorem test_barrier : (let u := pollArrive (sArrive 64 64 false) 512 false 2 64 false
      barrier u 512 false 2 == ⟨0, 0, true⟩ && (u.grp 512).hold == none && (u.grp 512).kc 0 == 0 && (u.grp 513).hold == none) = true ∧
    pollArrive (sArrive 96 64 false) 512 false 2 96 false = faultHeld (sArrive 96 64 false) 512 (fi 0x20) := by decide +kernel

theorem witness_TransactionBarrierSetup :
    (∀ tag : Nat, tag = 0 ∨ tag = 1 ∨ tag = 2 ∨ tag = 3 → ∃ (s : State) (f : FmtM) (off : Nat), TbGood s f off ∧ s.me.hold = none ∧ f.data.toNat ∉ s.me.badG ∧
      (s.me.rg f.data.toNat).toNat = 4095 ∧ mget (myScratch s).tags 0 (off / 8) = tag) ∧
    (∃ (s : State) (f : FmtM) (off : Nat), TbGood s f off ∧ s.me.hold = none ∧ f.data.toNat ∉ s.me.badG ∧ (s.me.rg f.data.toNat).toNat > 4095) ∧
    (∃ (s : State) (f : FmtM) (off : Nat) (code : BitVec 6), TbGood s f off ∧ s.me.hold = none ∧ f.data.toNat ∉ s.me.badG ∧ mget (myScratch s).tags 0 (off / 8) = 1 ∧
      (tbUpdated (tbWord (myScratch s) off) 0 (s.me.rg f.data.toNat).toNat).2 = some code ∧ code = 0x0E ∧ s.probe.on = false ∧
      ∃ w k y d, mget? s.groups w = some k ∧ w ≠ s.cur ∧ w / 512 = s.cur / 512 ∧ k.rank = s.me.rank ∧ k.hold = some y ∧ k.hold2 = none ∧
        y.kind = .tbWait off (tbWord (myScratch s) off).msb d) := by
  refine ⟨fun tag h => ?_, ⟨sTb 0 0, ⟨7, 12, 6, 0, 0, 0, 0⟩, 0x100, ⟨by decide +kernel, by decide, by decide +kernel, by decide +kernel⟩, rfl, by decide +kernel, by decide +kernel⟩,
    ⟨{ sTb (2 ^ 44 + 2 ^ 20 + 2 ^ 8 + 0xB7) 1 with groups := (sTb 0 1).groups ++ [(513, { g0 with idx := 1, hold := some ⟨.tbWait 0x100 false 3, 980, 0x2000, 0⟩ })] },
      ⟨7, 14, 6, 0, 0, 0, 0⟩, 0x100, 0x0E, ⟨by decide +kernel, by decide, by decide +kernel, by decide +kernel⟩, rfl, by decide +kernel,
      by decide +kernel, by decide +kernel, rfl, rfl, 513, _, _, 3, rfl, by decide, by decide, rfl, rfl, rfl, by decide +kernel⟩⟩
  rcases h with rfl | rfl | rfl | rfl
  · exact ⟨sTb 0 0, ⟨7, 10, 6, 0, 0, 0, 0⟩, 0x100, ⟨by decide +kernel, by decide, by decide +kernel, by decide +kernel⟩, rfl, by decide +kernel, by decide +kernel, by decide +kernel⟩
  · exact ⟨sTb 0 1, ⟨7, 10, 6, 0, 0, 0, 0⟩, 0x100, ⟨by decide +kernel, by decide, by decide +kernel, by decide +kernel⟩, rfl, by decide +kernel, by decide +kernel, by decide +kernel⟩
  · exact ⟨sTb 0 2, ⟨7, 10, 6, 0, 0, 0, 0⟩, 0x100, ⟨by decide +kernel, by decide, by decide +kernel, by decide +kernel⟩, rfl, by decide +kernel, by decide +kernel, by decide +kernel⟩
  · exact ⟨sTb 0 3, ⟨7, 10, 6, 0, 0, 0, 0⟩, 0x100, ⟨by decide +kernel, by decide, by decide +kernel, by decide +kernel⟩, rfl, by decide +kernel, by decide +kernel, by decide +kernel⟩

/-- R191, R192: TBINIT with 7: AP = AC = 7, the pattern 0xB7 below, LIVE. TBEXP of 7 on AP = 1, BP = 0 leaves BP = 7; on AP = 0, BP = -7 it completes the phase. -/
theorem test_tb : goes (exec (.tbinit c0 ⟨7, 2, 6, 0, 0, 0, 0⟩) (sTb 0 0)) (fun u => cread (myScratch u).sp 0x100 8 == [0xB7, 7, 0, 0, 0, 0x70, 0, 0] && tbTag (myScratch u) 0x100 == 1) = true ∧
    goes (exec (.tbexp c0 ⟨7, 2, 6, 0, 0, 0, 0⟩) (sTb (2 ^ 44 + 2 ^ 8 + 0xB7) 1)) (fun u => cread (myScratch u).sp 0x100 8 == [0xB7, 1, 0x70, 0, 0, 0x10, 0, 0]) = true ∧
    goes (exec (.tbexp c0 ⟨7, 2, 6, 0, 0, 0, 0⟩) (sTb ((2 ^ 24 - 7) * 2 ^ 20 + 2 ^ 8 + 0xB7) 1)) (fun u => cread (myScratch u).sp 0x100 8 == [0xB7, 1, 0, 0, 0, 0x10, 0, 0x80]) = true := by
  decide +kernel

theorem witness_TransactionBarrierArriveAndWait :
    (∀ tr : W32, tr = 0 ∨ tr = 1 → ∃ (s : State) (f : FmtM) (off : Nat), TbGood s f off ∧ s.me.hold = none ∧ s.me.hold2 = none ∧ s.probe.on = false ∧ (f.hint = 1 → f.data.toNat ∉ s.me.badG) ∧ s.me.trap = tr) ∧
    (∃ (s : State) (f : FmtM) (off : Nat), TbGood s f off ∧ s.me.hold = none ∧ s.me.hold2 = none ∧ s.probe.on = false ∧ f.hint = 1 ∧ f.data.toNat ∉ s.me.badG ∧ s.me.trap = 0 ∧ s.me.acc = [] ∧ mget (myScratch s).tags 0 (off / 8) = 1) ∧
    (∀ ph : Bool, ∃ (s : State) (f : FmtM) (off : Nat), TbGood s f off ∧ s.me.hold = none ∧ s.me.hold2 = none ∧ s.probe.on = false ∧ f.hint = 0 ∧ mget (myScratch s).tags 0 (off / 8) = 1 ∧ (tbWord (myScratch s) off).getLsbD 63 = ph) ∧
    (∃ (s : State) (f : FmtM) (off : Nat), TbGood s f off ∧ s.me.hold = none ∧ s.me.hold2 = none ∧ s.probe.on = false ∧ f.hint = 0 ∧ mget (myScratch s).tags 0 (off / 8) = 3) := by
  refine ⟨fun tr h => ?_, ⟨sTb (2 ^ 44 + 0xB7) 1, ⟨7, 2, 6, 0, 0, 1, 0⟩, 0x100, ⟨by decide +kernel, by decide, by decide +kernel, by decide +kernel⟩, rfl, rfl, rfl, rfl, by decide +kernel, rfl, rfl, by decide +kernel⟩,
    fun ph => ?_, ⟨sTb 0 3, ⟨7, 2, 6, 0, 0, 0, 0⟩, 0x100, ⟨by decide +kernel, by decide, by decide +kernel, by decide +kernel⟩, rfl, rfl, rfl, rfl, by decide +kernel⟩⟩
  · rcases h with rfl | rfl
    · exact ⟨sTb 0 1, ⟨7, 2, 6, 0, 0, 0, 0⟩, 0x100, ⟨by decide +kernel, by decide, by decide +kernel, by decide +kernel⟩, rfl, rfl, rfl, by decide +kernel, rfl⟩
    · exact ⟨(sTb 0 1).modGrp 512 (fun g => { g with trap := 1 }), ⟨7, 2, 6, 0, 0, 0, 0⟩, 0x100, ⟨by decide +kernel, by decide, by decide +kernel, by decide +kernel⟩, rfl, rfl, rfl, by decide +kernel, rfl⟩
  · cases ph
    · exact ⟨sTb 0 1, ⟨7, 2, 6, 0, 0, 0, 0⟩, 0x100, ⟨by decide +kernel, by decide, by decide +kernel, by decide +kernel⟩, rfl, rfl, rfl, rfl, by decide +kernel, by decide +kernel⟩
    · exact ⟨sTb (2 ^ 63) 1, ⟨7, 2, 6, 0, 0, 0, 0⟩, 0x100, ⟨by decide +kernel, by decide, by decide +kernel, by decide +kernel⟩, rfl, rfl, rfl, rfl, by decide +kernel, by decide +kernel⟩

/-- R198: a word in an error phase of the other parity gives its code and q6; an invalidated word gives 0x0C. -/
theorem test_tbwait : goes (exec (.tbwait c0 ⟨7, 2, 6, 0, 0, 0, 0⟩) (sTb (2 ^ 63 + 2 ^ 62 + 5 * 2 ^ 56 + 0xB7) 1)) (fun u => u.me.rg 2 == 5 && u.me.rq 6 && u.me.hold == none) = true ∧
    goes (exec (.tbwait c0 ⟨7, 2, 6, 0, 0, 0, 0⟩) (sTb 0 2)) (fun u => u.me.rg 2 == 0x0C && u.me.rq 6 && u.me.hold == none) = true := by decide +kernel

theorem reached {s : State} {k : Cluster} {rank : Nat} (all : Bool)
    (h : ∀ r, r < k.cores.length → liveOnRank s k r = 0 ∨ (mget k.phn 0 rank - mget k.phn 0 r).toInt ≤ 0) : phaseReached s k rank all :=
  fun r hr => hr.elim (fun x => h r x.1) (fun x => h r x.1)

theorem witness_PhaseCountersHoldAndRelease :
    (∃ s : State, s.cluOf s.cur = none) ∧
    (∀ tr : W32, tr = 0 ∨ tr = 1 → ∃ (s : State) (k : Cluster), s.cluOf s.cur = some k ∧ s.me.hold = none ∧ s.me.hold2 = none ∧ s.me.trap = tr) ∧
    (∃ (s : State) (k : Cluster), s.cluOf s.cur = some k ∧ s.me.hold = none ∧ s.me.hold2 = none ∧ cluRank s s.cur < k.cores.length ∧ k.cores.length = k.w * k.h ∧ 0 < k.w ∧
      s.me.trap = 0 ∧ s.me.acc = [] ∧ liveOnRank s k 1 ≠ 0 ∧ nextTo k (cluRank s s.cur) 1 ∧
      ∀ r, nextTo k (cluRank s s.cur) r → liveOnRank s k r = 0 ∨
        (mget k.phn 0 (cluRank s s.cur) + (if mget k.parr 0 (cluRank s s.cur) + 1 ≥ liveOnRank s k (cluRank s s.cur) then 1 else 0) - mget k.phn 0 r).toInt ≤ 1) ∧
    (∀ (b all : Bool), ∃ (s : State) (k : Cluster), s.cluOf s.cur = some k ∧ s.me.hold = none ∧ s.me.hold2 = none ∧ s.probe.on = false ∧ cluRank s s.cur < k.cores.length ∧
      k.cores.length = k.w * k.h ∧ 0 < k.w ∧ (phaseReached s k (cluRank s s.cur) all ↔ b = true)) := by
  refine ⟨⟨s0, rfl⟩, fun tr h => ?_, ⟨sClu, clu0, rfl, rfl, rfl, by decide +kernel, by decide, by decide, rfl, rfl, by decide +kernel, ⟨by decide, .inl ⟨by decide +kernel, .inl (by decide +kernel)⟩⟩, ?_⟩,
    fun b all => ?_⟩
  · rcases h with rfl | rfl
    · exact ⟨sClu, clu0, by decide +kernel, rfl, rfl, by decide +kernel⟩
    · exact ⟨inCluster (sOf { g0 with trap := 1 }) clu0, clu0, by decide +kernel, rfl, rfl, by decide +kernel⟩
  · have h : ∀ r, r < 2 → liveOnRank sClu clu0 r = 0 ∨
        (mget clu0.phn 0 (cluRank sClu sClu.cur) + (if mget clu0.parr 0 (cluRank sClu sClu.cur) + 1 ≥ liveOnRank sClu clu0 (cluRank sClu sClu.cur) then 1 else 0) - mget clu0.phn 0 r).toInt ≤ 1 := by
      decide +kernel
    exact fun r hr => h r hr.1
  · cases b
    · refine ⟨inCluster s0 { clu0 with phn := [(0, 1)] }, { clu0 with phn := [(0, 1)] }, rfl, rfl, rfl, rfl, by decide +kernel, by decide, by decide, fun h => ?_, fun h => nomatch h⟩
      exact absurd (h 1 (.inr ⟨by decide, .inl ⟨by decide +kernel, .inl (by decide +kernel)⟩⟩)) (by decide +kernel)
    · exact ⟨sClu, clu0, rfl, rfl, rfl, rfl, by decide +kernel, by decide, by decide, fun _ => rfl, fun _ => reached all (by decide +kernel)⟩

/-- R238: with the neighbour behind, PHWAIT holds the group; level, it gives the count. -/
theorem test_phwait : goes (exec (.phwaitAll c0 ⟨7, 6, 0, 0, 0, 0, 0⟩) (inCluster s0 { clu0 with phn := [(0, 1)] })) (fun u => u.me.hold != none) = true ∧
    goes (exec (.phwaitNbr c0 ⟨7, 6, 0, 0, 0, 0, 0⟩) (inCluster s0 { clu0 with phn := [(0, 1), (1, 1)] })) (fun u => u.me.hold == none && u.me.rg 6 == 1) = true := by decide +kernel

/-- A context with a sealed region of 64 KiB at 0x100000, or none; g4.d is a region's base, g2.d its length, g8.d another base. -/
def gSeal (len : W32) : Group := { g0 with g := [(2, len), (4, 0x100000), (8, 0x200000)] }
def sSeal (len : W32) (sealed : Bool) : State :=
  { sOf (gSeal len) with ctxs := [(0, { grants := [(0, 0, 2 ^ 43)], seals := if sealed then [⟨0x100000, 0x10000, false⟩] else [] })] }
/-- The region of g8.d has an entry with these limits. -/
def sRegion (v : W32) (floor ceil rd : Nat) : State :=
  { sOf (gSeal v) with dies := [(homeDie 0x200000, { regions := [(1, { rd := rd, floor := floor, ceil := ceil, lastRr := 65535 })] })] }
/-- As many pinned regions as the die holds. -/
def sPinned : State :=
  { sOf (gSeal 3) with dies := [(homeDie 0x200000, { regions := (List.range 1024).map (fun i => (i + 2, { floor := 1 })) })] }

/-- SEAL of the region of g4.d and g2.d, held. -/
def fSeal : FmtM := ⟨7, 2, 4, 0, 0, 0, 0⟩
def sealHeld (s : State) : State := held ((wcDrainGroup s s.cur).issueHeld c1) s.me.pc 1 s.clock (.seal 2 (dieVa s fSeal) (s.me.rgd (2 : BitVec 8).toNat).toNat)
/-- Beside the group, another of its context whose store to 0x100010 waits, where told. -/
def sSealBeside (out : Bool) : State :=
  let s := sSeal 0x10000 false
  { s with groups := s.groups ++ [(513, { g0 with idx := 1, acc := if out then
      [⟨5, 1, .store, .generic, 4, 6, 0, 0, 0, 0, [⟨0x1000, 0, 0, [⟨0, 0x100010, 0x100010, [1, 2, 3, 4], false⟩], 4, 0, 0, .waiting, 0, 0, false, false⟩]⟩] else [] })] }
/-- The 16 entries of the set of the region of g8.d are pinned. -/
def sSetFull : State :=
  { sOf (gSeal 3) with dies := [(homeDie 0x200000, { regions := (List.range 16).map (fun i => (512 * (i + 1) + 1, { floor := 1 })) })] }

theorem witness_DieInstructions_seals :
    (∀ out : Bool, ∃ s : State, (∀ r ∈ [4, 5, 2, 3], r ∉ s.me.badG) ∧ s.me.acc = [] ∧ s.me.hold = none ∧ s.me.hold2 = none ∧ s.probe.on = false ∧
      dieVa s fSeal % 65536 = 0 ∧ (s.me.rgd (2 : BitVec 8).toNat).toNat = 65536 ∧ pageMissing (wcDrainGroup (sealHeld s) s.cur) s.cur (dieVa s fSeal) 65536 = false ∧
      ((sealHeld s).ctxOf s.cur).seals = [] ∧ writesOut (wcDrainGroup (sealHeld s) s.cur) s.me.ctx (dieVa s fSeal) 65536 = out) ∧
    (∃ (s : State) (f : FmtM), (∀ r ∈ [f.addr.toNat, f.addr.toNat + 1, f.data.toNat, f.data.toNat + 1], r ∉ s.me.badG) ∧ s.me.acc = [] ∧
      ∀ e ∈ (s.ctxOf s.cur).seals, e.base ≠ dieVa s f) ∧
    (∃ (s : State) (f : FmtM), (∀ r ∈ [f.addr.toNat, f.addr.toNat + 1, f.data.toNat, f.data.toNat + 1], r ∉ s.me.badG) ∧ ∃ e ∈ (s.ctxOf s.cur).seals, e.base = dieVa s f) ∧
    (∃ (s : State) (f : FmtM) (e : TlbEnt) (pa : Nat), (∀ r ∈ [f.addr.toNat, f.addr.toNat + 1, f.data.toNat, f.data.toNat + 1], r ∉ s.me.badG) ∧
      0 < (s.me.rg f.data.toNat).toNat ∧ dieVa s f % 256 + (s.me.rg f.data.toNat).toNat ≤ 256 ∧
      translate s s.me.ctx (s.coreOf s.cur) .maint (dieVa s f) = .ok (e, pa) ∧ pa % 256 = dieVa s f % 256 ∧ fusedCores s s.cur = none) :=
  ⟨fun out => ⟨sSealBeside out, by cases out <;> decide +kernel, rfl, rfl, rfl, rfl, by cases out <;> decide +kernel, by cases out <;> decide +kernel, by cases out <;> decide +kernel, rfl,
     by cases out <;> decide +kernel⟩,
   ⟨sSeal 0x10000 false, ⟨7, 2, 4, 0, 0, 0, 0⟩, by decide +kernel, rfl, by decide +kernel⟩,
   ⟨sSeal 0x10000 true, ⟨7, 2, 4, 0, 0, 0, 0⟩, by decide +kernel, by decide +kernel⟩,
   ⟨sSeal 256 false, ⟨7, 2, 4, 0, 0, 0, 0⟩, page0, 0x100000, by decide +kernel, by decide +kernel, by decide +kernel, by decide +kernel, by decide +kernel, by decide +kernel⟩⟩

/-- R283: with another group's store into the range outstanding SEAL waits; without, it adds the entry and gives 0. -/
theorem test_seal : (pollSeal (sealHeld (sSealBeside true)) 512 2 0x100000 65536).me.hold = some ⟨.seal 2 0x100000 65536, 1000, 0x2000, 1⟩ ∧
    (let u := pollSeal (sealHeld (sSealBeside false)) 512 2 0x100000 65536;
      u.me.hold == none && (u.ctxOf 512).seals == [⟨0x100000, 0x10000, false⟩] && u.me.rg 2 == 0) = true := by decide +kernel

theorem witness_DieInstructions_hints :
    (∃ (s : State) (f : FmtM), (∀ r ∈ [f.addr.toNat, f.addr.toNat + 1], r ∉ s.me.badG) ∧ f.data.toNat ∉ s.me.badG ∧ regionAt s (dieVa s f) = none) ∧
    (∃ (s : State) (f : FmtM) (x : Nat × Nat × Nat), (∀ r ∈ [f.addr.toNat, f.addr.toNat + 1], r ∉ s.me.badG) ∧ f.data.toNat ∉ s.me.badG ∧ regionAt s (dieVa s f) = some x ∧
      (s.me.rg f.data.toNat).toNat = 8) ∧
    (∃ (s : State) (f : FmtM) (x : Nat × Nat × Nat) (r : Region), (∀ r ∈ [f.addr.toNat, f.addr.toNat + 1], r ∉ s.me.badG) ∧ f.data.toNat ∉ s.me.badG ∧ regionAt s (dieVa s f) = some x ∧
      mget? (s.die x.1).regions x.2.1 = some r ∧ (s.me.rg f.data.toNat).toNat = r.ceil ∧ r.ceil ≤ 7 ∧ r.floor ≠ 0 ∧ r.rd < 8 ∧ r.lastRr < 65536) ∧
    (∃ (s : State) (f : FmtM) (x : Nat × Nat × Nat), (∀ r ∈ [f.addr.toNat, f.addr.toNat + 1], r ∉ s.me.badG) ∧ f.data.toNat ∉ s.me.badG ∧ regionAt s (dieVa s f) = some x ∧
      mget? (s.die x.1).regions x.2.1 = none ∧ (s.me.rg f.data.toNat).toNat = 3 ∧ 1024 ≤ ((s.die x.1).regions.filter (fun e => e.2.floor != 0 || e.2.ceil != 7)).length) ∧
    (∀ room : Bool, ∃ (s : State) (f : FmtM) (x : Nat × Nat × Nat), (∀ r ∈ [f.addr.toNat, f.addr.toNat + 1], r ∉ s.me.badG) ∧ f.data.toNat ∉ s.me.badG ∧ regionAt s (dieVa s f) = some x ∧
      mget? (s.die x.1).regions x.2.1 = none ∧ (s.me.rg f.data.toNat).toNat = 3 ∧ (s.die x.1).regions.length ≤ 16 ∧
      (((s.die x.1).regions.filter (fun e => e.1 / 2 % 256 == x.2.1 / 2 % 256)).length < 16 ↔ room = true) ∧ ∀ e ∈ (s.die x.1).regions, e.2.floor = 1) :=
  ⟨⟨{ sSeal 3 false with cores := [] }, ⟨7, 2, 8, 0, 0, 0, 0⟩, by decide +kernel, by decide +kernel, by decide +kernel⟩,
   ⟨sRegion 8 0 7 2, ⟨7, 2, 8, 0, 0, 0, 0⟩, (homeDie 0x200000, 1, 0), by decide +kernel, by decide +kernel, by decide +kernel, by decide +kernel⟩,
   ⟨sRegion 5 2 5 2, ⟨7, 2, 8, 0, 0, 0, 0⟩, (homeDie 0x200000, 1, 0), _, by decide +kernel, by decide +kernel, by decide +kernel, rfl, by decide +kernel, by decide, by decide, by decide, by decide⟩,
   ⟨sPinned, ⟨7, 2, 8, 0, 0, 0, 0⟩, (homeDie 0x200000, 1, 0), by decide +kernel, by decide +kernel, by decide +kernel, by decide +kernel, by decide +kernel, by decide +kernel⟩,
   fun room => ⟨if room then { sSetFull with dies := [] } else sSetFull, ⟨7, 2, 8, 0, 0, 0, 0⟩, (homeDie 0x200000, 1, 0), by cases room <;> decide +kernel, by cases room <;> decide +kernel,
     by cases room <;> decide +kernel, by cases room <;> decide +kernel, by cases room <;> decide +kernel, by cases room <;> decide +kernel, by cases room <;> decide +kernel,
     by cases room <;> decide +kernel⟩⟩

/-- R278: a floor of 3 where ceil is 7 and RD is 2 raises RD to 3; of 8 is refused with 2; without room with 1. -/
theorem test_rdhint : goes (exec (.rdhintFloor c0 ⟨7, 2, 8, 0, 0, 0, 0⟩) (sRegion 3 0 7 2)) (fun u => wrote u == [.g 2 0 false] &&
      (mget? (u.die (homeDie 0x200000)).regions 1).map (fun r => (r.rd, r.floor, r.ceil)) == some (3, 3, 7)) = true ∧
    goes (exec (.rdhintFloor c0 ⟨7, 2, 8, 0, 0, 0, 0⟩) (sRegion 8 0 7 2)) (fun u => wrote u == [.g 2 2 false]) = true ∧
    goes (exec (.rdhintFloor c0 ⟨7, 2, 8, 0, 0, 0, 0⟩) sPinned) (fun u => wrote u == [.g 2 1 false]) = true ∧
    goes (exec (.rdhintCeil c0 ⟨7, 2, 8, 0, 0, 0, 0⟩) sSetFull) (fun u => wrote u == [.g 2 1 false]) = true ∧
    goes (exec (.rdhintQuery c0 ⟨7, 2, 8, 0, 0, 0, 0⟩) (sRegion 8 0 7 2)) (fun u => wrote u == [.g 2 2 false]) = true := by decide +kernel

/-! ## Witnesses and steps: atomics, engine operations, generator, accumulators -/

theorem witness_AtomicsBeginWithTheirOperands :
    (∃ (s : State) (i : Instr) (m : AtomOp), atomOpOf i = some m ∧ m.sp = false ∧ m.returns = true ∧ Crosses s.me m.f.gd m.names [] [] [] ∧ s.me.badV = [] ∧ crossLanes s.me m.f.gd ≠ [] ∧
      s.isDet s.cur = false ∧ ∀ l ∈ crossLanes s.me m.f.gd, ∃ e pa, m.Passes s l e pa) ∧
    (∃ (s : State) (i : Instr) (m : AtomOp), atomOpOf i = some m ∧ m.sp = true ∧ Crosses s.me m.f.gd m.names [] [] [] ∧ s.me.badV = [] ∧ crossLanes s.me m.f.gd ≠ [] ∧
      ∀ l ∈ crossLanes s.me m.f.gd, (s.me.rv m.f.addr.toNat l).toNat % wideBytes m.f = 0 ∧ (s.me.rv m.f.addr.toNat l).toNat + wideBytes m.f ≤ (myScratch s).sb) :=
  ⟨⟨sMem, .cas c1 ⟨0, 6, 20, 4, 0, 2, 0⟩, _, rfl, rfl, rfl, crosses (by decide +kernel), rfl, by decide +kernel, by decide +kernel,
     fun l hl => ⟨page0, (sMem.me.rv 20 l).toNat, by revert l hl; unfold AtomOp.Passes; decide +kernel⟩⟩,
   ⟨sMem, .atom c1 ⟨0, 6, 24, 4, 8, 0, 0⟩, _, rfl, rfl, crosses (by decide +kernel), rfl, by decide +kernel, by decide +kernel⟩⟩

/-- A scratchpad atomic of lane 0 at the last word of S_b, which holds 7, with operand 5. -/
def spReq (data : List Byte) : Req := ⟨16, 0xFF, 0, [⟨0, 0x3FFC, 0x3FFC, data, false⟩], 4, 0, 0, .waiting, 0, 0, false, false⟩
def sSpAtom (code : Nat) (data : List Byte) : State :=
  let s := sOf { g0 with acc := [⟨5, 1, .atom false code true, .scratch, 4, 6, 0, 0, 0, 0, [spReq data]⟩] }
  { s with blocks := mmap (fun _ b => { b with local' := [(0, { sb := 0x4000, sp := [(0x3FFC, 7)] })] }) s.blocks }
theorem witness_ScratchpadAtomicPerformed :
    ∃ (s : State) (g aid code : Nat) (ret : Bool) (a : Access) (r : Req) (x : LaneAcc) (w : Nat),
      (s.grp g).acc = [a] ∧ a.id = aid ∧ a.op = .atom false code ret ∧ a.space = .scratch ∧ a.reqs = [r] ∧ r.stage = .waiting ∧ r.lanes = [x] ∧
      r.line = 16 * (g / 512) + (s.grp g).rank ∧ (s.grp g).rank < 16 ∧ (a.size = 4 ∨ a.size = 8) ∧ w = 8 * a.size ∧ code ≤ 9 ∧ x.lane < 32 ∧ (s.grp g).hold = none ∧
      x.data.length = (if code = 8 then 2 * a.size else a.size) ∧
      (∀ j, j < a.size → (x.pa + j) / 4 ∉ ((s.blk (g / 512)).loc (s.grp g).rank).spBad ∧ x.pa + j < ((s.blk (g / 512)).loc (s.grp g).rank).sb) ∧
      ∀ k, mget ((s.blk (g / 512)).loc (s.grp g).rank).tags 0 k ≠ 1 :=
  ⟨sSpAtom 8 [7, 0, 0, 0, 9, 0, 0, 0], 512, 5, 8, true, _, _, _, 32, rfl, rfl, rfl, rfl, rfl, rfl, rfl, by decide +kernel, by decide +kernel, .inl rfl, rfl, by decide, by decide, rfl,
    by decide, by decide +kernel, fun k => by simp [sSpAtom, sOf, State.blk, Block.loc, State.grp, mget, mget?, mmap, g0]⟩

/-- R308, R310: 7 + 5 = 12, and v6 gets 7; CAS from 7 to 9 stores 9. -/
theorem test_atom : goes (exec (.memAccessComplete 512 5 0) (sSpAtom 0 [5, 0, 0, 0])) (fun u => ((u.blk 1).loc 0).sp == [(0x3FFC, 12)] && (u.grp 512).rv 6 0 == 7) = true ∧
    goes (exec (.memAccessComplete 512 5 0) (sSpAtom 8 [7, 0, 0, 0, 9, 0, 0, 0])) (fun u => ((u.blk 1).loc 0).sp == [(0x3FFC, 9)] && (u.grp 512).rv 6 0 == 7) = true := by decide +kernel

theorem witness_DetWritesAreBufferedOrWait_atomics :
    (∃ (s : State) (i : Instr) (m : AtomOp), atomOpOf i = some m ∧ m.sp = false ∧ s.isDet s.cur = true ∧ Crosses s.me m.f.gd m.names [] [] [] ∧ s.me.badV = [] ∧
      crossLanes s.me m.f.gd ≠ [] ∧ (∀ l ∈ crossLanes s.me m.f.gd, ∃ e pa, m.Passes s l e pa) ∧
      (s.core (s.coreOf s.cur)).units + (crossLanes s.me m.f.gd).length * ((wideBytes m.f + 15) / 16 + 1) > 16384) ∧
    (∀ ret : Bool, ∃ (s : State) (i : Instr) (m : AtomOp), atomOpOf i = some m ∧ m.sp = false ∧ s.isDet s.cur = true ∧ Crosses s.me m.f.gd m.names [] [] [] ∧ s.me.badV = [] ∧
      crossLanes s.me m.f.gd ≠ [] ∧ (∀ l ∈ crossLanes s.me m.f.gd, ∃ e pa, m.Passes s l e pa) ∧ m.returns = ret ∧
      (s.core (s.coreOf s.cur)).units + (crossLanes s.me m.f.gd).length * ((wideBytes m.f + 15) / 16 + 1) ≤ 16384) := by
  refine ⟨⟨sDetFull, .red c1 ⟨0, 0, 20, 4, 0, 0, 0⟩, _, rfl, rfl, by decide +kernel, crosses (by decide +kernel), rfl, by decide +kernel,
     fun l hl => ⟨page0, (sMem.me.rv 20 l).toNat, by revert l hl; unfold AtomOp.Passes; decide +kernel⟩, by decide +kernel⟩, fun ret => ?_⟩
  cases ret
  · exact ⟨sDet, .red c1 ⟨0, 0, 20, 4, 0, 0, 0⟩, _, rfl, rfl, by decide +kernel, crosses (by decide +kernel), rfl, by decide +kernel,
     fun l hl => ⟨page0, (sMem.me.rv 20 l).toNat, by revert l hl; unfold AtomOp.Passes; decide +kernel⟩, rfl, by decide +kernel⟩
  · exact ⟨sDet, .atom c1 ⟨0, 6, 20, 4, 0, 0, 0⟩, _, rfl, rfl, by decide +kernel, crosses (by decide +kernel), rfl, by decide +kernel,
     fun l hl => ⟨page0, (sMem.me.rv 20 l).toNat, by revert l hl; unfold AtomOp.Passes; decide +kernel⟩, rfl, by decide +kernel⟩

/-- A group whose frame, from g16 on, holds these words, with FMT and an AUX block that counts one range of 17 rows. -/
def gFrame (fmt : W32) (ws : List W32) : Group := { g0 with g := ws.zipIdx.filterMap (fun e => if e.1 = 0 then none else some (16 + e.2, e.1)), fmt := fmt }
def sFrame (fmt : W32) (ws : List W32) : State :=
  let s := sOf (gFrame fmt ws)
  { s with kernels := [(1, { groups := 4, acm := 4096 })],
           blocks := mmap (fun _ b => { b with local' := [(0, { sb := 0x4000, sp := [(0x20A, 1), (0x2C0, 17)] })] }) s.blocks }
/-- The A-format fields with frame g16 and status g40. -/
def fA (eng batch : BitVec 4) (fn : BitVec 8) : FmtA := ⟨7, 16, 40, eng, batch, fn⟩
def copyFrame (tb : W32) : List W32 := [0x10000, 0, 0x100, 0, 32, 2, 64, 32, tb, 0xFFFFFFFF, 0, 0, 0, 0, 0, 0]
def matrixFrame (aux m : W32) : List W32 := [0x10000, 0, 0, 0, 0x20002, 16 * 65536 + m, 32, 0, 0xFFFFFFFF, 1, 0, 0, 0, 0, aux, 0xFFFFFFFF]

theorem goodMatrix : GoodMatrix (sFrame 0x2641 (matrixFrame 0xFFFFFFFF 16)) 0xE8 (fA 0 0 0) := by
  refine ⟨?_, ?_, ?_, ?_, ?_, ?_, ?_, ?_, ?_, ?_, ?_, ?_, ?_, ?_, ?_, ?_, ?_, ?_, ?_, ?_, .inl ?_, ?_, ?_, ?_, ?_, ?_, ?_⟩ <;> first | decide +kernel | (unfold MatrixFormats; decide +kernel) | (unfold TbField; decide +kernel)
theorem goodGather : GoodMatrix (sFrame 0x2641 (matrixFrame 0x200 16)) 0xEA (fA 0 0 0) := by
  refine ⟨?_, ?_, ?_, ?_, ?_, ?_, ?_, ?_, ?_, ?_, ?_, ?_, ?_, ?_, ?_, ?_, ?_, ?_, ?_, ?_, .inl ?_, ?_, ?_, ?_, ?_, ?_, ?_⟩ <;> first | decide +kernel | (unfold MatrixFormats; decide +kernel) | (unfold TbField; decide +kernel)

/-- A summary operation of a group of partition 1 that issued in this cycle. -/
def sumOp : EngOp := { id := 3, opc := 0xDC, cls := 2, gid := 513, block := 1, rank := 0, ctx := 0, eng := 0, fn := 0, fmt := 0x21, frame := [0x10000], extra := [(4, 1000)], st := 40, setk := 0,
                       pc := 0x2000, pos := 0, started := false, pieces := [], sent := [], signalled := false, fail := none, units := 0 }
def sBehind : State :=
  { s0 with groups := s0.groups ++ [(513, { g0 with idx := 1, part := 1 })], cores := mmap (fun _ c => { c with skQ := [sumOp] }) s0.cores }

theorem witness_EngineOperationsAreQueued :
    (∀ cls : Nat, cls < 4 → ∃ (s : State) (i : Instr) (e : EngineKind), engineOf i = some e ∧ e.cls = cls ∧ Acts s.me e.f.gd (frameList e.f) ∧ GoodFrame s e ∧ ¬ AuxPoisoned s e ∧ CleanReads s e) ∧
    ∃ (s : State) (e : EngineKind) (o : EngOp), o ∈ queueAt (s.core (s.coreOf s.cur)) 2 ∧ entersAfter s e o = true := by
  refine ⟨fun cls h => ?_, ⟨sBehind, ⟨c1, fA 0 0 0, 0xDC, 2, none, 0x1B, true⟩, sumOp, List.mem_cons_self, by decide +kernel⟩⟩
  have : cls = 0 ∨ cls = 1 ∨ cls = 2 ∨ cls = 3 := by omega
  rcases this with rfl | rfl | rfl | rfl
  · exact ⟨sFrame 0x21 (copyFrame 0xFFFFFFFF), .cpy c1 (fA 0 0 0), _, rfl, rfl, acts (by decide +kernel),
      by unfold GoodFrame; rw [if_pos (by decide)]; unfold GoodCopy zeroAfter TbField; decide +kernel, by unfold AuxPoisoned; decide +kernel, by unfold CleanReads; decide +kernel⟩
  · refine ⟨sFrame 0x2641 (matrixFrame 0xFFFFFFFF 16), .mxm c1 (fA 0 0 0), _, rfl, rfl, acts (by decide +kernel), ?_, by unfold AuxPoisoned; decide +kernel, by unfold CleanReads; decide +kernel⟩
    unfold GoodFrame; rw [if_neg (by decide), if_neg (by decide), if_pos (by decide)]; exact ⟨goodMatrix, by unfold RowsFit; decide⟩
  · refine ⟨sFrame 0x21 [0x10000], .skdc c1 (fA 0 0 0), _, rfl, rfl, acts (by decide +kernel), ?_, by unfold AuxPoisoned; decide +kernel, by unfold CleanReads; decide +kernel⟩
    unfold GoodFrame; rw [if_neg (by decide), if_pos (by decide)]; exact ⟨⟨by decide, by decide +kernel⟩, by unfold zeroAfter; decide +kernel⟩
  · refine ⟨sFrame 0x21 [0x10000], .clrun c1 (fA 0 0 0), _, rfl, rfl, acts (by decide +kernel), ?_, by unfold AuxPoisoned; decide +kernel, by unfold CleanReads; decide +kernel⟩
    unfold GoodFrame; rw [if_neg (by decide), if_neg (by decide), if_neg (by decide), if_neg (by decide)]; exact .inl ⟨by unfold zeroAfter; decide +kernel, by decide +kernel⟩

/-- The gather's state with its AUX block poisoned. -/
def sAuxBad : State :=
  let s := sFrame 0x2641 (matrixFrame 0x200 16)
  { s with blocks := mmap (fun _ b => { b with local' := [(0, { sb := 0x4000, sp := [(0x20A, 1), (0x2C0, 17)], spBad := [0x3FC / 4] })] }) s.blocks }
theorem witness_EngineFramesThatFailAreRejected :
    (∃ (s : State) (i : Instr) (e : EngineKind), engineOf i = some e ∧ Acts s.me e.f.gd (frameList e.f) ∧ CleanReads s e ∧ (e.opc = 0xF2 → word s.me e.f 5 % 4 ≠ 1) ∧ ¬ AuxPoisoned s e ∧ ¬ GoodFrame s e ∧
      ¬ (e.opc = 0xEA ∧ GoodMatrix s e.opc e.f)) ∧
    (∃ (s : State) (i : Instr) (e : EngineKind), engineOf i = some e ∧ Acts s.me e.f.gd (frameList e.f) ∧ CleanReads s e ∧ (e.opc = 0xF2 → word s.me e.f 5 % 4 ≠ 1) ∧ ¬ AuxPoisoned s e ∧ ¬ GoodFrame s e ∧
      e.opc = 0xEA ∧ GoodMatrix s e.opc e.f) ∧
    (∃ (s : State) (i : Instr) (e : EngineKind), engineOf i = some e ∧ Acts s.me e.f.gd (frameList e.f) ∧ CleanReads s e ∧ (e.opc = 0xF2 → word s.me e.f 5 % 4 ≠ 1) ∧ AuxPoisoned s e) := by
  refine ⟨⟨sFrame 0x21 (copyFrame 4), .cpy c1 (fA 0 0 0), _, rfl, acts (by decide +kernel), by unfold CleanReads; decide +kernel, by decide +kernel, by unfold AuxPoisoned; decide +kernel, ?_,
      fun h => absurd h.1 (by decide)⟩,
    ⟨sFrame 0x2641 (matrixFrame 0x200 16), .mxmg c1 (fA 0 0 0), _, rfl, acts (by decide +kernel), by unfold CleanReads; decide +kernel, by decide +kernel, by unfold AuxPoisoned; decide +kernel, ?_, rfl, goodGather⟩,
    ⟨sAuxBad, .mxmg c1 (fA 0 0 0), _, rfl, acts (by decide +kernel), by unfold CleanReads; decide +kernel, by decide +kernel, by unfold AuxPoisoned; decide +kernel⟩⟩
  · unfold GoodFrame; rw [if_pos (by decide)]; unfold GoodCopy zeroAfter TbField; decide +kernel
  · unfold GoodFrame; rw [if_neg (by decide), if_neg (by decide), if_pos (by decide)]; rintro ⟨-, h⟩; revert h; unfold RowsFit; decide +kernel

/-- R180: the copy joins its queue and g40 is to get 0; with a barrier at offset 4 it is rejected with 0x12. -/
theorem test_cpy : goes (exec (.cpy c1 (fA 0 0 0)) (sFrame 0x21 (copyFrame 0xFFFFFFFF))) (fun u => (u.core 0).copyQ.length == 1 && wrote u == [.g 40 0 false]) = true ∧
    goes (exec (.cpy c1 (fA 0 0 0)) (sFrame 0x21 (copyFrame 4))) (fun u => (u.core 0).copyQ.length == 0 && wrote u == [.g 40 0x12 false]) = true ∧
    goes (exec (.mxmg c1 (fA 0 0 0)) (sFrame 0x2641 (matrixFrame 0x200 16))) (fun u => (u.core 0).mxQ.length == 0 && wrote u == [.g 40 0x10 false]) = true ∧
    goes (exec (.mxmg c1 (fA 0 0 0)) sAuxBad) (fun u => (u.core 0).mxQ.length == 0 && wrote u == [.g 40 0x16 false]) = true := by decide +kernel
/-- R200: of two summary operations that issue in one cycle the one of the lower partition enters first. -/
theorem test_skq_order : goes (exec (.skq c1 (fA 0 0 0)) { sFrame 0x21 [0x10000] with groups := (sFrame 0x21 [0x10000]).groups ++ [(513, { g0 with idx := 1, part := 1 })], cores := sBehind.cores })
    (fun u => (u.core 0).skQ.map (·.id) == [7, 3]) = true := by decide +kernel

/-- A group with batch 3 of class 0. -/
def sBatch (ops : List OpRef) : State := sOf { g0 with batches := [(3, ops)], openSets := [(0, [⟨4, false, 0⟩])] }
theorem witness_BatchesSealAndWait :
    (∃ (s : State) (f : FmtA), Acts s.me f.gd [] ∧ s.me.hold = none ∧ s.me.hold2 = none ∧ s.probe.on = false ∧ ∃ o ∈ mget s.me.batches [] (16 * f.eng.toNat + f.batch.toNat), o.done = false) ∧
    (∃ (s : State) (f : FmtA), Acts s.me f.gd [] ∧ s.me.hold = none ∧ s.me.hold2 = none ∧ s.probe.on = false ∧ (∀ o ∈ mget s.me.batches [] (16 * f.eng.toNat + f.batch.toNat), o.done = true) ∧
      ∀ o ∈ mget s.me.batches [] (16 * f.eng.toNat + f.batch.toNat), o.code = 0) ∧
    (∃ (s : State) (f : FmtA), Acts s.me f.gd [] ∧ s.me.hold = none ∧ s.me.hold2 = none ∧ s.probe.on = false ∧ (∀ o ∈ mget s.me.batches [] (16 * f.eng.toNat + f.batch.toNat), o.done = true) ∧
      ∃ o ∈ mget s.me.batches [] (16 * f.eng.toNat + f.batch.toNat), o.code ≠ 0 ∧ ∀ x ∈ mget s.me.batches [] (16 * f.eng.toNat + f.batch.toNat), x.code = 0 ∨ o.code ≤ x.code) :=
  ⟨⟨sBatch [⟨2, true, 0⟩, ⟨3, false, 0⟩], fA 0 3 0, acts (by decide +kernel), rfl, rfl, rfl, by decide +kernel⟩,
   ⟨sBatch [⟨2, true, 0⟩], fA 0 3 0, acts (by decide +kernel), rfl, rfl, rfl, by decide +kernel, by decide +kernel⟩,
   ⟨sBatch [⟨2, true, 0x14⟩, ⟨3, true, 0x12⟩, ⟨4, true, 0⟩], fA 0 3 0, acts (by decide +kernel), rfl, rfl, rfl, by decide +kernel, by decide +kernel⟩⟩

/-- R183: of the failed operations the lowest code, 0x12. -/
theorem test_bwait : goes (exec (.bwait c1 (fA 0 3 0)) (sBatch [⟨2, true, 0x14⟩, ⟨3, true, 0x12⟩, ⟨4, true, 0⟩])) (fun u => u.me.rg 40 == 0x12 && u.me.hold == none &&
    mget u.me.batches [] 3 == []) = true := by decide +kernel

theorem witness_GeneratorInstructions :
    (∃ (s : State) (f : FmtA), s.me.gnext = none ∧ Acts s.me f.gd (frameList f) ∧ zeroAfter s.me f 4) ∧ (∃ (s : State) (f : FmtA), s.me.gnext = none ∧ Acts s.me f.gd (frameList f) ∧ zeroAfter s.me f 7) ∧
    (∀ ctr : Bool, ∃ (s : State) (f : FmtA) (d n : Nat), s.me.gnext = none ∧ Acts s.me f.gd (frameList f) ∧ (s.me.rg (f.fb.toNat + 0)).toNat = d + 256 * (n - 1) ∧ d < 256 ∧ 1 ≤ n ∧ n ≤ 8 ∧
      d + n ≤ s.me.nv ∧ f.eng = (if ctr then 1 else 0) ∧ (ctr = true → n ≤ 4)) := by
  refine ⟨⟨sFrame 0x21 [1, 2, 3, 4], fA 0 0 0, rfl, acts (by decide +kernel), by unfold zeroAfter; decide +kernel⟩,
    ⟨sFrame 0x21 [1, 2, 3, 4, 5, 6, 7], fA 1 0 0, rfl, acts (by decide +kernel), by unfold zeroAfter; decide +kernel⟩, fun ctr => ?_⟩
  cases ctr
  · exact ⟨sFrame 0x21 [8 + 256 * 7], fA 0 0 0, 8, 8, rfl, acts (by decide +kernel), by decide +kernel, by decide, by decide, by decide, by decide, rfl, by simp⟩
  · exact ⟨sFrame 0x21 [8 + 256 * 3], fA 1 0 0, 8, 4, rfl, acts (by decide +kernel), by decide +kernel, by decide, by decide, by decide, by decide, rfl, by simp⟩

/-- The frame of an accumulator access of 2 f32 columns in v8 and v9 at offset 0, row 0, column 0, of 16-column f32 rows, with scale 1.0; and of a fill of 2 rows. -/
def accFrame' (v : W32) : List W32 := [v, 0, 0, 0, 16, 0x3F800000]
theorem witness_AccumulatorAccessScalesAndFills :
    (∃ (s : State) (f : FmtA), Acts s.me f.gd (frameList f) ∧ s.me.gnext = none ∧ (myScratch s).acmBad = [] ∧ s.me.badV = [] ∧
      GoodAccLanes s f ((List.range 32).filter (fun l => (s.me.am &&& ~~~s.me.xm).getLsbD l))) ∧
    (∃ (s : State) (f : FmtA), Acts s.me f.gd (frameList f) ∧ s.me.gnext = none ∧ ¬ GoodAccLanes s f ((List.range 32).filter (fun l => (s.me.am &&& ~~~s.me.xm).getLsbD l))) ∧
    (∃ (s : State) (f : FmtA), Acts s.me f.gd (frameList f) ∧ s.me.gnext = none ∧ GoodAccZero s f) ∧ (∃ (s : State) (f : FmtA), Acts s.me f.gd (frameList f) ∧ s.me.gnext = none ∧ ¬ GoodAccZero s f) :=
  ⟨⟨sFrame 0x21 (accFrame' (8 + 256 + 8 * 4096)), fA 0 0 0, acts (by decide +kernel), rfl, rfl, rfl, by unfold GoodAccLanes GoodAcc zeroAfter; decide +kernel⟩,
   ⟨sFrame 0x21 (accFrame' (63 + 256 + 8 * 4096)), fA 0 0 0, acts (by decide +kernel), rfl, by unfold GoodAccLanes GoodAcc zeroAfter; decide +kernel⟩,
   ⟨sFrame 0x21 [0, 0, 62, 2, 16, 0x40000000], fA 0 0 0, acts (by decide +kernel), rfl, by unfold GoodAccZero GoodAcc zeroAfter; decide +kernel⟩,
   ⟨sFrame 0x21 [0, 0, 127, 2, 16, 0], fA 0 0 0, acts (by decide +kernel), rfl, by unfold GoodAccZero GoodAcc zeroAfter; decide +kernel⟩⟩

/-- R256: 1.0 in v8 of lane 0 goes to row 0, column 0 of ACM; the fill is 2.0. -/
theorem test_acst : goes (exec (.acst c1 (fA 0 0 0)) (sFrame 0x21 (accFrame' (8 + 256 + 8 * 4096)))) (fun u => cread (myScratch u).acm 0 4 == [0, 0, 0x80, 0x3F]) = true ∧
    goes (exec (.acz c1 (fA 0 0 0)) (sFrame 0x21 [0, 0, 2, 2, 1, 0x40000000])) (fun u => (myScratch u).acm == [(0x83, 0x40), (0xC3, 0x40)]) = true := by decide +kernel

/-! ## Witnesses and steps: ordered append, merging, commit rounds -/

/-- An HH object without entries, at 0x20000; v22 of lane 0 names it, and predicate 2 is lane 0 alone. -/
def hhEmpty : List Byte := toBytes 12 0 ++ toBytes 4 0x102 ++ toBytes 1008 0
def gSk : Group := { gMem with v := mput gMem.v 704 0x20000, p := mput gMem.p 2 1 }
def sSk : State := { sOf gSk with mem := cwrite [] 0x20000 hhEmpty }
def sSkDet : State := { sSk with ctxs := [(0, { grants := [(0, 0, 2 ^ 43)], det := true })] }

theorem witness_OrderedAppendMergesAndCommits_begin :
    (∀ none : Bool, ∃ (s : State) (f : FmtX), Crosses s.me f.gd [(f.d.toNat, wideBytes f / 4)] [(f.addr.toNat, 2), (f.b.toNat, 2)] [] [] ∧ f.b.toNat + wideBytes f / 4 ≤ s.me.nv ∧
      (∀ l ∈ crossLanes s.me f.gd, ∃ e pa, (s.me.rvd f.addr.toNat l).toNat % wideBytes f = 0 ∧
        translate s s.me.ctx (s.coreOf s.cur) .write (s.me.rvd f.addr.toNat l).toNat = .ok (e, pa) ∧ e.pol = 0 ∧ isHbm pa = true ∧ isHost pa = false) ∧ s.isDet s.cur = false ∧
      (crossLanes s.me f.gd = [] ↔ none = true)) ∧
    (∃ (s : State) (f : FmtX) (l pa : Nat) (e : TlbEnt), Crosses s.me f.gd [(f.d.toNat, wideBytes f / 4)] [(f.addr.toNat, 2), (f.b.toNat, 2)] [] [] ∧ s.isDet s.cur = true ∧
      crossLanes s.me f.gd = [l] ∧ ((s.me.rvd f.addr.toNat l).toNat % wideBytes f = 0 ∧
        translate s s.me.ctx (s.coreOf s.cur) .write (s.me.rvd f.addr.toNat l).toNat = .ok (e, pa) ∧ e.pol = 0 ∧ isHbm pa = true ∧ isHost pa = false) ∧ (s.ctxOf s.cur).streams = [] ∧
      (∀ x ∈ s.groups, x.1 / 512 = s.cur / 512 → x.2.hold = none ∧ x.2.hold2 = none) ∧ streamsOfPkg s (s.ctxOf s.cur).pkg < 256) ∧
    (∃ (s : State) (f : FmtX) (l : Nat) (src : List Byte) (q : Sk), Crosses s.me f.gd [(f.d.toNat, wideBytes f / 4)] [(f.addr.toNat, 2), (f.b.toNat, 2)] [] [] ∧
      (crossLanes s.me f.gd).head? = some l ∧ f.aop = 0 ∧ s.isDet s.cur = false ∧ (s.me.rvd f.addr.toNat l).toNat % 64 = 0 ∧ skDest s (s.me.rvd f.addr.toNat l).toNat src.length = [] ∧
      skSource s false ((s.me.rvd f.b.toNat l).toNat) 64 = .ok (src.take 64) ∧ skSize (src.take 64) = src.length ∧ skSource s false ((s.me.rvd f.b.toNat l).toNat) src.length = .ok src ∧
      skParse (skType src) src = some q) := by
  refine ⟨fun none => ?_, ⟨sSkDet, ⟨2, 6, 20, 4, 0, 2, 0⟩, 0, 0x10000, page0, crosses (by decide +kernel), by decide +kernel, by decide +kernel, by decide +kernel, by decide +kernel,
      by decide +kernel, by decide +kernel⟩,
    ⟨sSk, ⟨2, 6, 20, 22, 0, 2, 0⟩, 0, hhEmpty, .hh { ents := [], nt := 0 }, crosses (by decide +kernel), by decide +kernel, rfl, by decide +kernel, by decide +kernel, by decide +kernel,
      by decide +kernel, by decide +kernel, by decide +kernel, by decide +kernel⟩⟩
  cases none
  · exact ⟨sSk, ⟨0, 6, 20, 4, 0, 2, 0⟩, crosses (by decide +kernel), by decide +kernel, fun l hl => ⟨page0, (sSk.me.rv 20 l).toNat, by revert l hl; decide +kernel⟩, by decide +kernel, by decide +kernel⟩
  · exact ⟨sSk, ⟨15, 6, 20, 4, 0, 2, 0⟩, crosses (by decide +kernel), by decide +kernel, fun l hl => ⟨page0, (sSk.me.rv 20 l).toNat, by revert l hl; decide +kernel⟩, by decide +kernel, by decide +kernel⟩

/-- R317, R320: in a DET context ODECL opens the stream at 0x10000 and takes the block's turn; SKRED holds its group until the merge. -/
theorem test_odecl : goes (exec (.odecl c1 ⟨2, 6, 20, 4, 0, 2, 0⟩) sSkDet) (fun u => (u.ctx 0).streams == [(0x10000, { turns := [(1, 0)] })]) = true ∧
    goes (exec (.skred c1 ⟨2, 6, 20, 22, 0, 2, 0⟩) sSk) (fun u => u.me.hold.isSome && u.mem == sSk.mem && u.me.gpos == 1) = true := by decide +kernel

/-- One lane of an ordered access of the group, which adds 5 at 0x10010, and what its stream holds. -/
def oReq : Req := ⟨0x100, 0, 0, [⟨3, 0x10010, 0x10010, [5, 0, 0, 0], false⟩], 4, 0, 0, .waiting, 0, 0, false, false⟩
def oAcc : Access := ⟨5, 1, .atom false 0 true, .generic, 4, 6, 0, 0, 0, 0, [oReq]⟩
def gOrd (k : HoldKind) : Group := { g0 with acc := [oAcc], hold := some ⟨k, 990, 0x2000, 1⟩, k := [(0, 1)], quantum := 4 }
def sOrd (k : HoldKind) (lin : Nat) (turns : List (Nat × Nat)) : State :=
  let s := sOf (gOrd k)
  { s with blocks := mmap (fun _ b => { b with lin := lin }) s.blocks, mem := [(0x10010, 100)],
           ctxs := [(0, { grants := [(0, 0, 2 ^ 43)], det := true, streams := [(0x10010, { running := some 40, turns := turns })] })] }

theorem oneOrdered (k : HoldKind) (lin : Nat) (turns : List (Nat × Nat)) (h : (physRead (sOrd k lin turns) 0 0x10010 4 0).2 = false) :
    OneOrdered (sOrd k lin turns) 512 (gOrd k) oAcc oReq ⟨3, 0x10010, 0x10010, [5, 0, 0, 0], false⟩ :=
  ⟨⟨rfl, rfl, rfl, rfl⟩, ⟨rfl, rfl, rfl⟩, ⟨by decide, rfl, rfl⟩, ⟨rfl, rfl, rfl, rfl, h⟩⟩

/-- A group of a DET context that has ended quantum 4, with one buffered store of two bytes, or runs; and the rounds of its context. -/
def gEnd (held : Option Nat) : Group :=
  { g0 with quantum := 4, detHold := held, detBuf := [⟨0x10010, 0, 0, 1, some 4, false, none, 2, .write [0xAB, 0xCD]⟩] }
def sEnd (held round : Option Nat) : State :=
  { sOf (gEnd held) with kernels := [], cores := [(0, { units := 10 })], ctxs := [(0, { det := true, rounds := 3, round := round, front := 6 })] }

theorem witness_OrderedAppendMergesAndCommits_events :
    (∀ low : Bool, ∃ (s : State) (g : Nat) (x : Group) (a : Access) (r : Req) (l : LaneAcc) (h : Hold) (st : Stream) (v : Nat), OneOrdered s g x a r l ∧ x.hold = some h ∧ h.kind = .oapp a.id ∧
      mget? (s.ctx x.ctx).streams l.pa = some st ∧ st.running = some v ∧ v < 2 ^ 32 ∧ lowerDone s (g / 512) l.pa = low) ∧
    (∃ (s : State) (g : Nat) (x : Group) (a : Access) (r : Req) (l : LaneAcc) (h : Hold), OneOrdered s g x a r l ∧ x.hold = some h ∧ h.kind = .ordered a.id) ∧
    (∀ det : Bool, ∃ (s : State) (cx g : Nat) (x : Group), s.groups = [(g, x)] ∧ x.ctx = cx ∧ x.stop = .running ∧ (s.blk (g / 512)).stage = .running ∧ x.quantum + 1 < 2 ^ 32 - 1 ∧
      (s.ctx cx).det = det ∧ (det = true → (s.ctx cx).round = none ∧ x.detHold = none)) ∧
    (∃ (s : State) (cx g : Nat) (x : Group) (k : Nat), s.groups = [(g, x)] ∧ x.ctx = cx ∧ x.stop = .running ∧ (s.blk (g / 512)).stage = .running ∧ x.quantum + 1 < 2 ^ 32 - 1 ∧
      (s.ctx cx).det = true ∧ (s.ctx cx).round = none ∧ x.detHold = some k ∧ x.quantum < (s.ctx cx).front) ∧
    (∃ (s : State) (cx g : Nat) (x : Group) (k f : Nat) (w : DetWr) (bs : List Byte), s.groups = [(g, x)] ∧ x.ctx = cx ∧ x.stop = .running ∧ (s.blk (g / 512)).stage = .running ∧
      x.quantum + 1 < 2 ^ 32 - 1 ∧ (s.ctx cx).det = true ∧ (s.ctx cx).round = some f ∧ x.detHold = some k ∧ k < (s.ctx cx).rounds ∧ x.quantum < f ∧ x.detBuf = [w] ∧ w.op = .write bs ∧
      w.quantum = some x.quantum ∧ s.kernels = [] ∧ w.pol = 0 ∧ bs ≠ [] ∧ w.pa % 256 + bs.length ≤ 256 ∧ mget? s.dir (w.pa / 256) = none ∧ answersOf s (w.pa / 256) = [] ∧
      ∀ l, mget? s.l2 (atDie (homeDie w.pa) (w.pa / 256)) = some l → l.key = w.key) := by
  refine ⟨fun low => ?_, ⟨sOrd (.ordered 5) 0 [], 512, _, _, _, _, _, oneOrdered _ _ _ (by decide +kernel), rfl, rfl⟩, fun det => ?_,
    ⟨sEnd (some 2) none, 0, 512, _, 2, rfl, rfl, rfl, by decide +kernel, by decide, rfl, rfl, rfl, by decide⟩,
    ⟨sEnd (some 2) (some 6), 0, 512, _, 2, 6, _, [0xAB, 0xCD], rfl, rfl, rfl, by decide +kernel, by decide, rfl, rfl, rfl, by decide, by decide, rfl, rfl, rfl, rfl, rfl, by decide, by decide, rfl,
      by decide +kernel, fun l h => by simp [sEnd, sOf, mget?] at h⟩⟩
  · cases low
    · exact ⟨sOrd (.oapp 5) 2 [(1, 0)], 512, _, _, _, _, _, _, _, oneOrdered _ _ _ (by decide +kernel), rfl, rfl, rfl, rfl, by decide, by decide +kernel⟩
    · exact ⟨sOrd (.oapp 5) 1 [(1, 0)], 512, _, _, _, _, _, _, _, oneOrdered _ _ _ (by decide +kernel), rfl, rfl, rfl, rfl, by decide, by decide +kernel⟩
  · cases det
    · exact ⟨s0, 0, 512, g0, rfl, rfl, rfl, by decide +kernel, by decide, rfl, by simp⟩
    · exact ⟨sEnd none none, 0, 512, _, rfl, rfl, rfl, by decide +kernel, by decide, rfl, fun _ => ⟨rfl, rfl⟩⟩

/-- R317: the lane gets 40 and the stream goes on with 45; R318: the ordered addition reads 100 and buffers 105. -/
theorem test_oapp : goes (exec (.oappGrant 512) (sOrd (.oapp 5) 1 [(1, 0)])) (fun u => (u.grp 512).rv 6 3 == 40 && (u.grp 512).hold == none && (u.grp 512).acc == [] &&
      (u.grp 512).detBuf.map (·.op) == [.write [45, 0, 0, 0]] && ((mget? (u.ctx 0).streams 0x10010).map (·.running)) == some (some 45)) = true ∧
    exec (.oappGrant 512) (sOrd (.oapp 5) 2 [(1, 0)]) = .next (sOrd (.oapp 5) 2 [(1, 0)]) ∧
    goes (exec (.orderedAtomicGrant 512) (sOrd (.ordered 5) 0 [])) (fun u => (u.grp 512).rv 6 3 == 100 && (u.grp 512).hold == none &&
      (u.grp 512).detBuf.map (·.op) == [.write [105, 0, 0, 0]]) = true := ⟨by decide +kernel, by rfl, by decide +kernel⟩

/-- R300, R301: the frontier is quantum 5, which the group has not ended; a round starts and takes quantum 4; it writes the two bytes, and the group goes on at quantum 5. -/
theorem test_rounds : goes (exec (.lqExchange 0) (sEnd (some 2) none)) (fun u => (u.ctx 0).front == 5 && (u.core 0).lq == 5) = true ∧
    goes (exec (.commitRoundStart 0) (sEnd (some 2) none)) (fun u => (u.ctx 0).rounds == 4 && (u.ctx 0).round == some 5) = true ∧
    goes (exec (.commitRoundComplete 0) (sEnd (some 2) (some 5))) (fun u => (cohRead u 0x10010 3 0).1 == [0xAB, 0xCD, 0] && (u.grp 512).detBuf == [] && (u.grp 512).quantum == 5 &&
      (u.grp 512).detHold == none && (u.ctx 0).round == none && (u.core 0).cq == 4 && (u.core 0).units == 8) = true := by decide +kernel

/-! ## Witnesses and steps: LAUNCH, LQRY, generation instructions -/

/-- A launch record for one block of one group in queue 2, whose descriptor is at 0x40000, with a completion word at `cw`, and a descriptor of text at 0x50000. -/
def recordBytes (cw : Nat) : List Byte :=
  toBytes 8 0x40000 ++ toBytes 8 cw ++ toBytes 16 0 ++ toBytes 2 1 ++ toBytes 2 1 ++ toBytes 2 1 ++ toBytes 2 1 ++ toBytes 1 0 ++ toBytes 1 0 ++ toBytes 1 2 ++ toBytes 21 0
def descBytes : List Byte := toBytes 8 0x50000 ++ toBytes 28 0 ++ toBytes 4 0xFFFFFFFF ++ toBytes 12 0 ++ [1, 1] ++ toBytes 60 0 ++ toBytes 2 64 ++ toBytes 12 0
/-- The frame names the record at `lr`; queue 2 holds `n` records. -/
def sLaunch (lr : W32) (cw n : Nat) : State :=
  let s := sFrame 0x21 [lr]
  { s with mem := cwrite (cwrite [] 0x30000 (recordBytes cw)) 0x40000 descBytes, ctxs := [(0, { grants := [(0, 0, 2 ^ 43)], queues := if n = 0 then [] else [(2, List.replicate n 9)] })] }
/-- A group with an access outstanding. -/
def busy (s : State) : State := s.modGrp 512 (fun g => { g with acc := [acc0 .store .waiting] })

theorem witness_LaunchAndQueries :
    (∃ (s : State) (f : FmtA), Acts s.me f.gd (frameList f) ∧ ¬ zeroAfter s.me f 2) ∧
    (∃ (s : State) (f : FmtA), Acts s.me f.gd (frameList f) ∧ zeroAfter s.me f 2 ∧ (wcDrainGroup s s.cur).me.acc ≠ []) ∧
    (∃ (s : State) (f : FmtA), Acts s.me f.gd (frameList f) ∧ zeroAfter s.me f 2 ∧ (wcDrainGroup s s.cur).me.acc = [] ∧ pairAt s.me f 0 % 64 = 32 ∧
      ∀ x ∈ pagePieces (pairAt s.me f 0) 64, ∃ r, translate (wcDrainGroup s s.cur) s.me.ctx (s.coreOf s.cur) .read x.1 = .ok r) ∧
    (∀ bad full : Bool, ∃ (s : State) (f : FmtA) (r d : List Byte), Acts s.me f.gd (frameList f) ∧ zeroAfter s.me f 2 ∧ (wcDrainGroup s s.cur).me.acc = [] ∧ pairAt s.me f 0 % 64 = 0 ∧
      (∀ x ∈ pagePieces (pairAt s.me f 0) 64, ∃ y, translate (wcDrainGroup s s.cur) s.me.ctx (s.coreOf s.cur) .read x.1 = .ok y) ∧
      specRead (wcDrainGroup s s.cur) s.cur (pairAt s.me f 0) 64 false = .ok r ∧
      (∀ x ∈ pagePieces (ofBytes (r.take 8)) 128, ∃ y, translate (wcDrainGroup s s.cur) s.me.ctx (s.coreOf s.cur) .read x.1 = .ok y) ∧
      specRead (wcDrainGroup s s.cur) s.cur (ofBytes (r.take 8)) 128 false = .ok d ∧
      (ofBytes ((r.drop 8).take 8) ≠ 0 → ∀ x ∈ pagePieces (ofBytes ((r.drop 8).take 8)) 8, ∃ y, translate (wcDrainGroup s s.cur) s.me.ctx (s.coreOf s.cur) .write x.1 = .ok y) ∧
      (kernelFrom s.me.ctx (pairAt s.me f 0) r d).after = [] ∧
      recordBad ((wcDrainGroup s s.cur).ctx s.me.ctx) (kernelFrom s.me.ctx (pairAt s.me f 0) r d) r d = bad ∧
      (64 ≤ (mget ((wcDrainGroup s s.cur).ctx s.me.ctx).queues [] (kernelFrom s.me.ctx (pairAt s.me f 0) r d).queue).length ↔ full = true)) ∧
    (∃ (s : State) (f : FmtA), Acts s.me f.gd (frameList f) ∧ zeroAfter s.me f 1 ∧ word s.me f 0 = 63) ∧ (∃ (s : State) (f : FmtA), Acts s.me f.gd (frameList f) ∧ zeroAfter s.me f 0) ∧
    (∃ (s : State) (f : FmtA), Acts s.me f.gd (frameList f) ∧ ¬ zeroAfter s.me f 1) := by
  refine ⟨⟨sFrame 0x21 [0, 0, 1], fA 0 0 0, acts (by decide +kernel), by unfold zeroAfter; decide +kernel⟩,
    ⟨busy (sLaunch 0x30000 0 0), fA 0 0 0, acts (by decide +kernel), by unfold zeroAfter; decide +kernel, by decide +kernel⟩,
    ⟨sLaunch 0x30020 0 0, fA 0 0 0, acts (by decide +kernel), by unfold zeroAfter; decide +kernel, by decide +kernel, by decide +kernel, fun x hx => ⟨(page0, 0x30020), by revert x hx; decide +kernel⟩⟩,
    fun bad full => ?_, ⟨sFrame 0x21 [63], fA 0 0 0, acts (by decide +kernel), by unfold zeroAfter; decide +kernel, by decide +kernel⟩,
    ⟨sFrame 0x21 [], fA 0 0 0, acts (by decide +kernel), by unfold zeroAfter; decide +kernel⟩, ⟨sFrame 0x21 [0, 1], fA 0 0 0, acts (by decide +kernel), by unfold zeroAfter; decide +kernel⟩⟩
  refine ⟨sLaunch 0x30000 (if bad then 4 else 0x38000) (if full then 64 else 63), fA 0 0 0, recordBytes (if bad then 4 else 0x38000), descBytes, acts ?_, ?_, ?_, ?_, ?_, ?_, ?_, ?_, ?_, ?_, ?_, ?_⟩ <;>
    cases bad <;> cases full
  all_goals first
    | decide +kernel
    | (unfold zeroAfter; decide +kernel)
    | exact fun x hx => ⟨(page0, 0x30000), by revert x hx; decide +kernel⟩
    | exact fun x hx => ⟨(page0, 0x40000), by revert x hx; decide +kernel⟩
    | exact fun _ x hx => ⟨(page0, 0x38000), by revert x hx; decide +kernel⟩
    | exact fun _ x hx => ⟨(page0, 4), by revert x hx; decide +kernel⟩

/-- R348, R355: the record joins queue 2 behind 62 others with status 0; behind 64 it does not, with status 1; with its completion word at 4 it is LAUNCH_INVALID. -/
theorem test_launch : goes (exec (.launch c1 (fA 0 0 0)) (sLaunch 0x30000 0 62)) (fun u => u.kernels.length == 2 && (mget (u.ctx 0).queues [] 2).length == 63 && wrote u == [.g 40 0 false]) = true ∧
    goes (exec (.launch c1 (fA 0 0 0)) (sLaunch 0x30000 0 64)) (fun u => u.kernels.length == 1 && wrote u == [.g 40 1 false]) = true ∧
    goes (exec (.launch c1 (fA 0 0 0)) (sLaunch 0x30000 4 0)) (fun u => (u.blk 1).term == some 0x1D) = true := by decide +kernel

/-- A generation region: rows of 64 bytes at 0x60000, 10 committed and 4 speculative of at most 100, one stop token, 77. -/
def headerBytes : List Byte := toBytes 8 (0x60000 + 1) ++ toBytes 4 5 ++ toBytes 4 64 ++ toBytes 3 10 ++ toBytes 1 4 ++ toBytes 3 100 ++ toBytes 1 0 ++ toBytes 40 77
def tokens (l : List Nat) : List Byte := l.flatMap (toBytes 4)
/-- The frame names the region at 0x30000; arrays of words stand at 0x70000 and 0x71000. -/
def sSpec (ws : List W32) (d t : List Nat) : State :=
  { sFrame 0x21 (0x30000 :: 0 :: ws) with mem := cwrite (cwrite (cwrite [] 0x30000 headerBytes) 0x70000 (tokens d)) 0x71000 (tokens t) }
theorem headerLive : HeaderLive headerBytes := by
  unfold HeaderLive; refine ⟨?_, ?_, ?_, ?_, ?_, ?_, ?_, ?_, ?_, ?_, ?_⟩ <;> decide +kernel
/-- What the four instructions need of the header. -/
def headOk (s : State) (f : FmtA) (b : List Byte) : Bool :=
  !s.isDet s.cur && decide (specRead s s.cur (pairAt s.me f 0) 64 true = .ok b) && decide (specRead s s.cur (pairAt s.me f 0) 64 false = .ok b) &&
    decide (specRead (wcDrainGroup s s.cur) s.cur (pairAt s.me f 0) 64 true = .ok b) &&
    decide (headFaults s (pairAt s.me f 0) .write = []) && decide (headFaults s (pairAt s.me f 0) .read = [])

theorem witness_GenerationInstructionsRun :
    (∃ (s : State) (f : FmtA) (b : List Byte), HeaderLive b ∧ Acts s.me f.gd (frameList f) ∧ headOk s f b = true ∧ zeroAfter s.me f 3 ∧ 1 ≤ word s.me f 2 ∧
      word s.me f 2 ≤ 255 - (header b).spn ∧ (header b).clen + (header b).spn + word s.me f 2 = (header b).maxr) ∧
    (∃ (s : State) (f : FmtA) (b : List Byte), HeaderLive b ∧ Acts s.me f.gd (frameList f) ∧ headOk s f b = true ∧ zeroAfter s.me f 3 ∧
      (header b).clen + (header b).spn + word s.me f 2 = (header b).maxr + 1) ∧
    (∃ (s : State) (f : FmtA) (b d t : List Byte), HeaderLive b ∧ Acts s.me f.gd (frameList f) ∧ headOk s f b = true ∧ word s.me f 14 = (header b).spn ∧ word s.me f 15 = 0 ∧
      (∀ i, 6 ≤ i → i ≤ 13 → word s.me f i = 0) ∧ (specArrs 0xF9 0 ((frameList f).map s.me.rg)).flatMap (arrFaults s) = [] ∧
      specRead s s.cur (pairAt s.me f 2) (4 * word s.me f 14) false = .ok d ∧ specRead s s.cur (pairAt s.me f 4) (4 * word s.me f 14 + 4) false = .ok t ∧
      d.length = 4 * word s.me f 14 ∧ t.length = 4 * word s.me f 14 + 4) ∧
    (∃ (s : State) (f : FmtA) (b pt pd : List Byte), HeaderLive b ∧ Acts s.me f.gd (frameList f) ∧ headOk s f b = true ∧ word s.me f 14 = (header b).spn ∧ word s.me f 15 = 0 ∧
      word s.me f 4 = 0 ∧ word s.me f 5 = 0 ∧ (specArrs 0xF9 1 ((frameList f).map s.me.rg)).flatMap (arrFaults s) = [] ∧
      specRead s s.cur (pairAt s.me f 6) (4 * word s.me f 14) false = .ok pt ∧ specRead s s.cur (pairAt s.me f 8) (4 * word s.me f 14) false = .ok pd ∧
      pt.length = 4 * word s.me f 14 ∧ pd.length = 4 * word s.me f 14) ∧
    (∃ (s : State) (f : FmtA) (b d : List Byte), HeaderLive b ∧ Acts s.me f.gd (frameList f) ∧ headOk s f b = true ∧ word s.me f 8 ≤ (header b).spn ∧ word s.me f 2 ≤ word s.me f 8 ∧
      zeroAfter s.me f 9 ∧ (specArrs 0xFA 0 ((frameList f).map s.me.rg)).flatMap (arrFaults s) = [] ∧ pairAt s.me f 6 = 0 ∧
      specRead s s.cur (pairAt s.me f 4) (4 * word s.me f 2) true = .ok d ∧ specRead (wcDrainGroup s s.cur) s.cur (pairAt s.me f 4) (4 * word s.me f 2) true = .ok d ∧
      d.length = 4 * word s.me f 2 ∧
      let em := emittedOf (header b) (wordList d ++ (if word s.me f 3 = 0xFFFFFFFF then [] else [word s.me f 3]))
      let keep := (header b).spn - word s.me f 8 + min (word s.me f 2) em.1
      cohPieces (wcDrainGroup s s.cur) s.cur (((header b).base + (header b).rb * ((header b).clen + keep)) % 2 ^ 64) ((header b).rb * ((header b).spn - keep)) = []) ∧
    (∃ (s : State) (f : FmtA) (b : List Byte), HeaderLive b ∧ Acts s.me f.gd (frameList f) ∧ headOk s f b = true ∧ zeroAfter s.me f 4 ∧ word s.me f 3 = (header b).maxr) :=
  ⟨⟨sSpec [86] [] [], fA 0 0 0, headerBytes, headerLive, acts (by decide +kernel), by decide +kernel, by unfold zeroAfter; decide +kernel, by decide +kernel, by decide +kernel, by decide +kernel⟩,
   ⟨sSpec [87] [] [], fA 0 0 0, headerBytes, headerLive, acts (by decide +kernel), by decide +kernel, by unfold zeroAfter; decide +kernel, by decide +kernel⟩,
   ⟨sSpec [0x70000, 0, 0x71000, 0, 0, 0, 0, 0, 0, 0, 0, 0, 4, 0] [1, 2, 3, 4] [1, 2, 9, 4, 5], fA 0 0 0, headerBytes, tokens [1, 2, 3, 4], tokens [1, 2, 9, 4, 5], headerLive, acts (by decide +kernel),
     by decide +kernel, by decide +kernel, by decide +kernel, by decide +kernel, by decide +kernel, by decide +kernel, by decide +kernel, by decide +kernel, by decide +kernel⟩,
   ⟨sSpec [0x72000, 0, 0, 0, 0x70000, 0, 0x71000, 0, 0, 0, 0, 0, 4, 0] [0, 1, 2, 3] [0, 1, 2, 3], fA 1 0 0, headerBytes, tokens [0, 1, 2, 3], tokens [0, 1, 2, 3], headerLive, acts (by decide +kernel),
     by decide +kernel, by decide +kernel, by decide +kernel, by decide +kernel, by decide +kernel, by decide +kernel, by decide +kernel, by decide +kernel, by decide +kernel, by decide +kernel⟩,
   ⟨sSpec [2, 77, 0x70000, 0, 0, 0, 2] [5, 6] [], fA 0 0 0, headerBytes, tokens [5, 6], headerLive, acts (by decide +kernel), by decide +kernel, by decide +kernel, by decide +kernel,
     by unfold zeroAfter; decide +kernel, by decide +kernel, by decide +kernel, by decide +kernel, by decide +kernel, by decide +kernel, by decide +kernel⟩,
   ⟨sSpec [7, 100] [] [], fA 0 0 0, headerBytes, headerLive, acts (by decide +kernel), by decide +kernel, by unfold zeroAfter; decide +kernel, by decide +kernel⟩⟩

/-- The results of a generation instruction, which its group goes on with. -/
def results (u : State) (n : Nat) : List Nat := (List.range n).map (fun i => (u.me.rg (40 + i)).toNat)
/-- R365: the first new row is 14, at 0x60000 + 14 * 64 = 0x60380. R366: two drafts match the target, and the bonus is 9. R368 to R370: the tokens 5 and 6 and the stop token 77 are
emitted, both rows kept; the region is DONE for reason 1 (1 + 2). R364: the STATE word then holds CLEN 14, SPN 0. -/
theorem test_generation : goes (exec (.spapp c1 (fA 0 0 0)) (sSpec [86] [] [])) (fun u => results u 4 == [0, 14, 0x60380, 0] && (cohRead u 0x30010 8 0).1 == [10, 0, 0, 90, 100, 0, 0, 0]) = true ∧
    goes (exec (.spverExact c1 (fA 0 0 0)) (sSpec [0x70000, 0, 0x71000, 0, 0, 0, 0, 0, 0, 0, 0, 0, 4, 0] [1, 2, 3, 4] [1, 2, 9, 4, 5])) (fun u => results u 4 == [0, 2, 9, 4]) = true ∧
    goes (exec (.spacc c1 (fA 0 0 0)) (sSpec [2, 77, 0x70000, 0, 0, 0, 2] [5, 6] [])) (fun u => results u 4 == [0, 3, 4, 3] && (cohRead u 0x30010 8 0).1 == [14, 0, 0, 0, 100, 0, 0, 3]) = true ∧
    goes (exec (.sprst c1 (fA 0 0 0)) (sSpec [7, 100] [] [])) (fun u => results u 1 == [0] && (cohRead u 0x30008 16 0).1 == [7, 0, 0, 0, 64, 0, 0, 0, 100, 0, 0, 0, 100, 0, 0, 0]) = true := by decide +kernel

/-! ## Witnesses and steps: the step, completion, faults -/

/-- The state with these instruction words at 0x2000 and the turn with its group; and the same as its issue sees it. -/
def sWords (pc : W64) (ws : List (Option W64)) : State :=
  { sOf { g0 with pc := pc } with turn := [512], mem := cwrite [] 0x2000 (ws.flatMap (fun w => toBytes 8 (w.getD 0).toNat)) }
/-- The word of an instruction, alone or with the chain bit. -/
def wd (i : Instr) : Option W64 := encode i
def chained (i : Instr) : Option W64 := (encode i).map (· ||| 0x8000000000000000)
def iAdd : Instr := .gadd c0 ⟨7, 6, 2, 3, 0⟩
def iVadd (d : BitVec 8) : Instr := .vadd c0 ⟨7, d, 4, 5, 1, 0⟩
/-- The state in which group 512, whose turn it is, has received its packet. -/
def recv (s : State) : State := fetchPacket { s with turn := [], cur := 512, probe := {} } 512
def packetBytes (t : State) : List Byte := ((t.grp 512).packet.getD (0, [], true)).2.1

theorem fetchedOf {t : State} {a w : W64} (h : translate t (t.grp 512).ctx (t.coreOf 512) .fetch a.toNat = .ok (page0, a.toNat) ∧
    (t.grp 512).packet = some (a.toNat / 32 * 32, packetBytes t, false) ∧ w = BitVec.ofNat 64 (ofBytes (((packetBytes t).drop (a.toNat % 32)).take 8))) : Fetched t 512 a w :=
  ⟨packetBytes t, ⟨⟨_, h.1⟩, h.2.1⟩, h.2.2⟩

/-- Both words of a chain as a step runs them, with faults noted. -/
def both (t : State) (i j : Instr) : Outcome State Fault Refusal :=
  match exec i { t with probe := { on := true } } with
  | .next u => exec j (if u.probe.raised = none then u else u.modGrp 512 (fun x => { x with pc := x.pc + 8 }))
  | o => o

theorem both_next {t : State} {i j : Instr} {p : State → Bool} (h : goes (both t i j) p = true) :
    ∃ u y, exec i { t with probe := { on := true } } = .next u ∧
      exec j (if u.probe.raised = none then u else u.modGrp 512 (fun x => { x with pc := x.pc + 8 })) = .next y ∧ p y = true := by
  unfold both at h
  split at h
  · next u hu => obtain ⟨y, hy⟩ := goes_next h; exact ⟨u, y, hu, hy.1, hy.2⟩
  · next hn => obtain ⟨y, hy⟩ := goes_next h; exact absurd hy.1 (hn y)

/-- In slot 3 of its block a receiver of other length waits for the words' group. -/
def sWordsMeet (ws : List (Option W64)) : State := { sWords 0x2000 ws with blocks := mmap (fun _ b => { b with xfer := [(3, [⟨513, 5, 0x3000, 3, false, 20, 0x3, [], 7⟩])] }) s0.blocks }
def iSend : Instr := .xsend c0 ⟨7, 0, 4, 3, 0, 9⟩
def iWaita : Instr := .waita c0 ⟨7, 20, 4, 0, 2, 0, 0⟩

/-- What two words of a chain come to: they take effect, or one faults; they hold the group, or an instruction it was to meet faults too. -/
def chainEnd (faults other : Bool) (y : State) : Bool :=
  y.probe.raised.isSome == faults && (if faults then y.probe.partner.isSome else (y.grp 512).hold.isSome) == other

theorem witness_StepRunsTheDecodedInstruction :
    (∃ (s t : State) (g : Nat) (rest : List Nat) (w : W64) (i : Instr), s.turn = g :: rest ∧ t = fetchPacket { s with turn := rest, cur := g, probe := {} } g ∧
      Fetched t g (t.grp g).pc w ∧ decode w = .ok i ∧ w.getLsbD 63 = false) ∧
    (∃ (s t : State) (g : Nat) (rest : List Nat) (w : W64) (x : DecodeError), s.turn = g :: rest ∧ t = fetchPacket { s with turn := rest, cur := g, probe := {} } g ∧
      Fetched t g (t.grp g).pc w ∧ decode w = .error x) ∧
    (∃ (s t : State) (g : Nat) (rest : List Nat) (w : W64) (i : Instr), s.turn = g :: rest ∧ t = fetchPacket { s with turn := rest, cur := g, probe := {} } g ∧
      Fetched t g (t.grp g).pc w ∧ decode w = .ok i ∧ w.getLsbD 63 = true ∧ (t.grp g).pc.toNat / 8 % 4 = 3) ∧
    (∃ (s t : State) (g : Nat) (rest : List Nat) (w v : W64) (i : Instr) (x : DecodeError), s.turn = g :: rest ∧ t = fetchPacket { s with turn := rest, cur := g, probe := {} } g ∧
      Fetched t g (t.grp g).pc w ∧ decode w = .ok i ∧ w.getLsbD 63 = true ∧ (t.grp g).pc.toNat / 8 % 4 ≠ 3 ∧ Fetched t g ((t.grp g).pc + 8) v ∧ decode v = .error x) ∧
    (∃ (s t : State) (g : Nat) (rest : List Nat) (w v : W64) (i j : Instr), s.turn = g :: rest ∧ t = fetchPacket { s with turn := rest, cur := g, probe := {} } g ∧
      Fetched t g (t.grp g).pc w ∧ decode w = .ok i ∧ w.getLsbD 63 = true ∧ (t.grp g).pc.toNat / 8 % 4 ≠ 3 ∧ Fetched t g ((t.grp g).pc + 8) v ∧ decode v = .ok j ∧
      chainLegal ((t.grp g).pc.toNat / 8 % 4) i j = false) ∧
    (∀ faults other : Bool, ∃ (s t : State) (g : Nat) (rest : List Nat) (w v : W64) (i j : Instr) (u y : State), s.turn = g :: rest ∧ t = fetchPacket { s with turn := rest, cur := g, probe := {} } g ∧
      Fetched t g (t.grp g).pc w ∧ decode w = .ok i ∧ w.getLsbD 63 = true ∧ (t.grp g).pc.toNat / 8 % 4 ≠ 3 ∧ Fetched t g ((t.grp g).pc + 8) v ∧ decode v = .ok j ∧
      chainLegal ((t.grp g).pc.toNat / 8 % 4) i j = true ∧ exec i { t with probe := { on := true } } = .next u ∧
      exec j (if u.probe.raised = none then u else u.modGrp g (fun x => { x with pc := x.pc + 8 })) = .next y ∧
      g = 512 ∧ chainEnd faults other y = true) ∧
    (∃ (s t : State) (g : Nat) (rest : List Nat) (r : XFault), s.turn = g :: rest ∧ t = fetchPacket { s with turn := rest, cur := g, probe := {} } g ∧
      translate t (t.grp g).ctx (t.coreOf g) .fetch (t.grp g).pc.toNat = .error r) ∧
    (∃ (s t : State) (g : Nat) (rest : List Nat) (e : TlbEnt × Nat) (bs : List Byte), s.turn = g :: rest ∧ t = fetchPacket { s with turn := rest, cur := g, probe := {} } g ∧
      translate t (t.grp g).ctx (t.coreOf g) .fetch (t.grp g).pc.toNat = .ok e ∧ (t.grp g).packet = some ((t.grp g).pc.toNat / 32 * 32, bs, true)) ∧
    (∃ (s : State) (e : Instr) (rest : List Instr), s.turn = [] ∧ s.inputs = e :: rest) ∧ ∃ s : State, s.turn = [] ∧ s.inputs = [] := by
  have two : ∀ (s : State) (i j : Instr) (w v : W64) (p : State → Bool), s.turn = [512] → Fetched (recv s) 512 ((recv s).grp 512).pc w → decode w = .ok i → w.getLsbD 63 = true →
      ((recv s).grp 512).pc.toNat / 8 % 4 ≠ 3 → Fetched (recv s) 512 (((recv s).grp 512).pc + 8) v → decode v = .ok j → chainLegal (((recv s).grp 512).pc.toNat / 8 % 4) i j = true →
      goes (both (recv s) i j) p = true → ∃ (s t : State) (g : Nat) (rest : List Nat) (w v : W64) (i j : Instr) (u y : State), s.turn = g :: rest ∧
        t = fetchPacket { s with turn := rest, cur := g, probe := {} } g ∧
        Fetched t g (t.grp g).pc w ∧ decode w = .ok i ∧ w.getLsbD 63 = true ∧ (t.grp g).pc.toNat / 8 % 4 ≠ 3 ∧ Fetched t g ((t.grp g).pc + 8) v ∧ decode v = .ok j ∧
        chainLegal ((t.grp g).pc.toNat / 8 % 4) i j = true ∧ exec i { t with probe := { on := true } } = .next u ∧
        exec j (if u.probe.raised = none then u else u.modGrp g (fun x => { x with pc := x.pc + 8 })) = .next y ∧ g = 512 ∧ p y = true := by
    intro s i j w v p h1 h2 h3 h4 h5 h6 h7 h8 h9
    obtain ⟨u, y, hu, hy, hp⟩ := both_next h9
    exact ⟨s, recv s, 512, [], w, v, i, j, u, y, h1, rfl, h2, h3, h4, h5, h6, h7, h8, hu, hy, rfl, hp⟩
  refine ⟨⟨sWords 0x2000 [wd iAdd], recv _, 512, [], (wd iAdd).getD 0, _, rfl, rfl, fetchedOf (by decide +kernel), by rfl, by decide +kernel⟩,
    ⟨sWords 0x2000 [some 0xFFFFFFFFFFFFFFFF], recv _, 512, [], 0xFFFFFFFFFFFFFFFF, _, rfl, rfl, fetchedOf (by decide +kernel), by rfl⟩,
    ⟨sWords 0x2018 [none, none, none, chained iAdd], recv _, 512, [], (chained iAdd).getD 0, _, rfl, rfl, fetchedOf (by decide +kernel), by rfl, by decide +kernel, by decide +kernel⟩,
    ⟨sWords 0x2010 [none, none, chained iAdd, some 0xFFFFFFFFFFFFFFFF], recv _, 512, [], (chained iAdd).getD 0, 0xFFFFFFFFFFFFFFFF, _, _, rfl, rfl, fetchedOf (by decide +kernel), by rfl, by decide +kernel,
      by decide +kernel, fetchedOf (by decide +kernel), by rfl⟩,
    ⟨sWords 0x2000 [chained iAdd, wd iAdd], recv _, 512, [], (chained iAdd).getD 0, (wd iAdd).getD 0, _, _, rfl, rfl, fetchedOf (by decide +kernel), by rfl, by decide +kernel, by decide +kernel,
      fetchedOf (by decide +kernel), by rfl, by decide +kernel⟩, fun faults other => ?_,
    ⟨{ sWords 0x2000 [wd iAdd] with cores := [] }, recv _, 512, [], ⟨4, flFetch⟩, rfl, rfl, by decide +kernel⟩,
    ⟨{ sWords 0x2000 [wd iAdd] with badMem := [0x80] }, recv _, 512, [], (page0, 0x2000), packetBytes (recv { sWords 0x2000 [wd iAdd] with badMem := [0x80] }), rfl, rfl, by decide +kernel, by decide +kernel⟩,
    ⟨{ s0 with inputs := [.moduleReset] }, .moduleReset, [], rfl, rfl⟩, ⟨s0, rfl, rfl⟩⟩
  cases faults <;> cases other
  · exact two (sWords 0x2000 [chained iAdd, wd (iVadd 6)]) _ _ ((chained iAdd).getD 0) ((wd (iVadd 6)).getD 0) _ rfl (fetchedOf (by decide +kernel)) (by rfl) (by decide +kernel) (by decide +kernel)
        (fetchedOf (by decide +kernel)) (by rfl) (by decide +kernel) (by decide +kernel)
  · exact two (sWords 0x2000 [chained iAdd, wd iWaita]) _ _ ((chained iAdd).getD 0) ((wd iWaita).getD 0) _ rfl (fetchedOf (by decide +kernel)) (by rfl) (by decide +kernel) (by decide +kernel)
        (fetchedOf (by decide +kernel)) (by rfl) (by decide +kernel) (by decide +kernel)
  · exact two (sWords 0x2000 [chained iAdd, wd (iVadd 0x80)]) _ _ ((chained iAdd).getD 0) ((wd (iVadd 0x80)).getD 0) _ rfl (fetchedOf (by decide +kernel)) (by rfl) (by decide +kernel) (by decide +kernel)
        (fetchedOf (by decide +kernel)) (by rfl) (by decide +kernel) (by decide +kernel)
  · exact two (sWordsMeet [chained iAdd, wd iSend]) _ _ ((chained iAdd).getD 0) ((wd iSend).getD 0) _ rfl (fetchedOf (by decide +kernel)) (by rfl) (by decide +kernel) (by decide +kernel)
        (fetchedOf (by decide +kernel)) (by rfl) (by decide +kernel) (by decide +kernel)

/-- R53, R55: a GADD chained to a VADD writes both at one issue, and the PC moves by 16; when the VADD names a register outside the allocation neither acts. -/
theorem test_chain : goes (step (sWords 0x2000 [chained iAdd, wd (iVadd 6)])) (fun u => (u.grp 512).pc == 0x2010 && (u.grp 512).pend.length == 2) = true ∧
    goes (step (sWords 0x2000 [chained iAdd, wd (iVadd 0x80)])) (fun u => (u.grp 512).pend.length == 0 && (u.blk 1).term.isSome) = true := by decide +kernel

theorem witness_EveryStepKeepsMemoryCanonical : ∃ s u : State, MemoryCanonical s ∧ s.mem ≠ [] ∧ step s = .next u :=
  have ⟨u, h, _⟩ := goes_next (by decide +kernel : goes (step (sWords 0x2000 [wd iAdd])) (fun _ => true) = true)
  ⟨sWords 0x2000 [wd iAdd], u, by unfold MemoryCanonical; decide +kernel, by decide +kernel, h⟩

theorem witness_DecodeOfEncodeIsTheInstruction : ∃ i : Instr, WellFormed i := ⟨iAdd, by unfold WellFormed; decide +kernel⟩

/-- A group with one issued instruction that is still to write. -/
def sPend (due : Option Nat) (wr : List RegWr) : State := sOf { g0 with pend := [⟨5, due, 2, wr⟩], k := [(1, 3)] }
theorem witness_ResultsAppearAtCompletionPoints :
    (∃ (s : State) (g : Nat) (p : Pend) (d : Nat), (s.grp g).pend.find? (fun q => q.id == p.id) = some p ∧ (s.grp g).live = true ∧ p.due = some d ∧ s.clock + 1 = d) ∧
    (∀ wr : List RegWr, wr ∈ [[.g 6 1 false], [.v 6 31 1 true], [.p 2 31 true], [.q 6 true], [.fmt 1], [.stat 3 2 true], [.stat 31 1 false], [.statClear 1], [.fstat 5], []] → ∃ (s : State) (g : Nat) (p : Pend) (d : Nat),
      (s.grp g).pend.find? (fun q => q.id == p.id) = some p ∧ (s.grp g).live = true ∧ p.wr = wr ∧ p.due = some d ∧ d = s.clock ∧ (s.grp g).chain = none) ∧
    (∀ later : Bool, ∃ (s : State) (g : Nat) (p : Pend) (h : Hold) (n : Nat), (s.grp g).pend.find? (fun q => q.id == p.id) = some p ∧ (s.grp g).live = true ∧ (s.grp g).hold = some h ∧
      (s.grp g).chain = some (0x2000, n) ∧ (n ≤ p.id ↔ later = true)) ∧
    (∃ (s : State) (g : Nat) (p : Pend), (s.grp g).pend.find? (fun q => q.id == p.id) = some p ∧ (s.grp g).live = true ∧ p.due = none ∧ (s.blk (g / 512)).xfer = [] ∧
      ∀ t ∈ (s.grp g).lastIssue, t < s.clock) :=
  ⟨⟨sPend (some 1001) [], 512, ⟨5, some 1001, 2, []⟩, 1001, by decide +kernel, by decide +kernel, rfl, rfl⟩,
   fun wr _ => ⟨sPend (some 1000) wr, 512, ⟨5, some 1000, 2, wr⟩, 1000, by simp [sPend, sOf, State.grp, mget, mget?], rfl, rfl, rfl, rfl, rfl⟩,
   fun later => ⟨(sPend (some 1000) []).modGrp 512 (fun k => { k with hold := some ⟨.waitk 0 0, 990, 0x2000, 0⟩, chain := some (0x2000, if later then 5 else 6) }), 512, ⟨5, some 1000, 2, []⟩, _,
     if later then 5 else 6, by cases later <;> decide +kernel, by cases later <;> decide +kernel, by cases later <;> rfl, by cases later <;> rfl, by cases later <;> decide⟩,
   ⟨sPend none [], 512, ⟨5, none, 2, []⟩, by decide +kernel, by decide +kernel, rfl, by decide +kernel, by decide +kernel⟩⟩

/-- R12, R59: at its cycle the write is made and K1 falls from 3 to 2; a cycle before, nothing happens. -/
theorem test_completion : goes (exec (.completionPoint 512 5) (sPend (some 1000) [.g 6 77 false])) (fun u => (u.grp 512).rg 6 == 77 && (u.grp 512).kc 1 == 2 && (u.grp 512).pend == []) = true ∧
    exec (.completionPoint 512 5) (sPend (some 1001) [.g 6 77 false]) = .next (sPend (some 1001) [.g 6 77 false]) := ⟨by decide +kernel, by rfl⟩

/-- A kernel with a handler at 0x9000, or none; a context with a fault log at 0x80000 of `n` slots and a fault service. -/
def sFault (handler : Option Nat) (inH : Bool) (fsvc n : Nat) : State :=
  { sOf { g0 with inHandler := inH } with
    kernels := [(1, { groups := 4, handler := handler })], mem := cwrite [] 0x80000 (toBytes 4 0 ++ toBytes 4 0 ++ toBytes 4 n),
    ctxs := [(0, { grants := [(0, 0, 2 ^ 43)], fsvc := fsvc, log := 0x80000 })] }
theorem witness_PreciseFaultsSuspendEnterTheHandlerOrEndTheBlock :
    (∃ (s : State) (g : Nat) (f : FaultInfo) (n : Nat), (mget? s.groups g).isSome = true ∧ f.code = 4 ∧ (s.ctx (s.grp g).ctx).fsvc ≠ 0 ∧ f.flags / 2 % 2 = 0 ∧
      (logTry s (s.grp g).ctx (s.coreOf g) (groupRec s g f true)).2 = .written n) ∧
    (∃ (s : State) (g : Nat) (f : FaultInfo), (mget? s.groups g).isSome = true ∧ f.code = 5 ∧ (s.ctx (s.grp g).ctx).fsvc ≠ 0 ∧ f.flags / 2 % 2 = 0 ∧
      (logTry s (s.grp g).ctx (s.coreOf g) (groupRec s g f true)).2 = .full) ∧
    (∃ (s : State) (g : Nat) (f : FaultInfo) (h : Nat), (mget? s.groups g).isSome = true ∧ f.code = 3 ∧ (s.kernelOf g).handler = some h ∧ (s.grp g).inHandler = false) ∧
    (∃ (s : State) (g : Nat) (f : FaultInfo), (mget? s.groups g).isSome = true ∧ f.code = 5 ∧ (s.ctx (s.grp g).ctx).fsvc = 0 ∧ (s.kernelOf g).handler = none ∧ (s.blk (g / 512)).term = none ∧
      ∃ m, mget? s.kernels (s.blk (g / 512)).kernel = some m ∧ m.code = none ∧ m.nterm < 2 ^ 24 - 1) ∧
    (∃ (s : State) (g : Nat) (f : FaultInfo), (mget? s.groups g).isSome = true ∧ f.code = 3 ∧ (s.grp g).inHandler = true ∧ (s.blk (g / 512)).term = none) :=
  ⟨⟨sFault none false 1 8, 512, ⟨4, 0, 0x5000, 0, 0⟩, 0, by decide +kernel, rfl, by decide +kernel, by decide, by decide +kernel⟩,
   ⟨sFault none false 1 0, 512, ⟨5, 0, 0x5000, 0, 0⟩, by decide +kernel, rfl, by decide +kernel, by decide, by decide +kernel⟩,
   ⟨sFault (some 0x9000) false 0 8, 512, ⟨3, 0, 0x5001, 0, 0⟩, 0x9000, by decide +kernel, rfl, by decide +kernel, by decide +kernel⟩,
   ⟨sFault none false 0 8, 512, ⟨5, 0, 0x5001, 0, 0⟩, by decide +kernel, rfl, by decide +kernel, by decide +kernel, by decide +kernel, _, rfl, rfl, by decide⟩,
   ⟨sFault (some 0x9000) true 0 8, 512, ⟨3, 0, 0x5001, 0, 0⟩, by decide +kernel, rfl, by decide +kernel, by decide +kernel⟩⟩

/-- R26: a page fault with a fault service suspends the group under SEQ 0; a misalignment enters the handler with V, REC and code 3 in sr.fstat; in the handler it ends the block. -/
theorem test_deliver : (let u := deliver (sFault none false 1 8) 512 ⟨4, 0, 0x5000, 0, 0⟩; (u.grp 512).stop == .replay 0 && (u.grp 512).pc == 0x2000) = true ∧
    (let u := deliver (sFault (some 0x9000) false 0 8) 512 ⟨3, 0, 0x5001, 0, 0⟩; (u.grp 512).pc == 0x9000 && (u.grp 512).fpc == 0x2000 && (u.grp 512).fstat == 0xC3 && (u.grp 512).inHandler) = true ∧
    (let u := deliver (sFault (some 0x9000) true 0 8) 512 ⟨3, 0, 0x5001, 0, 0⟩; (u.grp 512).stop == .ended && (u.blk 1).term == some 3 && (u.krn 1).nterm == 1 && (u.krn 1).code == some 3) = true := by
  decide +kernel

/-! ## Witnesses and steps: holds, the picker, partitions, dispatch -/

def sHold (k : HoldKind) (since : Nat) : State := sOf { g0 with hold := some ⟨k, since, 0x2000, 1⟩, k := [(0, 1)], pc := 0x2008 }
/-- The watchdog limit of the context, in microseconds. -/
def wdog (n : Nat) (s : State) : State := { s with clock := 1300 * 10, ctxs := mmap (fun _ c => { c with wdog := n }) s.ctxs }
/-- Two groups on partition 0 with a GADD and a VADD, or two GADD, to issue; the first started at 5, the second at 4. -/
def sTwo (second : Instr) (fresh : Nat) : State :=
  let x : Group := { g0 with startAt := 5, fresh := fresh, packet := some (0x2000, ((wd iAdd).getD 0).toNat |> toBytes 8 |> (· ++ toBytes 24 ((wd second).getD 0).toNat), false) }
  { sWords 0x2000 [wd iAdd, wd second] with turn := [], groups := [(512, x), (513, { x with idx := 1, startAt := 4, pc := 0x2008, fresh := 1000 })] }

/-- The package's clock was 1,300 cycles a microsecond until cycle 500, and is 1,000 since. -/
def sClocks : State := { s0 with pkgs := [(0, { mhz := 1000, clocks := [(500, 1300)] })] }

theorem witness_WaitsEndAndThePickerGivesTurns_holds :
    (∀ t : Nat, t = 499 ∨ t = 500 → ∃ (s : State) (p a mhz : Nat), (s.pkg p).clocks = [(a, mhz)] ∧ a = 500 ∧ t ≤ s.clock) ∧
    (∀ t : Nat, t = 1000 ∨ t = 1001 → ∃ (s : State) (g : Nat) (h : Hold), (s.grp g).hold = some h ∧ h.kind = .sleep t ∧ s.clock = 1000 ∧ (s.grp g).hold2 = none) ∧
    (∀ t : Nat, t = 1000 ∨ t = 1001 → ∃ (s : State) (g : Nat) (h : Hold) (os : List Nat), (s.grp g).hold = some h ∧ h.kind = .yield os t ∧ os ≠ [] ∧ s.clock = 1000) ∧
    (∀ old : Nat, old = 0 ∨ old = 1 → ∃ (s : State) (g : Nat) (h : Hold) (sp : Bool) (addr size gd v : Nat) (bad : Bool), (s.grp g).hold = some h ∧ h.kind = .waita sp addr size gd old ∧
      waitaRead s g sp addr size = .ok (v, bad) ∧ v = 0 ∧ bad = false ∧ size = 4 ∧ (s.grp g).stop = .running ∧ s.probe.on = false) ∧
    (∀ lim : Nat, lim = 10 ∨ lim = 11 → ∃ (s : State) (g : Nat) (h : Hold), (s.grp g).hold = some h ∧ plainWait h.kind = true ∧ (s.grp g).hold2 = none ∧ (s.grp g).stop = .running ∧
      (s.blk (g / 512)).stage = .running ∧ (s.ctx (s.grp g).ctx).wdog = lim ∧ elapsedUs s (s.pkgOf g) h.since = 10) ∧
    (∃ (s : State) (g : Nat) (h : Hold), (s.grp g).hold = some h ∧ (s.grp g).stop ≠ .running) :=
  ⟨fun t h => ⟨sClocks, 0, 500, 1300, rfl, rfl, by show t ≤ 1000; omega⟩, fun t _ => ⟨sHold (.sleep t) 990, 512, ⟨.sleep t, 990, 0x2000, 1⟩, rfl, rfl, rfl, rfl⟩, fun t _ => ⟨sHold (.yield [513] t) 990, 512, ⟨.yield [513] t, 990, 0x2000, 1⟩, [513], rfl, rfl, by decide, rfl⟩,
   fun old h => ⟨sHold (.waita false 0x10000 4 6 old) 990, 512, ⟨.waita false 0x10000 4 6 old, 990, 0x2000, 1⟩, false, 0x10000, 4, 6, 0, false, rfl, rfl,
     by rcases h with rfl | rfl <;> decide +kernel, rfl, rfl, rfl, rfl, rfl⟩,
   fun lim h => ⟨wdog lim (sHold (.waitk 0 0) 0), 512, ⟨.waitk 0 0, 0, 0x2000, 1⟩, rfl, rfl, rfl, rfl, rfl, rfl, by rcases h with rfl | rfl <;> decide +kernel⟩,
   ⟨(sHold (.waitk 0 0) 0).modGrp 512 (fun x => { x with stop := .saved }), 512, ⟨.waitk 0 0, 0, 0x2000, 1⟩, rfl, by decide +kernel⟩⟩

/-- R106, R178, R30: SLEEP ends at its cycle; WAITA takes the new value 0; the watchdog faults after exactly 10 microseconds of 1,300 cycles.
R5: 260 cycles at 1,300 a microsecond are 0.2 of one, to which 500, 1,500 and 2,300 cycles at 1,000 add 0.5, 1.5 and 2.3. -/
theorem test_holds : goes (exec (.sleepEnd 512) (sHold (.sleep 1000) 990)) (fun u => (u.grp 512).hold == none && (u.grp 512).kc 0 == 0) = true ∧
    exec (.sleepEnd 512) (sHold (.sleep 1001) 990) = .next (sHold (.sleep 1001) 990) ∧
    goes (exec (.waitaWake 512) (sHold (.waita false 0x10000 4 6 1) 990)) (fun u => (u.grp 512).hold == none && (u.grp 512).rg 6 == 0) = true ∧
    goes (exec (.watchdogExpiry 512) (wdog 10 (sHold (.waitk 0 0) 0))) (fun u => (u.blk 1).term == some 0x1A) = true ∧
    goes (exec (.watchdogExpiry 512) (wdog 11 (sHold (.waitk 0 0) 0))) (fun u => decide (u = wdog 11 (sHold (.waitk 0 0) 0))) = true ∧
    elapsedUs sClocks 0 240 = 0 ∧ elapsedUs { sClocks with clock := 2000 } 0 240 = 1 ∧ elapsedUs { sClocks with clock := 2800 } 0 240 = 2 :=
  ⟨by decide +kernel, by rfl, by decide +kernel, by decide +kernel, by decide +kernel, by decide +kernel⟩

theorem witness_WaitsEndAndThePickerGivesTurns_picker :
    (∃ (s : State) (p g : Nat) (x : Group), (s.part p).pickedAt = some s.clock ∧ mget? s.groups g = some x ∧ (s.blk (g / 512)).stage = .running ∧ (s.part x.part).pickedAt ≠ some s.clock) ∧
    (∃ (s : State) (p g : Nat) (x : Group), (s.part p).pickedAt ≠ some s.clock ∧ s.groups = [(g, x)] ∧ (x.part = p ∧ x.stop = .running ∧ x.hold = none ∧ x.hold2 = none ∧ x.fence = none ∧ (∃ r, x.packet = some (x.pc.toNat / 32 * 32, r)) ∧ x.pend = [] ∧ x.acc = [] ∧ x.gnext = none ∧
      x.stack = [] ∧ x.run ≠ 0 ∧ s.isDet g = false ∧ (s.blk (g / 512)).stage = .running ∧ (s.blk (g / 512)).term = none ∧ eligible s g = true) ∧ g ∉ s.turn ∧
      ∀ b ∈ s.blocks, b.2.stage = .running → b.1 = g / 512) ∧
    (∃ (s : State) (p g h : Nat) (x y : Group) (i j : Instr), (s.part p).pickedAt ≠ some s.clock ∧ s.groups = [(g, x), (h, y)] ∧ g < h ∧
      (x.part = p ∧ x.stop = .running ∧ x.hold = none ∧ x.hold2 = none ∧ x.fence = none ∧ (∃ r, x.packet = some (x.pc.toNat / 32 * 32, r)) ∧ x.pend = [] ∧ x.acc = [] ∧ x.gnext = none ∧ x.stack = [] ∧ x.run ≠ 0 ∧ s.isDet g = false ∧ (s.blk (g / 512)).stage = .running ∧
        (s.blk (g / 512)).term = none ∧ eligible s g = true) ∧
      (y.part = p ∧ y.stop = .running ∧ y.hold = none ∧ y.hold2 = none ∧ y.fence = none ∧ (∃ r, y.packet = some (y.pc.toNat / 32 * 32, r)) ∧ y.pend = [] ∧ y.acc = [] ∧ y.gnext = none ∧ y.stack = [] ∧ y.run ≠ 0 ∧ s.isDet h = false ∧ (s.blk (h / 512)).stage = .running ∧
        (s.blk (h / 512)).term = none ∧ eligible s h = true) ∧
      s.turn = [] ∧ planOf s g = .one i ∧ planOf s h = .one j ∧ x.startAt ≠ y.startAt ∧ (x.fresh + 48 ≤ s.clock ↔ y.fresh + 48 ≤ s.clock)) :=
  ⟨⟨{ s0 with parts := [(3, { pickedAt := some 1000 })] }, 3, 512, g0, by decide +kernel, rfl, by decide +kernel, by decide +kernel⟩,
   ⟨{ sTwo iAdd 1000 with groups := [(512, (sTwo iAdd 1000).grp 512)] }, 0, 512, _, by decide +kernel, rfl, ⟨rfl, rfl, rfl, rfl, rfl, ⟨_, rfl⟩, by decide +kernel⟩, by decide +kernel, by decide +kernel⟩,
   ⟨sTwo (iVadd 6) 1000, 0, 512, 513, _, _, iAdd, iVadd 6, by decide +kernel, rfl, by decide, ⟨rfl, rfl, rfl, rfl, rfl, ⟨_, rfl⟩, by decide +kernel⟩, ⟨rfl, rfl, rfl, rfl, rfl, ⟨_, rfl⟩, by decide +kernel⟩, rfl, by decide +kernel, by decide +kernel, by decide, by decide⟩⟩

/-- R145: the younger group number 513 started first and issues first; of one pipe only it issues; a group that has been eligible for 48 cycles goes before it. -/
theorem test_picker : goes (exec (.pickerIssue 0) (sTwo (iVadd 6) 1000)) (fun u => u.turn == [513, 512]) = true ∧ goes (exec (.pickerIssue 0) (sTwo iAdd 1000)) (fun u => u.turn == [513]) = true ∧
    goes (exec (.pickerIssue 0) (sTwo iAdd 952)) (fun u => u.turn == [512]) = true := by decide +kernel

/-- Memory with a page table at 0x200000 that maps the first 8 GiB to the same addresses: R, W and X, COH (R334). -/
def tables : Cells := cwrite (cwrite (cwrite [] 0x200000 (toBytes 8 0x201001)) 0x201000 (toBytes 8 0x202001)) 0x202000 (toBytes 8 0x10F)
/-- A write-combining buffer with two bytes; a tracker entry; a completion word that waits; a region whose interval is over. -/
def wcBuf : WcBuf := ⟨512, 0x100, 0x10000, [(0x10, 0xAB), (0x11, 0xCD)], 904, 904, 0, 2⟩
def sWc (clock : Nat) : State := { s0 with clock := clock, parts := [(0, { wc := [wcBuf], tracker := [⟨9, 1, 513⟩] })], groups := s0.groups ++ [(513, { g0 with idx := 1, stop := .ended })] }
def sCw (tail cw : Nat) : State :=
  { s0 with kernels := [(1, { cw := cw, cwWaiting := true, cwTail := tail, code := some 4, nterm := 2 })], mem := cwrite tables 0x80004 (toBytes 4 6),
            ctxs := [(0, { grants := [(0, 0, 2 ^ 43)], log := 0x80000, root := 0x200000 })] }
def sIv (r : Region) : State := { s0 with clock := 2 ^ 20, dies := [(0, { regions := [(1, r)] })] }
theorem witness_PartitionKernelAndIntervalEvents :
    (∀ c : Nat, c = 4999 ∨ c = 5000 → ∃ (s : State) (p n : Nat) (b : WcBuf), (s.part p).wc[n]? = some b ∧ (s.part p).wc.Pairwise (fun x y => (x.g, x.line) ≠ (y.g, y.line)) ∧ s.clock = c ∧
      b.first + 4096 = 5000 ∧ b.pol ≠ 0 ∧ b.bytes.Pairwise (fun x y => x.1 ≠ y.1) ∧ ∀ x ∈ b.bytes, x.1 < 256) ∧
    (∀ idle : Bool, ∃ (s : State) (p n : Nat) (t : TrackEnt), (s.part p).tracker.find? (fun e => e.id == n) = some t ∧ ((s.grp t.g).acc = [] ↔ idle = true) ∧ (s.grp t.g).fence = none ∧ (s.grp t.g).stop = .ended ∧
      ∃ w e, mget? s.groups w = some e ∧ w / 512 = t.block ∧ e.stop ≠ .ended) ∧
    (∀ st : Stop, st = .logWait ∨ st = .running → ∃ (s : State) (cx g : Nat) (x : Group) (f : FaultInfo), s.groups = [(g, x)] ∧ x.ctx = cx ∧ x.waiting = some f ∧ (s.blk (g / 512)).stage = .running ∧ x.stop = st) ∧
    (∃ (s : State) (cx kn : Nat) (k : Kernel), s.kernels = [(kn, k)] ∧ k.ctx = cx ∧ k.cwWaiting = true ∧ k.cwTail = logTail s cx) ∧
    (∃ (s : State) (cx kn : Nat) (k : Kernel) (t : State), s.kernels = [(kn, k)] ∧ k.ctx = cx ∧ k.cwWaiting = true ∧ k.cwTail ≠ logTail s cx ∧
      sysWrite s cx k.cw (toBytes 8 (1 + 2 * k.code.getD 0 + 256 * k.nterm)) = .ok t) ∧
    (∃ (s : State) (cx kn : Nat) (k : Kernel) (e : XFault), s.kernels = [(kn, k)] ∧ k.ctx = cx ∧ k.cwWaiting = true ∧ k.cwTail ≠ logTail s cx ∧
      sysWrite s cx k.cw (toBytes 8 (1 + 2 * k.code.getD 0 + 256 * k.nterm)) = .error e) ∧
    (∃ (s : State) (die : Nat), (s.clock - (s.pkg (die / 2)).resetAt) / 2 ^ 20 ≤ (s.die die).intervals) ∧
    (∃ (s : State) (die i : Nat) (r : Region), (s.die die).intervals < (s.clock - (s.pkg (die / 2)).resetAt) / 2 ^ 20 ∧ mget? (s.die die).regions i = some r ∧ r.wr < 8 ∧ r.na = 64 ∧ 4 * r.na = r.rr) := by
  refine ⟨fun c h => ⟨sWc c, 0, 0, wcBuf, rfl, by simp [sWc, State.part, mget, mget?, wcBuf], rfl, rfl, by decide, by decide, by decide⟩, fun idle => ?_, fun st h => ?_,
    ⟨sCw 6 0x80100, 0, 1, _, rfl, rfl, rfl, by decide +kernel⟩, ?_, ⟨sCw 5 (2 ^ 57), 0, 1, _, ⟨4, flOutside + flWrite⟩, rfl, rfl, rfl, by decide +kernel, by decide +kernel⟩,
    ⟨s0, 0, by decide +kernel⟩, ⟨sIv { rr := 256, na := 64, wr := 7, rd := 2 }, 0, 1, _, by decide +kernel, rfl, by decide, rfl, rfl⟩⟩
  · cases idle
    · exact ⟨{ sWc 1000 with groups := s0.groups ++ [(513, { g0 with idx := 1, stop := .ended, acc := [acc0 .store .waiting] })] }, 0, 9, ⟨9, 1, 513⟩, by decide +kernel, by decide +kernel, by decide +kernel,
        by decide +kernel, 512, g0, rfl, by decide, by decide⟩
    · exact ⟨sWc 1000, 0, 9, ⟨9, 1, 513⟩, by decide +kernel, by decide +kernel, by decide +kernel, by decide +kernel, 512, g0, rfl, by decide, by decide⟩
  · rcases h with rfl | rfl
    · exact ⟨sOf { g0 with stop := .logWait, waiting := some (fi 4) }, 0, 512, _, fi 4, rfl, rfl, rfl, by decide +kernel, rfl⟩
    · exact ⟨sOf { g0 with waiting := some (fi 4) }, 0, 512, _, fi 4, rfl, rfl, rfl, by decide +kernel, rfl⟩
  · have h : (match sysWrite (sCw 5 0x80100) 0 0x80100 (toBytes 8 (1 + 2 * 4 + 256 * 2)) with | .ok _ => true | .error _ => false) = true := by decide +kernel
    match hw : sysWrite (sCw 5 0x80100) 0 0x80100 (toBytes 8 (1 + 2 * 4 + 256 * 2)) with
    | .ok t => exact ⟨sCw 5 0x80100, 0, 1, _, t, rfl, rfl, rfl, by decide +kernel, hw⟩
    | .error _ => rw [hw] at h; exact absurd h (by simp)

/-- R162: the buffer drains 4,096 cycles after its first write. R349: the completion word is 1 + 2 * 4 + 256 * 2. R279: with few writes and 64 of 256 reads not answered, RD grows. -/
theorem test_partition : goes (exec (.wcBufferTimeout 0 0) (sWc 5000)) (fun u => u.mem == [(0x10010, 0xAB), (0x10011, 0xCD)] && (u.part 0).wc == []) = true ∧
    goes (exec (.wcBufferTimeout 0 0) (sWc 4999)) (fun u => decide (u = sWc 4999)) = true ∧
    goes (exec (.trackerEntryRetire 0 9) (sWc 1000)) (fun u => (u.part 0).tracker == []) = true ∧
    goes (exec (.completionWordRetry 0) (sCw 5 0x80100)) (fun u => (cohRead u 0x80100 8 0).1 == [9, 2, 0, 0, 0, 0, 0, 0] && u.kernels.all (fun k => !k.2.cwWaiting)) = true ∧
    goes (exec (.intervalEnd 0) (sIv { rr := 256, na := 64, wr := 7, rd := 2 })) (fun u => (mget? (u.die 0).regions 1) == some { rd := 3, lastRr := 256, lastNa := 64, lastWr := 7 }) = true ∧
    goes (exec (.intervalEnd 0) (sIv { rr := 257, na := 64, wr := 32, rd := 2, floor := 2 })) (fun u => ((mget? (u.die 0).regions 1).map (·.rd)) == some 2) = true := by decide +kernel

/-! ## Witnesses and steps: dispatch -/

/-- A pod with one kernel of `gx` blocks of two groups of 64 registers each, of this cluster shape, queued; nothing is placed. -/
def sDisp (w h gx : Nat) (fused : Bool) : State :=
  let k : Kernel := { groups := 2, gx := gx, cw' := w, ch' := h, fused := fused, scratch := 0x1000, entry := 0x9000, lr := 0x30000, gk := 5,
                      roles := [{}, {}, {}, { vregs := 64 }], queue := 2 }
  { clock := 1000, nextId := 7, kernels := [(1, k)], ctxs := [(0, { queues := [(2, [1])] })], cores := [(0, { tlb := [page0] }), (9, { reservedBy := some 3 })] }
/-- Its block 7 placed on core 4, its clearing over at this cycle. -/
def sPlaced (clearAt : Nat) : State :=
  { sDisp 1 1 2 false with blocks := [(7, { kernel := 1, lin := 1, cores := [4], clearAt := clearAt, local' := [(0, { sb := 0x1000 })] })], nextId := 8 }

/-- Beside it block 8, the first of the kernel, placed on core 5, its clearing over at that cycle, in one cluster with block 7 or in none, in a DET context or not. -/
def sBeside (det cluster : Bool) (clearAt : Nat) : State :=
  let c : Option Nat := if cluster then some 0 else none
  { sDisp 1 1 2 false with
    blocks := [(7, { kernel := 1, lin := 1, cores := [4], clearAt := 1000, cluster := c, crank := 1, local' := [(0, { sb := 0x1000 })] }),
               (8, { kernel := 1, cores := [5], clearAt := clearAt, cluster := c, local' := [(0, { sb := 0x1000 })] })], nextId := 9,
    clusters := if cluster then [(0, { w := 2, h := 1, blocks := [8, 7], cores := [5, 4] })] else [], ctxs := [(0, { queues := [(2, [1])], det := det })] }

theorem witness_BlocksArePlacedAndStart :
    (∃ (s : State) (die cx r : Nat) (p : Option Nat), choose s die cx = some (r, p)) ∧
    (∃ (s : State) (die cx core r : Nat) (p : Option Nat), dispatched s cx = true ∧ (headsOf s cx).all (fun e => afterRes s e.2 == .done) = true ∧ choose s die cx = some (r, p) ∧ (s.krn r).span = 1 ∧
      savedOf s r = [] ∧ dieOfCore core = die ∧ fitsCore s core (s.krn r) (List.range (s.krn r).groups) = true) ∧
    (∀ at' : Nat, at' = 1000 ∨ at' = 1001 → ∃ (s : State) (b core : Nat), (s.blk b).stage = .placed ∧ (s.blk b).cluster = none ∧ (s.blk b).cores = [core] ∧ (s.blk b).clearAt = at' ∧ s.clock = 1000 ∧
      (s.krn (s.blk b).kernel).share (s.ctx (s.blk b).ctx).det 0 = List.range (s.krn (s.blk b).kernel).groups ∧ (s.ctx (s.blk b).ctx).det = false) ∧
    (∃ (s : State) (b core : Nat), (s.blk b).stage = .placed ∧ (s.blk b).cluster = none ∧ (s.blk b).cores = [core] ∧ (s.ctx (s.blk b).ctx).det = true ∧
      ∃ e ∈ s.blocks, e.2.kernel = (s.blk b).kernel ∧ e.2.stage = .placed ∧ e.2.lin < (s.blk b).lin ∧ e.1 ≠ b) ∧
    (∀ late : Bool, ∃ (s : State) (b c : Nat), (s.blk b).stage = .placed ∧ (s.blk b).cluster = some c ∧ (s.ctx (s.blk b).ctx).det = false ∧ 2 ≤ (s.clu c).blocks.length ∧
      ((∃ m ∈ (s.clu c).blocks, s.clock < (s.blk m).clearAt) ↔ late = true)) :=
  ⟨⟨sDisp 1 1 2 false, 0, 0, 1, none, by decide +kernel⟩,
   ⟨sDisp 1 1 2 false, 0, 0, 0, 1, none, by decide +kernel, by decide +kernel, by decide +kernel, by decide +kernel, by decide +kernel, by decide +kernel, by decide +kernel⟩,
   fun at' h => ⟨sPlaced at', 7, 4, rfl, rfl, rfl, rfl, rfl, by rcases h with rfl | rfl <;> decide +kernel, rfl⟩,
   ⟨sBeside true false 1000, 7, 4, rfl, rfl, rfl, rfl, by decide +kernel⟩,
   fun late => ⟨sBeside false true (if late then 1001 else 1000), 7, 0, rfl, rfl, rfl, by cases late <;> decide, by cases late <;> decide +kernel⟩⟩

/-- R148, R149: the block's 4 KiB are cleared in 16 cycles; the core is taken. R10, R203: each group starts with lane numbers in v0 and the record's parameters in g0.d.
R229, R317: it waits for a lower block of its kernel in a DET context, and for the clearing of a block of its cluster, with which it then starts. -/
theorem test_place : goes (exec (.blockPlace 0 0 0) (sDisp 1 1 2 false)) (fun u => (u.blk 7).clearAt == 1016 && (u.blk 7).cores == [0] && ((u.blk 7).loc 0).sb == 0x1000 && (u.krn 1).next == 1 &&
      (u.core 0).tlb == []) = true ∧
    goes (exec (.blockStart 7) (sPlaced 1000)) (fun u => (u.blk 7).stage == .running && u.groups.length == 2 && (u.grp 3585).pc == 0x9000 && (u.grp 3585).rv 0 31 == 31 && (u.grp 3585).rgd 0 == 0x30040 &&
      (u.grp 3585).gsid == 3 && (u.grp 3585).part == 33 && (u.grp 3585).gk == 5 && (u.grp 3585).nv == 64) = true ∧
    exec (.blockStart 7) (sPlaced 1001) = .next (sPlaced 1001) ∧ exec (.blockStart 7) (sBeside true false 1000) = .next (sBeside true false 1000) ∧
    exec (.blockStart 7) (sBeside false true 1001) = .next (sBeside false true 1001) ∧
    goes (exec (.blockStart 7) (sBeside false true 1000)) (fun u => u.groups.map (·.1) == [3584, 3585, 4096, 4097] && (u.blk 8).stage == .running) = true :=
  ⟨by decide +kernel, by decide +kernel, by rfl, by rfl, by rfl, by decide +kernel⟩

/-- A kernel whose one block of 40 groups of 256 registers takes a cluster of two cores. -/
def sWide : State :=
  { sDisp 2 1 1 false with kernels := [(1, { groups := 40, cw' := 2, roles := [{}, {}, {}, { vregs := 256 }], queue := 2 })] }
/-- A block of one group, running or saved, and its kernel. -/
def gSave (stop : Stop) (acc : List Access) : Group := { g0 with stop := stop, acc := acc, startAt := 7 }
def sSave (stage : BlockStage) (stop : Stop) (acc : List Access) : State :=
  { sOf (gSave stop acc) with
    kernels := [(1, { groups := 1, next := 1, roles := [{}, {}, {}, { vregs := 64 }], queue := 2 })],
    blocks := [(1, { kernel := 1, cores := [0], stage := stage, local' := [(0, { sb := 0x4000 })] })], ctxs := [(0, {})] }

theorem witness_ClustersAndPreemption :
    (∀ one ok : Bool, ∃ (s : State) (die cx core r : Nat) (p : Option Nat) (cs : List Nat), choose s die cx = some (r, p) ∧ (s.krn r).span ≠ 1 ∧ savedOf s r = [] ∧ dieOfCore core = die ∧
      rectAt (s.krn r) core = some cs ∧ (s.krn r).oneCore (s.ctx (s.krn r).ctx).det = one ∧ rectFits s (s.krn r) core = ok) ∧
    (∀ t : Nat, t = 0 ∨ t = 1000 ∨ t = 1001 → ∃ (s : State) (die r a : Nat), mget? (s.die die).retry r = some (a, t) ∧ s.clock = 1000) ∧
    (∀ idle : Bool, ∃ (s : State) (g : Nat) (x : Group) (b j : Nat), s.groups = [(g, x)] ∧ g = 512 * b + j ∧ j < 512 ∧ (s.blk b).cluster = none ∧ (s.blk b).stage = .running ∧ x.stop = .running ∧
      x.hold = none ∧ x.hold2 = none ∧ x.fence = none ∧ (x.acc = [] ↔ idle = true) ∧ x.pend = [] ∧ opsOf s b = [] ∧ (s.parts.all (fun p => p.2.tracker.all (fun t => t.block != b))) = true ∧ (s.part x.part).wc = []) ∧
    (∃ (s : State) (g : Nat) (x : Group) (b j die core : Nat) (p : Option Nat), s.groups = [(g, x)] ∧ g = 512 * b + j ∧ j < 512 ∧ (s.blk b).cluster = none ∧ (s.blk b).stage = .saved ∧ x.stop = .saved ∧
      dieOfCore core = die ∧ choose s die (s.blk b).ctx = some ((s.blk b).kernel, p) ∧ (∀ e ∈ savedOf s (s.blk b).kernel, (s.blk b).lin ≤ e.2.lin) ∧ dieFree s die [b] = true ∧
      fitsCore s core (s.krn (s.blk b).kernel) (List.range (s.krn (s.blk b).kernel).groups) = true ∧ j < (s.krn (s.blk b).kernel).groups ∧
      (s.krn (s.blk b).kernel).share (s.ctx (s.blk b).ctx).det 0 = List.range (s.krn (s.blk b).kernel).groups) := by
  refine ⟨fun one ok => ?_, fun t _ => ⟨{ s0 with dies := [(0, { retry := [(1, 2, t)] })] }, 0, 1, 2, rfl, rfl⟩, fun idle => ?_,
    ⟨sSave .saved .saved [], 512, _, 1, 0, 0, 5, none, rfl, rfl, by decide, rfl, rfl, rfl, rfl, by decide +kernel, by decide +kernel, by decide +kernel, by decide +kernel, by decide +kernel, by decide +kernel⟩⟩
  · cases one <;> cases ok
    · exact ⟨sWide, 0, 0, 8, 1, none, [8, 9], by decide +kernel, by decide +kernel, by decide +kernel, by decide, by decide +kernel, by decide +kernel, by decide +kernel⟩
    · exact ⟨sWide, 0, 0, 0, 1, none, [0, 1], by decide +kernel, by decide +kernel, by decide +kernel, by decide, by decide +kernel, by decide +kernel, by decide +kernel⟩
    · exact ⟨sDisp 2 1 2 true, 0, 0, 8, 1, none, [8, 9], by decide +kernel, by decide +kernel, by decide +kernel, by decide, by decide +kernel, by decide +kernel, by decide +kernel⟩
    · exact ⟨sDisp 2 1 2 true, 0, 0, 0, 1, none, [0, 1], by decide +kernel, by decide +kernel, by decide +kernel, by decide, by decide +kernel, by decide +kernel, by decide +kernel⟩
  · cases idle
    · exact ⟨sSave .running .running [acc0 .store .waiting], 512, _, 1, 0, rfl, rfl, by decide, rfl, rfl, rfl, rfl, rfl, rfl, by decide, rfl, by decide +kernel, by decide +kernel, rfl⟩
    · exact ⟨sSave .running .running [], 512, _, 1, 0, rfl, rfl, by decide, rfl, rfl, rfl, rfl, rfl, rfl, by decide, rfl, by decide +kernel, by decide +kernel, rfl⟩

/-- R228, R354: both cores of the fused rectangle are reserved for two blocks at once; a core that is reserved refuses, and the record waits at least 128 cycles. -/
theorem test_cluster : goes (exec (.clusterReserve 0 0 0) (sDisp 2 1 2 true)) (fun u => (u.clu 7).cores == [0, 1] && (u.clu 7).blocks == [8, 9] && (u.core 1).reservedBy == some 7 && (u.blk 9).crank == 1 &&
      (u.blk 9).cores == [1]) = true ∧
    goes (exec (.clusterReserve 0 0 8) (sDisp 2 1 2 true)) (fun u => u.blocks == [] && (match (mget (u.die 0).retry (0, 0) 1) with | (a, t) => a == 1 && 1128 ≤ t && t < 2152)) = true := by decide +kernel
/-- R358, R359: a block without anything to drain is saved, and restored on core 5. -/
theorem test_preempt : goes (exec (.preempt 1) (sSave .running .running [])) (fun u => (u.blk 1).stage == .saved && (u.grp 512).stop == .saved && (u.core 0).tlb == [] && (u.grp 512).rg 2 == 7) = true ∧
    goes (exec (.preempt 1) (sSave .running .running [acc0 .store .waiting])) (fun u => (u.blk 1).stage == .running && (u.grp 512).stop == .saved) = true ∧
    goes (exec (.restore 1 5) (sSave .saved .saved [])) (fun u => (u.blk 1).stage == .running && (u.blk 1).cores == [5] && (u.grp 512).stop == .running && (u.grp 512).part == 40 && (u.grp 512).startAt == 1000 &&
      (u.grp 512).rg 2 == 7 && (u.grp 512).pc == 0x2000) = true := by decide +kernel

/-! ## Witnesses and steps: engines -/

/-- An operation of group 512, and the state whose core 0 holds it in the queue of its class. -/
def anOp (opc cls fn : Nat) (fmt : W32) (started : Bool) (ws : List W32) : EngOp :=
  { id := 5, opc := opc, cls := cls, gid := 512, block := 1, rank := 0, ctx := 0, eng := 0, fn := fn, fmt := fmt, frame := ws, extra := [], st := 40, setk := 1, pc := 0x2000, pos := 0,
    started := started, pieces := [], sent := [], signalled := false, fail := none, units := 0 }
def sOp (o : EngOp) (mem : Cells) (sp : Cells) : State :=
  let c : Core := { tlb := [page0] }
  { sOf { g0 with openSets := [(o.cls, [⟨4, true, 0⟩, ⟨5, false, 0⟩])] } with
    mem := mem
    cores := [(0, if o.cls = 0 then { c with copyQ := [o] } else if o.cls = 1 then { c with mxQ := [o] } else if o.cls = 2 then { c with skQ := [o] } else { c with colQ := [o] })]
    blocks := [(1, { kernel := 1, cores := [0], stage := .running, local' := [(0, { sb := 0x4000, sp := sp })] })] }
/-- A copy of 2 rows of 16 bytes at 0x10000 to 0x100 of scratchpad, with 0xAA at CW 0x80 (or CW nowhere), or of 0 rows; and from an address that no page maps. -/
def copyWords (src rows cw : W32) : List W32 := [src, if src = 0 then 1 <<< 25 else 0, 0x100, 0, 16, rows, 64, 32, 0xFFFFFFFF, cw, 0xAA, 0, 0, 0, 0, 0]
def aCopy (started : Bool) (src rows cw : W32) : EngOp := anOp 0xBA 0 0 0x21 started (copyWords src rows cw)
def sCopy (started : Bool) (src rows cw : W32) : State := sOp (aCopy started src rows cw) (cwrite [] 0x10000 (toBytes 16 0x1122)) []

theorem plainCopy (started : Bool) (src rows cw : W32) : PlainCopy (sCopy started src rows cw) 0 (aCopy started src rows cw) :=
  ⟨rfl, ⟨rfl, rfl, rfl⟩, rfl, ⟨rfl, by rfl⟩, ⟨rfl, rfl⟩, rfl⟩

/-- The operations of the other engines: STOPK of 3 values at 0x40 to 2 pairs at 0x80; MXM of 2 rows, 2 columns and K = 32 of bytes at 0x10000 and 0x11000; CBLD of table 3 from 0x200. -/
def aTopk : EngOp := anOp 0xE4 2 3 0x21 false [0x40, 0, 0x80, 0, 3, 1, 2, 0xFFFFFFFF]
def f32s : List Byte := toBytes 4 0x40000000 ++ toBytes 4 0xC0000000 ++ toBytes 4 0x40000000
def sTopk : State := sOp aTopk [] (cwrite [] 0x40 f32s)
def aMxm (a rep : W32) : EngOp := anOp 0xE8 1 0 0x2641 false [a, if a = 0 then 1 <<< 25 else 0, 0x11000, 0, 0x20002, 0x20002, 32, 0, 0xFFFFFFFF, 3, 0, 0, 0, 0, 0xFFFFFFFF, rep]
def sMxm (a rep : W32) : State :=
  { sOp (aMxm a rep) (cwrite (cwrite tables 0x10000 [2, 0xFF, 3]) 0x11000 [5, 7]) [] with ctxs := [(0, { grants := [(0, 0, 2 ^ 43)], root := 0x200000 })] }
/-- A selection that has computed 72 bytes for 0x80, in the cycle in which it issued or after it. -/
def aPiece (now : Bool) : EngOp := { aTopk with out := some (true, 0x80, toBytes 72 (2 ^ 512 + 7), []), extra := if now then [(4, 1000)] else [] }
def sPiece (now : Bool) : State := sOp (aPiece now) [] (cwrite [] 0x40 f32s)
def aCbld : EngOp := anOp 0xEE 1 1 0x21 false [0x200, 0, 0x103, 0xFFFFFFFF]
def sCbld : State := sOp aCbld [] (cwrite [] 0x200 [1, 2])

theorem plainMatrix (a rep : W32) : PlainMatrix (sMxm a rep) 0 (aMxm a rep) 9 9 :=
  ⟨⟨rfl, rfl, rfl, rfl⟩, by rfl, rfl, ⟨rfl, rfl, by rfl⟩, ⟨rfl, rfl, rfl⟩, ⟨by show (BitVec.extractLsb' 6 4 (0x2641 : W32)).toNat = 9; decide, by show (BitVec.extractLsb' 10 4 (0x2641 : W32)).toNat = 9; decide, by show BitVec.extractLsb' 14 4 (0x2641 : W32) = 0; decide, .inl rfl, .inl rfl⟩, by
    refine ⟨?_, ?_, ?_, ?_, ?_, ?_, ?_, ?_⟩ <;> simp [fw, aMxm, anOp], by simp [fw, aMxm, anOp], rfl⟩

theorem witness_EnginesRunTheirOperations :
    (∀ started : Bool, ∃ (s : State) (core : Nat) (o : EngOp), PlainCopy s core o ∧ o.started = started ∧ (fw o 4 + 255) / 256 * (fw o 5 % 65536) ≠ 0) ∧
    (∃ (s : State) (core : Nat) (o : EngOp), PlainCopy s core o ∧ o.started = false ∧ (fw o 4 + 255) / 256 * (fw o 5 % 65536) = 0) ∧
    (∃ (s : State) (core : Nat) (o : EngOp) (n : Nat) (bs : List Byte), PlainCopy s core o ∧ o.started = true ∧ n + 1 = (fw o 4 + 255) / 256 * (fw o 5 % 65536) ∧ n ∉ o.pieces ∧
      engRead s o core 0x12 (fw2 o 0 + n / ((fw o 4 + 255) / 256) * fw o 6 + 256 * (n % ((fw o 4 + 255) / 256))) (min 256 (fw o 4 - 256 * (n % ((fw o 4 + 255) / 256)))) = .ok bs ∧
      bs.length = min 256 (fw o 4 - 256 * (n % ((fw o 4 + 255) / 256))) ∧
      fw o 2 + n / ((fw o 4 + 255) / 256) * fw o 7 + 256 * (n % ((fw o 4 + 255) / 256)) + min 256 (fw o 4 - 256 * (n % ((fw o 4 + 255) / 256))) ≤ (scratchOfOp s o).sb ∧ fw o 9 = 0xFFFFFFFF) ∧
    (∃ (s : State) (core : Nat) (o : EngOp) (e : Nat), PlainCopy s core o ∧ o.started = true ∧ (fw o 4 + 255) / 256 * (fw o 5 % 65536) = 1 ∧ 0 ∉ o.pieces ∧
      engRead s o core 0x12 (fw2 o 0) (min 256 (fw o 4)) = .error e) ∧
    (∃ (s : State) (core : Nat) (o : EngOp), (s.core core).skQ = [o] ∧ ((s.core core).copyQ = [] ∧ (s.core core).mxQ = [] ∧ (s.core core).colQ = []) ∧ o.opc = 0xE4 ∧ o.fn % 4 = 3 ∧ fw o 5 = 1 ∧
      fw o 7 = 0xFFFFFFFF ∧ (s.ctx o.ctx).det = false ∧ (scratchOfOp s o).tags = [] ∧ (scratchOfOp s o).spBad = [] ∧ fw o 0 + 4 * fw o 4 ≤ (scratchOfOp s o).sb ∧
      fw o 2 + 8 * fw o 6 ≤ (scratchOfOp s o).sb ∧ 0 < fw o 4 ∧ (s.pkg (core / 128)).linkRetrain = false ∧ (o.out = none ∧ o.latch = [] ∧ o.pieces = [] ∧ (4, s.clock) ∉ o.extra) ∧
      ∀ i, i < fw o 4 → (BitVec.ofNat 32 (ofBytes (cread (scratchOfOp s o).sp (fw o 0 + 4 * i) 4))).toNat % 2 ^ 31 ≤ 0x7F800000) ∧
    (∀ now : Bool, ∃ (s : State) (core : Nat) (o : EngOp) (a : Nat) (bytes : List Byte) (regs : List (Nat × Nat)), (s.core core).skQ = [o] ∧
      ((s.core core).copyQ = [] ∧ (s.core core).mxQ = [] ∧ (s.core core).colQ = []) ∧ (s.pkg (core / 128)).linkRetrain = false ∧ (skIssued o = some s.clock ↔ now = true) ∧
      o.out = some (true, a, bytes, regs) ∧ a % 64 = 0 ∧ a + bytes.length ≤ (scratchOfOp s o).sb ∧ (scratchOfOp s o).tags = [] ∧ 64 < bytes.length ∧ o.pieces = []) ∧
    (∃ (s : State) (core : Nat) (o : EngOp) (ca cb : Nat) (A B : Nat → List Byte), PlainMatrix s core o ca cb ∧
      (∀ i, i < fw o 5 % 512 → mxRead s o core (fw2 o 0 + i * (16 * (fw o 4 % 65536))) (fw o 6) = .ok (A i)) ∧
      (∀ j, j < fw o 5 / 65536 → mxRead s o core (fw2 o 2 + j * (16 * (fw o 4 / 65536))) (fw o 6) = .ok (B j)) ∧ fw o 15 = 0xFFFFFFFF ∧ 1 < fw o 5 % 512) ∧
    (∃ (s : State) (core : Nat) (o : EngOp) (ca cb va : Nat) (B : Nat → List Byte), PlainMatrix s core o ca cb ∧ mxRead s o core (fw2 o 0) (fw o 6) = .error (va, 0x11) ∧
      (∀ j, j < fw o 5 / 65536 → mxRead s o core (fw2 o 2 + j * (16 * (fw o 4 / 65536))) (fw o 6) = .ok (B j)) ∧ fw o 15 % 16 = 0 ∧ fw o 15 + 16 = (scratchOfOp s o).sb) ∧
    (∃ (s : State) (core : Nat) (o : EngOp), ((s.core core).mxQ = [o] ∧ (s.core core).copyQ = [] ∧ (s.core core).skQ = [] ∧ (s.core core).colQ = []) ∧ (s.blk o.block).stage = .running ∧ (s.pkg (core / 128)).linkRetrain = false ∧ o.opc = 0xEE ∧
      o.fn % 2 = 1 ∧ (fw o 2).testBit 8 = true ∧ fw o 3 = 0xFFFFFFFF ∧ (scratchOfOp s o).spBad = [] ∧ fw o 0 + 512 ≤ (scratchOfOp s o).sb) := by
  refine ⟨fun started => ⟨_, _, _, plainCopy started 0x10000 2 0xFFFFFFFF, rfl, by simp [fw, aCopy, anOp, copyWords]⟩, ⟨_, _, _, plainCopy false 0x10000 0 0x80, rfl, by decide⟩,
    ⟨_, _, _, 0, toBytes 16 0x1122, plainCopy true 0x10000 1 0xFFFFFFFF, rfl, by decide, by decide, by decide +kernel, by decide, by decide +kernel, by decide⟩,
    ⟨_, _, _, 0x12, plainCopy true 0 1 0xFFFFFFFF, rfl, by decide, by decide, by decide +kernel⟩,
    ⟨sTopk, 0, aTopk, rfl, ⟨rfl, rfl, rfl⟩, rfl, rfl, rfl, rfl, rfl, rfl, rfl, by decide +kernel, by decide +kernel, by decide, rfl, ⟨rfl, rfl, rfl, by decide⟩, by decide +kernel⟩,
    fun now => ⟨sPiece now, 0, aPiece now, 0x80, toBytes 72 (2 ^ 512 + 7), [], by rfl, ⟨by rfl, by rfl, by rfl⟩, by rfl, by cases now <;> decide, rfl, rfl, by show 0x80 + 72 ≤ 0x4000; decide, rfl, by decide, rfl⟩,
    ⟨_, _, _, 9, 9, fun i => if i = 0 then [2, 0xFF, 3] ++ toBytes 29 0 else toBytes 32 0, fun j => if j = 0 then [5, 7] ++ toBytes 30 0 else toBytes 32 0, plainMatrix 0x10000 0xFFFFFFFF,
      by decide +kernel, by decide +kernel, rfl, by decide⟩,
    ⟨_, _, _, 9, 9, 2 ^ 57, fun j => if j = 0 then [5, 7] ++ toBytes 30 0 else toBytes 32 0, plainMatrix 0 0x3FF0, by decide +kernel, by decide +kernel, by decide, by decide⟩,
    ⟨sCbld, 0, aCbld, ⟨rfl, rfl, rfl, rfl⟩, rfl, by rfl, rfl, rfl, by decide, rfl, rfl, by decide⟩⟩

/-- R181: the only row is written at 0x100, CV at CW, and the batch entry is complete; a source that no page maps ends the copy with 0x12; without rows only CV is written. -/
theorem test_copy : goes (exec (.copyPieceWrite 0 5 0) (sCopy true 0x10000 1 0x80)) (fun u => ((u.blk 1).loc 0).sp == [(0x80, 0xAA), (0x100, 0x22), (0x101, 0x11)] && (u.core 0).copyQ == [] &&
      mget (u.grp 512).openSets [] 0 == [⟨4, true, 0⟩, ⟨5, true, 0⟩]) = true ∧
    goes (exec (.copyFaultStop 0 5) (sCopy true 0 1 0x80)) (fun u => ((u.blk 1).loc 0).sp == [] && mget (u.grp 512).openSets [] 0 == [⟨4, true, 0⟩, ⟨5, true, 0x12⟩]) = true ∧
    goes (exec (.copyEngineOpStart 0) (sCopy false 0x10000 0 0x80)) (fun u => ((u.blk 1).loc 0).sp == [(0x80, 0xAA)] && (u.core 0).copyQ == []) = true := by decide +kernel

/-- R222: of 2.0, -2.0, 2.0 the largest two, the lower index first. -/
theorem test_topk : goes (exec (.summaryOpRun ⟨0, 0⟩) sTopk) (fun u => cread ((u.blk 1).loc 0).sp 0x80 16 == toBytes 4 0x40000000 ++ toBytes 4 0 ++ toBytes 4 0x40000000 ++ toBytes 4 2 && (u.core 0).skQ == []) = true := by
  decide +kernel
/-- R200: the computed result is written by aligned pieces of 64 bytes: first the second piece, of 8 bytes; and nothing in the cycle of issue. -/
theorem test_pieces : goes (exec (.summaryOpRun ⟨0, 3⟩) (sPiece false)) (fun u => ((u.blk 1).loc 0).sp == cwrite (cwrite [] 0x40 f32s) 0xC0 [1] && (u.core 0).skQ.map (·.pieces) == [[1]]) = true ∧
    exec (.summaryOpRun ⟨0, 3⟩) (sPiece true) = .next (sPiece true) := ⟨by decide +kernel, by rfl⟩
/-- R49: row 0 of A is 2, -1, 3 and column 0 of B is 5, 7: 10 - 7 = 3 in f32; the others are 0. R253: a row of A that cannot be reached is reported. R259: entry 0 of table 3 is 0x0201. -/
theorem test_mxm : goes (exec (.matrixOpRun ⟨0, 0⟩) (sMxm 0x10000 0xFFFFFFFF)) (fun u => ((u.blk 1).loc 0).acm == [(2, 0x40), (3, 0x40)] && mget (u.grp 512).openSets [] 1 == [⟨4, true, 0⟩, ⟨5, true, 0⟩]) = true ∧
    goes (exec (.matrixOpFault 0) (sMxm 0 0x3FF0)) (fun u => ((u.blk 1).loc 0).acm == [] && cread ((u.blk 1).loc 0).sp 0x3FF0 16 == toBytes 8 0x110000 ++ toBytes 8 (2 ^ 57) &&
      mget (u.grp 512).openSets [] 1 == [⟨4, true, 0⟩, ⟨5, true, 0x11⟩]) = true ∧
    goes (exec (.matrixOpRun ⟨0, 1⟩) (sMxm 0x10000 0xFFFFFFFF)) (fun u => ((u.blk 1).loc 0).acm == [(2, 0x40), (3, 0x40)] && (u.core 0).mxQ.map (·.prog) == [1]) = true ∧
    goes (exec (.matrixOpRun ⟨0, 2⟩) (sMxm 0x10000 0xFFFFFFFF)) (fun u => ((u.blk 1).loc 0).acm == [(2, 0x40), (3, 0x40)] && (u.core 0).mxQ.map (·.prog) == [0]) = true ∧
    goes (exec (.matrixOpRun ⟨0, 0⟩) sCbld) (fun u => mget (u.core 0).codebook 0 768 == 0x0201) = true := by decide +kernel

/-! ## Witnesses and steps: errors, power, links -/

def succeeds {ε α : Type} (x : Except ε α) : Bool :=
  match x with
  | .ok _ => true
  | .error _ => false
theorem okOf {ε α : Type} {x : Except ε α} (h : succeeds x = true) : ∃ t, x = .ok t := by
  cases x with
  | ok t => exact ⟨t, rfl⟩
  | error _ => cases h

/-- A shared line 0x100 whose directory entry names dies 0 and 1, with both copies clean. -/
def aLine (st : LineSt) (b : Byte) : Line := ⟨st, b.zeroExtend 2048, 0, 0, 0, false⟩
def sDir : State :=
  { s0 with mem := [(0x10000, 5)], l2 := [(0x100, aLine .h 5), (2 ^ 42 + 0x100, aLine .s 5)], dir := [(0x100, ⟨.s, 0, false, [1], 0, 1, 0, 0, [], 0⟩)] }
def kSlot (n : Nat) : State := { s0 with pkgs := [(0, { keys := [(n, 0xABC)] })] }
/-- A kernel with scratchpad and accumulators, whose block runs. -/
def sErr : State := { s0 with kernels := [(1, { groups := 4, scratch := 0x4000, acm := 0x4000 })] }

theorem witness_ErrorsPowerAndLinks_errors :
    (∃ (s : State) (g reg lane : Nat) (x : Group), mget? s.groups g = some x ∧ x.live = true ∧ reg < x.nv ∧ lane < 32 ∧ reg < 7) ∧
    (∃ (s : State) (b off : Nat), off < (s.krn (s.blk b).kernel).scratch ∧ off < (s.krn (s.blk b).kernel).acmBytes) ∧
    (∃ x : Nat, 64 * x % 2 ^ 43 < 0xC000000000) ∧
    (∃ (s : State) (p n : Nat) (k : BitVec 512), mget? (s.pkg p).keys n = some k ∧ 0 < n ∧ n < 128) ∧
    (∃ (s : State) (line : Nat), mget? s.dir line = none) ∧
    (∃ (s : State) (line : Nat) (e : DirEnt), mget? s.dir line = some e ∧ e.st = .s ∧ answersOf s line = [] ∧ (∀ d ∈ e.sharers, ∀ l, copyAt s d line = some l → l.dirty = 0) ∧ e.sharers = [1]) :=
  ⟨⟨s0, 512, 6, 31, g0, rfl, rfl, by decide, by decide, by decide⟩, ⟨sErr, 1, 0x3FFF, by decide +kernel, by decide +kernel⟩, ⟨0x2FFFFFFFF, by decide⟩, ⟨kSlot 127, 0, 127, 0xABC, rfl, by decide, by decide⟩,
   ⟨s0, 0x100, rfl⟩, ⟨sDir, 0x100, _, rfl, rfl, rfl, by
      have hs : (⟨.s, 0, false, [1], 0, 1, 0, 0, [], 0⟩ : DirEnt).sharers = [1] := by decide +kernel
      rw [hs]; intro d hd l hl; rw [List.mem_singleton.mp hd] at hl
      have : copyAt sDir 1 0x100 = some (aLine .s 5) := by rfl
      rw [this] at hl; cases hl; rfl, by decide +kernel⟩⟩

/-- R151, R152: counted and saturating; a poisoned register of lane 31 and granule 0xFFF; a double-bit error of the TLB drops the page that covers it. -/
theorem test_sram : goes (exec (.sramSingleBitError 0) { s0 with cores := [(0, { ce := 2 ^ 64 - 1 })] }) (fun u => (u.core 0).ce == 2 ^ 64 - 1) = true ∧
    goes (exec (.sramDoubleBitError (.vreg 512 6 31)) sErr) (fun u => u.me.badV == [223] && u.me.v == g0.v) = true ∧
    goes (exec (.sramDoubleBitError (.qreg 512 6)) sErr) (fun u => u.me.badP == [262]) = true ∧
    goes (exec (.sramDoubleBitError (.scratch 1 0 0x3FFF)) sErr) (fun u => ((u.blk 1).loc 0).spBad == [0xFFF]) = true ∧
    goes (exec (.sramDoubleBitError (.tlb 0 (2 ^ 28 - 1))) sErr) (fun u => (u.core 0).tlb == []) = true ∧
    goes (exec (.sramDoubleBitError (.tlb 0 (2 ^ 28))) sErr) (fun u => (u.core 0).tlb == [page0]) = true := by decide +kernel

/-- R273, R344: a lost entry takes the sharer's copy and leaves the home's; with the line's data lost its four sectors are poisoned; slot 127 becomes invalid. -/
theorem test_memory_errors : goes (exec (.directoryEntryError 0x100 false) sDir) (fun u => u.dir == [] && u.l2.map (·.1) == [0x100] && u.mem == [(0x10000, 5)] && u.badMem == []) = true ∧
    goes (exec (.directoryEntryError 0x100 true) sDir) (fun u => u.dir == [] && (List.range 4).all (fun i => u.badMem.contains (0x400 + i)) && u.badMem.length == 4) = true ∧
    goes (exec (.hbmUncorrectableError 0x2FFFFFFFF) s0) (fun u => u.badMem == [0x2FFFFFFFF]) = true ∧ goes (exec (.hbmUncorrectableError 0x300000000) s0) (fun u => u.badMem == []) = true ∧
    goes (exec (.keySlotError 0 127) (kSlot 127)) (fun u => (u.pkg 0).badKeys == [127]) = true ∧ goes (exec (.hbmCorrectedError 0) s0) (fun u => (u.pkg 0).hbmCe == 1) = true := by decide +kernel

/-- Package 0 at a clock and frequency, with n samples of w watts. -/
def sPow (clock mhz n w calm deg : Nat) : State := { s0 with clock := clock, pkgs := [(0, { mhz := mhz, samples := List.replicate n w, calm := calm, degC := deg, plimit := 2000 })] }

theorem witness_ErrorsPowerAndLinks_power :
    ∀ f : Nat, f = 900 ∨ f = 1100 ∨ f = 1300 → (∀ n, n ≤ 10 → ∃ (s : State) (p : Nat), p < s.packages ∧ (s.pkg p).mhz = f ∧ (s.pkg p).samples.length = n ∧ elapsedUs s p (s.pkg p).time < 100 ∧ (s.pkg p).degC < 100) ∧
      (∀ n, n ≤ 10 → ∃ (s : State) (p : Nat), p < s.packages ∧ (s.pkg p).mhz = f ∧ (s.pkg p).samples.length = n ∧ 100 ≤ elapsedUs s p (s.pkg p).time ∧ 100 ≤ (s.pkg p).degC) ∧
      ∃ (s : State) (p w deg : Nat), p < s.packages ∧ (s.pkg p).mhz = f ∧ (s.pkg p).samples.length = 10 ∧ 100 ≤ elapsedUs s p (s.pkg p).time ∧
        ((s.pkg p).samples.drop 1 ++ [w]).sum / 10 + 100 ≤ (s.pkg p).plimit ∧ (s.pkg p).calm = 99 ∧ deg < 95 := by
  intro f hf
  refine ⟨fun n _ => ⟨sPow (99 * f) f n 0 0 99, 0, by show 0 < 1; decide, rfl, List.length_replicate .., ?_, by show 99 < 100; decide⟩,
    fun n _ => ⟨sPow (100 * f) f n 0 0 100, 0, by show 0 < 1; decide, rfl, List.length_replicate .., ?_, by show 100 ≤ 100; decide⟩,
    ⟨sPow (100 * f) f 10 1900 99 0, 0, 1900, 94, by show 0 < 1; decide, rfl, List.length_replicate .., ?_, by show (List.drop 1 (List.replicate 10 1900) ++ [1900]).sum / 10 + 100 ≤ 2000; decide, rfl, by decide⟩⟩
  · show (99 * f - 0) / f < 100
    rcases hf with rfl | rfl | rfl <;> decide
  · show 100 ≤ (100 * f - 0) / f
    rcases hf with rfl | rfl | rfl <;> decide
  · show 100 ≤ (100 * f - 0) / f
    rcases hf with rfl | rfl | rfl <;> decide

/-- R342: above the limit one step down, at 100 degrees another; ten milliseconds at 1,900 of 2,000 W one step up below 95 degrees; nothing before the tenth sample. -/
theorem test_power : goes (exec (.powerSample 0 2011 99) (sPow 130000 1300 10 2000 50 99)) (fun u => (u.pkg 0).mhz == 1100 && (u.pkg 0).calm == 0 && (u.pkg 0).hdrm == 0) = true ∧
    goes (exec (.powerSample 0 2010 100) (sPow 130000 1300 10 2000 50 99)) (fun u => (u.pkg 0).mhz == 900 && (u.pkg 0).degC == 100) = true ∧
    goes (exec (.powerSample 0 1900 94) (sPow 130000 900 10 1900 99 0)) (fun u => (u.pkg 0).mhz == 1100 && (u.pkg 0).calm == 0 && (u.pkg 0).hdrm == 100) = true ∧
    goes (exec (.powerSample 0 1900 95) (sPow 130000 900 10 1900 99 0)) (fun u => (u.pkg 0).mhz == 900) = true ∧
    goes (exec (.powerSample 0 9999 100) (sPow 130000 1300 8 9999 0 0)) (fun u => (u.pkg 0).mhz == 1300 && (u.pkg 0).samples.length == 9) = true ∧
    goes (exec (.thermalLimit 0) (sPow 0 1300 10 0 7 99)) (fun u => (u.pkg 0).mhz == 1100 && (u.pkg 0).degC == 100) = true := by decide +kernel

/-- A link that retrains over a package whose context has one unfinished kernel with its completion word at 0x80100. -/
def sFatal : State :=
  { s0 with groups := [], blocks := [], kernels := [(1, { cw := 0x80100, nterm := 2 })], mem := tables, pkgs := [(0, { linkRetrain := true })],
            ctxs := [(0, { grants := [(0, 0, 2 ^ 43)], root := 0x200000 })] }
/-- A message of TYPE and CLS from die 0 to die 2 under a reservation, and ports in a state. -/
def aMsg (typ cls : Nat) (rsvd : Bool) : Msg := ⟨typ, 0, 2, cls, false, rsvd, true, 3, 0, none, 2 ^ 43 + 0x10000, 0, 0, [1, 2, 3]⟩
def sPort (clock : Nat) (ps : FMap PortSt) (net : FMap Msg) : State := { s0 with clock := clock, packages := 2, ports := ps, net := net }

theorem witness_ErrorsPowerAndLinks_links :
    (∀ n : Nat, n = 63 ∨ n = 64 → ∃ (s : State) (p d : Nat), (s.pkg p).linkRetrain = false ∧ mget (s.pkg p).fails 0 (d % 2) = n) ∧
    (∃ (s : State) (p cx : Nat) (c : Ctx) (kn : Nat) (k : Kernel) (t : State), (s.pkg p).linkRetrain = true ∧ s.ctxs = [(cx, c)] ∧ c.pkg = p ∧ s.blocks = [] ∧ s.groups = [] ∧ s.kernels = [(kn, k)] ∧
      k.ctx = cx ∧ k.code = none ∧ k.finished = false ∧ k.cw ≠ 0 ∧ sysWrite s cx k.cw (toBytes 8 (1 + 2 * 0x16 + 256 * k.nterm)) = .ok t) ∧
    (∃ (s : State) (port : Nat), mget? s.ports port = none ∧ portLinks s port ≠ []) ∧
    (∃ (s : State) (port t : Nat), mget? s.ports port = some (.retraining t) ∧ elapsedUs s (port / 36) t < 2000) ∧
    (∃ (s : State) (port t id : Nat) (m : Msg), mget? s.ports port = some (.retraining t) ∧ 2000 ≤ elapsedUs s (port / 36) t ∧ s.net = [(id, m)] ∧ m.rsvd = true ∧ m.typ = 0x20 ∧ m.aux < 2 ^ 40 ∧ m.seq = none ∧
      usesPort s port m = true ∧ (∀ c ∈ s.cores, c.2.copyQ = [] ∧ c.2.mxQ = [] ∧ c.2.skQ = [] ∧ c.2.colQ = []) ∧ s.dies = [] ∧ (s.pkg (m.src / 2)).errs.length < 4096) ∧
    (∀ typ cls : Nat, (typ = 0x19 ∧ cls = 0) ∨ (typ = 0x20 ∧ cls = 5) ∨ (typ = 0x20 ∧ cls = 4) → ∃ (s : State) (id : Nat) (m : Msg), mget? s.net id = some m ∧ m.typ = typ ∧ m.cls = cls ∧
      (s.pkg (m.src / 2)).errs.length < 4096) :=
  ⟨fun n _ => ⟨{ s0 with pkgs := [(0, { fails := [(1, n)] })] }, 0, 3, rfl, rfl⟩,
   by obtain ⟨t, h⟩ := okOf (x := sysWrite sFatal 0 0x80100 (toBytes 8 (1 + 2 * 0x16 + 256 * 2))) (by decide +kernel)
      exact ⟨sFatal, 0, 0, _, 1, _, t, rfl, rfl, rfl, rfl, rfl, rfl, rfl, rfl, rfl, by decide, h⟩,
   ⟨sPort 0 [] [], 0, rfl, by decide +kernel⟩, ⟨sPort 2599999 [(0, .retraining 0)] [], 0, 0, rfl, by decide⟩,
   ⟨sPort 2600000 [(2, .retraining 0)] [(9, aMsg 0x20 4 true)], 2, 0, 9, _, rfl, by decide, rfl, rfl, rfl, by decide, rfl, by decide +kernel, by decide, rfl, by decide⟩,
   fun typ cls _ => ⟨sPort 0 [] [(9, aMsg typ cls false)], 9, _, rfl, rfl, rfl, by show 0 < 4096; decide⟩⟩

/-- R329, R344: when the flit that failed has failed 64 replays a retraining begins, and failures of the other direction are another flit's; a failed one ends the contexts, and the completion word is 1 + 2 * 0x16 + 256 * 2. -/
theorem test_die_link : goes (exec (.dieLinkFlitCrcFail ⟨0, 1⟩) { s0 with pkgs := [(0, { fails := [(1, 64)] })] }) (fun u => (u.pkg 0).linkRetrain && (u.pkg 0).fails == []) = true ∧
    goes (exec (.dieLinkFlitCrcFail ⟨0, 0⟩) { s0 with pkgs := [(0, { fails := [(1, 64)] })] }) (fun u => !(u.pkg 0).linkRetrain && (u.pkg 0).fails == [(0, 1), (1, 64)]) = true ∧
    goes (exec (.dieLinkRetrainEnd 0 false) sFatal) (fun u => (cohRead u 0x80100 8 0).1 == [0x2D, 2, 0, 0, 0, 0, 0, 0] && u.ctxs == [] && u.kernels == [] && (u.pkg 0).fatal && !(u.pkg 0).linkRetrain && (u.pkg 0).msi == 1) = true ∧
    goes (exec (.dieLinkRetrainEnd 0 true) sFatal) (fun u => !(u.pkg 0).linkRetrain && u.ctxs.length == 1) = true := by decide +kernel

/-- R379, R380, R387: 2 ms of 1,300 cycles per microsecond; the lost message's entry: address, 3 bytes, TYPE, dies, context, time. -/
theorem test_ports : goes (exec (.ualinkPortRetrain 0) (sPort 7 [] [])) (fun u => u.ports == [(0, .retraining 7)]) = true ∧
    goes (exec (.ualinkPortRetrainEnd 0) (sPort 2599999 [(0, .retraining 0)] [])) (fun u => mget u.ports .up 0 == .up) = true ∧
    goes (exec (.portDown 2) (sPort 2600000 [(2, .retraining 0)] [(9, aMsg 0x20 4 true)])) (fun u => u.net == [] && mget? u.ports 2 == some .down &&
      (u.pkg 0).errs == [toBytes 8 (2 ^ 43 + 0x10000) ++ [3, 0, 0x20, 0, 2, 3] ++ toBytes 8 2600000 ++ toBytes 10 0]) = true ∧
    goes (exec (.reservedMessageDrop 9) (sPort 0 [] [(9, aMsg 0x19 0 false)])) (fun u => u.net == [] && (u.pkg 0).errs.length == 1) = true ∧
    goes (exec (.reservedMessageDrop 9) (sPort 0 [] [(9, aMsg 0x20 4 false)])) (fun u => u.net.length == 1) = true ∧
    goes (exec (.nonWindowRequestDrop 0) s0) (fun u => (u.pkg 0).drops == 1) = true := by decide +kernel

/-! ## Witnesses and steps: the monitor's services and the host -/

/-- A service ring at 0x90000 with CONS 65 and PROD 66, whose next request is that OP with arguments; and what the ring answers with. -/
def reqBytes (op : Nat) (a0 a1 a2 : W64) : List Byte := toBytes 4 op ++ toBytes 4 0xFFFFFFFF ++ toBytes 8 a0.toNat ++ toBytes 8 a1.toNat ++ toBytes 8 a2.toNat
def sRing (op : Nat) (a0 a1 a2 : W64) : State :=
  { s0 with ctxs := [(0, { grants := [(0, 0, 2 ^ 43)], root := 0x200000, svc := 0x90000 })]
            mem := cwrite (cwrite tables 0x90000 (toBytes 4 66 ++ toBytes 4 65)) 0x90060 (reqBytes op a0 a1 a2) }
def ringQ (op : Nat) (a0 a1 a2 : W64) : SvcReq := ⟨.ring 0, op, a0, a1, a2⟩
def twice (x : Except XFault State) (y : State → Except XFault State) (c : State → Bool) : Bool :=
  match x with
  | .ok m => c m && succeeds (y m)
  | .error _ => false
theorem twice_ok {x : Except XFault State} {y : State → Except XFault State} {c : State → Bool} (h : twice x y c = true) : ∃ m t, x = .ok m ∧ y m = .ok t ∧ c m = true := by
  cases x with
  | error _ => cases h
  | ok m =>
    have h' : (c m && succeeds (y m)) = true := h
    rw [Bool.and_eq_true] at h'
    obtain ⟨t, ht⟩ := okOf h'.2
    exact ⟨m, t, rfl, ht, h'.1⟩
def ringGoes (s : State) (cx cons status : Nat) : Bool :=
  twice (sysWrite s cx ((s.ctx cx).svc + 64 + 32 * (cons % 64) + 4) (toBytes 4 status)) (fun m => sysWrite m cx ((m.ctx cx).svc + 4) (toBytes 4 (cons + 1))) (fun m => decide (m.ctx cx = s.ctx cx))
theorem ringAnswered {s : State} {cx cons status : Nat} (h : ringGoes s cx cons status = true) : ∃ t, RingAnswered s cx cons status t := by
  obtain ⟨m, t, h1, h2, h3⟩ := twice_ok h
  exact ⟨t, m, h1, h2, of_decide_eq_true h3⟩
/-- A state with group 0 suspended under SEQ 3, on a core with two translations. -/
def page1 : TlbEnt := ⟨2 ^ 41, 0x1000, 2 ^ 41, true, true, 0, 0, 0⟩
def sSusp : State := { sOf { g0 with stop := .replay 3, waiting := some (fi 4) } with cores := [(0, { tlb := [page0, page1], tlb2 := [page1] })] }
def mailQ (op : Nat) (a0 a1 a2 : W64) : SvcReq := ⟨.mailbox 0, op, a0, a1, a2⟩
/-- The bytes at 0x90064 and 0x90004: STATUS of the request, and CONS. -/
def ringSays (u : State) : List Byte := (cohRead u 0x90064 4 0).1 ++ (cohRead u 0x90004 4 0).1

theorem witness_MonitorServicesAndHostAccesses_ring :
    (∀ op : Nat, op ≤ 10 → ∃ (s : State) (cx cons : Nat) (q : SvcReq), q.src = .ring cx ∧ ringReq s cx = some (cons, q) ∧ q.op = op ∧ q.arg1 = 0 ∧ q.arg2 = 0 ∧
      (∀ e ∈ s.groups, e.2.ctx = cx → e.2.stop ≠ .replay q.arg0.toNat) ∧ ∀ st, st = 1 ∨ st = 2 → ∃ t, RingAnswered s cx cons st t) ∧
    (∃ (s : State) (cx cons : Nat) (q : SvcReq) (t : State), q.src = .ring cx ∧ ringReq s cx = some (cons, q) ∧ q.op = 1 ∧ 1 < q.arg1.toNat ∧ RingAnswered s cx cons 0x102 t) ∧
    (∃ (s : State) (cx : Nat) (q : SvcReq), q.src = .ring cx ∧ ∀ c, ringReq s cx ≠ some (c, q)) ∧
    (∃ (s : State) (p : Nat) (a0 a1 a2 : W64), MailFree s p ∧ a1.toNat ≤ 1 ∧ a2 = 0 ∧ ∀ e ∈ s.groups, e.2.stop ≠ .replay a0.toNat) ∧
    (∀ a1 : W64, a1 = 0 ∨ a1 = 1 → ∃ (s : State) (p : Nat) (a0 a2 : W64) (g : Nat) (x : Group), MailFree s p ∧ a2 = 0 ∧ s.groups = [(g, x)] ∧ x.stop = .replay a0.toNat ∧
      (∃ c, mget? s.ctxs x.ctx = some c ∧ c.pkg = p) ∧ (s.blk (g / 512)).stage = .running) ∧
    (∃ (s : State) (p : Nat) (a0 a1 : W64) (c cx : Nat) (x : Ctx) (e : TlbEnt), MailFree s p ∧ mget? s.ctxs cx = some x ∧ x.pkg = p ∧ (∀ b ∈ blocksOn s c, b.2.ctx = cx) ∧ e ∈ (s.core c).tlb ∧
      a0.toNat + a1.toNat ≤ e.va) := by
  refine ⟨fun op h => ⟨sRing op 3 0 0, 0, 65, ringQ op 3 0 0, rfl, ?_, rfl, rfl, rfl, by show ∀ e ∈ [(512, g0)], e.2.ctx = 0 → e.2.stop ≠ .replay 3; decide, fun st hst => ringAnswered ?_⟩,
    ?_, ⟨sRing 1 3 0 0, 0, ringQ 1 4 0 0, rfl, fun c => ?_⟩,
    ⟨s0, 0, 3, 1, 0, by unfold MailFree; decide +kernel, by decide, rfl, by decide +kernel⟩,
    fun a1 h => ⟨sSusp, 0, 3, 0, 512, _, by unfold MailFree; decide +kernel, rfl, rfl, rfl, ⟨_, rfl, rfl⟩, by decide +kernel⟩,
    ⟨sSusp, 0, 0x1000, 0x1000, 0, 0, _, page1, by unfold MailFree; decide +kernel, rfl, rfl, by decide +kernel, by decide +kernel, by decide⟩⟩
  · revert op; decide +kernel
  · rcases hst with rfl | rfl <;> (revert op; decide +kernel)
  · obtain ⟨t, h⟩ := ringAnswered (s := sRing 1 3 2 0) (cx := 0) (cons := 65) (status := 0x102) (by decide +kernel)
    exact ⟨sRing 1 3 2 0, 0, 65, ringQ 1 3 2 0, t, rfl, by decide +kernel, rfl, by decide, h⟩
  · have h : ringReq (sRing 1 3 0 0) 0 = some (65, ringQ 1 3 0 0) := by decide +kernel
    rw [h]; simp [ringQ]

/-- R338: PLIMIT from the ring is PRIVILEGED, OP 10 gives 1, a REPLAY with ARG1 = 2 gives 0x102, and CONS becomes 66; the mailbox resumes or ends the suspended group. R336: only the
translation within the range goes. -/
theorem test_ring : goes (exec (.svcPlimit (ringQ 7 1500 0 0)) (sRing 7 1500 0 0)) (fun u => ringSays u == toBytes 4 2 ++ toBytes 4 66 && (u.pkg 0).plimit == 2700) = true ∧
    goes (exec (.svcUnknown (ringQ 10 0 0 0)) (sRing 10 0 0 0)) (fun u => ringSays u == toBytes 4 1 ++ toBytes 4 66) = true ∧
    goes (exec (.svcReplay (ringQ 1 3 2 0)) (sRing 1 3 2 0)) (fun u => ringSays u == toBytes 4 0x102 ++ toBytes 4 66) = true ∧
    goes (exec (.svcReplay (ringQ 1 3 0 0)) (sRing 1 3 0 0)) (fun u => ringSays u == toBytes 4 1 ++ toBytes 4 66) = true ∧
    goes (exec (.svcReplay (mailQ 1 3 0 0)) sSusp) (fun u => (u.grp 512).stop == .running && (u.grp 512).pc == 0x2000 && (u.pkg 0).reply == [(0, 0)]) = true ∧
    goes (exec (.svcReplay (mailQ 1 3 1 0)) sSusp) (fun u => u.groups == [] || (u.grp 512).stop == .ended) = true ∧
    goes (exec (.svcReplay (mailQ 1 4 0 0)) sSusp) (fun u => decide (u = told sSusp 0 1 0)) = true ∧
    goes (exec (.svcInval (mailQ 2 (2 ^ 41 + 0xFFF) 1 0)) sSusp) (fun u => (u.core 0).tlb == [page0] && (u.core 0).tlb2 == [] && (u.pkg 0).reply == [(0, 0)]) = true := by decide +kernel

/-- A context image header at 0x70000: ATTR and the last reserved word as given, tables at 0x200000, KEYGRANT of slots 0, 1 and 127, LREC at 0x30000 and one grant of all HBM. -/
def headBytes (attr last : Nat) : List Byte :=
  toBytes 8 0x200000 ++ toBytes 1 0 ++ toBytes 1 attr ++ toBytes 2 0 ++ toBytes 4 77 ++ toBytes 16 (2 ^ 127 + 3) ++ toBytes 8 0x80000 ++ toBytes 8 0x90000 ++ toBytes 8 0x30000 ++ toBytes 8 last ++
    toBytes 8 0 ++ toBytes 8 0xC000000000 ++ toBytes 112 0
/-- With that header, the launch record and its descriptor, and contexts under the ids given. -/
def sStart (attr last : Nat) (ids : List Nat) : State :=
  { s0 with groups := [], blocks := [], kernels := [], ctxs := ids.map (fun i => (i, {}))
            mem := cwrite (cwrite (cwrite tables 0x70000 (headBytes attr last)) 0x30000 (recordBytes 0)) 0x40000 descBytes }
def kStart (s : State) : Option Kernel := rootKernel { s with ctxs := mput s.ctxs 2 (ctxFrom 0 (physRead s 0 0x70000 192 0).1) } 2 0x30000

theorem goodHeader (ids : List Nat) (h : (physRead (sStart 0x27 0 ids) 0 0x70000 192 0).1 = headBytes 0x27 0) :
    GoodHeader (sStart 0x27 0 ids) 0 (physRead (sStart 0x27 0 ids) 0 0x70000 192 0).1 := by
  rw [h]
  exact ⟨by decide +kernel, by decide +kernel, by decide +kernel, by decide +kernel, by decide +kernel, by
    show ∀ i, i < 8 → hf (headBytes 0x27 0) (64 + 16 * i) 8 % 4096 = 0 ∧ hf (headBytes 0x27 0) (72 + 16 * i) 8 % 4096 = 0 ∧ (hf (headBytes 0x27 0) (72 + 16 * i) 8 ≠ 0 →
      hf (headBytes 0x27 0) (64 + 16 * i) 8 + hf (headBytes 0x27 0) (72 + 16 * i) 8 - 1 < 2 ^ 50 ∧ hf (headBytes 0x27 0) (64 + 16 * i) 8 / 2 ^ 43 < 1 ∧
      (hf (headBytes 0x27 0) (64 + 16 * i) 8 + hf (headBytes 0x27 0) (72 + 16 * i) 8 - 1) / 2 ^ 43 < 1)
    decide +kernel⟩

theorem witness_MonitorServicesAndHostAccesses_contexts :
    (∃ (s : State) (p : Nat) (a0 a1 a2 : W64), MailFree s p ∧ ¬ (a1 = 0 ∧ a2 = 0 ∧ a0.toNat % 64 = 0 ∧ a0.toNat + 192 ≤ 0xC000000000)) ∧
    (∀ n : Nat, n = 0 ∨ n = 1 → ∃ (s : State) (p : Nat) (a0 : W64), MailFree s p ∧ (a0.toNat % 64 = 0 ∧ a0.toNat + 192 ≤ 0xC000000000) ∧ (physRead s 0 (p * 2 ^ 43 + a0.toNat) 192 0).2 = false ∧
      hf (physRead s 0 (p * 2 ^ 43 + a0.toNat) 192 0).1 56 8 = n) ∧
    (∃ (s : State) (p : Nat) (a0 : W64), MailFree s p ∧ (a0.toNat % 64 = 0 ∧ a0.toNat + 192 ≤ 0xC000000000) ∧ (physRead s 0 (p * 2 ^ 43 + a0.toNat) 192 0).2 = false ∧
      GoodHeader s p (physRead s 0 (p * 2 ^ 43 + a0.toNat) 192 0).1 ∧ ∀ i, i < 64 → mget? s.ctxs (64 * p + i) ≠ none) ∧
    (∃ (s : State) (p : Nat) (a0 : W64) (i : Nat) (k : Kernel), let h := (physRead s 0 (p * 2 ^ 43 + a0.toNat) 192 0).1
      MailFree s p ∧ (a0.toNat % 64 = 0 ∧ a0.toNat + 192 ≤ 0xC000000000) ∧ (physRead s 0 (p * 2 ^ 43 + a0.toNat) 192 0).2 = false ∧ GoodHeader s p h ∧ i < 64 ∧ mget? s.ctxs (64 * p + i) = none ∧
      (∀ j, j < i → mget? s.ctxs (64 * p + j) ≠ none) ∧ rootKernel { s with ctxs := mput s.ctxs (64 * p + i) (ctxFrom p h) } (64 * p + i) (hf h 48 8) = some k ∧ k.cw = 0) ∧
    (∃ (s : State) (p : Nat) (a0 : W64) (c : Ctx), MailFree s p ∧ a0.toNat < 64 ∧ mget? s.ctxs (64 * p + a0.toNat) = some c ∧ c.pkg = p ∧ s.blocks = [] ∧ s.groups = [] ∧ c.grants = []) ∧
    (∃ (s : State) (p : Nat) (a0 : W64) (c : Ctx) (b : Nat) (x : Group) (bl : Block), MailFree s p ∧ a0.toNat < 64 ∧ mget? s.ctxs (64 * p + a0.toNat) = some c ∧ c.pkg = p ∧ s.groups = [(512 * b, x)] ∧
      s.blocks = [(b, bl)] ∧ bl.ctx = 64 * p + a0.toNat ∧ bl.stage = .running ∧ x.stop = .running ∧ x.hold = none ∧ x.hold2 = none ∧ x.acc ≠ [] ∧ (s.part x.part).wc = []) := by
  have hh : ∀ attr last ids, (physRead (sStart attr last ids) 0 0x70000 192 0) = physRead (sStart attr last []) 0 0x70000 192 0 := fun _ _ _ => rfl
  have h1 : (physRead (sStart 0x27 0 []) 0 0x70000 192 0) = (headBytes 0x27 0, false) := by decide +kernel
  refine ⟨⟨s0, 0, 0x70020, 0, 0, by unfold MailFree; decide +kernel, by decide⟩,
    fun n h => ⟨sStart 0x27 n [], 0, 0x70000, by unfold MailFree; simp [sStart, sOf, s0], by decide, ?_, ?_⟩,
    ⟨sStart 0x27 0 (List.range 64), 0, 0x70000, by unfold MailFree; decide +kernel, by decide, congrArg Prod.snd ((hh 0x27 0 _).trans h1),
      goodHeader _ (congrArg Prod.fst ((hh 0x27 0 _).trans h1)), by decide +kernel⟩, ?_,
    ⟨sStart 0x27 0 [0, 1], 0, 1, {}, by unfold MailFree; decide +kernel, by decide, rfl, rfl, rfl, rfl, rfl⟩,
    ⟨sAcc .store .waiting, 0, 0, _, 1, _, _, by unfold MailFree; decide +kernel, by decide, rfl, rfl, rfl, rfl, rfl, rfl, rfl, rfl, by decide, by decide +kernel⟩⟩
  · rcases h with rfl | rfl <;> decide +kernel
  · rcases h with rfl | rfl <;> decide +kernel
  · have hk : (kStart (sStart 0x27 0 [0, 1])).isSome = true := by decide +kernel
    have hc : (kStart (sStart 0x27 0 [0, 1])).map (·.cw) = some 0 := by decide +kernel
    obtain ⟨k, hk⟩ := Option.isSome_iff_exists.mp hk
    rw [hk] at hc
    refine ⟨sStart 0x27 0 [0, 1], 0, 0x70000, 2, k, by unfold MailFree; decide +kernel, by decide, congrArg Prod.snd ((hh 0x27 0 _).trans h1),
      goodHeader _ (congrArg Prod.fst ((hh 0x27 0 _).trans h1)), by decide, by decide +kernel, by decide +kernel, ?_, Option.some.inj hc⟩
    have h48 : hf (physRead (sStart 0x27 0 [0, 1]) 0 (0 * 2 ^ 43 + (0x70000 : W64).toNat) 192 0).1 48 8 = 0x30000 := by decide +kernel
    rw [h48]; exact hk

/-- R333, R339: the lowest free id is 2; ATTR 0x27 gives DET, a quantum of 2^11 and FSVC 1; KEYGRANT's bit 0 is ignored. A nonzero reserved field, and FSVC 3, are refused. CTXSTOP forgets the
context, or stops the issue of its block. -/
theorem test_contexts : goes (exec (.svcCtxstart (mailQ 3 0x70000 0 0)) (sStart 0x27 0 [0, 1])) (fun u => (u.pkg 0).reply == [(0, 2)] && (u.pkg 0).msi == 1 && u.kernels.length == 1 &&
      (match mget? u.ctxs 2 with
       | some c => c.det && c.quantum == 2048 && c.fsvc == 1 && c.wdog == 77 && c.keyGrant == 1 <<< 127 ||| 2 && c.log == 0x80000 && c.svc == 0x90000 && mget? c.grants 0 == some (0, 0xC000000000)
       | none => false)) = true ∧
    goes (exec (.svcCtxstart (mailQ 3 0x70000 0 0)) (sStart 0x27 1 [])) (fun u => (u.pkg 0).reply == [(0x1D, 0)] && u.ctxs == []) = true ∧
    goes (exec (.svcCtxstart (mailQ 3 0x70000 0 0)) (sStart 0x67 0 [])) (fun u => (u.pkg 0).reply == [(0x1D, 0)]) = true ∧
    goes (exec (.svcCtxstart (mailQ 3 0x70000 0 0)) (sStart 0x27 0 (List.range 64))) (fun u => (u.pkg 0).reply == [(0x101, 0)]) = true ∧
    goes (exec (.svcCtxstart (mailQ 3 0x70020 0 0)) (sStart 0x27 0 [])) (fun u => (u.pkg 0).reply == [(0x102, 0)]) = true ∧
    goes (exec (.svcCtxstop (mailQ 4 1 0 0)) (sStart 0x27 0 [0, 1])) (fun u => mkeys u.ctxs == [0] && (u.pkg 0).reply == [(0, 0)]) = true ∧
    goes (exec (.svcCtxstop (mailQ 4 5 0 0)) (sStart 0x27 0 [0, 1])) (fun u => (u.pkg 0).reply == [(0x100, 0)]) = true ∧
    goes (exec (.svcCtxstop (mailQ 4 0 0 0)) (sAcc .store .waiting)) (fun u => (u.ctx 0).stopping && (u.grp 512).stop == .saved && (u.pkg 0).reply == []) = true := by decide +kernel

/-- Slot 9 with a key, a session, and a line of die 0 under key 9 whose byte 3 is dirty, beside one under key 8. -/
def sKey : State :=
  { s0 with cipher := [(0x400, 2)], pkgs := [(0, { keys := [(8, 1), (9, 2)], sessions := [(5 * 2 ^ 64 + 6, 0x77)] })], l2 := [(0x100, ⟨.h, 0x42 <<< 24, 8, 0, 9, false⟩), (0x101, ⟨.h, 0x43, 1, 0, 8, false⟩)]
            ctxs := [(0, { grants := [(0, 0, 2 ^ 43)], keyGrant := 0x300 })] }

theorem witness_MonitorServicesAndHostAccesses_keys :
    (∃ (s u : State) (p ses han n : Nat) (key : BitVec 512), p < s.packages ∧ exec (.spdmSecureSessionMessage p ses han key) s = .next u ∧ n ≠ 0 ∧ n < 128 ∧ han < 2 ^ 64 ∧ ses < 2 ^ 64 ∧ MailFree u p ∧
      mget? (u.pkg p).keys n = none) ∧
    (∃ (s : State) (p : Nat) (a0 : W64), MailFree s p ∧ 0 < a0.toNat ∧ a0.toNat ≤ 127 ∧ mget? (s.pkg p).keys a0.toNat ≠ none ∧ a0.toNat ∉ (s.pkg p).badKeys) ∧
    (∃ (s : State) (p : Nat) (a0 a1 a2 : W64), MailFree s p ∧ 0 < a0.toNat ∧ a0.toNat ≤ 127 ∧ mget? (s.pkg p).keys a0.toNat = none ∧ mget? (s.pkg p).sessions (a1.toNat * 2 ^ 64 + a2.toNat) = none) ∧
    (∃ (s : State) (p : Nat) (a0 : W64), MailFree s p ∧ 0 < a0.toNat ∧ a0.toNat ≤ 127 ∧ s.dir = [] ∧ (s.l2.map (·.1)).Nodup ∧
      (∀ e ∈ s.l2, e.2.key = a0.toNat → e.1 / 2 ^ 43 = p → e.1 / 2 ^ 42 = homeDie (256 * (e.1 % 2 ^ 42))) ∧ ∃ n l, mget? s.l2 n = some l ∧ n / 2 ^ 43 = p ∧ l.key = a0.toNat ∧ l.dirty ≠ 0) ∧
    (∃ (s : State) (p a : Nat), MailFree s p ∧ a < 512 ∧ mget? s.ctxs (64 * p + a % 64) = none) ∧ (∃ (s : State) (p a : Nat) (c : Ctx), MailFree s p ∧ a < 512 ∧ mget? s.ctxs (64 * p + a % 64) = some c) ∧
    (∃ a : W64, 0x40000000000 ≤ a.toNat ∧ a.toNat + 32 ≤ 2 ^ 43) :=
  ⟨⟨sKey, sKey.modPkg 0 (fun k => { k with sessions := mput k.sessions (sessionKey 5 7) 0x78 }), 0, 5, 7, 127, 0x78, by decide, rfl, by decide, by decide, by decide, by decide, by unfold MailFree; decide +kernel, by decide +kernel⟩,
   ⟨sKey, 0, 9, by unfold MailFree; decide +kernel, by decide, by decide, by decide +kernel, by decide +kernel⟩, ⟨sKey, 0, 1, 5, 7, by unfold MailFree; decide +kernel, by decide, by decide, by decide +kernel, by decide +kernel⟩,
   ⟨sKey, 0, 9, by unfold MailFree; decide +kernel, by decide, by decide, rfl, by decide, by decide +kernel, 0x100, _, rfl, by decide, rfl, by decide⟩,
   ⟨s0, 0, 1, by unfold MailFree; decide +kernel, by decide, rfl⟩, ⟨s0, 0, 0x1C0, _, by unfold MailFree; decide +kernel, by decide, rfl⟩, ⟨0x40000000000, by decide, by decide⟩⟩

/-- R339, R341: KEYLOAD installs the message of session 5, handle 6; an occupied slot gives 0x101, another handle 0x06, slot 128 0x102; KEYCLR writes the dirty byte back and clears the slot and its grant. -/
theorem test_keys : goes (exec (.svcKeyload (mailQ 5 127 5 6)) sKey) (fun u => mget? (u.pkg 0).keys 127 == some 0x77 && (u.pkg 0).reply == [(0, 0)]) = true ∧
    goes (exec (.svcKeyload (mailQ 5 9 5 6)) sKey) (fun u => (u.pkg 0).reply == [(0x101, 0)]) = true ∧ goes (exec (.svcKeyload (mailQ 5 1 5 7)) sKey) (fun u => (u.pkg 0).reply == [(6, 0)]) = true ∧
    goes (exec (.svcKeyload (mailQ 5 128 5 6)) sKey) (fun u => (u.pkg 0).reply == [(0x102, 0)]) = true ∧
    goes (exec (.svcKeyclr (mailQ 6 9 0 0)) sKey) (fun u => mget? (u.pkg 0).keys 9 == none && mget? (u.pkg 0).keys 8 == some 1 && (u.ctx 0).keyGrant == 0x100 && mkeys u.l2 == [0x101] &&
      cget u.mem 0x10003 == 0x42 && (u.pkg 0).reply == [(0, 0)]) = true := by decide +kernel

/-- R339, R340, R342: PLIMIT's range; ATTEST's area must lie in host memory; GRANT 7 of context 0, a window under key 9, and an unknown context. -/
theorem test_services : goes (exec (.svcPlimit (mailQ 7 1000 0 0)) s0) (fun u => (u.pkg 0).plimit == 1000 && (u.pkg 0).reply == [(0, 0)]) = true ∧
    goes (exec (.svcPlimit (mailQ 7 999 0 0)) s0) (fun u => decide (u = told s0 0 0x102 0)) = true ∧ goes (exec (.svcPlimit (mailQ 7 2701 0 0)) s0) (fun u => decide (u = told s0 0 0x102 0)) = true ∧
    goes (exec (.svcAttest (mailQ 8 0x3FFFFFFFFFF 64 0)) s0) (fun u => decide (u = told s0 0 0x102 0)) = true ∧
    goes (exec (.svcGrant (mailQ 9 0x1C0 0x5000 0x1000)) s0) (fun u => mget? (u.ctx 0).grants 7 == some (0x5000, 0x1000) && mget? (u.ctx 0).grants 0 == some (0, 2 ^ 43) && (u.pkg 0).reply == [(0, 0)]) = true ∧
    goes (exec (.svcGrant (mailQ 9 1 0x5000 0x1000)) s0) (fun u => decide (u = told s0 0 0x100 0)) = true ∧ goes (exec (.svcGrant (mailQ 9 0 0x5001 0x1000)) s0) (fun u => decide (u = told s0 0 0x102 0)) = true ∧
    goes (exec (.svcGrant (mailQ 9 (512 + 64 * 2 + 1024 * 9) 0x5000 0x1000)) s0) (fun u => mget? (u.pkg 0).windows 2 == some ⟨0x5000, 0x1000, 9⟩) = true ∧
    goes (exec (.svcUnknown (mailQ 0 1 2 3)) s0) (fun u => decide (u = told s0 0 1 0)) = true := by decide +kernel

/-- A window of 0x1000 bytes at 0x10000 under key 9; a byte of HBM and one of host memory. -/
def sWin : State := { s0 with pkgs := [(0, { keys := [(9, 2)], windows := [(3, ⟨0x10000, 0x1000, 9⟩)] })], mem := [(0x10FFF, 5), (0x40000000001, 6)] }
theorem witness_MonitorServicesAndHostAccesses_host :
    (∃ (s : State) (p pa n : Nat), p < s.packages ∧ (∀ w ∈ (s.pkg p).windows, ¬ (w.2.base ≤ pa ∧ pa + n ≤ w.2.base + w.2.len)) ∧ (s.pkg p).windows ≠ []) ∧
    (∃ (s : State) (p pa n i : Nat) (w : CxlWin), p < s.packages ∧ (s.pkg p).windows = [(i, w)] ∧ w.base ≤ pa ∧ pa + n = w.base + w.len ∧ mget? (s.pkg p).keys w.key ≠ none ∧ w.key ∉ (s.pkg p).badKeys) ∧
    (∃ (s : State) (p pa n : Nat), p < s.packages ∧ 0x40000000000 = pa ∧ 0 < n ∧ pa + n ≤ 2 ^ 43 ∧ s.l2 = [] ∧ s.dir = [] ∧ s.victims = [] ∧ s.cipher = [] ∧ ∀ e ∈ s.groups, e.2.hold = none ∧ e.2.hold2 = none) :=
  ⟨⟨sWin, 0, 0x10FFF, 2, by decide, by decide +kernel, by decide +kernel⟩, ⟨sWin, 0, 0x10FFF, 1, 3, _, by decide, rfl, by decide, rfl, by decide +kernel, by decide +kernel⟩,
   ⟨sWin, 0, 0x40000000000, 2, by decide, rfl, by decide, by decide, rfl, rfl, rfl, rfl, by decide +kernel⟩⟩
/-- R340: one byte past the window is all ones, and a write there is dropped; the last byte of the window is written under its key. R178: the host's own write stands in its memory. -/
theorem test_host : goes (exec (.cxlMemAccess ⟨0, 0x10FFF, 2, none⟩) sWin) (fun u => (u.pkg 0).hostData == [0xFF, 0xFF] && (u.pkg 0).rejects == 1) = true ∧
    goes (exec (.cxlMemAccess ⟨0, 0x11000, 0, some [7]⟩) sWin) (fun u => u.mem == sWin.mem && (u.pkg 0).rejects == 1) = true ∧
    goes (exec (.cxlMemAccess ⟨0, 0x10FFF, 0, some [7]⟩) { sWin with cipher := [(0x43C, 2), (0x43D, 2), (0x43E, 2), (0x43F, 2)] }) (fun u => (physRead u 0 0x10FFF 1 9).1 == [7] && (u.pkg 0).rejects == 0) = true ∧
    goes (exec (.cxlCacheSnoop ⟨0, 0x40000000000, 2, none⟩) sWin) (fun u => (u.pkg 0).hostData == [0, 6]) = true ∧
    goes (exec (.cxlCacheSnoop ⟨0, 0x40000000000, 0, some [1, 2]⟩) sWin) (fun u => cget u.mem 0x40000000000 == 1 && cget u.mem 0x40000000001 == 2) = true ∧
    goes (exec (.cxlCacheSnoop ⟨0, 0x3FFFFFFFFFF, 2, none⟩) sWin) (fun u => decide (u = sWin)) = true := by decide +kernel

/-- R331: the AES-256 example of FIPS 197, appendix C.3 (key 00 to 1f), both ways. -/
theorem test_aes : aesEnc (roundKeys (List.range 32)) ((List.range 16).map (17 * ·)) =
      [0x8e, 0xa2, 0xb7, 0xca, 0x51, 0x67, 0x45, 0xbf, 0xea, 0xfc, 0x49, 0x90, 0x4b, 0x49, 0x60, 0x89] ∧
    aesDec (roundKeys (List.range 32)) [0x8e, 0xa2, 0xb7, 0xca, 0x51, 0x67, 0x45, 0xbf, 0xea, 0xfc, 0x49, 0x90, 0x4b, 0x49, 0x60, 0x89] = (List.range 16).map (17 * ·) := by decide +kernel

/-! ## Witnesses and steps: coherence messages and far accesses -/

/-- A message about line 0x100 (home die 0) with AUX, mask and bytes, and a state with it under number 9, an entry of the directory or none, and lines of the L2. -/
def cMsg (typ src dst aux : Nat) (mask : BitVec 256) (data : List Byte) : Msg := ⟨typ, src, dst, 0, false, false, false, 0, 5, none, 0x10000, aux, mask, data⟩
def sMsg (m : Msg) (e : Option DirEnt) (l2 : FMap Line) : State :=
  { s0 with packages := 2, net := [(9, m)], nextId := 20, mem := [(0x10000, 5)], l2 := l2
            dir := match e with
              | some e => [(0x100, e)]
              | none => [] }
def ent (st : DirSt) (own : Nat) (ptrs : List Nat) (xf : Nat) (holders : List (Nat × BitVec 256)) : DirEnt := ⟨st, own, false, ptrs, 0, ptrs.length, xf, 0, holders, 0⟩
/-- The messages that are new: TYPE and destination. -/
def sends (u : State) : List (Nat × Nat) := (u.net.filter (fun e => 20 ≤ e.1)).map (fun e => (e.2.typ, e.2.dst))
/-- A whole line whose byte 0 is b. -/
def lineOne (b : Nat) : List Byte := toBytes 256 b

theorem entAt (typ src dst aux : Nat) (mask : BitVec 256) (data : List Byte) (e : DirEnt) (l2 : FMap Line) :
    mget? (sMsg (cMsg typ src dst aux mask data) (some e) l2).dir ((cMsg typ src dst aux mask data).addr / 256) = some e := by
  show mget? [(0x100, e)] (0x10000 / 256) = some e
  simp [mget?]

/-- Where no transaction is open and no die has a copy, the home takes a message of every key. -/
theorem atHome_of_no_copies {s : State} {id typ : Nat} {m : Msg} (comes : arriving s id typ = some m) (hb : s.busy = []) (hl : s.l2 = []) (hv : s.victims = [])
    (hd : s.dir.length < 16) : AtHome s id typ m where
  comes := comes
  idle := by simp [hb, mget?]
  key l h := by simp [hl, mget?] at h
  copies e d l _ _ h := by simp [copyAt, hl, hv, mget?] at h
  room := Nat.lt_of_le_of_lt (List.length_filter_le ..) hd

theorem witness_CoherenceAndFarAccessMessages_home :
    (∃ (s : State) (id : Nat) (m : Msg), arriving s id 1 = some m ∧ mget? s.busy (m.addr / 256) ≠ none) ∧
    (∃ (s : State) (id : Nat) (m : Msg), arriving s id 1 = some m ∧ mget? s.busy (m.addr / 256) = none ∧ mget? s.dir (m.addr / 256) = none ∧ 16 ≤ setSize s (m.addr / 256) ∧ 0 < replicaLimit s m ∧
      m.addr % 256 = 0 ∧ id < s.nextId) ∧
    (∀ hint : Nat, hint = 0 ∨ hint = 3 → ∃ (s : State) (id : Nat) (m : Msg), AtHome s id 1 m ∧ m.aux % 16 = hint ∧ m.addr % 256 = 0 ∧ mget? s.dir (m.addr / 256) = none ∧ (replicaLimit s m = 0 ↔ hint = 0)) ∧
    (∀ hint : Nat, hint = 0 ∨ hint = 3 → ∃ (s : State) (id : Nat) (m : Msg) (e : DirEnt), AtHome s id 1 m ∧ m.aux % 16 = hint ∧ m.addr % 256 = 0 ∧ mget? s.dir (m.addr / 256) = some e ∧ e.st = .s ∧ e.cm = false ∧
      m.src ∉ e.ptrs ∧ e.ptrs.length < 4 ∧ e.cnt = 3 ∧ (e.cnt < replicaLimit s m ↔ hint = 3)) ∧
    (∀ st : DirSt, st = .em ∨ st = .o ∨ st = .p → ∃ (s : State) (id : Nat) (m : Msg) (e : DirEnt), AtHome s id 1 m ∧ m.aux % 16 < 8 ∧ m.addr % 256 = 0 ∧ mget? s.dir (m.addr / 256) = some e ∧ e.st = st) ∧
    (∀ typ : Nat, typ = 2 ∨ typ = 3 ∨ typ = 4 → (∃ (s : State) (id : Nat) (m : Msg), AtHome s id typ m ∧ mget? s.dir (m.addr / 256) = none) ∧
      (∃ (s : State) (id : Nat) (m : Msg) (e : DirEnt), AtHome s id typ m ∧ mget? s.dir (m.addr / 256) = some e ∧ e.st = .s ∧ e.cm = false ∧ e.ptrs = [m.src]) ∧
      (∃ (s : State) (id : Nat) (m : Msg) (e : DirEnt), AtHome s id typ m ∧ mget? s.dir (m.addr / 256) = some e ∧ e.st = .s ∧ invalidated s e (homeDie (256 * (m.addr / 256))) m.src ≠ []) ∧
      (∀ cm : Bool, ∃ (s : State) (id : Nat) (m : Msg) (e : DirEnt), AtHome s id typ m ∧ mget? s.dir (m.addr / 256) = some e ∧ e.st = .s ∧ e.cm = cm ∧ invalidated s e (homeDie (256 * (m.addr / 256))) m.src = []) ∧
      (∀ xf, xf = 2 ∨ xf = 3 → ∃ (s : State) (id : Nat) (m : Msg) (e : DirEnt), AtHome s id typ m ∧ mget? s.dir (m.addr / 256) = some e ∧ e.st = .em ∧ e.own ≠ m.src ∧ e.xf = xf) ∧
      (∃ (s : State) (id : Nat) (m : Msg) (e : DirEnt), AtHome s id typ m ∧ mget? s.dir (m.addr / 256) = some e ∧ e.st = .o ∧ e.cm = false ∧ e.own ≠ m.src) ∧
      (∃ (s : State) (id : Nat) (m : Msg) (e : DirEnt), AtHome s id typ m ∧ mget? s.dir (m.addr / 256) = some e ∧ e.st = .p ∧ (∃ h ∈ e.holders, h.1 = m.src) ∧ (∀ h ∈ e.holders, h.1 ≠ m.src → h.2 &&& m.mask = 0) ∧
        e.holders.length < 4)) ∧
    (∀ typ : Nat, typ = 5 ∨ typ = 6 → ∀ st : DirSt, st = .em ∨ st = .s ∨ st = .o ∨ st = .p → ∃ (s : State) (id : Nat) (m : Msg) (e : DirEnt), AtHome s id typ m ∧ mget? s.dir (m.addr / 256) = some e ∧ e.st = st ∧
      e.own = m.src ∧ e.cm = false ∧ m.src ∈ e.ptrs ∧ (∃ h ∈ e.holders, h.1 = m.src) ∧ (∃ h ∈ e.holders, h.1 ≠ m.src) ∧ m.mask ≠ 0) ∧
    (∃ (s : State) (id : Nat) (m : Msg), arriving s id 0x12 = some m) := by
  refine ⟨⟨{ sMsg (cMsg 1 1 0 0 0 []) none [] with busy := [(0x100, ⟨0, 5, 1, 2, 0, [3], false, false⟩)] }, 9, cMsg 1 1 0 0 0 [], by decide +kernel, by decide⟩,
    ⟨{ sMsg (cMsg 1 1 0 3 0 []) none [] with dir := (List.range 16).map (fun k => (0x100 + 2 ^ 18 * (k + 1), ent .s 0 [1] 0 [])) }, 9, cMsg 1 1 0 3 0 [], by decide +kernel⟩,
    fun hint h => ⟨sMsg (cMsg 1 1 0 hint 0 []) none [], 9, _, atHome_of_no_copies (typ := 1) (m := cMsg 1 1 0 hint 0 []) ?_ rfl rfl rfl (Nat.le_of_ble_eq_true rfl), ?_, (by show 0x10000 % 256 = 0; decide), rfl, ?_⟩,
    fun hint h => ⟨sMsg (cMsg 1 1 0 hint 0 []) (some (ent .s 0 [2, 3, 4] 0 [])) [], 9, _, ent .s 0 [2, 3, 4] 0 [], atHome_of_no_copies (typ := 1) (m := cMsg 1 1 0 hint 0 []) ?_ rfl rfl rfl (Nat.le_of_ble_eq_true rfl), ?_, (by show 0x10000 % 256 = 0; decide), entAt .., rfl, rfl, (by show 1 ∉ [2, 3, 4]; decide), by decide, rfl, ?_⟩,
    fun st h => ⟨sMsg (cMsg 1 1 0 7 0 []) (some (ent st 2 [] 0 [(2, 1)])) [], 9, _, ent st 2 [] 0 [(2, 1)], atHome_of_no_copies (typ := 1) (m := cMsg 1 1 0 7 0 []) ?_ rfl rfl rfl (Nat.le_of_ble_eq_true rfl), by decide, (by show 0x10000 % 256 = 0; decide), entAt .., rfl⟩,
    fun typ h => ⟨⟨sMsg (cMsg typ 1 0 0 6 []) none [], 9, _, atHome_of_no_copies (typ := typ) (m := cMsg typ 1 0 0 6 []) ?_ rfl rfl rfl (Nat.le_of_ble_eq_true rfl), rfl⟩,
      ⟨sMsg (cMsg typ 1 0 0 6 []) (some (ent .s 0 [1] 0 [])) [], 9, _, ent .s 0 [1] 0 [], atHome_of_no_copies (typ := typ) (m := cMsg typ 1 0 0 6 []) ?_ rfl rfl rfl (Nat.le_of_ble_eq_true rfl), entAt .., rfl, rfl, rfl⟩,
      ⟨sMsg (cMsg typ 1 0 0 6 []) (some (ent .s 0 [1, 2] 0 [])) [], 9, _, ent .s 0 [1, 2] 0 [], atHome_of_no_copies (typ := typ) (m := cMsg typ 1 0 0 6 []) ?_ rfl rfl rfl (Nat.le_of_ble_eq_true rfl), entAt .., rfl, ?_⟩,
      fun cm => ⟨{ sMsg (cMsg typ 1 0 0 6 []) (some { ent .s 0 [1] 0 [] with cm := cm, coarse := 1 }) [] with packages := 1 }, 9, _, { ent .s 0 [1] 0 [] with cm := cm, coarse := 1 },
        atHome_of_no_copies (typ := typ) (m := cMsg typ 1 0 0 6 []) ?_ rfl rfl rfl (Nat.le_of_ble_eq_true rfl), (by show mget? [(0x100, _)] (0x10000 / 256) = _; simp [mget?]), rfl, rfl, ?_⟩,
      fun xf hx => ⟨sMsg (cMsg typ 1 0 0 6 []) (some (ent .em 2 [] xf [])) [], 9, _, ent .em 2 [] xf [], atHome_of_no_copies (typ := typ) (m := cMsg typ 1 0 0 6 []) ?_ rfl rfl rfl (Nat.le_of_ble_eq_true rfl), entAt .., rfl, (by show 2 ≠ 1; decide), rfl⟩,
      ⟨sMsg (cMsg typ 1 0 0 6 []) (some (ent .o 2 [3] 0 [])) [], 9, _, ent .o 2 [3] 0 [], atHome_of_no_copies (typ := typ) (m := cMsg typ 1 0 0 6 []) ?_ rfl rfl rfl (Nat.le_of_ble_eq_true rfl), entAt .., rfl, rfl, (by show 2 ≠ 1; decide)⟩,
      ⟨sMsg (cMsg typ 1 0 0 6 []) (some (ent .p 0 [] 0 [(1, 2), (3, 8)])) [], 9, _, ent .p 0 [] 0 [(1, 2), (3, 8)], atHome_of_no_copies (typ := typ) (m := cMsg typ 1 0 0 6 []) ?_ rfl rfl rfl (Nat.le_of_ble_eq_true rfl), entAt .., rfl, ⟨(1, 2), by decide, rfl⟩,
        (by show ∀ h ∈ [((1 : Nat), (2 : BitVec 256)), (3, 8)], h.1 ≠ 1 → h.2 &&& 6 = 0; decide), (by show 2 < 4; decide)⟩⟩,
    fun typ h st hs => ⟨sMsg (cMsg typ 1 0 0 1 (lineOne 7)) (some (ent st 1 [1, 2] 0 [(1, 1), (2, 4)])) [], 9, _, ent st 1 [1, 2] 0 [(1, 1), (2, 4)], atHome_of_no_copies (typ := typ) (m := cMsg typ 1 0 0 1 (lineOne 7)) ?_ rfl rfl rfl (Nat.le_of_ble_eq_true rfl), entAt .., rfl, rfl, rfl,
      List.mem_cons_self, ⟨(1, 1), List.mem_cons_self, rfl⟩, ⟨(2, 4), List.mem_cons_of_mem _ List.mem_cons_self, (by show 2 ≠ 1; decide)⟩, (by show (1 : BitVec 256) ≠ 0; decide)⟩,
    ⟨sMsg (cMsg 0x12 0 1 0 0 []) none [], 9, cMsg 0x12 0 1 0 0 [], by decide +kernel⟩⟩
  all_goals first
    | (rcases h with rfl | rfl | rfl <;> cases cm <;> decide +kernel)
    | (rcases h with rfl | rfl <;> decide +kernel)
    | (rcases h with rfl | rfl | rfl <;> decide +kernel)
    | (rcases h with rfl | rfl | rfl <;> rcases hx with rfl | rfl <;> decide +kernel)
    | (rcases h with rfl | rfl <;> rcases hs with rfl | rfl | rfl | rfl <;> decide +kernel)

/-- R270, R277: DataS below the limit 4 of hint 3, DataSN at the limit 0; the third sharer's limit is 4; an owner is snooped. -/
theorem test_reqs : goes (exec (.msgReqs 9) (sMsg (cMsg 1 1 0 3 0 []) none [])) (fun u => sends u == [(0x0E, 1)] && (mget? u.dir 0x100).map (fun e => (e.st, e.ptrs, e.cnt)) == some (.s, [1], 1) &&
      (mget? u.net 20).map (·.data.head?) == some (some 5)) = true ∧
    goes (exec (.msgReqs 9) (sMsg (cMsg 1 1 0 0 0 []) none [])) (fun u => sends u == [(0x0F, 1)] && u.dir == []) = true ∧
    goes (exec (.msgReqs 9) (sMsg (cMsg 1 1 0 3 0 []) (some (ent .s 0 [2, 3, 4] 0 [])) [])) (fun u => sends u == [(0x0E, 1)] && (mget? u.dir 0x100).map (·.cnt) == some 4) = true ∧
    goes (exec (.msgReqs 9) (sMsg (cMsg 1 1 0 0 0 []) (some (ent .s 0 [2, 3, 4] 0 [])) [])) (fun u => sends u == [(0x0F, 1)] && (mget? u.dir 0x100).map (·.ptrs) == some [2, 3, 4]) = true ∧
    goes (exec (.msgReqs 9) (sMsg (cMsg 1 1 0 7 0 []) (some (ent .o 2 [] 0 [])) [])) (fun u => sends u == [(7, 2)] && (mget? u.busy 0x100).map (·.waits) == some [2]) = true ∧
    goes (exec (.msgReqs 9) (sMsg (cMsg 1 1 0 7 0 []) (some (ent .p 0 [] 0 [(2, 1), (3, 6)])) [])) (fun u => sends u == [(0x0A, 2), (0x0A, 3)]) = true := by decide +kernel

/-- R270, R275, R276: ownership from I with data, to the only sharer's Upg without; other sharers are invalidated; the third transfer asks for the mask; a free mask grows, a taken one merges. -/
theorem test_reqw : goes (exec (.msgReqx 9) (sMsg (cMsg 2 1 0 0 6 []) none [])) (fun u => sends u == [(0x10, 1)] && (mget? u.dir 0x100).map (fun e => (e.st, e.own)) == some (.em, 1) && (mget? u.net 20).map (·.data.head?) == some (some 5)) = true ∧
    goes (exec (.msgUpg 9) (sMsg (cMsg 3 1 0 0 6 []) (some (ent .s 0 [1] 0 [])) [])) (fun u => sends u == [(0x10, 1)] && (mget? u.net 20).map (·.data) == some []) = true ∧
    goes (exec (.msgUpg 9) (sMsg (cMsg 3 1 0 0 6 []) (some (ent .s 0 [1, 2, 3] 0 [])) [])) (fun u => sends u == [(0x0B, 2), (0x0B, 3)] && (mget? u.busy 0x100).map (·.waits) == some [2, 3]) = true ∧
    goes (exec (.msgReqx 9) (sMsg (cMsg 2 1 0 0 6 []) (some (ent .em 2 [] 2 [])) [])) (fun u => sends u == [(8, 2)]) = true ∧
    goes (exec (.msgReqx 9) (sMsg (cMsg 2 1 0 0 6 []) (some (ent .em 2 [] 3 [])) [])) (fun u => sends u == [(9, 2)] && (mget? u.busy 0x100).map (fun t => (t.probe, t.mask)) == some (true, 6)) = true ∧
    goes (exec (.msgReqx 9) (sMsg (cMsg 2 1 0 0 6 []) (some (ent .o 2 [3] 0 [])) [])) (fun u => sends u == [(0x0B, 3), (8, 2)]) = true ∧
    goes (exec (.msgPext 9) (sMsg (cMsg 4 1 0 0 6 []) (some (ent .p 0 [] 0 [(1, 2), (3, 8)])) [])) (fun u => sends u == [(0x11, 1)] && (mget? u.dir 0x100).map (·.holders) == some [(1, 6), (3, 8)]) = true ∧
    goes (exec (.msgPext 9) (sMsg (cMsg 4 1 0 0 6 []) (some (ent .p 0 [] 0 [(1, 2), (3, 4)])) [])) (fun u => sends u == [(0x0A, 1), (0x0A, 3)]) = true := by decide +kernel

/-- R271, R272: the owner's EvD brings byte 0 home; a notice from a die that is no holder is only acknowledged; one of two holders of a privatised line leaves. -/
theorem test_evict : goes (exec (.msgEvd 9) (sMsg (cMsg 6 1 0 0 1 (lineOne 7)) (some (ent .em 1 [] 0 [])) [])) (fun u => sends u == [(0x12, 1)] && u.dir == [] &&
      (mget? u.l2 0x100).map (fun l => (lineByte l.data 0, l.dirty)) == some (7, 1)) = true ∧
    goes (exec (.msgEvd 9) (sMsg (cMsg 6 1 0 0 1 (lineOne 7)) (some (ent .em 2 [] 0 [])) [])) (fun u => sends u == [(0x12, 1)] && u.l2 == [] && u.dir.length == 1) = true ∧
    goes (exec (.msgEvn 9) (sMsg (cMsg 5 1 0 0 0 []) (some (ent .s 0 [1, 2] 0 [])) [])) (fun u => (mget? u.dir 0x100).map (fun e => (e.ptrs, e.cnt)) == some ([2], 1)) = true ∧
    goes (exec (.msgEvn 9) (sMsg (cMsg 5 1 0 0 0 []) (some (ent .p 0 [] 0 [(1, 1), (2, 4)])) [])) (fun u => (mget? u.dir 0x100).map (·.holders) == some [(2, 4)]) = true ∧
    goes (exec (.msgEvack 9) { sMsg (cMsg 0x12 0 1 0 0 []) none [] with victims := [(2 ^ 42 + 0x100, aLine .m 5)] }) (fun u => u.victims == [] && u.net == []) = true := by decide +kernel

/-- A line of die 1 with a dirty byte 0, or clean. -/
def dLine (dirty : Bool) : FMap Line := [(2 ^ 42 + 0x100, { aLine .m 7 with dirty := if dirty then 1 else 0 })]
theorem dLineAt (dirty : Bool) : mget? (dLine dirty) (atDie 1 (0x10000 / 256)) = some { aLine .m 7 with dirty := if dirty then 1 else 0 } := by
  cases dirty <;> decide +kernel
/-- The home waits for dies in a transaction of a type for die 3, with mask 6. -/
def sTxn (m : Msg) (e : DirEnt) (typ : Nat) (waits : List Nat) (probe : Bool) : State := { sMsg m (some e) [] with busy := [(0x100, ⟨0, 5, typ, 3, 6, waits, probe, false⟩)] }

theorem witness_CoherenceAndFarAccessMessages_dies :
    (∀ typ ∈ [7, 8, 9, 0x0A, 0x0B], (∀ dirty : Bool, ∃ (s : State) (id : Nat) (m : Msg) (l : Line), arriving s id typ = some m ∧ dataComing s m.dst (m.addr / 256) = false ∧
        mget? s.l2 (atDie m.dst (m.addr / 256)) = some l ∧ (l.dirty = 0 ↔ dirty = false)) ∧
      (∃ (s : State) (id : Nat) (m : Msg) (l : Line), arriving s id typ = some m ∧ dataComing s m.dst (m.addr / 256) = false ∧ mget? s.l2 (atDie m.dst (m.addr / 256)) = none ∧
        mget? s.victims (atDie m.dst (m.addr / 256)) = some l ∧ atDie m.dst (m.addr / 256) ∉ s.spent) ∧
      (∃ (s : State) (id : Nat) (m : Msg), arriving s id typ = some m ∧ dataComing s m.dst (m.addr / 256) = false ∧ mget? s.l2 (atDie m.dst (m.addr / 256)) = none ∧
        atDie m.dst (m.addr / 256) ∈ s.spent) ∧
      (∃ (s : State) (id : Nat) (m : Msg), arriving s id typ = some m ∧ dataComing s m.dst (m.addr / 256) = true)) ∧
    (∀ typ tt : Nat, typ = 0x0C ∨ typ = 0x0D → tt = 1 ∨ tt = 2 → ∀ ws : List Nat, ws = [1] ∨ ws = [1, 2] → ∃ (s : State) (id : Nat) (m : Msg) (t : Txn) (e : DirEnt), arriving s id typ = some m ∧
      mget? s.busy (m.addr / 256) = some t ∧ m.src ∈ t.waits ∧ s.l2 = [] ∧ m.aux / 16 = t.req ∧ s.dir.length < 16 ∧ t.probe = false ∧ t.typ = tt ∧ t.waits = ws ∧ m.last = false ∧ t.evict = false ∧ t.from' ≠ homeDie (256 * (m.addr / 256)) ∧
      mget? s.dir (m.addr / 256) = some e ∧ e.st = .em ∧ e.own ≠ t.from') ∧
    (∀ k : BitVec 256, k = 8 ∨ k = 4 → ∃ (s : State) (id : Nat) (m : Msg) (t : Txn), arriving s id 0x0D = some m ∧ mget? s.busy (m.addr / 256) = some t ∧ m.src ∈ t.waits ∧ s.l2 = [] ∧ m.aux / 16 = t.req ∧
      s.dir.length < 16 ∧ t.probe = true ∧ m.last = false ∧ t.evict = false ∧ t.from' ≠ homeDie (256 * (m.addr / 256)) ∧ (m.mask &&& t.mask = 0 ↔ k = 8)) ∧
    (∀ typ ∈ [0x0E, 0x0F, 0x10, 0x11], ∀ empty : Bool, ∃ (s : State) (id : Nat) (m : Msg) (l : Line), arriving s id typ = some m ∧ waitingFor s m.dst (m.addr / 256) = [] ∧ (m.data = [] ↔ empty = true) ∧
      mget? s.l2 (atDie m.dst (m.addr / 256)) = some l) := by
  refine ⟨fun typ h => ⟨fun dirty => ⟨sMsg (cMsg typ 0 1 0 6 []) none (dLine dirty), 9, cMsg typ 0 1 0 6 [], { aLine .m 7 with dirty := if dirty then 1 else 0 }, ?_, ?_, dLineAt _, by cases dirty <;> simp⟩,
      ⟨{ sMsg (cMsg typ 0 1 0 6 []) none [] with victims := dLine true }, 9, cMsg typ 0 1 0 6 [], { aLine .m 7 with dirty := 1 }, ?_, ?_, (by show mget? [] (atDie 1 (0x10000 / 256)) = none; rfl), dLineAt true, List.not_mem_nil⟩,
      ⟨{ sMsg (cMsg typ 0 1 0 6 []) none [] with victims := dLine true, spent := [2 ^ 42 + 0x100] }, 9, cMsg typ 0 1 0 6 [], ?_, ?_, (by show mget? [] (atDie 1 (0x10000 / 256)) = none; rfl), (by show atDie 1 (0x10000 / 256) ∈ [2 ^ 42 + 0x100]; decide)⟩,
      ⟨{ sMsg (cMsg typ 0 1 0 6 []) none [] with net := [(9, cMsg typ 0 1 0 6 []), (11, cMsg 0x0E 0 1 0 0 [])] }, 9, cMsg typ 0 1 0 6 [], ?_, ?_⟩⟩,
    fun typ tt h ht ws hw => ⟨sTxn (cMsg typ 1 0 0 1 (lineOne 7)) (ent .em 1 [] 0 []) tt ws false, 9, cMsg typ 1 0 0 1 (lineOne 7), ⟨0, 5, tt, 3, 6, ws, false, false⟩, ent .em 1 [] 0 [], ?_, (by show mget? [(0x100, _)] (0x10000 / 256) = _; simp [mget?]), ?_, rfl, (by show 0 / 16 = 0; decide), by show 1 < 16; decide, rfl, rfl, rfl, rfl, rfl, (by show 3 ≠ homeDie (256 * (0x10000 / 256)); decide), (by show mget? [(0x100, _)] (0x10000 / 256) = _; simp [mget?]), rfl,
      by show 1 ≠ 3; decide⟩,
    fun k h => ⟨sTxn (cMsg 0x0D 1 0 0 k (lineOne 7)) (ent .em 1 [] 3 []) 2 [1] true, 9, cMsg 0x0D 1 0 0 k (lineOne 7), ⟨0, 5, 2, 3, 6, [1], true, false⟩, ?_, (by show mget? [(0x100, _)] (0x10000 / 256) = _; simp [mget?]), List.mem_cons_self, rfl, (by show 0 / 16 = 0; decide), by show 1 < 16; decide, rfl, rfl, rfl, (by show 3 ≠ homeDie (256 * (0x10000 / 256)); decide), ?_⟩,
    fun typ h empty => ⟨sMsg (cMsg typ 0 1 0 6 (if empty then [] else [7])) none (dLine true), 9, cMsg typ 0 1 0 6 (if empty then [] else [7]), { aLine .m 7 with dirty := 1 }, ?_, ?_, by cases empty <;> simp [cMsg], ?_⟩⟩
  · revert typ dirty; decide +kernel
  · revert typ dirty; decide +kernel
  iterate 6 (· revert typ; decide +kernel)
  · rcases h with rfl | rfl <;> rfl
  · rcases hw with rfl | rfl <;> exact List.mem_cons_self
  · rcases h with rfl | rfl <;> rfl
  · rcases h with rfl | rfl <;> decide
  · revert typ empty; decide +kernel
  · revert typ empty; decide +kernel
  · exact dLineAt true

/-- R270, R274: SnpShr leaves the line O and sends its data; SnpInv and Inv take it, Inv with no data; SnpMerge sends it with its mask; nothing there is an Ack. -/
theorem test_snoop : goes (exec (.msgSnpshr 9) (sMsg (cMsg 7 0 1 0 0 []) none (dLine true))) (fun u => sends u == [(0x0D, 0)] && u.l2.map (·.2.st) == [.o] && (mget? u.net 20).map (fun m => (m.mask, m.data.head?)) == some (1, some 7)) = true ∧
    goes (exec (.msgSnpinv 9) (sMsg (cMsg 8 0 1 0 0 []) none (dLine false))) (fun u => sends u == [(0x0C, 0)] && u.l2 == []) = true ∧
    goes (exec (.msgInv 9) (sMsg (cMsg 0x0B 0 1 0 0 []) none (dLine true))) (fun u => sends u == [(0x0C, 0)] && u.l2 == []) = true ∧
    goes (exec (.msgSnpmerge 9) (sMsg (cMsg 0x0A 0 1 0 0 []) none (dLine false))) (fun u => sends u == [(0x0D, 0)] && u.l2 == []) = true ∧
    goes (exec (.msgSnpmask 9) (sMsg (cMsg 9 0 1 0 0 []) none (dLine true))) (fun u => u.l2.map (·.2.st) == [.p]) = true ∧
    goes (exec (.msgSnpinv 9) { sMsg (cMsg 8 0 1 0 0 []) none [] with victims := dLine true }) (fun u => sends u == [(0x0D, 0)] && u.victims.length == 1 && u.spent == [2 ^ 42 + 0x100]) = true := by decide +kernel

/-- R270, R275: the last answer gives die 3 the line with byte 0 from the answer; before it the home waits; a read with hint 6 leaves the owner O and gets an S copy; disjoint masks privatise, others do not. -/
theorem test_answers : goes (exec (.msgAckd 9) (sTxn (cMsg 0x0D 1 0 0 1 (lineOne 7)) (ent .em 1 [] 0 []) 2 [1] false)) (fun u => sends u == [(0x10, 3)] && u.busy == [] && (mget? u.dir 0x100).map (fun e => (e.st, e.own)) == some (.em, 3) &&
      (mget? u.net 20).map (·.data.head?) == some (some 7)) = true ∧
    goes (exec (.msgAck 9) (sTxn (cMsg 0x0C 1 0 0 0 []) (ent .s 0 [1, 2] 0 []) 2 [1, 2] false)) (fun u => sends u == [] && (mget? u.busy 0x100).map (·.waits) == some [2]) = true ∧
    goes (exec (.msgAckd 9) (sTxn (cMsg 0x0D 1 0 0 1 (lineOne 7)) (ent .em 1 [] 0 []) 1 [1] false)) (fun u => (mget? u.dir 0x100).map (fun e => (e.st, e.own)) == some (.o, 1) && sends u == [(0x0E, 3)]) = true ∧
    goes (exec (.msgAckd 9) (sTxn (cMsg 0x0D 1 0 0 8 (lineOne 7)) (ent .em 1 [] 3 []) 2 [1] true)) (fun u => sends u == [(0x11, 3)] && u.busy == [] && (mget? u.dir 0x100).map (fun e => (e.st, e.holders)) == some (.p, [(1, 8), (3, 6)])) = true ∧
    goes (exec (.msgAckd 9) (sTxn (cMsg 0x0D 1 0 0 4 (lineOne 7)) (ent .em 1 [] 3 []) 2 [1] true)) (fun u => sends u == [(8, 1)] && (mget? u.busy 0x100).map (fun t => (t.probe, t.waits)) == some (false, [1])) = true := by decide +kernel

/-- A group of die 1 whose access 5 waits for line 0x100 on a page of a policy; the home has read the line for it, or not yet. -/
def sWait (op : MemOp) (pol : Nat) (m : Msg) (asked : Bool := true) : State :=
  { sMsg m none [] with groups := [(512, { g0 with acc := [{ acc0 op .waiting with hint := 2, reqs := [{ req0 .waiting with pol := pol, asked := asked }] }], k := [(0, 1)] })]
                        blocks := [(1, { kernel := 1, cores := [64], stage := .running })] }
theorem witness_CoherenceAndFarAccessMessages_far :
    (∀ typ : Nat, typ = 0x0E ∨ typ = 0x0F → ∀ asked : Bool, ∃ (s : State) (id : Nat) (m : Msg) (g : Nat) (x : Group) (a : Access) (r : Req), r.asked = asked ∧ arriving s id typ = some m ∧ s.groups = [(g, x)] ∧ x.acc = [a] ∧ a.reqs = [r] ∧ a.op = .load ∧
      a.space = .generic ∧ r.stage = .waiting ∧ r.pol = 0 ∧ r.line = m.addr / 256 ∧ r.key = m.aux / 16 ∧ s.dieOf g = m.dst ∧ s.isDet g = false ∧ 2 ≤ a.hint ∧ s.parts = [] ∧ m.dst ≠ homeDie (256 * r.line)) ∧
    (∃ (s : State) (id : Nat) (m : Msg), arriving s id 0x15 = some m) ∧ (∃ (s : State) (id : Nat) (m : Msg), arriving s id 0x17 = some m ∧ m.mask ≠ 0) ∧
    (∀ typ : Nat, typ = 0x16 ∨ typ = 0x18 ∨ typ = 0x14 → ∃ (s : State) (id : Nat) (m : Msg) (g : Nat) (x : Group) (a : Access) (r : Req), s.groups = [(g, x)] ∧ x.acc = [a] ∧ a.reqs = [r] ∧ a.id = m.tid ∧ r.stage = .waiting ∧
      256 * r.line + r.piece = m.addr ∧ x.hold = none ∧ arriving s id typ = some m ∧ a.size = 4 ∧ a.op = .atom false 0 true ∧ 0 < a.setk ∧ a.setk < 8 ∧ 0 < x.kc (a.setk - 1) ∧ m.data = toBytes 1 0 ++ toBytes 1 0 ++ [1, 2, 3, 4]) ∧
    (∃ (s : State) (id : Nat) (m : Msg), arriving s id 0x13 = some m ∧ mget? s.busy (m.addr / 256) ≠ none ∧ m.aux % 16 = 0) ∧
    (∃ (s : State) (id : Nat) (m : Msg), arriving s id 0x13 = some m ∧ mget? s.busy (m.addr / 256) = none ∧ mget? s.dir (m.addr / 256) ≠ none ∧ m.aux % 16 = 0 ∧ id < s.nextId) ∧
    (∃ (s : State) (id : Nat) (m : Msg), arriving s id 0x13 = some m ∧ mget? s.busy (m.addr / 256) = none ∧ mget? s.dir (m.addr / 256) = none ∧ m.aux % 16 = 0 ∧ s.l2 = [] ∧ m.mask = 4 ∧
      m.data = toBytes 1 31 ++ toBytes 1 252 ++ [1, 2, 3, 4] ∧ (cohRead s (256 * (m.addr / 256) + 252) 4 (m.aux / 16)).2 = false ∧ answersOf s (m.addr / 256) = []) :=
  ⟨fun typ h asked => ⟨sWait .load 0 (cMsg typ 0 1 0 0 (lineOne 7)) asked, 9, cMsg typ 0 1 0 0 (lineOne 7), 512, _, _, _, rfl, by rcases h with rfl | rfl <;> rfl, rfl, rfl, rfl, rfl, rfl, rfl, rfl, (by show 0x100 = 0x10000 / 256; decide), (by show 0 = 0 / 16; decide), (by show 64 / 64 = 1; decide), by rfl, by show 2 ≤ 2; decide, rfl,
     by rcases h with rfl | rfl <;> cases asked <;> decide +kernel⟩,
   ⟨sMsg (cMsg 0x15 1 0 0 0 []) none [], 9, cMsg 0x15 1 0 0 0 [], by decide +kernel⟩, ⟨sMsg (cMsg 0x17 1 0 0 6 (lineOne 0x030201)) none [], 9, cMsg 0x17 1 0 0 6 (lineOne 0x030201), rfl, by decide⟩,
   fun typ h => ⟨sWait (.atom false 0 true) 1 (cMsg typ 0 1 0 0 [0, 0, 1, 2, 3, 4]), 9, cMsg typ 0 1 0 0 [0, 0, 1, 2, 3, 4], 512, _, _, _, rfl, rfl, rfl, rfl, rfl, (by show 256 * 0x100 + 0 = 0x10000; decide), rfl, by rcases h with rfl | rfl | rfl <;> rfl, rfl, rfl,
     by show 0 < 1; decide, by show 1 < 8; decide, by show 0 < 1; decide, rfl⟩,
   ⟨{ sMsg (cMsg 0x13 1 0 0 4 [31, 252, 1, 2, 3, 4]) none [] with busy := [(0x100, ⟨0, 5, 1, 2, 0, [3], false, false⟩)] }, 9, cMsg 0x13 1 0 0 4 [31, 252, 1, 2, 3, 4], by decide +kernel⟩,
   ⟨sMsg (cMsg 0x13 1 0 0 4 [31, 252, 1, 2, 3, 4]) (some (ent .s 0 [1] 0 [])) [], 9, cMsg 0x13 1 0 0 4 [31, 252, 1, 2, 3, 4], by decide +kernel⟩,
   ⟨sMsg (cMsg 0x13 1 0 0 4 [31, 252, 1, 2, 3, 4]) none [], 9, cMsg 0x13 1 0 0 4 [31, 252, 1, 2, 3, 4], by decide +kernel, rfl, rfl, rfl, rfl, rfl, rfl, by decide +kernel, rfl⟩⟩

/-- The request of the only access, its stage and first byte. -/
def reqOf (u : State) : Option (ReqStage × Byte) := (u.grp 512).acc.head?.bind (fun a => a.reqs.head?.map (fun r => (r.stage, lineByte r.data 0)))
/-- R267, R277: DataS stays as an S copy and DataSN does not, and the load of each is performed; DataE without data makes the dirty copy M. R161: the masked bytes 1 and 2 are written; the answer ends the store.
R313: the sum stands at offset 252, and AtomR writes the old value to lane 0 of v6. -/
theorem test_data : goes (exec (.msgDatas 9 none) (sWait .load 0 (cMsg 0x0E 0 1 0 0 (lineOne 7)))) (fun u => u.l2.map (·.2.st) == [.s] && reqOf u == some (.performed, 7)) = true ∧
    goes (exec (.msgDatasn 9) (sWait .load 0 (cMsg 0x0F 0 1 0 0 (lineOne 7)))) (fun u => u.l2 == [] && reqOf u == some (.performed, 7)) = true ∧
    goes (exec (.msgDatae 9 none) (sMsg (cMsg 0x10 0 1 0 0 []) none (dLine true))) (fun u => u.l2.map (·.2.st) == [.m]) = true ∧
    goes (exec (.msgDatap 9 none) (sMsg (cMsg 0x11 0 1 0 6 (lineOne 7)) none [])) (fun u => u.l2.map (fun e => (e.2.st, e.2.dirty)) == [(.p, 6)]) = true ∧
    goes (exec (.msgRdu 9) (sMsg (cMsg 0x15 1 0 0 0 []) none [])) (fun u => sends u == [(0x16, 1)] && (mget? u.net 20).map (fun m => (m.data.head?, m.tid)) == some (some 5, 5)) = true ∧
    goes (exec (.msgWru 9) (sMsg (cMsg 0x17 1 0 0 6 (lineOne 0x030201)) none [])) (fun u => sends u == [(0x18, 1)] && u.mem == [(0x10000, 5), (0x10001, 2), (0x10002, 3)]) = true ∧
    goes (exec (.msgRdur 9) (sWait .load 1 (cMsg 0x16 0 1 0 0 (lineOne 7)))) (fun u => reqOf u == some (.performed, 7)) = true ∧
    goes (exec (.msgWrua 9) (sWait .store 1 (cMsg 0x18 0 1 0 0 []))) (fun u => (u.grp 512).acc == [] && (u.grp 512).kc 0 == 0) = true ∧
    goes (exec (.msgAtomr 9) (sWait (.atom false 0 true) 0 (cMsg 0x14 0 1 0 0 [0, 0, 1, 2, 3, 4]))) (fun u => (u.grp 512).acc == [] && (u.grp 512).rv 6 0 == 0x04030201) = true ∧
    goes (exec (.msgAtomf 9) { sMsg (cMsg 0x13 1 0 0 4 [31, 252, 1, 2, 3, 4]) none [] with mem := [(0x100FC, 0xFF)] }) (fun u => sends u == [(0x14, 1)] && (cohRead u 0x100FC 4 0).1 == [0, 3, 3, 4] &&
      (mget? u.net 20).map (·.data) == some [31, 0, 0xFF, 0, 0, 0]) = true := by decide +kernel

/-! ## Witnesses and steps: fabric messages and reductions -/

/-- A message with TID 15 about an address. -/
def fMsg (typ src dst addr aux : Nat) (data : List Byte) : Msg := ⟨typ, src, dst, 0, false, false, false, 0, 15, none, addr, aux, 0, data⟩
/-- A PUT of 2 bytes at 0x10003 beside another message. -/
def sPut (m : Msg) (net : FMap Msg) : State := { s0 with net := (9, m) :: net, nextId := 20, mem := [(0x10000, 5), (0x10008, 0xFF)] }
/-- A CPYR of `len` bytes from 0x10000 to 0x200000, whose home is die 1. -/
def aCpyr (len : W32) (pieces sent : List Nat) : EngOp := { anOp 0xF2 0 0 0x21 true [0x10000, 0, 0x200000, 0, len, 0, 0xFFFFFFFF, 0, 0, 0] with pieces := pieces, sent := sent }
def sCpyr (len : W32) (pieces sent : List Nat) (net : FMap Msg) : State :=
  { sOp (aCpyr len pieces sent) (cwrite [] 0x10000 (toBytes 16 0x1122)) [] with net := net, nextId := 20 }

theorem plainRemote (len : W32) (pieces sent : List Nat) (net : FMap Msg) : PlainRemoteCopy (sCpyr len pieces sent net) 0 (aCpyr len pieces sent) :=
  ⟨⟨rfl, rfl, rfl, rfl⟩, by simp [sCpyr, sOp, sOf, aCpyr, anOp], by show [0].Nodup; decide, ⟨rfl, rfl, rfl, rfl⟩, ⟨rfl, (by show Nat.testBit 0 3 = false; decide), (by show 0 / 16 % 4 = 0; decide), rfl, rfl⟩, ⟨rfl, rfl⟩⟩

theorem witness_FabricMessagesAndReductions_payload :
    (∀ typ : Nat, typ = 0x20 ∨ typ = 0x23 ∨ typ = 0x22 → ∀ add : Nat, add = 0 ∨ add = 1 → ∃ (s : State) (id : Nat) (m : Msg), arriving s id typ = some m ∧ m.aux < 2 ^ 40 ∧ m.aux % 16 = 0 ∧
      m.addr % 256 + m.data.length ≤ 256 ∧ m.data.length = 8 ∧ mget? s.dir (m.addr / 256) = none ∧ answersOf s (m.addr / 256) = [] ∧ s.l2 = [] ∧ m.aux / 2048 % 32 = add ∧
      (cohRead s m.addr 8 0).2 = false ∧ ∀ e ∈ s.net, e.2.typ = typ) ∧
    (∃ (s : State) (id : Nat) (m : Msg), arriving s id 0x22 = some m ∧ m.data.length = 8 ∧ ∃ e ∈ s.net, (e.2.typ = 0x20 ∨ e.2.typ = 0x23) ∧ e.2.tid = m.tid ∧ e.2.src = m.src ∧ e.2.dst / 2 = m.dst / 2 ∧
      e.2.aux / 65536 = m.aux / 65536) ∧
    (∀ len : W32, len = 16 ∨ len = 4096 → ∃ (s : State) (core : Nat) (o : EngOp) (n va off k : Nat) (bs : List Byte) (e : TlbEnt) (pa : Nat), PlainRemoteCopy s core o ∧ fabPiece (fabFrame o) n = some (0, va, off, k) ∧
      n ∉ o.pieces ∧ 2 ^ 32 ∉ o.pieces ∧ fabRead s core o (fabFrame o) off k = .ok bs ∧ translate s o.ctx core .write va = .ok (e, pa) ∧ homeDie pa ≠ dieOfCore core ∧
      transferBytes s o core (homeDie pa) (fabFrame o) = len.toNat ∧ rsvOf s o.id (homeDie pa) = none) ∧
    (∀ done : Bool, ∀ code : Nat, code = 0 ∨ code = 0x12 → ∃ (s : State) (core : Nat) (o : EngOp) (id : Nat) (m : Msg), PlainRemoteCopy s core o ∧ arriving s id 0x21 = some m ∧ m.aux = code ∧ o.sent = [m.tid] ∧
      2 ^ 32 ∉ o.pieces ∧ ((∀ p ∈ destPieces (fabFrame o) 0, p ∈ o.pieces) ↔ done = true)) := by
  refine ⟨fun typ h add ha => ⟨sPut (fMsg typ 0 0 0x10008 (2048 * add) (toBytes 8 3)) [], 9, fMsg typ 0 0 0x10008 (2048 * add) (toBytes 8 3), ?_, ?_, ?_, ?_, ?_, ?_, ?_, rfl, ?_, ?_, ?_⟩,
    ⟨sPut (fMsg 0x22 1 0 0x10008 0 (toBytes 8 3)) [(10, fMsg 0x23 1 1 0x20000 0 [1])], 9, fMsg 0x22 1 0 0x10008 0 (toBytes 8 3), by decide +kernel, by decide, _, List.mem_cons_of_mem _ List.mem_cons_self,
      .inr rfl, rfl, rfl, rfl, rfl⟩,
    fun len h => ⟨sCpyr len [] [] [], 0, aCpyr len [] [], 0, 0x200000, 0, 16, toBytes 16 0x1122, page0, 0x200000, plainRemote .., ?_, by simp [aCpyr], by simp [aCpyr],
      ?_, ?_, by decide, ?_, ?_⟩,
    fun done code h => ⟨sCpyr 16 (if done then [0] else []) [15] [(9, fMsg 0x21 1 0 0 code [])], 0, aCpyr 16 (if done then [0] else []) [15], 9, fMsg 0x21 1 0 0 code [], plainRemote .., ?_, rfl, rfl, ?_, ?_⟩⟩
  all_goals first
    | (rcases h with rfl | rfl | rfl <;> rcases ha with rfl | rfl <;> decide +kernel)
    | (rcases h with rfl | rfl <;> cases done <;> decide +kernel)
    | (rcases h with rfl | rfl <;> decide +kernel)

/-- R384, R393, R395: the bytes stand at their home and PUTA names the message; SIG waits for payload, then sets or adds; 16 bytes leave outright, 4,096 ask for leave; the last answer ends the copy. -/
theorem test_payload : goes (exec (.msgPut 9) (sPut (fMsg 0x20 1 0 0x10003 0 [1, 2]) [])) (fun u => (cohRead u 0x10000 6 0).1 == [5, 0, 0, 1, 2, 0] && sends u == [(0x21, 1)] && (mget? u.net 20).map (·.tid) == some 9) = true ∧
    goes (exec (.msgSig 9) (sPut (fMsg 0x22 1 0 0x10008 0 (toBytes 8 3)) [])) (fun u => (cohRead u 0x10008 8 0).1 == toBytes 8 3) = true ∧
    goes (exec (.msgSig 9) (sPut (fMsg 0x22 1 0 0x10008 2048 (toBytes 8 3)) [])) (fun u => (cohRead u 0x10008 8 0).1 == toBytes 8 0x102) = true ∧
    goes (exec (.msgSig 9) (sPut (fMsg 0x22 1 0 0x10008 0 (toBytes 8 3)) [(10, fMsg 0x23 1 1 0x20000 0 [1])])) (fun u => u.net.length == 2 && u.l2 == []) = true ∧
    goes (exec (.copyPieceWrite 0 5 0) (sCpyr 16 [] [] [])) (fun u => sends u == [(0x20, 1)] && (mget? u.net 20).map (fun m => (m.addr, m.data, m.rsvd)) == some (0x200000, toBytes 16 0x1122, false)) = true ∧
    goes (exec (.copyPieceWrite 0 5 0) (sCpyr 4096 [] [] [])) (fun u => sends u == [(0x30, 1)] && (mget? u.net 20).map (·.aux) == some 4096) = true ∧
    goes (exec (.msgPuta 9) (sCpyr 16 [0] [15] [(9, fMsg 0x21 1 0 0 0 [])])) (fun u => (u.core 0).copyQ == [] && mget (u.grp 512).openSets [] 0 == [⟨4, true, 0⟩, ⟨5, true, 0⟩]) = true ∧
    goes (exec (.msgPuta 9) (sCpyr 16 [0] [15] [(9, fMsg 0x21 1 0 0 0x16 [])])) (fun u => mget (u.grp 512).openSets [] 0 == [⟨4, true, 0⟩, ⟨5, true, 0x16⟩]) = true := by decide +kernel

/-- A reservation granted at 0; a message of a sequence that the receiver refuses, and one of another. -/
def sRsv (clock : Nat) : State := { s0 with clock := clock, rsvs := [(15, ⟨0, 2, 100, some 0, 5⟩)], net := [(9, fMsg 0x31 2 0 0 100 [])] }
def qMsg (dst seq : Nat) : Msg := { fMsg 0x20 0 dst 0x10000 0 [1] with cls := 3, seq := some seq }
def sSeq (clock naks : Nat) (refused : Option Nat) : State :=
  { s0 with clock := clock, packages := 2, net := [(9, qMsg 2 4), (10, qMsg 3 0)], retryStore := [(9, qMsg 2 4), (8, qMsg 2 3)], sendSeq := [(seqKey (qMsg 2 4), { next := 5, naks := naks, refused := refused })]
            recvSeq := if refused.isSome then [(seqKey (qMsg 2 4), { next := 4, refused := refused })] else [] }
theorem witness_FabricMessagesAndReductions_reservations :
    (∃ (s : State) (id : Nat) (m : Msg), arriving s id 0x30 = some m) ∧ (∃ (s : State) (id : Nat) (m : Msg) (r : Rsv), arriving s id 0x31 = some m ∧ mget? s.rsvs m.tid = some r ∧ findXfer s r.op = none ∧ findOp s r.op = none) ∧
    (∀ c : Nat, c = 99 * 1300 ∨ c = 100 * 1300 → ∃ (s : State) (id : Nat) (r : Rsv), mget? s.rsvs id = some r ∧ r.granted = some 0 ∧ (elapsedUs s (r.src / 2) 0 < 100 ↔ c = 99 * 1300)) ∧
    (∃ (s : State) (id n : Nat) (m : Msg), arriving s id 0x20 = some m ∧ m.rsvd = false ∧ m.cls ≠ 2 ∧ m.seq = some n ∧ mget? s.retryStore id ≠ none ∧ ∃ j x, mget? s.net j = some x ∧ seqKey x ≠ seqKey m) ∧
    (∀ c : Nat, c = 3 * 1300 ∨ c = 4 * 1300 → ∃ (s : State) (sk n : Nat), (mget s.sendSeq {} sk).refused = some n ∧ (elapsedUs s (sk / 8192) (mget s.sendSeq {} sk).since < 2 ^ min ((mget s.sendSeq {} sk).naks - 1) 6 ↔ c = 3 * 1300)) ∧
    (∃ (s : State) (id : Nat) (m : Msg), mget? s.retryStore id = some m ∧ mget? s.net id = none) ∧ (∃ (s : State) (id : Nat) (m : Msg), mget? s.retryStore id = some m ∧ mget? s.net id ≠ none) :=
  ⟨⟨sPut (fMsg 0x30 1 0 0 100 []) [], 9, fMsg 0x30 1 0 0 100 [], by decide +kernel⟩, ⟨{ sRsv 0 with packages := 2 }, 9, fMsg 0x31 2 0 0 100 [], _, by decide +kernel, rfl, rfl, rfl⟩,
   fun c h => ⟨sRsv c, 15, ⟨0, 2, 100, some 0, 5⟩, rfl, rfl, by rcases h with rfl | rfl <;> decide +kernel⟩,
   ⟨sSeq 0 0 none, 9, 4, qMsg 2 4, by decide +kernel, rfl, by decide, rfl, by decide +kernel, 10, qMsg 3 0, rfl, by decide⟩,
   fun c h => ⟨sSeq c 3 (some 4), seqKey (qMsg 2 4), 4, by rfl, by rcases h with rfl | rfl <;> decide +kernel⟩,
   ⟨sSeq 0 0 none, 8, _, rfl, rfl⟩, ⟨sSeq 0 0 none, 9, _, rfl, by decide +kernel⟩⟩

/-- R385, R386: GNT answers; a grant lasts 100 µs; a NAK stops its sequence alone, for 4 µs with the third; an ACK clears the count. -/
theorem test_reservations : goes (exec (.msgRsv 9) (sPut (fMsg 0x30 1 0 0 100 []) [])) (fun u => sends u == [(0x31, 1)] && (mget? u.net 20).map (fun m => (m.tid, m.aux)) == some (15, 100)) = true ∧
    goes (exec (.msgGnt 9) { sRsv 7 with packages := 2 }) (fun u => (mget? u.rsvs 15).map (·.granted) == some (some 7)) = true ∧
    goes (exec (.grantWithdraw 15) (sRsv (100 * 1300 - 1))) (fun u => u.rsvs.length == 1) = true ∧ goes (exec (.grantWithdraw 15) (sRsv (100 * 1300))) (fun u => u.rsvs == []) = true ∧
    goes (exec (.msgNak 9) (sSeq 50 2 none)) (fun u => mget u.sendSeq {} (seqKey (qMsg 2 4)) == { next := 5, naks := 3, refused := some 4, since := 50 } && arriving u 9 0x20 == none && arriving u 10 0x20 == some (qMsg 3 0)) = true ∧
    goes (exec (.nakBackoffExpiry (seqKey (qMsg 2 4))) (sSeq (4 * 1300) 3 (some 4))) (fun u => arriving u 9 0x20 == some (qMsg 2 4)) = true ∧
    goes (exec (.nakBackoffExpiry (seqKey (qMsg 2 4))) (sSeq (4 * 1300 - 1) 3 (some 4))) (fun u => arriving u 9 0x20 == none) = true ∧
    goes (exec (.fabricAck 8) (sSeq 0 2 none)) (fun u => mget? u.retryStore 8 == none && (mget u.sendSeq {} (seqKey (qMsg 2 4))).naks == 0 && u.retryStore.length == 1) = true := by decide +kernel

/-- The contribution of a rank to chunk 2 of set 7 of `len` bytes, two f32: 1.0 and 2.0; and the state of the root with the other's contribution to a set of `n` bytes. -/
def rdc (rank len : Nat) : Msg := { fMsg 0x24 1 0 (7 + 2 ^ 32 * 2) (redAux ⟨rank, 2, 1, len, true, false⟩) (toBytes 4 0x3F800000 ++ toBytes 4 0x40000000) with ctx := 3 }
def redOne (n : Nat) : RedChunk := { parts := [(256, toBytes 4 0x3F800000 ++ toBytes 4 0xC0000000)], wants := [1], head := 9, check := 2 + 2 ^ 16 + 2 ^ 20 * n }
def redSet' (n : Nat) : RedSet := { p := 2, len := n, dies := [(1, 64)], chunks := [(2, redOne n)] }
def sRed (m : Msg) (other : Option Nat) : State := { sPut m [] with redSets := match other with | some n => [(3 * 2 ^ 32 + 7, redSet' n)] | none => [] }
/-- A running CPYR of set 7 in context 0 of 4,112 bytes into scratchpad at 0x1000, whose chunk 0 has landed; and the result of its chunk 1. -/
def aRed : EngOp :=
  { anOp 0xF2 0 0 0x21 true [0x10000, 0, 0x1000, 0, 0x1010, 25, 0xFFFFFFFF, 0, 0, 1] with extra := [(2, 1), (7, 0x1010), (0, 0), (2, 0)], pieces := (List.range 16).map (fun k => 2 ^ 34 + 16 * k) }
def sRdr : State := { sOp aRed [] [] with net := [(9, { fMsg 0x25 2 0 (7 + 2 ^ 32) 0 (toBytes 16 0x55) with ctx := 0 })], packages := 2, nextId := 20 }
def sDead (clock : Nat) : State := { sOp aRed [] [] with clock := clock, redSets := [(7, { p := 2, len := 8192, chunks := [(1, { head := 0 })] })] }

theorem witness_FabricMessagesAndReductions_reductions :
    (∃ (s : State) (id : Nat) (m : Msg), arriving s id 0x24 = some m ∧ (redInOf m.aux).p = 2 ∧ mget? s.redSets ((64 * m.dst + m.ctx % 64) * 2 ^ 32 + m.addr % 2 ^ 32) = none ∧
      m.data.length < 2 * min 4096 ((redInOf m.aux).len - 4096 * (m.addr / 2 ^ 32 % 2 ^ 24))) ∧
    -- a set of another length; one whose chunk is complete with this part, and one whose chunk is not
    (∀ n : Nat, n = 4096 ∨ n = 8200 ∨ n = 16384 → ∃ (s : State) (id : Nat) (m : Msg) (r : RedSet) (c : RedChunk), arriving s id 0x24 = some m ∧ (redInOf m.aux).p = 2 ∧
      mget? s.redSets ((64 * m.dst + m.ctx % 64) * 2 ^ 32 + m.addr % 2 ^ 32) = some r ∧ r.failedAt = none ∧ mget? r.chunks (m.addr / 2 ^ 32 % 2 ^ 24) = some c ∧ (redInOf m.aux).want = true ∧ (redInOf m.aux).dt = 1 ∧
      (c.check = (redInOf m.aux).p + 2 ^ 16 * (redInOf m.aux).dt + 2 ^ 20 * (redInOf m.aux).len ↔ n ≠ 4096) ∧
      ((mvals (mput c.parts (256 * (redInOf m.aux).rank + m.addr / 2 ^ 56) m.data)).flatten.length < 2 * min 4096 ((redInOf m.aux).len - 4096 * (m.addr / 2 ^ 32 % 2 ^ 24)) ↔ n = 16384)) ∧
    (∃ (s : State) (id core : Nat) (m : Msg) (o : EngOp), arriving s id 0x25 = some m ∧ (s.pkg (m.dst / 2)).linkRetrain = false ∧ redOpAt s m.dst m.ctx (m.addr % 2 ^ 32) = some (core, o) ∧ (s.core core).copyQ = [o] ∧
      ((s.core core).mxQ = [] ∧ (s.core core).skQ = [] ∧ (s.core core).colQ = []) ∧ (fw o 5).testBit 3 = true ∧ fw o 6 = 0xFFFFFFFF ∧ m.addr / 2 ^ 32 % 2 ^ 24 = 1 ∧ m.addr / 2 ^ 56 = 0 ∧ 2 ^ 34 + 256 ∉ o.pieces ∧
      fw o 2 + 4096 * 1 + 16 * 0 + m.data.length ≤ (scratchOfOp s o).sb ∧ (scratchOfOp s o).tags = [] ∧ fw o 4 = 4112 ∧
      ∀ c k, 4096 * c + 256 * k < 4112 → k < 16 → (c ≠ 1 ∨ 16 * k ≠ 0) → 2 ^ 34 + (256 * c + 16 * k) ∈ o.pieces) ∧
    (∀ clock : Nat, clock = 49 * 1300 ∨ clock = 50 * 1300 → ∃ (s : State) (key chunk core : Nat) (r : RedSet) (c : RedChunk) (o : EngOp), mget? s.redSets key = some r ∧ mget? r.chunks chunk = some c ∧
      (elapsedUs s (key / 2 ^ 39) c.head < 50 ↔ clock = 49 * 1300) ∧ s.cores = [(core, s.core core)] ∧ (s.core core).copyQ = [o] ∧ (s.core core).mxQ = [] ∧ (s.core core).skQ = [] ∧ (s.core core).colQ = [] ∧ o.opc = 0xF2 ∧
      fw o 5 % 4 = 1 ∧ o.started = true ∧ opRedKey o = key ∧ s.dies = [] ∧ fw o 6 = 0xFFFFFFFF) := by
  refine ⟨⟨sRed (rdc 0 8200) none, 9, rdc 0 8200, by decide +kernel, by decide +kernel, by decide +kernel, by decide +kernel⟩,
    fun n h => ⟨sRed (rdc 0 (if n = 4096 then 4096 else n)) (some (if n = 4096 then 8200 else n)), 9, rdc 0 (if n = 4096 then 4096 else n), redSet' (if n = 4096 then 8200 else n), redOne (if n = 4096 then 8200 else n),
      ?_, ?_, ?_, rfl, ?_, ?_, ?_, ?_, ?_⟩,
    ⟨sRdr, 9, 0, _, aRed, rfl, rfl, by decide +kernel, rfl, ⟨rfl, rfl, rfl⟩, by decide +kernel, by decide, by decide +kernel, by decide +kernel, by decide +kernel, by decide +kernel, rfl, by decide +kernel,
      fun c k h hk hd => List.mem_map.2 ⟨k, List.mem_range.2 hk, by omega⟩⟩,
    fun clock h => ⟨sDead clock, 7, 1, 0, _, _, aRed, rfl, rfl, ?_, rfl, rfl, rfl, rfl, rfl, rfl, by decide, rfl, by decide +kernel, rfl, by decide⟩⟩
  all_goals (rcases h with rfl | rfl | rfl <;> decide +kernel)

/-- R390, R391, R395: 1.0 + 1.0 and 2.0 - 2.0 go to both; another LEN is refused; a part of a chunk is kept; the last chunk ends the copy; after 50 µs it fails. -/
theorem test_reductions : goes (exec (.msgRdc 9) (sRed (rdc 0 8200) (some 8200))) (fun u => sends u == [(0x25, 64), (0x25, 1)] && (mget? u.net 20).map (·.data) == some (toBytes 4 0x40000000 ++ toBytes 4 0) &&
      (mget? u.net 21).map (·.data) == some (toBytes 4 0x40000000 ++ toBytes 4 0)) = true ∧
    goes (exec (.msgRdc 9) (sRed (rdc 0 4096) (some 8200))) (fun u => sends u == [(0x21, 1)] && (mget? u.net 20).map (fun m => (m.aux, m.tid)) == some (0x12, 9)) = true ∧
    goes (exec (.msgRdc 9) (sRed (rdc 0 16384) (some 16384))) (fun u => sends u == [] && ((mget? u.redSets (3 * 2 ^ 32 + 7)).bind (fun r => mget? r.chunks 2)).map (fun c => c.parts.map (·.1)) == some [0, 256]) = true ∧
    goes (exec (.msgRdr 9) sRdr) (fun u => cread ((u.blk 1).loc 0).sp 0x2000 2 == [0x55, 0] && (u.core 0).copyQ == [] && mget (u.grp 512).openSets [] 0 == [⟨4, true, 0⟩, ⟨5, true, 0⟩]) = true ∧
    goes (exec (.reductionDeadline 7 1) (sDead (50 * 1300 - 1))) (fun u => (u.core 0).copyQ == [aRed]) = true ∧
    goes (exec (.reductionDeadline 7 1) (sDead (50 * 1300))) (fun u => mget (u.grp 512).openSets [] 0 == [⟨4, true, 0⟩, ⟨5, true, 0x14⟩]) = true := by decide +kernel

/-- A CLRUN on channel 2 of die 0 with a receive from die 3 of pod 1 of 16 bytes at 0x10000. -/
def aRun : EngOp := anOp 0xF4 3 0 0x21 true [0x20000, 0]
def sChan (ch : Chan) : State := { sOp aRun [] [] with dies := [(0, { chans := [(2, { ch with op := some (0, 5) })] })], nextId := 20 }
def aRecv (peer : Nat) : ChXfer :=
  { id := 8, send := false, peer := peer, tag := 4, idx := 0, runs := [(0x10000, 16)], data := none, into := none, tb := 0xFFFFFFFF, count := 16, matched := false }
def ue (n : Nat) : UePacket := ⟨0, 2, 259, 4, 0, toBytes n 0x77⟩
theorem witness_FabricMessagesAndReductions_otherPods :
    (∃ (s : State) (q : UePacket), ∀ y ∈ (s.chan q.die q.ch).xfers, ¬ (y.send = false ∧ y.matched = false ∧ y.peer = q.peer ∧ y.tag = q.tag ∧ y.idx = q.idx ∧ y.peer / 256 ≠ s.podIndex)) ∧
    (∀ k : Nat, k = 16 ∨ k = 32 → ∃ (s : State) (q : UePacket) (y : ChXfer) (core : Nat) (o : EngOp) (va n : Nat), (s.chan q.die q.ch).xfers = [y] ∧
      (y.send = false ∧ y.matched = false ∧ y.peer = q.peer ∧ y.tag = q.tag ∧ y.idx = q.idx ∧ y.peer / 256 ≠ s.podIndex) ∧ chanOp s q.die q.ch = some (core, o) ∧ o.opc = 0xF4 ∧ (s.chan q.die q.ch).ending = none ∧
      y.into = none ∧ y.runs = [(va, n)] ∧ y.tb = 0xFFFFFFFF ∧ (s.chan q.die q.ch).desc = [] ∧ (q.bytes.length = n ↔ k = 16) ∧ ∃ t, chWrite s o core va q.bytes = .ok t) ∧
    (∃ (s : State) (q : UePacket) (y : ChXfer) (va : Nat), (s.chan q.die q.ch).xfers = [y] ∧ (y.send = false ∧ y.matched = false ∧ y.peer = q.peer ∧ y.tag = q.tag ∧ y.idx = q.idx ∧ y.peer / 256 ≠ s.podIndex) ∧
      chanOp s q.die q.ch = some (0, aRun) ∧ (s.chan q.die q.ch).ending = none ∧ y.into = none ∧ y.runs = [(va, 0)] ∧ y.tb = 0xFFFFFFFF ∧ q.bytes.length = 0) := by
  refine ⟨⟨sChan {}, ue 16, by decide +kernel⟩, fun k h => ?_, ⟨sChan { xfers := [{ aRecv 259 with runs := [(0x10000, 0)] }] }, ue 0, { aRecv 259 with runs := [(0x10000, 0)] }, 0x10000, rfl,
    ⟨rfl, rfl, rfl, rfl, rfl, by show 259 / 256 ≠ 0; decide⟩, rfl, rfl, rfl, rfl, rfl, rfl⟩⟩
  have h2 : succeeds (chWrite (sChan { xfers := [aRecv 259] }) aRun 0 0x10000 (toBytes k 0x77)) = true := by rcases h with rfl | rfl <;> decide +kernel
  obtain ⟨t, ht⟩ := okOf h2
  refine ⟨sChan { xfers := [aRecv 259] }, ue k, aRecv 259, 0, aRun, 0x10000, 16, rfl, ?_, rfl, rfl, rfl, rfl, rfl, rfl, rfl, ?_, t, ht⟩
  · exact ⟨rfl, rfl, rfl, rfl, rfl, by show 259 / 256 ≠ 0; decide⟩
  · rcases h with rfl | rfl <;> decide +kernel
/-- R398: 16 bytes land at 0x10000; 32 do not fit the receive, and the list fails. -/
theorem test_other_pods : goes (exec (.ultraEthernetDelivery (ue 16)) (sChan { xfers := [aRecv 259] })) (fun u => (cohRead u 0x10000 16 0).1 == toBytes 16 0x77 && (u.chan 0 2).xfers == [] && (u.core 0).colQ == [aRun]) = true ∧
    goes (exec (.ultraEthernetDelivery (ue 32)) (sChan { xfers := [aRecv 259] })) (fun u => (u.chan 0 2).op == none && mget (u.grp 512).openSets [] 3 == [⟨4, true, 0⟩, ⟨5, true, 0x13⟩]) = true := by decide +kernel

/-! ## Witnesses and steps: the Chamois engine -/

/-- A list descriptor: slots (address, length), commands, SELF 0 of 3 peers, DT f32, barrier 0 at `tb`, no record; and a command. -/
def cmdOf (typ fl a b x : Nat) : Nat := x + b * 2 ^ 40 + a * 2 ^ 48 + fl * 2 ^ 56 + typ * 2 ^ 60
def listBytes (tb : Nat) (cmds : List Nat) : List Byte :=
  toBytes 2 3 ++ toBytes 2 cmds.length ++ toBytes 4 0 ++ toBytes 8 0x38000 ++ toBytes 4 3 ++ toBytes 20 0 ++ toBytes 4 tb ++ toBytes 28 (2 ^ 224 - 1) ++ toBytes 1 1 ++ toBytes 55 0 ++
    (toBytes 8 0x10000 ++ toBytes 4 32 ++ toBytes 4 0) ++ (toBytes 8 0x11000 ++ toBytes 4 32 ++ toBytes 4 0) ++ (toBytes 8 0x12000 ++ toBytes 4 16 ++ toBytes 4 0) ++ cmds.flatMap (toBytes 8)
/-- Peers: die 0, die 1, die 3, in this pod. -/
def peers : List Byte := toBytes 4 0 ++ toBytes 4 1 ++ toBytes 4 3
/-- Die 0 runs the list on channel 2 and stands at its first command; the scratchpad has a LIVE barrier at 0x80 with two arrivals pending and phase 1, and memory two f32 at 0x10000 and 0x10010. -/
def ch0 (tb : Nat) (cmds : List Nat) : Chan := { op := some (0, 5), desc := listBytes tb cmds, mesh := peers }
def noBar : Nat := 0xFFFFFFFF
def aList : EngOp := { aRun with started := true }
def sList (ch : Chan) : State :=
  { sOp aList (cwrite (cwrite [] 0x10000 (toBytes 4 0x3F800000)) 0x10010 (toBytes 4 0x40000000)) [] with
    dies := [(0, { chans := [(2, ch)] })]
    nextId := 20
    blocks := [(1, { kernel := 1, cores := [0], stage := .running, local' := [(0, { sb := 0x4000, sp := cwrite [] 0x80 (toBytes 8 (2 ^ 63 + 2 * 2 ^ 44)), tags := [(16, 1)] })] })] }
/-- The channel with slot 0 of `len` bytes and one more command, and die 3 with a receive posted for it; or with its transfer matched and its space granted. -/
def chLong (len : Nat) (cmds : List Nat) : Chan := { ch0 noBar cmds with desc := (listBytes noBar cmds).take 136 ++ toBytes 4 len ++ (listBytes noBar cmds).drop 140 }
def posted (len : Nat) : ChXfer :=
  { id := 9, send := false, peer := 0, tag := 7, idx := 0, runs := [(0x13000, len)], data := none, into := none, tb := noBar, count := len, matched := false }
def die3 (len : Nat) : Die := { chans := [(2, { xfers := [posted len] })] }
def sPeer (len : Nat) (cmds : List Nat) : State := let s := sList (chLong len cmds); { s with dies := s.dies ++ [(3, die3 len)] }
def moving : ChXfer :=
  { id := 8, send := true, peer := 3, tag := 7, idx := 0, runs := [(0x10000, 4128)], data := none, into := none, tb := noBar, count := 4128, matched := true, mate := (3, 9), len := 4128, pos := 0 }
def grantMsg : Msg := { fMsg 0x31 3 0 0 4128 [] with tid := 15 }
def sGrant : State :=
  { sList { ch0 noBar [] with xfers := [moving] } with rsvs := [(15, { src := 0, dst := 3, bytes := 4128, granted := none, op := 8 })], net := [(9, grantMsg)], packages := 2 }
def endCmd : Nat := cmdOf 11 0 0 0 0
/-- A transfer that has not ended. -/
def open' (ch : Chan) : Chan := { ch with xfers := [{ aRecv 1 with peer := 1 }] }

/-- The channel runs the list and stands at m, with a command behind it. -/
theorem stands_of_list {ch : Chan} {m : Cmd} {typ : Nat} (h : ch.op = some (0, 5) ∧ ch.ending = none ∧ m.typ = typ ∧ cmdAt ch.desc ch.pos = m ∧
    ch.pos + 1 < ncmd ch.desc ∧ (cmdAt ch.desc (ch.pos + 1)).typ < 12) : AtCommand (sList ch) 0 2 0 aList m typ where
  stands.runs := by show (match ch.op with | none => none | some (core, id) => _) = _; rw [h.1]; rfl
  stands.list := ⟨rfl, h.2.1, BlockStage.noConfusion, rfl⟩
  stands.inside := Nat.lt_of_succ_lt h.2.2.2.2.1
  stands.cmd := h.2.2.2.1
  stands.typ := h.2.2.1
  more := h.2.2.2.2.1
  next := h.2.2.2.2.2

theorem witness_ChamoisStartsAndCommands_transfers :
    (∀ typ : Nat, typ = 0 ∨ typ = 1 → ∃ (s : State) (d c core : Nat) (o : EngOp) (m : Cmd) (va len : Nat), AtCommand s d c core o m typ ∧ (s.chan d c).xfers = [] ∧ (mkeys s.dies).Nodup ∧
      (∀ p, p < npeer (s.chan d c).desc → p ≠ fieldOf (s.chan d c).desc 4 4 → fieldOf (s.chan d c).mesh (4 * p) 4 % 2 ^ 19 / 256 = s.podIndex ∧ fieldOf (s.chan d c).mesh (4 * p) 4 % 2 ^ 19 % 256 ≠ d) ∧
      slotAt (s.chan d c).desc (loopIndex (s.chan d c)) m.a = some (va, len) ∧ cmdTb (s.chan d c).desc m = some noBar ∧ m.b = 0 ∧ m.x < 2 ^ 32 ∧ m.x % 2 ^ 16 < npeer (s.chan d c).desc ∧
      m.x % 2 ^ 16 ≠ fieldOf (s.chan d c).desc 4 4 ∧ ∀ e ∈ s.dies, e.1 ≠ d → (mget e.2.chans {} c).xfers = []) ∧
    (∃ (s : State) (d c core : Nat) (o : EngOp) (m : Cmd) (va len : Nat), AtCommand s d c core o m 4 ∧ (s.chan d c).xfers = [] ∧ slotAt (s.chan d c).desc (loopIndex (s.chan d c)) m.a = some (va, len) ∧
      cmdTb (s.chan d c).desc m = some noBar ∧ m.b = 0 ∧ m.x < 2 ^ 32 ∧ m.x % 2 ^ 16 = 0 ∧ 2 ≤ npeer (s.chan d c).desc ∧ fieldOf (s.chan d c).desc 4 4 < npeer (s.chan d c).desc) ∧
    -- a SEND to die 3, which has posted its receive, outright and with a reservation
    (∀ len : Nat, len = 32 ∨ len = 4128 → ∃ (s : State) (x : Die) (y : ChXfer) (bs : List Byte), AtCommand s 0 2 0 aList ⟨0, 0, 0, 0, 7 * 2 ^ 16 + 2⟩ 0 ∧ (s.chan 0 2).xfers = [] ∧
      slotAt (s.chan 0 2).desc (loopIndex (s.chan 0 2)) 0 = some (0x10000, len) ∧ cmdTb (s.chan 0 2).desc ⟨0, 0, 0, 0, 7 * 2 ^ 16 + 2⟩ = some noBar ∧ fieldOf (s.chan 0 2).mesh (4 * 2) 4 % 2 ^ 19 = 3 ∧ s.dies = [(0, s.die 0), (3, x)] ∧
      (s.chan 3 2).xfers = [y] ∧ y.send = false ∧ y.matched = false ∧ y.peer = 0 + 256 * s.podIndex ∧ y.tag = 7 ∧ y.idx = mget (s.chan 0 2).sends 0 (3 * 2 ^ 16 + 7) ∧ y.into = none ∧ runTotal y.runs = len ∧
      engRead s aList 0 0x12 0x10000 len = .ok bs ∧ bs.length = len) ∧
    (∃ (s : State) (id : Nat) (g : Msg) (r : Rsv) (x : ChXfer) (bs : List Byte), arriving s id 0x31 = some g ∧ mget? s.rsvs g.tid = some r ∧ findXfer s r.op = some (0, 2, x) ∧ chanOp s 0 2 = some (0, aList) ∧
      (s.chan 0 2).xfers ≠ [] ∧ xferPart (grantUsed s id g) aList 0 x x.pos r.bytes = .ok bs ∧ bs.length = r.bytes ∧ 0 < r.bytes ∧ g.tid < s.nextId) := by
  have hb : ∀ (len : Nat), len = 32 ∨ len = 4128 → succeeds (engRead (sPeer len [cmdOf 0 0 0 0 (7 * 2 ^ 16 + 2), cmdOf 11 0 0 0 0]) aList 0 0x12 0x10000 len) = true ∧
      (match engRead (sPeer len [cmdOf 0 0 0 0 (7 * 2 ^ 16 + 2), cmdOf 11 0 0 0 0]) aList 0 0x12 0x10000 len with | .ok b => b.length == len | .error _ => false) = true := by
    intro len h; rcases h with rfl | rfl <;> decide +kernel
  have hg : succeeds (xferPart (grantUsed sGrant 9 grantMsg) aList 0 moving 0 4128) = true ∧
      (match xferPart (grantUsed sGrant 9 grantMsg) aList 0 moving 0 4128 with | .ok b => b.length == 4128 | .error _ => false) = true := by decide +kernel
  obtain ⟨gb, hgb⟩ := okOf hg.1
  refine ⟨fun typ h => ⟨sList (ch0 noBar [cmdOf typ 0 1 0 (7 * 2 ^ 16 + 2), endCmd]), 0, 2, 0, aList, ⟨typ, 0, 1, 0, 7 * 2 ^ 16 + 2⟩, 0x11000, 32, stands_of_list ?_, rfl, by show [0].Nodup; decide, ?_, ?_, ?_, rfl,
      by show 7 * 2 ^ 16 + 2 < 2 ^ 32; decide, ?_, ?_, by show ∀ e ∈ [(0, _)], e.1 ≠ 0 → _; simp⟩,
    ⟨sList (ch0 noBar [cmdOf 4 0 1 0 (7 * 2 ^ 16), endCmd]), 0, 2, 0, aList, ⟨4, 0, 1, 0, 7 * 2 ^ 16⟩, 0x11000, 32, stands_of_list (by decide +kernel), rfl, by decide +kernel, by decide +kernel, rfl, by decide, by decide,
      by decide +kernel, by decide +kernel⟩,
    fun len h => (by
      obtain ⟨b, hb'⟩ := okOf (hb len h).1
      have hl := (hb len h).2
      rw [hb'] at hl
      have st := stands_of_list (ch := chLong len [cmdOf 0 0 0 0 (7 * 2 ^ 16 + 2), cmdOf 11 0 0 0 0]) (m := ⟨0, 0, 0, 0, 7 * 2 ^ 16 + 2⟩) (typ := 0) (by rcases h with rfl | rfl <;> decide +kernel)
      refine ⟨sPeer len [cmdOf 0 0 0 0 (7 * 2 ^ 16 + 2), cmdOf 11 0 0 0 0], die3 len, posted len, b, ⟨⟨st.stands.runs, st.stands.list, st.stands.inside, st.stands.cmd, st.stands.typ⟩, st.more, st.next⟩, rfl, ?_, ?_, ?_, rfl, rfl, rfl, rfl, rfl, rfl,
        rfl, rfl, ?_, hb', beq_iff_eq.1 hl⟩ <;> (rcases h with rfl | rfl <;> decide +kernel)),
    ⟨sGrant, 9, grantMsg, _, moving, gb, by decide +kernel, rfl, by decide +kernel, by decide +kernel, by decide +kernel, hgb, by have := hg.2; rw [hgb] at this; exact beq_iff_eq.1 this, by decide, by decide⟩⟩
  all_goals (rcases h with rfl | rfl <;> decide +kernel)

/-- R412, R413: a send and a receive of the 32 bytes of slot 1 with tag 7 to die 3; MCAST to dies 1 and 3; a posted receive of die 3 takes the send's bytes as one PUT. -/
theorem test_transfers : goes (exec (.clSend 0 2) (sList (ch0 noBar [cmdOf 0 0 1 0 (7 * 2 ^ 16 + 2), endCmd]))) (fun u => (u.chan 0 2).pos == 1 && u.net == [] &&
      (u.chan 0 2).xfers.map (fun x => (x.send, x.peer, x.tag, x.runs, x.count, x.idx)) == [(true, 3, 7, [(0x11000, 32)], 32, 0)]) = true ∧
    goes (exec (.clRecv 0 2) (sList (ch0 noBar [cmdOf 1 0 1 0 (7 * 2 ^ 16 + 2), endCmd]))) (fun u => (u.chan 0 2).xfers.map (fun x => (x.send, x.peer, x.tag)) == [(false, 3, 7)]) = true ∧
    goes (exec (.clMcast 0 2) (sList (ch0 noBar [cmdOf 4 0 1 0 (7 * 2 ^ 16), endCmd]))) (fun u => (u.chan 0 2).pos == 1 && (u.chan 0 2).xfers.map (fun x => (x.send, x.peer, x.tag, x.count)) == [(true, 1, 7, 64), (true, 3, 7, 64)]) = true ∧
    goes (exec (.clSend 0 2) (let s := sList (ch0 noBar [cmdOf 0 0 0 0 (7 * 2 ^ 16 + 2), endCmd])
      { s with dies := s.dies ++ [(3, die3 32)] }))
      (fun u => sends u == [(0x20, 3)] && u.net.map (fun e => (e.2.src, e.2.data.take 4, e.2.data.length)) == [(0, toBytes 4 0x3F800000, 32)]) = true ∧
    goes (exec (.clSend 0 2) (sPeer 4128 [cmdOf 0 0 0 0 (7 * 2 ^ 16 + 2), endCmd])) (fun u => sends u == [(0x30, 3)] && u.net.map (·.2.aux) == [4128]) = true ∧
    goes (exec (.msgGnt 9) sGrant) (fun u => (sends u).length == 17 && (mget? u.net 36).map (fun m => (m.addr, m.data.length, m.rsvd, m.last)) == some (4096, 32, true, true)) = true := by decide +kernel

theorem witness_ChamoisStartsAndCommands_data :
    (∃ (s : State) (d c core : Nat) (o : EngOp) (m : Cmd) (va vb len : Nat) (bs : List Byte) (t : State), AtCommand s d c core o m 3 ∧ m.x = 0 ∧ slotAt (s.chan d c).desc (loopIndex (s.chan d c)) m.a = some (va, len) ∧
      slotAt (s.chan d c).desc (loopIndex (s.chan d c)) m.b = some (vb, len) ∧ cmdTb (s.chan d c).desc m = some noBar ∧ engRead s o core 0x12 va len = .ok bs ∧ chWrite s o core vb bs = .ok t) ∧
    (∃ (s : State) (d c core : Nat) (o : EngOp) (m : Cmd) (va vb len e : Nat), AtCommand s d c core o m 3 ∧ m.x = 0 ∧ slotAt (s.chan d c).desc (loopIndex (s.chan d c)) m.a = some (va, len) ∧
      slotAt (s.chan d c).desc (loopIndex (s.chan d c)) m.b = some (vb, len) ∧ cmdTb (s.chan d c).desc m = some noBar ∧ engRead s o core 0x12 va len = .error e ∧ (s.chan d c).desc ≠ [] ∧
      ∀ j, j < 8 → fieldOf (s.chan d c).desc (40 + 4 * j) 4 = 0xFFFFFFFF) ∧
    (∃ (s : State) (d c core : Nat) (o : EngOp) (m : Cmd) (va vb n len : Nat) (bs : List Byte) (t : State), AtCommand s d c core o m 2 ∧ 0 < m.x ∧ m.x < 2 ^ 16 ∧ fieldOf (s.chan d c).desc 72 1 ≠ 0 ∧
      slotAt (s.chan d c).desc (loopIndex (s.chan d c)) m.a = some (va, n) ∧ slotAt (s.chan d c).desc (loopIndex (s.chan d c)) m.b = some (vb, len) ∧ cmdTb (s.chan d c).desc m = some noBar ∧
      engRead s o core 0x12 va (m.x * len) = .ok bs ∧
      chWrite s o core vb (redCombine (fieldOf (s.chan d c).desc 72 1) ((List.range m.x).map (fun j => (bs.drop (j * len)).take len))) = .ok t) := by
  let s1 := sList (ch0 noBar [cmdOf 3 0 0 1 0, endCmd])
  let s2 := sList (ch0 noBar [cmdOf 2 0 0 2 2, endCmd])
  obtain ⟨b1, h1⟩ := okOf (x := engRead s1 aList 0 0x12 0x10000 32) (by decide +kernel)
  have e1 : succeeds (match engRead s1 aList 0 0x12 0x10000 32 with | .ok b => chWrite s1 aList 0 0x11000 b | .error e => .error e) = true := by decide +kernel
  rw [h1] at e1
  obtain ⟨t1, w1⟩ := okOf e1
  obtain ⟨b2, h2⟩ := okOf (x := engRead s2 aList 0 0x12 0x10000 32) (by decide +kernel)
  have e2 : succeeds (match engRead s2 aList 0 0x12 0x10000 32 with
    | .ok b => chWrite s2 aList 0 0x12000 (redCombine (fieldOf (s2.chan 0 2).desc 72 1) ((List.range 2).map (fun j => (b.drop (j * 16)).take 16)))
    | .error e => .error e) = true := by decide +kernel
  rw [h2] at e2
  obtain ⟨t2, w2⟩ := okOf e2
  exact ⟨⟨s1, 0, 2, 0, aList, ⟨3, 0, 0, 1, 0⟩, 0x10000, 0x11000, 32, b1, t1, stands_of_list (by decide +kernel), rfl, by decide +kernel, by decide +kernel, by decide +kernel, h1, w1⟩,
    ⟨{ s1 with ctxs := [] }, 0, 2, 0, aList, ⟨3, 0, 0, 1, 0⟩, 0x10000, 0x11000, 32, 0x12, by
      have h := stands_of_list (ch := ch0 noBar [cmdOf 3 0 0 1 0, endCmd]) (m := ⟨3, 0, 0, 1, 0⟩) (typ := 3) (by decide +kernel)
      exact ⟨⟨h.stands.runs, h.stands.list, h.stands.inside, h.stands.cmd, h.stands.typ⟩, h.more, h.next⟩, rfl, by decide +kernel, by decide +kernel, by decide +kernel, by decide +kernel, by decide +kernel, by decide +kernel⟩,
    ⟨s2, 0, 2, 0, aList, ⟨2, 0, 0, 2, 2⟩, 0x10000, 0x12000, 32, 16, b2, t2, stands_of_list (by decide +kernel), by decide, by decide, by decide +kernel, by decide +kernel, by decide +kernel, by decide +kernel, h2, w2⟩⟩

/-- R50, R412: COPY moves 32 bytes and counts them at the barrier of flag 8; REDUCE adds 1.0 and 2.0; a source that cannot be read ends the list with 0x12. -/
theorem test_data_commands : goes (exec (.clCopy 0 2) (sList (ch0 noBar [cmdOf 3 0 0 1 0, endCmd]))) (fun u => (cohRead u 0x11000 20 0).1 == toBytes 4 0x3F800000 ++ toBytes 12 0 ++ toBytes 4 0x40000000 && (u.chan 0 2).pos == 1) = true ∧
    goes (exec (.clReduce 0 2) (sList (ch0 noBar [cmdOf 2 0 0 2 2, endCmd]))) (fun u => (cohRead u 0x12000 4 0).1 == toBytes 4 0x40400000 && (u.chan 0 2).pos == 1) = true ∧
    goes (exec (.clCopy 0 2) { sList (ch0 noBar [cmdOf 3 0 0 1 0, endCmd]) with ctxs := [] }) (fun u => (u.chan 0 2).op == none && mget (u.grp 512).openSets [] 3 == [⟨4, true, 0⟩, ⟨5, true, 0x12⟩]) = true := by decide +kernel

theorem witness_ChamoisStartsAndCommands_barriers :
    (∀ ph : Nat, ph = 0 ∨ ph = 1 → ∃ (s : State) (d c core : Nat) (o : EngOp) (m : Cmd), AtCommand s d c core o m 5 ∧ m.fl < 8 ∧ (listTbs (s.chan d c).desc).getD m.fl 0 ≠ 0xFFFFFFFF ∧ m.a = 0 ∧ m.b = 0 ∧ m.x = ph ∧
      tbTag (opLoc s o) ((listTbs (s.chan d c).desc).getD m.fl 0) = 1 ∧ (tbGet (opLoc s o) ((listTbs (s.chan d c).desc).getD m.fl 0)).ph = 1 ∧ (tbGet (opLoc s o) ((listTbs (s.chan d c).desc).getD m.fl 0)).er = 0) ∧
    (∀ idle : Bool, (∃ (s : State) (d c core : Nat) (o : EngOp) (m : Cmd), AtCommand s d c core o m 7 ∧ m.fl < 8 ∧ (listTbs (s.chan d c).desc).getD m.fl 0 ≠ 0xFFFFFFFF ∧ m.a = 0 ∧ m.b = 0 ∧ m.x = 0 ∧
        tbTag (opLoc s o) ((listTbs (s.chan d c).desc).getD m.fl 0) = 1 ∧ ((s.chan d c).xfers = [] ↔ idle = true)) ∧
      (∀ fl : Nat, fl = 0 ∨ fl = 8 → ∃ (s : State) (d c core : Nat) (o : EngOp) (m : Cmd) (va len : Nat) (e : TlbEnt) (pa : Nat), AtCommand s d c core o m 6 ∧ m.fl = fl ∧ m.b = 0 ∧
        slotAt (s.chan d c).desc (loopIndex (s.chan d c)) m.a = some (va, len) ∧ ((s.chan d c).xfers = [] ↔ idle = true) ∧ translate s o.ctx core .write va = .ok (e, pa) ∧ e.pol = 0 ∧ (s.ctx o.ctx).det = false ∧
        (physRead s 0 pa 8 e.key).2 = false) ∧
      (∃ (s : State) (d c core : Nat) (o : EngOp) (m : Cmd) (va len : Nat), AtCommand s d c core o m 10 ∧ m.fl = 0 ∧ m.b = 0 ∧ m.x = 0 ∧ slotAt (s.chan d c).desc (loopIndex (s.chan d c)) m.a = some (va, len) ∧
        ((s.chan d c).xfers = [] ↔ idle = true))) := by
  refine ⟨fun ph h => ⟨sList (ch0 0x80 [cmdOf 5 0 0 0 ph, endCmd]), 0, 2, 0, aList, ⟨5, 0, 0, 0, ph⟩, stands_of_list ?_, by show 0 < 8; decide, ?_, rfl, rfl, rfl, ?_, ?_, ?_⟩, fun idle => ⟨?_, fun fl h => ?_, ?_⟩⟩
  · rcases h with rfl | rfl <;> decide +kernel
  · rcases h with rfl | rfl <;> decide +kernel
  · rcases h with rfl | rfl <;> decide +kernel
  · rcases h with rfl | rfl <;> decide +kernel
  · rcases h with rfl | rfl <;> decide +kernel
  · refine ⟨sList (if idle then ch0 0x80 [cmdOf 7 0 0 0 0, endCmd] else open' (ch0 0x80 [cmdOf 7 0 0 0 0, endCmd])), 0, 2, 0, aList, ⟨7, 0, 0, 0, 0⟩, stands_of_list ?_, by decide, ?_, rfl, rfl, rfl, ?_, ?_⟩ <;> cases idle <;> decide +kernel
  · refine ⟨sList (if idle then ch0 0x80 [cmdOf 6 fl 0 0 9, endCmd] else open' (ch0 0x80 [cmdOf 6 fl 0 0 9, endCmd])), 0, 2, 0, aList, ⟨6, fl, 0, 0, 9⟩, 0x10000, 32, page0, 0x10000, stands_of_list ?_, rfl, rfl, ?_, ?_, ?_, rfl, rfl, ?_⟩ <;>
      cases idle <;> rcases h with rfl | rfl <;> decide +kernel
  · refine ⟨sList (if idle then ch0 0x80 [cmdOf 10 0 1 0 0, endCmd] else open' (ch0 0x80 [cmdOf 10 0 1 0 0, endCmd])), 0, 2, 0, aList, ⟨10, 0, 1, 0, 0⟩, 0x11000, 32, stands_of_list ?_, rfl, rfl, rfl, ?_, ?_⟩ <;> cases idle <;> decide +kernel

/-- R195, R413: WAITB of the current phase waits and of the other goes on; ARRIVE leaves one arrival pending; SIGNAL sets 9 or adds it to 1.0's bits, and waits for an open transfer; RANGE names slot 1. -/
theorem test_barrier_commands : exec (.clWaitb 0 2) (sList (ch0 0x80 [cmdOf 5 0 0 0 1, endCmd])) = .next (sList (ch0 0x80 [cmdOf 5 0 0 0 1, endCmd])) ∧
    goes (exec (.clWaitb 0 2) (sList (ch0 0x80 [cmdOf 5 0 0 0 0, endCmd]))) (fun u => (u.chan 0 2).pos == 1) = true ∧
    goes (exec (.clArrive 0 2) (sList (ch0 0x80 [cmdOf 7 0 0 0 0, endCmd]))) (fun u => (u.chan 0 2).pos == 1 && (tbGet ((u.blk 1).loc 0) 0x80).ap == 1) = true ∧
    goes (exec (.clSignal 0 2) (sList (ch0 0x80 [cmdOf 6 0 0 0 9, endCmd]))) (fun u => (cohRead u 0x10000 8 0).1 == toBytes 8 9 && (u.chan 0 2).pos == 1) = true ∧
    goes (exec (.clSignal 0 2) (sList (ch0 0x80 [cmdOf 6 8 0 0 9, endCmd]))) (fun u => (cohRead u 0x10000 8 0).1 == toBytes 8 0x3F800009) = true ∧
    goes (exec (.clSignal 0 2) (sList (open' (ch0 0x80 [cmdOf 6 8 0 0 9, endCmd])))) (fun u => (u.chan 0 2).pos == 0) = true ∧
    goes (exec (.clRange 0 2) (sList (ch0 0x80 [cmdOf 10 0 1 0 0, endCmd]))) (fun u => (u.chan 0 2).range == (0x11000, 32) && (u.chan 0 2).pos == 1) = true := ⟨by rfl, by decide +kernel⟩

theorem witness_ChamoisStartsAndCommands_loops :
    (∀ n : Nat, n = 0 ∨ n = 3 → ∃ (s : State) (d c core : Nat) (o : EngOp) (m : Cmd), AtCommand s d c core o m 8 ∧ (m.fl = 0 ∧ m.a = 0 ∧ m.b = 0) ∧ m.x = n ∧ (s.chan d c).loops.length = 3 ∧
      (cmdAt (s.chan d c).desc ((s.chan d c).pos + 1)).typ = 9 ∧ (s.chan d c).pos + 2 < ncmd (s.chan d c).desc ∧ (cmdAt (s.chan d c).desc ((s.chan d c).pos + 2)).typ < 12) ∧
    (∀ i : Nat, i = 1 ∨ i = 2 → ∃ (s : State) (d c core : Nat) (o : EngOp) (m : Cmd) (p : Nat), AtCommand s d c core o m 9 ∧ (m.fl = 0 ∧ m.a = 0 ∧ m.b = 0) ∧ m.x = 0 ∧ (s.chan d c).loops = [(p, 3, i)] ∧ p < ncmd (s.chan d c).desc ∧
      (cmdAt (s.chan d c).desc p).typ < 12) ∧
    (∀ idle : Bool, ∃ (s : State) (d c core : Nat) (o : EngOp) (m : Cmd), StandsAt s d c core o m 11 ∧ (m.fl = 0 ∧ m.a = 0 ∧ m.b = 0) ∧ m.x = 0 ∧ ((s.chan d c).xfers = [] ↔ idle = true) ∧ fieldOf (s.chan d c).desc 24 8 = 0) ∧
    (∃ (s : State) (d c core : Nat) (o : EngOp) (m : Cmd), StandsAt s d c core o m 9 ∧ (s.chan d c).loops = [] ∧ (s.chan d c).xfers = [] ∧ (s.chan d c).desc ≠ [] ∧ ∀ j, j < 8 → fieldOf (s.chan d c).desc (40 + 4 * j) 4 = 0xFFFFFFFF) := by
  refine ⟨fun n h => ⟨sList { ch0 noBar [cmdOf 8 0 0 0 n, cmdOf 9 0 0 0 0, endCmd] with loops := [(9, 2, 0), (9, 2, 0), (9, 2, 0)] }, 0, 2, 0, aList, ⟨8, 0, 0, 0, n⟩, stands_of_list ?_, ⟨rfl, rfl, rfl⟩, rfl, rfl, ?_, ?_, ?_⟩,
    fun i h => ⟨sList { ch0 noBar [cmdOf 8 0 0 0 3, cmdOf 10 0 0 0 0, cmdOf 9 0 0 0 0, endCmd] with pos := 2, loops := [(1, 3, i)] }, 0, 2, 0, aList, ⟨9, 0, 0, 0, 0⟩, 1, stands_of_list ?_, ⟨rfl, rfl, rfl⟩, rfl, rfl, ?_, ?_⟩,
    fun idle => ⟨sList (if idle then ch0 noBar [endCmd, endCmd] else open' (ch0 noBar [endCmd, endCmd])), 0, 2, 0, aList, ⟨11, 0, 0, 0, 0⟩, (stands_of_list ?_).stands, ⟨rfl, rfl, rfl⟩, rfl, ?_, ?_⟩,
    ⟨sList (ch0 noBar [cmdOf 9 0 0 0 0, endCmd]), 0, 2, 0, aList, ⟨9, 0, 0, 0, 0⟩, (stands_of_list (by decide +kernel)).stands, rfl, rfl, by decide +kernel, by decide +kernel⟩⟩
  all_goals first
    | (rcases h with rfl | rfl <;> decide +kernel)
    | (cases idle <;> decide +kernel)

/-- R412, R414: a loop of three opens, of none is skipped; the second iteration begins at the LOOP's successor, and after the third the loop closes; END, the last command, ends the operation. -/
theorem test_loops : goes (exec (.clLoop 0 2) (sList (ch0 noBar [cmdOf 8 0 0 0 3, cmdOf 9 0 0 0 0, endCmd]))) (fun u => (u.chan 0 2).loops == [(1, 3, 0)] && (u.chan 0 2).pos == 1) = true ∧
    goes (exec (.clLoop 0 2) (sList (ch0 noBar [cmdOf 8 0 0 0 0, cmdOf 9 0 0 0 0, endCmd]))) (fun u => (u.chan 0 2).loops == [] && (u.chan 0 2).pos == 2) = true ∧
    goes (exec (.clEndloop 0 2) (sList { ch0 noBar [cmdOf 8 0 0 0 3, cmdOf 9 0 0 0 0, endCmd] with pos := 1, loops := [(1, 3, 1)] })) (fun u => (u.chan 0 2).loops == [(1, 3, 2)] && (u.chan 0 2).pos == 1) = true ∧
    goes (exec (.clEndloop 0 2) (sList { ch0 noBar [cmdOf 8 0 0 0 3, cmdOf 9 0 0 0 0, endCmd] with pos := 1, loops := [(1, 3, 2)] })) (fun u => (u.chan 0 2).loops == [] && (u.chan 0 2).pos == 2) = true ∧
    goes (exec (.clEnd 0 2) (sList (ch0 noBar [endCmd]))) (fun u => (u.chan 0 2).op == none && mget (u.grp 512).openSets [] 3 == [⟨4, true, 0⟩, ⟨5, true, 0⟩]) = true ∧
    goes (exec (.clEndloop 0 2) (sList (ch0 noBar [cmdOf 9 0 0 0 0, endCmd]))) (fun u => (u.chan 0 2).op == none && mget (u.grp 512).openSets [] 3 == [⟨4, true, 0⟩, ⟨5, true, 0x13⟩]) = true := by decide +kernel

/-- A queued CLRUN, with its list at 0x20000 and the peers at 0x38000, or a list that no page maps; a fallback since cycle 0. -/
def sQueued (lo hi : W32) : State :=
  { sOp (anOp 0xF4 3 2 0x21 false [lo, hi]) (cwrite (cwrite [] 0x20000 (listBytes noBar [endCmd])) 0x38000 peers) [] with nextId := 20 }
def queuedOp (lo hi : W32) : EngOp := { anOp 0xF4 3 2 0x21 false [lo, hi] with eng := 2 }
def sStartQ (lo hi : W32) : State := { sQueued lo hi with cores := [(0, { tlb := [page0], colQ := [queuedOp lo hi] })] }
def sFall (clock : Nat) : State := wdog 10 { sList { ch0 noBar [endCmd] with fallback := some 0 } with clock := clock }
def withClock (n : Nat) (s : State) : State := { s with clock := n }

theorem witness_ChamoisStartsAndCommands_starts :
    (∃ (s : State) (d c : Nat), (s.chan d c).op ≠ none) ∧ (∃ (s : State) (d c : Nat), (s.chan d c).op = none ∧ ∀ e ∈ s.cores, e.2.colQ = []) ∧
    (∀ good : Bool, ∃ (s : State) (d c core : Nat) (o : EngOp), (s.chan d c).op = none ∧ s.cores = [(core, s.core core)] ∧ dieOfCore core = d ∧ (s.core core).colQ = [o] ∧ (s.core core).copyQ = [] ∧ (s.core core).mxQ = [] ∧
      (s.core core).skQ = [] ∧ o.eng = c ∧ o.started = false ∧ (s.blk o.block).stage ≠ .saved ∧ (s.pkg (d / 2)).linkRetrain = false ∧ (o.extra.headD (0, 0)).1 < s.clock ∧ o.opc = 0xF4 ∧ (s.ctx o.ctx).det = false ∧ (s.chan d c).desc = [] ∧ (s.chan d c).pos = 0 ∧ (s.chan d c).ending = none ∧
      let t := (s.modCore core (fun k => { k with colQ := [{ o with started := true }] })).modChan d c (fun k => { k with op := some (core, o.id) })
      if good then chRead t core o = .ok (listBytes noBar [endCmd], peers) ∧ 0 < ncmd (listBytes noBar [endCmd]) ∧ (cmdAt (listBytes noBar [endCmd]) 0).typ < 12 else chRead t core o = .error 0x12) ∧
    (∀ clock : Nat, clock = 9 * 1300 ∨ clock = 10 * 1300 → ∃ (s : State) (d c core : Nat) (o : EngOp), chanOp s d c = some (core, o) ∧ (s.chan d c).fallback ≠ none ∧ (s.ctx o.ctx).wdog = 10 ∧
      (elapsedUs s (d / 2) (s.chan d c).since < 10 ↔ clock = 9 * 1300)) := by
  refine ⟨⟨sList (ch0 noBar []), 0, 2, by decide +kernel⟩, ⟨s0, 0, 2, by decide +kernel, by decide +kernel⟩,
    fun good => ⟨sStartQ 0x20000 (if good then 0 else 1 <<< 25), 0, 2, 0, queuedOp 0x20000 (if good then 0 else 1 <<< 25), rfl, rfl, by decide, rfl, rfl, rfl, rfl, rfl, rfl, by show BlockStage.running ≠ .saved; decide, rfl, by show 0 < 1000; decide, rfl, rfl, rfl, rfl, rfl, ?_⟩,
    fun clock h => ⟨withClock clock (sFall 0), 0, 2, 0, aList, by rfl, by show some 0 ≠ none; decide, rfl, by rcases h with rfl | rfl <;> decide +kernel⟩⟩
  cases good <;> decide +kernel

/-- R397, R410, R411: the list starts at its first command; one that no page maps ends with 0x12; a fallback ends after 10 µs with 0x14. -/
theorem test_starts : goes (exec (.chamoisOpStart 0 2) (sStartQ 0x20000 0)) (fun u => (u.chan 0 2).op == some (0, 5) && (u.chan 0 2).desc == listBytes noBar [endCmd] && (u.chan 0 2).mesh == peers && (u.chan 0 2).pos == 0 &&
      (u.core 0).colQ == [{ queuedOp 0x20000 0 with started := true }]) = true ∧
    goes (exec (.chamoisOpStart 0 2) (sStartQ 0x20000 (1 <<< 25))) (fun u => (u.chan 0 2).op == none && (u.core 0).colQ == [] && mget (u.grp 512).openSets [] 3 == [⟨4, true, 0⟩, ⟨5, true, 0x12⟩]) = true ∧
    goes (exec (.fallbackWatchdogLimit 0 2) (withClock 12999 (sFall 0))) (fun u => (u.chan 0 2).op == some (0, 5)) = true ∧
    goes (exec (.fallbackWatchdogLimit 0 2) (withClock 13000 (sFall 0))) (fun u => (u.chan 0 2).op == none && mget (u.grp 512).openSets [] 3 == [⟨4, true, 0⟩, ⟨5, true, 0x14⟩]) = true := by decide +kernel

end Sys2Proof.Tests
end

section
/-!
PROOFS. The state after reset and the two resets (R6, R148, R379): what a reset leaves of the machine.
-/
namespace Sys2Proof.Machine

/-- The lanes of a word of ones are the 32 lanes. -/
theorem laneIn_ones (l : Nat) : laneIn 0xFFFFFFFF l = decide (l < 32) := by
  rw [laneIn, show (0xFFFFFFFF : W32) = BitVec.allOnes 32 from rfl, BitVec.getLsbD_allOnes]

/-- A map made from the numbers below `n` lists exactly these. -/
theorem mget?_map_range' {V : Type} (f : Nat → V) (a n k : Nat) :
    mget? ((List.range' a n).map (fun i => (i, f i))) k = if a ≤ k ∧ k < a + n then some (f k) else none := by
  induction n generalizing a with
  | zero => simp [mget?]
  | succ n ih =>
    rw [List.range'_succ, List.map_cons, mget?, ih]
    by_cases h : k = a
    · subst h
      simp
    · grind

theorem mget_map_range {V : Type} (f : Nat → V) (d : V) {n k : Nat} (h : k < n) :
    mget ((List.range n).map (fun i => (i, f i))) d k = f k := by
  rw [mget, List.range_eq_range', mget?_map_range', if_pos ⟨Nat.zero_le k, by omega⟩]
  rfl

/-- A package of the pod after a reset is a new one whose clock counts from now. -/
theorem resetModules_pkg (s : State) (ports : FMap PortSt) {p : Nat} (h : p < s.packages) :
    (resetModules s ports).pkg p = { resetAt := s.clock, time := s.clock } :=
  mget_map_range _ _ h

/-- Settles O43: each table of the reset state is empty, so every register reads as its default. -/
theorem resetStateIsCanonicalAndEmpty : Obligations.ResetStateIsCanonicalAndEmpty := by
  refine ⟨rfl, fun _ => rfl, rfl, rfl, rfl, rfl, rfl, rfl, rfl, fun _ _ => rfl, fun _ => ⟨rfl, rfl⟩, ?_⟩
  rintro g rfl
  exact ⟨rfl, rfl, rfl, rfl, rfl, fun _ => rfl, fun _ _ => rfl, laneIn_ones, rfl, fun _ => rfl⟩

/-- Settles O45: both resets are `resetModules`, once with the ports as they are and once with all ports in service. -/
theorem resetsClearTheMachine : Obligations.ResetsClearTheMachine := by
  intro s
  refine ⟨resetModules s s.ports, resetModules s [], rfl, rfl, rfl, fun _ => rfl, fun t ht => ?_⟩
  obtain ⟨ports, rfl⟩ : ∃ ports, t = resetModules s ports := by
    rcases ht with rfl | rfl
    · exact ⟨s.ports, rfl⟩
    · exact ⟨[], rfl⟩
  refine ⟨rfl, rfl, rfl, rfl, rfl, rfl, rfl, rfl, rfl, rfl, rfl, rfl, rfl, fun _ _ => ⟨rfl, rfl, rfl⟩, fun p hp => ?_⟩
  rw [resetModules_pkg s ports hp]
  exact ⟨Nat.sub_self s.clock, rfl, rfl, rfl, rfl⟩

end Sys2Proof.Machine
end

section
/-!
PROOFS. Time and the ends of holds (R5, R30, R105, R106, R178).
-/
namespace Sys2Proof.Machine

/-! ## Time (R5) -/

/-- Where every change of the clock lies at or before a cycle, the time since it counts at the present clock. -/
theorem spanUs_of_unchanged {since : Nat} {cs : List (Nat × Nat)} (h : ∀ c ∈ cs, c.1 ≤ since) (till mhz : Nat) :
    spanUs since till mhz cs = (till - since, mhz) := by
  cases cs with
  | nil => rfl
  | cons c cs => simp [spanUs, h c (List.mem_cons_self ..)]

/-- Where one change lies after a cycle, the time since it is the sum of two spans. -/
theorem spanUs_of_changed {since a old : Nat} {cs : List (Nat × Nat)} (ha : since < a) (h : ∀ c ∈ cs, c.1 ≤ since) (till mhz : Nat) :
    spanUs since till mhz ((a, old) :: cs) = ((till - a) * old + (a - since) * mhz, old * mhz) := by
  rw [spanUs, if_neg (by omega), spanUs_of_unchanged h]

theorem timePasses_holds : Claims.timePasses := by
  intro s p t
  refine ⟨fun h => ?_, fun a mhz rest hc ha h => ?_⟩
  · rw [elapsedUs, spanUs_of_unchanged h]
  · rw [elapsedUs, hc, spanUs_of_changed ha h]

/-! ## The hold that stands in front -/

/-- Two changes of a group that agree on it agree on the state. -/
theorem State.modGrp_congr {s : State} {g : Nat} {f f' : Group → Group} (h : f (s.grp g) = f' (s.grp g)) : s.modGrp g f = s.modGrp g f' := by
  rw [State.modGrp, State.modGrp, h]

/-- The end of a hold, as the statement writes it. -/
theorem endHold_eq_released {s : State} {g : Nat} {h : Hold} (hh : (s.grp g).hold = some h) : endHold s g = Claims.released s g h :=
  State.modGrp_congr (by rw [hh]; rfl)

/-- A hold in front that passes stays there. -/
theorem focusHold_of_front {s : State} {g : Nat} {h : Hold} {p : HoldKind → Bool} (hh : (s.grp g).hold = some h) (hp : p h.kind = true) :
    focusHold s g p = s := by
  unfold focusHold
  cases h2 : (s.grp g).hold2 <;> simp [hh, hp, h2]

/-! ## SLEEP and YIELD (R105, R106) -/

/-- SLEEP ends at its cycle. -/
theorem execSleepEnd_of_sleep {s : State} {g t : Nat} {h : Hold} (hh : (s.grp g).hold = some h) (hk : h.kind = .sleep t) :
    execSleepEnd g s = .next (if t ≤ s.clock then Claims.released s g h else s) := by
  simp only [execSleepEnd, focusHold_of_front hh (p := isSleep) (by rw [hk]; rfl), hh, hk, endHold_eq_released hh]
  split <;> rfl

/-- A group has had its turn since a cycle, as YIELD counts it: it has issued, or it has ended. -/
def hadTurn (s : State) (since o : Nat) : Prop := (s.grp o).stop = .ended ∨ ∃ x, (s.grp o).lastIssue = some x ∧ since ≤ x

/-- What a conditional is, by what decides its condition. -/
theorem ite_of_iff {A : Type} {c P : Prop} [Decidable c] (h : c ↔ P) (a b : A) :
    (P → (if c then a else b) = a) ∧ (¬ P → (if c then a else b) = b) :=
  ⟨fun p => if_pos (h.mpr p), fun p => if_neg (mt h.mp p)⟩

/-- YIELD ends after its cycles, or when every group it waits for has had its turn. -/
theorem execYieldEnd_of_yield {s : State} {g t : Nat} {os : List Nat} {h : Hold} (hh : (s.grp g).hold = some h) (hk : h.kind = .yield os t) :
    ((t ≤ s.clock ∨ ∀ o ∈ os, hadTurn s h.since o) → execYieldEnd g s = .next (Claims.released s g h)) ∧
    (¬ (t ≤ s.clock ∨ ∀ o ∈ os, hadTurn s h.since o) → execYieldEnd g s = .next s) := by
  simp only [execYieldEnd, focusHold_of_front hh (p := isYield) (by rw [hk]; rfl), hh, hk, endHold_eq_released hh]
  refine ite_of_iff ?_ _ _
  simp only [Bool.or_eq_true, decide_eq_true_eq, List.all_eq_true]
  refine or_congr_right (forall₂_congr fun o _ => ?_)
  cases hl : (s.grp o).lastIssue <;> simp [hadTurn, Group.live, hl]

/-! ## The watchdog (R30) -/

/-- Of a hold of one word, the watchdog looks at its kind and its time. -/
theorem execWatchdogExpiry_of_hold {s : State} {g : Nat} {h : Hold} (hh : (s.grp g).hold = some h) (h2 : (s.grp g).hold2 = none)
    (hs : (s.grp g).stop = .running) (hb : (s.blk (g / 512)).stage = .running) :
    execWatchdogExpiry g s =
      .next (if bounded s g h.kind = true ∧ wdogUs s g ≤ elapsedUs s (s.pkgOf g) h.since then faultWait s g (fi fcWatchdog) else s) := by
  simp only [execWatchdogExpiry, blockOf, Group.holds, hh, h2, hs, hb]
  simp
  split <;> rfl

theorem execWatchdogExpiry_of_stopped {s : State} {g : Nat} (hs : (s.grp g).stop ≠ .running) : execWatchdogExpiry g s = .next s := by
  simp [execWatchdogExpiry, hs]

/-- A plain wait is bounded, and has done nothing that is to be taken back. -/
theorem plainWait_spec {k : HoldKind} (hk : Claims.plainWait k = true) (s : State) (g : Nat) : bounded s g k = true ∧ takeBack s g k = s := by
  unfold Claims.plainWait at hk
  split at hk
  case h_7 => cases hk
  all_goals exact ⟨rfl, rfl⟩

theorem faultWait_of_plainWait {s : State} {g : Nat} {h : Hold} (hh : (s.grp g).hold = some h) (h2 : (s.grp g).hold2 = none)
    (hk : Claims.plainWait h.kind = true) (f : FaultInfo) : faultWait s g f = faultHeld s g f := by
  simp [faultWait, Group.holds, hh, h2, (plainWait_spec hk _ _).2]

/-- The watchdog ends no SLEEP. -/
theorem execWatchdogExpiry_of_sleep {s : State} {g t : Nat} {h : Hold} (hh : (s.grp g).hold = some h) (hk : h.kind = .sleep t)
    (h2 : (s.grp g).hold2 = none) : execWatchdogExpiry g s = .next s := by
  by_cases hs : (s.grp g).stop = .running
  · by_cases hb : (s.blk (g / 512)).stage = .running
    · rw [execWatchdogExpiry_of_hold hh h2 hs hb, hk]
      simp [bounded]
    · simp [execWatchdogExpiry, blockOf, hb]
  · exact execWatchdogExpiry_of_stopped hs

/-! ## What an acquire leaves alone (R164) -/

/-- A fold of steps that keep a part of the state keeps it. -/
theorem foldl_keeps {A B : Type} (r : State → B) {f : State → A → State} (hf : ∀ s a, r (f s a) = r s) (l : List A) (s : State) :
    r (l.foldl f s) = r s := by
  induction l generalizing s with
  | nil => rfl
  | cons a l ih => exact (ih (f s a)).trans (hf s a)

theorem mget?_mmap {V W : Type} (f : Nat → V → W) (m : FMap V) (n : Nat) : mget? (mmap f m) n = (mget? m n).map (f n) := by
  induction m with
  | nil => rfl
  | cons e m ih =>
    simp only [mmap, mget?]
    split
    · next h => simp [h]
    · exact ih

/-- Of a group, a fill that will not install changes nothing but the accesses that are outstanding. -/
theorem markFills_grp (s : State) (core : Nat) (p : Req → Bool) (k : Nat) :
    ∃ acc, (markFills s core p).grp k = { s.grp k with acc := acc } := by
  cases hk : mget? s.groups k with
  | none => exact ⟨[], by simp [markFills, State.grp, mget, mget?_mmap, hk]⟩
  | some x =>
    simp only [markFills, State.grp, mget, mget?_mmap, hk, Option.map_some, Option.getD_some]
    split
    · exact ⟨_, rfl⟩
    · exact ⟨x.acc, rfl⟩

theorem acquire_grp (s : State) (g scope k : Nat) : ∃ acc, (acquire s g scope).grp k = { s.grp k with acc := acc } := by
  unfold acquire
  induction acquireCores s g scope generalizing s with
  | nil => exact ⟨(s.grp k).acc, rfl⟩
  | cons c cs ih =>
    obtain ⟨acc, h⟩ := ih (invalidateL1 s c false (fun _ => true))
    obtain ⟨acc', h'⟩ := markFills_grp _ c _ k
    exact ⟨acc, h.trans (by rw [invalidateL1, h']; rfl)⟩

/-- Two groups agree on their holds, their g- and v-registers and the poison of the g-registers. -/
structure SameRegs (x y : Group) : Prop where
  hold : x.hold = y.hold
  hold2 : x.hold2 = y.hold2
  v : x.v = y.v
  g : x.g = y.g
  badG : x.badG = y.badG

theorem acquire_regs (s : State) (g scope k : Nat) : SameRegs ((acquire s g scope).grp k) (s.grp k) := by
  obtain ⟨acc, h⟩ := acquire_grp s g scope k
  rw [h]
  constructor <;> rfl

theorem acquire_mem (s : State) (g scope : Nat) : (acquire s g scope).mem = s.mem := foldl_keeps State.mem (by intro _ _; rfl) _ s
theorem acquire_l2 (s : State) (g scope : Nat) : (acquire s g scope).l2 = s.l2 := foldl_keeps State.l2 (by intro _ _; rfl) _ s

/-! ## WAITA (R178) -/

theorem mem_sadd (l : List Nat) (n k : Nat) : k ∈ sadd l n ↔ k = n ∨ k ∈ l := by
  unfold sadd
  split
  · next h => exact ⟨.inr, fun h' => h'.elim (fun e => e ▸ List.contains_iff_mem.mp h) id⟩
  · exact List.mem_cons

theorem mem_srem (l : List Nat) (n k : Nat) : k ∈ srem l n ↔ k ∈ l ∧ k ≠ n := by simp [srem]

/-- The poison of a g-register after a write to it is that of the value. -/
theorem Group.apply1_g_badG (x : Group) (n : Nat) (v : W32) (bad : Bool) : n ∈ (x.apply1 (.g n v bad)).badG ↔ bad = true := by
  cases bad <;> simp [Group.apply1, Group.wg, mem_sadd, mem_srem]

/-- WAITA reads the old value: it waits on. -/
theorem pollWaita_of_same {s : State} {g : Nat} {h : Hold} {sp : Bool} {addr size gd old : Nat} {bad : Bool} (hh : (s.grp g).hold = some h)
    (hk : h.kind = .waita sp addr size gd old) (hr : waitaRead s g sp addr size = .ok (old, bad)) : pollWaita s g = s := by
  obtain ⟨k, since, pc, setk⟩ := h
  obtain rfl : k = _ := hk
  simp [pollWaita, hh, hr]

/-- WAITA reads a new value of 4 bytes: it gives the value, acquires and goes on. -/
theorem pollWaita_of_new {s : State} {g : Nat} {h : Hold} {sp : Bool} {addr gd old v : Nat} {bad : Bool} (hh : (s.grp g).hold = some h)
    (hk : h.kind = .waita sp addr 4 gd old) (hr : waitaRead s g sp addr 4 = .ok (v, bad)) (hv : v ≠ old) (hp : s.probe.on = false) :
    pollWaita s g = endHold (acquire (s.modGrp g (fun x => x.apply1 (.g gd (BitVec.ofNat 32 v) bad))) g (if sp then 2 else 6)) g := by
  obtain ⟨k, since, pc, setk⟩ := h
  obtain rfl : k = _ := hk
  simp [pollWaita, hh, hr, hv, State.give, hp, Group.applyAll, List.range_succ]

theorem execWaitaWake_of_waita {s : State} {g : Nat} {h : Hold} {sp : Bool} {addr size gd old : Nat} (hh : (s.grp g).hold = some h)
    (hk : h.kind = .waita sp addr size gd old) (hs : (s.grp g).stop = .running) : execWaitaWake g s = .next (pollWaita s g) := by
  simp only [execWaitaWake, wakeWaitaOf, hs, ne_eq, not_true_eq_false, if_false]
  rw [focusHold_of_front hh (by rw [hk])]

theorem Group.kDec_regs (x : Group) (setk : Nat) : SameRegs (x.kDec setk) x := by
  unfold Group.kDec
  split <;> constructor <;> rfl

/-- The end of a hold leaves the registers. -/
theorem endHold_regs {s : State} {g : Nat} {h : Hold} (hh : (s.grp g).hold = some h) :
    ((endHold s g).grp g).v = (s.grp g).v ∧ ((endHold s g).grp g).g = (s.grp g).g ∧ ((endHold s g).grp g).badG = (s.grp g).badG := by
  have k := Group.kDec_regs (s.grp g) h.setk
  rw [endHold_eq_released hh, Claims.released, State.modGrp_grp_same]
  exact ⟨k.v, k.g, k.badG⟩

/-- The group that a WAITA lets go on: its hold is over, and of its registers gD alone is written. -/
theorem pollWaita_grp_of_new {s : State} {g : Nat} {h : Hold} {sp : Bool} {addr gd old v : Nat} {bad : Bool} (hh : (s.grp g).hold = some h)
    (hk : h.kind = .waita sp addr 4 gd old) (hr : waitaRead s g sp addr 4 = .ok (v, bad)) (hv : v ≠ old) (hp : s.probe.on = false) :
    let x := (pollWaita s g).grp g
    let y := (s.grp g).apply1 (.g gd (BitVec.ofNat 32 v) bad)
    x.hold = (s.grp g).hold2 ∧ x.hold2 = none ∧ x.v = y.v ∧ x.g = y.g ∧ x.badG = y.badG := by
  rw [pollWaita_of_new hh hk hr hv hp]
  have a := acquire_regs (s.modGrp g (fun x => x.apply1 (.g gd (BitVec.ofNat 32 v) bad))) g (if sp then 2 else 6) g
  rw [State.modGrp_grp_same] at a
  have ha := a.hold.trans (show _ = some h from hh)
  obtain ⟨e1, e2⟩ := endHold_hold ha
  obtain ⟨ev, eg, eb⟩ := endHold_regs ha
  exact ⟨e1.trans a.hold2, e2, ev.trans a.v, eg.trans a.g, eb.trans a.badG⟩

/-! ## The ends of holds together -/

theorem holdsEnd_holds : Claims.holdsEnd := by
  intro s g h hh
  refine ⟨fun t hk => ⟨fun ht => ?_, fun ht => ?_, execWatchdogExpiry_of_sleep hh hk⟩, fun os t hk => execYieldEnd_of_yield hh hk,
    fun sp addr size gd old v bad hk hs hr => ⟨fun hv => ?_, fun hv h4 hlt hp => ?_⟩,
    fun hk h2 hs hb => ⟨fun ht => ?_, fun ht => ?_⟩, execWatchdogExpiry_of_stopped⟩
  · rw [exec_sleepEnd, execSleepEnd_of_sleep hh hk, if_pos ht]
  · rw [exec_sleepEnd, execSleepEnd_of_sleep hh hk, if_neg (by omega)]
  · subst hv
    rw [exec_waitaWake, execWaitaWake_of_waita hh hk hs, pollWaita_of_same hh hk hr]
  · subst h4
    obtain ⟨u1, u2, uv, ug, ub⟩ := pollWaita_grp_of_new hh hk hr hv hp
    have hpoll := pollWaita_of_new hh hk hr hv hp
    refine ⟨pollWaita s g, ?_, ?_, ?_, u1, u2, ?_, ?_, fun r hne => ?_, uv⟩
    · rw [exec_waitaWake, execWaitaWake_of_waita hh hk hs]
    · rw [hpoll, endHold_mem, acquire_mem, State.modGrp_mem]
    · rw [hpoll]
      exact acquire_l2 _ _ _
    · rw [Group.rg, ug]
      exact (congrArg BitVec.toNat (Group.wg_rg_same gd (s.grp g) _)).trans (by rw [BitVec.toNat_ofNat, Nat.mod_eq_of_lt hlt])
    · rw [ub]
      exact Group.apply1_g_badG _ gd _ bad
    · rw [Group.rg, ug]
      exact Group.wg_rg_ne gd r (s.grp g) _ hne
  · rw [exec_watchdogExpiry, execWatchdogExpiry_of_hold hh h2 hs hb, if_pos ⟨(plainWait_spec hk s g).1, ht⟩,
      faultWait_of_plainWait hh h2 hk]
    rfl
  · rw [exec_watchdogExpiry, execWatchdogExpiry_of_hold hh h2 hs hb, if_neg (fun c => Nat.not_le.mpr ht c.2)]

end Sys2Proof.Machine
end

section
/-!
PROOFS. Memory, translation and what a group issues next do not depend on the partitions.
-/
namespace Sys2Proof.Machine

/-- The state with other partitions: what the picker changes of it before it chooses. -/
def State.withParts (s : State) (ps : FMap Part) : State := { s with parts := ps }

section
variable (ps : FMap Part)

theorem foldl_withParts {A : Type} {f : State → A → State} (hf : ∀ s a, f (s.withParts ps) a = (f s a).withParts ps) (l : List A) (s : State) :
    l.foldl f (s.withParts ps) = (l.foldl f s).withParts ps := by
  induction l generalizing s with
  | nil => rfl
  | cons a l ih =>
    rw [List.foldl_cons, hf]
    exact ih (f s a)

theorem dramWrite_withParts (s : State) (pa key : Nat) (bs : List Byte) :
    dramWrite (s.withParts ps) pa key bs = (dramWrite s pa key bs).withParts ps := by
  unfold dramWrite
  rw [show (s.withParts ps).cipher = s.cipher from rfl, show (s.withParts ps).keyMat = s.keyMat from rfl]
  dsimp only
  split <;> rfl

theorem dramWriteAll_withParts (s : State) (key : Nat) (cs : List (Nat × Byte)) :
    dramWriteAll (s.withParts ps) key cs = (dramWriteAll s key cs).withParts ps :=
  foldl_withParts ps (fun s _ => dramWrite_withParts ps s _ key _) cs s

theorem writeBack_withParts (s : State) (line : Nat) : writeBack (s.withParts ps) line = (writeBack s line).withParts ps := by
  unfold writeBack
  dsimp only
  rw [show (s.withParts ps).l2 = s.l2 from rfl]
  cases mget? s.l2 (atDie (homeDie (256 * line)) line) with
  | none => rfl
  | some l => 
    dsimp only
    rw [dramWriteAll_withParts]
    rfl

theorem homeFill_withParts (s : State) (line key : Nat) : homeFill (s.withParts ps) line key = (homeFill s line key).withParts ps := by
  unfold homeFill
  dsimp only
  rw [show (s.withParts ps).l2 = s.l2 from rfl]
  cases mget? s.l2 (atDie (homeDie (256 * line)) line) with
  | none => rfl
  | some l =>
    dsimp only
    split
    · rfl
    · rw [writeBack_withParts]
      rfl

theorem mergeHome_withParts (s : State) (line key : Nat) (mask : BitVec 256) (data : BitVec 2048) (bad : BitVec 4) :
    mergeHome (s.withParts ps) line key mask data bad = (mergeHome s line key mask data bad).withParts ps := by
  unfold mergeHome
  split
  · rfl
  · rw [homeFill_withParts]
    rfl

theorem collapse_withParts (s : State) (line : Nat) : collapse (s.withParts ps) line = (collapse s line).withParts ps := by
  unfold collapse collapseWith
  dsimp only
  rw [show (s.withParts ps).dir = s.dir from rfl]
  cases mget? s.dir line with
  | none => rfl
  | some e =>
    dsimp only
    rw [show answersOf (s.withParts ps) line = answersOf s line from rfl,
      foldl_withParts ps (fun s m => mergeHome_withParts ps s _ _ _ _ _), foldl_withParts ps]
    · rfl
    · intro s d
      rw [show copyAt (s.withParts ps) d line = copyAt s d line from rfl]
      cases copyAt s d line with
      | none => rfl
      | some l => exact mergeHome_withParts ps (dropSealed (dropCopy s d line) d line) line _ _ _ _

theorem homeData_withParts (s : State) (line key : Nat) : homeData (s.withParts ps) line key = homeData s line key := by
  unfold homeData
  rw [writeBack_withParts]
  rfl

theorem curSame_withParts (s : State) (line key : Nat) : curSame (s.withParts ps) line key = curSame s line key := by
  unfold curSame
  rw [homeData_withParts]
  rfl

theorem curLine_withParts (s : State) (line key : Nat) : curLine (s.withParts ps) line key = curLine s line key := by
  unfold curLine
  rw [collapse_withParts, writeBack_withParts, curSame_withParts]
  rfl

theorem cohRead_withParts (s : State) (pa n key : Nat) : cohRead (s.withParts ps) pa n key = cohRead s pa n key := by
  unfold cohRead
  rw [curLine_withParts]
  rfl

theorem walk_withParts (s : State) (tkey va level table : Nat) :
    walk (s.withParts ps) tkey va level table = walk s tkey va level table := by
  induction level generalizing table with
  | zero =>
    unfold walk
    simp only [cohRead_withParts]
    generalize walkEntry 0 va _ = e
    cases e <;> rfl
  | succ l ih =>
    unfold walk
    simp only [cohRead_withParts]
    generalize walkEntry (l + 1) va _ = e
    cases e <;> simp only [ih]

theorem pageOf_withParts (s : State) (cx core va : Nat) : pageOf (s.withParts ps) cx core va = pageOf s cx core va := by
  unfold pageOf pageOf2
  rw [walk_withParts]
  rfl

theorem translate_withParts (s : State) (cx core : Nat) (k : Kind) (va : Nat) :
    translate (s.withParts ps) cx core k va = translate s cx core k va := by
  unfold translate
  rw [show pageOf (s.withParts ps) cx core = pageOf s cx core from funext (pageOf_withParts ps s cx core)]
  rfl

theorem physRead_withParts (s : State) (pol pa n key : Nat) : physRead (s.withParts ps) pol pa n key = physRead s pol pa n key := by
  unfold physRead
  simp only [cohRead_withParts]
  rfl

theorem fetchWord_withParts (s : State) (g : Nat) (a : W64) : fetchWord (s.withParts ps) g a = fetchWord s g a := by
  unfold fetchWord
  simp only [translate_withParts, physRead_withParts]
  rfl

/-- What a group issues next does not depend on the partitions. -/
theorem planOf_withParts (s : State) (g : Nat) : planOf (s.withParts ps) g = planOf s g := by
  unfold planOf
  simp only [fetchWord_withParts]
  rfl

end

end Sys2Proof.Machine
end

section
/-!
PROOFS. What leaves the groups that are chosen to issue: writes at virtual addresses, records of the fault log, the ends of kernels and blocks.
-/
namespace Sys2Proof.Machine

theorem countRegion_turn (s : State) (pa rdh : Nat) (f : Region → Region) : (countRegion s pa rdh f).turn = s.turn := by
  unfold countRegion
  split <;> rfl

theorem countRemote_turn (s : State) (core pa rdh : Nat) : (countRemote s core pa rdh).turn = s.turn := by
  unfold countRemote
  split
  · rfl
  · exact countRegion_turn s pa rdh _

theorem l1Update_turn (s : State) (core va pa : Nat) (bs : List Byte) : (l1Update s core va pa bs).turn = s.turn :=
  foldl_keeps State.turn (fun _ _ => by rfl) _ _

/-- A write at virtual addresses leaves the turn. -/
theorem virtWrite_turn {s u : State} {cx core va : Nat} {bs : List Byte} (h : virtWrite s cx core va bs = .ok u) : u.turn = s.turn := by
  unfold virtWrite at h
  split at h
  · cases h
  · obtain rfl := Except.ok.inj h
    refine foldl_keeps State.turn (fun s p => ?_) _ s
    split
    · rfl
    · refine (foldl_keeps State.turn (fun s q => l1Update_turn s core _ _ _) _ _).trans ((memStep_physWrite _ _ _ _ _).work.turn.trans ?_)
      split
      · exact foldl_keeps State.turn (fun s q => countRemote_turn s core _ _) _ s
      · rfl

theorem logTry_turn (s : State) (cx core : Nat) (rec : Nat → List Byte) : (logTry s cx core rec).1.turn = s.turn := by
  unfold logTry
  dsimp only
  split
  · split
    · rfl
    · split
      · rfl
      · split
        · rfl
        · next s1 h1 =>
          split
          · rfl
          · next s2 h2 => exact (virtWrite_turn h2).trans (virtWrite_turn h1)
  · rfl

theorem logDrop_turn (s : State) (cx core : Nat) : (logDrop s cx core).turn = s.turn := by
  unfold logDrop
  dsimp only
  split
  · rfl
  · split
    · rfl
    · next u h => exact virtWrite_turn h

theorem logPut_turn (s : State) (cx core : Nat) (rec : Nat → List Byte) : (logPut s cx core rec).1.turn = s.turn := by
  have t := logTry_turn s cx core rec
  unfold logPut
  split <;> rename_i hl <;> rw [hl] at t
  · exact t
  · exact (logDrop_turn _ cx core).trans t

theorem sweepKernel_turn (s : State) (kn : Nat) : (sweepKernel s kn).turn = s.turn := by
  unfold sweepKernel
  dsimp only
  split <;> rfl

theorem advancePhase_turn (s : State) (cx : Nat) : (advancePhase s cx).turn = s.turn := by
  unfold advancePhase
  dsimp only
  split
  · rfl
  · split <;> rfl

theorem finishKernel_turn (s : State) (kn : Nat) : (finishKernel s kn).turn = s.turn := by
  unfold finishKernel
  dsimp only
  rw [advancePhase_turn, sweepKernel_turn]
  split
  · rfl
  · split
    · next u h => exact (virtWrite_turn h).trans rfl
    · exact (logPut_turn _ _ _ _).trans rfl

theorem checkKernel_turn (s : State) (kn : Nat) : (checkKernel s kn).turn = s.turn := by
  unfold checkKernel
  split
  · rfl
  · split
    · exact sweepKernel_turn s kn
    · split
      · exact finishKernel_turn s kn
      · rfl

theorem finishBlock_turn (s : State) (b : Nat) : (finishBlock s b).turn = s.turn := by
  unfold finishBlock
  dsimp only
  rw [checkKernel_turn, State.modKrn_turn]
  split
  · rfl
  · split
    · exact foldl_keeps State.turn (fun _ _ => by rfl) _ _
    · rfl

theorem checkBlock_turn (s : State) (b : Nat) : (checkBlock s b).turn = s.turn := by
  unfold checkBlock
  split
  · exact finishBlock_turn s b
  · rfl

theorem checkCore_turn (s : State) (core : Nat) : (checkCore s core).turn = s.turn :=
  foldl_keeps State.turn (fun s (e : Nat × Block) => checkBlock_turn s e.1) (blocksOn s core) s

end Sys2Proof.Machine
end

section
/-!
PROOFS. What the picker looks at before it chooses (R18, R25, R143): nothing in a group that only waits for its turn; and the oldest of
the groups it chooses from (R145).
-/
namespace Sys2Proof.Machine

/-! ## A group that only waits for its turn -/

/-- Putting the value that a map lists leaves the map. -/
theorem mput_of_mget? {V : Type} {m : FMap V} {n : Nat} {x : V} {lo : Option Nat} (hr : risingFrom lo m = true) (h : mget? m n = some x) :
    mput m n x = m := by
  induction m generalizing lo with
  | nil => simp [mget?] at h
  | cons e m ih =>
    obtain ⟨k, v⟩ := e
    simp only [risingFrom, Bool.and_eq_true] at hr
    by_cases hk : n = k
    · simp_all [mget?, mput]
    · rw [mget?, if_neg hk] at h
      have : ¬ n < k := fun c => by simp [mget?_of_risingFrom m hr.2 (Nat.le_of_lt c)] at h
      rw [mput, if_neg this, if_neg hk, ih hr.2 h]

/-- The map of groups is in order, and lists `x` at `g`. -/
structure Lists (s : State) (g : Nat) (x : Group) : Prop where
  rising : risingFrom none s.groups = true
  at_ : mget? s.groups g = some x

theorem Lists.grp {s : State} {g : Nat} {x : Group} (h : Lists s g x) : s.grp g = x := by simp [State.grp, mget, h.at_]

theorem Lists.setGrp_self {s : State} {g : Nat} {x : Group} (h : Lists s g x) : s.setGrp g x = s := by
  rw [State.setGrp, mput_of_mget? h.rising h.at_]

theorem Lists.modGrp_self {s : State} {g : Nat} {x : Group} (h : Lists s g x) {f : Group → Group} (hf : f x = x) : s.modGrp g f = s := by
  have := h.setGrp_self
  rwa [State.setGrp, ← hf, ← h.grp] at this

/-- A group that runs, has its packet and nothing under way that the picker would look after before it chooses. -/
structure Idles (x : Group) : Prop where
  stop : x.stop = .running
  hold : x.hold = none
  hold2 : x.hold2 = none
  fence : x.fence = none
  packet : ∃ r, x.packet = some (packetOf x.pc, r)
  pend : x.pend = []
  gnext : x.gnext = none
  stack : x.stack = []
  run : x.run ≠ 0

theorem Idles.settle {x : Group} (h : Idles x) (now : Nat) : (x.settle now).genSettle now = x := by
  simp [Group.settle, h.pend, settleGo, Group.genSettle, h.gnext]

section
variable {s : State} {g : Nat} {x : Group} (hl : Lists s g x) (h : Idles x)
include hl h

theorem pollHold_of_idles : pollHold s g = s := by
  simp [pollHold, pollFront, pollSoft, hl.grp, h.stop, h.hold, h.hold2, h.fence]

theorem reconvergeAt_of_idles : reconvergeAt s g = s := by
  have hr : reconverge (2 * x.stack.length + 2) x = x := by
    rw [h.stack, reconverge, h.stack]
  simp only [reconvergeAt, hl.grp, hr]
  simp [reloads, hl.setGrp_self]

theorem endAtTop_of_idles : endAtTop s g = s := by
  have hr : (x.run == 0) = false := beq_eq_false_iff_ne.mpr h.run
  simp only [endAtTop, hl.grp, Group.atEnd, hr, Bool.and_false, Bool.false_and, Bool.not_false, Bool.true_or, if_true]

theorem fetchPacket_of_idles : fetchPacket s g = s := by
  obtain ⟨r, hr⟩ := h.packet
  simp [fetchPacket, hl.grp, hr]

/-- What the picker does for such a group before it chooses is nothing, outside a DET context. -/
theorem tend_of_idles (hd : s.isDet g = false) : tend s g = s := by
  have hs : s.modGrp g (fun gr => (gr.settle s.clock).genSettle s.clock) = s := hl.modGrp_self (h.settle s.clock)
  simp [tend, hs, pollHold_of_idles hl h, reconvergeAt_of_idles hl h, endAtTop_of_idles hl h, fetchPacket_of_idles hl h, quantumAt, hd]

end

/-! ## Steps that change a partition alone -/

/-- The picker of a partition has changed partitions alone, and not the cycle in which this one picked. -/
structure PartStep (p : Nat) (s u : State) : Prop where
  parts : ∃ ps, u = s.withParts ps
  pickedAt : (u.part p).pickedAt = (s.part p).pickedAt

theorem PartStep.refl (p : Nat) (s : State) : PartStep p s s := ⟨⟨s.parts, rfl⟩, rfl⟩

theorem PartStep.trans {p : Nat} {s u v : State} (a : PartStep p s u) (b : PartStep p u v) : PartStep p s v := by
  obtain ⟨ps, rfl⟩ := a.parts
  obtain ⟨qs, rfl⟩ := b.parts
  exact ⟨⟨qs, rfl⟩, b.pickedAt.trans a.pickedAt⟩

section
variable {p : Nat} {s u : State} (h : PartStep p s u)
include h

theorem PartStep.grp (k : Nat) : u.grp k = s.grp k := by
  obtain ⟨ps, rfl⟩ := h.parts
  rfl

theorem PartStep.clock : u.clock = s.clock := by
  obtain ⟨ps, rfl⟩ := h.parts
  rfl

theorem PartStep.turn : u.turn = s.turn := by
  obtain ⟨ps, rfl⟩ := h.parts
  rfl

theorem PartStep.planOf (g : Nat) : planOf u g = Machine.planOf s g := by
  obtain ⟨ps, rfl⟩ := h.parts
  exact planOf_withParts ps s g

theorem PartStep.singleOf (g : Nat) : singleOf u g = Machine.singleOf s g := by
  rw [Machine.singleOf, Machine.singleOf, h.planOf]

end

theorem PartStep.modPart (p : Nat) (s : State) {f : Part → Part} (h : (f (s.part p)).pickedAt = (s.part p).pickedAt) : PartStep p s (s.modPart p f) :=
  ⟨⟨_, rfl⟩, by rw [State.modPart_part_same, h]⟩

theorem PartStep.foldl {p : Nat} {A : Type} {f : State → A → State} (hf : ∀ s a, PartStep p s (f s a)) (l : List A) (s : State) :
    PartStep p s (l.foldl f s) := by
  induction l generalizing s with
  | nil => exact .refl p s
  | cons a l ih => exact (hf s a).trans (ih (f s a))

theorem partStep_occupy (s : State) (p g : Nat) : PartStep p s (occupy s p g) :=
  PartStep.foldl (fun s i => by
    dsimp only
    split
    · exact .refl p s
    · exact .modPart p s rfl) _ s

theorem partStep_freeL (s : State) (p : Nat) : PartStep p s (freeL s p) := by
  unfold freeL
  split
  · split
    · exact .refl p s
    · exact .modPart p s rfl
  · exact .refl p s

/-- A pipe that is free stays free when L is freed. -/
theorem freeL_busy (s : State) (p q k : Nat) (h : mget (s.part q).busy 0 k ≤ s.clock) : mget ((freeL s p).part q).busy 0 k ≤ s.clock := by
  unfold freeL
  split
  · split
    · exact h
    · by_cases hq : q = p
      · subst hq
        rw [State.modPart_part_same]
        by_cases hk : k = 4
        · subst hk
          rw [mget_mput_same]
          exact Nat.min_le_left _ _
        · rwa [mget_mput_ne _ _ _ _ _ hk]
      · rwa [State.modPart_part_ne _ _ _ _ hq]
  · exact h

/-- A group stays eligible where the pipes that are free stay free. -/
theorem eligible_withParts {s : State} {ps : FMap Part} {g : Nat}
    (hb : ∀ k, mget (s.part (s.grp g).part).busy 0 k ≤ s.clock → mget (mget ps {} (s.grp g).part).busy 0 k ≤ s.clock)
    (he : eligible s g = true) : eligible (s.withParts ps) g = true := by
  unfold eligible at he ⊢
  rw [planOf_withParts]
  simp only [Bool.and_eq_true, List.all_eq_true] at he ⊢
  obtain ⟨h1, h2, h3⟩ := he
  refine ⟨h1, h2, fun i hi => ?_⟩
  obtain ⟨⟨hp, hq⟩, ho⟩ := h3 i hi
  refine ⟨⟨?_, hq⟩, ho⟩
  simp only [pipeFree, Bool.or_eq_true, decide_eq_true_eq] at hp ⊢
  exact hp.imp_right (hb _)

theorem eligible_freeL {s : State} {g : Nat} (p : Nat) (he : eligible s g = true) : eligible (freeL s p) g = true := by
  obtain ⟨ps, hps⟩ := (partStep_freeL s p).parts
  have hb := fun k => freeL_busy s p (s.grp g).part k
  rw [hps] at hb ⊢
  exact eligible_withParts hb he

/-! ## The choice (R145) -/

theorem oldest_nil (s : State) (rr : Nat) : oldest s rr [] = none := rfl

theorem oldest_single (s : State) (rr g : Nat) : oldest s rr [g] = some (g, rr) := by simp [oldest]

/-- Of two groups the one that started first is the oldest. -/
theorem oldest_pair {s : State} {a b : Nat} {el : List Nat} (rr : Nat) (hel : el = [a, b] ∨ el = [b, a])
    (hlt : (s.grp a).startAt < (s.grp b).startAt) : oldest s rr el = some (a, rr) := by
  rcases hel with rfl | rfl
  · simp [oldest, Nat.min_eq_left (Nat.le_of_lt hlt), Nat.ne_of_gt hlt]
  · simp [oldest, Nat.min_eq_right (Nat.le_of_lt hlt), Nat.ne_of_gt hlt]

theorem filter_pair {a b : Nat} {el : List Nat} (hel : el = [a, b] ∨ el = [b, a]) {f : Nat → Bool} (ha : f a = false) :
    el.filter f = if f b then [b] else [] := by
  rcases hel with rfl | rfl <;> simp [List.filter_cons, ha]

/-- Keeping those that pass, unless none does, keeps all where all pass or none does. -/
theorem filter_or_all {el : List Nat} {f : Nat → Bool} (h : ∀ a ∈ el, ∀ b ∈ el, f a = f b) :
    (if (el.filter f).isEmpty then el else el.filter f) = el := by
  split
  · rfl
  · next he =>
    obtain ⟨a, ha⟩ := List.exists_mem_of_ne_nil (el.filter f) (fun c => he (List.isEmpty_iff.mpr c))
    obtain ⟨ha, hf⟩ := List.mem_filter.mp ha
    exact List.filter_eq_self.mpr (fun b hb => (h b hb a ha).trans hf)

/-- A fold of steps that each leave the state leaves it. -/
theorem foldl_self {A : Type} {f : State → A → State} {s : State} {l : List A} (h : ∀ a ∈ l, f s a = s) : l.foldl f s = s := by
  induction l with
  | nil => rfl
  | cons a l ih =>
    rw [List.foldl_cons, h a (List.mem_cons_self ..)]
    exact ih (fun b hb => h b (List.mem_cons_of_mem a hb))

end Sys2Proof.Machine
end

section
/-!
PROOFS. The picker's choice with one and with two groups, and its event PICKER_ISSUE (R145).
-/
namespace Sys2Proof.Machine

/-- The pipes of an issue are taken, and the pointer moves: partitions alone change. -/
theorem partStep_take (s : State) (p g rr : Nat) : PartStep p s ((occupy s p g).modPart p (fun x => { x with rr := rr })) :=
  (partStep_occupy s p g).trans (.modPart p _ rfl)

/-- A picker with one group, which is eligible, gives it the turn. -/
theorem pick_single {s : State} {p g : Nat} (hon : groupsOn s p = [g]) (he : eligible s g = true) (ht : g ∉ s.turn) :
    ∃ u, PartStep p s u ∧ pick s p = { u with turn := s.turn ++ [g] } := by
  have hel : (groupsOn s p).filter (fun g => eligible s g && !s.turn.contains g) = [g] := by simp [hon, he, ht]
  unfold pick
  dsimp only
  rw [hel, hon, foldl_self (by simp)]
  have h1 := PartStep.modPart p s (f := fun x => { x with el := [g] }) rfl
  generalize s.modPart p (fun x => { x with el := [g] }) = s1 at h1 ⊢
  rw [filter_or_all (by simp), oldest_single]
  have h2 := h1.trans (partStep_take s1 p g (s1.part p).rr)
  refine ⟨_, h2, ?_⟩
  rw [← h2.turn]
  dsimp only
  split
  · rfl
  · simp [oldest_nil]

/-- A picker with two groups, which are eligible, gives the turn to the one that started first, and then to the other where the pipes differ. -/
theorem pick_pair {s : State} {p a b : Nat} {i j : Instr} (hon : groupsOn s p = [a, b] ∨ groupsOn s p = [b, a]) (hab : a ≠ b)
    (hea : eligible s a = true) (heb : eligible s b = true) (hta : a ∉ s.turn) (htb : b ∉ s.turn)
    (hi : planOf s a = .one i) (hj : planOf s b = .one j) (hlt : (s.grp a).startAt < (s.grp b).startAt)
    (hlate : (s.grp a).fresh + 48 ≤ s.clock ↔ (s.grp b).fresh + 48 ≤ s.clock) :
    ∃ u, PartStep p s u ∧
      pick s p = { u with turn := s.turn ++ (if pipeOfOp (opcodeOf i) = pipeOfOp (opcodeOf j) then [a] else [a, b]) } := by
  have hmem : ∀ k ∈ groupsOn s p, k = a ∨ k = b := by rcases hon with h | h <;> simp [h, or_comm]
  have hel : (groupsOn s p).filter (fun g => eligible s g && !s.turn.contains g) = groupsOn s p :=
    List.filter_eq_self.mpr (fun k hk => by rcases hmem k hk with rfl | rfl <;> simp [*])
  unfold pick
  dsimp only
  rw [hel, foldl_self (fun k hk => if_pos (List.contains_iff_mem.mpr hk))]
  generalize groupsOn s p = el at hon hmem ⊢
  have h1 := PartStep.modPart p s (f := fun x => { x with el := el }) rfl
  generalize s.modPart p (fun x => { x with el := el }) = s1 at h1 ⊢
  have hsi : singleOf s1 a = some i := by rw [h1.singleOf, singleOf, hi]
  have hsj : singleOf s1 b = some j := by rw [h1.singleOf, singleOf, hj]
  have hl1 : (s1.grp a).startAt < (s1.grp b).startAt := by rwa [h1.grp, h1.grp]
  have hsame : ∀ x ∈ el, ∀ y ∈ el, decide ((s1.grp x).fresh + 48 ≤ s1.clock) = decide ((s1.grp y).fresh + 48 ≤ s1.clock) := by
    simp only [h1.grp, h1.clock]
    intro x hx y hy
    rcases hmem x hx with rfl | rfl <;> rcases hmem y hy with rfl | rfl <;> simp [hlate]
  rw [filter_or_all hsame, oldest_pair _ hon hl1]
  have h2 := h1.trans (partStep_take s1 p a (s1.part p).rr)
  simp only [hsi]
  rw [filter_pair hon (by simp)]
  simp only [hsj]
  generalize (occupy s1 p a).modPart p (fun x => { x with rr := (s1.part p).rr }) = s2 at h2 ⊢
  by_cases hp : pipeOfOp (opcodeOf i) = pipeOfOp (opcodeOf j)
  · refine ⟨s2, h2, ?_⟩
    rw [← h2.turn, if_pos hp, if_neg (by simp [hp]), oldest_nil]
  · have h3 := h2.trans (partStep_take s2 p b (s1.part p).rr)
    refine ⟨_, h3, ?_⟩
    rw [← h3.turn, if_neg hp, if_pos (by simp [hab.symm, Ne.symm hp]), oldest_single]

/-! ## The event PICKER_ISSUE (R145) -/

/-- A block with a group that has not ended is not over. -/
theorem blockOver_of_live {s : State} {b g : Nat} {x : Group} (hx : (g, x) ∈ s.groups) (hb : blockOf g = b) (hs : x.stop ≠ .ended) :
    blockOver s b = false := by
  refine Bool.eq_false_iff.mpr (fun h => ?_)
  simp only [blockOver, Bool.and_eq_true, List.all_eq_true, List.mem_filter, beq_iff_eq] at h
  exact hs (h.1.1.2 (g, x) ⟨hx, hb⟩).1

theorem blockOver_of_stage {s : State} {b : Nat} (hb : (s.blk b).stage ≠ .running) : blockOver s b = false := by
  simp [blockOver, hb]

/-- A core whose running blocks each have a group that has not ended stays as it is. -/
theorem checkCore_of_live {s : State} (h : ∀ b, (s.blk b).stage = .running → ∃ e ∈ s.groups, blockOf e.1 = b ∧ e.2.stop ≠ .ended) (core : Nat) :
    checkCore s core = s := by
  refine foldl_self (fun e _ => if_neg (Bool.eq_false_iff.mp ?_))
  by_cases hb : (s.blk e.1).stage = .running
  · obtain ⟨x, hx, hxb, hxs⟩ := h _ hb
    exact blockOver_of_live hx hxb hxs
  · exact blockOver_of_stage hb

/-- What the lead allowances of a core change lies in the cores alone. -/
theorem leads_eq (s : State) (core : Nat) : ∃ cs, leads s core = { s with cores := cs } := by
  unfold leads setLq
  split
  · dsimp only
    split
    · exact ⟨s.cores, rfl⟩
    · exact ⟨_, rfl⟩
  · exact ⟨s.cores, rfl⟩

theorem mem_distinct (l : List Nat) (n : Nat) : n ∈ distinct l ↔ n ∈ l := by
  induction l with
  | nil => rfl
  | cons a l ih =>
    rw [distinct, List.mem_cons, List.mem_cons, List.mem_filter, ih]
    by_cases h : n = a <;> simp [h]

theorem mem_of_mget? {V : Type} {m : FMap V} {n : Nat} {x : V} (h : mget? m n = some x) : (n, x) ∈ m := by
  induction m with
  | nil => simp [mget?] at h
  | cons e m ih =>
    obtain ⟨k, v⟩ := e
    rw [mget?] at h
    split at h
    · next hk => simp_all
    · exact List.mem_cons_of_mem _ (ih h)

/-- A cycle is not over while a partition with a group of a running block has not picked. -/
theorem cycleDone_of_waiting {s : State} {g : Nat} {x : Group} (hx : mget? s.groups g = some x) (hs : (s.blk (blockOf g)).stage = .running)
    (hp : (s.part x.part).pickedAt ≠ some s.clock) : cycleDone s = false := by
  have ha : x.part ∈ activeParts s := (mem_distinct _ _).mpr
    (List.mem_map.mpr ⟨(g, x), List.mem_filter.mpr ⟨mem_of_mget? hx, by simp [hs]⟩, rfl⟩)
  exact List.all_eq_false.mpr ⟨x.part, ha, by simp [hp]⟩

/-- A partition that has picked waits for the others. -/
theorem execPickerIssue_of_waiting {s : State} {p : Nat} (hp : (s.part p).pickedAt = some s.clock) (hc : cycleDone s = false) :
    execPickerIssue p s = .next s := by
  simp [execPickerIssue, hp, hc]

/-- A partition that has not picked in this cycle looks after its groups and chooses. Where looking after them does nothing, it only chooses. -/
theorem execPickerIssue_of_idle {s t : State} {p : Nat} (hp : (s.part p).pickedAt ≠ some s.clock)
    (ht : t = s.modPart p (fun x => { x with pickedAt := some s.clock })) (htend : ∀ g ∈ caredFor t p, tend t g = t) :
    execPickerIssue p s = .next (leads (checkCore (pick (freeL t p) p) (p / 8)) (p / 8)) := by
  subst ht
  unfold execPickerIssue
  simp only [hp, decide_false, Bool.false_and, if_false]
  rw [foldl_self htend]
  rfl

/-- The partition has begun its turn in this cycle. -/
def markPicked (s : State) (p : Nat) : State := s.modPart p (fun x => { x with pickedAt := some s.clock })

/-- A group of the partition that could issue now and has nothing that the picker would look after before it chooses. -/
structure Waits (s : State) (p g : Nat) (x : Group) : Prop where
  part : x.part = p
  idles : Idles x
  det : s.isDet g = false
  eligible : eligible s g = true

theorem Waits.tend {s : State} {p g : Nat} {x : Group} (h : Waits s p g x) (hl : Lists s g x) : tend (markPicked s p) g = markPicked s p :=
  tend_of_idles (s := markPicked s p) ⟨hl.rising, hl.at_⟩ h.idles h.det

/-- Marking the partition and freeing L leave a group eligible. -/
theorem Waits.eligible_freeL {s : State} {p g : Nat} {x : Group} (h : Waits s p g x) : Machine.eligible (freeL (markPicked s p) p) g = true := by
  refine Machine.eligible_freeL p (eligible_withParts (fun k hk => ?_) h.eligible)
  show mget ((markPicked s p).part (s.grp g).part).busy 0 k ≤ s.clock
  by_cases hp : (s.grp g).part = p
  · rwa [markPicked, hp, State.modPart_part_same, ← hp]
  · rwa [markPicked, State.modPart_part_ne _ _ _ _ hp]

theorem Waits.onPart {s : State} {p g : Nat} {x : Group} (h : Waits s p g x) : (x.part == p && x.live && x.stop != .saved) = true := by
  simp [h.part, Group.live, h.idles.stop]

theorem groupsOn_freeL (s : State) (p : Nat) : groupsOn (freeL (markPicked s p) p) p = groupsOn s p := by
  obtain ⟨ps, h⟩ := (partStep_freeL (markPicked s p) p).parts
  rw [h]
  rfl

theorem exists_mem_of_caredFor {s : State} {p g : Nat} (h : g ∈ caredFor s p) : ∃ x, (g, x) ∈ s.groups := by
  obtain ⟨⟨k, x⟩, hx, rfl⟩ := List.mem_map.mp h
  exact ⟨x, (List.mem_filter.mp hx).1⟩

/-- A map in order reads as what it lists. -/
theorem mget?_of_mem {V : Type} {m : FMap V} {lo : Option Nat} {n : Nat} {x : V} (hr : risingFrom lo m = true) (h : (n, x) ∈ m) :
    mget? m n = some x := by
  induction m generalizing lo with
  | nil => cases h
  | cons e m ih =>
    obtain ⟨k, v⟩ := e
    simp only [risingFrom, Bool.and_eq_true] at hr
    rcases List.mem_cons.mp h with he | hm
    · simp_all [mget?]
    · have hx := ih hr.2 hm
      have hn : n ≠ k := fun c => by simp [mget?_of_risingFrom m hr.2 (Nat.le_of_eq c)] at hx
      rw [mget?, if_neg hn, hx]

/-- Of a partition that has not picked, where every group waits so, the picker only chooses. -/
theorem execPickerIssue_of_waits {s : State} {p : Nat} (hp : (s.part p).pickedAt ≠ some s.clock) (hr : risingFrom none s.groups = true)
    (h : ∀ e ∈ s.groups, Waits s p e.1 e.2) :
    execPickerIssue p s = .next (leads (checkCore (pick (freeL (markPicked s p) p) p) (p / 8)) (p / 8)) := by
  refine execPickerIssue_of_idle hp rfl (fun g hg => ?_)
  obtain ⟨x, hx⟩ := exists_mem_of_caredFor hg
  exact (h (g, x) hx).tend ⟨hr, mget?_of_mem hr hx⟩

theorem turn_freeL (s : State) (p : Nat) : (freeL (markPicked s p) p).turn = s.turn := (partStep_freeL (markPicked s p) p).turn

/-- With one group on its core, which waits for its turn, the picker gives it the turn and changes no memory. -/
theorem execPickerIssue_of_single {s : State} {p g : Nat} {x : Group} (hp : (s.part p).pickedAt ≠ some s.clock) (hg : s.groups = [(g, x)])
    (hw : Waits s p g x) (ht : g ∉ s.turn) (hb : ∀ b, (s.blk b).stage = .running → b = g / 512) :
    ∃ u, execPickerIssue p s = .next u ∧ u.turn = s.turn ++ [g] ∧ u.clock = s.clock ∧ u.mem = s.mem ∧ (u.part p).pickedAt = some s.clock := by
  have hon : groupsOn (freeL (markPicked s p) p) p = [g] := by
    rw [groupsOn_freeL, groupsOn, hg]
    simp [hw.onPart]
  obtain ⟨u, hu, hpick⟩ := pick_single hon hw.eligible_freeL (by rwa [turn_freeL])
  rw [turn_freeL] at hpick
  have step := (partStep_freeL _ p).trans hu
  have hat : (u.part p).pickedAt = some s.clock := step.pickedAt.trans (by rw [markPicked, State.modPart_part_same])
  obtain ⟨ps, hps⟩ := step.parts
  have hcheck : checkCore { u with turn := s.turn ++ [g] } (p / 8) = { u with turn := s.turn ++ [g] } := by
    have hm : (g, x) ∈ s.groups := hg ▸ List.mem_singleton_self _
    subst hps
    refine checkCore_of_live (fun b hs => ?_) _
    exact ⟨(g, x), hm, (hb b hs).symm, by rw [hw.idles.stop]; decide⟩
  obtain ⟨cs, hcs⟩ := leads_eq { u with turn := s.turn ++ [g] } (p / 8)
  have hall : ∀ e ∈ s.groups, Waits s p e.1 e.2 := by
    rw [hg]
    exact List.forall_mem_singleton.mpr hw
  refine ⟨_, execPickerIssue_of_waits hp (by rw [hg]; rfl) hall, ?_⟩
  rw [hpick, hcheck, hcs]
  refine ⟨rfl, ?_, ?_, hat⟩ <;> rw [hps] <;> rfl

/-- With two groups that wait for their turn, the one that started first gets it, and the other the second where their pipes differ. -/
theorem execPickerIssue_of_pair {s : State} {p a b : Nat} {x y : Group} {i j : Instr} (hp : (s.part p).pickedAt ≠ some s.clock)
    (hr : risingFrom none s.groups = true) (hg : s.groups = [(a, x), (b, y)] ∨ s.groups = [(b, y), (a, x)])
    (hwx : Waits s p a x) (hwy : Waits s p b y) (ht : s.turn = []) (hi : planOf s a = .one i) (hj : planOf s b = .one j)
    (hold : x.startAt < y.startAt) (hlate : x.fresh + 48 ≤ s.clock ↔ y.fresh + 48 ≤ s.clock) :
    ∃ u, execPickerIssue p s = .next u ∧ u.turn = if pipeOfOp (opcodeOf i) = pipeOfOp (opcodeOf j) then [a] else [a, b] := by
  have hall : ∀ e ∈ s.groups, Waits s p e.1 e.2 := by
    rcases hg with hg | hg <;> simp [hg, hwx, hwy]
  have hon : groupsOn (freeL (markPicked s p) p) p = [a, b] ∨ groupsOn (freeL (markPicked s p) p) p = [b, a] := by
    rw [groupsOn_freeL, groupsOn]
    rcases hg with hg | hg <;> simp [hg, hwx.onPart, hwy.onPart]
  have ha : s.grp a = x := Lists.grp ⟨hr, mget?_of_mem hr (by rcases hg with hg | hg <;> simp [hg])⟩
  have hb : s.grp b = y := Lists.grp ⟨hr, mget?_of_mem hr (by rcases hg with hg | hg <;> simp [hg])⟩
  have step := partStep_freeL (markPicked s p) p
  have hga : (freeL (markPicked s p) p).grp a = x := (step.grp a).trans ha
  have hgb : (freeL (markPicked s p) p).grp b = y := (step.grp b).trans hb
  have hplan : ∀ k, planOf (freeL (markPicked s p) p) k = planOf s k := fun k => (step.planOf k).trans (planOf_withParts _ s k)
  obtain ⟨u, hu, hpick⟩ := pick_pair hon (fun c => by rw [c, hb] at ha; exact absurd hold (ha ▸ lt_irrefl _)) hwx.eligible_freeL hwy.eligible_freeL
    (by rw [turn_freeL, ht]; exact List.not_mem_nil) (by rw [turn_freeL, ht]; exact List.not_mem_nil)
    ((hplan a).trans hi) ((hplan b).trans hj) (by rwa [hga, hgb]) (by rw [hga, hgb, step.clock]; exact hlate)
  obtain ⟨cs, hcs⟩ := leads_eq (checkCore (pick (freeL (markPicked s p) p) p) (p / 8)) (p / 8)
  refine ⟨_, execPickerIssue_of_waits hp hr hall, ?_⟩
  rw [hcs]
  show (checkCore _ _).turn = _
  rw [checkCore_turn, hpick, turn_freeL, ht]
  rfl

theorem pickerTurn_holds : Claims.pickerTurn := by
  intro s p
  have waits : ∀ g x, (x.part = p ∧ x.stop = .running ∧ x.hold = none ∧ x.hold2 = none ∧ x.fence = none ∧
      (∃ r, x.packet = some (x.pc.toNat / 32 * 32, r)) ∧ x.pend = [] ∧ x.acc = [] ∧ x.gnext = none ∧ x.stack = [] ∧
      x.run ≠ 0 ∧ s.isDet g = false ∧ (s.blk (g / 512)).stage = .running ∧ (s.blk (g / 512)).term = none ∧ eligible s g = true) →
      Waits s p g x := by
    rintro g x ⟨part, stop, hold, hold2, fence, packet, pend, -, gnext, stack, run, det, -, -, eligible⟩
    exact { part, idles := { stop, hold, hold2, fence, packet, pend, gnext, stack, run }, det, eligible }
  refine ⟨fun hp ⟨g, x, hx, hs, hw⟩ => ?_, fun hp g x hg hr ht hb => ?_, fun hp g x h y i j hg hlt hx hy ht hi hj hne hlate => ?_⟩
  · exact execPickerIssue_of_waiting hp (cycleDone_of_waiting hx hs hw)
  · exact execPickerIssue_of_single hp hg (waits g x hr) ht hb
  · have hr : risingFrom none s.groups = true := by simp [hg, risingFrom, hlt]
    by_cases hold : x.startAt < y.startAt
    · simp only [if_pos hold]
      exact execPickerIssue_of_pair hp hr (.inl hg) (waits g x hx) (waits h y hy) ht hi hj hold hlate
    · simp only [if_neg hold, eq_comm (a := pipeOfOp (opcodeOf i))]
      exact execPickerIssue_of_pair hp hr (.inr hg) (waits h y hy) (waits g x hx) ht hj hi (by omega) hlate.symm

/-- Settles O51: time, the ends of holds, and the picker's turn. -/
theorem waitsEndAndThePickerGivesTurns : Obligations.WaitsEndAndThePickerGivesTurns :=
  ⟨timePasses_holds, holdsEnd_holds, pickerTurn_holds⟩

end Sys2Proof.Machine
end

section
/-!
PROOFS. What the instructions of a group share: the masks of lanes and their guards (R16, R61), changes of a group one after the other, and what
a group has when it issues (R12, R60).
-/
namespace Sys2Proof.Machine

/-! ## Changes of a table at one key -/

/-- Of two values put at one key the second stands. -/
theorem mput_mput {V : Type} (m : FMap V) (n : Nat) (x y : V) : mput (mput m n x) n y = mput m n y := by
  fun_induction mput m n x <;> grind [mput]

theorem State.modGrp_modGrp (s : State) (g : Nat) (f h : Group → Group) : (s.modGrp g f).modGrp g h = s.modGrp g (fun x => h (f x)) := by
  simp [State.modGrp, State.grp, mput_mput]

theorem State.modMe_modMe (s : State) (f h : Group → Group) : (s.modMe f).modMe h = s.modMe (fun x => h (f x)) := State.modGrp_modGrp s s.cur f h

/-- A fold that sets a map at distinct keys, each from what it held, changes it at these keys alone. -/
theorem mget_foldl_mset {V : Type} [DecidableEq V] (d : V) (f : V → V) {ls : List Nat} (h : ls.Nodup) (m : FMap V) (k : Nat) :
    mget (ls.foldl (fun x l => mset x d l (f (mget x d l))) m) d k = if k ∈ ls then f (mget m d k) else mget m d k := by
  induction ls generalizing m with
  | nil => simp
  | cons l ls ih =>
    obtain ⟨hl, hn⟩ := List.nodup_cons.mp h
    rw [List.foldl_cons, ih hn, mget_mset]
    by_cases hk : k = l
    · subst hk
      simp [hl]
    · simp [hk]

/-! ## Masks and lanes -/

theorem mem_lanesOf {m : W32} {l : Nat} : l ∈ lanesOf m ↔ l < 32 ∧ m.getLsbD l = true := by
  simp [lanesOf, lanes, laneIn]

theorem nodup_lanesOf (m : W32) : (lanesOf m).Nodup := List.nodup_range.filter _

/-- Bit by bit, a number built from its bits has them. -/
theorem testBit_foldr_bits (p : Nat → Bool) (a n i : Nat) :
    ((List.range' a n).foldr (fun l acc => (if p l then 1 else 0) + 2 * acc) 0).testBit i = (decide (i < n) && p (a + i)) := by
  induction n generalizing a i with
  | zero => simp
  | succ n ih =>
    rw [List.range'_succ, List.foldr_cons, show ∀ x, (if p a = true then 1 else 0) + 2 * x = Nat.bit (p a) x by intro x; cases p a <;> simp [Nat.bit]; omega]
    cases i with
    | zero => simp
    | succ i => rw [Nat.testBit_bit_succ, ih, show a + 1 + i = a + (i + 1) by omega]; simp

theorem getLsbD_maskOf (p : Nat → Bool) {l : Nat} (h : l < 32) : (maskOf p).getLsbD l = p l := by
  rw [maskOf, BitVec.getLsbD_ofNat, List.range_eq_range', testBit_foldr_bits]
  simp [h]

/-- Bit 3 of a guard negates it (R16, R61). -/
theorem guard_negates (gd : BitVec 4) : gd.getLsbD 3 = decide (gd.toNat ≥ 8) := by revert gd; decide

/-- A guard as a mask is the predicate or its complement. -/
theorem maskOf_pGuard (g : Group) (gd : BitVec 4) : maskOf (g.pGuard gd) = Claims.predMask g gd := by
  refine BitVec.eq_of_getLsbD_eq fun l hl => ?_
  rw [getLsbD_maskOf _ hl, Group.pGuard, ← guard_negates, Claims.predMask]
  cases gd.getLsbD 3 <;> simp [Group.rp, laneIn, hl]

/-- A lane predicate is clean in every running lane. -/
theorem lanePredBad_of_clean {g : Group} {gd : BitVec 4} (h : Claims.predClean g gd) : lanePredBad g (gd.toNat % 8) = false := by
  simp only [lanePredBad, List.any_eq_false, List.contains_iff_mem, mem_lanesOf]
  exact fun l hl => h l hl.1 hl.2

/-! ## Guards (R61, R153) -/

theorem any_gBad {g : Group} {rs : List Nat} (h : ∀ r ∈ rs, r ∉ g.badG) : rs.any g.gBad = false := by
  simpa [Group.gBad] using h

/-- A control or A-class instruction that acts goes on with its work. -/
theorem ctlOp_of_acts {c : Ctl} {gd : BitVec 4} {srcs : List Nat} {s : State} {k : State → Out} (h : Claims.Acts s.me gd srcs) :
    ctlOp c gd srcs s k = k s :=
  ctlOp_acts h.guard (by simpa [qGuardBad] using h.clean) (any_gBad h.srcs)

end Sys2Proof.Machine
end

section
/-!
PROOFS. Special registers and FMT (R13, R14, R95 to R97).
-/
namespace Sys2Proof.Machine

theorem State.pkgOf_eq (s : State) (g : Nat) : s.pkgOf g = s.coreOf g / 128 := Nat.div_div_eq_div_mul _ 64 2

/-- Each 32-bit special register is one register wide and reads as the rule says. -/
theorem srValue_of_special32 (s : State) : ∀ e ∈ Claims.special32 s, (srWords e.1 == some 2) = false ∧ srValue s s.cur e.1 = e.2 := by
  simp only [Claims.special32, ← State.pkgOf_eq, List.forall_mem_cons, List.not_mem_nil, false_imp_iff, implies_true, and_true]
  and_intros
  all_goals rfl

theorem execSread_of_acts {s : State} {c : Ctl} {f : FmtS3} (h : Claims.Acts s.me f.gd []) :
    execSread c f s = .next (s.fixed c 2 (wrG (srWords f.b.toNat == some 2) f.d.toNat (srValue s s.cur f.b.toNat))) := ctlOp_of_acts h

/-- The writes of a 64-bit value are those of its halves. -/
theorem wrG_true (d : Nat) (v : W64) : wrG true d v.toNat = Claims.pairG d v := by
  have lo : BitVec.ofNat 32 v.toNat = v.extractLsb' 0 32 := BitVec.eq_of_toNat_eq (by simp)
  have hi : BitVec.ofNat 32 (v.toNat / 2 ^ 32) = v.extractLsb' 32 32 := BitVec.eq_of_toNat_eq (by simp [Nat.shiftRight_eq_div_pow])
  simp only [wrG, Claims.pairG, lo, hi, if_true]

/-- What is written of a number is its value modulo 2^64. -/
theorem wrG_true_ofNat (d n : Nat) : wrG true d n = Claims.pairG d (BitVec.ofNat 64 n) := by
  rw [← wrG_true]
  have lo : BitVec.ofNat 32 (n % 2 ^ 64) = BitVec.ofNat 32 n := BitVec.eq_of_toNat_eq (by simp)
  have hi : BitVec.ofNat 32 (n % 2 ^ 64 / 2 ^ 32) = BitVec.ofNat 32 (n / 2 ^ 32) := BitVec.eq_of_toNat_eq (by simp; omega)
  simp only [wrG, BitVec.toNat_ofNat, lo, hi]

/-- The 64-bit special registers are a pair wide and read as the rule says. -/
theorem srValue_of_special64 {s : State} {n : BitVec 8} {v : W64}
    (h : (n = 0x09 ∧ v = BitVec.ofNat 64 (s.clock - (s.pkg (s.coreOf s.cur / 128)).resetAt)) ∨ (n = 0x0C ∧ v = s.me.fpc) ∨
      (n = 0x0E ∧ v = s.me.rdcnt) ∨ (n = 0x87 ∧ v = BitVec.ofNat 64 (s.core (s.coreOf s.cur)).ce)) :
    (srWords n.toNat == some 2) = true ∧ BitVec.ofNat 64 (srValue s s.cur n.toNat) = v := by
  rw [← State.pkgOf_eq] at h
  rcases h with ⟨rfl, rfl⟩ | ⟨rfl, rfl⟩ | ⟨rfl, rfl⟩ | ⟨rfl, rfl⟩
  · exact ⟨rfl, rfl⟩
  · exact ⟨rfl, BitVec.ofNat_toNat 64 (s.me.fpc)⟩
  · exact ⟨rfl, BitVec.ofNat_toNat 64 (s.me.rdcnt)⟩
  · exact ⟨rfl, rfl⟩

/-! ## What SWRITE and completed instructions do to the status (R14) -/

theorem stat_clearStat (g : Group) (m : Byte) {l : Nat} (h : l < 32) : (clearStat g m).stat l = g.stat l &&& ~~~m :=
  (mget_foldl_mset 0 (· &&& ~~~m) (ls := lanes) List.nodup_range g.astat l).trans (if_pos (List.mem_range.mpr h))

theorem Group.raiseStat_spec (g : Group) (l : Nat) (x : Byte) (t : Bool) (k : Nat) :
    (g.raiseStat l x t).stat k = (if k = l then g.stat l ||| x else g.stat k) ∧
      (g.raiseStat l x t).trap = (if t ∧ x ≠ 0 then g.trap ||| (1#32 <<< l) else g.trap) := by
  by_cases hx : x = 0
  · subst hx
    by_cases hk : k = l <;> simp [Group.raiseStat, hk]
  · rw [Group.raiseStat, if_neg hx]
    simp only [Group.stat, mget_mset, ne_eq, hx, not_false_eq_true, and_true, and_self]

theorem execSwrite_of_acts {s : State} {c : Ctl} {f : FmtS3} (h : Claims.Acts s.me f.gd [f.a.toNat]) :
    execSwrite c f s = .next (s.fixed c 2 (if f.b.toNat = 0xA then [.statClear ((s.me.rg f.a.toNat).extractLsb' 0 8)]
      else if f.b.toNat = 0xB && (s.me.rg f.a.toNat).getLsbD 6 then [.fstat 0] else [])) := by
  rw [execSwrite, ctlOp_of_acts h]
  simp only [BitVec.truncate_eq_setWidth, BitVec.setWidth_eq_extractLsb' (show 8 ≤ 32 by decide)]

/-! ## GETFMT and SETFMT (R97) -/

theorem execGetfmt_of_acts {s : State} {c : Ctl} {f : FmtS3} (h : Claims.Acts s.me f.gd []) :
    execGetfmt c f s = .next (s.fixed c 2 [.g f.d.toNat s.me.fmt false]) := ctlOp_of_acts h

theorem execSetfmt_of_acts {s : State} {c : Ctl} {f : FmtS3} (h : Claims.Acts s.me f.gd (f.a.toNat :: (if f.i then [] else [f.b.toNat]))) {n : W32}
    (hn : n = (let b : W32 := if f.i then f.b.signExtend 32 else s.me.rg f.b.toNat
      (s.me.fmt &&& ~~~b) ||| (s.me.rg f.a.toNat &&& b))) :
    execSetfmt c f s = if n.extractLsb' 0 3 = 0 ∨ n.extractLsb' 0 3 = 7 then .next (raise s (fi 0x01))
      else .next (s.fixed c 2 [.fmt (n &&& 0x0FFFFFFF)]) := by
  rw [execSetfmt, ctlOp_of_acts h]
  dsimp only at hn ⊢
  rw [← hn]
  simp [fail, fcIllegal]

/-- Settles O4: each clause is the equation of its instruction, or what a completed write does to the status. -/
theorem specialRegistersAndFormat : Obligations.SpecialRegistersAndFormat := by
  intro s c f
  refine ⟨fun h n v hv hb => ?_, fun h v hv => ?_, fun h hb => ?_, fun g m l hl => stat_clearStat g m hl,
    fun g x t l k => g.raiseStat_spec l x t k, fun h hb => ?_, fun h ha hb => ?_, fun h => execGetfmt_of_acts h, fun h n hn => execSetfmt_of_acts h hn⟩
  · obtain ⟨hw, hr⟩ := srValue_of_special32 s (n, v) hv
    rw [exec_sread, execSread_of_acts h, hb, hw, hr]
    rfl
  · obtain ⟨hw, hr⟩ := srValue_of_special64 hv
    rw [exec_sread, execSread_of_acts h, hw, wrG_true_ofNat, hr]
  · rw [exec_swrite, execSwrite_of_acts h, hb]
    rfl
  · rw [exec_swrite, execSwrite_of_acts h, hb]
    rfl
  · have ha' : f.b.toNat ≠ 0xA := fun e => ha (BitVec.eq_of_toNat_eq e)
    have hb' : f.b.toNat ≠ 0xB := fun e => hb (BitVec.eq_of_toNat_eq e)
    rw [exec_swrite, execSwrite_of_acts h, if_neg ha']
    simp [hb']

end Sys2Proof.Machine
end

section
/-!
PROOFS. Divergent transfers (R18 to R22, R101 to R103).
-/
namespace Sys2Proof.Machine

/-! ## A group that issues and is moved (R12, R60) -/

/-- A group that has issued an instruction, with its writes to come. -/
def Group.issuedAs (g : Group) (now id : Nat) (c : Ctl) (due : Option Nat) (wr : List RegWr) : Group :=
  let g := g.issued now c.setk.toNat
  if c.setk.toNat = 0 && wr.isEmpty then g else { g with pend := g.pend ++ [⟨id, due, c.setk.toNat, wr⟩] }

theorem State.issue_me (s : State) (c : Ctl) (due : Option Nat) (wr : List RegWr) :
    (s.issue c due wr).me = s.me.issuedAs s.clock s.nextId c due wr := 
  State.modGrp_grp_same s s.cur (Group.issuedAs · s.clock s.nextId c due wr)

/-- What an issue changes of a group, field by field. -/
theorem Group.issuedAs_eq (g : Group) (now id : Nat) (c : Ctl) (due : Option Nat) (wr : List RegWr) :
    g.issuedAs now id c due wr = { g with
      k := if c.setk.toNat = 0 then g.k else mset g.k 0 (c.setk.toNat - 1) (mget g.k 0 (c.setk.toNat - 1) + 1)
      pc := g.pc + 8, pfx := none, chain := none, lastIssue := some now, fresh := now, waitFrom := now, detCount := g.detCount + 1
      pend := if c.setk.toNat = 0 && wr.isEmpty then g.pend else g.pend ++ [⟨id, due, c.setk.toNat, wr⟩] } := by
  unfold Group.issuedAs Group.issued Group.kInc
  by_cases hk : c.setk.toNat = 0
  · cases h : wr.isEmpty <;> simp [hk]
  · simp [hk, Group.kc]

/-- The group that a transfer leaves. -/
def Group.jumped (g : Group) (now id : Nat) (c : Ctl) (wr : List RegWr) (target : W64) : Group :=
  { g.issuedAs now id c (some (now + 2)) wr with pc := target, packet := none }

theorem State.transfer_me (s : State) (c : Ctl) (wr : List RegWr) :
    (s.transfer c wr).me = s.me.issuedAs s.clock s.nextId c (some (s.clock + 2)) wr := s.issue_me c _ wr

theorem jump_modMe_me (s : State) (f : Group → Group) (c : Ctl) (wr : List RegWr) (target : W64) :
    ((s.modMe f).jump c wr target).me = (f s.me).jumped s.clock s.nextId c wr target := by
  rw [State.jump, State.modMe_me, State.transfer_me, State.modMe_me]
  rfl

theorem jump_modMe_mem (s : State) (f : Group → Group) (c : Ctl) (wr : List RegWr) (target : W64) :
    ((s.modMe f).jump c wr target).mem = s.mem := rfl

theorem jump_modMe_grp_ne (s : State) (f : Group → Group) (c : Ctl) (wr : List RegWr) (target : W64) {k : Nat} (h : k ≠ s.cur) :
    ((s.modMe f).jump c wr target).grp k = s.grp k := by
  exact ((State.modMe_grp_ne ((s.modMe f).transfer c wr) k _ h).trans (State.issue_grp_ne (s.modMe f) k c _ wr h)).trans (State.modMe_grp_ne s k f h)

/-- A transfer taken from a group that has been changed is the transfer, changed, where the two changes of the group agree. -/
theorem jump_modMe {s : State} {f h : Group → Group} {c : Ctl} {wr : List RegWr} {target : W64}
    (hf : (f s.me).jumped s.clock s.nextId c wr target = h (s.me.issuedAs s.clock s.nextId c (some (s.clock + 2)) wr)) :
    (s.modMe f).jump c wr target = (s.transfer c wr).modMe h := by
  have hg : mput s.groups s.cur ((f s.me).jumped s.clock s.nextId c wr target) =
      mput s.groups s.cur (h (s.me.issuedAs s.clock s.nextId c (some (s.clock + 2)) wr)) := by rw [hf]
  simp only [State.jump, State.transfer, State.issue, State.modMe, State.modGrp, State.grp, mput_mput, mget_mput_same]
  exact congrArg (fun m => { s with nextId := s.nextId + 1, groups := m }) hg

theorem relTarget_eq (pc : W64) {w : Nat} (off : BitVec w) : relTarget pc off.toInt = pc + 8 * off.signExtend 64 := by
  rw [relTarget, BitVec.ofInt_mul]
  rfl

/-! ## VBR (R18 to R20, R101) -/

/-- The lanes that leave for their depth are those of a mask that says so. -/
theorem deep_eq {g : Group} {pred deep : W32}
    (h : ∀ l, l < 32 → deep.getLsbD l = (g.run.getLsbD l && mget g.nest 0 l == 255 && g.run &&& pred != 0 && g.run &&& ~~~pred != 0)) :
    (if (g.run &&& pred) != 0 && (g.run &&& ~~~pred) != 0 then maskOf (fun l => laneIn g.run l && mget g.nest 0 l == 255) else 0) = deep := by
  refine BitVec.eq_of_getLsbD_eq fun l hl => ?_
  rw [h l hl]
  cases g.run &&& pred != 0 <;> cases g.run &&& ~~~pred != 0 <;> simp [getLsbD_maskOf _ hl, laneIn]

/-- The lanes removed for their depth, field by field (R19). -/
theorem dropDeep_eq (g : Group) (deep : W32) :
    dropDeep g deep = { g with xm := g.xm ||| deep, trap := g.trap ||| deep, ddp := g.ddp ||| deep, astat := (dropDeep g deep).astat } := by
  unfold dropDeep
  split
  · next h => simp [h]
  · rfl

theorem dropDeep_astat (g : Group) (deep : W32) {l : Nat} (hl : l < 32) :
    mget (dropDeep g deep).astat 0 l = if deep.getLsbD l then g.stat l ||| 0x40 else g.stat l := by
  unfold dropDeep
  split
  · next h => simp [h, Group.stat]
  · exact (mget_foldl_mset 0 (· ||| stDD) (nodup_lanesOf deep) g.astat l).trans (by simp [mem_lanesOf, hl, Group.stat, stDD])

/-- The group that goes on with one side of a branch alone. -/
def oneSide (deep side : W32) (g : Group) : Group := { dropDeep g deep with am := side }

/-- The group that pushes the path of `t` and goes on with `n`. -/
def bothSides (target rpc : W64) (deep m t n : W32) (g : Group) : Group :=
  { pushEntry (dropDeep g deep) ⟨target, rpc, t, 0, g.fmt, false⟩ with
    am := n, nest := (lanesOf m).foldl (fun x l => mset x 0 l (mget x 0 l + 1)) (dropDeep g deep).nest }

theorem bothSides_eq (target rpc : W64) (deep m t n : W32) (g : Group) :
    bothSides target rpc deep m t n g = { dropDeep g deep with
      am := n, stack := ⟨target, rpc, t, 0, g.fmt, false⟩ :: g.stack, sc := if g.stack.length - g.sc ≥ 8 then g.sc + 1 else g.sc
      nest := (lanesOf m).foldl (fun x l => mset x 0 l (mget x 0 l + 1)) g.nest } := by
  have h := dropDeep_eq g deep
  rw [bothSides, pushEntry, congrArg Group.stack h, congrArg Group.sc h, congrArg Group.nest h]

/-- The state in which a full hardware stack has spilled its oldest entry (R20). -/
def spilled (s : State) : State := if s.me.stack.length - s.me.sc ≥ 8 then clearSpill s s.cur s.me.sc else s

/-- VBR with a clean predicate, its masks and targets named as the rule names them. -/
theorem execVbr_eq {s : State} {c : Ctl} {f : FmtVB} {deep m t n : W32} (hp : Claims.predClean s.me f.gd)
    (hd : ∀ l, l < 32 → deep.getLsbD l = (s.me.run.getLsbD l && mget s.me.nest 0 l == 255 && s.me.run &&& Claims.predMask s.me f.gd != 0 &&
      s.me.run &&& ~~~Claims.predMask s.me f.gd != 0))
    (hm : m = s.me.run &&& ~~~deep) (ht : t = m &&& Claims.predMask s.me f.gd) (hn : n = m &&& ~~~t) :
    execVbr c f s =
      if t = 0 then .next ((s.modMe (oneSide deep n)).jump c [] (s.me.pc + 8))
      else if n = 0 then .next ((s.modMe (oneSide deep t)).jump c [] (s.me.pc + 8 * f.toff.signExtend 64))
      else if stackFull s.me (s.kernelOf s.cur).spd then fail s fcSpill
      else .next (((spilled s).modMe (bothSides (s.me.pc + 8 * f.toff.signExtend 64) (s.me.pc + 8 * f.roff.signExtend 64) deep m t n)).jump c []
        (s.me.pc + 8)) := by
  have hn' : m &&& ~~~Claims.predMask s.me f.gd = n := by
    rw [hn, ht]
    ext l hl
    cases h : m[l] <;> simp [h]
  simp only [execVbr, lanePredBad_of_clean hp, maskOf_pGuard, relTarget_eq, deep_eq hd, ← hm, ← ht, hn', Bool.false_eq_true, if_false]
  rfl

theorem spilled_me (s : State) : (spilled s).me = s.me := by
  unfold spilled
  split <;> rfl

theorem spilled_same (s : State) : (spilled s).cur = s.cur ∧ (spilled s).clock = s.clock ∧ (spilled s).nextId = s.nextId ∧ (spilled s).mem = s.mem ∧
    (spilled s).groups = s.groups := by
  unfold spilled
  split <;> exact ⟨rfl, rfl, rfl, rfl, rfl⟩

/-- The group that goes on with one side, field by field. -/
theorem oneSide_jumped (g : Group) (now id : Nat) (c : Ctl) (deep side : W32) (target : W64) :
    (oneSide deep side g).jumped now id c [] target = { g.issuedAs now id c (some (now + 2)) [] with
      am := side, pc := target, packet := none, xm := g.xm ||| deep, trap := g.trap ||| deep, ddp := g.ddp ||| deep
      stack := g.stack, sc := g.sc, nest := g.nest, astat := (dropDeep g deep).astat } := by
  rw [Group.jumped, oneSide, dropDeep_eq, Group.issuedAs_eq, Group.issuedAs_eq]

/-- The group that pushes, field by field. -/
theorem bothSides_jumped (g : Group) (now id : Nat) (c : Ctl) (target rpc : W64) (deep m t n : W32) (next : W64) :
    (bothSides target rpc deep m t n g).jumped now id c [] next = { g.issuedAs now id c (some (now + 2)) [] with
      am := n, pc := next, packet := none, xm := g.xm ||| deep, trap := g.trap ||| deep, ddp := g.ddp ||| deep
      stack := ⟨target, rpc, t, 0, g.fmt, false⟩ :: g.stack, sc := if g.stack.length - g.sc ≥ 8 then g.sc + 1 else g.sc
      nest := (lanesOf m).foldl (fun x l => mset x 0 l (mget x 0 l + 1)) g.nest, astat := (dropDeep g deep).astat } := by
  rw [Group.jumped, bothSides_eq, dropDeep_eq, Group.issuedAs_eq, Group.issuedAs_eq]

theorem mget_nest_push (m : W32) (nest : FMap Nat) {l : Nat} (hl : l < 32) :
    mget ((lanesOf m).foldl (fun x l => mset x 0 l (mget x 0 l + 1)) nest) 0 l = mget nest 0 l + (if m.getLsbD l then 1 else 0) := by
  rw [mget_foldl_mset 0 (· + 1) (nodup_lanesOf m)]
  simp only [mem_lanesOf, hl, true_and]
  split <;> rfl

/-- Settles O6: the cases of `execVbr_eq`, each with the group that it leaves. -/
theorem divergentBranchSplitsLanes : Obligations.DivergentBranchSplitsLanes := by
  intro s c f deep g m0 pred m t n target rpc hp hd
  have hx := execVbr_eq (c := c) hp hd (m := m) (t := t) (n := n) rfl rfl rfl
  rw [exec_vbr, hx]
  refine ⟨fun ht hn hl hs => ?_, fun hs => ?_⟩
  · rw [if_neg ht, if_neg hn, if_pos (by simpa [stackFull] using ⟨hl, hs⟩)]
    rfl
  · by_cases ht : t = 0
    · rw [if_pos ht]
      refine ⟨_, rfl, fun h hh => jump_modMe_grp_ne _ _ _ _ _ hh, rfl, fun l hl => ?_, fun l hl => ?_, ?_⟩
      all_goals rw [jump_modMe_me, oneSide_jumped]
      · exact dropDeep_astat g deep hl
      · rw [if_neg (fun h => h.1 ht)]
        rfl
      · simp only [ht, if_true, ne_eq, not_true_eq_false, false_and, if_false, State.transfer_me]
        rfl
    · by_cases hn : n = 0
      · rw [if_neg ht, if_pos hn]
        refine ⟨_, rfl, fun h hh => jump_modMe_grp_ne _ _ _ _ _ hh, rfl, fun l hl => ?_, fun l hl => ?_, ?_⟩
        all_goals rw [jump_modMe_me, oneSide_jumped]
        · exact dropDeep_astat g deep hl
        · rw [if_neg (fun h => h.2.1 hn)]
          rfl
        · simp only [ht, hn, if_true, ne_eq, not_true_eq_false, not_false_eq_true, false_and, and_false, and_self, if_false, State.transfer_me]
          rfl
      · have hf : ¬ stackFull s.me (s.kernelOf s.cur).spd = true := by
          have : s.me.stack.length - s.me.sc < 8 ∨ s.me.sc < (s.kernelOf s.cur).spd := (hs.resolve_left ht).resolve_left hn
          simp only [stackFull, Bool.and_eq_true, decide_eq_true_eq]
          omega
        obtain ⟨hcur, hclock, hid, hmem, hgrp⟩ := spilled_same s
        rw [if_neg ht, if_neg hn, if_neg hf]
        refine ⟨_, rfl, fun h hh => ?_, (jump_modMe_mem _ _ _ _ _).trans hmem, fun l hl => ?_, fun l hl => ?_, ?_⟩
        · rw [jump_modMe_grp_ne _ _ _ _ _ (hcur.symm ▸ hh), State.grp, hgrp]
          rfl
        all_goals rw [jump_modMe_me, spilled_me, hclock, hid, bothSides_jumped]
        · exact dropDeep_astat g deep hl
        · simp only [ne_eq, ht, hn, not_false_eq_true, true_and]
          exact mget_nest_push m g.nest hl
        · simp only [ht, hn, ne_eq, not_false_eq_true, true_and, and_self, if_true, if_false, State.transfer_me]
          rfl

end Sys2Proof.Machine
end

section
/-!
PROOFS. VBRK and VEXIT (R22, R102, R103).
-/
namespace Sys2Proof.Machine

/-- The newest entry with an RPC stands at the depth that is found; with no such entry none is. -/
theorem depthOf_eq_none {rpc : W64} {es : List Entry} (h : ∀ e ∈ es, e.rpc ≠ rpc) (n : Nat) : depthOf rpc es n = none := by
  induction es generalizing n with
  | nil => rfl
  | cons e es ih => rw [depthOf, if_neg (h e (List.mem_cons_self ..)), ih (fun x hx => h x (List.mem_cons_of_mem e hx))]

theorem depthOf_eq_some {rpc : W64} {es : List Entry} {d : Nat} {e : Entry} (he : es[d]? = some e) (hr : e.rpc = rpc)
    (h : ∀ j x, j < d → es[j]? = some x → x.rpc ≠ rpc) (n : Nat) : depthOf rpc es n = some (n + d) := by
  induction es generalizing n d with
  | nil => simp at he
  | cons y es ih =>
    cases d with
    | zero =>
      obtain rfl : y = e := by simpa using he
      rw [depthOf, if_pos hr]
      rfl
    | succ d =>
      rw [depthOf, if_neg (h 0 y (Nat.succ_pos d) rfl), ih he (fun j x hj hx => h (j + 1) x (Nat.succ_lt_succ hj) hx)]
      congr 1
      omega

/-- Changing the element at one index is setting it. -/
theorem mapIdx_ite_eq_set {A : Type} (f : A → A) (l : List A) {d : Nat} {e : A} (he : l[d]? = some e) :
    l.mapIdx (fun i x => if i = d then f x else x) = l.set d (f e) := by
  refine List.ext_getElem? fun i => ?_
  rw [List.getElem?_mapIdx, List.getElem?_set]
  by_cases hi : d = i
  · subst hi
    obtain ⟨hd, rfl⟩ := List.getElem?_eq_some_iff.mp he
    simp [hd]
  · cases l[i]? <;> simp [hi, Ne.symm hi]

/-- The lanes of `out` leave for the entry at depth `d` (R22). -/
def parkAt (d : Nat) (out : W32) (g : Group) : Group :=
  { g with
    am := g.am &&& ~~~out
    stack := g.stack.mapIdx (fun i e => if i = d then { e with brk := e.brk ||| out } else e)
    nest := (lanesOf out).foldl (fun x l => mset x 0 l (mget x 0 l - d)) g.nest }

theorem execVbrk_eq {s : State} {c : Ctl} {f : FmtVB} (hp : Claims.predClean s.me f.gd) :
    execVbrk c f s = match depthOf (s.me.pc + 8 * f.toff.signExtend 64) s.me.stack 0 with
      | none => fail s fcIllegal
      | some d => .next ((s.modMe (parkAt d (s.me.run &&& Claims.predMask s.me f.gd))).jump c [] (s.me.pc + 8)) := by
  simp only [execVbrk, lanePredBad_of_clean hp, maskOf_pGuard, relTarget_eq, Bool.false_eq_true, if_false]
  cases depthOf (s.me.pc + 8 * f.toff.signExtend 64) s.me.stack 0 <;> rfl

theorem mget_nest_leave (d : Nat) (m : W32) (nest : FMap Nat) {l : Nat} (hl : l < 32) :
    mget ((lanesOf m).foldl (fun x l => mset x 0 l (mget x 0 l - d)) nest) 0 l = mget nest 0 l - (if m.getLsbD l then d else 0) := by
  rw [mget_foldl_mset 0 (· - d) (nodup_lanesOf m)]
  simp only [mem_lanesOf, hl, true_and]
  split <;> rfl

theorem execVexit_of_acts {s : State} {c : Ctl} {f : FmtS3} (h : Claims.Acts s.me f.gd []) (hp : Claims.predClean s.me (f.fn.extractLsb' 0 4)) :
    execVexit c f s = .next ((s.modMe (fun g => { g with
      xm := g.xm ||| (s.me.run &&& Claims.predMask s.me (f.fn.extractLsb' 0 4)) })).jump c [] (s.me.pc + 8)) := by
  rw [execVexit, ctlOp_of_acts h]
  simp only [lanePredBad_of_clean hp, maskOf_pGuard, Bool.false_eq_true, if_false]

/-- Settles O7: VBRK by the depth of the newest entry, VEXIT by its one case. -/
theorem breakAndExitLanes : Obligations.BreakAndExitLanes := by
  refine fun s c => ⟨fun f hp => ⟨fun hn => ?_, fun d e he hr hj => ?_⟩, fun f h hp => ?_⟩
  · rw [exec_vbrk, execVbrk_eq hp, depthOf_eq_none hn]
    rfl
  · rw [exec_vbrk, execVbrk_eq hp, depthOf_eq_some he hr hj, Nat.zero_add]
    refine ⟨_, rfl, fun l hl => ?_, jump_modMe ?_⟩
    · rw [jump_modMe_me, Group.jumped, Group.issuedAs_eq]
      exact mget_nest_leave d _ _ hl
    · rw [jump_modMe_me, Group.jumped, Group.issuedAs_eq, Group.issuedAs_eq, parkAt, mapIdx_ite_eq_set _ _ he]
      rfl
  · rw [exec_vexit, execVexit_of_acts h hp]
    refine congrArg _ (jump_modMe ?_)
    rw [Group.jumped, Group.issuedAs_eq, Group.issuedAs_eq]
    rfl

end Sys2Proof.Machine
end

section
/-!
PROOFS. What memory, its caches and the drain of write-combining buffers leave of the machine (R160, R162, R164, R165): everything but the fills
under way, of which a group's accesses keep that some will not install.
-/
namespace Sys2Proof.Machine

/-- A change of the accesses of groups that begins and ends none where there is none. -/
def remark (f : Nat → List Access → List Access) (m : FMap Group) : FMap Group := mmap (fun g x => { x with acc := f g x.acc }) m

/-- Nothing of the machine differs but storage, copies, messages, cores, partitions and dies, and what the accesses of groups keep. -/
structure Keeps (s u : State) : Prop where
  clock : u.clock = s.clock
  cur : u.cur = s.cur
  probe : u.probe = s.probe
  nextId : u.nextId = s.nextId
  pkgs : u.pkgs = s.pkgs
  ctxs : u.ctxs = s.ctxs
  kernels : u.kernels = s.kernels
  clusters : u.clusters = s.clusters
  blocks : u.blocks = s.blocks
  groups : ∃ f, (∀ g, f g [] = []) ∧ u.groups = remark f s.groups

theorem remark_id (m : FMap Group) : remark (fun _ a => a) m = m := by
  induction m with
  | nil => rfl
  | cons e m ih => exact congrArg (e :: ·) ih

theorem remark_remark (f h : Nat → List Access → List Access) (m : FMap Group) :
    remark h (remark f m) = remark (fun g a => h g (f g a)) m := by
  induction m with
  | nil => rfl
  | cons e m ih => exact congrArg (_ :: ·) ih

/-- Where the groups are the same, only the rest is to be looked at. -/
theorem Keeps.of_groups {s u : State} (hg : u.groups = s.groups) (clock : u.clock = s.clock := by rfl) (cur : u.cur = s.cur := by rfl)
    (probe : u.probe = s.probe := by rfl) (nextId : u.nextId = s.nextId := by rfl) (pkgs : u.pkgs = s.pkgs := by rfl)
    (ctxs : u.ctxs = s.ctxs := by rfl) (kernels : u.kernels = s.kernels := by rfl) (clusters : u.clusters = s.clusters := by rfl)
    (blocks : u.blocks = s.blocks := by rfl) : Keeps s u :=
  ⟨clock, cur, probe, nextId, pkgs, ctxs, kernels, clusters, blocks, fun _ a => a, fun _ => rfl, hg.trans (remark_id s.groups).symm⟩

theorem Keeps.refl (s : State) : Keeps s s := .of_groups rfl

theorem Keeps.trans {s u v : State} (a : Keeps s u) (b : Keeps u v) : Keeps s v := by
  obtain ⟨f, hf, ha⟩ := a.groups
  obtain ⟨h, hh, hb⟩ := b.groups
  exact ⟨b.clock.trans a.clock, b.cur.trans a.cur, b.probe.trans a.probe, b.nextId.trans a.nextId, b.pkgs.trans a.pkgs, b.ctxs.trans a.ctxs,
    b.kernels.trans a.kernels, b.clusters.trans a.clusters, b.blocks.trans a.blocks, fun g x => h g (f g x), fun g => (congrArg (h g) (hf g)).trans (hh g),
    by rw [hb, ha, remark_remark]⟩

theorem Keeps.foldl {A : Type} {f : State → A → State} (hf : ∀ s a, Keeps s (f s a)) (l : List A) (s : State) : Keeps s (l.foldl f s) := by
  induction l generalizing s with
  | nil => exact .refl s
  | cons a l ih => exact (hf s a).trans (ih (f s a))

theorem SameMachine.keeps {s u : State} (h : SameMachine s u) : Keeps s u :=
  .of_groups h.groups h.clock h.cur h.probe h.nextId h.pkgs h.ctxs h.kernels h.clusters h.blocks

/-! ## What is kept -/

section
variable {s u : State} (h : Keeps s u)
include h

theorem Keeps.mget? (k : Nat) : ∃ f : List Access → List Access, f [] = [] ∧
    Machine.mget? u.groups k = (Machine.mget? s.groups k).map (fun x => { x with acc := f x.acc }) := by
  obtain ⟨f, hf, hg⟩ := h.groups
  exact ⟨f k, hf k, by rw [hg, remark, mget?_mmap]⟩

/-- A group keeps everything but its accesses, and begins none. -/
theorem Keeps.grp (k : Nat) : ∃ acc, u.grp k = { s.grp k with acc := acc } ∧ ((s.grp k).acc = [] → acc = []) := by
  obtain ⟨f, hf, hk⟩ := h.mget? k
  refine ⟨f (s.grp k).acc, ?_, fun e => by rw [e, hf]⟩
  cases hs : Machine.mget? s.groups k with
  | none => simp [State.grp, mget, hk, hs, hf]
  | some x => simp [State.grp, mget, hk, hs]

theorem Keeps.me : ∃ acc, u.me = { s.me with acc := acc } ∧ (s.me.acc = [] → acc = []) := by
  rw [State.me, h.cur]
  exact h.grp s.cur

theorem Keeps.blk (b : Nat) : u.blk b = s.blk b := by rw [State.blk, h.blocks, State.blk]
theorem Keeps.clu (c : Nat) : u.clu c = s.clu c := by rw [State.clu, h.clusters, State.clu]
theorem Keeps.krn (k : Nat) : u.krn k = s.krn k := by rw [State.krn, h.kernels, State.krn]
theorem Keeps.ctx (c : Nat) : u.ctx c = s.ctx c := by rw [State.ctx, h.ctxs, State.ctx]
theorem Keeps.pc (k : Nat) : (u.grp k).pc = (s.grp k).pc := by obtain ⟨acc, e, -⟩ := h.grp k; rw [e]
theorem Keeps.rank (k : Nat) : (u.grp k).rank = (s.grp k).rank := by obtain ⟨acc, e, -⟩ := h.grp k; rw [e]
theorem Keeps.trap (k : Nat) : (u.grp k).trap = (s.grp k).trap := by obtain ⟨acc, e, -⟩ := h.grp k; rw [e]
theorem Keeps.hold (k : Nat) : (u.grp k).hold = (s.grp k).hold := by obtain ⟨acc, e, -⟩ := h.grp k; rw [e]
theorem Keeps.hold2 (k : Nat) : (u.grp k).hold2 = (s.grp k).hold2 := by obtain ⟨acc, e, -⟩ := h.grp k; rw [e]
theorem Keeps.acc_nil (k : Nat) (ha : (s.grp k).acc = []) : (u.grp k).acc = [] := by obtain ⟨acc, e, n⟩ := h.grp k; rw [e]; exact n ha

end

/-! ## Who keeps it -/

theorem keeps_modCore (s : State) (c : Nat) (f : Core → Core) : Keeps s (s.modCore c f) := .of_groups rfl
theorem keeps_modPart (s : State) (p : Nat) (f : Part → Part) : Keeps s (s.modPart p f) := .of_groups rfl
theorem keeps_modDie (s : State) (d : Nat) (f : Die → Die) : Keeps s (s.modDie d f) := .of_groups rfl

/-- The accesses of a group once fills of a core have been marked. -/
def markedAccs (s : State) (core : Nat) (p : Req → Bool) (g : Nat) (acc : List Access) : List Access :=
  if s.coreOf g == core then acc.map (fun a => { a with reqs := a.reqs.map (fun r =>
    if p r && fillOut s (dieOfCore core) r then { r with noInstall := true } else r) }) else acc

theorem keeps_markFills (s : State) (core : Nat) (p : Req → Bool) : Keeps s (markFills s core p) := by
  refine ⟨rfl, rfl, rfl, rfl, rfl, rfl, rfl, rfl, rfl, markedAccs s core p, fun g => by simp [markedAccs], ?_⟩
  refine congrArg (mmap · s.groups) (funext fun g => funext fun x => ?_)
  unfold markedAccs
  split <;> rfl

theorem keeps_l1Update (s : State) (core va pa : Nat) (bs : List Byte) : Keeps s (l1Update s core va pa bs) := by
  unfold l1Update
  refine Keeps.trans ?_ (Keeps.foldl (fun s c => keeps_markFills s c _) _ _)
  exact .of_groups rfl

theorem keeps_physWrite (s : State) (pol pa key : Nat) (bs : List Byte) : Keeps s (physWrite s pol pa key bs) :=
  (memStep_physWrite s pol pa key bs).work.keeps

theorem keeps_wcWrite (s : State) (b : WcBuf) : Keeps s (wcWrite s b) := by
  refine Keeps.foldl (fun s x => ?_) b.bytes s
  dsimp only
  split
  · exact (keeps_physWrite s _ _ _ _).trans (keeps_l1Update _ _ _ _ _)
  · exact keeps_physWrite s _ _ _ _

theorem keeps_wcDrainGroup (s : State) (g : Nat) : Keeps s (wcDrainGroup s g) :=
  (keeps_modPart s _ _).trans (Keeps.foldl keeps_wcWrite _ _)

theorem keeps_invalidateL1 (s : State) (core : Nat) (sealedToo : Bool) (p : Nat → Bool) : Keeps s (invalidateL1 s core sealedToo p) :=
  (keeps_modCore s core _).trans (keeps_markFills _ core _)

theorem keeps_acquire (s : State) (g scope : Nat) : Keeps s (acquire s g scope) :=
  Keeps.foldl (fun s c => keeps_invalidateL1 s c false _) _ s

theorem keeps_tlbFill2 (s : State) (cx core va : Nat) : Keeps s (tlbFill2 s cx core va) := by
  unfold tlbFill2
  split
  · exact .refl s
  · exact keeps_modCore s _ _

theorem keeps_countRemote (s : State) (core pa rdh : Nat) : Keeps s (countRemote s core pa rdh) := by
  unfold countRemote countRegion
  split
  · exact .refl s
  · split
    · exact .refl s
    · exact keeps_modDie s _ _

/-- A write at virtual addresses. -/
theorem keeps_virtWrite {s u : State} {cx core va : Nat} {bs : List Byte} (h : virtWrite s cx core va bs = .ok u) : Keeps s u := by
  unfold virtWrite at h
  split at h
  · cases h
  · obtain rfl := Except.ok.inj h
    refine Keeps.foldl (fun s p => ?_) _ s
    split
    · exact .refl s
    · refine Keeps.trans (Keeps.trans ?_ (keeps_physWrite _ _ _ _ _)) (Keeps.foldl (fun s q => keeps_l1Update s core _ _ _) _ _)
      split
      · exact Keeps.foldl (fun s q => keeps_countRemote s core _ _) _ s
      · exact .refl s

/-- A record of the fault log, written or counted as dropped. -/
theorem keeps_logTry (s : State) (cx core : Nat) (rec : Nat → List Byte) : Keeps s (logTry s cx core rec).1 := by
  unfold logTry
  dsimp only
  split
  · split
    · exact .refl s
    · split
      · exact .refl s
      · split
        · exact .refl s
        · next s1 h1 =>
          split
          · exact .refl s
          · next s2 h2 => exact (keeps_virtWrite h1).trans (keeps_virtWrite h2)
  · exact .refl s

theorem keeps_logDrop (s : State) (cx core : Nat) : Keeps s (logDrop s cx core) := by
  unfold logDrop
  dsimp only
  split
  · exact .refl s
  · split
    · exact .refl s
    · next u h => exact keeps_virtWrite h

theorem keeps_logPut (s : State) (cx core : Nat) (rec : Nat → List Byte) : Keeps s (logPut s cx core rec).1 := by
  have t := keeps_logTry s cx core rec
  unfold logPut
  split <;> rename_i hl <;> rw [hl] at t
  · exact t
  · exact t.trans (keeps_logDrop _ cx core)

/-! ## Holds that begin -/

/-- A hold begun now, as the statements write it. -/
theorem State.holdMe_eq_held (s : State) (pc : W64) (setk : Nat) (k : HoldKind) : s.holdMe pc setk k = Claims.held s pc setk s.clock k := by
  rw [State.holdMe, Claims.held, State.modMe, State.modMe]
  refine State.modGrp_congr ?_
  cases (s.grp s.cur).hold <;> rfl

end Sys2Proof.Machine
end

section
/-!
PROOFS. Report points (R25), the end of a group and traps (R107 to R109).
-/
namespace Sys2Proof.Machine

/-! ## Report points (R25) -/

theorem reportPoint_of_clear {s : State} (h : s.me.trap = 0) (k : State → Out) : reportPoint s k = k (Claims.passReport s) := if_pos h

theorem reportPoint_of_pending {s : State} (h : s.me.trap ≠ 0) (k : State → Out) : reportPoint s k = .next (raise s (Claims.pending s.me)) := if_neg h

@[simp] theorem passReport_cur (s : State) : (Claims.passReport s).cur = s.cur := rfl
@[simp] theorem passReport_clock (s : State) : (Claims.passReport s).clock = s.clock := rfl

theorem passReport_me (s : State) : (Claims.passReport s).me = { s.me with hadHandler := s.me.inHandler, inHandler := false } := s.modMe_me _

/-! ## EXIT and TAIL (R107, R108) -/

/-- EXIT and TAIL drain, issue and hold their group by one hold or the other. -/
theorem endingHolds {s p : State} {c : Ctl} {k : HoldKind} (hp : p = wcDrainGroup (Claims.passReport s) s.cur) :
    (p.transfer c []).holdMe (Claims.passReport s).me.pc 0 k = Claims.held (p.transfer c []) s.me.pc 0 s.clock k := by
  have hc : p.clock = s.clock := by rw [hp, (keeps_wcDrainGroup _ _).clock, passReport_clock]
  rw [State.holdMe_eq_held, passReport_me, State.transfer, State.issue_clock, hc]

/-- Settles O9: EXIT and TAIL by what their report point finds, the traps by their one case. -/
theorem endingReportsAndTraps : Obligations.EndingReportsAndTraps := by
  refine fun s c => ⟨fun f h ht => ⟨?_, ?_⟩, fun f h ht => ⟨?_, ?_⟩, fun f h => (exec_trap c f s).trans (ctlOp_of_acts h),
    fun f h => (exec_bkpt c f s).trans (ctlOp_of_acts h)⟩
  · rw [exec_exit, execExit, ctlOp_of_acts h, reportPoint_of_pending ht]
    rfl
  · rw [exec_tail, execTail, ctlOp_of_acts h, reportPoint_of_pending ht]
    rfl
  · rw [exec_exit, execExit, ctlOp_of_acts h, reportPoint_of_clear ht]
    exact congrArg _ (endingHolds rfl)
  · rw [exec_tail, execTail, ctlOp_of_acts h, reportPoint_of_clear ht]
    exact congrArg _ (endingHolds rfl)

end Sys2Proof.Machine
end

section
/-!
PROOFS. Holds (R12, R56): the group that is held, that polls the hold it has just begun, and that goes on.
-/
namespace Sys2Proof.Machine

/-! ## What issue and the end of a hold leave of a group -/

theorem Group.kDec_eq (x : Group) (setk : Nat) : ∃ k, x.kDec setk = { x with k := k } := by
  unfold Group.kDec
  split
  · exact ⟨x.k, rfl⟩
  · exact ⟨_, rfl⟩

theorem Group.issued_eq (x : Group) (now setk : Nat) : ∃ k, x.issued now setk =
    { x with k := k, pc := x.pc + 8, pfx := none, chain := none, lastIssue := some now, fresh := now, waitFrom := now, detCount := x.detCount + 1 } := by
  unfold Group.issued Group.kInc
  split
  · exact ⟨x.k, rfl⟩
  · exact ⟨_, rfl⟩

/-- The group of an instruction that has issued to be held. -/
theorem State.issueHeld_me (s : State) (c : Ctl) : ∃ k, (s.issueHeld c).me =
    { s.me with k := k, pc := s.me.pc + 8, pfx := none, chain := none, lastIssue := some s.clock, fresh := s.clock, waitFrom := s.clock,
                detCount := s.me.detCount + 1 } := by
  obtain ⟨k, h⟩ := s.me.issued_eq s.clock c.setk.toNat
  exact ⟨k, (s.modMe_me _).trans h⟩

/-- The group whose hold ends. -/
theorem endHold_grp {s : State} {g : Nat} {h : Hold} (hh : (s.grp g).hold = some h) :
    ∃ k, (endHold s g).grp g = { s.grp g with k := k, hold := (s.grp g).hold2, hold2 := none, waitFrom := s.waitNow (s.grp g) } := by
  obtain ⟨k, hk⟩ := (s.grp g).kDec_eq h.setk
  refine ⟨k, ?_⟩
  rw [endHold_eq_released hh, Claims.released, State.modGrp_grp_same, hk]
  rfl

/-! ## Holds that begin -/

/-- The group as it is held by an instruction that began in it where nothing held it. -/
theorem held_me_of_free {s : State} {pc : W64} {setk n : Nat} {k : HoldKind} (h : s.me.hold = none) :
    (Claims.held s pc setk n k).me = { s.me with hold := some ⟨k, n, pc, setk⟩ } := by
  rw [Claims.held, State.modMe_me, h]
  rfl

/-- In a chain whose first word holds the group already, the second hold stands behind it. -/
theorem held_holds_of_held {s : State} {pc : W64} {setk n : Nat} {k : HoldKind} {x : Hold} (h : s.me.hold = some x) :
    (Claims.held s pc setk n k).me.hold = some x ∧ (Claims.held s pc setk n k).me.hold2 = some ⟨k, n, pc, setk⟩ := by
  rw [Claims.held, State.modMe_me, if_neg (by simp [h])]
  exact ⟨h, rfl⟩

/-- A poll of a hold's own instruction reads the hold where it stands. -/
theorem pollOwn_of_single {s : State} (h : s.me.hold2 = none) (f : State → State) : pollOwn s f = f s := by
  simp [pollOwn, h]

/-- Two holds that change places twice stand as before. -/
theorem swapHolds_swapHolds (s : State) (g : Nat) (m : Group → Group) : swapHolds (swapHolds (s.modGrp g m) g) g = s.modGrp g m := by
  simp [swapHolds, State.modGrp_modGrp]

/-- A poll that finds the wait going on leaves the hold that has just begun. -/
theorem pollOwn_of_waits {s : State} {pc : W64} {setk n : Nat} {k : HoldKind} {f : State → State} (h2 : s.me.hold2 = none)
    (hf : ∀ t : State, t.blocks = s.blocks → t.cur = s.cur → f t = t) : pollOwn (Claims.held s pc setk n k) f = Claims.held s pc setk n k := by
  cases hh : s.me.hold with
  | none => rw [pollOwn_of_single (by rw [held_me_of_free hh]; exact h2)]; exact hf _ rfl rfl
  | some x =>
    obtain ⟨front, behind⟩ := held_holds_of_held (pc := pc) (setk := setk) (n := n) (k := k) hh
    have swapped : (swapHolds (Claims.held s pc setk n k) (Claims.held s pc setk n k).cur).me.hold2 = some x := by
      rw [swapHolds, ← State.modMe, State.modMe_me]
      exact front
    have hw := hf (swapHolds (Claims.held s pc setk n k) (Claims.held s pc setk n k).cur) rfl rfl
    rw [pollOwn, if_neg (by simp [behind])]
    dsimp only
    rw [hw, if_neg (by simp [swapped])]
    exact swapHolds_swapHolds s s.cur _

/-- A hold that has just begun, where there was none, ends with an acquire. -/
theorem endHold_acquire_held {s : State} {pc : W64} {setk n : Nat} {k : HoldKind} (hh : s.me.hold = none) (h2 : s.me.hold2 = none) (scope : Nat) :
    ∃ k' acc n', (endHold (acquire (Claims.held s pc setk n k) s.cur scope) s.cur).me =
      { s.me with k := k', acc := acc, hold := none, hold2 := none, waitFrom := n' } := by
  have keeps := keeps_acquire (Claims.held s pc setk n k) s.cur scope
  obtain ⟨acc, ha, -⟩ := keeps.grp s.cur
  rw [show (Claims.held s pc setk n k).grp s.cur = _ from held_me_of_free hh] at ha
  obtain ⟨k', hu⟩ := endHold_grp (h := ⟨k, n, pc, setk⟩) (congrArg Group.hold ha)
  have hcur : (endHold (acquire (Claims.held s pc setk n k) s.cur scope) s.cur).cur = s.cur := keeps.cur
  let a := acquire (Claims.held s pc setk n k) s.cur scope
  refine ⟨k', acc, a.waitNow (a.grp s.cur), ?_⟩
  rw [State.me, hcur, hu, ha, ← h2]

end Sys2Proof.Machine
end

section
/-!
PROOFS. The barrier instructions (R186 to R189, R235).
-/
namespace Sys2Proof.Machine

/-! ## Barriers and their threads -/

/-- A barrier of a block, or of a cluster that the block has. -/
theorem barAt_eq {s : State} {g : Nat} {cluster : Bool} (h : (s.blk (g / 512)).cluster = none → cluster = false) (id : Nat) :
    barAt s g cluster id = Claims.barrier s g cluster id := by
  unfold barAt Claims.barrier State.cluOf
  cases cluster with
  | false => rfl
  | true =>
    cases hc : (s.blk (g / 512)).cluster with
    | none => exact absurd (h hc) (by decide)
    | some c => simp [blockOf, hc]

theorem threads_eq (s : State) (cluster : Bool) :
    (if cluster then clusterThreads s s.cur else blockThreads s s.cur) = Claims.threads s cluster := by
  cases cluster with
  | false => simp [blockThreads, Claims.threads]
  | true => cases h : s.cluOf s.cur <;> simp [clusterThreads, blockThreads, Claims.threads, h, Nat.mul_comm]

/-! ## Arrivals -/

/-- The four arriving instructions are one, of the block or of the cluster, with or without the wait. -/
theorem exec_of_arrival {i : Instr} {c : Ctl} {f : FmtM} {cluster sync : Bool} (h : Claims.arrival i = some (c, f, cluster, sync)) (s : State) :
    exec i s = arrive c f cluster sync s := by
  unfold Claims.arrival at h
  split at h
  case h_5 => cases h
  all_goals
    simp only [Option.some.injEq, Prod.mk.injEq] at h
    obtain ⟨rfl, rfl, rfl, rfl⟩ := h
    rfl

/-- Once the count has passed, an arrival holds its group at once or after its report point. -/
theorem holdMe_drained {s : State} {c : Ctl} {pc : W64} {k : HoldKind} :
    ((wcDrainGroup (Claims.passReport s) s.cur).issueHeld c).holdMe pc c.setk.toNat k =
      Claims.held ((wcDrainGroup (Claims.passReport s) s.cur).issueHeld c) pc c.setk.toNat s.clock k := by
  have hc : ((wcDrainGroup (Claims.passReport s) s.cur).issueHeld c).clock = s.clock := (keeps_wcDrainGroup _ _).clock
  rw [State.holdMe_eq_held, hc]

/-- The threads that an arrival counts. -/
def arrivalCount (s : State) (f : FmtM) (cluster : Bool) : Nat :=
  if f.hint = 1 then Claims.threads s cluster else (s.me.rg f.data.toNat).toNat

theorem orFault_faultIf (s : State) (b : Bool) (code : Nat) (k : State → Out) :
    orFault s (faultIf b code) k = if b then .next (raise s (fi code)) else k s := by
  cases b <;> rfl

/-- A report point that may report later goes on unless it reports now. -/
theorem reportUnless_eq (later : Bool) (s : State) (k : State → Out) :
    reportUnless later s k = if later = true ∨ s.me.trap = 0 then k (Claims.passReport s) else .next (raise s (Claims.pending s.me)) := by
  cases later with
  | true => rfl
  | false =>
    rw [reportUnless, if_neg Bool.false_ne_true]
    by_cases h : s.me.trap = 0
    · rw [if_pos (.inr h), reportPoint_of_clear h]
    · rw [if_neg (fun e => e.elim Bool.false_ne_true h), reportPoint_of_pending h]

/-- A group is ready to release when it has no access outstanding (R29). -/
theorem releaseReady_me (s : State) : releaseReady s s.cur = s.me.acc.isEmpty := rfl

/-- An arrival: its count and its limits, then the report where nothing puts it off, then the hold. -/
theorem arrive_eq {s : State} {c : Ctl} {f : FmtM} {cluster sync : Bool} (hc : cluster = true → s.cluOf s.cur ≠ none)
    (hb : f.hint = 1 ∨ f.data.toNat ∉ s.me.badG) {n : Nat} (hn : arrivalCount s f cluster = n) :
    arrive c f cluster sync s =
      if n % 32 ≠ 0 ∨ n < 32 ∨ n > Claims.threads s cluster then .next (raise s (fi fcBarCount))
      else if (s.me.acc ≠ [] ∨ ((Claims.barrier s s.cur cluster (f.off.toNat % 16)).exp ≠ 0 ∧
        n ≠ (Claims.barrier s s.cur cluster (f.off.toNat % 16)).exp)) ∨ s.me.trap = 0 then
        .next (Claims.held ((wcDrainGroup (Claims.passReport s) s.cur).issueHeld c) s.me.pc c.setk.toNat s.clock
          (.arrive cluster (f.off.toNat % 16) n sync))
      else .next (raise s (Claims.pending s.me)) := by
  have hcl : (cluster && (s.cluOf s.cur).isNone) = false := by
    cases cluster
    · rfl
    · simpa using Option.isSome_iff_ne_none.mpr (hc rfl)
  have hall : (f.hint.toNat == 1) = decide (f.hint = 1) := by
    rw [Bool.beq_eq_decide_eq]
    exact decide_eq_decide.mpr ⟨fun e => BitVec.eq_of_toNat_eq e, fun e => e ▸ rfl⟩
  have hbad : (!decide (f.hint = 1) && s.me.gBad f.data.toNat) = false := by
    rcases hb with h | h <;> simp [h, Group.gBad]
  have hbar : barAt s s.cur cluster (f.off.toNat % 16) = Claims.barrier s s.cur cluster (f.off.toNat % 16) := by
    refine barAt_eq (fun h => ?_) _
    cases cluster
    · rfl
    · exact absurd (by simp [State.cluOf, blockOf, h]) (hc rfl)
  have hcount : (if decide (f.hint = 1) = true then Claims.threads s cluster else (s.me.rg f.data.toNat).toNat) = n := by
    simpa [arrivalCount] using hn
  have hnone : faultIf false fcIllegal ++ faultIf false fcUncorrectable = [] := rfl
  unfold arrive
  rw [threads_eq, hall]
  dsimp only
  rw [hcl, hbad, hcount, hbar, hnone, List.nil_append, orFault_faultIf]
  simp only [reportUnless_eq, passReport_cur, holdMe_drained, releaseReady_me, Bool.or_eq_true, Bool.and_eq_true, decide_eq_true_eq,
    Bool.not_eq_true', List.isEmpty_eq_false_iff, or_assoc]

theorem arrivalsHold_holds : Claims.arrivalsHold := by
  intro s i c f cluster sync hi hc hb n exp later
  rw [(exec_of_arrival hi s).trans (arrive_eq (c := c) (sync := sync) hc hb (n := n) rfl)]
  refine ⟨fun hbad => if_pos hbad, fun h32 hlow hhigh => ?_⟩
  rw [if_neg (by omega)]
  exact ⟨fun ht hl => if_neg (fun h => h.elim hl ht), fun h => if_pos h.symm⟩

/-! ## NBWAIT (R187, R189) -/

/-- A group's poll of a barrier of its block ends the wait when the parity has turned. -/
theorem pollParity_of_blocks {s t : State} (h : t.blocks = s.blocks) (g id : Nat) (par : Bool) :
    pollParity t g false id par = if (Claims.barrier s g false id).nph = par then t else endParity t g false := by
  have hb : barAt t g false id = Claims.barrier s g false id := by rw [barAt_eq (fun _ => rfl), Claims.barrier, State.blk, h]; rfl
  rw [pollParity, hb]
  by_cases hp : (Claims.barrier s g false id).nph = par <;> simp [hp]

theorem execNbwait_eq (c : Ctl) (f : FmtM) (s : State) :
    execNbwait c f s = .next (pollOwn (Claims.held (s.issueHeld c) s.me.pc c.setk.toNat s.clock (.parity false (f.off.toNat % 16) (f.off.getLsbD 4) false))
      (fun t => pollParity t t.cur false (f.off.toNat % 16) (f.off.getLsbD 4))) := by
  have hpar : decide (f.off.toNat / 16 % 2 = 1) = f.off.getLsbD 4 := (Nat.testBit_eq_decide_div_mod_eq (x := f.off.toNat) (i := 4)).symm
  rw [← hpar]
  exact congrArg (fun t => Host.Outcome.next (pollOwn t _)) (State.holdMe_eq_held _ _ _ _)

theorem waitsForParity_holds : Claims.waitsForParity := by
  intro s c f id par h h2
  obtain ⟨k, issued⟩ := s.issueHeld_me c
  have free : (s.issueHeld c).me.hold2 = none := (congrArg Group.hold2 issued).trans h2
  have poll (t : State) (ht : t.blocks = s.blocks) (hcur : t.cur = s.cur) :
      pollParity t t.cur false id par = if (Claims.barrier s s.cur false id).nph = par then t else endParity t s.cur false := by
    rw [hcur, pollParity_of_blocks ht]
  rw [exec_nbwait, execNbwait_eq]
  refine ⟨fun hp => congrArg _ (pollOwn_of_waits free fun t ht hcur => (poll t ht hcur).trans (if_pos hp)), fun hp hh => ?_⟩
  have hold : (s.issueHeld c).me.hold = none := (congrArg Group.hold issued).trans hh
  have single := pollOwn_of_single (s := h) (by rw [held_me_of_free hold]; exact free) (fun t => pollParity t t.cur false id par)
  refine ⟨_, rfl, single.trans ((poll h rfl rfl).trans (if_neg hp)), ?_⟩
  obtain ⟨k', acc, n', ended⟩ := endHold_acquire_held (pc := s.me.pc) (setk := c.setk.toNat) (n := s.clock) (k := .parity false id par false) hold free 1
  rw [single.trans ((poll h rfl rfl).trans (if_neg hp)), show (endParity h s.cur false).me = _ from ended, issued, endParity, endHold_mem, acquire_mem]
  exact ⟨rfl, rfl, rfl, rfl, rfl⟩

/-- Settles O27: the arrivals are one instruction whose report point is put off or not; NBWAIT polls its barrier once. -/
theorem barrierInstructions : Obligations.BarrierInstructions := ⟨arrivalsHold_holds, waitsForParity_holds⟩

end Sys2Proof.Machine
end

section
/-!
PROOFS. Arrivals that are counted and the end of a phase (R186 to R189).
-/
namespace Sys2Proof.Machine

/-! ## Barriers and their changes -/

theorem barrier_congr {s t : State} (hb : t.blocks = s.blocks) (hc : t.clusters = s.clusters) (g : Nat) (cluster : Bool) (id : Nat) :
    Claims.barrier t g cluster id = Claims.barrier s g cluster id := by
  simp [Claims.barrier, State.blk, State.clu, hb, hc]

@[simp] theorem setBar_groups (s : State) (g : Nat) (cluster : Bool) (id : Nat) (b : NBar) : (setBar s g cluster id b).groups = s.groups := by
  unfold setBar
  split
  · split <;> rfl
  · rfl

@[simp] theorem setBar_grp (s : State) (g : Nat) (cluster : Bool) (id : Nat) (b : NBar) (k : Nat) : (setBar s g cluster id b).grp k = s.grp k := by
  rw [State.grp, setBar_groups, State.grp]

@[simp] theorem setBar_mem (s : State) (g : Nat) (cluster : Bool) (id : Nat) (b : NBar) : (setBar s g cluster id b).mem = s.mem := by
  unfold setBar
  split
  · split <;> rfl
  · rfl

/-- A barrier that the block or its cluster has holds what it is set to. -/
theorem barrier_setBar {s : State} {g : Nat} {cluster : Bool} (h : (s.blk (g / 512)).cluster = none → cluster = false) (id : Nat) (b : NBar) :
    Claims.barrier (setBar s g cluster id b) g cluster id = b := by
  cases cluster with
  | false => simp [setBar, Claims.barrier, State.blk, State.modBlk, blockOf]
  | true =>
    cases hc : (s.blk (g / 512)).cluster with
    | none => exact absurd (h hc) (by decide)
    | some c =>
      have hblk (x : Cluster → Cluster) : (s.modClu c x).blk (g / 512) = s.blk (g / 512) := rfl
      have hset : setBar s g true id b = s.modClu c (fun x => { x with cb := mput x.cb id b }) := by simp [setBar, blockOf, hc]
      rw [hset, Claims.barrier, if_pos rfl, hblk, hc]
      simp [State.clu, State.modClu]

/-- Setting a barrier leaves which block is in which cluster. -/
theorem setBar_cluster (s : State) (g : Nat) (cluster : Bool) (id : Nat) (b : NBar) (k : Nat) : ((setBar s g cluster id b).blk k).cluster = (s.blk k).cluster := by
  cases cluster with
  | false =>
    by_cases h : k = blockOf g
    · subst h
      simp [setBar, State.blk, State.modBlk]
    · simp [setBar, State.blk, State.modBlk, h]
  | true =>
    rw [setBar, if_pos rfl]
    split <;> rfl

/-! ## Waiters that go on -/

/-- The end of one wait where a phase completes. -/
def releaseWaiter (cluster : Bool) (p : HoldKind → Bool) (s : State) (h : Nat) : State := endParity (focusHold s h p) h cluster

/-- Bringing a hold to the front lets the two change places, if anything. -/
theorem focusHold_eq (s : State) (g : Nat) (p : HoldKind → Bool) : focusHold s g p = swapHolds s g ∨ focusHold s g p = s := by
  unfold focusHold
  dsimp only
  split
  · split
    · exact .inl rfl
    · exact .inr rfl
  · exact .inr rfl

theorem focusHold_of_single {s : State} {g : Nat} (h : (s.grp g).hold2 = none) (p : HoldKind → Bool) : focusHold s g p = s := by
  simp [focusHold, h]

theorem releaseWaiter_mem (cluster : Bool) (p : HoldKind → Bool) (s : State) (h : Nat) : (releaseWaiter cluster p s h).mem = s.mem := by
  rw [releaseWaiter, endParity, endHold_mem, acquire_mem]
  obtain e | e := focusHold_eq s h p
  · rw [e]
    rfl
  · rw [e]

theorem releaseWaiter_blocks (cluster : Bool) (p : HoldKind → Bool) (s : State) (h : Nat) : (releaseWaiter cluster p s h).blocks = s.blocks := by
  refine (keeps_acquire (focusHold s h p) h _).blocks.trans ?_
  obtain e | e := focusHold_eq s h p
  · rw [e]
    rfl
  · rw [e]

theorem releaseWaiter_clusters (cluster : Bool) (p : HoldKind → Bool) (s : State) (h : Nat) : (releaseWaiter cluster p s h).clusters = s.clusters := by
  refine (keeps_acquire (focusHold s h p) h _).clusters.trans ?_
  obtain e | e := focusHold_eq s h p
  · rw [e]
    rfl
  · rw [e]

/-- The end of one wait leaves the holds of the other groups. -/
theorem releaseWaiter_holds_ne {k h : Nat} (hk : k ≠ h) (cluster : Bool) (p : HoldKind → Bool) (s : State) :
    ((releaseWaiter cluster p s h).grp k).hold = (s.grp k).hold ∧ ((releaseWaiter cluster p s h).grp k).hold2 = (s.grp k).hold2 := by
  have keeps := keeps_acquire (focusHold s h p) h (if cluster then 2 else 1)
  have focus : (focusHold s h p).grp k = s.grp k := by
    obtain e | e := focusHold_eq s h p
    · rw [e]
      simp [swapHolds, State.modGrp, State.grp, hk]
    · rw [e]
  rw [releaseWaiter, endParity, endHold_grp_ne hk, keeps.hold, keeps.hold2, focus]
  exact ⟨rfl, rfl⟩

/-- The end of the one wait of a group leaves it without a hold. -/
theorem releaseWaiter_holds_same {s : State} {h : Nat} (h2 : (s.grp h).hold2 = none) (cluster : Bool) (p : HoldKind → Bool) :
    ((releaseWaiter cluster p s h).grp h).hold = none ∧ ((releaseWaiter cluster p s h).grp h).hold2 = none := by
  have keeps := keeps_acquire s h (if cluster then 2 else 1)
  rw [releaseWaiter, focusHold_of_single h2, endParity]
  cases hh : ((acquire s h (if cluster then 2 else 1)).grp h).hold with
  | none =>
    rw [endHold, State.modGrp_grp_same, hh]
    exact ⟨hh, (keeps.hold2 h).trans h2⟩
  | some x =>
    obtain ⟨h1, h2'⟩ := endHold_hold hh
    exact ⟨h1.trans ((keeps.hold2 h).trans h2), h2'⟩

/-- Of a group with at most one hold, the waiters' end takes it if the group is among them. -/
theorem releaseWaiters_holds (cluster : Bool) (p : HoldKind → Bool) (k : Nat) (l : List Nat) {s : State} (h2 : (s.grp k).hold2 = none) :
    ((l.foldl (releaseWaiter cluster p) s).grp k).hold = if k ∈ l then none else (s.grp k).hold := by
  induction l generalizing s with
  | nil => rfl
  | cons h l ih =>
    rw [List.foldl_cons]
    by_cases hk : k = h
    · subst hk
      obtain ⟨a, b⟩ := releaseWaiter_holds_same h2 cluster p
      rw [ih b, a]
      simp
    · obtain ⟨a, b⟩ := releaseWaiter_holds_ne hk cluster p s
      rw [ih (b.trans h2), a]
      simp [hk]

/-! ## An arrival counted (R186) -/

/-- A group that waits for the parity of a barrier is among its waiters. -/
theorem mem_parityWaiters {s : State} {g w id : Nat} {cluster par : Bool} {x : Group} {y : Hold} (hw : mget? s.groups w = some x)
    (hy : x.hold = some y) (hk : y.kind.waitsFor cluster id par = true) (hs : sameBar s cluster g w = true) : w ∈ parityWaiters s g cluster id par := by
  refine List.mem_filterMap.mpr ⟨(w, x), mem_of_mget? hw, ?_⟩
  simp [Group.holds, hy, hk, hs]

/-- A group is at its own barrier. -/
theorem sameBar_self {s : State} {g : Nat} {cluster : Bool} (h : (s.blk (g / 512)).cluster = none → cluster = false) : sameBar s cluster g g = true := by
  cases cluster with
  | false => simp [sameBar]
  | true => simpa [sameBar, blockOf, Option.isSome_iff_ne_none] using fun e => absurd (h e) (by decide)

theorem countArrival_of_more {s : State} {g id count : Nat} {cluster : Bool} (hb : ((s.blk (g / 512)).cluster = none → cluster = false))
    (h : (Claims.barrier s g cluster id).arr + 32 ≠ count) :
    countArrival s g cluster id count = setBar s g cluster id ⟨(Claims.barrier s g cluster id).arr + 32, count, (Claims.barrier s g cluster id).nph⟩ := by
  rw [countArrival, barAt_eq hb, if_neg h]

theorem countArrival_of_last {s : State} {g id count : Nat} {cluster : Bool} (hb : ((s.blk (g / 512)).cluster = none → cluster = false))
    (h : (Claims.barrier s g cluster id).arr + 32 = count) :
    countArrival s g cluster id count =
      (parityWaiters (setBar s g cluster id ⟨0, 0, !(Claims.barrier s g cluster id).nph⟩) g cluster id (Claims.barrier s g cluster id).nph).foldl
        (releaseWaiter cluster (·.waitsFor cluster id (Claims.barrier s g cluster id).nph)) (setBar s g cluster id ⟨0, 0, !(Claims.barrier s g cluster id).nph⟩) := by
  rw [countArrival, barAt_eq hb, if_pos h]
  rfl

/-- What the count of an arrival does: memory stays; the barrier counts it, or turns and lets its waiters go on. -/
structure Counts (s t : State) (g id count : Nat) (cluster : Bool) (b : NBar) : Prop where
  mem : t.mem = s.mem
  more : b.arr + 32 ≠ count → Claims.barrier t g cluster id = ⟨b.arr + 32, count, b.nph⟩ ∧ ∀ k, t.grp k = s.grp k
  last : b.arr + 32 = count → Claims.barrier t g cluster id = ⟨0, 0, !b.nph⟩
  stays : ∀ k, (s.grp k).hold = none → (s.grp k).hold2 = none → (t.grp k).hold = none
  passes : b.arr + 32 = count → ∀ w x y, mget? s.groups w = some x → x.hold = some y → x.hold2 = none → y.kind.waitsFor cluster id b.nph = true →
    sameBar s cluster g w = true → (t.grp w).hold = none

theorem countArrival_counts {s : State} {g id : Nat} {cluster : Bool} (count : Nat) (hb : (s.blk (g / 512)).cluster = none → cluster = false) :
    Counts s (countArrival s g cluster id count) g id count cluster (Claims.barrier s g cluster id) := by
  by_cases h : (Claims.barrier s g cluster id).arr + 32 = count
  · rw [countArrival_of_last hb h]
    generalize Claims.barrier s g cluster id = b at h
    have holds (k : Nat) (h2 : (s.grp k).hold2 = none) := releaseWaiters_holds cluster (·.waitsFor cluster id b.nph) k
      (parityWaiters (setBar s g cluster id ⟨0, 0, !b.nph⟩) g cluster id b.nph) (s := setBar s g cluster id ⟨0, 0, !b.nph⟩) (by rw [setBar_grp]; exact h2)
    refine ⟨(foldl_keeps State.mem (releaseWaiter_mem cluster _) _ _).trans (setBar_mem ..), fun e => absurd h e, fun _ => ?_, fun k hk h2 => ?_,
      fun _ w x y hw hy h2 hk hs => ?_⟩
    · exact (barrier_congr (foldl_keeps State.blocks (releaseWaiter_blocks cluster _) _ _) (foldl_keeps State.clusters (releaseWaiter_clusters cluster _) _ _)
        g cluster id).trans (barrier_setBar hb ..)
    · rw [holds k h2, setBar_grp, hk, ite_self]
    · have hgrp : s.grp w = x := by simp [State.grp, mget, hw]
      rw [holds w (by rw [hgrp]; exact h2), if_pos]
      refine mem_parityWaiters (by rw [setBar_groups]; exact hw) hy hk ?_
      simpa [sameBar, setBar_cluster] using hs
  · rw [countArrival_of_more hb h]
    exact ⟨setBar_mem .., fun _ => ⟨barrier_setBar hb .., setBar_grp s g cluster id _⟩, fun e => absurd e h, fun k hk _ => by rw [setBar_grp]; exact hk,
      fun e => absurd e h⟩

/-! ## A waiting arrival (R25, R29, R189) -/

/-- An arrival that waits has done nothing that is to be taken back. -/
theorem faultWait_of_arrive {s : State} {g id count : Nat} {cluster sync : Bool} {h : Hold} (hh : (s.grp g).hold = some h) (h2 : (s.grp g).hold2 = none)
    (hk : h.kind = .arrive cluster id count sync) (f : FaultInfo) : faultWait s g f = faultHeld s g f := by
  simp [faultWait, Group.holds, hh, h2, hk, takeBack]

/-- The hold of NBSYNC once its arrival is about to be counted. -/
def syncWaits (cluster : Bool) (id : Nat) (par : Bool) (now : Nat) (g : Group) : Group :=
  match g.hold with
  | some h => { g with hold := some { h with kind := .parity cluster id par true, since := now } }
  | none => g

/-- The arrival of a group with no access outstanding: the count against EXP, the report, the arrival. -/
theorem pollArrive_of_ready {s : State} {g id count : Nat} {cluster sync : Bool} (ha : (s.grp g).acc = [])
    (hb : (s.blk (g / 512)).cluster = none → cluster = false) {b : NBar} (hbar : Claims.barrier s g cluster id = b) :
    let p := wcDrainGroup s g
    pollArrive s g cluster id count sync =
      if b.exp ≠ 0 ∧ count ≠ b.exp then faultWait p g (fi fcBarCount)
      else if (s.grp g).trap ≠ 0 then faultWait p g (Claims.pending (p.grp g))
      else countArrival (if sync then p.modGrp g (syncWaits cluster id b.nph p.clock) else endHold p g) g cluster id count := by
  intro p
  have keeps : Keeps s p := keeps_wcDrainGroup s g
  have hp : barAt p g cluster id = b := by
    rw [barAt_eq (by rw [keeps.blk]; exact hb), barrier_congr keeps.blocks keeps.clusters, hbar]
  rw [pollArrive, if_neg (by simp [releaseReady, ha]), ← keeps.trap g]
  dsimp only
  rw [hp]
  cases sync <;> simp <;> rfl

/-- The state in which an arrival is counted: NBSYNC waits for the parity from then on, NBARV goes on. -/
def beforeCount (sync cluster : Bool) (id : Nat) (par : Bool) (p : State) (g : Nat) : State :=
  if sync then p.modGrp g (syncWaits cluster id par p.clock) else endHold p g

theorem beforeCount_eq (sync cluster : Bool) (id : Nat) (par : Bool) (p : State) (g : Nat) : ∃ f, beforeCount sync cluster id par p g = p.modGrp g f := by
  cases sync with
  | false => exact ⟨_, (if_neg Bool.false_ne_true).trans (endHold.eq_1 p g)⟩
  | true => exact ⟨_, if_pos rfl⟩

theorem beforeCount_sync {p : State} {g : Nat} {h : Hold} (hh : (p.grp g).hold = some h) (cluster : Bool) (id : Nat) (par : Bool) :
    (beforeCount true cluster id par p g).grp g = { p.grp g with hold := some { h with kind := .parity cluster id par true, since := p.clock } } := by
  rw [beforeCount, if_pos rfl, State.modGrp_grp_same, syncWaits, hh]

theorem beforeCount_arv {p : State} {g : Nat} {h : Hold} (hh : (p.grp g).hold = some h) (h2 : (p.grp g).hold2 = none) (cluster : Bool) (id : Nat) (par : Bool) :
    ((beforeCount false cluster id par p g).grp g).hold = none ∧ ((beforeCount false cluster id par p g).grp g).hold2 = none := by
  obtain ⟨a, b⟩ := endHold_hold hh
  exact ⟨a.trans h2, b⟩

/-- Settles O26: of the group's own hold and of a waiter's it is followed what the count of the arrival leaves. -/
theorem barrierPhasesComplete : Obligations.BarrierPhasesComplete := by
  intro s g id count cluster sync h hh h2 hk ha hb b p t
  have keeps : Keeps s p := keeps_wcDrainGroup s g
  have ph : (p.grp g).hold = some h := (keeps.hold g).trans hh
  have ph2 : (p.grp g).hold2 = none := (keeps.hold2 g).trans h2
  have fault := faultWait_of_arrive ph ph2 hk
  have ht : t = _ := pollArrive_of_ready ha hb (b := b) rfl
  refine ⟨fun h0 hc => ?_, fun hc htrap => ?_, fun hc htrap => ?_⟩
  · rw [ht, if_pos ⟨h0, hc⟩, fault]
    rfl
  · rw [ht, if_neg (by tauto), if_pos htrap, fault]
  · rw [if_neg (by tauto), if_neg (by simp [htrap])] at ht
    obtain ⟨f, hq⟩ := beforeCount_eq sync cluster id b.nph p g
    change t = countArrival (beforeCount sync cluster id b.nph p g) g cluster id count at ht
    have hbar : Claims.barrier (beforeCount sync cluster id b.nph p g) g cluster id = b := by
      rw [hq]
      exact barrier_congr keeps.blocks keeps.clusters g cluster id
    have counts := countArrival_counts (s := beforeCount sync cluster id b.nph p g) (g := g) (id := id) (cluster := cluster) count
      (by rw [hq, State.modGrp_blk_of, keeps.blk]; exact hb)
    rw [hbar, ← ht] at counts
    refine ⟨counts.mem.trans (by rw [hq]; rfl), fun hm => ⟨(counts.more hm).1, ?_⟩, fun hl => ⟨counts.last hl, ?_, ?_⟩, ?_⟩
    · rintro rfl
      rw [(counts.more hm).2 g, beforeCount_sync ph]
      exact ⟨_, rfl, rfl, rfl⟩
    · cases sync with
      | false => exact counts.stays g (beforeCount_arv ph ph2 ..).1 (beforeCount_arv ph ph2 ..).2
      | true =>
        have visible : mget? (beforeCount true cluster id b.nph p g).groups g = some ((beforeCount true cluster id b.nph p g).grp g) := by
          rw [hq]
          simp [State.modGrp, State.grp, mget?_mput]
        rw [beforeCount_sync ph] at visible
        refine counts.passes hl g _ _ visible rfl ph2 (by simp [HoldKind.waitsFor]) (sameBar_self ?_)
        rw [hq, State.modGrp_blk_of, keeps.blk]
        exact hb
    · rintro rfl w k y hw hwb hne hy hk2 ⟨z, hyk⟩
      obtain ⟨u, -, hu⟩ := keeps.mget? w
      have visible : mget? (beforeCount sync false id b.nph p g).groups w = some { k with acc := u k.acc } := by
        rw [hq, State.modGrp, mget?_mput, if_neg hne, hu, hw]
        rfl
      exact counts.passes hl w _ y visible hy hk2 (by simp [hyk, HoldKind.waitsFor]) (by simp [sameBar, blockOf, hwb])
    · rintro rfl
      exact counts.stays g (beforeCount_arv ph ph2 ..).1 (beforeCount_arv ph ph2 ..).2

end Sys2Proof.Machine
end

section
/-!
PROOFS. The words of transaction barriers (R190 to R193): their bytes and fields, and what an update makes of them.
-/
namespace Sys2Proof.Machine

/-! ## Numbers, bytes and fields -/

theorem length_toBytes (n x : Nat) : (toBytes n x).length = n := by
  induction n generalizing x with
  | zero => rfl
  | succ n ih => simp [toBytes, ih]

theorem ofBytes_toBytes (n x : Nat) : ofBytes (toBytes n x) = x % 256 ^ n := by
  induction n generalizing x with
  | zero => simp [toBytes, ofBytes, Nat.mod_one]
  | succ n ih =>
    rw [toBytes, ofBytes, ih, BitVec.toNat_ofNat, show 256 ^ (n + 1) = 256 * 256 ^ n from Nat.pow_succ', Nat.mod_mul]

theorem ofBytes_lt (l : List Byte) : ofBytes l < 256 ^ l.length := by
  induction l with
  | nil => simp [ofBytes]
  | cons b l ih =>
    have := b.isLt
    rw [ofBytes, List.length_cons, Nat.pow_succ]
    omega

/-- What is written is read. -/
theorem cread_cwrite (m : Cells) (a : Nat) (bs : List Byte) : cread (cwrite m a bs) a bs.length = bs := by
  refine List.ext_getElem (by simp [cread]) fun i hi _ => ?_
  have h : i < bs.length := by simpa [cread] using hi
  simpa [cread] using cget_cwrite_in m a i bs h

theorem toNat_append_add {m n : Nat} (x : BitVec m) (y : BitVec n) : (x ++ y).toNat = x.toNat * 2 ^ n + y.toNat := by
  rw [BitVec.toNat_append, ← Nat.shiftLeft_add_eq_or_of_lt y.isLt, Nat.shiftLeft_eq]

/-- A field of a number is the bits of its word. -/
theorem bitsN_eq {w x : Nat} (hx : x < 2 ^ w) (lo n : Nat) : bitsN x lo n = ((BitVec.ofNat w x).extractLsb' lo n).toNat := by
  rw [bitsN, BitVec.extractLsb'_toNat, BitVec.toNat_ofNat, Nat.mod_eq_of_lt hx, Nat.shiftRight_eq_div_pow]

theorem sgn_toNat {w : Nat} (hw : 0 < w) (x : BitVec w) : sgn w x.toNat = x.toInt := by
  obtain ⟨n, rfl⟩ : ∃ n, w = n + 1 := ⟨w - 1, by omega⟩
  rw [sgn, BitVec.toInt_eq_toNat_cond, Nat.mod_eq_of_lt x.isLt, Nat.add_sub_cancel]
  have : 2 ^ (n + 1) = 2 * 2 ^ n := by ring
  split <;> split <;> omega

/-! ## The word of a barrier (R190) -/

/-- The fields of a barrier word. -/
def tbFields (w : W64) : TbWord :=
  ⟨(w.extractLsb' 63 1).toNat, (w.extractLsb' 62 1).toNat, (w.extractLsb' 56 6).toNat, (w.extractLsb' 44 12).toNat, (w.extractLsb' 20 24).toInt,
    (w.extractLsb' 8 12).toNat⟩

theorem tbGet_eq (l : Local) (off : Nat) : tbGet l off = tbFields (Claims.tbWord l off) := by
  have hx : ofBytes (cread l.sp off 8) < 2 ^ 64 := by simpa [cread] using ofBytes_lt (cread l.sp off 8)
  simp only [tbGet, tbOf, tbFields, Claims.tbWord, bitsN_eq hx, sgn_toNat (show 0 < 24 by decide)]

theorem tbWord_tbPut (l : Local) (off : Nat) (w : TbWord) : Claims.tbWord (tbPut l off w) off = BitVec.ofNat 64 (tbBits w) := by
  have h := cread_cwrite l.sp off (toBytes 8 (tbBits w))
  rw [length_toBytes] at h
  rw [Claims.tbWord, tbPut, h, ofBytes_toBytes]
  exact BitVec.eq_of_toNat_eq (by simp)

/-- A word put together from its fields. -/
theorem ofNat_tbBits {ph er : BitVec 1} {fc : BitVec 6} {ap ac : BitVec 12} {bp : BitVec 24} {b : Int} (hb : wrap 24 b = bp.toNat) :
    BitVec.ofNat 64 (tbBits ⟨ph.toNat, er.toNat, fc.toNat, ap.toNat, b, ac.toNat⟩) = (ph ++ er ++ fc ++ ap ++ bp ++ ac ++ 0xB7#8).setWidth 64 := by
  refine BitVec.eq_of_toNat_eq ?_
  simp only [tbBits, hb, BitVec.toNat_ofNat, BitVec.toNat_setWidth, toNat_append_add]
  refine congrArg (· % 2 ^ 64) ?_
  simp only [Nat.reducePow]
  omega

theorem wrap_toInt (x : BitVec 24) : wrap 24 x.toInt = x.toNat := by
  rw [wrap, ← BitVec.toNat_ofInt, BitVec.ofInt_toInt]

/-- The word of a phase that completes. -/
theorem ofNat_tbBits_completed (w : W64) (code : BitVec 6) :
    BitVec.ofNat 64 (tbBits { ph := 1 - (tbFields w).ph, er := if code.toNat = 0 then 0 else 1, fc := code.toNat, ap := (tbFields w).ac, bp := 0,
                              ac := (tbFields w).ac }) = Claims.tbCompleted w code := by
  have hph : 1 - (tbFields w).ph = (BitVec.ofBool (!w.getLsbD 63)).toNat := by
    simp only [tbFields, BitVec.getLsbD_eq_extractLsb']
    generalize w.extractLsb' 63 1 = x
    revert x
    decide
  have her : (if code.toNat = 0 then 0 else 1) = (BitVec.ofBool (code != 0)).toNat := by
    revert code
    decide
  rw [hph, her]
  exact ofNat_tbBits (by decide)

/-! ## Results given at an issue (R56) -/

/-- A group that is given results. -/
def givenTo (s : State) (wr : List RegWr) (g : Group) : Group :=
  if s.probe.on then { g with pend := g.pend ++ [⟨s.nextId, some (s.clock + 1), 0, wr⟩] } else g.applyAll wr

theorem give_grp_same (s : State) (g : Nat) (wr : List RegWr) : (s.give g wr).grp g = givenTo s wr (s.grp g) := by
  cases hp : s.probe.on <;> simp [State.give, givenTo, hp, State.grp, State.modGrp]

/-- The code and the error predicate given to a group leave its holds and its place. -/
theorem givenTo_code (s : State) (gd : Nat) (x : W32) (b : Bool) (g : Group) :
    (givenTo s [.g gd x false, .q 6 b] g).hold = g.hold ∧ (givenTo s [.g gd x false, .q 6 b] g).hold2 = g.hold2 ∧
      (givenTo s [.g gd x false, .q 6 b] g).rank = g.rank := by
  unfold givenTo
  split <;> exact ⟨rfl, rfl, rfl⟩

theorem give_grp_ne {g k : Nat} (h : k ≠ g) (s : State) (wr : List RegWr) : (s.give g wr).grp k = s.grp k := by
  unfold State.give
  split <;> simp [State.modGrp, State.grp, h]

theorem give_blocks (s : State) (g : Nat) (wr : List RegWr) : (s.give g wr).blocks = s.blocks := by
  unfold State.give
  split <;> rfl

theorem give_mem (s : State) (g : Nat) (wr : List RegWr) : (s.give g wr).mem = s.mem := by
  unfold State.give
  split <;> rfl

theorem give_cur (s : State) (g : Nat) (wr : List RegWr) : (s.give g wr).cur = s.cur := by
  unfold State.give
  split <;> rfl

/-- A predicate holds what is written to it. -/
theorem Group.rq_wq (g : Group) {i : Nat} (hi : i < 7) (b : Bool) : (g.wq i b).rq i = b := by
  rw [Group.wq, if_neg (by omega)]
  cases b <;> simp [Group.rq, show ¬i = 7 by omega, show i < 8 by omega]

/-- Outside a chain what is given is there at once. -/
theorem givenTo_code_of_single {s : State} (hp : s.probe.on = false) (gd : Nat) (x : W32) (b : Bool) (g : Group) :
    (givenTo s [.g gd x false, .q 6 b] g).rg gd = x ∧ (givenTo s [.g gd x false, .q 6 b] g).rq 6 = b := by
  rw [givenTo, if_neg (by simp [hp])]
  exact ⟨(mget_mset ..).trans (if_pos rfl), Group.rq_wq _ (by decide) b⟩

/-! ## Waiters of a phase (R198) -/

def isTbWait (k : HoldKind) : Bool :=
  match k with
  | .tbWait _ _ _ => true
  | _ => false

/-- The end of one TBWAIT where its phase completes. -/
def endTbWaiter (code : Nat) (p : Bool → Bool) (s : State) (w : Nat × Nat × Bool) : State :=
  if p w.2.2 then endTbWait (focusHold s w.1 isTbWait) w.1 w.2.1 code else s

theorem releaseTb_eq (s : State) (b rank off code : Nat) (p : Bool → Bool) :
    releaseTb s b rank off code p = (tbWaiters s b rank off).foldl (endTbWaiter code p) s := rfl

theorem endHold_rank (s : State) (g k : Nat) : ((endHold s g).grp k).rank = (s.grp k).rank := by
  by_cases h : k = g
  · subst h
    cases hh : (s.grp k).hold with
    | none => rw [endHold, State.modGrp_grp_same, hh]
    | some x =>
      obtain ⟨k', e⟩ := endHold_grp hh
      rw [e]
  · rw [endHold_grp_ne h]

theorem endTbWait_rank (s : State) (g gd code k : Nat) : ((endTbWait s g gd code).grp k).rank = (s.grp k).rank := by
  rw [endTbWait, endHold_rank, (keeps_acquire _ g 1).rank]
  by_cases h : k = g
  · subst h
    rw [give_grp_same, (givenTo_code ..).2.2]
  · rw [give_grp_ne h]

theorem endTbWait_blocks (s : State) (g gd code : Nat) : (endTbWait s g gd code).blocks = s.blocks :=
  (keeps_acquire _ g 1).blocks.trans (give_blocks ..)

theorem endTbWait_mem (s : State) (g gd code : Nat) : (endTbWait s g gd code).mem = s.mem := by
  rw [endTbWait, endHold_mem, acquire_mem, give_mem]

theorem endTbWait_cur (s : State) (g gd code : Nat) : (endTbWait s g gd code).cur = s.cur :=
  (keeps_acquire _ g 1).cur.trans (give_cur ..)

end Sys2Proof.Machine
end

section
/-!
PROOFS. Transaction barriers that are arrived at and waited for (R192, R196 to R198).
-/
namespace Sys2Proof.Machine

/-! ## What waiters that go on leave (R192, R198) -/

/-- The state in which a waiter's end looks at it: its hold in front. -/
theorem focusHold_cases {P : State → Prop} {s : State} {g : Nat} (p : HoldKind → Bool) (hs : P s) (hw : P (swapHolds s g)) : P (focusHold s g p) := by
  obtain e | e := focusHold_eq s g p <;> rw [e] <;> assumption

theorem swapHolds_rank (s : State) (g k : Nat) : ((swapHolds s g).grp k).rank = (s.grp k).rank := by
  by_cases h : k = g
  · subst h
    rw [swapHolds, State.modGrp_grp_same]
  · simp [swapHolds, State.modGrp, State.grp, h]

theorem endTbWaiter_rank (code : Nat) (p : Bool → Bool) (s : State) (w : Nat × Nat × Bool) (k : Nat) :
    ((endTbWaiter code p s w).grp k).rank = (s.grp k).rank := by
  unfold endTbWaiter
  split
  · rw [endTbWait_rank]
    exact focusHold_cases (P := fun t => (t.grp k).rank = (s.grp k).rank) _ rfl (swapHolds_rank s w.1 k)
  · rfl

theorem endTbWaiter_blocks (code : Nat) (p : Bool → Bool) (s : State) (w : Nat × Nat × Bool) : (endTbWaiter code p s w).blocks = s.blocks := by
  unfold endTbWaiter
  split
  · rw [endTbWait_blocks]
    exact focusHold_cases (P := fun t => t.blocks = s.blocks) _ rfl rfl
  · rfl

theorem endTbWaiter_cur (code : Nat) (p : Bool → Bool) (s : State) (w : Nat × Nat × Bool) : (endTbWaiter code p s w).cur = s.cur := by
  unfold endTbWaiter
  split
  · rw [endTbWait_cur]
    exact focusHold_cases (P := fun t => t.cur = s.cur) _ rfl rfl
  · rfl

/-- A group that nothing holds. -/
def freeOf (s : State) (k : Nat) : Prop := (s.grp k).hold = none ∧ (s.grp k).hold2 = none

theorem endTbWaiter_free {s : State} {k : Nat} (h : freeOf s k) (code : Nat) (p : Bool → Bool) (w : Nat × Nat × Bool) : freeOf (endTbWaiter code p s w) k := by
  unfold endTbWaiter
  split
  · by_cases hk : k = w.1
    · subst hk
      rw [focusHold_of_single h.2]
      have keeps := keeps_acquire (s.give w.1 [.g w.2.1 (BitVec.ofNat 32 code) false, .q 6 (code != 0)]) w.1 1
      obtain ⟨given, given2, -⟩ := givenTo_code s w.2.1 (BitVec.ofNat 32 code) (code != 0) (s.grp w.1)
      rw [← give_grp_same] at given given2
      have hold := (keeps.hold w.1).trans (given.trans h.1)
      have same : endTbWait s w.1 w.2.1 code = (acquire (s.give w.1 [.g w.2.1 (BitVec.ofNat 32 code) false, .q 6 (code != 0)]) w.1 1).modGrp w.1 id := by
        rw [endTbWait, endHold]
        exact State.modGrp_congr (by rw [hold]; rfl)
      rw [freeOf, same, State.modGrp_grp_same]
      exact ⟨hold, (keeps.hold2 w.1).trans (given2.trans h.2)⟩
    · have focus : (focusHold s w.1 isTbWait).grp k = s.grp k :=
        focusHold_cases (P := fun t => t.grp k = s.grp k) _ rfl (by simp [swapHolds, State.modGrp, State.grp, hk])
      rw [freeOf, endTbWait, endHold_grp_ne hk, (keeps_acquire _ w.1 1).hold, (keeps_acquire _ w.1 1).hold2, give_grp_ne hk, focus]
      exact h
  · exact h

/-- What a change of a barrier leaves besides the scratchpads: the current group, the ranks, and that nothing holds a group. -/
structure TbKeeps (s u : State) : Prop where
  cur : u.cur = s.cur
  rank : ∀ k, (u.grp k).rank = (s.grp k).rank
  free : ∀ k, freeOf s k → freeOf u k

theorem TbKeeps.trans {s u v : State} (a : TbKeeps s u) (b : TbKeeps u v) : TbKeeps s v :=
  ⟨b.cur.trans a.cur, fun k => (b.rank k).trans (a.rank k), fun k h => b.free k (a.free k h)⟩

theorem tbKeeps_modLoc (s : State) (b rank : Nat) (f : Local → Local) : TbKeeps s (s.modLoc b rank f) := ⟨rfl, fun _ => rfl, fun _ h => h⟩

theorem tbKeeps_releaseTb (s : State) (b rank off code : Nat) (p : Bool → Bool) : TbKeeps s (releaseTb s b rank off code p) := by
  rw [releaseTb_eq]
  exact ⟨foldl_keeps State.cur (endTbWaiter_cur code p) _ s, fun k => foldl_keeps (fun t => (t.grp k).rank) (fun s w => endTbWaiter_rank code p s w k) _ s,
    fun k h => List.foldlRecOn (motive := (freeOf · k)) _ _ h (fun _ ht w _ => endTbWaiter_free ht code p w)⟩

theorem releaseTb_blocks (s : State) (b rank off code : Nat) (p : Bool → Bool) : (releaseTb s b rank off code p).blocks = s.blocks :=
  foldl_keeps State.blocks (endTbWaiter_blocks code p) _ s

/-! ## Complete and Update (R192, R193) -/

theorem modLoc_loc_same (s : State) (b rank : Nat) (f : Local → Local) : ((s.modLoc b rank f).blk b).loc rank = f ((s.blk b).loc rank) := by
  simp [State.modLoc, State.modBlk, State.blk, Block.loc]

theorem tbKeeps_tbComplete (s : State) (b rank off code : Nat) : TbKeeps s (tbComplete s b rank off code) := by
  unfold tbComplete
  exact (tbKeeps_modLoc s b rank _).trans (tbKeeps_releaseTb ..)

/-- The word after a phase completes. -/
theorem tbComplete_word (s : State) (b rank off : Nat) (code : BitVec 6) :
    Claims.tbWord (((tbComplete s b rank off code.toNat).blk b).loc rank) off = Claims.tbCompleted (Claims.tbWord ((s.blk b).loc rank) off) code := by
  rw [tbComplete, State.blk, releaseTb_blocks, ← State.blk, modLoc_loc_same, tbWord_tbPut, tbGet_eq, ofNat_tbBits_completed]

theorem tbKeeps_tbUpdate (s : State) (b rank off : Nat) (da db : Int) : TbKeeps s (tbUpdate s b rank off da db) := by
  unfold tbUpdate
  dsimp only
  split
  · exact tbKeeps_tbComplete ..
  · split
    · exact (tbKeeps_modLoc s b rank _).trans (tbKeeps_tbComplete ..)
    · exact tbKeeps_modLoc s b rank _

/-- The upper byte of a word is its phase and its error. -/
theorem upper_byte (w : W64) : w.extractLsb' 56 8 = w.extractLsb' 63 1 ++ w.extractLsb' 62 1 ++ w.extractLsb' 56 6 := by
  refine BitVec.eq_of_toNat_eq ?_
  simp only [toNat_append_add, BitVec.extractLsb'_toNat, Nat.shiftRight_eq_div_pow, Nat.reducePow]
  omega

/-- A word whose pending counts alone change. -/
theorem ofNat_tbBits_pending (w : W64) {a b : Int} (ha : 0 ≤ a) (ha' : a < 4096) :
    BitVec.ofNat 64 (tbBits { tbFields w with ap := a.toNat, bp := b }) =
      (w.extractLsb' 56 8 ++ BitVec.ofInt 12 a ++ BitVec.ofInt 24 b ++ w.extractLsb' 8 12 ++ 0xB7#8).setWidth 64 := by
  have hap : a.toNat = (BitVec.ofInt 12 a).toNat := by
    rw [BitVec.toNat_ofInt]
    omega
  rw [hap, upper_byte]
  exact ofNat_tbBits (BitVec.toNat_ofInt b).symm

/-- Update by the fields of the word. -/
theorem tbUpdate_eq (s : State) (b rank off : Nat) (da db : Int) {w : W64} (hw : Claims.tbWord ((s.blk b).loc rank) off = w) :
    tbUpdate s b rank off da db =
      if (tbFields w).ap - da < 0 ∨ (tbFields w).bp + db < -8388608 ∨ (tbFields w).bp + db > 8388607 ∨ ((tbFields w).ap - da = 0 ∧ (tbFields w).bp + db < 0) then
        tbComplete s b rank off fcBarOverflow
      else if (tbFields w).ap - da = 0 ∧ (tbFields w).bp + db = 0 then
        tbComplete (s.modLoc b rank (tbPut · off { tbFields w with ap := ((tbFields w).ap - da).toNat, bp := (tbFields w).bp + db })) b rank off 0
      else s.modLoc b rank (tbPut · off { tbFields w with ap := ((tbFields w).ap - da).toNat, bp := (tbFields w).bp + db }) := by
  unfold tbUpdate
  rw [tbGet_eq, hw]
  simp only [Bool.or_eq_true, Bool.and_eq_true, decide_eq_true_eq, or_assoc]
  rfl

/-- A word whose pending counts alone change completes as before. -/
theorem tbCompleted_pending (w : W64) (a : BitVec 12) (b : BitVec 24) (code : BitVec 6) :
    Claims.tbCompleted ((w.extractLsb' 56 8 ++ a ++ b ++ w.extractLsb' 8 12 ++ 0xB7#8).setWidth 64) code = Claims.tbCompleted w code := by
  have phase : ((w.extractLsb' 56 8 ++ a ++ b ++ w.extractLsb' 8 12 ++ 0xB7#8).setWidth 64).getLsbD 63 = w.getLsbD 63 := by
    simp only [BitVec.getLsbD_setWidth, BitVec.getLsbD_append, BitVec.getLsbD_extractLsb']
    simp
  have count : ((w.extractLsb' 56 8 ++ a ++ b ++ w.extractLsb' 8 12 ++ 0xB7#8).setWidth 64).extractLsb' 8 12 = w.extractLsb' 8 12 := by
    refine BitVec.eq_of_toNat_eq ?_
    have := (w.extractLsb' 8 12).isLt
    generalize w.extractLsb' 8 12 = x at *
    rw [BitVec.extractLsb'_toNat, BitVec.toNat_setWidth, toNat_append_add, toNat_append_add, Nat.shiftRight_eq_div_pow]
    simp only [Nat.reducePow]
    omega
  rw [Claims.tbCompleted, phase, count, ← Claims.tbCompleted]

/-- Update on the word in a scratchpad is Update on the word. -/
theorem tbUpdate_word (s : State) (b rank off : Nat) {da : Int} (hda : 0 ≤ da) (db : Int) :
    Claims.tbWord (((tbUpdate s b rank off da db).blk b).loc rank) off = (Claims.tbUpdated (Claims.tbWord ((s.blk b).loc rank) off) da db).1 := by
  rw [tbUpdate_eq s b rank off da db rfl]
  generalize hw : Claims.tbWord ((s.blk b).loc rank) off = w
  have hap : (tbFields w).ap < 4096 := BitVec.isLt (w.extractLsb' 44 12)
  unfold Claims.tbUpdated
  change _ = (if (tbFields w).ap - da < 0 ∨ (tbFields w).bp + db < -8388608 ∨ (tbFields w).bp + db > 8388607 ∨
    ((tbFields w).ap - da = 0 ∧ (tbFields w).bp + db < 0) then _ else _ : W64 × Option (BitVec 6)).1
  by_cases hover : (tbFields w).ap - da < 0 ∨ (tbFields w).bp + db < -8388608 ∨ (tbFields w).bp + db > 8388607 ∨
    ((tbFields w).ap - da = 0 ∧ (tbFields w).bp + db < 0)
  · rw [if_pos hover, if_pos hover]
    exact (tbComplete_word s b rank off 0x0E).trans (by rw [hw])
  · have put : Claims.tbWord (((s.modLoc b rank (tbPut · off { tbFields w with ap := ((tbFields w).ap - da).toNat, bp := (tbFields w).bp + db })).blk b).loc rank) off =
        (w.extractLsb' 56 8 ++ BitVec.ofInt 12 ((tbFields w).ap - da) ++ BitVec.ofInt 24 ((tbFields w).bp + db) ++ w.extractLsb' 8 12 ++ 0xB7#8).setWidth 64 := by
      rw [modLoc_loc_same, tbWord_tbPut]
      exact ofNat_tbBits_pending w (by omega) (by omega)
    rw [if_neg hover, if_neg hover]
    change _ = (if (tbFields w).ap - da = 0 ∧ (tbFields w).bp + db = 0 then _ else _ : W64 × Option (BitVec 6)).1
    by_cases hdone : (tbFields w).ap - da = 0 ∧ (tbFields w).bp + db = 0
    · rw [if_pos hdone, if_pos hdone]
      exact (tbComplete_word _ b rank off 0).trans (by rw [put, tbCompleted_pending])
    · rw [if_neg hdone, if_neg hdone]
      exact put

/-! ## TBARV (R197) -/

theorem tbAddr_of_good {s : State} {f : FmtM} {off : Nat} (h : Claims.TbGood s f off) : tbAddr s f = off := by
  rw [← h.offset, tbAddr, Claims.tbOffset, Int.mul_comm]

theorem tbChecks_of_good {s : State} {f : FmtM} {off : Nat} (h : Claims.TbGood s f off) {regs : List Nat} (hr : ∀ r ∈ regs, r ∉ s.me.badG) :
    tbChecks s f regs = [] := by
  have clean : (f.addr.toNat :: regs).any s.me.gBad = false := any_gBad (List.forall_mem_cons.mpr ⟨h.clean, hr⟩)
  have inside : spInside ((s.blk (blockOf s.cur)).loc s.me.rank) off 8 = true := decide_eq_true h.inside
  have aligned := h.aligned
  simp only [tbChecks, tbAddr_of_good h, clean, Int.toNat_natCast, inside]
  simp [faultIf]
  omega

/-- What TBARV and TBWAIT do when their word passes its checks. -/
theorem execTbarv_of_good {s : State} {f : FmtM} {off : Nat} (h : Claims.TbGood s f off) (hd : f.hint = 1 → f.data.toNat ∉ s.me.badG) (c : Ctl) :
    exec (.tbarv c f) s = reportPoint s (fun s' => .next (((wcDrainGroup s' s'.cur).issueHeld c).holdMe s'.me.pc c.setk.toNat
      (.tbArrive (tbAddr s' f).toNat (if f.hint.toNat == 1 then (s'.me.rg f.data.toNat).toNat else 0)))) := by
  rw [exec_tbarv, execTbarv]
  refine orFault_ok (tbChecks_of_good h fun r hr => ?_)
  split at hr
  · next hint => exact (List.mem_singleton.mp hr) ▸ hd (BitVec.eq_of_toNat_eq (by simpa using hint))
  · cases hr

theorem execTbarv_of_pending {s : State} {f : FmtM} {off : Nat} (h : Claims.TbGood s f off) (hd : f.hint = 1 → f.data.toNat ∉ s.me.badG) (c : Ctl)
    (ht : s.me.trap ≠ 0) : exec (.tbarv c f) s = .next (raise s (Claims.pending s.me)) := by
  rw [execTbarv_of_good h hd, reportPoint_of_pending ht]

theorem execTbarv_of_clear {s : State} {f : FmtM} {off : Nat} (h : Claims.TbGood s f off) (hd : f.hint = 1 → f.data.toNat ∉ s.me.badG) (c : Ctl)
    (ht : s.me.trap = 0) :
    exec (.tbarv c f) s = .next (Claims.held ((wcDrainGroup (Claims.passReport s) s.cur).issueHeld c) s.me.pc c.setk.toNat s.clock
      (.tbArrive off (if f.hint = 1 then (s.me.rg f.data.toNat).toNat else 0))) := by
  have hoff : (tbAddr (Claims.passReport s) f).toNat = off := by
    rw [tbAddr, passReport_me]
    exact congrArg Int.toNat (tbAddr_of_good h)
  have hint : (f.hint.toNat == 1) = decide (f.hint = 1) := by
    rw [Bool.beq_eq_decide_eq]
    exact decide_eq_decide.mpr ⟨fun e => BitVec.eq_of_toNat_eq e, fun e => e ▸ rfl⟩
  rw [execTbarv_of_good h hd, reportPoint_of_clear ht, hoff, hint, passReport_cur, passReport_me, holdMe_drained]
  simp only [decide_eq_true_eq]
  rfl

/-- The arrival of a group with no access outstanding on a LIVE word: the update, and nothing holds the group. -/
theorem pollTbArrive_of_live {s : State} {h : Hold} {off : Nat} (n : Nat) (hh : s.me.hold = some h) (h2 : s.me.hold2 = none) (ha : s.me.acc = [])
    (ht : mget (Claims.myScratch s).tags 0 (off / 8) = 1) :
    let t := pollTbArrive s s.cur off n
    Claims.tbWord (Claims.myScratch t) off = (Claims.tbUpdated (Claims.tbWord (Claims.myScratch s) off) 1 n).1 ∧ t.me.hold = none := by
  have keeps := keeps_wcDrainGroup s s.cur
  obtain ⟨free, free2⟩ := endHold_hold ((keeps.hold s.cur).trans hh)
  have hloc : ((endHold (wcDrainGroup s s.cur) s.cur).blk (s.cur / 512)).loc s.me.rank = Claims.myScratch s := congrArg (Block.loc · s.me.rank) (keeps.blk _)
  have rank : ((wcDrainGroup s s.cur).grp s.cur).rank = s.me.rank := keeps.rank s.cur
  have hpoll : pollTbArrive s s.cur off n = tbUpdate (endHold (wcDrainGroup s s.cur) s.cur) (s.cur / 512) s.me.rank off 1 n := by
    have live : tbTag (((wcDrainGroup s s.cur).blk (blockOf s.cur)).loc s.me.rank) off = tagLive := by rw [keeps.blk]; exact ht
    rw [pollTbArrive, if_neg (by rw [releaseReady_me, ha]; simp)]
    dsimp only
    rw [rank, if_pos live]
    rfl
  have tb := tbKeeps_tbUpdate (endHold (wcDrainGroup s s.cur) s.cur) (s.cur / 512) s.me.rank off 1 n
  have cur : (pollTbArrive s s.cur off n).cur = s.cur := by rw [hpoll, tb.cur]; exact keeps.cur
  refine ⟨?_, ?_⟩
  · have trank : (pollTbArrive s s.cur off n).me.rank = s.me.rank := by rw [State.me, cur, hpoll, tb.rank, endHold_rank, rank]
    rw [Claims.myScratch, trank, cur, hpoll, tbUpdate_word _ _ _ _ (by decide), hloc]
  · rw [State.me, cur, hpoll]
    exact (tb.free s.cur ⟨free.trans ((keeps.hold2 s.cur).trans h2), free2⟩).1

/-! ## TBWAIT (R198) -/

/-- A wait that ends with its results: nothing holds the group, outside a chain it has them, and memory and the scratchpads stay. -/
theorem endHold_given {s u : State} {gd : Nat} {x : W32} {b : Bool} {h : Hold} (keeps : Keeps (s.give s.cur [.g gd x false, .q 6 b]) u)
    (hm : u.mem = s.mem) (hh : s.me.hold = some h) (h2 : s.me.hold2 = none) :
    let t := endHold u s.cur
    t.me.hold = none ∧ t.mem = s.mem ∧ t.blocks = s.blocks ∧ (s.probe.on = false → t.me.rg gd = x ∧ t.me.rq 6 = b) := by
  obtain ⟨given, given2, -⟩ := givenTo_code s gd x b (s.grp s.cur)
  rw [← give_grp_same] at given given2
  have hold := (keeps.hold s.cur).trans (given.trans hh)
  have cur : (endHold u s.cur).cur = s.cur := keeps.cur.trans (give_cur ..)
  intro t
  rw [State.me, cur]
  refine ⟨(endHold_hold hold).1.trans ((keeps.hold2 s.cur).trans (given2.trans h2)), hm, keeps.blocks.trans (give_blocks ..), fun hp => ?_⟩
  obtain ⟨k, e⟩ := endHold_grp hold
  obtain ⟨acc, ha, -⟩ := keeps.grp s.cur
  rw [e, ha, give_grp_same]
  exact givenTo_code_of_single hp gd x b (s.grp s.cur)

/-- A wait polled on a word that is not LIVE. -/
theorem pollTbWait_of_dead {s : State} {off : Nat} (h : mget (Claims.myScratch s).tags 0 (off / 8) ≠ 1) (par : Bool) (gd : Nat) :
    pollTbWait s s.cur off par gd =
      endHold (s.give s.cur [.g gd (BitVec.ofNat 32 (deadCode (mget (Claims.myScratch s).tags 0 (off / 8)))) false, .q 6 true]) s.cur := if_pos h

/-- A wait polled on a LIVE word. -/
theorem pollTbWait_of_live {s : State} {off : Nat} {w : W64} (h : mget (Claims.myScratch s).tags 0 (off / 8) = 1)
    (hw : Claims.tbWord (Claims.myScratch s) off = w) (par : Bool) (gd : Nat) :
    pollTbWait s s.cur off par gd =
      if w.getLsbD 63 = par then s else endTbWait s s.cur gd (if w.getLsbD 62 then (w.extractLsb' 56 6).toNat else 0) := by
  have bit (n : Nat) : ((w.extractLsb' n 1).toNat = 1) = (w.getLsbD n = true) := by
    rw [BitVec.getLsbD_eq_extractLsb']
    generalize w.extractLsb' n 1 = x
    revert x
    decide
  have phase : ((tbFields w).ph == 1) = w.getLsbD 63 := by
    have := bit 63
    cases hb : w.getLsbD 63 <;> simp_all [tbFields]
  have code : (if (tbFields w).er = 1 then (tbFields w).fc else 0) = if w.getLsbD 62 then (w.extractLsb' 56 6).toNat else 0 :=
    ite_congr (bit 62) (fun _ => rfl) (fun _ => rfl)
  have hget : tbGet ((s.blk (blockOf s.cur)).loc (s.grp s.cur).rank) off = tbFields w := (tbGet_eq _ off).trans (congrArg tbFields hw)
  unfold pollTbWait
  rw [if_neg (fun hne => hne h)]
  dsimp only
  rw [hget, phase, code]
  cases w.getLsbD 63 <;> cases par <;> rfl

theorem execTbwait_of_good {s : State} {f : FmtM} {off : Nat} (h : Claims.TbGood s f off) (c : Ctl) (hh : s.me.hold = none) (h2 : s.me.hold2 = none) :
    exec (.tbwait c f) s = .next (pollTbWait (Claims.held (s.issueHeld c) s.me.pc c.setk.toNat s.clock (.tbWait off (f.hint.getLsbD 0) f.data.toNat)) s.cur off
      (f.hint.getLsbD 0) f.data.toNat) := by
  have hpar : decide (f.hint.toNat % 2 = 1) = f.hint.getLsbD 0 := by
    rw [BitVec.getLsbD, Nat.testBit_zero]
  obtain ⟨k, issued⟩ := s.issueHeld_me c
  have hold : (s.issueHeld c).me.hold = none := (congrArg Group.hold issued).trans hh
  have hold2 : (s.issueHeld c).me.hold2 = none := (congrArg Group.hold2 issued).trans h2
  rw [exec_tbwait, execTbwait, orFault_ok (tbChecks_of_good h (by simp)), tbAddr_of_good h]
  dsimp only
  rw [hpar, State.holdMe_eq_held, pollOwn_of_single (by rw [held_me_of_free hold]; exact hold2)]
  rfl

/-- An instruction that has just begun to hold its group leaves its scratchpad. -/
theorem myScratch_held {s t : State} {c : Ctl} {setk n : Nat} {pc : W64} {kind : HoldKind} (hh : t.me.hold = none) (hb : t.blocks = s.blocks)
    (hc : t.cur = s.cur) (hr : t.me.rank = s.me.rank) :
    Claims.myScratch (Claims.held (t.issueHeld c) pc setk n kind) = Claims.myScratch s := by
  obtain ⟨k, issued⟩ := t.issueHeld_me c
  have rank : (Claims.held (t.issueHeld c) pc setk n kind).me.rank = s.me.rank := by
    rw [held_me_of_free ((congrArg Group.hold issued).trans hh), issued, ← hr]
  have blk : (Claims.held (t.issueHeld c) pc setk n kind).blk = s.blk := by
    funext b
    exact congrArg (mget · {} b) hb
  have cur : (Claims.held (t.issueHeld c) pc setk n kind).cur = s.cur := hc
  rw [Claims.myScratch, Claims.myScratch, rank, blk, cur]

/-- A group that holds for its arrival: the hold is its one hold, and no access is outstanding where none was. -/
theorem drained_held_me {s : State} (hh : s.me.hold = none) (h2 : s.me.hold2 = none) (c : Ctl) (pc : W64) (setk n : Nat) (kind : HoldKind) :
    let u := Claims.held ((wcDrainGroup (Claims.passReport s) s.cur).issueHeld c) pc setk n kind
    u.cur = s.cur ∧ u.me.hold = some ⟨kind, n, pc, setk⟩ ∧ u.me.hold2 = none ∧ (s.me.acc = [] → u.me.acc = []) ∧
      Claims.myScratch u = Claims.myScratch s := by
  have keeps := keeps_wcDrainGroup (Claims.passReport s) s.cur
  obtain ⟨acc, drained, none⟩ := keeps.me
  rw [passReport_me] at drained none
  obtain ⟨k, issued⟩ := (wcDrainGroup (Claims.passReport s) s.cur).issueHeld_me c
  have free : (wcDrainGroup (Claims.passReport s) s.cur).me.hold = Option.none := (congrArg Group.hold drained).trans hh
  refine ⟨keeps.cur, ?_, ?_, fun ha => ?_, myScratch_held free keeps.blocks keeps.cur (by rw [drained])⟩ <;>
    rw [held_me_of_free ((congrArg Group.hold issued).trans free), issued, drained]
  · exact h2
  · exact none ha

/-- Settles O29: TBARV by what its report point finds and the update of its word, TBWAIT by what its one poll finds. -/
theorem transactionBarrierArriveAndWait : Obligations.TransactionBarrierArriveAndWait := by
  intro s c f off good hh h2 l w tag n hd
  obtain ⟨k, issued⟩ := s.issueHeld_me c
  have free : (s.issueHeld c).me.hold = none := (congrArg Group.hold issued).trans hh
  let h := Claims.held (s.issueHeld c) s.me.pc c.setk.toNat s.clock (.tbWait off (f.hint.getLsbD 0) f.data.toNat)
  have wait : exec (.tbwait c f) s = .next (pollTbWait h s.cur off (f.hint.getLsbD 0) f.data.toNat) := execTbwait_of_good good c hh h2
  have scratch : Claims.myScratch h = l := myScratch_held hh rfl rfl rfl
  have hold : h.me.hold = some _ := congrArg Group.hold (held_me_of_free free)
  have hold2 : h.me.hold2 = none := (congrArg Group.hold2 (held_me_of_free free)).trans ((congrArg Group.hold2 issued).trans h2)
  have cur : s.cur = h.cur := rfl
  rw [cur] at wait
  refine ⟨execTbarv_of_pending good hd c, fun ht => ⟨_, execTbarv_of_clear good hd c ht, rfl, fun ha hlive => ?_⟩, fun hdead => ?_, fun hlive hne => ?_,
    fun hlive heq => ?_⟩
  · obtain ⟨ucur, uhold, uhold2, uacc, uscratch⟩ := drained_held_me hh h2 c s.me.pc c.setk.toNat s.clock (.tbArrive off n)
    have poll := pollTbArrive_of_live (off := off) n uhold uhold2 (uacc ha) (by rw [uscratch]; exact hlive)
    rw [uscratch, ucur] at poll
    exact poll
  · rw [wait, pollTbWait_of_dead (by rw [scratch]; exact hdead), scratch]
    obtain ⟨ended, mem, blocks, given⟩ := endHold_given (.refl _) (give_mem h h.cur [.g f.data.toNat (BitVec.ofNat 32 (deadCode tag)) false, .q 6 true]) hold hold2
    refine ⟨_, rfl, ended, mem, blocks, fun hp => ⟨(given hp).1.trans ?_, (given hp).2⟩⟩
    rw [deadCode, tagClob]
    split <;> rfl
  · rw [wait, pollTbWait_of_live (by rw [scratch]; exact hlive) (w := w) (by rw [scratch]), if_neg hne]
    generalize hcode : (if w.getLsbD 62 then (w.extractLsb' 56 6).toNat else 0) = code
    obtain ⟨ended, mem, blocks, given⟩ := endHold_given (keeps_acquire (h.give h.cur [.g f.data.toNat (BitVec.ofNat 32 code) false, .q 6 (code != 0)]) h.cur 1)
      (by rw [acquire_mem, give_mem]) hold hold2
    refine ⟨_, rfl, ended, mem, blocks, fun hp => (given hp).1.trans ?_⟩
    rw [← hcode]
    split
    · exact BitVec.eq_of_toNat_eq (by simp)
    · rfl
  · rw [wait, pollTbWait_of_live (by rw [scratch]; exact hlive) (w := w) (by rw [scratch]), if_pos heq]

end Sys2Proof.Machine
end

section
/-!
PROOFS. Where a precise fault goes (R24, R26): the fault service, the handler of the kernel, or the end of the block.
-/
namespace Sys2Proof.Machine

/-! ## Records (R337) -/

/-- A full log is left as it is. -/
theorem logTry_of_full {s t : State} {cx core : Nat} {rec : Nat → List Byte} (h : logTry s cx core rec = (t, .full)) : t = s := by
  unfold logTry at h
  dsimp only at h
  split at h
  · split at h
    · exact (congrArg Prod.fst h).symm
    · split at h
      · cases h
      · split at h
        · cases h
        · split at h <;> cases h
  · cases h

/-- A record is put when its try writes it. -/
theorem logPut_snd (s : State) (cx core : Nat) (rec : Nat → List Byte) : (logPut s cx core rec).2 = true ↔ ∃ n, (logTry s cx core rec).2 = .written n := by
  obtain ⟨t, r, h⟩ : ∃ t r, logTry s cx core rec = (t, r) := ⟨_, _, rfl⟩
  cases r <;> simp [logPut, h]

/-! ## The fault service (step 1 of R26) -/

theorem replayableKind_iff (s : State) (g : Nat) (f : FaultInfo) :
    replayableKind s g f = true ↔ (f.code = 0x04 ∨ f.code = 0x05) ∧ (s.ctx (s.grp g).ctx).fsvc ≠ 0 ∧ f.flags / 2 % 2 = 0 := by
  simp [replayableKind, fcNotPresent, fcProtection, State.ctxOf, flOutside, and_assoc]

theorem deliver_of_written {s t : State} {g n : Nat} {f : FaultInfo} (h : replayableKind s g f = true)
    (ht : logTry s (s.grp g).ctx (s.coreOf g) (groupRec s g f true) = (t, .written n)) : deliver s g f = t.modGrp g (suspended (.replay n) f) := by
  rw [deliver]
  rw [if_pos h, ht]

theorem deliver_of_full {s t : State} {g : Nat} {f : FaultInfo} (h : replayableKind s g f = true)
    (ht : logTry s (s.grp g).ctx (s.coreOf g) (groupRec s g f true) = (t, .full)) : deliver s g f = s.modGrp g (suspended .logWait f) := by
  obtain rfl := logTry_of_full ht
  rw [deliver]
  rw [if_pos h, ht]

theorem deliver_of_hard {s : State} {g : Nat} {f : FaultInfo} (h : ¬ replayableKind s g f = true) : deliver s g f = deliverHard s g f true := if_neg h

/-! ## The handler (step 2 of R26) -/

/-- A group that enters its kernel's handler. -/
def entersHandler (now h : Nat) (f : FaultInfo) (recorded : Bool) (gr : Group) : Group :=
  { gr with
    fpc := gr.pc, pc := BitVec.ofNat 64 h, inHandler := true, hold := none, hold2 := none, chain := none, packet := none, pfx := none
    stop := .running, waiting := none, waitFrom := now
    afterEnd := gr.stack.isEmpty && gr.run == 0
    fstat := BitVec.ofNat 32 (f.code + 64 + (if recorded then 128 else 0))
    trap := if f.code = fcArith || f.code = fcDivDepth then 0 else gr.trap
    ddp := if f.code = fcArith || f.code = fcDivDepth then 0 else gr.ddp }

/-- A handler entered for the lanes' own faults has them reported. -/
theorem entersHandler_trap (now h : Nat) (f : FaultInfo) (recorded : Bool) (gr : Group) :
    (entersHandler now h f recorded gr).trap = if f.code = 0x0A ∨ f.code = 0x08 then 0 else gr.trap := by
  refine ite_congr (propext ?_) (fun _ => rfl) (fun _ => rfl)
  rw [Bool.or_eq_true, decide_eq_true_iff, decide_eq_true_iff]
  rfl

/-- sr.fstat in a handler: the code, V and REC. -/
theorem fstat_of_handler {code : Nat} (h : code < 64) (b : Bool) :
    ((BitVec.ofNat 32 (code + 64 + (if b then 128 else 0))).extractLsb' 0 6).toNat = code ∧
      (BitVec.ofNat 32 (code + 64 + (if b then 128 else 0))).getLsbD 6 = true ∧
      ((BitVec.ofNat 32 (code + 64 + (if b then 128 else 0))).getLsbD 7 = true ↔ b = true) := by
  revert code
  cases b <;> decide

theorem deliverHard_of_handler {s : State} {g h : Nat} {f : FaultInfo} (hk : (s.kernelOf g).handler = some h) (hi : (s.grp g).inHandler = false) :
    deliverHard s g f true = (logPut s (s.grp g).ctx (s.coreOf g) (groupRec s g f false)).1.modGrp g
      (entersHandler s.clock h f (logPut s (s.grp g).ctx (s.coreOf g) (groupRec s g f false)).2) := by
  rw [← (keeps_logPut s (s.grp g).ctx (s.coreOf g) (groupRec s g f false)).clock]
  unfold deliverHard
  rw [hk]
  dsimp only
  rw [hi]
  rfl

/-! ## The end of the block (step 3 of R26) -/

theorem deliverHard_of_end {s : State} {g : Nat} {f : FaultInfo} (h : (s.kernelOf g).handler = none ∨ (s.grp g).inHandler = true) :
    deliverHard s g f true = terminate s g f := by
  unfold deliverHard
  dsimp only
  split
  · next a ha => rw [if_pos (h.resolve_left (by simp [ha]))]
  · rfl

/-- What is left of one group's work when its block stops: its buffers drain, and its units are free. -/
def stopOne (s : State) (g : Nat) : State := (wcDrainGroup s g).modCore (s.coreOf g) (fun c => { c with units := c.units - droppedUnits (s.grp g) })

theorem keeps_stopOne (s : State) (g : Nat) : Keeps s (stopOne s g) := (keeps_wcDrainGroup s g).trans (keeps_modCore _ _ _)

/-- Every group of a block stopped. -/
def stopGroups (s : State) (b : Nat) : State :=
  { s with groups := mmap (fun k gr => if blockOf k == b then stopped gr else gr) s.groups }

theorem stopGroups_of_block {s : State} {b k : Nat} (hk : k / 512 = b) : mget? (stopGroups s b).groups k = (mget? s.groups k).map stopped := by
  simp [stopGroups, mget?_mmap, blockOf, hk]

theorem stopGroups_of_other {s : State} {b k : Nat} (hk : k / 512 ≠ b) : (stopGroups s b).grp k = s.grp k := by
  simp [stopGroups, State.grp, mget, mget?_mmap, blockOf, hk]

/-- The kernel counts a block that has ended with a code (R349). -/
def countsEnd (code : Nat) (k : Kernel) : Kernel :=
  { k with nterm := min (k.nterm + 1) (2 ^ 24 - 1), code := some (match k.code with | some c => min c code | none => code) }

theorem stopBlock_eq {s : State} {b : Nat} (code : Nat) (h : (s.blk b).term = none) :
    stopBlock s b code = ((stopGroups ((s.groupsOf b).foldl stopOne s) b).modBlk b (fun bl => { bl with term := some code, xfer := [] })).modKrn
      (s.blk b).kernel (countsEnd code) := by
  have keeps : Keeps s ((s.groupsOf b).foldl stopOne s) := Keeps.foldl keeps_stopOne _ s
  have kernel : (((stopGroups ((s.groupsOf b).foldl stopOne s) b).modBlk b (fun bl => { bl with term := some code, xfer := [] })).blk b).kernel = (s.blk b).kernel := by
    rw [← keeps.blk b]
    simp [State.modBlk, State.blk, stopGroups]
  rw [stopBlock, if_neg (by simp [h]), ← kernel]
  rfl

/-- What the stop of a block leaves and changes. -/
structure Stops (s t : State) (b code : Nat) : Prop where
  groups : ∀ w e, mget? t.groups w = some e → w / 512 = b → e.stop = .ended ∧ e.hold = none ∧ e.hold2 = none
  term : (t.blk b).term = some code
  kernel : t.krn (s.blk b).kernel = countsEnd code (s.krn (s.blk b).kernel)
  others : ∀ w, w / 512 ≠ b → ∃ acc, t.grp w = { s.grp w with acc := acc }

theorem stopBlock_stops {s : State} {b : Nat} (code : Nat) (h : (s.blk b).term = none) : Stops s (stopBlock s b code) b code := by
  have keeps : Keeps s ((s.groupsOf b).foldl stopOne s) := Keeps.foldl keeps_stopOne _ s
  rw [stopBlock_eq code h]
  refine ⟨fun w e he hw => ?_, ?_, ?_, fun w hw => ?_⟩
  · have stop : (mget? ((s.groupsOf b).foldl stopOne s).groups w).map stopped = some e := (stopGroups_of_block hw).symm.trans he
    obtain ⟨x, -, rfl⟩ := Option.map_eq_some_iff.mp stop
    exact ⟨rfl, rfl, rfl⟩
  · simp [State.modKrn, State.modBlk, State.blk]
  · rw [← keeps.krn]
    simp [State.modKrn, State.modBlk, State.krn, stopGroups]
  · obtain ⟨acc, e, -⟩ := keeps.grp w
    exact ⟨acc, (stopGroups_of_other hw).trans e⟩

/-- The end of a group's block, its record written or not. -/
theorem terminate_stops {s : State} {g : Nat} (f : FaultInfo) (h : (s.blk (g / 512)).term = none) : Stops s (terminate s g f) (g / 512) f.code := by
  have keeps := keeps_logPut s (s.grp g).ctx (s.coreOf g) (groupRec s g f false)
  obtain ⟨groups, term, kernel, others⟩ := stopBlock_stops f.code (s := (logPut s (s.grp g).ctx (s.coreOf g) (groupRec s g f false)).1)
    (b := g / 512) (by rw [keeps.blk]; exact h)
  refine ⟨groups, term, ?_, fun w hw => ?_⟩
  · rw [keeps.blk, keeps.krn] at kernel
    exact kernel
  · obtain ⟨acc, ha⟩ := others w hw
    obtain ⟨acc', ha', -⟩ := keeps.grp w
    exact ⟨acc, ha.trans (by rw [ha'])⟩

theorem sameWork_refl (x : Group) : Claims.SameWork x x := ⟨rfl, rfl, rfl, rfl, rfl, rfl, rfl, rfl, rfl, rfl, rfl, rfl, rfl, rfl, rfl⟩

/-- Settles O50: by where the fault goes; the record's writes keep every group but its accesses. -/
theorem preciseFaultsSuspendEnterTheHandlerOrEndTheBlock : Obligations.PreciseFaultsSuspendEnterTheHandlerOrEndTheBlock := by
  intro s g f hg x page k
  have hpage : replayableKind s g f = true ↔ page := replayableKind_iff s g f
  refine ⟨fun hp t n ht => ?_, fun hp t ht => ?_, fun hp h hk hi => ?_, fun hp hk hterm => ?_⟩
  · rw [deliver_of_written (hpage.mpr hp) ht, State.modGrp_grp_same]
    exact ⟨rfl, rfl, sameWork_refl (t.grp g)⟩
  · rw [deliver_of_full (hpage.mpr hp) ht, State.modGrp_grp_same]
    exact ⟨logTry_of_full ht, rfl, rfl, sameWork_refl (s.grp g)⟩
  · have keeps := keeps_logPut s x.ctx (s.coreOf g) (groupRec s g f false)
    obtain ⟨acc, ha, -⟩ := keeps.grp g
    intro y r
    have hy : y = entersHandler s.clock h f (logPut s x.ctx (s.coreOf g) (groupRec s g f false)).2 { x with acc := acc } := by
      rw [← ha]
      exact (congrArg (State.grp · g) ((deliver_of_hard (mt hpage.mp hp)).trans (deliverHard_of_handler hk hi))).trans (State.modGrp_grp_same ..)
    rw [hy]
    refine ⟨rfl, rfl, rfl, rfl, rfl, rfl, rfl, ?_, fun hc => ?_, sameWork_refl x⟩
    · exact entersHandler_trap s.clock h f _ _
    · rw [← logPut_snd]
      exact fstat_of_handler hc _
  · have stops := terminate_stops f hterm
    rw [← deliverHard_of_end hk, ← deliver_of_hard (mt hpage.mp hp)] at stops
    refine ⟨stops.groups, stops.term, fun m hm hcode hn => ?_, fun w hw => ?_⟩
    · have hkrn : s.krn (s.blk (g / 512)).kernel = m := by simp [State.krn, mget, hm]
      rw [stops.kernel, hkrn, countsEnd, hcode]
      exact ⟨rfl, by simp; omega⟩
    · obtain ⟨acc, e⟩ := stops.others w hw
      rw [e]
      exact ⟨rfl, rfl, sameWork_refl (s.grp w)⟩

end Sys2Proof.Machine
end

section
/-!
PROOFS. PHADV where the table of groups is not in the order of its keys (R236, R237).
-/
namespace Sys2Proof.Machine

/-- Two live groups of one cluster rank, listed with the greater key first: a write to the current group, which has the smaller key, adds an entry
in front and leaves the old one, so that three are counted. One arrival has been counted. -/
def phadvUnsorted : State :=
  { cur := 3, groups := [(5, { stop := .running }), (3, { stop := .running })], blocks := [(0, { cluster := some 0, cores := [0] })],
    clusters := [(0, { blocks := [0], cores := [0], parr := [(0, 1)] })] }

/-- The phase count of rank 0 once the arrival of group 3 has been polled. -/
def phaseAfterPoll : Out → Option W32
  | .next t => ((pollPhArrive t 3 0).cluOf 3).map (fun x => mget x.phn 0 0)
  | _ => none

/-- The arrival does not advance the rank: two have arrived, and three are counted as live. -/
theorem phadvUnsorted_stays : phaseAfterPoll (exec (.phadv ⟨0, 0, 0, 0⟩ ⟨0, 0, 0, 0, 0, 0, 0⟩) phadvUnsorted) = some 0 := by decide +kernel

/-- A rank of a cluster of one core has no neighbours. -/
theorem not_nextTo_of_single {k : Cluster} {r : Nat} (hl : k.cores.length = 1) (hw : k.w = 1) : ¬ Claims.nextTo k 0 r := by
  rintro ⟨hr, h⟩
  rw [hl] at hr
  rw [hw] at h
  omega

/-- Refutes O30: in `phadvUnsorted` two live groups are counted when PHADV is executed, of which one has arrived, but three when the second arrival
is polled, so that the rank stays where the statement has it advance. -/
theorem not_phaseCountersHoldAndRelease : ¬ Obligations.PhaseCountersHoldAndRelease := by
  intro h
  obtain ⟨-, -, cores⟩ := (h phadvUnsorted ⟨0, 0, 0, 0⟩ ⟨0, 0, 0, 0, 0, 0, 0⟩).2 (phadvUnsorted.clu 0) rfl rfl rfl
  obtain ⟨arrives, -⟩ := cores (by decide) rfl (by decide)
  obtain ⟨t, ht, -, x, hx, hp⟩ := arrives rfl rfl (fun r hr => absurd hr (not_nextTo_of_single rfl rfl))
  have stays := phadvUnsorted_stays
  rw [ht] at stays
  have zero : mget x.phn 0 0 = 0 := Option.some.inj ((congrArg (Option.map fun y : Cluster => mget y.phn 0 0) hx).symm.trans stays)
  have one : mget x.phn 0 0 = 1 := hp
  exact absurd (zero.symm.trans one) (by decide)

end Sys2Proof.Machine
end

section
/-!
PROOFS. A release store while an earlier load of the same group waits for its data (R160, R165, R172).
-/
namespace Sys2Proof.Machine

/-- A request for the line at 0x1100, performed at its home, whose data is on its way. -/
def fillOnItsWay (noInstall : Bool) : Req :=
  { line := 0x11, key := 0, pol := 0, lanes := [], n := 4, off := 0, piece := 0, stage := .performed, data := 0, bad := 0, noInstall := noInstall,
    asked := false }

/-- A load of one request. -/
def loadOf (r : Req) : Access :=
  { id := 1, setk := 0, op := .load, space := .generic, size := 4, dst := 4, hint := 0, scope := 0, ord := 0, swz := 0, reqs := [r] }

/-- One lane of the group, with address 0x1000 in v0.d, stores by release. A byte that the group stored to the line at 0x1100 is in its write-combining
buffer, and its load of that line is outstanding. -/
def releaseState : State :=
  { cur := 512, nextId := 7, packages := 1,
    groups := [(512, { block := 1, stop := .running, nv := 8, am := 1, v := [(0, 0x1000)], acc := [loadOf (fillOnItsWay false)] })],
    blocks := [(1, { stage := .running, cores := [0] })],
    ctxs := [(0, { grants := [(0, 0, 2 ^ 40)] })],
    cores := [(0, { tlb := [⟨0, 2 ^ 40, 0, true, true, 0, 0, 0⟩] })],
    parts := [(0, { wc := [⟨512, 0x11, 0x1100, [(0, 1)], 0, 0, 0, 0⟩] })] }

def releaseStore : Instr := .stl ⟨0, 0, 0, 0⟩ { gd := 7, data := 2, addr := 0, scope := 0, sz := 2, ord := 2, off := 0 }

/-- Whether the fills of the current group's accesses will not install, once an instruction has been executed. -/
def fillMarks : Out → List (List Bool)
  | .next t => t.me.acc.map (fun (a : Access) => a.reqs.map (fun (r : Req) => r.noInstall))
  | _ => []
/-- The drain of the buffer marks the load's fill, which keeps older bytes, and then the store begins. -/
theorem releaseStore_marks : fillMarks (exec releaseStore releaseState) = [[true], [false]] := by decide +kernel

/-- The lane that stores passes its checks. -/
theorem releaseStore_passes {m : Claims.LaneMem} (hm : Claims.laneMemOf releaseStore = some m) :
    ∀ l ∈ Claims.crossLanes releaseState.me m.gd, ∃ e pa, m.Passes releaseState l e pa ∧ pa % 256 = m.va releaseState.me l % 256 := by
  obtain rfl := Option.some.inj hm
  intro l hl
  have lane : l = 0 := List.mem_singleton.mp ((show Claims.crossLanes releaseState.me 7 = [0] by decide) ▸ hl)
  subst lane
  exact ⟨⟨0, 2 ^ 40, 0, true, true, 0, 0, 0⟩, 0x1000, ⟨by decide +kernel, by decide +kernel, fun _ => by decide +kernel⟩, by decide +kernel⟩

/-- Refutes O21: in `releaseState` the store's release drains the group's buffer into the line that its earlier load is to fill, which marks that
fill (R165): the list of accesses is not the earlier one with the store's at its end. -/
theorem not_laneAccessesBeginWithTheirRequests : ¬ Obligations.LaneAccessesBeginWithTheirRequests := by
  rintro ⟨h, -⟩
  obtain ⟨u, a, hu, hme, -⟩ := h releaseState releaseStore _ rfl ⟨by decide, by decide, by decide, by decide, by decide⟩ (by decide)
    (releaseStore_passes rfl) (by decide) (fun _ => rfl)
  have marks := releaseStore_marks
  rw [hu, fillMarks, hme] at marks
  have earlier : [false] = [true] := (List.cons.inj marks).1
  exact absurd earlier (by decide)

end Sys2Proof.Machine
end

section
/-!
PROOFS. Accesses of lanes that begin (R163, R306 to R312): the lanes that take part, their checked addresses, the requests they are joined to.
-/
namespace Sys2Proof.Machine

/-! ## The lanes that take part (R16, R61) -/

theorem part'_eq_crossLanes (g : Group) (gd : BitVec 4) : g.part' gd = Claims.crossLanes g gd := by
  rw [Group.part', Claims.crossLanes, lanesOf, List.filter_filter]
  refine List.filter_congr fun l hl => ?_
  have h32 : l < 32 := List.mem_range.mp hl
  rw [Claims.active, Group.pGuard, guard_negates, Group.run, laneIn, BitVec.getLsbD_and, BitVec.getLsbD_not, Bool.and_comm]
  simp [h32]

theorem pGuardBad_of_crosses {g : Group} {gd : BitVec 4} {dest reads : List (Nat × Nat)} {preds gregs : List Nat}
    (h : Claims.Crosses g gd dest reads preds gregs) : pGuardBad g gd = false := by
  simp only [pGuardBad, List.any_eq_false, List.contains_iff_mem, mem_lanesOf]
  exact fun l hl => h.guard l hl.1 hl.2

theorem vRange_of_crosses {g : Group} {gd : BitVec 4} {dest : List (Nat × Nat)} {preds gregs : List Nat}
    (h : Claims.Crosses g gd dest [] preds gregs) : vRange g dest = true := by
  simpa [vRange] using h.range

theorem srcBad_of_clean {g : Group} {ls : List Nat} {regs : List (Nat × Nat)} (h : ∀ l ∈ ls, ∀ r ∈ regs, ∀ j, j < r.2 → 32 * (r.1 + j) + l ∉ g.badV) :
    srcBad g ls regs = false := by
  simp only [srcBad, List.any_eq_false, List.any_eq_true, Group.vBad, List.contains_iff_mem, List.mem_range]
  rintro l hl ⟨r, hr, j, hj, hb⟩
  exact h l hl r hr j hj hb

/-! ## Lane addresses that pass (R156, R172, R306) -/

/-- One lane of `genericLanes`. -/
def checkLane (s : State) (k : Kind) (n : Nat) (atomic : Bool) (acc : List LaneVa × List Bad) (x : Nat × Nat) : List LaneVa × List Bad :=
  if x.2 % n ≠ 0 then (acc.1, acc.2 ++ [(fcMisaligned, x.2, x.1, 0)])
  else match translate s s.me.ctx (s.coreOf s.cur) k x.2 with
    | .error f => (acc.1, acc.2 ++ [(f.code, x.2, x.1, f.flags)])
    | .ok (e, pa) =>
      if atomic && n > atomSize pa then (acc.1, acc.2 ++ [(fcMisaligned, x.2, x.1, 0)])
      else (acc.1 ++ [⟨x.1, x.2, pa, e⟩], acc.2)

theorem genericLanes_eq (s : State) (k : Kind) (n : Nat) (atomic : Bool) (vas : List (Nat × Nat)) :
    genericLanes s k n atomic vas = vas.foldl (checkLane s k n atomic) ([], []) := rfl

/-- An address passes for a lane. -/
structure LanePasses (s : State) (k : Kind) (n : Nat) (atomic : Bool) (y : LaneVa) : Prop where
  aligned : y.va % n = 0
  page : translate s s.me.ctx (s.coreOf s.cur) k y.va = .ok (y.page, y.pa)
  fits : atomic = true → n ≤ atomSize y.pa

theorem checkLane_of_passes {s : State} {k : Kind} {n : Nat} {atomic : Bool} {y : LaneVa} (h : LanePasses s k n atomic y)
    (acc : List LaneVa × List Bad) : checkLane s k n atomic acc (y.lane, y.va) = (acc.1 ++ [y], acc.2) := by
  have fits : ¬ (atomic && decide (n > atomSize y.pa)) = true := by
    simpa using h.fits
  rw [checkLane, if_neg (by simpa using h.aligned), h.page]
  exact if_neg fits

/-- Lanes that all pass are all there. -/
theorem genericLanes_of_passes {s : State} {k : Kind} {n : Nat} {atomic : Bool} {ok : List LaneVa} (h : ∀ y ∈ ok, LanePasses s k n atomic y) :
    genericLanes s k n atomic (ok.map (fun y => (y.lane, y.va))) = (ok, []) := by
  have fold : ∀ (ok : List LaneVa), (∀ y ∈ ok, LanePasses s k n atomic y) → ∀ acc : List LaneVa × List Bad,
      (ok.map (fun y => (y.lane, y.va))).foldl (checkLane s k n atomic) acc = (acc.1 ++ ok, acc.2) := by
    intro ok
    induction ok with
    | nil => simp
    | cons y ok ih =>
      intro h acc
      obtain ⟨hy, hok⟩ := List.forall_mem_cons.mp h
      rw [List.map_cons, List.foldl_cons, checkLane_of_passes hy, ih hok, List.append_assoc]
      rfl
  rw [genericLanes_eq, fold ok h]
  rfl

/-- Where each lane has a passing address, the addresses are those of lanes that pass. -/
theorem exists_lanes (va : Nat → Nat) (P : LaneVa → Prop) (ls : List Nat) (h : ∀ l ∈ ls, ∃ e pa, P ⟨l, va l, pa, e⟩) :
    ∃ ok : List LaneVa, ok.map (fun y => (y.lane, y.va)) = ls.map (fun l => (l, va l)) ∧ ∀ y ∈ ok, P y := by
  induction ls with
  | nil => exact ⟨[], rfl, by simp⟩
  | cons l ls ih =>
    obtain ⟨⟨e, pa, hl⟩, hls⟩ := List.forall_mem_cons.mp h
    obtain ⟨ok, hmap, hok⟩ := ih hls
    exact ⟨⟨l, va l, pa, e⟩ :: ok, by rw [List.map_cons, hmap]; rfl, List.forall_mem_cons.mpr ⟨hl, hok⟩⟩

/-! ## Requests (R163, R170) -/

/-- What two requests agree on when they are the same piece of a line. -/
def reqKey (r : Req) : Nat × Nat × Nat × Nat := (r.line, r.key, r.pol, r.piece)

theorem sameReq_iff (r q : Req) : sameReq r q = true ↔ reqKey r = reqKey q := by
  simp [sameReq, reqKey, and_assoc]

/-- The requests that single ones are joined to: all different, each with the lanes of single ones of its piece, and every lane among them. -/
structure Joined (qs rs : List Req) : Prop where
  apart : rs.Pairwise (fun r q => reqKey r ≠ reqKey q)
  stage : ∀ r ∈ rs, ∃ q ∈ qs, r.stage = q.stage
  sound : ∀ r ∈ rs, ∀ x ∈ r.lanes, ∃ q ∈ qs, x ∈ q.lanes ∧ reqKey q = reqKey r
  complete : ∀ q ∈ qs, ∀ x ∈ q.lanes, ∃ r ∈ rs, x ∈ r.lanes

theorem joined_foldr (qs : List Req) : Joined qs (qs.foldr joinReq []) := by
  induction qs with
  | nil => exact ⟨.nil, by simp, by simp, by simp⟩
  | cons q qs ih =>
    rw [List.foldr_cons, joinReq]
    generalize qs.foldr joinReq [] = rs at ih
    split
    · next r hr =>
      have same : reqKey q = reqKey r := (sameReq_iff q r).mp (List.find?_some hr)
      have mem : r ∈ rs := List.mem_of_find?_eq_some hr
      have others {y : Req} : y ∈ rs.filter (fun x => !sameReq q x) ↔ y ∈ rs ∧ reqKey q ≠ reqKey y := by
        simp [List.mem_filter, ← sameReq_iff]
      refine ⟨?_, ?_, ?_, ?_⟩
      · refine List.pairwise_cons.mpr ⟨fun y hy => same ▸ (others.mp hy).2, ih.apart.filter _⟩
      · refine List.forall_mem_cons.mpr ⟨?_, fun y hy => ?_⟩
        · obtain ⟨p, hp, e⟩ := ih.stage r mem
          exact ⟨p, List.mem_cons_of_mem q hp, e⟩
        · obtain ⟨p, hp, e⟩ := ih.stage y (others.mp hy).1
          exact ⟨p, List.mem_cons_of_mem q hp, e⟩
      · refine List.forall_mem_cons.mpr ⟨fun x hx => ?_, fun y hy x hx => ?_⟩
        · rcases List.mem_append.mp hx with hx | hx
          · exact ⟨q, List.mem_cons_self .., hx, same⟩
          · obtain ⟨p, hp, e⟩ := ih.sound r mem x hx
            exact ⟨p, List.mem_cons_of_mem q hp, e⟩
        · obtain ⟨p, hp, e⟩ := ih.sound y (others.mp hy).1 x hx
          exact ⟨p, List.mem_cons_of_mem q hp, e⟩
      · refine List.forall_mem_cons.mpr ⟨fun x hx => ⟨_, List.mem_cons_self .., List.mem_append_left _ hx⟩, fun p hp x hx => ?_⟩
        obtain ⟨y, hy, hxy⟩ := ih.complete p hp x hx
        by_cases hk : reqKey q = reqKey y
        · have first : y = r := List.inj_on_of_nodup_map (List.pairwise_map.mpr ih.apart) hy mem (hk.symm.trans same)
          exact ⟨_, List.mem_cons_self .., List.mem_append_right _ (first ▸ hxy)⟩
        · exact ⟨y, List.mem_cons_of_mem _ (others.mpr ⟨hy, hk⟩), hxy⟩
    · next hn =>
      have fresh : ∀ y ∈ rs, reqKey q ≠ reqKey y := fun y hy e => List.find?_eq_none.mp hn y hy ((sameReq_iff q y).mpr e)
      refine ⟨List.pairwise_cons.mpr ⟨fresh, ih.apart⟩, ?_, ?_, ?_⟩
      · refine List.forall_mem_cons.mpr ⟨⟨q, List.mem_cons_self .., rfl⟩, fun y hy => ?_⟩
        obtain ⟨p, hp, e⟩ := ih.stage y hy
        exact ⟨p, List.mem_cons_of_mem q hp, e⟩
      · refine List.forall_mem_cons.mpr ⟨fun x hx => ⟨q, List.mem_cons_self .., hx, rfl⟩, fun y hy x hx => ?_⟩
        obtain ⟨p, hp, e⟩ := ih.sound y hy x hx
        exact ⟨p, List.mem_cons_of_mem q hp, e⟩
      · refine List.forall_mem_cons.mpr ⟨fun x hx => ⟨q, List.mem_cons_self .., hx⟩, fun p hp x hx => ?_⟩
        obtain ⟨y, hy, hxy⟩ := ih.complete p hp x hx
        exact ⟨y, List.mem_cons_of_mem _ hy, hxy⟩

/-! ## An access that begins -/

/-- A translation kept changes nothing but TLBs. -/
theorem tlbFill_eq (s : State) (cx core va : Nat) : ∃ cs, tlbFill s cx core va = { s with cores := cs } := by
  unfold tlbFill tlbFill2
  split
  · exact ⟨s.cores, rfl⟩
  · dsimp only
    split
    · exact ⟨_, rfl⟩
    · split
      · exact ⟨_, rfl⟩
      · exact ⟨_, rfl⟩

theorem tlbFills_eq (s : State) (vas : List Nat) : ∃ cs, vas.foldl (fun s va => tlbFill s s.me.ctx (s.coreOf s.cur) va) s = { s with cores := cs } := by
  induction vas generalizing s with
  | nil => exact ⟨s.cores, rfl⟩
  | cons va vas ih =>
    obtain ⟨cs, h⟩ := tlbFill_eq s s.me.ctx (s.coreOf s.cur) va
    obtain ⟨cs', h'⟩ := ih { s with cores := cs }
    exact ⟨cs', by rw [List.foldl_cons, h, h']⟩

/-- An access that begins: the group issues with it, and nothing else of memory, blocks and groups changes. -/
theorem beginAccess_spec (c : Ctl) (s : State) (a : Access) (vas : List Nat) :
    let u := beginAccess c s a vas
    u.me = { (s.issueHeld c).me with acc := s.me.acc ++ [a] } ∧ u.mem = s.mem ∧ u.l2 = s.l2 ∧ u.nextId = s.nextId + 1 ∧ u.blocks = s.blocks := by
  obtain ⟨cs, h⟩ := tlbFills_eq s vas
  obtain ⟨k, issued⟩ := s.issueHeld_me c
  have acc : (s.issueHeld c).me.acc = s.me.acc := by rw [issued]
  intro u
  have hu : u = _ := beginAccess.eq_1 c s a vas
  rw [h] at hu
  rw [hu, ← acc]
  refine ⟨?_, rfl, rfl, rfl, rfl⟩
  exact State.modMe_me ({ s with cores := cs }.issueHeld c) (fun g => { g with acc := g.acc ++ [a] })

/-! ## The operands of a lane (R308) -/

theorem toBytes_four (x : W32) : toBytes 4 x.toNat = (List.range 4).map (fun i => x.extractLsb' (8 * i) 8) := by
  have byte (k : Nat) : BitVec.ofNat 8 (x.toNat / 2 ^ k) = x.extractLsb' k 8 := by
    refine BitVec.eq_of_toNat_eq ?_
    rw [BitVec.toNat_ofNat, BitVec.extractLsb'_toNat, Nat.shiftRight_eq_div_pow]
  simp only [toBytes, Nat.div_div_eq_div_mul, List.range_succ, List.range_zero, List.nil_append, List.map_cons, List.map_nil,
    List.cons_append, ← byte]
  simp

/-- The bytes of registers, one by one. -/
theorem regBytes_eq (g : Group) (r n l : Nat) : regBytes g r n l = Claims.registerBytes g r (4 * n) l := by
  induction n with
  | zero => rfl
  | succ n ih =>
    rw [regBytes, List.range_succ, List.flatMap_append, ← regBytes, ih, Claims.registerBytes, Claims.registerBytes, Nat.mul_succ, List.range_add,
      List.map_append, List.map_map, List.flatMap_singleton, toBytes_four]
    refine congrArg (_ ++ ·) (List.map_congr_left fun i hi => ?_)
    have hi : i < 4 := List.mem_range.mp hi
    rw [Function.comp_apply, show (4 * n + i) / 4 = n by omega, show (4 * n + i) % 4 = i by omega]

/-! ## Atomics (R306, R308, R310) -/

theorem xSize_eq (f : FmtX) : xSize f = Claims.wideBytes f := rfl
theorem xRegs_eq (f : FmtX) : xRegs f = Claims.wideBytes f / 4 := by
  unfold xRegs Claims.wideBytes
  split <;> rfl

theorem two_words_eq (f : FmtX) : 2 * (Claims.wideBytes f / 4) = Claims.wideBytes f / 2 := by
  unfold Claims.wideBytes
  split <;> rfl

theorem wideBytes_pos (f : FmtX) : 0 < Claims.wideBytes f := by
  unfold Claims.wideBytes
  split <;> decide

/-- An atomic's kind is what its word gives. -/
structure KindOf (m : Claims.AtomOp) (k : AtomKind) : Prop where
  sp : k.sp = m.sp
  op : MemOp.atom k.float k.code k.ret = m.op
  ret : k.ret = m.returns
  nb : k.nb = m.nb
  simple : k.simple = m.simple

theorem exec_of_atomOp {i : Instr} {m : Claims.AtomOp} (h : Claims.atomOpOf i = some m) (s : State) :
    ∃ k, exec i s = atomic m.c m.f k s ∧ KindOf m k := by
  have high (x : BitVec 4) : decide (x.toNat ≥ 8) = x.getLsbD 3 := (guard_negates x).symm
  have zero (x : BitVec 4) : (x.toNat == 0) = decide (x = 0) := by revert x; decide
  have odd (x : BitVec 8) : (x.toNat % 2 == 1) = x.getLsbD 0 := by revert x; decide
  unfold Claims.atomOpOf at h
  split at h
  case h_6 => cases h
  all_goals
    obtain rfl := Option.some.inj h
    refine ⟨_, rfl, ?_⟩
    constructor <;> simp only [high, zero, odd, xRegs_eq, two_words_eq]

/-- One request for a lane of an atomic on generic memory. -/
def wholeReq (n : Nat) (data : Nat → List Byte) (y : LaneVa) : Req :=
  newReq (lineOf y.pa) y.page.key y.page.pol n 0 0 [{ lane := y.lane, va := y.va, pa := y.pa, data := data y.lane, bad := false }]

theorem laneReqs_whole {n : Nat} (hn : 0 < n) (data : Nat → List Byte) (y : LaneVa) : laneReqs false n data y = [wholeReq n data y] := by
  simp [laneReqs, wholeReq, Nat.div_self hn]

theorem joined_lineReqs {n : Nat} (hn : 0 < n) (data : Nat → List Byte) (ok : List LaneVa) : Joined (ok.map (wholeReq n data)) (lineReqs false n data ok) := by
  have h : ok.flatMap (laneReqs false n data) = ok.map (wholeReq n data) := by
    rw [show laneReqs false n data = fun y => [wholeReq n data y] from funext (laneReqs_whole hn data), List.map_eq_flatMap]
  rw [lineReqs, h]
  exact joined_foldr _

/-- A generic lane's check is the one of every atomic. -/
theorem atomChecked_of_passes {s : State} {n : Nat} {simple : Bool} {ok : List LaneVa}
    (h : ∀ y ∈ ok, LanePasses s .write n true y ∧ (isHbm y.pa = true ∨ y.page.pol = 0 ∨ simple = true)) :
    atomChecked s n false simple (ok.map (fun y => (y.lane, y.va))) = (ok, []) := by
  have all : ∀ y ∈ ok, accepts y.page y.pa false simple = true := fun y hy => by
    rcases (h y hy).2 with e | e | e <;> simp [accepts, e]
  have none : ok.filter (fun y => !accepts y.page y.pa false simple) = [] := List.filter_eq_nil_iff.mpr fun y hy => by simp [all y hy]
  rw [atomChecked, genericLanes_of_passes fun y hy => (h y hy).1]
  dsimp only
  rw [List.filter_eq_self.mpr all, none]
  rfl

theorem laneVas_zero (g : Group) (addr : Nat) (ls : List Nat) : laneVas g addr 0 ls = ls.map (fun l => (l, (g.rvd addr l).toNat)) := by
  refine List.map_congr_left fun l _ => Prod.ext rfl ?_
  have := (g.rvd addr l).isLt
  simp only [wrap]
  omega

/-- What the operands of an atomic pass before its addresses are looked at (R11, R153). -/
structure OperandsPass (s : State) (m : Claims.AtomOp) : Prop where
  crosses : Claims.Crosses s.me m.f.gd m.names [] [] []
  clean : ∀ l ∈ Claims.crossLanes s.me m.f.gd, ∀ r ∈ m.reads, ∀ j, j < r.2 → 32 * (r.1 + j) + l ∉ s.me.badV
  some : Claims.crossLanes s.me m.f.gd ≠ []

/-- The access that an atomic begins. -/
def atomAccess (s : State) (m : Claims.AtomOp) (reqs : List Req) : Access :=
  { id := s.nextId, setk := m.c.setk.toNat, op := m.op, space := if m.sp then .scratch else .generic, size := Claims.wideBytes m.f, dst := m.f.d.toNat,
    hint := if m.sp then 0 else 2, scope := m.f.scope.toNat, ord := 0, swz := 0, reqs := reqs }

/-- The operand bytes of a lane. -/
def operand (s : State) (m : Claims.AtomOp) (l : Nat) : List Byte := Claims.registerBytes s.me m.f.b.toNat (4 * m.nb) l

/-- The registers of an atomic are in range and clean. -/
theorem preFaults_of_pass {s : State} {m : Claims.AtomOp} {k : AtomKind} (h : OperandsPass s m) (hk : KindOf m k) :
    faultIf (!vRange s.me ([(m.f.addr.toNat, if k.sp then 1 else 2), (m.f.b.toNat, k.nb)] ++ (if k.ret then [(m.f.d.toNat, xRegs m.f)] else []))) fcIllegal ++
      faultIf (pGuardBad s.me m.f.gd || srcBad s.me (Claims.crossLanes s.me m.f.gd) [(m.f.addr.toNat, if k.sp then 1 else 2), (m.f.b.toNat, k.nb)]) fcUncorrectable =
      [] := by
  rw [hk.sp, hk.nb, hk.ret, xRegs_eq]
  change faultIf (!vRange s.me m.names) fcIllegal ++ faultIf (pGuardBad s.me m.f.gd || srcBad s.me (Claims.crossLanes s.me m.f.gd) m.reads) fcUncorrectable = []
  rw [vRange_of_crosses h.crosses, pGuardBad_of_crosses h.crosses, srcBad_of_clean h.clean]
  rfl

theorem atomic_generic {s : State} {m : Claims.AtomOp} {k : AtomKind} (h : OperandsPass s m) (hk : KindOf m k) (hsp : m.sp = false)
    (hd : s.isDet s.cur = false) {ok : List LaneVa}
    (hok : ok.map (fun y => (y.lane, y.va)) = (Claims.crossLanes s.me m.f.gd).map (fun l => (l, (s.me.rvd m.f.addr.toNat l).toNat)))
    (hp : ∀ y ∈ ok, LanePasses s .write (Claims.wideBytes m.f) true y ∧ (isHbm y.pa = true ∨ y.page.pol = 0 ∨ m.simple = true)) :
    atomic m.c m.f k s = .next (beginAccess m.c s (atomAccess s m (lineReqs false (Claims.wideBytes m.f) (operand s m) ok))
      ((ok.map (fun y => (y.lane, y.va))).map (·.2))) := by
  have some : (Claims.crossLanes s.me m.f.gd).isEmpty = false := by simpa using h.some
  have data : (fun l => regBytes s.me m.f.b.toNat k.nb l) = operand s m := funext fun l => by rw [regBytes_eq, hk.nb]; rfl
  have full : detFull s (Claims.crossLanes s.me m.f.gd).length (Claims.wideBytes m.f) = false := by simp [detFull, hd]
  unfold atomic
  dsimp only
  rw [if_neg (by simp [hk.sp, hsp]), laneVas_zero, part'_eq_crossLanes, ← hok, xSize_eq, hk.simple, atomChecked_of_passes hp]
  dsimp only
  rw [preFaults_of_pass h hk, full, orFault_ok (fs := [] ++ faultList (laneFault []) ++ faultIf false fcQuantum) rfl, some, hd, data, hk.op, if_neg Bool.false_ne_true, if_neg Bool.false_ne_true, atomAccess, hsp]
  rfl

/-- The request for a lane of an atomic on its group's scratchpad. -/
def placeReq (n : Nat) (data : Nat → List Byte) (x : Nat × Nat × Nat) : Req :=
  newReq x.2.1 0 0 n 0 0 [{ lane := x.1, va := x.2.2, pa := x.2.2, data := data x.1, bad := false }]

theorem joined_spReqs (n : Nat) (data : Nat → List Byte) (ok : List (Nat × Nat × Nat)) : Joined (ok.map (placeReq n data)) (spReqs false n data ok) :=
  joined_foldr _

/-- One lane of `spLanes` on the group's own scratchpad, by its address. -/
def checkPlace (s : State) (n : Nat) (acc : List (Nat × Nat × Nat) × List Bad) (l : Nat) (v : Int) : List (Nat × Nat × Nat) × List Bad :=
  if v % (n : Int) ≠ 0 then (acc.1, acc.2 ++ [(fcMisaligned, wrap 64 v, l, 0)])
  else if v < 0 || !spInside (Claims.myScratch s) v.toNat n then (acc.1, acc.2 ++ [(fcScratch, wrap 64 v, l, 0)])
  else (acc.1 ++ [(l, 16 * (s.cur / 512) + s.me.rank, v.toNat)], acc.2)

theorem spLanes_eq (s : State) (addr n : Nat) (ls : List Nat) :
    spLanes s addr 0 n false ls = ls.foldl (fun acc l => checkPlace s n acc l (((s.me.rv addr l).toNat : Int) + 0)) ([], []) := rfl

theorem checkPlace_of_passes {s : State} {n v : Nat} (ha : v % n = 0) (hi : v + n ≤ (Claims.myScratch s).sb) (acc : List (Nat × Nat × Nat) × List Bad)
    (l : Nat) : checkPlace s n acc l v = (acc.1 ++ [(l, 16 * (s.cur / 512) + s.me.rank, v)], acc.2) := by
  have aligned : (v : Int) % (n : Int) = 0 := by exact_mod_cast ha
  have inside : spInside (Claims.myScratch s) v n = true := decide_eq_true hi
  simp [checkPlace, aligned, inside]

/-- Lanes whose scratchpad addresses are aligned and inside are all there. -/
theorem spLanes_of_passes {s : State} {addr n : Nat} {ls : List Nat}
    (h : ∀ l ∈ ls, (s.me.rv addr l).toNat % n = 0 ∧ (s.me.rv addr l).toNat + n ≤ (Claims.myScratch s).sb) :
    spLanes s addr 0 n false ls = (ls.map (fun l => (l, 16 * (s.cur / 512) + s.me.rank, (s.me.rv addr l).toNat)), []) := by
  have fold : ∀ (ls : List Nat), (∀ l ∈ ls, (s.me.rv addr l).toNat % n = 0 ∧ (s.me.rv addr l).toNat + n ≤ (Claims.myScratch s).sb) → ∀ acc,
      ls.foldl (fun acc l => checkPlace s n acc l (((s.me.rv addr l).toNat : Int) + 0)) acc =
        (acc.1 ++ ls.map (fun l => (l, 16 * (s.cur / 512) + s.me.rank, (s.me.rv addr l).toNat)), acc.2) := by
    intro ls
    induction ls with
    | nil => simp
    | cons l ls ih =>
      intro h acc
      obtain ⟨⟨ha, hi⟩, hls⟩ := List.forall_mem_cons.mp h
      rw [List.foldl_cons, Int.add_zero, checkPlace_of_passes ha hi, ih hls, List.append_assoc]
      rfl
  rw [spLanes_eq, fold ls h]
  rfl

/-- The places of the lanes of an atomic on its group's scratchpad. -/
def places (s : State) (m : Claims.AtomOp) : List (Nat × Nat × Nat) :=
  (Claims.crossLanes s.me m.f.gd).map (fun l => (l, 16 * (s.cur / 512) + s.me.rank, (s.me.rv m.f.addr.toNat l).toNat))

theorem atomic_scratch {s : State} {m : Claims.AtomOp} {k : AtomKind} (h : OperandsPass s m) (hk : KindOf m k) (hsp : m.sp = true)
    (hp : ∀ l ∈ Claims.crossLanes s.me m.f.gd, (s.me.rv m.f.addr.toNat l).toNat % Claims.wideBytes m.f = 0 ∧
      (s.me.rv m.f.addr.toNat l).toNat + Claims.wideBytes m.f ≤ (Claims.myScratch s).sb) :
    atomic m.c m.f k s = .next (beginAccess m.c s (atomAccess s m (spReqs false (Claims.wideBytes m.f) (operand s m) (places s m))) []) := by
  have some : (Claims.crossLanes s.me m.f.gd).isEmpty = false := by simpa using h.some
  have data : (fun l => regBytes s.me m.f.b.toNat k.nb l) = operand s m := funext fun l => by rw [regBytes_eq, hk.nb]; rfl
  unfold atomic
  dsimp only
  rw [if_pos (hk.sp.trans hsp), part'_eq_crossLanes, xSize_eq, spLanes_of_passes hp]
  dsimp only
  rw [preFaults_of_pass h hk, orFault_ok (fs := [] ++ faultList (laneFault [])) rfl, some, data, hk.op, if_neg Bool.false_ne_true, atomAccess, hsp]
  rfl

/-- The address of a lane that passes is one that every atomic's check passes. -/
theorem lanePasses_of_passes {s : State} {m : Claims.AtomOp} {y : LaneVa} (hva : y.va = (s.me.rvd m.f.addr.toNat y.lane).toNat)
    (h : m.Passes s y.lane y.page y.pa) :
    LanePasses s .write (Claims.wideBytes m.f) true y ∧ (isHbm y.pa = true ∨ y.page.pol = 0 ∨ m.simple = true) := by
  obtain ⟨aligned, page, accepted, fits⟩ := h
  exact ⟨⟨hva ▸ aligned, hva ▸ page, fun _ => fits⟩, accepted⟩

/-- Settles O32: the lanes pass their checks and are joined to requests, on the scratchpad or on generic memory. -/
theorem atomicsBeginWithTheirOperands : Obligations.AtomicsBeginWithTheirOperands := by
  intro s i m hi g ls n scratchOk hc hclean hls hsp hgen
  obtain ⟨k, hx, hk⟩ := exec_of_atomOp hi s
  have pass : OperandsPass s m := ⟨hc, hclean, hls⟩
  rw [hx]
  cases sp : m.sp with
  | true =>
    have joined := joined_spReqs n (operand s m) (places s m)
    obtain ⟨me, mem, l2, nextId, blocks⟩ := beginAccess_spec m.c s (atomAccess s m (spReqs false n (operand s m) (places s m))) []
    refine ⟨_, _, atomic_scratch pass hk sp (hsp sp), me, mem, l2, nextId, blocks, rfl, rfl, rfl, rfl, rfl, by rw [atomAccess, sp], rfl, fun l hl => ?_,
      fun r hr => ⟨?_, fun x hx => ?_⟩⟩
    · obtain ⟨r, hr, hx⟩ := joined.complete _ (List.mem_map_of_mem (List.mem_map_of_mem hl)) _ (List.mem_singleton.mpr rfl)
      exact ⟨r, hr, _, hx, rfl⟩
    · obtain ⟨q, hq, e⟩ := joined.stage r hr
      obtain ⟨y, -, rfl⟩ := List.mem_map.mp hq
      exact e
    · obtain ⟨q, hq, hxq, same⟩ := joined.sound r hr x hx
      obtain ⟨y, hy, rfl⟩ := List.mem_map.mp hq
      obtain ⟨l, hl, rfl⟩ := List.mem_map.mp hy
      obtain rfl := List.mem_singleton.mp hxq
      exact ⟨hl, rfl, (congrArg Prod.fst same).symm, rfl⟩
  | false =>
    obtain ⟨det, lanes⟩ := hgen sp
    obtain ⟨ok, hok, hp⟩ := exists_lanes (fun l => (g.rvd m.f.addr.toNat l).toNat) (fun y => m.Passes s y.lane y.page y.pa) ls lanes
    have at' {y : LaneVa} (hy : y ∈ ok) : y.lane ∈ ls ∧ y.va = (g.rvd m.f.addr.toNat y.lane).toNat := by
      obtain ⟨l, hl, e⟩ := List.mem_map.mp (hok ▸ List.mem_map_of_mem hy)
      obtain ⟨rfl, hva⟩ := Prod.mk.inj e
      exact ⟨hl, hva.symm⟩
    have joined := joined_lineReqs (wideBytes_pos m.f) (operand s m) ok
    obtain ⟨me, mem, l2, nextId, blocks⟩ := beginAccess_spec m.c s (atomAccess s m (lineReqs false n (operand s m) ok)) ((ok.map (fun y => (y.lane, y.va))).map (·.2))
    refine ⟨_, _, atomic_generic pass hk sp det hok (fun y hy => lanePasses_of_passes (at' hy).2 (hp y hy)), me, mem, l2, nextId, blocks, rfl, rfl, rfl,
      rfl, rfl, by rw [atomAccess, sp], rfl, fun l hl => ?_, fun r hr => ⟨?_, fun x hx => ?_⟩⟩
    · obtain ⟨y, hy, e⟩ := List.mem_map.mp (hok.symm ▸ List.mem_map_of_mem hl)
      obtain ⟨r, hr, hx⟩ := joined.complete _ (List.mem_map_of_mem hy) _ (List.mem_singleton.mpr rfl)
      exact ⟨r, hr, _, hx, congrArg Prod.fst e⟩
    · obtain ⟨q, hq, e⟩ := joined.stage r hr
      obtain ⟨y, -, rfl⟩ := List.mem_map.mp hq
      exact e
    · obtain ⟨q, hq, hxq, same⟩ := joined.sound r hr x hx
      obtain ⟨y, hy, rfl⟩ := List.mem_map.mp hq
      obtain rfl := List.mem_singleton.mp hxq
      exact ⟨(at' hy).1, rfl, congrArg (·.1) same, (at' hy).2, y.page, hp y hy, congrArg (·.2.1) same, congrArg (·.2.2.1) same⟩

end Sys2Proof.Machine
end

section
/-!
PROOFS. The frames of ACLD, ACST and ACZ (R256, R257): their fields, types and limits.
-/
namespace Sys2Proof.Machine

/-! ## Frames (R67) -/

theorem fr_frameOf {g : Group} {f : FmtA} {i : Nat} (hi : i < 16) : fr (frameOf g f.fb.toNat) i = Claims.word g f i := by
  simp [fr, frameOf, frameRegs, Claims.word, hi]

theorem zeroFrom_frameOf (g : Group) (f : FmtA) (n : Nat) : zeroFrom (frameOf g f.fb.toNat) n = true ↔ Claims.zeroAfter g f n := by
  have word_zero (i : Nat) : Claims.word g f i = 0 ↔ g.rg (f.fb.toNat + i) = 0 := by
    rw [Claims.word, ← BitVec.toNat_inj]
    rfl
  simp only [zeroFrom, frameOf, frameRegs, List.map_map, List.all_eq_true, beq_iff_eq, Claims.zeroAfter, word_zero]
  constructor
  · intro h i hn hi
    exact h _ (List.mem_drop_iff_getElem.mpr ⟨i - n, by simp; omega, by simp; congr 1; omega⟩)
  · intro h x hx
    obtain ⟨j, hj, rfl⟩ := List.mem_drop_iff_getElem.mp hx
    simp only [List.length_map, List.length_range] at hj
    simpa using h (n + j) (by omega) (by omega)

/-! ## Types (R32, R68) -/

theorem elemN_eq (t : BitVec 4) : elemN t.toNat = (Claims.shape t).2 := by revert t; decide
theorem elemW_eq (t : BitVec 4) : elemW t.toNat = (Claims.shape t).1 := by revert t; decide
theorem elemFmt_eq (t : BitVec 4) : elemFmt t.toNat = Claims.format t := by revert t; decide

/-- Of the types of accumulator frames f64 alone takes two registers. -/
theorem regs_of_float {t : BitVec 4} (h : 8 ≤ t.toNat) : Claims.regs t = if t.toNat = 9 then 2 else 1 := by
  revert t
  decide

theorem shape_of_f64 {t : BitVec 4} (h : t.toNat = 9) : Claims.shape t = (64, 1) := by
  revert t
  decide

/-- The elements of one register fill it. -/
theorem shape_of_float {t : BitVec 4} (h : 8 ≤ t.toNat) (h9 : t.toNat ≠ 9) : (Claims.shape t).1 * (Claims.shape t).2 = 32 ∧ 0 < (Claims.shape t).2 := by
  revert t
  decide

/-! ## Limits (R256, R257) -/

theorem acBad_iff (g : Group) (f : FmtA) : acBad (frameOf g f.fb.toNat) = true ↔ ¬ Claims.GoodAcc g f := by
  have hz := zeroFrom_frameOf g f 6
  simp only [acBad, acFrame, fr_frameOf (show 0 < 16 by decide), fr_frameOf (show 1 < 16 by decide), fr_frameOf (show 2 < 16 by decide),
    fr_frameOf (show 3 < 16 by decide), fr_frameOf (show 4 < 16 by decide), Bool.or_eq_true, Bool.not_eq_true', bne_iff_ne, beq_iff_eq, decide_eq_true_eq,
    Claims.GoodAcc, bitsN, ← hz]
  cases zeroFrom (frameOf g f.fb.toNat) 6 with
  | false => simp
  | true =>
    simp only [Bool.true_eq_false, false_or, true_and]
    omega

/-- The model's reading of a frame that keeps the limits is the statement's. -/
structure ReadsAs (x : AcFrame) (g : Group) (f : FmtA) : Prop where
  vr : x.vr = (Claims.accFrame g f).vr
  nr : x.nr = (Claims.accFrame g f).nr
  t : x.t = (Claims.accFrame g f).t.toNat
  acc : x.acc = Claims.word g f 1
  row0 : x.row0 = Claims.word g f 2
  col0 : x.col0 = Claims.word g f 3
  n : x.n = (Claims.accFrame g f).n
  cf : x.cf = (Claims.accFrame g f).cf
  scale : x.scale = Claims.word g f 5

theorem readsAs_of_good {g : Group} {f : FmtA} (h : Claims.GoodAcc g f) : ReadsAs (acFrame (frameOf g f.fb.toNat)) g f := by
  obtain ⟨-, -, -, -, -, hcf, hn, hn'⟩ := h
  have fr' {i : Nat} (hi : i < 16) := fr_frameOf (g := g) (f := f) hi
  constructor <;> simp only [acFrame, Claims.accFrame, BitVec.toNat_ofNat, fr' (show 0 < 16 by decide), fr' (show 1 < 16 by decide),
    fr' (show 2 < 16 by decide), fr' (show 3 < 16 by decide), fr' (show 4 < 16 by decide), fr' (show 5 < 16 by decide)] <;> omega

section
variable {x : AcFrame} {g : Group} {f : FmtA} (h : ReadsAs x g f)
include h

theorem ReadsAs.row : x.row = Claims.accRow (Claims.accFrame g f).n (Claims.accFrame g f).cf := by rw [AcFrame.row, h.n, h.cf]; rfl

theorem ReadsAs.cols (ht : 8 ≤ (Claims.accFrame g f).t.toNat) : x.cols = (Claims.accFrame g f).cols := by
  rw [AcFrame.cols, h.t, h.nr, elemN_eq, Claims.AccFrame.cols, regs_of_float ht]
  split
  · next h9 => rw [shape_of_f64 h9, Nat.mul_one]
  · rw [Nat.div_one]

/-- The place of an element. -/
theorem ReadsAs.place (row col : Nat) : x.acc + row * x.row + col * accBytes x.cf = Claims.accAt g f row col := by
  rw [h.acc, h.row, h.cf]
  rfl

end

/-- A frame breaks a limit exactly when it does not keep them. -/
theorem acLaneBad_iff (s : State) (f : FmtA) (ls : List Nat) : acLaneBad s (frameOf s.me f.fb.toNat) ls = true ↔ ¬ Claims.GoodAccLanes s f ls := by
  unfold acLaneBad Claims.GoodAccLanes
  by_cases hg : Claims.GoodAcc s.me f
  · have h := readsAs_of_good hg
    have hb : acBad (frameOf s.me f.fb.toNat) = false := by simpa using mt (acBad_iff s.me f).mp (not_not_intro hg)
    by_cases ht : 8 ≤ (Claims.accFrame s.me f).t.toNat
    · have ht16 := (Claims.accFrame s.me f).t.isLt
      have lanes (p q : Nat → Nat) (m : Nat) : (∃ l ∈ ls, p l > 127 ∨ q l > m) ↔ ¬ ∀ l ∈ ls, p l ≤ 127 ∧ q l ≤ m := by
        simp only [not_forall, not_and_or, not_le, exists_prop]
      simp only [hb, fr_frameOf (show 0 < 16 by decide), h.t, h.nr, h.n, h.vr, h.col0, h.row0, h.cols ht, h.place, regs_of_float ht, hg, Bool.or_eq_true,
        Bool.and_eq_true, decide_eq_true_eq, beq_iff_eq, List.any_eq_true, ht, true_and, Bool.false_eq_true, false_or, lanes]
      rw [show (s.kernelOf s.cur).acm = acmSize s (blockOf s.cur) from rfl]
      generalize (∀ l ∈ ls, Claims.word s.me f 2 + l ≤ 127 ∧
        Claims.accAt s.me f (Claims.word s.me f 2 + l) (Claims.word s.me f 3 + (Claims.accFrame s.me f).cols) ≤ acmSize s (blockOf s.cur)) = fits
      by_cases hf : fits
      · by_cases h9 : (Claims.accFrame s.me f).t.toNat = 9
        · rw [if_pos h9]
          simp only [hf, not_true, and_true, or_false]
          omega
        · rw [if_neg h9]
          simp only [hf, not_true, and_true, or_false, Nat.mod_one, true_and]
          omega
      · simp [hf]
    · simp [h.t, ht, Nat.lt_of_not_le ht]
  · simp [(acBad_iff s.me f).mpr hg, hg]

end Sys2Proof.Machine
end

section
/-!
PROOFS. Elements of lanes (R68, R111): registers put together from elements, and lanes that take the stream's words in turn (R38).
-/
namespace Sys2Proof.Machine

/-! ## Elements put together -/

/-- The number that elements of a width make, the first lowest. -/
def horner (w : Nat) (xs : List Nat) : Nat := xs.foldr (fun x acc => x % 2 ^ w + 2 ^ w * acc) 0

theorem joinElems_eq (t : BitVec 4) (xs : List Nat) : joinElems t.toNat xs = horner (Claims.shape t).1 xs := by
  rw [joinElems, elemW_eq, horner]

theorem horner_cons (w x : Nat) (xs : List Nat) : horner w (x :: xs) = x % 2 ^ w + 2 ^ w * horner w xs := rfl

theorem horner_lt (w : Nat) (xs : List Nat) : horner w xs < 2 ^ (w * xs.length) := by
  induction xs with
  | nil => simp [horner]
  | cons x xs ih =>
    have hx : x % 2 ^ w < 2 ^ w := Nat.mod_lt _ (by positivity)
    rw [List.length_cons, Nat.mul_succ, Nat.add_comm, Nat.pow_add, horner_cons]
    calc x % 2 ^ w + 2 ^ w * horner w xs < 2 ^ w * (horner w xs + 1) := by rw [Nat.mul_succ]; omega
      _ ≤ 2 ^ w * 2 ^ (w * xs.length) := Nat.mul_le_mul_left _ ih

theorem horner_append (w : Nat) (xs : List Nat) (y : Nat) : horner w (xs ++ [y]) = horner w xs + 2 ^ (w * xs.length) * (y % 2 ^ w) := by
  induction xs with
  | nil => simp [horner]
  | cons x xs ih =>
    rw [List.cons_append, horner_cons, ih, horner_cons, List.length_cons, Nat.mul_succ, Nat.pow_add]
    ring

/-- Elements laid side by side in 64 bits. -/
def laid {w : Nat} (d : Nat → BitVec w) (n : Nat) : W64 := (List.range n).foldl (fun acc i => acc ||| ((d i).setWidth 64 <<< (w * i))) 0

theorem toNat_laid {w n : Nat} (d : Nat → BitVec w) (h : w * n ≤ 64) : (laid d n).toNat = horner w ((List.range n).map (fun i => (d i).toNat)) := by
  induction n with
  | zero => rfl
  | succ n ih =>
    have hw : w * n + w ≤ 64 := by rw [← Nat.mul_succ]; exact h
    have low : (laid d n).toNat < 2 ^ (w * n) := by
      rw [ih (by omega)]
      simpa using horner_lt w ((List.range n).map (fun i => (d i).toNat))
    have fits : (d n).toNat * 2 ^ (w * n) < 2 ^ 64 := by
      calc (d n).toNat * 2 ^ (w * n) < 2 ^ w * 2 ^ (w * n) := Nat.mul_lt_mul_of_pos_right (d n).isLt (by positivity)
        _ = 2 ^ (w * n + w) := by rw [Nat.add_comm, Nat.pow_add]
        _ ≤ 2 ^ 64 := Nat.pow_le_pow_right (by decide) hw
    have small : (d n).toNat < 2 ^ 64 := lt_of_lt_of_le (d n).isLt (Nat.pow_le_pow_right (by decide) (by omega))
    rw [laid, List.range_succ, List.foldl_append, List.foldl_cons, List.foldl_nil, ← laid, List.map_append, List.map_cons, List.map_nil, horner_append, ← ih (by omega),
      BitVec.toNat_or, BitVec.toNat_shiftLeft, BitVec.toNat_setWidth, Nat.mod_eq_of_lt small, Nat.shiftLeft_eq, Nat.mod_eq_of_lt fits, Nat.or_comm,
      ← Nat.shiftLeft_eq, ← Nat.shiftLeft_add_eq_or_of_lt low, Nat.shiftLeft_eq, List.length_map, List.length_range, Nat.mod_eq_of_lt (d n).isLt]
    ring

/-- The elements that a register or a pair holds. -/
theorem toNat_joined {t : BitVec 4} (ht : 8 ≤ t.toNat) (v : Nat → Nat) :
    (Claims.joined t (fun i => BitVec.ofNat _ (v i))).toNat = joinElems t.toNat ((List.range (Claims.shape t).2).map v) := by
  have fits : (Claims.shape t).1 * (Claims.shape t).2 ≤ 64 := by
    by_cases h9 : t.toNat = 9
    · rw [shape_of_f64 h9]
      decide
    · rw [(shape_of_float ht h9).1]
      decide
  rw [show Claims.joined t (fun i => BitVec.ofNat _ (v i)) = laid (fun i => BitVec.ofNat _ (v i)) (Claims.shape t).2 from rfl, toNat_laid _ fits, joinElems_eq]
  simp only [BitVec.toNat_ofNat]
  induction List.range (Claims.shape t).2 with
  | nil => rfl
  | cons i is ih => rw [List.map_cons, List.map_cons, horner_cons, horner_cons, Nat.mod_mod, ih]

/-! ## The registers of a lane -/

theorem drop_take_map_range {A : Type} (v : Nat → A) {a k n : Nat} (h : a + k ≤ n) :
    (((List.range n).map v).drop a).take k = (List.range k).map (fun i => v (a + i)) := by
  refine List.ext_getElem (by simp; omega) fun i hi _ => ?_
  simp

theorem numbered_eq (v : Nat → Nat) (a n : Nat) : elemWrites.numbered' a ((List.range' a n).map v) = (List.range' a n).map (fun i => (i, v i)) := by
  induction n generalizing a with
  | zero => rfl
  | succ n ih => rw [List.range'_succ, List.map_cons, List.map_cons, elemWrites.numbered', ih]

theorem laneWrite_pair {t : BitVec 4} (ht : Claims.regs t = 2) (d l x : Nat) {y : W64} (hy : y.toNat = x % 2 ^ 64) :
    Claims.laneWrite t d l y = [.v d l (BitVec.ofNat 32 x) false, .v (d + 1) l (BitVec.ofNat 32 (x / 2 ^ 32)) false] := by
  have low : y.extractLsb' 0 32 = BitVec.ofNat 32 x := BitVec.eq_of_toNat_eq (by
    rw [BitVec.extractLsb'_toNat, BitVec.toNat_ofNat, hy, Nat.shiftRight_zero]
    omega)
  have high : y.extractLsb' 32 32 = BitVec.ofNat 32 (x / 2 ^ 32) := BitVec.eq_of_toNat_eq (by
    rw [BitVec.extractLsb'_toNat, BitVec.toNat_ofNat, hy, Nat.shiftRight_eq_div_pow]
    omega)
  rw [Claims.laneWrite, if_pos ht, low, high]

theorem laneWrite_single {t : BitVec 4} (ht : Claims.regs t = 1) (d l x : Nat) {y : W64} (hy : y.toNat = x) :
    Claims.laneWrite t d l y = [.v d l (BitVec.ofNat 32 x) false] := by
  have low : y.extractLsb' 0 32 = BitVec.ofNat 32 x := BitVec.eq_of_toNat_eq (by
    rw [BitVec.extractLsb'_toNat, BitVec.toNat_ofNat, hy, Nat.shiftRight_zero])
  rw [Claims.laneWrite, if_neg (by omega), low]

/-- The registers of a lane's elements, where none is poisoned. -/
theorem elemWrites_eq {t : BitVec 4} (ht : 8 ≤ t.toNat) (d l n : Nat) (v : Nat → Nat) :
    elemWrites t.toNat d l ((List.range (n * (Claims.shape t).2)).map v) (fun _ => false) =
      (List.range n).flatMap (fun j => Claims.laneWrite t (d + Claims.regs t * j) l
        (Claims.joined t (fun i => BitVec.ofNat _ (v ((Claims.shape t).2 * j + i))))) := by
  have joined (j : Nat) := toNat_joined ht (fun i => v ((Claims.shape t).2 * j + i))
  by_cases h9 : t.toNat = 9
  · obtain rfl : t = 9#4 := BitVec.eq_of_toNat_eq h9
    have single (j : Nat) : joinElems (9#4).toNat ((List.range (Claims.shape 9#4).2).map (fun i => v ((Claims.shape 9#4).2 * j + i))) = v j % 2 ^ 64 := by
      simp [Claims.shape, joinElems, elemW]
    rw [elemWrites, if_pos h9, show (Claims.shape 9#4).2 = 1 from rfl, Nat.mul_one, List.range_eq_range', numbered_eq, ← List.range_eq_range', List.flatMap_def,
      List.flatMap_def, List.map_map]
    refine congrArg List.flatten (List.map_congr_left fun j _ => ?_)
    exact (laneWrite_pair rfl _ l (v j) ((joined j).trans (single j))).symm
  · obtain ⟨fill, pos⟩ := shape_of_float ht h9
    have regs : Claims.regs t = 1 := by rw [regs_of_float ht, if_neg h9]
    rw [elemWrites, if_neg h9, elemN_eq]
    dsimp only
    rw [List.length_map, List.length_range, Nat.mul_div_cancel _ pos, List.map_eq_flatMap, List.flatMap_def, List.flatMap_def]
    refine congrArg List.flatten (List.map_congr_left fun j hj => ?_)
    have inside : (Claims.shape t).2 * j + (Claims.shape t).2 ≤ n * (Claims.shape t).2 := by
      rw [← Nat.mul_succ, Nat.mul_comm]
      exact Nat.mul_le_mul_right _ (List.mem_range.mp hj)
    rw [laneWrite_single regs _ l _ (joined j), drop_take_map_range v inside, regs, Nat.one_mul]
    simp

/-! ## Lanes in turn (R38) -/

/-- Lanes that run in turn have the stream's words in turn. -/
theorem runLanes_eq (op : LaneOp) (ls : List Nat) (ws : List W32) (n : Nat) :
    runLanes op ls (ws.drop (op.coins * n)) =
      ((ls.zipIdx n).flatMap (fun y => (op.run y.1 ((ws.drop (op.coins * y.2)).take op.coins)).1),
       (ls.zipIdx n).map (fun y => (y.1, (op.run y.1 ((ws.drop (op.coins * y.2)).take op.coins)).2))) := by
  induction ls generalizing n with
  | nil => rfl
  | cons l ls ih =>
    rw [runLanes, List.drop_drop, ← Nat.mul_succ, ih, List.zipIdx_cons]
    rfl

theorem acstLanes_eq (g : Group) (x : AcFrame) (env : FEnv) (per : Nat) (ls : List Nat) (ws : List W32) (n : Nat) :
    acstLanes g x env per ls (ws.drop (per * n)) = (ls.zipIdx n).map (fun y => (y.1, acstLane g x env ((ws.drop (per * y.2)).take per) y.1)) := by
  induction ls generalizing n with
  | nil => rfl
  | cons l ls ih =>
    rw [acstLanes, List.drop_drop, ← Nat.mul_succ, ih, List.zipIdx_cons]
    rfl

end Sys2Proof.Machine
end

section
/-!
PROOFS. Accumulator access (R256, R257): what ACLD reads, what ACST and ACZ write, and what of ACM stays.
-/
namespace Sys2Proof.Machine

/-! ## Shared by the three -/

theorem engInstr_of_acts {s : State} {c : Ctl} {f : FmtA} (h : Claims.Acts s.me f.gd (Claims.frameList f)) (k : State → List W32 → Out) :
    engInstr c f s k = k s (frameOf s.me f.fb.toNat) := ctlOp_of_acts h

/-- The lanes that run, as the statement lists them. -/
theorem lanesOf_run (g : Group) : lanesOf g.run = (List.range 32).filter (fun l => (g.am &&& ~~~g.xm).getLsbD l) := rfl

theorem statWrs_eq (g : Group) (sts : List (Nat × Stat)) : statWrs g sts = sts.flatMap (fun y => Claims.statusOf g.fmt y.1 y.2) := rfl

/-- The words that a lane draws. -/
def perLane (g : Group) (f : FmtA) : Nat := if (Claims.environment g 0).rm = 6 then (Claims.accFrame g f).cols else 0

theorem srWordsOf_eq {x : AcFrame} {g : Group} {f : FmtA} (h : ReadsAs x g f) (ht : 8 ≤ (Claims.accFrame g f).t.toNat) :
    srWordsOf (fenv g 0) x.cols = perLane g f := by
  rw [h.cols ht]
  rfl

/-- SCALE, and the accumulators' format. -/
def scaleOf (g : Group) (f : FmtA) : FV := unpack fF32 (Claims.environment g 0).daz (Claims.word g f 5)

/-! ## ACLD (R256) -/

/-- An element that a lane loads, with its status. -/
def loadedElem (s : State) (f : FmtA) (ws : List W32) (l e : Nat) : Nat × BitVec 8 :=
  scaleTo (Claims.environment s.me 0) (Claims.accFormat (Claims.accFrame s.me f).cf) (Claims.format (Claims.accFrame s.me f).t) (Claims.coinOf (ws.getD e 0))
    (unpack (Claims.accFormat (Claims.accFrame s.me f).cf) (Claims.environment s.me 0).daz (ofBytes (cread (Claims.myScratch s).acm
      (Claims.accAt s.me f (Claims.word s.me f 2 + l) (Claims.word s.me f 3 + e)) (Claims.accSize (Claims.accFrame s.me f).cf)))) (scaleOf s.me f)

theorem acldLane_eq {s : State} {x : AcFrame} {f : FmtA} (h : ReadsAs x s.me f) (ht : 8 ≤ (Claims.accFrame s.me f).t.toNat)
    (hb : (Claims.myScratch s).acmBad = []) (l : Nat) (ws : List W32) :
    acldLane s x (fenv s.me 0) l ws =
      (let y := Claims.accFrame s.me f
       ((List.range (y.nr / Claims.regs y.t)).flatMap (fun j => Claims.laneWrite y.t (y.vr + Claims.regs y.t * j) l
          (Claims.joined y.t (fun i => BitVec.ofNat _ (loadedElem s f ws l ((Claims.shape y.t).2 * j + i)).1))),
        (List.range y.cols).foldl (fun a e => a ||| (loadedElem s f ws l e).2) 0)) := by
  have place (e : Nat) : acmRead (myLoc s) (x.acc + (x.row0 + l) * x.row + (x.col0 + e) * accBytes x.cf) (accBytes x.cf) =
      (cread (Claims.myScratch s).acm (Claims.accAt s.me f (Claims.word s.me f 2 + l) (Claims.word s.me f 3 + e))
        (Claims.accSize (Claims.accFrame s.me f).cf), false) := by
    rw [h.place, h.row0, h.col0, h.cf, acmRead, show myLoc s = Claims.myScratch s from rfl, hb]
    simp
    rfl
  have elem (e : Nat) : scaleTo (fenv s.me 0) (accFmt x.cf) (elemFmt x.t) (coin (ws.getD e 0)) (unpack (accFmt x.cf) (fenv s.me 0).daz
      (ofBytes (acmRead (myLoc s) (x.acc + (x.row0 + l) * x.row + (x.col0 + e) * accBytes x.cf) (accBytes x.cf)).1)) (unpack fF32 (fenv s.me 0).daz x.scale) =
      loadedElem s f ws l e := by
    rw [place, h.t, elemFmt_eq, h.cf, h.scale]
    rfl
  unfold acldLane
  dsimp only
  simp only [elem]
  simp only [place, List.map_map, List.foldl_map, h.t, h.vr, h.cols ht]
  exact Prod.ext (elemWrites_eq ht _ l _ (fun e => (loadedElem s f ws l e).1)) rfl

/-- The words of a lane, by its place among the lanes. -/
def laneWords (s : State) (f : FmtA) (n q : Nat) : List W32 := ((s.draws (perLane s.me f * n)).drop (perLane s.me f * q)).take (perLane s.me f)

/-- What each lane of an ACLD does. -/
def acldOp (s : State) (f : FmtA) (x : AcFrame) : LaneOp :=
  { named := [], reads := [], preds := [], coins := perLane s.me f, run := acldLane s x (fenv s.me 0), zero := fun _ => [] }

theorem execAcld_of_good {s : State} {c : Ctl} {f : FmtA} (ha : Claims.Acts s.me f.gd (Claims.frameList f))
    (hg : Claims.GoodAccLanes s f (lanesOf s.me.run)) (hb : (Claims.myScratch s).acmBad = []) :
    execAcld c f s =
      (let ls := lanesOf s.me.run
       let y := Claims.accFrame s.me f
       .next ((s.drawn (perLane s.me f * ls.length)).issue c none
        (ls.zipIdx.flatMap (fun z => (List.range (y.nr / Claims.regs y.t)).flatMap (fun j => Claims.laneWrite y.t (y.vr + Claims.regs y.t * j) z.1
            (Claims.joined y.t (fun i => BitVec.ofNat _ (loadedElem s f (laneWords s f ls.length z.2) z.1 ((Claims.shape y.t).2 * j + i)).1)))) ++
          ls.zipIdx.flatMap (fun z => Claims.statusOf s.me.fmt z.1
            ((List.range y.cols).foldl (fun a e => a ||| (loadedElem s f (laneWords s f ls.length z.2) z.1 e).2) 0)) ++ [.g f.st.toNat 0 false]))) := by
  have fits : ¬ acLaneBad s (frameOf s.me f.fb.toNat) (lanesOf s.me.run) = true := fun e => (acLaneBad_iff s f _).mp e hg
  obtain ⟨good, -, ht, -⟩ := hg
  have h := readsAs_of_good good
  have run := runLanes_eq (acldOp s f (acFrame (frameOf s.me f.fb.toNat))) (lanesOf s.me.run) (s.draws (perLane s.me f * (lanesOf s.me.run).length)) 0
  rw [Nat.mul_zero, List.drop_zero] at run
  rw [execAcld, engInstr_of_acts ha]
  dsimp only
  rw [if_neg fits, srWordsOf_eq h ht]
  change Host.Outcome.next (State.variable _ c ((runLanes (acldOp s f (acFrame (frameOf s.me f.fb.toNat))) _ _).1 ++ statWrs s.me (runLanes (acldOp s f (acFrame (frameOf s.me f.fb.toNat))) _ _).2 ++ _)) = _
  rw [run, statWrs_eq]
  dsimp only [acldOp]
  simp only [acldLane_eq h ht hb, List.flatMap_map]
  rfl

end Sys2Proof.Machine
end

section
/-!
PROOFS. Rows put in ACM (R147): what a row holds afterwards, and what stays.
-/
namespace Sys2Proof.Machine

/-! ## Bytes in pieces of one length -/

theorem drop_take_flatten {A : Type} {k : Nat} (xs : List (List A)) (h : ∀ x ∈ xs, x.length = k) (e : Nat) (he : e < xs.length) :
    (xs.flatten.drop (e * k)).take k = xs[e] := by
  induction xs generalizing e with
  | nil => simp at he
  | cons x xs ih =>
    have hx : x.length = k := h x List.mem_cons_self
    cases e with
    | zero => simp [← hx]
    | succ e =>
      rw [List.flatten_cons, Nat.succ_mul, Nat.add_comm, ← List.drop_drop, List.drop_left' hx]
      exact ih (fun y hy => h y (List.mem_cons_of_mem _ hy)) e (by simpa using he)

theorem length_flatten_of_all {A : Type} {k : Nat} (xs : List (List A)) (h : ∀ x ∈ xs, x.length = k) : xs.flatten.length = xs.length * k := by
  rw [List.length_flatten, List.map_congr_left h, List.map_const', List.sum_replicate, smul_eq_mul]

/-- A part of what is read. -/
theorem cread_part (m : Cells) (a : Nat) {i n k : Nat} (h : i + n ≤ k) : cread m (a + i) n = ((cread m a k).drop i).take n := by
  rw [cread, cread, drop_take_map_range _ h]
  exact List.map_congr_left fun j _ => by rw [Nat.add_assoc]

/-! ## Rows -/

section
variable {A : Type} (at' : A → Nat) (bytes : A → List Byte)

/-- Rows put one after another. -/
def putRows (xs : List A) (l : Local) : Local := xs.foldl (fun l a => acmPut l (at' a) (bytes a)) l

theorem putRows_out (xs : List A) (l : Local) {b : Nat} (h : ∀ a ∈ xs, b < at' a ∨ at' a + (bytes a).length ≤ b) :
    cget (putRows at' bytes xs l).acm b = cget l.acm b := by
  induction xs generalizing l with
  | nil => rfl
  | cons a xs ih =>
    rw [putRows, List.foldl_cons, ← putRows, ih _ (fun y hy => h y (List.mem_cons_of_mem _ hy))]
    exact cget_cwrite_out _ _ _ _ (h a List.mem_cons_self)

/-- A row that no later one overlaps holds its bytes. -/
theorem putRows_in (xs : List A) (l : Local)
    (apart : xs.Pairwise (fun a b => at' a + (bytes a).length ≤ at' b ∨ at' b + (bytes b).length ≤ at' a)) {a : A} (ha : a ∈ xs) :
    cread (putRows at' bytes xs l).acm (at' a) (bytes a).length = bytes a := by
  induction xs generalizing l with
  | nil => simp at ha
  | cons y xs ih =>
    obtain ⟨hy, hxs⟩ := List.pairwise_cons.mp apart
    rw [putRows, List.foldl_cons, ← putRows]
    rcases List.mem_cons.mp ha with rfl | ha
    · have later : cread (putRows at' bytes xs (acmPut l (at' a) (bytes a))).acm (at' a) (bytes a).length =
          cread (cwrite l.acm (at' a) (bytes a)) (at' a) (bytes a).length := by
        refine List.map_congr_left fun i hi => putRows_out at' bytes xs _ fun b hb => ?_
        have := hy b hb
        have := List.mem_range.mp hi
        omega
      rw [later, cread_cwrite]
    · exact ih _ hxs ha

/-- A piece of a row that no later one overlaps. -/
theorem putRows_piece (pieces : A → List (List Byte)) {k : Nat} (hk : ∀ a, ∀ x ∈ pieces a, x.length = k) (xs : List A) (l : Local)
    (apart : xs.Pairwise (fun a b => at' a + (pieces a).length * k ≤ at' b ∨ at' b + (pieces b).length * k ≤ at' a)) {a : A} (ha : a ∈ xs)
    {e : Nat} (he : e < (pieces a).length) :
    cread (putRows at' (fun a => (pieces a).flatten) xs l).acm (at' a + e * k) k = (pieces a)[e] := by
  have long (a : A) : (pieces a).flatten.length = (pieces a).length * k := length_flatten_of_all _ (hk a)
  have row := putRows_in at' (fun a => (pieces a).flatten) xs l (by simpa only [long] using apart) ha
  have inside : e * k + k ≤ (pieces a).flatten.length := by
    rw [long, ← Nat.succ_mul]
    exact Nat.mul_le_mul_right _ he
  rw [cread_part _ _ inside, row, drop_take_flatten _ (hk a) e he]

end

/-! ## What an instruction that puts rows leaves (R257) -/

theorem State.drawn_me {s : State} (h : s.me.gnext = none) (n : Nat) : ∃ p, (s.drawn n).me = { s.me with gpos := p } := by
  unfold State.drawn
  split
  · exact ⟨s.me.gpos, rfl⟩
  · refine ⟨s.me.gpos + BitVec.ofNat 64 n, ?_⟩
    rw [State.modMe_me]
    simp [Group.genSettle, h]

theorem State.drawn_frame (s : State) (n : Nat) :
    (s.drawn n).cur = s.cur ∧ (s.drawn n).blocks = s.blocks ∧ (s.drawn n).mem = s.mem ∧ (s.drawn n).nextId = s.nextId ∧ (s.drawn n).clock = s.clock := by
  unfold State.drawn
  split <;> exact ⟨rfl, rfl, rfl, rfl, rfl⟩

theorem State.issue_pend (s : State) (c : Ctl) (due : Option Nat) (wr : List RegWr) :
    (s.issue c due wr).me.pend = (if c.setk.toNat = 0 && wr.isEmpty then s.me.pend else s.me.pend ++ [⟨s.nextId, due, c.setk.toNat, wr⟩]) := by
  rw [State.issue_me, Group.issuedAs_eq]

theorem State.issue_rank (s : State) (c : Ctl) (due : Option Nat) (wr : List RegWr) : (s.issue c due wr).me.rank = s.me.rank := by
  rw [State.issue_me, Group.issuedAs_eq]

theorem State.issue_astat (s : State) (c : Ctl) (due : Option Nat) (wr : List RegWr) : (s.issue c due wr).me.astat = s.me.astat := by
  rw [State.issue_me, Group.issuedAs_eq]

/-- The state after an instruction that takes words of the stream, changes the memories of its block's core and issues. -/
def storedLocal (s : State) (n : Nat) (c : Ctl) (f : Local → Local) (wr : List RegWr) : State :=
  ((s.drawn n).modLoc (blockOf (s.drawn n).cur) s.me.rank f).variable c wr

theorem storedLocal_spec {s : State} (h : s.me.gnext = none) (n : Nat) (c : Ctl) (f : Local → Local) (wr : List RegWr) :
    (storedLocal s n c f wr).mem = s.mem ∧ (storedLocal s n c f wr).me.pend = (s.issue c none wr).me.pend ∧
      (storedLocal s n c f wr).me.astat = s.me.astat ∧ Claims.myScratch (storedLocal s n c f wr) = f (Claims.myScratch s) := by
  obtain ⟨cur, blocks, mem, nextId, clock⟩ := s.drawn_frame n
  obtain ⟨p, me⟩ := State.drawn_me h n
  let t := (s.drawn n).modLoc (blockOf (s.drawn n).cur) s.me.rank f
  have tme : t.me = { s.me with gpos := p } := me
  have pend := t.issue_pend c none wr
  have rank := t.issue_rank c none wr
  have astat := t.issue_astat c none wr
  rw [tme] at pend rank astat
  refine ⟨mem, ?_, astat, ?_⟩
  · rw [s.issue_pend, show storedLocal s n c f wr = t.issue c none wr from rfl, pend, show t.nextId = s.nextId from nextId]
  · rw [Claims.myScratch, show storedLocal s n c f wr = t.issue c none wr from rfl, rank]
    refine (modLoc_loc_same (s.drawn n) (blockOf (s.drawn n).cur) s.me.rank f).trans ?_
    rw [State.blk, blocks, cur]
    rfl

end Sys2Proof.Machine
end

section
/-!
PROOFS. What ACST stores (R256).
-/
namespace Sys2Proof.Machine

/-! ## Rows of ACM (R256) -/

theorem le_accRow (n cf : Nat) : n * Claims.accSize cf ≤ Claims.accRow n cf := by
  rw [show Claims.accRow n cf = 64 * ((n * Claims.accSize cf + 63) / 64) from rfl]
  omega

/-- Pieces of two rows do not overlap. -/
theorem accAt_apart (g : Group) (f : FmtA) {a b m : Nat} (h : a ≠ b) (col : Nat) (hm : m ≤ (Claims.accFrame g f).n) :
    Claims.accAt g f a col + m * Claims.accSize (Claims.accFrame g f).cf ≤ Claims.accAt g f b col ∨
      Claims.accAt g f b col + m * Claims.accSize (Claims.accFrame g f).cf ≤ Claims.accAt g f a col := by
  have row := (Nat.mul_le_mul_right (Claims.accSize (Claims.accFrame g f).cf) hm).trans (le_accRow _ (Claims.accFrame g f).cf)
  unfold Claims.accAt
  dsimp only
  generalize Claims.accRow (Claims.accFrame g f).n (Claims.accFrame g f).cf = r at row ⊢
  rcases Nat.lt_or_gt_of_ne h with hab | hab
  · have := Nat.mul_le_mul_right r hab
    rw [Nat.succ_mul] at this
    omega
  · have := Nat.mul_le_mul_right r hab
    rw [Nat.succ_mul] at this
    omega

theorem accAt_add (g : Group) (f : FmtA) (row col e : Nat) :
    Claims.accAt g f row (col + e) = Claims.accAt g f row col + e * Claims.accSize (Claims.accFrame g f).cf := by
  unfold Claims.accAt
  ring

/-- The number that an element's bytes hold. -/
theorem ofBytes_toBytes_pow (n x : Nat) : ofBytes (toBytes n x) = x % 2 ^ (8 * n) := by
  rw [ofBytes_toBytes, Nat.pow_mul]

/-! ## One lane (R32, R256) -/

theorem laneElem_eq (g : Group) {t : BitVec 4} (ht : 8 ≤ t.toNat) (r l e : Nat) :
    laneElem g t.toNat r l e =
      (Claims.element t (Claims.operand g t (r + Claims.regs t * (e / (Claims.shape t).2)) l) (e % (Claims.shape t).2)).toNat := by
  by_cases h9 : t.toNat = 9
  · obtain rfl : t = 9#4 := BitVec.eq_of_toNat_eq h9
    simpa [laneElem, Claims.element, Claims.operand, Claims.regs, Claims.shape, Nat.mod_one] using (Nat.mod_eq_of_lt (g.rvd (r + 2 * e) l).isLt).symm
  · have regs : Claims.regs t = 1 := by rw [regs_of_float ht, if_neg h9]
    rw [laneElem, if_neg h9, elemN_eq, regs, Nat.one_mul, elem, elemW_eq, Claims.element, Claims.operand, regs, if_neg (by decide), bitsN,
      BitVec.extractLsb'_toNat, Nat.shiftRight_eq_div_pow, BitVec.toNat_setWidth_of_le (by decide)]

/-- An element that a lane stores, with its status. -/
def storedElem (g : Group) (f : FmtA) (ws : List W32) (l e : Nat) : Nat × BitVec 8 :=
  let x := Claims.accFrame g f
  let env := Claims.environment g 0
  scaleTo env (Claims.format x.t) (Claims.accFormat x.cf) (Claims.coinOf (ws.getD e 0))
    (unpack (Claims.format x.t) env.daz (Claims.element x.t (Claims.operand g x.t (x.vr + Claims.regs x.t * (e / (Claims.shape x.t).2)) l)
      (e % (Claims.shape x.t).2)).toNat) (scaleOf g f)

/-- The bytes of each element that a lane stores. -/
def storedPieces (s : State) (f : FmtA) (y : Nat × Nat) : List (List Byte) :=
  (List.range (Claims.accFrame s.me f).cols).map (fun e =>
    toBytes (Claims.accSize (Claims.accFrame s.me f).cf) (storedElem s.me f (laneWords s f (lanesOf s.me.run).length y.2) y.1 e).1)

theorem acstLane_eq {x : AcFrame} {g : Group} {f : FmtA} (h : ReadsAs x g f) (ht : 8 ≤ (Claims.accFrame g f).t.toNat) (ws : List W32) (l : Nat) :
    acstLane g x (fenv g 0) ws l =
      (let y := Claims.accFrame g f
       (((List.range y.cols).map (fun e => toBytes (Claims.accSize y.cf) (storedElem g f ws l e).1)).flatten,
        (List.range y.cols).foldl (fun a e => a ||| (storedElem g f ws l e).2) 0)) := by
  have elem (e : Nat) : scaleTo (fenv g 0) (elemFmt x.t) (accFmt x.cf) (coin (ws.getD e 0)) (unpack (elemFmt x.t) (fenv g 0).daz (laneElem g x.t x.vr l e))
      (unpack fF32 (fenv g 0).daz x.scale) = storedElem g f ws l e := by
    rw [h.t, laneElem_eq g ht, elemFmt_eq, h.cf, h.scale, h.vr]
    rfl
  unfold acstLane
  dsimp only
  simp only [elem]
  rw [h.cols ht, h.cf, List.flatMap_map, List.foldl_map, List.flatMap_def]
  rfl

/-! ## The instruction -/

/-- Where a lane's row begins. -/
def storedAt (s : State) (f : FmtA) (y : Nat × Nat) : Nat := Claims.accAt s.me f (Claims.word s.me f 2 + y.1) (Claims.word s.me f 3)

/-- The status that the lanes raise. -/
def raisedBy (g : Group) (f : FmtA) (v : Nat × Nat → Nat → Nat × BitVec 8) : List RegWr :=
  (lanesOf g.run).zipIdx.flatMap (fun y => Claims.statusOf g.fmt y.1 ((List.range (Claims.accFrame g f).cols).foldl (fun a e => a ||| (v y e).2) 0))

theorem execAcst_of_good {s : State} {c : Ctl} {f : FmtA} (ha : Claims.Acts s.me f.gd (Claims.frameList f))
    (hg : Claims.GoodAccLanes s f (lanesOf s.me.run))
    (clean : ∀ l ∈ lanesOf s.me.run, ∀ j, j < (Claims.accFrame s.me f).nr → 32 * ((Claims.accFrame s.me f).vr + j) + l ∉ s.me.badV) :
    execAcst c f s = .next (storedLocal s (perLane s.me f * (lanesOf s.me.run).length) c
      (putRows (storedAt s f) (fun y => (storedPieces s f y).flatten) (lanesOf s.me.run).zipIdx)
      (raisedBy s.me f (fun y e => storedElem s.me f (laneWords s f (lanesOf s.me.run).length y.2) y.1 e) ++ [.g f.st.toNat 0 false])) := by
  have fits : ¬ acLaneBad s (frameOf s.me f.fb.toNat) (lanesOf s.me.run) = true := fun e => (acLaneBad_iff s f _).mp e hg
  obtain ⟨good, -, ht, -⟩ := hg
  have h := readsAs_of_good good
  have poison : srcBad s.me (lanesOf s.me.run) [((acFrame (frameOf s.me f.fb.toNat)).vr, (acFrame (frameOf s.me f.fb.toNat)).nr)] = false :=
    srcBad_of_clean (by simpa [h.vr, h.nr] using clean)
  have lanes := acstLanes_eq s.me (acFrame (frameOf s.me f.fb.toNat)) (fenv s.me 0) (perLane s.me f) (lanesOf s.me.run)
    (s.draws (perLane s.me f * (lanesOf s.me.run).length)) 0
  rw [Nat.mul_zero, List.drop_zero] at lanes
  rw [execAcst, engInstr_of_acts ha]
  dsimp only
  rw [if_neg fits, poison, if_neg (by decide), srWordsOf_eq h ht, lanes]
  simp only [acstLane_eq h ht, List.foldl_map, List.map_map, h.place, h.row0, h.col0, statWrs_eq, List.flatMap_map]
  rfl

end Sys2Proof.Machine
end

section
/-!
PROOFS. Fills (R257), frames that fail, and what holds of the three instructions together.
-/
namespace Sys2Proof.Machine

/-! ## ACZ (R257) -/

/-- The value that a fill writes. -/
def fillOf (g : Group) (f : FmtA) : Nat :=
  let cf := Claims.accFormat (Claims.accFrame g f).cf
  let v := unpack fF32 false (Claims.word g f 5)
  if v.isNan then Claims.quietNan cf else (roundFV envRne fF32 cf 0 v).1

/-- The accumulators' formats have NaNs. -/
theorem canonNan_accFmt (cf : Nat) : (accFmt cf).canonNan = Claims.quietNan (Claims.accFormat cf) := by
  unfold accFmt Claims.accFormat
  split_ifs <;> rfl

/-- A frame of ACZ breaks a limit. -/
def aczBad (s : State) (fm : List W32) : Bool :=
  acBad fm || fr fm 0 != 0 || fr fm 3 == 0 || fr fm 3 > 128 || (acFrame fm).row0 + fr fm 3 > 128 ||
    (acFrame fm).acc + ((acFrame fm).row0 + fr fm 3 - 1) * (acFrame fm).row + (acFrame fm).n * accBytes (acFrame fm).cf > acmSize s (blockOf s.cur)

theorem aczBad_iff (s : State) (f : FmtA) : aczBad s (frameOf s.me f.fb.toNat) = true ↔ ¬ Claims.GoodAccZero s f := by
  unfold aczBad Claims.GoodAccZero
  by_cases hg : Claims.GoodAcc s.me f
  · have h := readsAs_of_good hg
    have hb : acBad (frameOf s.me f.fb.toNat) = false := by simpa using mt (acBad_iff s.me f).mp (not_not_intro hg)
    simp only [hb, fr_frameOf (show 0 < 16 by decide), fr_frameOf (show 3 < 16 by decide), h.row0, h.n, h.place, hg, Bool.or_eq_true, decide_eq_true_eq,
      bne_iff_ne, beq_iff_eq, Bool.false_eq_true, false_or, true_and]
    rw [show (s.kernelOf s.cur).acm = acmSize s (blockOf s.cur) from rfl]
    omega
  · simp [(acBad_iff s.me f).mpr hg, hg]

/-- The bytes of each element that a fill writes in a row. -/
def filledPieces (g : Group) (f : FmtA) : List (List Byte) :=
  List.replicate (Claims.accFrame g f).n (toBytes (Claims.accSize (Claims.accFrame g f).cf) (fillOf g f))

theorem execAcz_of_good {s : State} {c : Ctl} {f : FmtA} (ha : Claims.Acts s.me f.gd (Claims.frameList f)) (hg : Claims.GoodAccZero s f) :
    execAcz c f s = .next (storedLocal s 0 c
      (putRows (fun i => Claims.accAt s.me f (Claims.word s.me f 2 + i) 0) (fun _ => (filledPieces s.me f).flatten) (List.range (Claims.word s.me f 3)))
      [.g f.st.toNat 0 false]) := by
  have fits : ¬ aczBad s (frameOf s.me f.fb.toNat) = true := fun e => (aczBad_iff s f).mp e hg
  have h := readsAs_of_good hg.1
  have place (row : Nat) := h.place row 0
  simp only [Nat.zero_mul, Nat.add_zero] at place
  rw [execAcz, engInstr_of_acts ha]
  refine (if_neg fits).trans ?_
  simp only [place, h.row0, h.n, h.cf, h.scale, fr_frameOf (show 3 < 16 by decide), canonNan_accFmt]
  unfold filledPieces fillOf
  cases unpack fF32 false (Claims.word s.me f 5) <;> rfl

/-! ## Frames that fail (R257) -/

theorem execAcld_of_bad {s : State} {c : Ctl} {f : FmtA} (ha : Claims.Acts s.me f.gd (Claims.frameList f))
    (hg : ¬ Claims.GoodAccLanes s f (lanesOf s.me.run)) : execAcld c f s = .next (s.issue c none [.g f.st.toNat 0x0F false]) := by
  rw [execAcld, engInstr_of_acts ha]
  exact if_pos ((acLaneBad_iff s f _).mpr hg)

theorem execAcst_of_bad {s : State} {c : Ctl} {f : FmtA} (ha : Claims.Acts s.me f.gd (Claims.frameList f))
    (hg : ¬ Claims.GoodAccLanes s f (lanesOf s.me.run)) : execAcst c f s = .next (s.issue c none [.g f.st.toNat 0x0F false]) := by
  rw [execAcst, engInstr_of_acts ha]
  exact if_pos ((acLaneBad_iff s f _).mpr hg)

theorem execAcz_of_bad {s : State} {c : Ctl} {f : FmtA} (ha : Claims.Acts s.me f.gd (Claims.frameList f))
    (hg : ¬ Claims.GoodAccZero s f) : execAcz c f s = .next (s.issue c none [.g f.st.toNat 0x0F false]) := by
  rw [execAcz, engInstr_of_acts ha]
  exact if_pos ((aczBad_iff s f).mpr hg)

/-! ## ACM afterwards -/

/-- An element of a row that ACST or ACZ puts, by its place in the row. -/
theorem ofBytes_putRows {A : Type} {g : Group} {f : FmtA} {row : A → Nat} {col : Nat} {value : A → Nat → Nat} {m : Nat} {xs : List A} {l : Local}
    (rows : xs.Pairwise (fun a b => row a ≠ row b)) (hm : m ≤ (Claims.accFrame g f).n) {pieces : A → List (List Byte)}
    (hp : ∀ a, pieces a = (List.range m).map (fun e => toBytes (Claims.accSize (Claims.accFrame g f).cf) (value a e))) {a : A} (ha : a ∈ xs) {e : Nat} (he : e < m) :
    ofBytes (cread (putRows (fun a => Claims.accAt g f (row a) col) (fun a => (pieces a).flatten) xs l).acm (Claims.accAt g f (row a) (col + e))
      (Claims.accSize (Claims.accFrame g f).cf)) = value a e % 2 ^ (8 * Claims.accSize (Claims.accFrame g f).cf) := by
  have long (a : A) : (pieces a).length = m := by rw [hp, List.length_map, List.length_range]
  have size (a : A) : ∀ x ∈ pieces a, x.length = Claims.accSize (Claims.accFrame g f).cf := by
    intro x hx
    rw [hp] at hx
    obtain ⟨e, -, rfl⟩ := List.mem_map.mp hx
    exact length_toBytes _ _
  have piece : (pieces a)[e]'((long a).symm ▸ he) = toBytes (Claims.accSize (Claims.accFrame g f).cf) (value a e) := by simp [hp]
  rw [accAt_add, putRows_piece (fun a => Claims.accAt g f (row a) col) pieces size xs l (rows.imp fun h => by rw [long, long]; exact accAt_apart g f h col hm) ha
    ((long a).symm ▸ he), piece, ofBytes_toBytes_pow]

/-- A byte outside the rows. -/
theorem cget_putRows {A : Type} {g : Group} {f : FmtA} {row : A → Nat} {col : Nat} {value : A → Nat → Nat} {m : Nat} {xs : List A} {l : Local}
    {pieces : A → List (List Byte)} (hp : ∀ a, pieces a = (List.range m).map (fun e => toBytes (Claims.accSize (Claims.accFrame g f).cf) (value a e))) {b : Nat}
    (hb : ∀ a ∈ xs, b < Claims.accAt g f (row a) col ∨ Claims.accAt g f (row a) (col + m) ≤ b) :
    cget (putRows (fun a => Claims.accAt g f (row a) col) (fun a => (pieces a).flatten) xs l).acm b = cget l.acm b := by
  refine putRows_out _ _ _ _ fun a ha => ?_
  have long : (pieces a).flatten.length = m * Claims.accSize (Claims.accFrame g f).cf := by
    rw [length_flatten_of_all (k := Claims.accSize (Claims.accFrame g f).cf) _ fun x hx => ?_, hp, List.length_map, List.length_range]
    rw [hp] at hx
    obtain ⟨e, -, rfl⟩ := List.mem_map.mp hx
    exact length_toBytes _ _
  rw [long, ← accAt_add]
  exact hb a ha

theorem rows_of_lanes {ls : List Nat} (h : ls.Nodup) (r : Nat) : ls.zipIdx.Pairwise (fun a b => r + a.1 ≠ r + b.1) := by
  have lanes : ls.zipIdx.Pairwise (fun a b => a.1 ≠ b.1) := List.pairwise_map.mp ((List.zipIdx_map_fst 0 ls).symm ▸ h)
  exact lanes.imp fun h e => h (Nat.add_left_cancel e)

/-- Settles O40: ACM is changed by the rows of the lanes or of the fill alone, which do not overlap. -/
theorem accumulatorAccessScalesAndFills : Obligations.AccumulatorAccessScalesAndFills := by
  intro s c f ha hn
  refine ⟨fun h => ⟨execAcld_of_bad ha h, execAcst_of_bad ha h⟩, execAcz_of_bad ha, fun h hb => execAcld_of_good ha h hb, fun h clean => ?_, fun h => ?_⟩
  · obtain ⟨mem, pend, -, loc⟩ := storedLocal_spec hn (perLane s.me f * (lanesOf s.me.run).length) c
      (putRows (storedAt s f) (fun y => (storedPieces s f y).flatten) (lanesOf s.me.run).zipIdx)
      (raisedBy s.me f (fun y e => storedElem s.me f (laneWords s f (lanesOf s.me.run).length y.2) y.1 e) ++ [.g f.st.toNat 0 false])
    have fits : (Claims.accFrame s.me f).cols ≤ (Claims.accFrame s.me f).n := by
      obtain ⟨-, -, -, -, -, hcols, -⟩ := h
      omega
    refine ⟨_, execAcst_of_good ha h clean, mem, pend, fun q l hq e he => ?_, fun b hb => ?_⟩
    · obtain ⟨hlt, hl, -⟩ := List.idxOf?_eq_some_iff.mp hq
      have here : (l, q) ∈ (lanesOf s.me.run).zipIdx := List.mk_mem_zipIdx_iff_getElem?.mpr (List.getElem?_eq_some_iff.mpr ⟨hlt, hl⟩)
      beta_reduce
      rw [loc]
      exact ofBytes_putRows (row := fun y : Nat × Nat => Claims.word s.me f 2 + y.1) (rows_of_lanes (nodup_lanesOf _) _) fits (fun _ => rfl) here he
    · rw [loc]
      exact cget_putRows (row := fun y : Nat × Nat => Claims.word s.me f 2 + y.1) (pieces := storedPieces s f) (fun _ => rfl)
        fun y hy => hb y.1 (List.fst_mem_of_mem_zipIdx hy)
  · obtain ⟨mem, pend, astat, loc⟩ := storedLocal_spec hn 0 c (putRows (fun i => Claims.accAt s.me f (Claims.word s.me f 2 + i) 0)
      (fun _ => (filledPieces s.me f).flatten) (List.range (Claims.word s.me f 3))) [.g f.st.toNat 0 false]
    have pieces : filledPieces s.me f = (List.range (Claims.accFrame s.me f).n).map
        (fun _ => toBytes (Claims.accSize (Claims.accFrame s.me f).cf) (fillOf s.me f)) := by simp [filledPieces, List.map_const']
    have rows : (List.range (Claims.word s.me f 3)).Pairwise (fun a b => Claims.word s.me f 2 + a ≠ Claims.word s.me f 2 + b) :=
      List.Pairwise.imp (fun h e => h (Nat.add_left_cancel e)) List.nodup_range
    refine ⟨_, execAcz_of_good ha h, mem, pend, astat, fun i j hi hj => ?_, fun b hb => ?_⟩
    · beta_reduce
      rw [loc]
      have := ofBytes_putRows (l := Claims.myScratch s) (col := 0) rows le_rfl (fun _ => pieces) (List.mem_range.mpr hi) hj
      rwa [Nat.zero_add] at this
    · rw [loc]
      refine cget_putRows (fun _ => pieces) fun i hi => ?_
      rw [Nat.zero_add]
      exact hb i (List.mem_range.mp hi)

end Sys2Proof.Machine
end

section
/-!
PROOFS. Canonical NaNs and packed elements (R34). A canonical NaN is the exponent's bits and the highest mantissa bit, in e4m3 all bits below the sign.
-/
namespace Sys2Proof.Machine

/-! ## Canonical NaNs (R34) -/

theorem canonNan_of_ieee {f : Fmt} (hn : f.nan = .ieee) : f.canonNan = 2 ^ f.mb * (2 ^ f.eb - 1) + 2 ^ (f.mb - 1) := by
  rw [Fmt.canonNan, hn, Nat.mul_comm]

theorem canonNan_of_e4m3 {f : Fmt} (hn : f.nan = .e4m3) : f.canonNan = 2 ^ (f.eb + f.mb) - 1 := by rw [Fmt.canonNan, hn]

theorem canonNan_of_none {f : Fmt} (hn : f.nan = .none) : f.canonNan = 0 := by rw [Fmt.canonNan, hn]

/-- The highest bit of a mantissa is below the exponent. -/
theorem quietBit_lt {f : Fmt} (hm : 0 < f.mb) : 2 ^ (f.mb - 1) < 2 ^ f.mb := Nat.pow_lt_pow_right Nat.one_lt_two (Nat.sub_one_lt_of_lt hm)

/-- The sign bit of a canonical NaN is clear. -/
theorem canonNan_lt_signBit {f : Fmt} (hm : 0 < f.mb) : f.canonNan < f.signBit := by
  rw [Fmt.signBit]
  cases hn : f.nan with
  | none => exact canonNan_of_none hn ▸ Nat.two_pow_pos _
  | e4m3 => exact canonNan_of_e4m3 hn ▸ Nat.sub_one_lt (Nat.two_pow_pos _).ne'
  | ieee =>
    calc f.canonNan
      _ = 2 ^ f.mb * (2 ^ f.eb - 1) + 2 ^ (f.mb - 1) := canonNan_of_ieee hn
      _ < 2 ^ f.mb * (2 ^ f.eb - 1) + 2 ^ f.mb := Nat.add_lt_add_left (quietBit_lt hm) _
      _ = 2 ^ f.mb * 2 ^ f.eb := by rw [← Nat.mul_succ, Nat.succ_eq_add_one, Nat.sub_add_cancel Nat.one_le_two_pow]
      _ = 2 ^ (f.eb + f.mb) := by rw [Nat.add_comm, Nat.pow_add]

/-- The highest mantissa bit of a canonical NaN is set. -/
theorem testBit_canonNan {f : Fmt} (hm : 0 < f.mb) (hn : f.nan ≠ .none) : f.canonNan.testBit (f.mb - 1) = true := by
  cases hk : f.nan with
  | none => exact absurd hk hn
  | e4m3 =>
    rw [canonNan_of_e4m3 hk, Nat.testBit_two_pow_sub_one, decide_eq_true_iff]
    omega
  | ieee => rw [canonNan_of_ieee hk, Nat.testBit_two_pow_mul_add _ (quietBit_lt hm), if_pos (Nat.sub_one_lt_of_lt hm), Nat.testBit_two_pow_self]

/-! ## Packed elements (R32, R34) -/

/-- Element 0 is the low bits of an operand. -/
theorem elem_zero (t x : Nat) : elem t x 0 = x % 2 ^ elemW t := by
  rw [elem, bitsN, Nat.mul_zero, Nat.pow_zero, Nat.div_one]

/-- Settles O17: the codes are values of `canonNan`, their signs and quiet bits are those of every format with NaNs, and element 0 begins at bit 0. -/
theorem canonicalNaNsAndElementZero : Obligations.CanonicalNaNsAndElementZero := by
  have hasNan : ∀ f ∈ [fF64, fF32, fF16, fBf16, fE5m2, fE4m3], 0 < f.mb ∧ f.nan ≠ .none := by decide
  refine ⟨rfl, rfl, rfl, rfl, rfl, rfl, fun x => ⟨?f16, ?bf16, ?e4m3, ?e5m2, ?e2m1⟩, fun f hf => ?_⟩
  case f16 | bf16 | e4m3 | e5m2 | e2m1 => exact elem_zero _ x
  obtain ⟨hm, hn⟩ := hasNan f hf
  exact ⟨canonNan_lt_signBit hm, testBit_canonNan hm hn⟩

end Sys2Proof.Machine
end

section
/-!
PROOFS. Encoding and decoding (R57 to R68, R71): the fields of a word put together are the fields, the opcode names the row of the table, and what a
row's field selects is what the checks of the instruction fix in it.
-/
namespace Sys2Proof

/-! ## The fields of a word (R57, R61 to R67) -/

/-- A field is the value that has its bits. -/
theorem fld_eq_iff {w : W64} {lo n : Nat} {x : BitVec n} : fld w lo n = x ↔ ∀ i, i < n → w.getLsbD (lo + i) = x.getLsbD i := by
  rw [BitVec.eq_of_getLsbD_eq_iff]
  refine forall₂_congr fun i hi => ?_
  rw [fld, BitVec.getLsbD_extractLsb', decide_eq_true hi, Bool.true_and]

theorem ctlOf_encCtl (c : Ctl) (op : BitVec 8) (x : BitVec 36) : ctlOf (encCtl c op ++ x) = c := by
  obtain ⟨chain, stall, wait, setk⟩ := c
  simp only [ctlOf, encCtl, Ctl.mk.injEq, fld_eq_iff, BitVec.getLsbD_append]
  grind

theorem fmtNOP_encNOP (h : BitVec 28) (f : FmtNOP) : fmtNOP (h ++ encNOP f) = f := by
  obtain ⟨rest⟩ := f
  simp only [fmtNOP, encNOP, FmtNOP.mk.injEq, fld_eq_iff, BitVec.getLsbD_append]
  grind

theorem fmtPFX_encPFX (h : BitVec 28) (f : FmtPFX) : fmtPFX (h ++ encPFX f) = f := by
  obtain ⟨mp, mz, rnd, sat, cr, rest⟩ := f
  simp only [fmtPFX, encPFX, FmtPFX.mk.injEq, fld_eq_iff, BitVec.getLsbD_append]
  grind

theorem fmtV3_encV3 (h : BitVec 28) (f : FmtV3) : fmtV3 (h ++ encV3 f) = f := by
  obtain ⟨gd, d, a, b, t, m⟩ := f
  simp only [fmtV3, encV3, FmtV3.mk.injEq, fld_eq_iff, BitVec.getLsbD_append]
  grind

theorem fmtVI_encVI (h : BitVec 28) (f : FmtVI) : fmtVI (h ++ encVI f) = f := by
  obtain ⟨gd, d, a, imm⟩ := f
  simp only [fmtVI, encVI, FmtVI.mk.injEq, fld_eq_iff, BitVec.getLsbD_append]
  grind

theorem fmtS3_encS3 (h : BitVec 28) (f : FmtS3) : fmtS3 (h ++ encS3 f) = f := by
  obtain ⟨gd, d, a, b, fn⟩ := f
  simp only [fmtS3, encS3, FmtS3.mk.injEq, fld_eq_iff, BitVec.getLsbD_append]
  grind

theorem fmtSI_encSI (h : BitVec 28) (f : FmtSI) : fmtSI (h ++ encSI f) = f := by
  obtain ⟨gd, d, a, imm⟩ := f
  simp only [fmtSI, encSI, FmtSI.mk.injEq, fld_eq_iff, BitVec.getLsbD_append]
  grind

theorem fmtBR_encBR (h : BitVec 28) (f : FmtBR) : fmtBR (h ++ encBR f) = f := by
  obtain ⟨gd, off, fn⟩ := f
  simp only [fmtBR, encBR, FmtBR.mk.injEq, fld_eq_iff, BitVec.getLsbD_append]
  grind

theorem fmtVB_encVB (h : BitVec 28) (f : FmtVB) : fmtVB (h ++ encVB f) = f := by
  obtain ⟨gd, toff, roff⟩ := f
  simp only [fmtVB, encVB, FmtVB.mk.injEq, fld_eq_iff, BitVec.getLsbD_append]
  grind

theorem fmtM_encM (h : BitVec 28) (f : FmtM) : fmtM (h ++ encM f) = f := by
  obtain ⟨gd, data, addr, swz, sz, hint, off⟩ := f
  simp only [fmtM, encM, FmtM.mk.injEq, fld_eq_iff, BitVec.getLsbD_append]
  grind

theorem fmtMO_encMO (h : BitVec 28) (f : FmtMO) : fmtMO (h ++ encMO f) = f := by
  obtain ⟨gd, data, addr, scope, sz, ord, off⟩ := f
  simp only [fmtMO, encMO, FmtMO.mk.injEq, fld_eq_iff, BitVec.getLsbD_append]
  grind

theorem fmtX_encX (h : BitVec 28) (f : FmtX) : fmtX (h ++ encX f) = f := by
  obtain ⟨gd, d, addr, b, aop, scope, wide⟩ := f
  simp only [fmtX, encX, FmtX.mk.injEq, fld_eq_iff, BitVec.getLsbD_append]
  grind

theorem fmtA_encA (h : BitVec 28) (f : FmtA) : fmtA (h ++ encA f) = f := by
  obtain ⟨gd, fb, st, eng, batch, fn⟩ := f
  simp only [fmtA, encA, FmtA.mk.injEq, fld_eq_iff, BitVec.getLsbD_append]
  grind

/-! ## Formats: what the lower 36 bits hold, and how they are read -/

/-- An operand format of R61 to R67, which reads back what it puts together. -/
structure Format (F : Type) where
  enc : F → BitVec 36
  dec : W64 → F
  dec_enc : ∀ (h : BitVec 28) (f : F), dec (h ++ enc f) = f

namespace Format
def nop : Format FmtNOP := ⟨encNOP, fmtNOP, fmtNOP_encNOP⟩
def pfx : Format FmtPFX := ⟨encPFX, fmtPFX, fmtPFX_encPFX⟩
def v3 : Format FmtV3 := ⟨encV3, fmtV3, fmtV3_encV3⟩
def vi : Format FmtVI := ⟨encVI, fmtVI, fmtVI_encVI⟩
def s3 : Format FmtS3 := ⟨encS3, fmtS3, fmtS3_encS3⟩
def si : Format FmtSI := ⟨encSI, fmtSI, fmtSI_encSI⟩
def br : Format FmtBR := ⟨encBR, fmtBR, fmtBR_encBR⟩
def vb : Format FmtVB := ⟨encVB, fmtVB, fmtVB_encVB⟩
def m : Format FmtM := ⟨encM, fmtM, fmtM_encM⟩
def mo : Format FmtMO := ⟨encMO, fmtMO, fmtMO_encMO⟩
def x : Format FmtX := ⟨encX, fmtX, fmtX_encX⟩
def a : Format FmtA := ⟨encA, fmtA, fmtA_encA⟩
end Format

/-! ## The row of an opcode (R71) -/

/-- The row that the table holds for a word's opcode names its instruction. Opcode 0xFF has no row. -/
theorem parse_of_row {w : W64} {op : BitVec 8} {r : OpRow} (hop : fld w 36 8 = op) (hr : (opRows op.toNat w).lookup op.toNat = some r) :
    parse w = r.pick := by
  have legal : (op.toNat == 0xFF) = false := by
    by_contra h
    rw [Bool.not_eq_false, beq_iff_eq] at h
    rw [h] at hr
    exact Option.some_ne_none r hr.symm
  simp only [parse, hop, legal, hr, Bool.false_eq_true, if_false]

theorem parse_one {w : W64} {op : BitVec 8} {i : Instr} (hop : fld w 36 8 = op)
    (hr : (opRows op.toNat w).lookup op.toNat = some (.one i)) : parse w = .ok i := parse_of_row hop hr

/-- A sub-mode field selects its instruction among those of the opcode. -/
theorem parse_sub {w : W64} {op : BitVec 8} {i : Instr} {sel n : Nat} {rows : List (Nat × Instr)} (hop : fld w 36 8 = op)
    (hr : (opRows op.toNat w).lookup op.toNat = some (.sub sel rows)) (hsel : sel = n) (hn : rows.lookup n = some i) : parse w = .ok i := by
  rw [parse_of_row hop hr, OpRow.pick, hsel, hn]

/-! ## There and back -/

/-- An instruction has a word, and the word decodes to it. -/
def RoundTrip (i : Instr) : Prop := ∃ w, encode i = some w ∧ decode w = .ok i

/-- A well-formed instruction comes back where every word with its opcode that is well-formed as one of its kind is read as that kind. -/
theorem Format.roundTrip {F : Type} (T : Format F) {k : Ctl → F → Instr} {op : BitVec 8} {c : Ctl} {f : F}
    (henc : encode (k c f) = some (encCtl c op ++ T.enc f))
    (hparse : ∀ w, fld w 36 8 = op → WellFormed (k (ctlOf w) (T.dec w)) → parse w = .ok (k (ctlOf w) (T.dec w))) (h : WellFormed (k c f)) :
    RoundTrip (k c f) := by
  have hp := hparse (encCtl c op ++ T.enc f) (fld_opcode c op _)
  rw [ctlOf_encCtl, T.dec_enc] at hp
  exact ⟨_, henc, by simp only [decode, hp h, show encodingError (k c f) = none from h]⟩

/-- An instruction with a row of its own comes back. -/
theorem Format.roundTrip_one {F : Type} (T : Format F) {k : Ctl → F → Instr} {op : BitVec 8} {c : Ctl} {f : F}
    (henc : encode (k c f) = some (encCtl c op ++ T.enc f))
    (hrow : ∀ w, (opRows op.toNat w).lookup op.toNat = some (.one (k (ctlOf w) (T.dec w)))) (h : WellFormed (k c f)) : RoundTrip (k c f) :=
  T.roundTrip henc (fun w hop _ => parse_one hop (hrow w)) h

/-! ## What the checks fix in the fields that select (R71, R72) -/

theorem need_eq_none {ok : Bool} {e : DecodeError} : need ok e = none ↔ ok = true := by
  cases ok <;> simp [need]

theorem firstErr_eq_none {l : List (Option DecodeError)} : firstErr l = none ↔ ∀ x ∈ l, x = none := by
  induction l with
  | nil => simp [firstErr]
  | cons x l ih => cases x <;> simp [firstErr, ih]

theorem head_ok {x : Option DecodeError} {l : List (Option DecodeError)} (h : firstErr (x :: l) = none) : x = none :=
  firstErr_eq_none.mp h x List.mem_cons_self

theorem second_ok {x y : Option DecodeError} {l : List (Option DecodeError)} (h : firstErr (x :: y :: l) = none) : y = none :=
  firstErr_eq_none.mp h y (by simp)

/-- No check of the operands of a well-formed instruction fails. -/
theorem operands_ok {c : Ctl} {x : Option DecodeError} (h : firstErr [chkCtl c, x] = none) : x = none := second_ok h

/-- What is needed holds where no check fails. -/
theorem holds_of_need {l : List (Option DecodeError)} {ok : Bool} (e : DecodeError) (h : firstErr l = none) (hm : need ok e ∈ l) : ok = true :=
  need_eq_none.mp (firstErr_eq_none.mp h _ hm)

theorem a_of_chkVMovi {f : FmtVI} {n : Nat} (h : chkVMovi f n = none) : f.a.toNat = n := beq_iff_eq.mp (need_eq_none.mp h)

theorem m_of_chkLvote {f : FmtV3} {n : Nat} (h : chkLvote f n = none) : f.m.toNat = n :=
  beq_iff_eq.mp (holds_of_need .reservedCode h (by simp))

theorem ord_of_chkOrdered {f : FmtMO} {ords : List Nat} (h : chkOrdered f ords = none) : f.ord.toNat ∈ ords :=
  List.contains_iff_mem.mp (holds_of_need .reservedOrd h (by simp))

theorem hint_of_chkWaita {f : FmtM} {sp : Bool} (h : chkWaita f sp = none) : f.hint = if sp then 1 else 0 :=
  beq_iff_eq.mp (holds_of_need .reservedCode h (by simp))

theorem hint_of_chkMaint {f : FmtM} {n : Nat} (h : chkMaint f n = none) : f.hint.toNat = n :=
  beq_iff_eq.mp (holds_of_need .reservedCode h (by simp))

theorem hint_of_chkPhwait {f : FmtM} {n : Nat} (h : chkPhwait f n = none) : f.hint.toNat = n :=
  beq_iff_eq.mp (holds_of_need .reservedCode h (by simp))

theorem hint_of_chkDie {f : FmtM} {n : Nat} {dataUsed dataEven : Bool} (h : chkDie f n dataUsed dataEven = none) : f.hint.toNat = n :=
  beq_iff_eq.mp (holds_of_need .reservedCode h (by simp))

theorem aop_of_chkCas {f : FmtX} {code : Nat} (h : chkCas f code = none) : f.aop.toNat % 8 = code :=
  beq_iff_eq.mp (holds_of_need .reservedCode h (by simp))

theorem eng_of_chkA {f : FmtA} {n fn : Nat} {batch : Bool} (h : chkA f [n] fn batch = none) : f.eng.toNat = n :=
  List.mem_singleton.mp (List.contains_iff_mem.mp (holds_of_need .reservedEng h (by simp)))

/-! ## Fields that select by their lower bits -/

/-- The lower bits of a field are a field. -/
theorem toNat_fld_mod (w : W64) (lo : Nat) {k n : Nat} (h : k ≤ n) : (fld w lo n).toNat % 2 ^ k = (fld w lo k).toNat := by
  rw [fld, fld, BitVec.extractLsb'_toNat, BitVec.extractLsb'_toNat, Nat.mod_mod_of_dvd _ (Nat.pow_dvd_pow 2 h)]

theorem mode_fmtV3 (w : W64) : (fmtV3 w).mode = (fld w 0 3).toNat := toNat_fld_mod w 0 (by decide : 3 ≤ 4)

theorem m_mod_two_fmtV3 (w : W64) : (fmtV3 w).m.toNat % 2 = (fld w 0 1).toNat := toNat_fld_mod w 0 (by decide : 1 ≤ 4)

theorem aop_mod_fmtX (w : W64) : (fmtX w).aop.toNat % 8 = (fld w 4 3).toNat := toNat_fld_mod w 4 (by decide : 3 ≤ 4)

/-! ## Every instruction -/

/-- Plain opcodes have one instruction, the others one for each value of the field that selects, which the checks fix. Events have no word. -/
theorem roundTrip_of_wellFormed (i : Instr) (h : WellFormed i) : RoundTrip i := by
  cases i
  case nop c f => exact Format.roundTrip_one .nop rfl (fun _ => rfl) h
  case pfx c f => exact Format.roundTrip_one .pfx rfl (fun _ => rfl) h
  case vmov c f | vadd c f | vsub c f | vmul c f | vmulh c f | vmad c f | vdiv c f | vrem c f | vand c f | vor c f | vxor c f | vnot c f
      | vshl c f | vshr c f | vsar c f | vmin c f | vmax c f | vabs c f | vcmp c f | vsel c f | vpopc c f | vclz c f | vbrev c f
      | vbfx c f | vbfi c f | vprmt c f | vdot4 c f | pop c f | fadd c f | fsub c f | fmul c f | ffma c f | fmin c f | fmax c f
      | fminn c f | fmaxn c f | fcmp c f | fabs c f | fneg c f | frnd c f | fdot2 c f | fcvt c f | fpack c f | funpk c f | fscl c f
      | xrcp c f | xrsq c f | xsqrt c f | xexp2 c f | xlog2 c f | xsin c f | xcos c f | xtanh c f | xsig c f | lshf c f | lbc c f
      | lred c f | lscan c f | lmatch c f | lcmpr c f | xsend c f | xrecv c f | vfromg c f =>
    exact Format.roundTrip_one .v3 rfl (fun _ => rfl) h
  case gmov c f | gadd c f | gsub c f | gmul c f | gmulh c f | gdiv c f | grem c f | gand c f | gor c f | gxor c f | gnot c f | gshl c f
      | gshr c f | gsar c f | grot c f | gmin c f | gmax c f | gcmp c f | gsel c f | glea c f | gpopc c f | gclz c f | gbfx c f | gbfi c f
      | qop c f | sread c f | swrite c f | setfmt c f | getfmt c f | brx c f | ret c f | vexit c f | waitk c f | yield c f | exit c f
      | tail c f | bkpt c f =>
    exact Format.roundTrip_one .s3 rfl (fun _ => rfl) h
  case gmovi c f | gmovh c f | sleep c f | trap c f => exact Format.roundTrip_one .si rfl (fun _ => rfl) h
  case bra c f | call c f => exact Format.roundTrip_one .br rfl (fun _ => rfl) h
  case vbr c f | vbrk c f => exact Format.roundTrip_one .vb rfl (fun _ => rfl) h
  case ld c f | st c f | lds c f | sts c f | ldsc c f | stsc c f | prf c f | cwb c f | nbarv c f | nbsync c f | nbwait c f | tbinit c f
      | tbarv c f | tbexp c f | tbwait c f | tbinv c f | cbarv c f | cbsync c f | phadv c f | sealv c f | reuse c f | drop c f =>
    exact Format.roundTrip_one .m rfl (fun _ => rfl) h
  case stl c f | fence c f => exact Format.roundTrip_one .mo rfl (fun _ => rfl) h
  case atom c f | atomf c f | red c f | oapp c f | odecl c f | skred c f => exact Format.roundTrip_one .x rfl (fun _ => rfl) h
  case cpy c f | bseal c f | bwait c f | skinit c f | skadd c f | skmrg c f | skcmp c f | skq c f | skrank c f | sktop c f | skdc c f
      | rngv c f | rngu c f | sgumb c f | stopk c f | mxm c f | mxmt c f | mxmg c f | acld c f | acst c f | acz c f | cbld c f
      | qsplit c f | wrsig c f | mcst c f | cpyr c f | coll c f | clrun c f | launch c f | spapp c f | spacc c f | sprst c f =>
    exact Format.roundTrip_one .a rfl (fun _ => rfl) h
  case vmovi c f | vmoviHi c f | vmoviZ c f | vmoviRep c f =>
    exact Format.roundTrip .vi rfl (fun _ hop hw => parse_sub hop rfl (a_of_chkVMovi (operands_ok hw)) rfl) h
  case fclass c f | fclassKey c f =>
    exact Format.roundTrip .v3 rfl (fun _ hop hw => parse_sub hop rfl
      ((mode_fmtV3 _).symm.trans (beq_iff_eq.mp (need_eq_none.mp (second_ok (operands_ok hw))))) rfl) h
  case lvoteAll c f | lvoteAny c f | lvoteUni c f | lvoteBal c f =>
    exact Format.roundTrip .v3 rfl (fun _ hop hw => parse_sub hop rfl (m_of_chkLvote (operands_ok hw)) rfl) h
  case vtog c f | vtogFirst c f =>
    refine Format.roundTrip .v3 rfl (fun w hop hw => ?_) h
    have hm := beq_iff_eq.mp (need_eq_none.mp (second_ok (operands_ok hw)))
    exact parse_sub hop rfl ((m_mod_two_fmtV3 w).symm.trans (congrArg (fun m => m.toNat % 2) hm)) rfl
  case lda c f =>
    refine Format.roundTrip .mo rfl (fun w hop hw => ?_) h
    obtain h0 | h1 := List.mem_pair.mp (ord_of_chkOrdered (operands_ok hw))
    · exact parse_sub hop rfl h0 rfl
    · exact parse_sub hop rfl h1 rfl
  case ldaRng c f =>
    exact Format.roundTrip .mo rfl (fun _ hop hw => parse_sub hop rfl (List.mem_singleton.mp (ord_of_chkOrdered (head_ok (operands_ok hw)))) rfl) h
  case waita c f | waitaSp c f =>
    exact Format.roundTrip .m rfl (fun _ hop hw => parse_sub hop rfl (congrArg BitVec.toNat (hint_of_chkWaita (operands_ok hw))) rfl) h
  case cinvL1 c f | cinvAll c f =>
    exact Format.roundTrip .m rfl (fun _ hop hw => parse_sub hop rfl (hint_of_chkMaint (operands_ok hw)) rfl) h
  case phwaitNbr c f | phwaitAll c f =>
    exact Format.roundTrip .m rfl (fun _ hop hw => parse_sub hop rfl (hint_of_chkPhwait (operands_ok hw)) rfl) h
  case rdhintFloor c f | rdhintCeil c f | rdhintClear c f | rdhintQuery c f =>
    exact Format.roundTrip .m rfl (fun _ hop hw => parse_sub hop rfl (hint_of_chkDie (operands_ok hw)) rfl) h
  case cas c f | casXchg c f =>
    exact Format.roundTrip .x rfl (fun _ hop hw => parse_sub hop rfl ((aop_mod_fmtX _).symm.trans (aop_of_chkCas (operands_ok hw))) rfl) h
  case rngkSet c f | rngkSeek c f | lqrySys c f =>
    exact Format.roundTrip .a rfl (fun _ hop hw => parse_sub hop rfl (eng_of_chkA (operands_ok hw)) rfl) h
  case rngkRead c f | lqryQueue c f | spverExact c f | spverProb c f =>
    exact Format.roundTrip .a rfl (fun _ hop hw => parse_sub hop rfl (eng_of_chkA (head_ok (operands_ok hw))) rfl) h
  all_goals exact (Option.some_ne_none _ h).elim

/-- Settles O47: the word that the encoder gives reads back as the fields, and the row of its opcode as the instruction. -/
theorem decodeOfEncodeIsTheInstruction : Obligations.DecodeOfEncodeIsTheInstruction := roundTrip_of_wellFormed

/-! ## Words that are printed -/

/-- The word of a well-formed instruction decodes to it. -/
theorem decode_of_encode {i : Instr} {w : W64} (h : WellFormed i) (hw : encode i = some w) : decode w = .ok i := by
  obtain ⟨v, hv, hd⟩ := roundTrip_of_wellFormed i h
  rwa [Option.some.inj (hw.symm.trans hv)]

/-- Settles O48: the printed words are those of their instructions, and of the illegal ones each fails a check. -/
theorem printedWordsDecode : Obligations.PrintedWordsDecode := by
  have printed : ∀ x ∈ Claims.printedWords, encodingError x.2 = none ∧ encode x.2 = some x.1 := by decide
  refine ⟨fun x hx => decode_of_encode (printed x hx).1 (printed x hx).2, ?_⟩
  simp only [List.forall_mem_cons, List.not_mem_nil, false_imp_iff, implies_true, and_true]
  exact ⟨⟨.reservedOpcode, rfl⟩, ⟨.reservedSetk, rfl⟩, ⟨.reservedType, rfl⟩, ⟨.permanentlyIllegal, rfl⟩⟩

/-! ## The control fields of a decoded word (R57) -/

/-- The control fields that the instructions of a row carry. -/
def OpRow.ctls : OpRow → List Ctl
  | .one i => [ctlOfInstr i]
  | .sub _ rows => rows.map (fun x => ctlOfInstr x.2)

/-- The control fields of all instructions of a part of the table. -/
def rowCtls (rows : List (Nat × OpRow)) : List Ctl := rows.flatMap (fun e => e.2.ctls)

/-- Every instruction of the table carries the control fields of the word. -/
theorem rowCtls_opRows (op : Nat) (w : W64) : ∃ n, rowCtls (opRows op w) = List.replicate n (ctlOf w) := by
  unfold opRows
  split_ifs
  · exact ⟨47, rfl⟩
  · exact ⟨32, rfl⟩
  · exact ⟨28, rfl⟩
  · exact ⟨15, rfl⟩
  · exact ⟨21, rfl⟩
  · exact ⟨20, rfl⟩
  · exact ⟨8, rfl⟩
  · exact ⟨15, rfl⟩
  · exact ⟨21, rfl⟩

theorem mem_of_lookup {A : Type} {n : Nat} {x : A} {l : List (Nat × A)} (h : l.lookup n = some x) : (n, x) ∈ l := by
  obtain ⟨l₁, l₂, rfl, -⟩ := List.lookup_eq_some_iff.mp h
  simp

/-- A row picks an instruction that it holds. -/
theorem OpRow.ctlOfInstr_mem_ctls {r : OpRow} {i : Instr} (h : r.pick = .ok i) : ctlOfInstr i ∈ r.ctls := by
  cases r with
  | one j => exact List.mem_singleton.mpr (congrArg ctlOfInstr (Except.ok.inj h).symm)
  | sub sel rows =>
    rw [OpRow.pick] at h
    split at h
    · next j hl => exact List.mem_map.mpr ⟨_, mem_of_lookup hl, congrArg ctlOfInstr (Except.ok.inj h)⟩
    · cases h

theorem ctlOfInstr_of_parse {w : W64} {i : Instr} (h : parse w = .ok i) : ctlOfInstr i = ctlOf w := by
  obtain ⟨n, hn⟩ := rowCtls_opRows (fld w 36 8).toNat w
  rw [parse] at h
  split at h
  · cases h
  · split at h
    · next r hr =>
      have hmem : ctlOfInstr i ∈ rowCtls (opRows (fld w 36 8).toNat w) :=
        List.mem_flatMap.mpr ⟨_, mem_of_lookup hr, OpRow.ctlOfInstr_mem_ctls h⟩
      exact List.eq_of_mem_replicate (hn ▸ hmem)
    · cases h

theorem parse_of_decode {w : W64} {i : Instr} (h : decode w = .ok i) : parse w = .ok i := by
  rw [decode] at h
  split at h
  · cases h
  · next j hp =>
    split at h
    · rw [hp, Except.ok.inj h]
    · cases h

/-- A decoded word is chained by its highest bit (R55). -/
theorem c_ctlOfInstr_of_decode {w : W64} {i : Instr} (h : decode w = .ok i) : (ctlOfInstr i).c = 0 ↔ w.getLsbD 63 = false := by
  rw [ctlOfInstr_of_parse (parse_of_decode h), ctlOf, fld_eq_iff]
  simp

end Sys2Proof
end

section
/-!
PROOFS. Instructions with a q-guard (R61): a false guard leaves only the counter (R12), and the waiting ones hold their group (R104 to R106).
-/
namespace Sys2Proof.Machine

/-! ## Under a false guard (R61) -/

/-- A meaning that begins with the test of a q-guard. -/
def Guarded (c : Ctl) (gd : BitVec 4) (s : State) (o : Out) : Prop := ∃ srcs k, o = ctlOp c gd srcs s k

theorem guarded_ctlOp (c : Ctl) (gd : BitVec 4) (srcs : List Nat) (s : State) (k : State → Out) : Guarded c gd s (ctlOp c gd srcs s k) :=
  ⟨srcs, k, rfl⟩

theorem guarded_alu (c : Ctl) (f : FmtS3) (takesB wideD : Bool) (s : State) (r : Nat → Nat → Nat → Nat) :
    Guarded c f.gd s (alu c f takesB wideD s r) := guarded_ctlOp c f.gd _ s _

theorem guarded_aluVar (c : Ctl) (f : FmtS3) (s : State) (r : Nat → Nat → Nat → Nat) : Guarded c f.gd s (aluVar c f s r) :=
  guarded_ctlOp c f.gd _ s _

theorem guarded_engInstr (c : Ctl) (f : FmtA) (s : State) (k : State → List W32 → Out) : Guarded c f.gd s (engInstr c f s k) :=
  guarded_ctlOp c f.gd _ s _

theorem guarded_sumInstr (opc : Nat) (c : Ctl) (f : FmtA) (s : State) : Guarded c f.gd s (sumInstr opc c f s) := guarded_engInstr c f s _

theorem guarded_mxInstr (opc : Nat) (c : Ctl) (f : FmtA) (s : State) : Guarded c f.gd s (mxInstr opc c f s) := guarded_engInstr c f s _

theorem guarded_specInstr (c : Ctl) (f : FmtA) (opc eng : Nat) (s : State) : Guarded c f.gd s (specInstr c f opc eng s) :=
  guarded_engInstr c f s _

theorem guarded_rngk (c : Ctl) (f : FmtA) (seek : Bool) (s : State) : Guarded c f.gd s (rngk c f seek s) := guarded_engInstr c f s _

theorem guarded_rngWords (c : Ctl) (f : FmtA) (conv : W32 → W32) (s : State) : Guarded c f.gd s (rngWords c f conv s) :=
  guarded_engInstr c f s _

/-- Every instruction that has a q-guard begins with its test, by the shared operation that gives it its meaning. -/
theorem guarded_exec {i : Instr} {c : Ctl} {gd : BitVec 4} (hi : Claims.qGuarded i = some (c, gd)) (s : State) : Guarded c gd s (exec i s) := by
  cases i
  all_goals cases hi
  all_goals dsimp only [exec]
  case gmov | gadd | gsub | gmul | gmulh | gand | gor | gxor | gnot | gshl | gshr | gsar | grot | gmin | gmax | gpopc | gclz =>
    exact guarded_alu ..
  case gdiv | grem => exact guarded_aluVar ..
  case gmovi | gmovh | glea | gbfx | gbfi | gcmp | gsel | qop | sread | swrite | getfmt | setfmt | bra | brx | call | ret | vexit | waitk | yield
      | sleep | exit | tail | trap | bkpt | bseal | bwait | rngkRead =>
    exact guarded_ctlOp ..
  case cpy | acld | acst | acz | cbld | qsplit | wrsig | mcst | cpyr | coll | clrun | launch | lqryQueue | lqrySys => exact guarded_engInstr ..
  case skinit | skadd | skmrg | skcmp | skq | skrank | sktop | skdc | sgumb | stopk => exact guarded_sumInstr ..
  case mxm | mxmt | mxmg => exact guarded_mxInstr ..
  case spapp | spverExact | spverProb | spacc | sprst => exact guarded_specInstr ..
  case rngkSet | rngkSeek => exact guarded_rngk ..
  case rngv | rngu => exact guarded_rngWords ..

/-- Settles O10: what begins with the test of a guard that is false and not poisoned only idles. -/
theorem falseGuardLeavesOnlyTheCounter : Obligations.FalseGuardLeavesOnlyTheCounter := by
  intro s i c gd hi hfalse hclean
  obtain ⟨srcs, k, he⟩ := guarded_exec hi s
  exact he.trans (ctlOp_false hfalse (by simpa [qGuardBad] using hclean))

/-! ## Waiting (R67, R69, R104 to R106) -/

/-- The number that WAITK takes an immediate for. -/
theorem wrap_simm8 (b : BitVec 8) : wrap 32 (simm8 b) = (b.signExtend 32).toNat := by
  rw [wrap, simm8, ← BitVec.toNat_ofInt]
  rfl

/-- An instruction that has issued holds its group from its own address on. -/
theorem transfer_holdMe (s : State) (c : Ctl) (k : HoldKind) :
    (s.transfer c []).holdMe s.me.pc 0 k = Claims.held (s.transfer c []) s.me.pc 0 s.clock k := by
  rw [State.holdMe_eq_held, State.transfer, State.issue_clock]

/-- Settles O8: each by its one case. -/
theorem waitingInstructionsHoldTheGroup : Obligations.WaitingInstructionsHoldTheGroup := by
  refine fun s c => ⟨fun f => rfl, fun f => rfl, fun f h => ?waitk, fun f h => ?yield, fun f h => ?sleep⟩
  case waitk =>
    rw [exec_waitk, execWaitk, ctlOp_of_acts h, wrap_simm8]
    exact congrArg _ (transfer_holdMe s c _)
  case yield =>
    refine ⟨(s.part s.me.part).el.filter (· != s.cur), ?_, fun g => by simp⟩
    rw [exec_yield, execYield, ctlOp_of_acts h]
    exact congrArg _ (transfer_holdMe s c _)
  case sleep =>
    rw [exec_sleep, execSleep, ctlOp_of_acts h, transfer_holdMe]

end Sys2Proof.Machine
end

section
/-!
PROOFS. One step (R24, R29, R51 to R55): the packet that a group receives, the word and the plan that it gives, and how the step runs the plan.
-/
namespace Sys2Proof.Machine

/-! ## The packet that is received (R51, R54) -/

/-- A change of the packet alone: what the statements read of the group and the machine besides it stays. -/
theorem receive_frame (s : State) (g : Nat) (gr : Group) (a : Nat) :
    ∃ cs f, fetchPacket.receive s g gr a = { s with cores := cs }.modGrp g f ∧ ∀ x, (f x).pc = x.pc := by
  unfold fetchPacket.receive
  split
  · exact ⟨s.cores, _, rfl, fun _ => rfl⟩
  · dsimp only
    obtain ⟨cs, h⟩ := tlbFill_eq s gr.ctx (s.coreOf g) a
    rw [h]
    exact ⟨cs, _, rfl, fun _ => rfl⟩

/-- What stands at the place of a packet for the group: memory now, or as the kernel's start left it. -/
theorem receive_packet {s : State} {g a pa : Nat} {gr : Group} {e : TlbEnt} (h : translate s gr.ctx (s.coreOf g) .fetch a = .ok (e, pa)) :
    ∃ from', (from' = s ∨ ∃ x, mget? s.starts (s.blk (blockOf g)).kernel = some x ∧ from' = s.atStart x) ∧
      ((fetchPacket.receive s g gr a).grp g).packet = some (a, physRead from' e.pol pa 32 e.key) := by
  simp only [fetchPacket.receive, h, State.modGrp_grp_same]
  refine ⟨_, ?_, rfl⟩
  cases hs : mget? s.starts (s.blk (blockOf g)).kernel with
  | none => exact .inl rfl
  | some x =>
    by_cases hold : Config.oldPacket (s.blk (blockOf g)).kernel g gr.fetches a = true
    · exact .inr ⟨x, rfl, if_pos hold⟩
    · exact .inl (if_neg hold)

theorem fetchPacket_of_has {s : State} {g : Nat} {r : List Byte × Bool} (h : (s.grp g).packet = some (packetOf (s.grp g).pc, r)) :
    fetchPacket s g = s := by
  simp [fetchPacket, h]

theorem fetchPacket_of_lacks {s : State} {g : Nat} (h : ∀ r, (s.grp g).packet ≠ some (packetOf (s.grp g).pc, r)) :
    fetchPacket s g = fetchPacket.receive s g (s.grp g) (packetOf (s.grp g).pc) := by
  unfold fetchPacket
  dsimp only
  split
  · next b r hp =>
    exact if_neg fun hb => h r (by rw [hp, hb])
  · rfl

/-- Receiving leaves the PC, memory and the number of the group. -/
theorem fetchPacket_frame (s : State) (g : Nat) :
    ((fetchPacket s g).grp g).pc = (s.grp g).pc ∧ (fetchPacket s g).mem = s.mem ∧ (fetchPacket s g).cur = s.cur := by
  by_cases h : ∃ r, (s.grp g).packet = some (packetOf (s.grp g).pc, r)
  · obtain ⟨r, hr⟩ := h
    rw [fetchPacket_of_has hr]
    exact ⟨rfl, rfl, rfl⟩
  · obtain ⟨cs, f, hf, hpc⟩ := receive_frame s g (s.grp g) (packetOf (s.grp g).pc)
    rw [fetchPacket_of_lacks (not_exists.mp h), hf]
    exact ⟨by rw [State.modGrp_grp_same, hpc]; rfl, rfl, rfl⟩

theorem received_fetchPacket (s : State) (g : Nat) : Claims.Received s (fetchPacket s g) g := by
  obtain ⟨hpc, hmem, -⟩ := fetchPacket_frame s g
  refine ⟨rfl, hpc, hmem, fun ⟨r, hr⟩ => fetchPacket_of_has hr, fun e pa hlacks ht => ?_⟩
  rw [fetchPacket_of_lacks hlacks]
  exact receive_packet ht

/-! ## The word and the plan (R53, R55) -/

theorem fetchWord_of_fetched {t : State} {g : Nat} {a w : W64} (h : Claims.Fetched t g a w) : fetchWord t g a = .ok w := by
  obtain ⟨bs, ⟨⟨e, he⟩, hp⟩, rfl⟩ := h
  simp [fetchWord, he, hp, packetOf]

theorem fetchWord_of_untranslated {t : State} {g : Nat} {a : W64} {r : XFault}
    (h : translate t (t.grp g).ctx (t.coreOf g) .fetch a.toNat = .error r) : fetchWord t g a = .error ⟨r.code, r.flags, a.toNat, 0, 0⟩ := by
  simp [fetchWord, h]

theorem fetchWord_of_bad {t : State} {g : Nat} {a : W64} {e : TlbEnt × Nat} {bs : List Byte}
    (h : translate t (t.grp g).ctx (t.coreOf g) .fetch a.toNat = .ok e) (hp : (t.grp g).packet = some (a.toNat / 32 * 32, bs, true)) :
    fetchWord t g a = .error ⟨0x16, 0, a.toNat, 0, 0⟩ := by
  simp [fetchWord, h, hp, packetOf, fcUncorrectable]

section
variable {t : State} {g : Nat} {w v : W64} {i j : Instr}

theorem planOf_of_failed {f : FaultInfo} (h : fetchWord t g (t.grp g).pc = .error f) : planOf t g = .fault f [] := by
  simp [planOf, h]

theorem planOf_of_illegal {x : DecodeError} (h : fetchWord t g (t.grp g).pc = .ok w) (hw : decode w = .error x) :
    planOf t g = .fault (fi fcIllegal) [ctlOf w] := by
  simp [planOf, h, hw]

theorem planOf_of_single (h : fetchWord t g (t.grp g).pc = .ok w) (hw : decode w = .ok i) (hc : w.getLsbD 63 = false) :
    planOf t g = .one i := by
  simp [planOf, h, hw, (c_ctlOfInstr_of_decode hw).mpr hc]

/-- The word at the PC has its chain bit (R55). -/
structure BeginsChain (t : State) (g : Nat) (w : W64) (i : Instr) : Prop where
  word : fetchWord t g (t.grp g).pc = .ok w
  decodes : decode w = .ok i
  chained : (ctlOfInstr i).c ≠ 0

theorem beginsChain_of_bit (h : fetchWord t g (t.grp g).pc = .ok w) (hw : decode w = .ok i) (hc : w.getLsbD 63 = true) : BeginsChain t g w i :=
  ⟨h, hw, fun h0 => Bool.false_ne_true (((c_ctlOfInstr_of_decode hw).mp h0).symm.trans hc)⟩

variable (h : BeginsChain t g w i)
include h

theorem planOf_of_last (hl : (t.grp g).pc.toNat / 8 % 4 = 3) : planOf t g = .fault (fi fcIllegal) [ctlOfInstr i] := by
  simp only [planOf, h.word, h.decodes, if_neg h.chained, if_pos hl]

theorem planOf_of_second_illegal {x : DecodeError} (hl : (t.grp g).pc.toNat / 8 % 4 ≠ 3) (hv : fetchWord t g ((t.grp g).pc + 8) = .ok v)
    (hx : decode v = .error x) : planOf t g = .fault (fi fcIllegal) [ctlOfInstr i, ctlOf v] := by
  simp only [planOf, h.word, h.decodes, if_neg h.chained, if_neg hl, hv, hx]

theorem planOf_of_two (hl : (t.grp g).pc.toNat / 8 % 4 ≠ 3) (hv : fetchWord t g ((t.grp g).pc + 8) = .ok v) (hj : decode v = .ok j) :
    planOf t g = if chainLegal ((t.grp g).pc.toNat / 8 % 4) i j then .pair i j else .fault (fi fcIllegal) [ctlOfInstr i, ctlOfInstr j] := by
  simp only [planOf, h.word, h.decodes, if_neg h.chained, if_neg hl, hv, hj]

end

/-! ## How a step runs a plan (R24, R29, R53) -/

section
variable {s : State} {g : Nat} {rest : List Nat}

/-- The state in which a group whose turn it is has received its packet. -/
def atTurn (s : State) (g : Nat) (rest : List Nat) : State := fetchPacket { s with turn := rest, cur := g, probe := {} } g

theorem atTurn_cur (s : State) (g : Nat) (rest : List Nat) : (atTurn s g rest).cur = g := (fetchPacket_frame _ g).2.2

variable (hs : s.turn = g :: rest)
include hs

theorem step_of_fault {f : FaultInfo} {cs : List Ctl} (h : planOf (atTurn s g rest) g = .fault f cs) :
    step s = .next (deliver (atTurn s g rest) g f) := by
  rw [atTurn] at h
  simp [step, nextMove, hs, issueMove, h, atTurn]

theorem step_of_one {i : Instr} (h : planOf (atTurn s g rest) g = .one i) : step s = exec i (atTurn s g rest) := by
  rw [atTurn] at h
  simp [step, nextMove, hs, issueMove, h, atTurn]

theorem step_of_pair {i j : Instr} {u y : State} (h : planOf (atTurn s g rest) g = .pair i j)
    (hi : exec i (probing (atTurn s g rest)) = .next u) (hj : exec j (secondWord (atTurn s g rest) u) = .next y) :
    step s = .next (endPair (atTurn s g rest) y) := by
  rw [atTurn] at h hi hj ⊢
  simp [step, nextMove, hs, issueMove, h, hi, hj]

end

/-! ## A group that a partner's fault reaches (R29, R138) -/

theorem setBar_cur (s : State) (g : Nat) (cluster : Bool) (id : Nat) (b : NBar) : (setBar s g cluster id b).cur = s.cur := by
  unfold setBar
  split
  · split <;> rfl
  · rfl

theorem takeBack_cur (s : State) (g : Nat) (k : HoldKind) : (takeBack s g k).cur = s.cur := by
  unfold takeBack
  dsimp only
  split
  case h_1 => exact setBar_cur ..
  case h_2 =>
    split
    · split <;> rfl
    · rfl
  case h_3 | h_4 | h_5 => split <;> rfl
  case h_6 | h_7 | h_8 => rfl

theorem stopBlock_cur (s : State) (b code : Nat) : (stopBlock s b code).cur = s.cur := by
  unfold stopBlock
  split
  · rfl
  · exact (Keeps.foldl keeps_stopOne _ s).cur

theorem terminate_cur (s : State) (g : Nat) (f : FaultInfo) : (terminate s g f).cur = s.cur :=
  (stopBlock_cur _ _ _).trans (keeps_logPut s _ _ _).cur

theorem deliverHard_cur (s : State) (g : Nat) (f : FaultInfo) (record : Bool) : (deliverHard s g f record).cur = s.cur := by
  unfold deliverHard
  dsimp only
  split
  · split
    · exact terminate_cur s g f
    · cases record
      · rfl
      · exact (keeps_logPut s _ _ _).cur
  · split
    · exact terminate_cur s g f
    · exact stopBlock_cur s _ _

/-- A fault that is delivered leaves the turn with its group. -/
theorem deliver_cur (s : State) (g : Nat) (f : FaultInfo) : (deliver s g f).cur = s.cur := by
  have logged := (keeps_logTry s (s.grp g).ctx (s.coreOf g) (groupRec s g f true)).cur
  unfold deliver
  dsimp only
  split
  · split
    · next h => rwa [h] at logged
    · next h => rwa [h] at logged
    · next h =>
      rw [h] at logged
      exact (deliverHard_cur _ _ _ _).trans ((keeps_logDrop _ _ _).cur.trans logged)
  · exact deliverHard_cur s g f true

theorem faultPartner_cur (s : State) (b slot : Nat) : (faultPartner s b slot).cur = s.cur := by
  unfold faultPartner
  split
  · rfl
  · next w rest _ =>
    have taken := foldl_keeps State.cur (fun s (h : Hold) => takeBack_cur s w.g h.kind) ((s.modSlot b slot (fun _ => rest)).grp w.g).holds
      (s.modSlot b slot (fun _ => rest))
    dsimp only
    split
    · exact taken
    · exact (deliver_cur _ _ _).trans taken

/-! ## The two words of a chain and their end (R24, R29) -/

section
variable {t u y : State} {g : Nat} (ht : t.cur = g)
include ht

/-- Where the second word stands, as the statement writes it. -/
theorem secondWord_eq : secondWord t u = if u.probe.raised = none then u else u.modGrp g (fun x => { x with pc := (t.grp g).pc + 8 }) := by
  subst ht
  cases hr : u.probe.raised <;> simp [secondWord, hr]

theorem endPair_of_effect (hr : y.probe.raised = none) (hh : (y.grp g).hold = none) : endPair t y = { y with probe := {} } := by
  simp [endPair, ht, hr, hh]

theorem endPair_of_held (hr : y.probe.raised = none) (hh : (y.grp g).hold ≠ none) :
    endPair t y = { y.modGrp g (fun x => { x with chain := some ((t.grp g).pc, t.nextId) }) with probe := {} } := by
  simp [endPair, ht, hr, Option.isSome_iff_ne_none.mpr hh]

theorem endPair_of_fault {r : FaultInfo} (hr : y.probe.raised = some r) (hp : y.probe.partner = none) : endPair t y = deliver t g r := by
  simp [endPair, ht, hr, hp]

theorem endPair_of_partner {r : FaultInfo} {p : Nat × Nat} (hr : y.probe.raised = some r) (hp : y.probe.partner = some p) :
    endPair t y = deliver (faultPartner t p.1 p.2) g r := by
  simp [endPair, faultPartner_cur, ht, hr, hp]

end

/-! ## The three sources of a step -/

/-- What a step does with a chain of two words that decode (R24, R29, R55). -/
theorem step_of_chain {s : State} {g : Nat} {rest : List Nat} {w v : W64} {i j : Instr} (hs : s.turn = g :: rest)
    (h : BeginsChain (atTurn s g rest) g w i) (hl : ((atTurn s g rest).grp g).pc.toNat / 8 % 4 ≠ 3)
    (hv : fetchWord (atTurn s g rest) g (((atTurn s g rest).grp g).pc + 8) = .ok v) (hj : decode v = .ok j) :
    let t := atTurn s g rest
    let pc := (t.grp g).pc
    (chainLegal (pc.toNat / 8 % 4) i j = false → step s = .next (deliver t g (fi 0x01))) ∧
    ∀ u y, chainLegal (pc.toNat / 8 % 4) i j = true → exec i { t with probe := { on := true } } = .next u →
      exec j (if u.probe.raised = none then u else u.modGrp g (fun x => { x with pc := pc + 8 })) = .next y →
      (y.probe.raised = none → (y.grp g).hold = none → step s = .next { y with probe := {} }) ∧
      (y.probe.raised = none → (y.grp g).hold ≠ none →
        step s = .next { y.modGrp g (fun x => { x with chain := some (pc, t.nextId) }) with probe := {} }) ∧
      (∀ r, y.probe.raised = some r → y.probe.partner = none → step s = .next (deliver t g r)) ∧
      (∀ r p, y.probe.raised = some r → y.probe.partner = some p → step s = .next (deliver (faultPartner t p.1 p.2) g r)) := by
  have plan := planOf_of_two h hl hv hj
  have cur := atTurn_cur s g rest
  refine ⟨fun hn => step_of_fault hs (plan.trans (if_neg (by simp [hn]))), fun u y hlegal hi hy => ?_⟩
  have run := step_of_pair hs (plan.trans (if_pos hlegal)) hi (by rwa [secondWord_eq cur])
  exact ⟨fun hr hh => run.trans (congrArg _ (endPair_of_effect cur hr hh)), fun hr hh => run.trans (congrArg _ (endPair_of_held cur hr hh)),
    fun r hr hp => run.trans (congrArg _ (endPair_of_fault cur hr hp)), fun r p hr hp => run.trans (congrArg _ (endPair_of_partner cur hr hp))⟩

/-- Settles O46: a turn by the plan of its group, and with no turn by what comes first. -/
theorem stepRunsTheDecodedInstruction : Obligations.StepRunsTheDecodedInstruction := by
  refine ⟨fun s g rest hs => ⟨atTurn s g rest, received_fetchPacket _ g, ?single, ?illegal, ?chain, ?untranslated, ?bad⟩,
    fun s e rest ht hi => ?outside, fun s ht hi => ?own⟩
  case single => exact fun w i hw hd hc => step_of_one hs (planOf_of_single (fetchWord_of_fetched hw) hd hc)
  case illegal => exact fun w x hw hx => step_of_fault hs (planOf_of_illegal (fetchWord_of_fetched hw) hx)
  case chain =>
    intro w i hw hd hc
    have begins := beginsChain_of_bit (fetchWord_of_fetched hw) hd hc
    exact ⟨fun hl => step_of_fault hs (planOf_of_last begins hl),
      fun v x hl hv hx => step_of_fault hs (planOf_of_second_illegal begins hl (fetchWord_of_fetched hv) hx),
      fun v j hl hv hj => step_of_chain hs begins hl (fetchWord_of_fetched hv) hj⟩
  case untranslated => exact fun r hr => step_of_fault hs (planOf_of_failed (fetchWord_of_untranslated hr))
  case bad => exact fun e bs he hp => step_of_fault hs (planOf_of_failed (fetchWord_of_bad he hp))
  case outside => simp [step, nextMove, ht, hi]
  case own => simp [step, nextMove, ht, hi]

end Sys2Proof.Machine
end

section
/-!
PROOFS. Integer results as words (R32, R89, R92, R93): the numbers that the model computes from two words are the operations on words that the rules
name, at every width.
-/
namespace Sys2Proof.Machine

/-! ## Words read and made -/

theorem wrap_eq (w : Nat) (x : Int) : wrap w x = (BitVec.ofInt w x).toNat := (BitVec.toNat_ofInt x).symm

theorem readInt_toNat {w : Nat} (hw : 0 < w) (sg : Bool) (x : BitVec w) : readInt w sg x.toNat = Claims.num sg x := by
  rw [readInt, Claims.num, sgn_toNat hw, Nat.mod_eq_of_lt x.isLt]

theorem bitsN_toNat {w : Nat} (x : BitVec w) (lo n : Nat) : bitsN x.toNat lo n = (x.extractLsb' lo n).toNat := by
  rw [bitsN_eq x.isLt, BitVec.ofNat_toNat, BitVec.setWidth_eq]

theorem toNat_mod_eq_zero {w : Nat} (x : BitVec w) : x.toNat % 2 ^ w = 0 ↔ x = 0 := by
  rw [Nat.mod_eq_of_lt x.isLt, ← BitVec.toNat_inj]
  rfl

/-! ## Operations on words (R89) -/

/-- The numbers that `r` computes are those of the words that `d` gives. -/
def Computes (r : Nat → Nat → Nat → Nat) (d : (w : Nat) → BitVec w → BitVec w → BitVec w) : Prop :=
  ∀ w, 0 < w → ∀ a b : BitVec w, r w a.toNat b.toNat = (d w a b).toNat

theorem computes_fst : Computes (fun _ a _ => a) (fun _ a _ => a) := fun _ _ _ _ => rfl

theorem computes_add : Computes (fun w a b => (a + b) % 2 ^ w) (fun _ a b => a + b) := fun _ _ a b => (BitVec.toNat_add a b).symm

theorem computes_mul : Computes (fun w a b => a * b % 2 ^ w) (fun _ a b => a * b) := fun _ _ a b => (BitVec.toNat_mul a b).symm

theorem computes_and : Computes (fun _ a b => a &&& b) (fun _ a b => a &&& b) := fun _ _ a b => (BitVec.toNat_and a b).symm

theorem computes_or : Computes (fun _ a b => a ||| b) (fun _ a b => a ||| b) := fun _ _ a b => (BitVec.toNat_or a b).symm

theorem computes_xor : Computes (fun _ a b => a ^^^ b) (fun _ a b => a ^^^ b) := fun _ _ a b => (BitVec.toNat_xor a b).symm

theorem computes_not : Computes (fun w a _ => 2 ^ w - 1 - a) (fun _ a _ => ~~~a) := fun _ _ _ _ => BitVec.toNat_not.symm

theorem computes_sub : Computes (fun w a b => (a + 2 ^ w - b) % 2 ^ w) (fun _ a b => a - b) := by
  intro w _ a b
  have := b.isLt
  exact (congrArg (· % 2 ^ w) (by omega)).trans (BitVec.toNat_sub a b).symm

theorem computes_mulh (sg : Bool) : Computes (fun w a b => wrap w (readInt w sg a * readInt w sg b / (2 ^ w : Nat)))
    (fun w a b => BitVec.ofInt w (Claims.num sg a * Claims.num sg b / (2 ^ w : Nat))) := by
  intro w hw a b
  simp only [readInt_toNat hw, wrap_eq]

theorem computes_shlN : Computes shlN (fun w a b => a <<< (b.toNat % w)) := by
  intro w _ a b
  rw [shlN, BitVec.toNat_shiftLeft, Nat.shiftLeft_eq]

theorem computes_shrN : Computes shrN (fun w a b => a >>> (b.toNat % w)) := by
  intro w _ a b
  rw [shrN, BitVec.toNat_ushiftRight, Nat.shiftRight_eq_div_pow, Nat.mod_eq_of_lt a.isLt]

theorem computes_sarN : Computes sarN (fun w a b => a.sshiftRight (b.toNat % w)) := by
  intro w hw a b
  rw [sarN, sgn_toNat hw, wrap_eq, ← Int.shiftRight_eq_div_pow, ← BitVec.toInt_sshiftRight, BitVec.ofInt_toInt]

/-- A rotation is a window on the word written twice. -/
theorem computes_rotN : Computes rotN (fun w a b => (a ++ a).extractLsb' (w - b.toNat % w) w) := by
  intro w hw a b
  have hk : b.toNat % w < w := Nat.mod_lt _ hw
  have factors : 2 ^ w = 2 ^ (w - b.toNat % w) * 2 ^ (b.toNat % w) := by rw [← Nat.pow_add, Nat.sub_add_cancel hk.le]
  have window : (a.toNat * 2 ^ w + a.toNat) / 2 ^ (w - b.toNat % w) = a.toNat * 2 ^ (b.toNat % w) + a.toNat / 2 ^ (w - b.toNat % w) := by
    rw [factors, Nat.mul_left_comm, Nat.mul_add_div (Nat.two_pow_pos _)]
  rw [rotN, BitVec.extractLsb'_toNat, toNat_append_add, Nat.shiftRight_eq_div_pow, window, Nat.mod_eq_of_lt a.isLt]

/-- Toward zero, the least number divided by -1 leaves the range; modulo 2^w the quotient is the dividend again. -/
theorem wrap_tdiv_of_overflow {w : Nat} (hw : 0 < w) {a b : BitVec w} (ha : a.toInt = -(2 ^ (w - 1) : Nat)) (hb : b.toInt = -1) :
    wrap w (a.toInt.tdiv b.toInt) = a.toNat := by
  have double : 2 ^ w = 2 * 2 ^ (w - 1) := by rw [← Nat.pow_succ', Nat.succ_eq_add_one, Nat.sub_add_cancel hw]
  have quotient : a.toInt.tdiv b.toInt = a.toInt + (2 ^ w : Nat) := by
    rw [hb, Int.tdiv_neg, Int.tdiv_one, ha, double]
    omega
  rw [quotient, wrap, Int.add_emod_right, ← wrap, wrap_eq, BitVec.ofInt_toInt]

theorem computes_divInt (sg : Bool) : Computes (fun w a b => divInt w sg a b) (fun w a b =>
    if b = 0 then BitVec.allOnes w else if sg && a.toInt == -(2 ^ (w - 1) : Nat) && b.toInt == -1 then a
    else BitVec.ofInt w ((Claims.num sg a).tdiv (Claims.num sg b))) := by
  intro w hw a b
  simp only [divInt, readInt_toNat hw, toNat_mod_eq_zero]
  split
  · exact BitVec.toNat_allOnes.symm
  · split
    · next h =>
      simp only [Bool.and_eq_true, beq_iff_eq] at h
      obtain ⟨⟨rfl, ha⟩, hb⟩ := h
      exact wrap_tdiv_of_overflow hw ha hb
    · exact wrap_eq w _

theorem computes_remInt (sg : Bool) : Computes (fun w a b => remInt w sg a b) (fun w a b =>
    if b = 0 then a else if sg && a.toInt == -(2 ^ (w - 1) : Nat) && b.toInt == -1 then 0
    else BitVec.ofInt w (Claims.num sg a - Claims.num sg b * (Claims.num sg a).tdiv (Claims.num sg b))) := by
  intro w hw a b
  simp only [remInt, readInt_toNat hw, toNat_mod_eq_zero, ← Int.tmod_def]
  split
  · exact Nat.mod_eq_of_lt a.isLt
  · split
    · next h =>
      simp only [Bool.and_eq_true, beq_iff_eq] at h
      obtain ⟨⟨rfl, -⟩, hb⟩ := h
      simp [Claims.num, hb, wrap]
    · exact wrap_eq w _

theorem computes_min (sg : Bool) : Computes (fun w a b => if readInt w sg b < readInt w sg a then b else a)
    (fun _ a b => if Claims.num sg a ≤ Claims.num sg b then a else b) := by
  intro w hw a b
  simp only [readInt_toNat hw, ← Int.not_le, ite_not, apply_ite BitVec.toNat]

theorem computes_max (sg : Bool) : Computes (fun w a b => if readInt w sg a < readInt w sg b then b else a)
    (fun _ a b => if Claims.num sg a ≥ Claims.num sg b then a else b) := by
  intro w hw a b
  simp only [readInt_toNat hw, ← Int.not_le, ite_not, apply_ite BitVec.toNat, ge_iff_le]

theorem popCount_eq_countP (n x : Nat) : popCount n x = (List.range n).countP x.testBit := by
  induction n generalizing x with
  | zero => rfl
  | succ n ih =>
    have later : x.testBit ∘ Nat.succ = (x / 2).testBit := funext fun i => Nat.testBit_succ x i
    rw [popCount, ih, List.range_succ_eq_map, List.countP_cons, List.countP_map, later, Nat.testBit_zero, Nat.add_comm]
    rcases Nat.mod_two_eq_zero_or_one x with h | h <;> simp [h]

/-- A count below a width is a word of that width. -/
theorem toNat_ofNat_countP (w : Nat) (p : Nat → Bool) : (BitVec.ofNat w ((List.range w).countP p)).toNat = (List.range w).countP p :=
  Nat.mod_eq_of_lt ((List.countP_le_length.trans_eq List.length_range).trans_lt Nat.lt_two_pow_self)

theorem computes_popCount : Computes (fun w a _ => popCount w a)
    (fun w a _ => BitVec.ofNat w ((List.range w).countP (fun i => a.getLsbD i))) := by
  intro w _ a b
  exact (popCount_eq_countP w a.toNat).trans (toNat_ofNat_countP w _).symm

theorem countP_range_ge (m n : Nat) : (List.range n).countP (fun i => decide (m ≤ i)) = n - m := by
  induction n with
  | zero => simp
  | succ n ih =>
    rw [List.range_succ, List.countP_append, ih, List.countP_singleton]
    simp only [decide_eq_true_eq]
    split <;> omega

/-- The shifts that leave nothing of a word are those past its highest bit. -/
theorem computes_clz : Computes (fun w a _ => clz w a)
    (fun w a _ => BitVec.ofNat w ((List.range w).countP (fun i => a >>> i == 0))) := by
  intro w hw a b
  rw [toNat_ofNat_countP]
  by_cases h : a.toNat = 0
  · obtain rfl : a = 0#w := BitVec.eq_of_toNat_eq h
    simp [clz]
  · have gone (i : Nat) : (a >>> i == 0) = decide (a.toNat.log2 + 1 ≤ i) := by
      rw [Bool.eq_iff_iff, beq_iff_eq, decide_eq_true_iff, Nat.succ_le_iff, Nat.log2_lt h, ← BitVec.toNat_inj, BitVec.toNat_ushiftRight,
        Nat.shiftRight_eq_div_pow]
      exact Nat.div_eq_zero_iff_lt (Nat.two_pow_pos i)
    simp only [gone, countP_range_ge, clz, if_neg h]
    omega

end Sys2Proof.Machine
end

section
/-!
PROOFS. Bit fields of words (R92): what GBFX takes from a word and what GBFI puts into one.
-/
namespace Sys2Proof.Machine

/-- There is no field where the position is past the word or the length is 0. -/
theorem noField_iff (w : Nat) (ctl : W32) :
    (decide (bitsN ctl.toNat 0 8 ≥ w) || decide (bitsN ctl.toNat 8 8 = 0)) = true ↔ (ctl.extractLsb' 0 8).toNat ≥ w ∨ ctl.extractLsb' 8 8 = 0 := by
  rw [Bool.or_eq_true, decide_eq_true_iff, decide_eq_true_iff, bitsN_toNat, bitsN_toNat, ← BitVec.toNat_inj]
  rfl

theorem min_bitsN (w : Nat) (ctl : W32) : min (bitsN ctl.toNat 8 8) (w - bitsN ctl.toNat 0 8) = Claims.fieldLen w ctl := by
  rw [bitsN_toNat, bitsN_toNat, Claims.fieldLen]

theorem bfx_toNat {w : Nat} (sg : Bool) (a : BitVec w) (ctl : W32) : bfx w sg a.toNat ctl.toNat = (Claims.extractField sg a ctl).toNat := by
  simp only [bfx, noField_iff, Claims.extractField]
  split
  · rfl
  · next h =>
    obtain ⟨hpos, hlen⟩ := not_or.mp h
    have len_pos : 0 < Claims.fieldLen w ctl := by
      have : (ctl.extractLsb' 8 8).toNat ≠ 0 := fun e => hlen (BitVec.eq_of_toNat_eq e)
      rw [Claims.fieldLen]
      omega
    have len_le : Claims.fieldLen w ctl ≤ w := (min_le_right _ _).trans (Nat.sub_le _ _)
    simp only [min_bitsN]
    simp only [bitsN_toNat, sgn_toNat len_pos, wrap_eq]
    cases sg
    · exact (BitVec.toNat_setWidth_of_le len_le).symm
    · rfl

/-- A field of a number replaced, bit by bit. -/
theorem testBit_replaceField (d a pos len i : Nat) :
    (d - bitsN d pos len * 2 ^ pos + a % 2 ^ len * 2 ^ pos).testBit i = if pos ≤ i ∧ i < pos + len then a.testBit (i - pos) else d.testBit i := by
  have above : d / 2 ^ pos = 2 ^ len * (d / 2 ^ pos / 2 ^ len) + bitsN d pos len := (Nat.div_add_mod _ _).symm
  have parts : d - bitsN d pos len * 2 ^ pos + a % 2 ^ len * 2 ^ pos = 2 ^ pos * (2 ^ len * (d / 2 ^ pos / 2 ^ len) + a % 2 ^ len) + d % 2 ^ pos := by
    have whole : d = 2 ^ pos * (2 ^ len * (d / 2 ^ pos / 2 ^ len) + bitsN d pos len) + d % 2 ^ pos := by
      rw [← above, Nat.div_add_mod]
    rw [Nat.mul_add] at whole ⊢
    rw [Nat.mul_comm (bitsN _ _ _), Nat.mul_comm (a % _)]
    omega
  rw [parts, Nat.testBit_two_pow_mul_add _ (Nat.mod_lt _ (Nat.two_pow_pos pos)), Nat.testBit_two_pow_mul_add _ (Nat.mod_lt _ (Nat.two_pow_pos len))]
  simp only [Nat.testBit_mod_two_pow, Nat.testBit_div_two_pow]
  by_cases below : i < pos
  · simp [below, Nat.not_le.mpr below]
  · by_cases inside : i - pos < len
    · simp [below, inside, show pos ≤ i ∧ i < pos + len by omega]
    · simp [below, inside, show ¬(pos ≤ i ∧ i < pos + len) by omega, show i - pos - len + len + pos = i by omega]

theorem getLsbD_fieldMask (w : Nat) (ctl : W32) (i : Nat) : (Claims.fieldMask w ctl).getLsbD i =
    (decide (i < w) && decide ((ctl.extractLsb' 0 8).toNat ≤ i ∧ i < (ctl.extractLsb' 0 8).toNat + Claims.fieldLen w ctl)) := by
  rw [Claims.fieldMask, BitVec.getLsbD_shiftLeft, BitVec.getLsbD_ofNat, Nat.testBit_two_pow_sub_one]
  grind

theorem bfi_toNat {w : Nat} (d a : BitVec w) (ctl : W32) : bfi w d.toNat a.toNat ctl.toNat = (Claims.insertField d a ctl).toNat := by
  simp only [bfi, noField_iff, Claims.insertField]
  split
  · rfl
  · next h =>
    have fits : (ctl.extractLsb' 0 8).toNat + Claims.fieldLen w ctl ≤ w := by
      rw [Claims.fieldLen]
      omega
    simp only [min_bitsN]
    rw [bitsN_toNat ctl]
    refine Nat.eq_of_testBit_eq fun i => ?_
    rw [testBit_replaceField, BitVec.testBit_toNat, BitVec.testBit_toNat, BitVec.testBit_toNat]
    rw [BitVec.getLsbD_or, BitVec.getLsbD_and, BitVec.getLsbD_and, BitVec.getLsbD_not, BitVec.getLsbD_shiftLeft, getLsbD_fieldMask]
    grind

end Sys2Proof.Machine
end

section
/-!
PROOFS. The ALU of the group registers (R87 to R89): its operands are words of the operation's width, and its result is written to gD or gD.d.
-/
namespace Sys2Proof.Machine

/-! ## Operands and writes of S3 (R87 to R89) -/

theorem gw_pos (f : FmtS3) : 0 < gw f := by
  cases h : f.w <;> simp [gw, h]

theorem gw_of_wide {f : FmtS3} (h : f.w = true) : gw f = 64 := if_pos h

theorem gw_of_narrow {f : FmtS3} (h : f.w = false) : gw f = 32 := by simp [gw, h]

theorem gA_of_wide {f : FmtS3} (h : f.w = true) (g : Group) : gA g f = (g.rgd f.a.toNat).toNat := if_pos h

theorem gA_of_narrow {f : FmtS3} (h : f.w = false) (g : Group) : gA g f = (g.rg f.a.toNat).toNat := by simp [gA, h]

theorem gA_eq (g : Group) (f : FmtS3) : gA g f = (Claims.opA g f (gw f)).toNat := by
  cases h : f.w
  · rw [gw_of_narrow h, gA_of_narrow h, Claims.opA, h, if_neg Bool.false_ne_true, BitVec.setWidth_eq]
  · rw [gw_of_wide h, gA_of_wide h, Claims.opA, if_pos h, BitVec.setWidth_eq]

theorem gB_eq (g : Group) (f : FmtS3) : gB g f = (Claims.opB g f (gw f)).toNat := by
  cases hi : f.i
  · cases h : f.w
    · rw [gw_of_narrow h]
      simp only [gB, Claims.opB, hi, h, Bool.false_eq_true, if_false, BitVec.setWidth_eq]
    · rw [gw_of_wide h]
      simp only [gB, Claims.opB, hi, h, Bool.false_eq_true, if_false, if_true, BitVec.setWidth_eq]
  · simp only [gB, Claims.opB, hi, if_true, wrap_eq, simm8]
    rfl

/-- The writes of a result: gD, or gD.d where W is set and the result is as wide as the operands. -/
def resultWrites (f : FmtS3) (narrow : Bool) (x : (w : Nat) → BitVec w) : List RegWr :=
  if f.w then (if narrow then [.g f.d.toNat ((x 64).setWidth 32) false] else Claims.pairG f.d.toNat (x 64))
  else [.g f.d.toNat (x 32) false]

theorem wrG_false {w : Nat} (d : Nat) (x : BitVec w) : wrG false d x.toNat = [.g d (x.setWidth 32) false] := by
  simp [wrG]

theorem wrG_result (f : FmtS3) (narrow : Bool) (x : (w : Nat) → BitVec w) :
    wrG (f.w && !narrow) f.d.toNat (x (gw f)).toNat = resultWrites f narrow x := by
  cases h : f.w
  · rw [gw_of_narrow h, Bool.false_and, wrG_false, BitVec.setWidth_eq]
    simp [resultWrites, h]
  · rw [gw_of_wide h]
    cases narrow
    · simp [resultWrites, h, wrG_true]
    · simp [resultWrites, h, wrG_false]

/-- The result of an operation on the operands. -/
theorem Computes.toNat_operands {r : Nat → Nat → Nat → Nat} {d : (w : Nat) → BitVec w → BitVec w → BitVec w} (h : Computes r d) (g : Group) (f : FmtS3) :
    r (gw f) (gA g f) (gB g f) = (d (gw f) (Claims.opA g f (gw f)) (Claims.opB g f (gw f))).toNat := by
  rw [gA_eq, gB_eq, h _ (gw_pos f)]

/-! ## The ALU (R89) -/

section
variable {c : Ctl} {f : FmtS3} {s : State} {r : Nat → Nat → Nat → Nat} {d : (w : Nat) → BitVec w → BitVec w → BitVec w}

theorem alu_of_acts {takesB wideD : Bool} (h : Claims.Acts s.me f.gd (Claims.aluSources f takesB)) (hr : Computes r d) :
    alu c f takesB wideD s r =
      .next (s.fixed c 2 (resultWrites f (!wideD) (fun w => d w (Claims.opA s.me f w) (Claims.opB s.me f w)))) := by
  rw [← wrG_result, ← hr.toNat_operands, Bool.not_not]
  exact ctlOp_of_acts h

theorem aluVar_of_acts (h : Claims.Acts s.me f.gd (Claims.aluSources f true)) (hr : Computes r d) :
    aluVar c f s r = .next (s.variable c (resultWrites f false (fun w => d w (Claims.opA s.me f w) (Claims.opB s.me f w)))) := by
  rw [← wrG_result, ← hr.toNat_operands, Bool.not_false, Bool.and_true]
  exact ctlOp_of_acts h

end

/-- Each ALU instruction writes its result, by the equation of the operation that it computes. -/
theorem exec_alu_of_acts {s : State} {i : Instr} {r : Claims.Alu} (hi : Claims.aluOf i = some r)
    (h : Claims.Acts s.me r.f.gd (Claims.aluSources r.f r.readsB)) :
    exec i s = .next (s.issue r.c (r.lat.map (s.clock + ·))
      (resultWrites r.f r.narrow (fun w => r.d w r.f.s (Claims.opA s.me r.f w) (Claims.opB s.me r.f w)))) := by
  cases i
  all_goals cases hi
  case gmov => exact (exec_gmov ..).trans (alu_of_acts h computes_fst)
  case gadd => exact (exec_gadd ..).trans (alu_of_acts h computes_add)
  case gsub => exact (exec_gsub ..).trans (alu_of_acts h computes_sub)
  case gmul => exact (exec_gmul ..).trans (alu_of_acts h computes_mul)
  case gmulh => exact (exec_gmulh ..).trans (alu_of_acts h (computes_mulh _))
  case gdiv => exact (exec_gdiv ..).trans (aluVar_of_acts h (computes_divInt _))
  case grem => exact (exec_grem ..).trans (aluVar_of_acts h (computes_remInt _))
  case gand => exact (exec_gand ..).trans (alu_of_acts h computes_and)
  case gor => exact (exec_gor ..).trans (alu_of_acts h computes_or)
  case gxor => exact (exec_gxor ..).trans (alu_of_acts h computes_xor)
  case gnot => exact (exec_gnot ..).trans (alu_of_acts h computes_not)
  case gshl => exact (exec_gshl ..).trans (alu_of_acts h computes_shlN)
  case gshr => exact (exec_gshr ..).trans (alu_of_acts h computes_shrN)
  case gsar => exact (exec_gsar ..).trans (alu_of_acts h computes_sarN)
  case grot => exact (exec_grot ..).trans (alu_of_acts h computes_rotN)
  case gmin => exact (exec_gmin ..).trans (alu_of_acts h (computes_min _))
  case gmax => exact (exec_gmax ..).trans (alu_of_acts h (computes_max _))
  case gpopc => exact (exec_gpopc ..).trans (alu_of_acts h computes_popCount)
  case gclz => exact (exec_gclz ..).trans (alu_of_acts h computes_clz)

/-! ## Pairs that no word names (R11, R88) -/

/-- A word that decodes passes the checks of its instruction. -/
theorem wellFormed_of_decode {w : W64} {i : Instr} (h : decode w = .ok i) : WellFormed i := by
  rw [decode] at h
  split at h
  · cases h
  · split at h
    · next hw => rwa [← Except.ok.inj h]
    · cases h

/-- One check holds for all ALU instructions: whether gB is read and how wide the result is are those of R89. -/
theorem chkS3_of_alu {i : Instr} {r : Claims.Alu} (hi : Claims.aluOf i = some r) (h : WellFormed i) :
    ∃ takesS, chkS3 r.f r.readsB takesS (!r.narrow) = none := by
  cases i
  all_goals cases hi
  all_goals exact ⟨_, operands_ok h⟩

/-- With W the registers that are pairs are even. -/
theorem even_of_chkS3 {f : FmtS3} {takesB takesS wideDst : Bool} (h : chkS3 f takesB takesS wideDst = none) (hw : f.w = true) :
    f.a.toNat % 2 = 0 ∧ (wideDst = true → f.d.toNat % 2 = 0) ∧ (takesB = true → f.i = false → f.b.toNat % 2 = 0) := by
  have pairs : (!f.w || (isEven f.a && (!wideDst || isEven f.d) && (!takesB || f.i || isEven f.b))) = true :=
    holds_of_need .badRegister h (by simp)
  rw [hw] at pairs
  simp only [isEven, Bool.not_true, Bool.false_or, Bool.and_eq_true, beq_iff_eq] at pairs
  obtain ⟨⟨ha, hd⟩, hb⟩ := pairs
  refine ⟨ha, fun hwide => ?_, fun htakes hi => ?_⟩
  · simpa [hwide] using hd
  · simpa [htakes, hi] using hb

/-- Settles O1: by the operation of each instruction; the checks of a decoded word leave no odd pair. -/
theorem groupAluWritesResult : Obligations.GroupAluWritesResult := by
  refine ⟨fun s i r hi h => exec_alu_of_acts hi h, fun i r w hi hw odd hd => ?_⟩
  obtain ⟨_, hchk⟩ := chkS3_of_alu hi (wellFormed_of_decode hd)
  obtain ⟨ha, hdst, hb⟩ := even_of_chkS3 hchk hw
  rcases odd with oddA | ⟨wide, oddD⟩ | ⟨reads, reg, oddB⟩
  · omega
  · have := hdst (by simp [wide])
    omega
  · have := hb reads reg
    omega

end Sys2Proof.Machine
end

section
/-!
PROOFS. Constants, addresses, bit fields and predicates of the control thread (R90 to R94).
-/
namespace Sys2Proof.Machine

/-! ## Addresses and bit fields (R91, R92) -/

theorem ofInt_two_pow (w k : Nat) : BitVec.ofInt w (2 ^ k) = BitVec.twoPow w k := by
  rw [show (2 : Int) ^ k = (2 ^ k : Nat) by push_cast; rfl, BitVec.ofInt_natCast]
  exact BitVec.eq_of_toNat_eq (by rw [BitVec.toNat_ofNat, BitVec.toNat_twoPow])

/-- An operand read as a number and taken into a wider word is extended. -/
theorem ofInt_num {w : Nat} (v : Nat) (sg : Bool) (x : BitVec w) : BitVec.ofInt v (Claims.num sg x) = if sg then x.signExtend v else x.setWidth v := by
  cases sg
  · exact (BitVec.ofInt_natCast v x.toNat).trans (BitVec.ofNat_toNat v x)
  · rfl

theorem scaledAddress_toNat (sg : Bool) (a : W64) (b : W32) (k : Nat) : wrap 64 (a.toNat + readInt 32 sg b.toNat * 2 ^ k) =
    (a + (if sg then b.signExtend 64 else b.setWidth 64) <<< k).toNat := by
  rw [readInt_toNat (by decide), wrap_eq, BitVec.ofInt_add, BitVec.ofInt_mul, BitVec.ofInt_natCast, BitVec.ofNat_toNat, BitVec.setWidth_eq, ofInt_num,
    ofInt_two_pow, ← BitVec.shiftLeft_eq_mul_twoPow]

/-- The bits of FN that hold the scale of GLEA. -/
theorem sub_mod_eight (f : FmtS3) : f.sub % 8 = (f.fn.extractLsb' 0 3).toNat := by
  rw [FmtS3.sub, BitVec.extractLsb'_toNat, Nat.shiftRight_zero]
  omega

theorem execGlea_of_acts {s : State} {c : Ctl} {f : FmtS3} (h : Claims.Acts s.me f.gd ([f.a.toNat, f.a.toNat + 1] ++ (if f.i then [] else [f.b.toNat]))) :
    execGlea c f s = .next (s.fixed c 2 (Claims.pairG f.d.toNat
      (s.me.rgd f.a.toNat + ((let b : W32 := if f.i then f.b.signExtend 32 else s.me.rg f.b.toNat
        if f.s then b.signExtend 64 else b.setWidth 64) <<< (f.fn.extractLsb' 0 3).toNat)))) := by
  have operand : (if f.i then wrap 32 (simm8 f.b) else (s.me.rg f.b.toNat).toNat) = (if f.i then f.b.signExtend 32 else s.me.rg f.b.toNat).toNat := by
    rw [wrap_simm8, apply_ite BitVec.toNat]
  refine (ctlOp_of_acts h).trans ?_
  dsimp only
  rw [operand, scaledAddress_toNat, wrG_true, sub_mod_eight]

theorem execGbfx_of_acts {s : State} {c : Ctl} {f : FmtS3} (h : Claims.Acts s.me f.gd (Claims.aluSources f true)) :
    execGbfx c f s = .next (s.fixed c 2 (if f.w then Claims.pairG f.d.toNat (Claims.extractField f.s (s.me.rgd f.a.toNat) (s.me.rg f.b.toNat))
      else [.g f.d.toNat (Claims.extractField f.s (s.me.rg f.a.toNat) (s.me.rg f.b.toNat)) false])) := by
  refine (ctlOp_of_acts h).trans ?_
  cases hw : f.w
  · rw [gw_of_narrow hw, gA_of_narrow hw, bfx_toNat, wrG_false, BitVec.setWidth_eq]
    rfl
  · rw [gw_of_wide hw, gA_of_wide hw, bfx_toNat, wrG_true]
    rfl

theorem execGbfi_of_acts {s : State} {c : Ctl} {f : FmtS3}
    (h : Claims.Acts s.me f.gd (Claims.aluSources f true ++ (if f.w then [f.d.toNat, f.d.toNat + 1] else [f.d.toNat]))) :
    execGbfi c f s = .next (s.fixed c 2
      (if f.w then Claims.pairG f.d.toNat (Claims.insertField (s.me.rgd f.d.toNat) (s.me.rgd f.a.toNat) (s.me.rg f.b.toNat))
       else [.g f.d.toNat (Claims.insertField (s.me.rg f.d.toNat) (s.me.rg f.a.toNat) (s.me.rg f.b.toNat)) false])) := by
  refine (ctlOp_of_acts h).trans ?_
  dsimp only
  cases hw : f.w
  · rw [gw_of_narrow hw, gA_of_narrow hw, if_neg Bool.false_ne_true, bfi_toNat, wrG_false, BitVec.setWidth_eq]
    rfl
  · rw [gw_of_wide hw, gA_of_wide hw, if_pos rfl, bfi_toNat, wrG_true]
    rfl

/-- Settles O2: each by its one case; the words that GLEA, GBFX and GBFI write are those of the numbers computed. -/
theorem groupConstantsAddressesAndFields : Obligations.GroupConstantsAddressesAndFields := fun s c =>
  ⟨fun f h => (exec_gmovi c f s).trans (ctlOp_of_acts h), fun f h => (exec_gmovh c f s).trans (ctlOp_of_acts h),
    fun f h => (exec_glea c f s).trans (execGlea_of_acts h), fun f _ h => (exec_gbfx c f s).trans (execGbfx_of_acts h),
    fun f _ h => (exec_gbfi c f s).trans (execGbfi_of_acts h)⟩

/-! ## Predicates (R93, R94) -/

theorem condHolds_eq (cc : Nat) (a b : Int) : condHolds cc a b = Claims.condition cc a b := by
  rcases cc with _ | _ | _ | _ | _ | cc <;> rfl

theorem execGcmp_of_acts {s : State} {c : Ctl} {f : FmtS3} (h : Claims.Acts s.me f.gd (Claims.aluSources f true)) :
    execGcmp c f s = .next (s.fixed c 2 [.q f.d.toNat (if f.w
      then Claims.condition (f.sub % 8) (Claims.num f.s (Claims.opA s.me f 64)) (Claims.num f.s (Claims.opB s.me f 64))
      else Claims.condition (f.sub % 8) (Claims.num f.s (Claims.opA s.me f 32)) (Claims.num f.s (Claims.opB s.me f 32)))]) := by
  refine (ctlOp_of_acts h).trans ?_
  rw [gA_eq, gB_eq, readInt_toNat (gw_pos f), readInt_toNat (gw_pos f), condHolds_eq]
  cases hw : f.w
  · rw [gw_of_narrow hw]
    rfl
  · rw [gw_of_wide hw]
    rfl

/-- Bit 3 of FN negates the predicate of GSEL. -/
theorem sub_negates (fn : BitVec 8) : decide (fn.toNat % 32 / 8 % 2 = 1) = fn.getLsbD 3 := by revert fn; decide

theorem qBad_eq_false {g : Group} {i : Nat} (h : 256 + i ∉ g.badP) : qBad g i = false := by
  simpa [qBad] using h

theorem execGsel_of_acts {s : State} {c : Ctl} {f : FmtS3} (h : Claims.Acts s.me f.gd (Claims.aluSources f true)) (hq : 256 + f.sub % 8 ∉ s.me.badP) :
    execGsel c f s = .next (s.fixed c 2 (resultWrites f false (fun w =>
      if s.me.rq (f.sub % 8) ^^ f.fn.getLsbD 3 then Claims.opA s.me f w else Claims.opB s.me f w))) := by
  refine (ctlOp_of_acts h).trans ?_
  rw [qBad_eq_false hq, ← wrG_result, apply_ite BitVec.toNat, ← gA_eq, ← gB_eq, ← sub_negates, Bool.not_false, Bool.and_true, ← Bool.bne_eq_xor]
  rfl

theorem lutAt_eq (fn : BitVec 8) (a b : Bool) : lutAt (fn.toNat % 16) a b = fn.getLsbD (2 * a.toNat + b.toNat) := by
  revert fn a b; decide

theorem execQop_of_acts {s : State} {c : Ctl} {f : FmtS3} (h : Claims.Acts s.me f.gd []) (ha : 256 + f.a.toNat ∉ s.me.badP)
    (hb : 256 + f.b.toNat ∉ s.me.badP) : execQop c f s = .next (s.fixed c 2
      [.q f.d.toNat (f.fn.getLsbD (2 * (s.me.rq f.a.toNat).toNat + (s.me.rq f.b.toNat).toNat))]) := by
  refine (ctlOp_of_acts h).trans ?_
  rw [qBad_eq_false ha, qBad_eq_false hb, lutAt_eq]
  rfl

/-- Settles O3: each by its one case. -/
theorem groupPredicates : Obligations.GroupPredicates := fun s c f =>
  ⟨fun h _ => (exec_gcmp c f s).trans (execGcmp_of_acts h), fun h hq => (exec_gsel c f s).trans (execGsel_of_acts h hq),
    fun h ha hb => (exec_qop c f s).trans (execQop_of_acts h ha hb)⟩

end Sys2Proof.Machine
end

section
/-!
PROOFS. Uniform transfers (R98 to R100).
-/
namespace Sys2Proof.Machine

/-- A word address is a multiple of 8. -/
theorem wordAligned_iff (t : W64) : t.extractLsb' 0 3 = 0 ↔ t &&& 7 = 0 := by
  rw [← BitVec.toNat_inj, ← BitVec.toNat_inj, BitVec.toNat_and, show (7 : W64).toNat = 2 ^ 3 - 1 from rfl, Nat.and_two_pow_sub_one_eq_mod]
  simp

/-- A transfer to a computed target. -/
theorem checkedJump_eq (s : State) (c : Ctl) (t : W64) :
    (if t.extractLsb' 0 3 != (0 : BitVec 3) then fail s fcMisaligned else .next (s.jump c [] t)) =
      if t &&& 7 = 0 then .next (Claims.goto (s.transfer c []) t) else .next (raise s (fi 0x03)) := by
  by_cases h : t &&& 7 = 0
  · rw [if_pos h, (wordAligned_iff t).mpr h]
    rfl
  · rw [if_neg h, if_pos (bne_iff_ne.mpr fun e => h ((wordAligned_iff t).mp e))]
    rfl

theorem execBrx_of_acts {s : State} {c : Ctl} {f : FmtS3} (h : Claims.Acts s.me f.gd ([f.a.toNat, f.a.toNat + 1] ++ (if f.i then [] else [f.b.toNat])))
    {t : W64} (ht : t = s.me.rgd f.a.toNat + 8 * (if f.i then f.b.signExtend 64 else (s.me.rg f.b.toNat).signExtend 64)) :
    execBrx c f s = if t &&& 7 = 0 then .next (Claims.goto (s.transfer c []) t) else .next (raise s (fi 0x03)) := by
  have target : relTarget (s.me.rgd f.a.toNat) (if f.i then simm8 f.b else (s.me.rg f.b.toNat).toInt) = t := by
    rw [ht]
    cases f.i
    · exact relTarget_eq _ _
    · exact relTarget_eq _ _
  refine ((ctlOp_of_acts h).trans (checkedJump_eq s c _)).trans ?_
  rw [← target]
  rfl

/-- Settles O5: immediate targets by `relTarget_eq`, computed ones by their alignment. -/
theorem uniformTransfers : Obligations.UniformTransfers := by
  refine fun s c => ⟨fun f h => ⟨?bra, ?call⟩, fun f h t ht => (exec_brx c f s).trans (execBrx_of_acts h ht),
    fun f h => (exec_ret c f s).trans ((ctlOp_of_acts h).trans (checkedJump_eq s c _))⟩
  case bra =>
    rw [exec_bra, execBra, ctlOp_of_acts h, relTarget_eq]
    rfl
  case call =>
    rw [exec_call, execCall, ctlOp_of_acts h]
    simp only [relTarget_eq, wrG_true]
    rfl

end Sys2Proof.Machine
end

section
/-!
PROOFS. Lane instructions: the lanes of R16, what PFX supplies, the elements of R62 and the outcome of R38 and R111.
-/
namespace Sys2Proof.Machine

/-! ## Fields (R62, R68) -/

theorem imm_eq (f : FmtV3) : f.imm = f.m.getLsbD 3 := (guard_negates f.m).symm

theorem mode_eq (f : FmtV3) : f.mode = (f.m.extractLsb' 0 3).toNat := by
  rw [BitVec.extractLsb'_toNat, Nat.shiftRight_zero]
  rfl

theorem regs_eq_two_iff (t : BitVec 4) : Claims.regs t = 2 ↔ wideT t.toNat = true := by revert t; decide
theorem tRegs_eq (t : BitVec 4) : tRegs t.toNat = Claims.regs t := by revert t; decide
theorem elemSigned_eq (t : BitVec 4) : elemSigned t.toNat = Claims.signedType t := by revert t; decide
theorem shape_fits (t : BitVec 4) : (Claims.shape t).1 * (Claims.shape t).2 ≤ 64 := by revert t; decide
theorem shape_width_pos (t : BitVec 4) : 0 < (Claims.shape t).1 := by revert t; decide

/-! ## Lanes and what PFX supplies (R16, R67, R153) -/

theorem pfxSplit_part' (g : Group) (gd : BitVec 4) : pfxSplit g (g.part' gd) = (Claims.takesPart g gd, Claims.zeroed g gd) := by
  rw [part'_eq_crossLanes, pfxSplit, Claims.takesPart, Claims.zeroed, Claims.crossLanes]
  cases g.pfx with
  | none => simp
  | some p =>
    simp only [List.filter_filter, Bool.and_comm, Prod.mk.injEq, true_and]
    split
    · next h => simp [h]
    · next h => simp [show ¬p.mz = 1#1 from h]

theorem pfxMaskBad_of_lanes {g : Group} {gd : BitVec 4} {named reads : List (Nat × Nat)} {preds : List Nat}
    (h : Claims.Lanes g gd named reads preds) : pfxMaskBad g (g.part' gd) = false := by
  rw [pfxMaskBad, part'_eq_crossLanes]
  cases hp : g.pfx with
  | none => rfl
  | some p =>
    simp only [Claims.crossLanes, List.any_eq_false, List.mem_filter, List.mem_range, List.contains_iff_mem]
    exact fun l hl => h.mask p hp l hl.1 hl.2

theorem predBad_of_clean {g : Group} {ls : List Nat} {ps : List Nat} (h : ∀ l ∈ ls, ∀ p ∈ ps, 32 * p + l ∉ g.badP) :
    predBad g ls ps = false := by
  simpa [predBad] using h

theorem pGuardBad_of_clean {g : Group} {gd : BitVec 4}
    (h : ∀ l, l < 32 → (g.am &&& ~~~g.xm).getLsbD l = true → 32 * (gd.toNat % 8) + l ∉ g.badP) : pGuardBad g gd = false := by
  simp only [pGuardBad, List.any_eq_false, List.contains_iff_mem, mem_lanesOf]
  exact fun l hl => h l hl.1 hl.2

theorem vRange_of_forall {g : Group} {rs : List (Nat × Nat)} (h : ∀ r ∈ rs, r.1 + r.2 ≤ g.nv) : vRange g rs = true := by
  simpa [vRange] using h

/-! ## The outcome (R38, R111) -/

/-- A lane instruction that no fault stops has the outcome of its operation. -/
theorem laneInstr_of_lanes {s : State} {c : Ctl} {gd : BitVec 4} {lat : Option Nat} {op : Group → LaneOp} {o : LaneOp} (ho : op s.me = o)
    (h : Claims.Lanes s.me gd o.named o.reads o.preds) : Claims.LaneOutcome s c gd lat o.coins o.run o.zero (laneInstr c gd lat op s) := by
  subst ho
  have words := runLanes_eq (op s.me) (Claims.takesPart s.me gd) (s.draws ((op s.me).coins * (Claims.takesPart s.me gd).length)) 0
  rw [Nat.mul_zero, List.drop_zero] at words
  have clock := (s.drawn_frame ((op s.me).coins * (Claims.takesPart s.me gd).length)).2.2.2.2
  rw [Claims.LaneOutcome, laneInstr]
  dsimp only
  rw [pfxSplit_part']
  dsimp only
  rw [vRange_of_forall h.range, pGuardBad_of_clean h.guard, pfxMaskBad_of_lanes h, srcBad_of_clean h.reads, predBad_of_clean h.preds]
  refine (orFault_ok rfl).trans ?_
  rw [words, statWrs_eq, List.flatMap_map, clock]
  by_cases none : Claims.takesPart s.me gd = [] ∧ Claims.zeroed s.me gd = []
  · rw [if_pos none, if_pos (by simpa using none), none.1, none.2, State.idle, List.length_nil, Nat.mul_zero]
    rfl
  · rw [if_neg none, if_neg (by simpa using none)]

/-! ## Elements (R62, R68, R111) -/

theorem laneVal_eq (g : Group) (t : BitVec 4) (r l : Nat) : laneVal g t.toNat r l = (Claims.operand g t r l).toNat := by
  have wide := regs_eq_two_iff t
  rw [laneVal, Claims.operand]
  split
  · next h => rw [if_pos (wide.mpr h)]
  · next h => rw [if_neg (mt wide.mp h), BitVec.toNat_setWidth_of_le (by decide)]

theorem elem_eq (t : BitVec 4) (x : W64) (i : Nat) : elem t.toNat x.toNat i = (Claims.element t x i).toNat := by
  rw [elem, elemW_eq, bitsN_toNat, Claims.element]

theorem horner_mod (w : Nat) (xs : List Nat) : horner w (xs.map (· % 2 ^ w)) = horner w xs := by
  induction xs with
  | nil => rfl
  | cons x xs ih => rw [List.map_cons, horner_cons, horner_cons, ih, Nat.mod_mod]

/-- The register that the elements of a lane make. -/
theorem joined_eq {t : BitVec 4} {d : Nat → BitVec (Claims.shape t).1} {v : Nat → Nat} (h : ∀ i < (Claims.shape t).2, d i = BitVec.ofNat _ (v i)) :
    Claims.joined t d = BitVec.ofNat 64 (joinElems t.toNat ((List.range (elemN t.toNat)).map v)) := by
  have values : (List.range (Claims.shape t).2).map (fun i => (d i).toNat) =
      ((List.range (Claims.shape t).2).map v).map (· % 2 ^ (Claims.shape t).1) := by
    rw [List.map_map]
    exact List.map_congr_left fun i hi => by rw [h i (List.mem_range.mp hi), BitVec.toNat_ofNat]; rfl
  have total : (Claims.joined t d).toNat = horner (Claims.shape t).1 ((List.range (Claims.shape t).2).map v) := by
    rw [show Claims.joined t d = laid d (Claims.shape t).2 from rfl, toNat_laid d (shape_fits t), values, horner_mod]
  rw [elemN_eq, joinElems_eq, ← total, BitVec.ofNat_toNat, BitVec.setWidth_eq]

/-- The writes of vD or vD.d. -/
theorem wrV_eq (t : BitVec 4) (d l x : Nat) : wrV (wideT t.toNat) d l x = Claims.laneWrite t d l (BitVec.ofNat 64 x) := by
  have wide := regs_eq_two_iff t
  rw [wrV]
  split
  · next h => exact (laneWrite_pair (wide.mpr h) d l x (BitVec.toNat_ofNat x 64)).symm
  · next h =>
    rw [Claims.laneWrite, if_neg (mt wide.mp h)]
    congr 2
    exact BitVec.eq_of_toNat_eq (by simp)

/-- Of the 256 immediates each is exact in each of the four formats. -/
theorem immElem_float : ∀ t ∈ [0x8#4, 0x9#4, 0xA#4, 0xB#4], ∀ b : BitVec 8, immElem t.toNat b = (Claims.immediate t b).toNat := by decide +kernel

/-- An imm8 as one element (R62). -/
theorem immediate_eq (t : BitVec 4) (b : BitVec 8) : Claims.immediate t b = BitVec.ofNat _ (immElem t.toNat b) := by
  by_cases float : t ∈ [0x8#4, 0x9#4, 0xA#4, 0xB#4]
  · rw [immElem_float t float, BitVec.ofNat_toNat, BitVec.setWidth_eq]
  · have other (n : BitVec 4) (hn : n ∈ [0x8#4, 0x9#4, 0xA#4, 0xB#4]) : t.toNat ≠ n.toNat := fun e => float (BitVec.eq_of_toNat_eq e ▸ hn)
    have h8 : t.toNat ≠ 8 := other 0x8#4 (by simp)
    have h9 : t.toNat ≠ 9 := other 0x9#4 (by simp)
    have hA : t.toNat ≠ 0xA := other 0xA#4 (by simp)
    have hB : t.toNat ≠ 0xB := other 0xB#4 (by simp)
    have extended : Claims.immediate t b = b.signExtend _ := by
      rw [Claims.immediate]
      split
      · exact absurd ‹_› h8
      · exact absurd ‹_› h9
      · exact absurd ‹_› hA
      · exact absurd ‹_› hB
      · rfl
    rw [extended, immElem, if_neg (by simp [h8, h9, hA, hB]), elemW_eq, simm8, wrap_eq, BitVec.ofNat_toNat, BitVec.setWidth_eq]
    rfl

/-- Each element of those put together. -/
theorem horner_elem (w : Nat) {xs : List Nat} {i : Nat} (hi : i < xs.length) : bitsN (horner w xs) (w * i) w = xs[i] % 2 ^ w := by
  induction xs generalizing i with
  | nil => exact absurd hi (Nat.not_lt_zero i)
  | cons x xs ih =>
    have below : x % 2 ^ w < 2 ^ w := Nat.mod_lt _ (Nat.two_pow_pos w)
    rw [horner_cons]
    cases i with
    | zero => simp [bitsN]
    | succ i =>
      rw [bitsN, Nat.mul_succ, Nat.pow_add, Nat.mul_comm (2 ^ (w * i)), ← Nat.div_div_eq_div_mul, Nat.add_mul_div_left _ _ (Nat.two_pow_pos w),
        Nat.div_eq_of_lt below, Nat.zero_add]
      exact ih (Nat.lt_of_succ_lt_succ hi)

/-- b_i: the imm8 as an element, or the element of vB. -/
theorem elem_laneB (g : Group) (f : FmtV3) (l : Nat) {i : Nat} (hi : i < (Claims.shape f.t).2) :
    elem f.t.toNat (laneB g f l) i = (Claims.elementB g f l i).toNat := by
  rw [laneB, Claims.elementB, imm_eq]
  split
  · rw [immediate_eq, BitVec.toNat_ofNat, elem, joinElems_eq, elemW_eq, elemN_eq, horner_elem _ (by simpa using hi), List.getElem_replicate]
  · rw [laneVal_eq, elem_eq]

/-- The B operand as a whole. -/
theorem laneB_eq (g : Group) (f : FmtV3) (l : Nat) : BitVec.ofNat 64 (laneB g f l) =
    if f.m.getLsbD 3 then Claims.joined f.t (fun _ => Claims.immediate f.t f.b) else Claims.operand g f.t f.b.toNat l := by
  rw [laneB, imm_eq]
  split
  · rw [joined_eq (v := fun _ => immElem f.t.toNat f.b) fun _ _ => immediate_eq f.t f.b, List.map_const', List.length_range]
  · rw [laneVal_eq, BitVec.ofNat_toNat, BitVec.setWidth_eq]

/-! ## Element by element (R111) -/

/-- The numbers that `el` computes from the elements that are read are those of the elements that the rule gives. -/
def Realizes (e : Claims.Elementwise) (el : Nat → Nat → Nat → Nat → Nat × Stat) : Prop :=
  ∀ (w : W32) (a b d : BitVec (Claims.shape e.f.t).1),
    e.op w a b d = let x := el (coin w) a.toNat (if e.readsB then b.toNat else 0) (if e.readsC then d.toNat else 0)
      (BitVec.ofNat _ x.1, x.2)

/-- What an element-wise instruction needs and does in a lane, as the rule gives it. -/
def elementOp (g : Group) (e : Claims.Elementwise) : LaneOp where
  named := (e.f.d.toNat, Claims.regs e.f.t) :: e.sources g
  reads := e.sources g
  preds := []
  coins := e.coins
  run := e.result g
  zero := fun l => Claims.laneWrite e.f.t e.f.d.toNat l 0

theorem pfxC_eq (g : Group) (d : BitVec 8) : pfxC g d.toNat = Claims.fourth g d := rfl

/-- An element of a register that is read, or zero. -/
theorem elem_ite (t : BitVec 4) (p : Bool) (x i : Nat) : elem t.toNat (if p then x else 0) i = if p then elem t.toNat x i else 0 := by
  cases p
  · simp [elem, bitsN]
  · rfl

/-- A lane's elements, computed as numbers and put together, are the elements that the rule gives. -/
theorem elemResults_eq {t : BitVec 4} {el : Nat → Nat × Stat} {r : Nat → BitVec (Claims.shape t).1 × BitVec 8}
    (h : ∀ i < (Claims.shape t).2, r i = (BitVec.ofNat _ (el i).1, (el i).2)) (d l : Nat) :
    (wrV (wideT t.toNat) d l (elemResults t.toNat el).1, (elemResults t.toNat el).2) =
      (Claims.laneWrite t d l (Claims.joined t (fun i => (r i).1)), (List.range (Claims.shape t).2).foldl (fun acc i => acc ||| (r i).2) 0) := by
  have status : (List.range (Claims.shape t).2).foldl (fun acc i => acc ||| (r i).2) 0 =
      (List.range (Claims.shape t).2).foldl (fun acc i => acc ||| (el i).2) 0 :=
    List.foldl_ext _ _ _ fun acc i hi => by rw [h i (List.mem_range.mp hi)]
  rw [wrV_eq, joined_eq (v := fun i => (el i).1) fun i hi => by rw [h i hi], status]
  simp only [elemResults, List.map_map, List.foldl_map, elemN_eq]
  rfl

theorem v3Op_run (g : Group) {e : Claims.Elementwise} {el : Nat → Nat → Nat → Nat → Nat × Stat} (h : Realizes e el) :
    (v3Op g e.f e.readsB e.readsC e.coins el).run = e.result g := by
  funext l ws
  refine elemResults_eq (fun i hi => ?_) _ l
  rw [h, elem_ite, elem_ite, laneVal_eq, laneVal_eq, elem_eq, elem_eq, elem_laneB g e.f l hi]
  rfl

theorem wrV_zero (t : BitVec 4) (d : Nat) : (fun l => wrV (wideT t.toNat) d l 0) = fun l => Claims.laneWrite t d l 0 := funext fun l => wrV_eq t d l 0

/-- The shape of V3 with an operation on elements as numbers is the element-wise instruction that the rule gives. -/
theorem v3Op_eq (g : Group) {e : Claims.Elementwise} {el : Nat → Nat → Nat → Nat → Nat × Stat} (ha : e.readsA = true) (h : Realizes e el) :
    v3Op g e.f e.readsB e.readsC e.coins el = elementOp g e := by
  have sources : (v3Op g e.f e.readsB e.readsC e.coins el).reads = e.sources g := by
    simp only [v3Op, Claims.Elementwise.sources, tRegs_eq, imm_eq, ha]
    rfl
  rw [elementOp, ← v3Op_run g h, ← wrV_zero, ← sources, ← tRegs_eq]
  rfl

/-- A lane instruction whose operation is that of its elements does what the rule says. -/
theorem says_of_elementOp {s : State} {i : Instr} {e : Claims.Elementwise} {op : Group → LaneOp} (hi : exec i s = laneInstr e.c e.f.gd e.lat op s)
    (hop : op s.me = elementOp s.me e) : e.Says s i := fun lanes => by
  rw [hi]
  exact laneInstr_of_lanes hop lanes

theorem says_of_realizes {s : State} {i : Instr} {e : Claims.Elementwise} {op : Group → LaneOp} {el : Nat → Nat → Nat → Nat → Nat × Stat}
    (hi : exec i s = laneInstr e.c e.f.gd e.lat op s) (hop : op s.me = v3Op s.me e.f e.readsB e.readsC e.coins el) (ha : e.readsA = true)
    (h : Realizes e el) : e.Says s i := says_of_elementOp hi (hop.trans (v3Op_eq s.me ha h))

end Sys2Proof.Machine
end

section
/-!
PROOFS. Integer lanes (R113, R116, R117).
-/
namespace Sys2Proof.Machine

/-! ## Results as words -/

theorem clampInt_eq (w : Nat) (sg sat : Bool) (x : Int) :
    clampInt w sg sat x = ((Claims.narrowed w sg sat x).1.toNat, (Claims.narrowed w sg sat x).2) := by
  simp only [clampInt, Claims.narrowed, Bool.and_eq_true, decide_eq_true_eq, wrap_eq, gt_iff_lt]
  split_ifs <;> rfl

theorem pfxSat_eq (g : Group) : pfxSat g = Claims.prefixSat g := rfl

theorem testBit_bitReverse (n x i : Nat) : (bitReverse n x).testBit i = (decide (i < n) && x.testBit (n - 1 - i)) := by
  induction n generalizing x i with
  | zero => simp [bitReverse]
  | succ n ih =>
    have below : bitReverse n (x / 2) < 2 ^ n := Nat.lt_pow_two_of_testBit _ fun j hj => by rw [ih, decide_eq_false (by omega), Bool.false_and]
    rw [bitReverse, Nat.mul_comm, Nat.testBit_two_pow_mul_add _ below, ih, ← Nat.testBit_succ]
    split
    · next h =>
      rw [decide_eq_true h, decide_eq_true (by omega), show (n - 1 - i).succ = n + 1 - 1 - i by omega]
    · next h =>
      rw [← Nat.pow_one 2, Nat.testBit_mod_two_pow]
      by_cases top : i = n
      · simp [top]
      · rw [decide_eq_false (by omega), decide_eq_false (by omega), Bool.false_and, Bool.false_and]

theorem bitReverse_toNat {w : Nat} (a : BitVec w) : bitReverse w a.toNat = a.reverse.toNat := by
  refine Nat.eq_of_testBit_eq fun i => ?_
  rw [testBit_bitReverse, BitVec.testBit_toNat, BitVec.testBit_toNat, BitVec.getLsbD_reverse, BitVec.getMsbD]

/-- A field below bit k is one of the low k bits. -/
theorem bitsN_mod_two_pow {x lo n k : Nat} (h : lo + n ≤ k) : bitsN (x % 2 ^ k) lo n = bitsN x lo n := by
  refine Nat.eq_of_testBit_eq fun i => ?_
  simp only [bitsN, Nat.testBit_mod_two_pow, Nat.testBit_div_two_pow]
  by_cases inside : i < n
  · rw [decide_eq_true (show i + lo < k by omega), Bool.true_and]
  · rw [decide_eq_false inside, Bool.false_and, Bool.false_and]

theorem bfx_element {w : Nat} (sg : Bool) (a b : BitVec w) : bfx w sg a.toNat b.toNat = (Claims.extractField sg a (b.setWidth 32)).toNat := by
  rw [← bfx_toNat, BitVec.toNat_setWidth, bfx, bfx, bitsN_mod_two_pow (by decide), bitsN_mod_two_pow (by decide)]

theorem bfi_element {w : Nat} (d a b : BitVec w) : bfi w d.toNat a.toNat b.toNat = (Claims.insertField d a (b.setWidth 32)).toNat := by
  rw [← bfi_toNat, BitVec.toNat_setWidth, bfi, bfi, bitsN_mod_two_pow (by decide), bitsN_mod_two_pow (by decide)]

theorem divStat_toNat {w : Nat} (b : BitVec w) : divStat w b.toNat = if b = 0 then 0x20 else 0 := by
  simp only [divStat, toNat_mod_eq_zero]
  rfl

/-! ## Shapes (R111, R113) -/

section
variable {c : Ctl} {f : FmtV3} {takesB takesC : Bool} {lat : Option Nat} {s : State} {i : Instr}

/-- An element-wise integer instruction whose elements are computed by `el`. -/
theorem vint_says {el : Nat → Bool → Bool → Nat → Nat → Nat → Nat × Stat}
    {op : BitVec (Claims.shape f.t).1 → BitVec (Claims.shape f.t).1 → BitVec (Claims.shape f.t).1 → BitVec (Claims.shape f.t).1 × BitVec 8}
    (hi : exec i s = vint c f takesB takesC lat s el)
    (h : ∀ a b d, ((op a b d).1.toNat, (op a b d).2) = el (Claims.shape f.t).1 (Claims.signedType f.t) (Claims.prefixSat s.me) a.toNat
      (if takesB then b.toNat else 0) (if takesC then d.toNat else 0)) :
    (⟨c, f, true, takesB, takesC, lat, 0, fun _ => op⟩ : Claims.Elementwise).Says s i := by
  refine says_of_realizes hi rfl rfl fun _ a b d => ?_
  rw [elemW_eq, elemSigned_eq, pfxSat_eq]
  dsimp only
  rw [← h, BitVec.ofNat_toNat, BitVec.setWidth_eq]

/-- One that narrows an exact integer, which does not depend on what it does not read. -/
theorem vexact_says {r : Int → Int → Int → Int} (hi : exec i s = vexact c f takesB takesC s r)
    (h : ∀ x y z, r x (if takesB then y else 0) (if takesC then z else 0) = r x y z) :
    (⟨c, f, true, takesB, takesC, some 4, 0, fun _ a b d => Claims.narrowed _ (Claims.signedType f.t) (Claims.prefixSat s.me)
      (r (Claims.num (Claims.signedType f.t) a) (Claims.num (Claims.signedType f.t) b) (Claims.num (Claims.signedType f.t) d))⟩ :
      Claims.Elementwise).Says s i := by
  have pos := shape_width_pos f.t
  have zero : readInt (Claims.shape f.t).1 (Claims.signedType f.t) 0 = 0 := by cases Claims.signedType f.t <;> simp [readInt, sgn]
  refine vint_says hi fun a b d => ?_
  rw [clampInt_eq, apply_ite (readInt _ _), apply_ite (readInt _ _), zero, readInt_toNat pos, readInt_toNat pos, readInt_toNat pos, h]

/-- One that sets no status. -/
theorem vbits_says {r : Nat → Nat → Nat → Nat → Nat}
    {op : BitVec (Claims.shape f.t).1 → BitVec (Claims.shape f.t).1 → BitVec (Claims.shape f.t).1 → BitVec (Claims.shape f.t).1}
    (hi : exec i s = vbits c f takesB takesC s r)
    (h : ∀ a b d, r (Claims.shape f.t).1 a.toNat (if takesB then b.toNat else 0) (if takesC then d.toNat else 0) = (op a b d).toNat) :
    (⟨c, f, true, takesB, takesC, some 4, 0, fun _ a b d => (op a b d, 0)⟩ : Claims.Elementwise).Says s i :=
  vint_says hi fun a b d => by rw [h]

end

/-! ## Permutes (R117) -/

/-- One byte of VPRMT: chosen of eight, or its sign eight times. -/
def permutedByte (x : W64) (n : BitVec 4) : BitVec 8 :=
  let y : BitVec 8 := x.extractLsb' (8 * (n.toNat % 8)) 8
  if n.getLsbD 3 then (if y.getLsbD 7 then 0xFF#8 else 0x00#8) else y

theorem permutedByte_eq (x : W64) (n : BitVec 4) :
    BitVec.ofNat 8 (if n.toNat ≥ 8 then (if bitsN x.toNat (8 * (n.toNat % 8)) 8 ≥ 128 then 0xFF else 0) else bitsN x.toNat (8 * (n.toNat % 8)) 8) =
      permutedByte x n := by
  have sign (y : BitVec 8) : y.toNat ≥ 128 ↔ y.getLsbD 7 = true := by revert y; decide
  have negates : n.toNat ≥ 8 ↔ n.getLsbD 3 = true := by rw [guard_negates, decide_eq_true_iff]
  rw [bitsN_toNat, permutedByte]
  simp only [sign, negates]
  split_ifs
  · rfl
  · rfl
  · rw [BitVec.ofNat_toNat, BitVec.setWidth_eq]

theorem permuteBytes_toNat {w : Nat} (a b d : BitVec w) : permuteBytes a.toNat b.toNat d.toNat =
    (permutedByte (b.setWidth 32 ++ a.setWidth 32) (d.extractLsb' (4 * 3) 4) ++ permutedByte (b.setWidth 32 ++ a.setWidth 32) (d.extractLsb' (4 * 2) 4) ++
      permutedByte (b.setWidth 32 ++ a.setWidth 32) (d.extractLsb' (4 * 1) 4) ++
      permutedByte (b.setWidth 32 ++ a.setWidth 32) (d.extractLsb' (4 * 0) 4)).toNat := by
  have source : a.toNat % 2 ^ 32 + b.toNat % 2 ^ 32 * 2 ^ 32 = (b.setWidth 32 ++ a.setWidth 32 : W64).toNat := by
    rw [toNat_append_add, BitVec.toNat_setWidth, BitVec.toNat_setWidth, Nat.add_comm]
  rw [permuteBytes, source]
  simp only [bitsN_toNat d, permutedByte_eq]
  simp only [toNat_append_add, List.range_succ, List.range_zero, List.nil_append, List.cons_append, List.map_cons, List.map_nil, ofBytes]
  omega

/-! ## VMOV (R113) -/

/-- What VMOV needs and does in a lane: it reads either vA or nothing. -/
def vmovOp (f : FmtV3) (g : Group) : LaneOp :=
  let srcs := if f.imm then [] else [(f.a.toNat, tRegs f.t.toNat)]
  { v3Op g f f.imm false 0 (fun _ a b _ => (if f.imm then b else a, 0)) with named := (f.d.toNat, tRegs f.t.toNat) :: srcs, reads := srcs }

theorem execVmov_eq (c : Ctl) (f : FmtV3) (s : State) : execVmov c f s = laneInstr c f.gd (some 4) (vmovOp f) s := rfl

theorem vmov_says (c : Ctl) (f : FmtV3) (s : State) : (⟨c, f, !f.m.getLsbD 3, f.m.getLsbD 3, false, some 4, 0, fun _ a b _ =>
    (if f.m.getLsbD 3 then b else a, 0)⟩ : Claims.Elementwise).Says s (.vmov c f) := by
  refine says_of_elementOp ((exec_vmov c f s).trans (execVmov_eq c f s)) ?_
  rw [vmovOp, elementOp, ← v3Op_run (el := fun _ a b _ => (if f.imm then b else a, 0))]
  · rw [imm_eq, tRegs_eq, Claims.Elementwise.sources, ← wrV_zero]
    cases f.m.getLsbD 3 <;> rfl
  · intro _ a b _
    rw [imm_eq]
    cases f.m.getLsbD 3 <;> simp

/-- Each integer instruction, by the operation that it computes on its elements. -/
theorem integerOf_says {s : State} {i : Instr} {e : Claims.Elementwise} (hi : Claims.integerOf (Claims.prefixSat s.me) i = some e)
    (ht : Claims.integerTypes i e.f.t) : e.Says s i := by
  cases i
  all_goals cases hi
  case vmov c f => exact vmov_says c f s
  case vadd c f => exact vexact_says (r := fun a b _ => a + b) (exec_vadd c f s) fun _ _ _ => rfl
  case vsub c f => exact vexact_says (r := fun a b _ => a - b) (exec_vsub c f s) fun _ _ _ => rfl
  case vmul c f => exact vexact_says (r := fun a b _ => a * b) (exec_vmul c f s) fun _ _ _ => rfl
  case vmulh c f => exact vint_says (exec_vmulh c f s) fun a b _ => Prod.ext (computes_mulh _ _ (shape_width_pos f.t) a b).symm rfl
  case vmad c f => exact vexact_says (r := fun a b d => a * b + d) (exec_vmad c f s) fun _ _ _ => rfl
  case vdiv c f => exact vint_says (exec_vdiv c f s) fun a b _ => Prod.ext (computes_divInt _ _ (shape_width_pos f.t) a b).symm (divStat_toNat b).symm
  case vrem c f => exact vint_says (exec_vrem c f s) fun a b _ => Prod.ext (computes_remInt _ _ (shape_width_pos f.t) a b).symm (divStat_toNat b).symm
  case vand c f => exact vbits_says (exec_vand c f s) fun a b _ => computes_and _ (shape_width_pos f.t) a b
  case vor c f => exact vbits_says (exec_vor c f s) fun a b _ => computes_or _ (shape_width_pos f.t) a b
  case vxor c f => exact vbits_says (exec_vxor c f s) fun a b _ => computes_xor _ (shape_width_pos f.t) a b
  case vnot c f => exact vbits_says (exec_vnot c f s) fun a b _ => computes_not _ (shape_width_pos f.t) a b
  case vshl c f => 
    exact vint_says (exec_vshl c f s) fun a b _ => by
      rw [clampInt_eq, readInt_toNat (shape_width_pos f.t)]
      rfl
  case vshr c f => exact vbits_says (exec_vshr c f s) fun a b _ => computes_shrN _ (shape_width_pos f.t) a b
  case vsar c f => exact vbits_says (exec_vsar c f s) fun a b _ => computes_sarN _ (shape_width_pos f.t) a b
  case vmin c f => exact vint_says (exec_vmin c f s) fun a b _ => Prod.ext (computes_min _ _ (shape_width_pos f.t) a b).symm rfl
  case vmax c f => exact vint_says (exec_vmax c f s) fun a b _ => Prod.ext (computes_max _ _ (shape_width_pos f.t) a b).symm rfl
  case vabs c f => exact vexact_says (r := fun a _ _ => a.natAbs) (exec_vabs c f s) fun _ _ _ => rfl
  case vpopc c f => exact vbits_says (exec_vpopc c f s) fun a b _ => computes_popCount _ (shape_width_pos f.t) a b
  case vclz c f => exact vbits_says (exec_vclz c f s) fun a b _ => computes_clz _ (shape_width_pos f.t) a b
  case vbrev c f => exact vbits_says (exec_vbrev c f s) fun a _ _ => bitReverse_toNat a
  case vbfx c f => exact vint_says (exec_vbfx c f s) fun a b _ => Prod.ext (bfx_element _ a b).symm rfl
  case vbfi c f => exact vbits_says (exec_vbfi c f s) fun a b d => bfi_element d a b
  case vprmt c f =>
    have wide : 32 ≤ (Claims.shape f.t).1 := by
      rw [show f.t = 0 from ht]
      decide
    exact vbits_says (exec_vprmt c f s) fun a b d => (permuteBytes_toNat a b d).trans (BitVec.toNat_setWidth_of_le wide).symm

/-- Settles O11: by the operation that each instruction computes on its elements. -/
theorem integerLanesComputeElements : Obligations.IntegerLanesComputeElements := fun _ _ _ hi ht => integerOf_says hi ht

end Sys2Proof.Machine
end

section
/-!
PROOFS. VMOVI, the lane predicates and the byte dot product (R114, R115, R118).
-/
namespace Sys2Proof.Machine

/-! ## VMOVI (R114) -/

theorem vmovi_of_lanes {s : State} {c : Ctl} {f : FmtVI} {readsD : Bool} {r : W32 → W32}
    (h : Claims.Lanes s.me f.gd [(f.d.toNat, 1)] (if readsD then [(f.d.toNat, 1)] else []) []) :
    Claims.LaneOutcome s c f.gd (some 4) 0 (fun l _ => ([.v f.d.toNat l (r (s.me.rv f.d.toNat l)) false], 0)) (fun l => [.v f.d.toNat l 0 false])
      (vmovi c f readsD s r) := laneInstr_of_lanes rfl h

/-! ## Comparisons and selection (R115) -/

theorem cmpRegs_eq (f : FmtV3) :
    cmpRegs f = (f.a.toNat, Claims.regs f.t) :: (if f.m.getLsbD 3 then [] else [(f.b.toNat, Claims.regs f.t)]) := by
  rw [cmpRegs, imm_eq, tRegs_eq]

/-- A comparison that writes a lane predicate. -/
theorem vcompare_of_lanes {s : State} {c : Ctl} {f : FmtV3} {lat : Nat} {r : Group → Nat → Nat → Bool × Stat}
    (h : Claims.Lanes s.me f.gd (cmpRegs f) (cmpRegs f) []) :
    Claims.LaneOutcome s c f.gd (some lat) 0 (fun l _ =>
      ([.p f.d.toNat l (r s.me (laneVal s.me f.t.toNat f.a.toNat l) (laneB s.me f l)).1],
        (r s.me (laneVal s.me f.t.toNat f.a.toNat l) (laneB s.me f l)).2))
      (fun l => [.p f.d.toNat l false]) (vcompare c f lat s r) := laneInstr_of_lanes rfl h

theorem shape_count_pos (t : BitVec 4) : 0 < (Claims.shape t).2 := by revert t; decide

/-- An operand read as an integer is its element 0. -/
theorem readInt_elem_zero (t : BitVec 4) (sg : Bool) (x : Nat) : readInt (elemW t.toNat) sg x = readInt (elemW t.toNat) sg (elem t.toNat x 0) := by
  simp [elem, bitsN, readInt, sgn]

theorem readInt_laneVal (g : Group) (t : BitVec 4) (r l : Nat) :
    readInt (elemW t.toNat) (elemSigned t.toNat) (laneVal g t.toNat r l) =
      Claims.num (Claims.signedType t) (Claims.element t (Claims.operand g t r l) 0) := by
  rw [readInt_elem_zero, laneVal_eq, elem_eq, elemW_eq, readInt_toNat (shape_width_pos t), elemSigned_eq]

theorem readInt_laneB (g : Group) (f : FmtV3) (l : Nat) :
    readInt (elemW f.t.toNat) (elemSigned f.t.toNat) (laneB g f l) = Claims.num (Claims.signedType f.t) (Claims.elementB g f l 0) := by
  rw [readInt_elem_zero, elem_laneB g f l (shape_count_pos f.t), elemW_eq, readInt_toNat (shape_width_pos f.t), elemSigned_eq]

theorem execVcmp_of_lanes {s : State} {c : Ctl} {f : FmtV3} (h : Claims.Lanes s.me f.gd (cmpRegs f) (cmpRegs f) []) :
    Claims.LaneOutcome s c f.gd (some 4) 0 (fun l _ => ([.p f.d.toNat l (Claims.condition (f.m.extractLsb' 0 3).toNat
      (Claims.num (Claims.signedType f.t) (Claims.element f.t (Claims.operand s.me f.t f.a.toNat l) 0))
      (Claims.num (Claims.signedType f.t) (Claims.elementB s.me f l 0)))], 0)) (fun l => [.p f.d.toNat l false]) (execVcmp c f s) := by
  simp only [← readInt_laneVal, ← readInt_laneB, ← condHolds_eq, ← mode_eq]
  exact vcompare_of_lanes h

/-- What VSEL does in a lane. -/
theorem execVsel_of_lanes {s : State} {c : Ctl} {f : FmtV3}
    (h : Claims.Lanes s.me f.gd ((f.d.toNat, Claims.regs f.t) :: cmpRegs f) (cmpRegs f) [(f.m.extractLsb' 0 3).toNat]) :
    Claims.LaneOutcome s c f.gd (some 4) 0 (fun l _ => (Claims.laneWrite f.t f.d.toNat l
      (if s.me.rp (f.m.extractLsb' 0 3).toNat l then Claims.operand s.me f.t f.a.toNat l
       else if f.m.getLsbD 3 then Claims.joined f.t (fun _ => Claims.immediate f.t f.b) else Claims.operand s.me f.t f.b.toNat l), 0))
      (fun l => Claims.laneWrite f.t f.d.toNat l 0) (execVsel c f s) := by
  have chosen (l : Nat) : (if s.me.rp (f.m.extractLsb' 0 3).toNat l then Claims.operand s.me f.t f.a.toNat l
      else if f.m.getLsbD 3 then Claims.joined f.t (fun _ => Claims.immediate f.t f.b) else Claims.operand s.me f.t f.b.toNat l) =
      BitVec.ofNat 64 (if s.me.rp f.mode l then laneVal s.me f.t.toNat f.a.toNat l else laneB s.me f l) := by
    rw [apply_ite (BitVec.ofNat 64), laneB_eq, laneVal_eq, BitVec.ofNat_toNat, BitVec.setWidth_eq, mode_eq]
  simp only [chosen, ← wrV_eq, ← wrV_zero]
  rw [← mode_eq, ← tRegs_eq] at h
  rw [execVsel]
  exact laneInstr_of_lanes rfl h

theorem lutAt_toNat (m : BitVec 4) (a b : Bool) : lutAt m.toNat a b = m.getLsbD (2 * a.toNat + b.toNat) := by revert m a b; decide

theorem execPop_of_lanes {s : State} {c : Ctl} {f : FmtV3} (h : Claims.Lanes s.me f.gd [] [] [f.a.toNat, f.b.toNat]) :
    Claims.LaneOutcome s c f.gd (some 4) 0 (fun l _ => ([.p f.d.toNat l
      (f.m.getLsbD (2 * (s.me.rp f.a.toNat l).toNat + (s.me.rp f.b.toNat l).toNat))], 0)) (fun l => [.p f.d.toNat l false]) (execPop c f s) := by
  simp only [← lutAt_toNat]
  exact laneInstr_of_lanes rfl h

/-! ## VDOT4 (R118) -/

/-- Byte i of a register, unsigned or signed. -/
def dotByte (uns : Bool) (x : W32) (i : Nat) : Int := if uns then ((x.extractLsb' (8 * i) 8).toNat : Int) else (x.extractLsb' (8 * i) 8).toInt

theorem readInt_byte (uns : Bool) (x : W32) (i : Nat) : readInt 8 (!uns) (bitsN x.toNat (8 * i) 8) = dotByte uns x i := by
  rw [bitsN_toNat, readInt_toNat (by decide)]
  cases uns <;> rfl

/-- The two flags of M: a and b unsigned. -/
theorem dot_flags (f : FmtV3) : decide (f.mode % 2 = 0) = !f.m.getLsbD 0 ∧ decide (f.mode / 2 % 2 = 0) = !f.m.getLsbD 1 := by
  rw [FmtV3.mode]
  generalize f.m = m
  revert m
  decide

/-- The sum of a lane, narrowed to 32 bits. -/
def dot4Lane (g : Group) (f : FmtV3) (l : Nat) : W32 × BitVec 8 :=
  let term := fun i => dotByte (f.m.getLsbD 0) (g.rv f.a.toNat l) i * dotByte (f.m.getLsbD 1) (g.rv f.b.toNat l) i
  Claims.narrowed 32 true (Claims.prefixSat g) ((g.rv (Claims.fourth g f.d) l).toInt + (term 0 + term 1 + term 2 + term 3))

/-- What VDOT4 needs and does in a lane, as the rule gives it. -/
def dot4Op (f : FmtV3) (g : Group) : LaneOp :=
  let sources := [(f.a.toNat, 1), (f.b.toNat, 1), (Claims.fourth g f.d, 1)]
  { named := (f.d.toNat, 1) :: sources, reads := sources, preds := [], coins := 0
    run := fun l _ => ([.v f.d.toNat l (dot4Lane g f l).1 false], (dot4Lane g f l).2), zero := fun l => [.v f.d.toNat l 0 false] }

theorem execVdot4_eq (c : Ctl) (f : FmtV3) (s : State) : execVdot4 c f s = laneInstr c f.gd (some 4) (dot4Op f) s := by
  obtain ⟨unsA, unsB⟩ := dot_flags f
  refine congrArg (laneInstr c f.gd (some 4) · s) (funext fun g => congrArg (LaneOp.mk _ _ _ _ · _) (funext fun l => funext fun _ => ?_))
  dsimp only
  rw [clampInt_eq, unsA, unsB, BitVec.ofNat_toNat, BitVec.setWidth_eq]
  simp only [readInt_byte, List.range_succ, List.range_zero, List.nil_append, List.cons_append, List.foldl_cons, List.foldl_nil, Int.add_assoc, dot4Lane,
    pfxSat_eq, pfxC_eq]

theorem execVdot4_of_lanes {s : State} {c : Ctl} {f : FmtV3} (h : Claims.Lanes s.me f.gd (dot4Op f s.me).named (dot4Op f s.me).reads []) :
    Claims.LaneOutcome s c f.gd (some 4) 0 (dot4Op f s.me).run (dot4Op f s.me).zero (execVdot4 c f s) := by
  rw [execVdot4_eq]
  exact laneInstr_of_lanes rfl h

/-- Settles O12: each by its one case. -/
theorem immediatesPredicatesAndByteDot : Obligations.ImmediatesPredicatesAndByteDot := by
  refine fun s c => ⟨fun f => ⟨fun h => ⟨vmovi_of_lanes (readsD := false) (r := fun _ => f.imm.signExtend 32) h,
    vmovi_of_lanes (readsD := false) (r := fun _ => f.imm.setWidth 32) h, vmovi_of_lanes (readsD := false) (r := fun _ => f.imm ++ f.imm) h⟩,
    fun h => vmovi_of_lanes (readsD := true) (r := fun d => f.imm ++ d.extractLsb' 0 16) h⟩, fun f => ?_⟩
  dsimp only
  rw [← cmpRegs_eq]
  exact ⟨fun h _ _ => execVcmp_of_lanes h, fun h _ => execVsel_of_lanes h, execPop_of_lanes, execVdot4_of_lanes⟩

end Sys2Proof.Machine
end

section
/-!
PROOFS. Floating lanes and special functions (R119, R120, R122, R123, R127).
-/
namespace Sys2Proof.Machine

/-! ## Shapes (R37, R38, R60, R127) -/

theorem fenv_eq (g : Group) (rnd : Nat) : fenv g rnd = Claims.environment g rnd := rfl

/-- The words drawn under SR, where the instruction rounds. -/
theorem srWords_eq (g : Group) (rnd : Nat) (t : BitVec 4) : srWordsOf (fenv g rnd) (elemN t.toNat) =
    if true && (Claims.environment g rnd).rm == 6 then (Claims.shape t).2 else 0 := by
  rw [elemN_eq, srWordsOf, fenv_eq, Bool.true_and]
  simp only [beq_iff_eq]

section
variable {c : Ctl} {f : FmtV3} {takesB takesC : Bool} {s : State} {i : Instr}

/-- A floating instruction that computes each element from bit patterns, whatever it does not read. -/
theorem floating_says {varLat rounds : Bool} {rnd : Nat} {op : Group → LaneOp} {r : FEnv → Fmt → Nat → Nat → Nat → Nat → Nat × BitVec 8}
    (hi : exec i s = laneInstr c f.gd (if varLat then none else fLat f) op s)
    (hop : op s.me = v3Op s.me f takesB takesC (if rounds && (Claims.environment s.me rnd).rm == 6 then (Claims.shape f.t).2 else 0)
      (r (fenv s.me rnd) (elemFmt f.t.toNat)))
    (h : ∀ e m k a b d, r e m k a (if takesB then b else 0) (if takesC then d else 0) = r e m k a b d) :
    (Claims.floating s.me c f takesB takesC varLat rounds rnd r).Says s i := by
  refine says_of_realizes hi hop rfl fun w a b d => ?_
  rw [elemFmt_eq]
  exact (congrArg (fun x : Nat × BitVec 8 => (BitVec.ofNat _ x.1, x.2)) (h ..)).symm

theorem vround_says {r : FEnv → Fmt → Nat → Nat → Nat → Nat → Nat × BitVec 8} (hi : exec i s = vround c f takesB takesC s r)
    (h : ∀ e m k a b d, r e m k a (if takesB then b else 0) (if takesC then d else 0) = r e m k a b d) :
    (Claims.floating s.me c f takesB takesC false true (Claims.prefixRnd s.me) r).Says s i :=
  floating_says (varLat := false) hi (congrArg (v3Op _ _ _ _ · _) (srWords_eq ..)) h

/-- One that rounds nothing. -/
theorem vplain_says {r : FEnv → Fmt → Nat → Nat → Nat × BitVec 8} (hi : exec i s = vplain c f takesB s r)
    (h : ∀ e m a b, r e m a (if takesB then b else 0) = r e m a b) :
    (Claims.floating s.me c f takesB false false false 0 (fun e m _ a b _ => r e m a b)).Says s i :=
  floating_says (varLat := false) hi rfl fun e m _ a b _ => h e m a b

/-- A special function that rounds in RND. -/
theorem xround_says {r : FEnv → Fmt → Nat → Nat → Nat × BitVec 8} (hi : exec i s = xround c f s r) :
    (Claims.floating s.me c f false false true true (Claims.prefixRnd s.me) (fun e m k a _ _ => r e m k a)).Says s i :=
  floating_says (varLat := true) hi (congrArg (v3Op _ _ _ _ · _) (srWords_eq ..)) fun _ _ _ _ _ _ => rfl

/-- A special function that rounds to nearest even. -/
theorem xnear_says {r : FEnv → Fmt → Nat → Nat × BitVec 8} (hi : exec i s = xnear c f s r) :
    (Claims.floating s.me c f false false true false 1 (fun e m _ a _ _ => r e m a)).Says s i :=
  floating_says (varLat := true) hi rfl fun _ _ _ _ _ _ => rfl

end

/-! ## Signs (R119) -/

/-- The sign bit of a floating element is its highest. -/
theorem signBit_eq {t : BitVec 4} (h8 : 8 ≤ t.toNat) (hB : t.toNat ≤ 0xB) :
    (elemFmt t.toNat).eb + (elemFmt t.toNat).mb = (Claims.shape t).1 - 1 := by
  revert t
  decide

theorem getLsbD_signBit {w : Nat} (i : Nat) (h : i < w) : ((1 : BitVec w) <<< (w - 1)).getLsbD i = decide (i = w - 1) := by
  rw [show (1 : BitVec w) <<< (w - 1) = BitVec.twoPow w (w - 1) from (BitVec.twoPow_eq w (w - 1)).symm, BitVec.getLsbD_twoPow]
  grind

/-- A word below its highest bit. -/
theorem toNat_mod_signBit {w : Nat} (a : BitVec w) : a.toNat % 2 ^ (w - 1) = (a &&& ~~~((1 : BitVec w) <<< (w - 1))).toNat := by
  refine Nat.eq_of_testBit_eq fun i => ?_
  rw [Nat.testBit_mod_two_pow, BitVec.testBit_toNat, BitVec.testBit_toNat, BitVec.getLsbD_and, BitVec.getLsbD_not]
  by_cases h : i < w
  · rw [getLsbD_signBit i h]
    grind
  · rw [BitVec.getLsbD_of_ge a i (by omega), Bool.and_false, Bool.false_and]

/-- A word with its highest bit turned. -/
theorem toNat_flip_signBit {w : Nat} (hw : 0 < w) (a : BitVec w) :
    (if bitN a.toNat (w - 1) then a.toNat % 2 ^ (w - 1) else a.toNat + 2 ^ (w - 1)) = (a ^^^ ((1 : BitVec w) <<< (w - 1))).toNat := by
  have top : bitN a.toNat (w - 1) = a.toNat.testBit (w - 1) := (Nat.testBit_eq_decide_div_mod_eq ..).symm ▸ rfl
  have flipped (i : Nat) (h : i < w) : (a ^^^ ((1 : BitVec w) <<< (w - 1))).getLsbD i = (a.getLsbD i != decide (i = w - 1)) := by
    rw [BitVec.getLsbD_xor, getLsbD_signBit i h]
  rw [top]
  split
  · next h =>
    rw [toNat_mod_signBit]
    congr 1
    refine BitVec.eq_of_getLsbD_eq fun i hi => ?_
    rw [flipped i hi, BitVec.getLsbD_and, BitVec.getLsbD_not, getLsbD_signBit i hi]
    rw [BitVec.testBit_toNat] at h
    grind
  · next h =>
    have small : a.toNat < 2 ^ (w - 1) := Nat.lt_pow_two_of_testBit _ fun i hi => by
      rw [BitVec.testBit_toNat] at h ⊢
      rcases Nat.eq_or_lt_of_le hi with rfl | above
      · exact Bool.eq_false_iff.mpr h
      · exact BitVec.getLsbD_of_ge a i (by omega)
    rw [Nat.add_comm, ← Nat.mul_one (2 ^ (w - 1)), Nat.two_pow_add_eq_or_of_lt small, Nat.mul_one,
      ← BitVec.toNat_twoPow_of_lt (by omega : w - 1 < w), ← BitVec.toNat_or]
    congr 1
    refine BitVec.eq_of_getLsbD_eq fun i hi => ?_
    rw [flipped i hi, BitVec.getLsbD_or, BitVec.getLsbD_twoPow]
    rw [BitVec.testBit_toNat] at h
    grind

section
variable {c : Ctl} {f : FmtV3} {s : State}

/-- A floating instruction that changes only the sign bit. -/
theorem sign_says {i : Instr} {r : Fmt → Nat → Nat} {op : BitVec (Claims.shape f.t).1 → BitVec (Claims.shape f.t).1}
    (hi : exec i s = vplain c f false s (fun _ m a _ => (r m a, 0))) (h : ∀ a, r (elemFmt f.t.toNat) a.toNat = (op a).toNat) :
    (⟨c, f, true, false, false, some (if f.t = 9 then 6 else 4), 0, fun _ a _ _ => (op a, 0)⟩ : Claims.Elementwise).Says s i :=
  says_of_realizes hi rfl rfl fun _ a _ _ => by
    dsimp only
    rw [h, BitVec.ofNat_toNat, BitVec.setWidth_eq]

theorem fabs_says (h8 : 8 ≤ f.t.toNat) (hB : f.t.toNat ≤ 0xB) :
    (⟨c, f, true, false, false, some (if f.t = 9 then 6 else 4), 0,
      fun _ a _ _ => (a &&& ~~~((1 : BitVec _) <<< ((Claims.shape f.t).1 - 1)), 0)⟩ : Claims.Elementwise).Says s (.fabs c f) :=
  sign_says (exec_fabs c f s) fun a => by rw [Fmt.signBit, signBit_eq h8 hB, toNat_mod_signBit]

theorem fneg_says (h8 : 8 ≤ f.t.toNat) (hB : f.t.toNat ≤ 0xB) :
    (⟨c, f, true, false, false, some (if f.t = 9 then 6 else 4), 0,
      fun _ a _ _ => (a ^^^ ((1 : BitVec _) <<< ((Claims.shape f.t).1 - 1)), 0)⟩ : Claims.Elementwise).Says s (.fneg c f) :=
  sign_says (exec_fneg c f s) fun a => by rw [Fmt.signBit, signBit_eq h8 hB, toNat_flip_signBit (shape_width_pos f.t)]

/-! ## Rounding and scaling (R119, R123) -/

theorem frnd_says :
    (Claims.floating s.me c f false false false true (f.m.extractLsb' 0 3).toNat (fun e m k a _ _ => fRound e m k a)).Says s (.frnd c f) := by
  rw [← mode_eq]
  exact floating_says (varLat := false) (exec_frnd c f s) (congrArg (v3Op _ _ _ _ · _) (srWords_eq ..)) fun _ _ _ _ _ _ => rfl

/-- The scaled element. -/
def scaled (g : Group) (f : FmtV3) (k a b _d : Nat) : Nat × Stat :=
  fScale (fenv g (pfxRnd g)) (elemFmt f.t.toNat) k a (if f.imm then simm8 f.b else sgn (elemW f.t.toNat) b)

theorem execFscl_eq : execFscl c f s =
    laneInstr c f.gd (fLat f) (fun g => v3Op g f true false (srWordsOf (fenv g (pfxRnd g)) (elemN f.t.toNat)) (scaled g f)) s := rfl

theorem fscl_says :
    (⟨c, f, true, true, false, some (if f.t = 9 then 6 else 4),
      if true && (Claims.environment s.me (Claims.prefixRnd s.me)).rm == 6 then (Claims.shape f.t).2 else 0, fun w a b _ =>
        let r := fScale (Claims.environment s.me (Claims.prefixRnd s.me)) (Claims.format f.t) (Claims.coinOf w) a.toNat
          (if f.m.getLsbD 3 then f.b.toInt else b.toInt)
        (BitVec.ofNat _ r.1, r.2)⟩ : Claims.Elementwise).Says s (.fscl c f) := by
  refine says_of_realizes (el := scaled s.me f) ((exec_fscl c f s).trans execFscl_eq) (congrArg (v3Op _ _ _ _ · _) (srWords_eq ..)) rfl
    fun _ a b _ => ?_
  simp only [scaled, imm_eq, elemW_eq, elemFmt_eq, if_true, sgn_toNat (shape_width_pos f.t)]
  rfl

end

/-- Each floating instruction, by the operation that it computes on its elements. -/
theorem floatingOf_says {s : State} {i : Instr} {e : Claims.Elementwise} (hi : Claims.floatingOf s.me i = some e) (h8 : 8 ≤ e.f.t.toNat)
    (hB : e.f.t.toNat ≤ 0xB) : e.Says s i := by
  cases i
  all_goals cases hi
  case fadd c f => exact vround_says (exec_fadd c f s) fun _ _ _ _ _ _ => rfl
  case fsub c f => exact vround_says (exec_fsub c f s) fun _ _ _ _ _ _ => rfl
  case fmul c f => exact vround_says (exec_fmul c f s) fun _ _ _ _ _ _ => rfl
  case ffma c f => exact vround_says (exec_ffma c f s) fun _ _ _ _ _ _ => rfl
  case fmin c f => exact vplain_says (exec_fmin c f s) fun _ _ _ _ => rfl
  case fmax c f => exact vplain_says (exec_fmax c f s) fun _ _ _ _ => rfl
  case fminn c f => exact vplain_says (exec_fminn c f s) fun _ _ _ _ => rfl
  case fmaxn c f => exact vplain_says (exec_fmaxn c f s) fun _ _ _ _ => rfl
  case fclass c f => exact vplain_says (exec_fclass c f s) fun _ _ _ _ => rfl
  case fclassKey c f => exact vplain_says (exec_fclassKey c f s) fun _ _ _ _ => rfl
  case fabs c f => exact fabs_says h8 hB
  case fneg c f => exact fneg_says h8 hB
  case frnd c f => exact frnd_says
  case fscl c f => exact fscl_says
  case xrcp c f => exact xround_says (exec_xrcp c f s)
  case xsqrt c f => exact xround_says (exec_xsqrt c f s)
  case xrsq c f => exact xnear_says (exec_xrsq c f s)
  case xexp2 c f => exact xnear_says (exec_xexp2 c f s)
  case xlog2 c f => exact xnear_says (exec_xlog2 c f s)
  case xsin c f => exact xnear_says (exec_xsin c f s)
  case xcos c f => exact xnear_says (exec_xcos c f s)
  case xtanh c f => exact xnear_says (exec_xtanh c f s)
  case xsig c f => exact xnear_says (exec_xsig c f s)

/-- Settles O13: by the operation that each instruction computes on its elements. -/
theorem floatingLanesComputeElements : Obligations.FloatingLanesComputeElements := fun _ _ _ hi h8 hB => floatingOf_says hi h8 hB

end Sys2Proof.Machine
end

section
/-!
PROOFS. Floating comparisons, dot products, conversions and packs (R121, R124, R125, R126).
-/
namespace Sys2Proof.Machine

theorem laneInstr_congr {c : Ctl} {gd : BitVec 4} {lat : Option Nat} {op op' : Group → LaneOp} {s : State} (h : ∀ g, op g = op' g) :
    laneInstr c gd lat op s = laneInstr c gd lat op' s := congrArg (laneInstr c gd lat · s) (funext h)

/-! ## FCMP (R121) -/

/-- The operand of a type with one element is that element. -/
theorem laneVal_single {t : BitVec 4} (ht : t = 8 ∨ t = 9) (g : Group) (r l : Nat) :
    laneVal g t.toNat r l = (Claims.element t (Claims.operand g t r l) 0).toNat := by
  rw [laneVal_eq]
  rcases ht with rfl | rfl
  · simp [Claims.operand, Claims.element, Claims.shape, Claims.regs]
    omega
  · simp [Claims.operand, Claims.element, Claims.shape, Claims.regs]
    omega

theorem laneB_single {f : FmtV3} (ht : f.t = 8 ∨ f.t = 9) (g : Group) (l : Nat) : laneB g f l = (Claims.elementB g f l 0).toNat := by
  have one : elemN f.t.toNat = 1 := by rcases ht with h | h <;> rw [h] <;> rfl
  rw [laneB, Claims.elementB, imm_eq]
  split
  · rw [one, joinElems_eq, immediate_eq, BitVec.toNat_ofNat]
    simp [horner]
  · exact laneVal_single ht g f.b.toNat l

theorem execFcmp_of_lanes {s : State} {c : Ctl} {f : FmtV3} (h : Claims.Lanes s.me f.gd (cmpRegs f) (cmpRegs f) []) (ht : f.t = 8 ∨ f.t = 9) :
    Claims.LaneOutcome s c f.gd (some (if f.t = 9 then 6 else 4)) 0 (fun l _ =>
      let r := fCmp (Claims.environment s.me 0) (Claims.format f.t) (f.m.extractLsb' 0 3).toNat
        (Claims.element f.t (Claims.operand s.me f.t f.a.toNat l) 0).toNat (Claims.elementB s.me f l 0).toNat
      ([.p f.d.toNat l r.1], r.2)) (fun l => [.p f.d.toNat l false]) (execFcmp c f s) := by
  simp only [← laneVal_single ht, ← laneB_single ht, ← mode_eq, ← elemFmt_eq]
  exact vcompare_of_lanes h

/-! ## FDOT2 (R124) -/

/-- The dot product of a lane. -/
def dot2Lane (g : Group) (f : FmtV3) (l k : Nat) : Nat × BitVec 8 :=
  let env := Claims.environment g (Claims.prefixRnd g)
  let u := fun r i => unpack (Claims.format f.t) env.daz ((g.rv r l).extractLsb' (16 * i) 16).toNat
  fDot2 env (Claims.format f.t) k (u f.a.toNat 0) (u f.b.toNat 0) (u f.a.toNat 1) (u f.b.toNat 1)
    (unpack fF32 env.daz (g.rv (Claims.fourth g f.d) l).toNat)

/-- What FDOT2 needs and does in a lane, as the rule gives it. -/
def dot2Op (f : FmtV3) (g : Group) : LaneOp :=
  let sources := [(f.a.toNat, 1), (f.b.toNat, 1), (Claims.fourth g f.d, 1)]
  { named := (f.d.toNat, 1) :: sources, reads := sources, preds := []
    coins := if (Claims.environment g (Claims.prefixRnd g)).rm = 6 then 1 else 0
    run := fun l ws =>
      let r := dot2Lane g f l (Claims.coinOf (ws.getD 0 0))
      ([.v f.d.toNat l (BitVec.ofNat 32 r.1) false], r.2)
    zero := fun l => [.v f.d.toNat l 0 false] }

/-- An element of 16 bits of one register. -/
theorem elem_half {t : BitVec 4} (ht : t = 0xA ∨ t = 0xB) (g : Group) (r l i : Nat) :
    elem t.toNat (laneVal g t.toNat r l) i = ((g.rv r l).extractLsb' (16 * i) 16).toNat := by
  rcases ht with rfl | rfl
  · exact bitsN_toNat (g.rv r l) (16 * i) 16
  · exact bitsN_toNat (g.rv r l) (16 * i) 16

theorem execFdot2_eq (c : Ctl) {f : FmtV3} (ht : f.t = 0xA ∨ f.t = 0xB) (s : State) : execFdot2 c f s = laneInstr c f.gd (some 4) (dot2Op f) s := by
  refine congrArg (laneInstr c f.gd (some 4) · s) (funext fun g => congrArg (LaneOp.mk _ _ _ _ · _) (funext fun l => funext fun _ => ?_))
  simp only [elem_half ht, elemFmt_eq, pfxC_eq, dot2Lane]
  rfl

theorem execFdot2_of_lanes {s : State} {c : Ctl} {f : FmtV3} (h : Claims.Lanes s.me f.gd (dot2Op f s.me).named (dot2Op f s.me).reads [])
    (ht : f.t = 0xA ∨ f.t = 0xB) :
    Claims.LaneOutcome s c f.gd (some 4) (dot2Op f s.me).coins (dot2Op f s.me).run (dot2Op f s.me).zero (execFdot2 c f s) := by
  rw [execFdot2_eq c ht]
  exact laneInstr_of_lanes rfl h

/-! ## FCVT (R125) -/

/-- The source type of a conversion: the low four bits of B. -/
theorem source_eq (b : BitVec 8) : b.toNat % 16 = (b.extractLsb' 0 4).toNat := by
  rw [BitVec.extractLsb'_toNat, Nat.shiftRight_zero]

/-- Of the floating types those of 16 bits hold two elements. -/
theorem halves_iff {t : BitVec 4} (h : 8 ≤ t.toNat) : Claims.shape t = (16, 2) ↔ (t.toNat = 0xA || t.toNat = 0xB) = true := by revert t; decide

/-- The conversion of a lane. -/
def convertLane (env : FEnv) (d src : BitVec 4) (k x : Nat) : Nat × BitVec 8 :=
  if src.toNat ≤ 4 then intToF env (Claims.format d) k x src.toNat
  else if d.toNat ≤ 4 then fToInt env (Claims.format src) k x d.toNat
  else fToF env (Claims.format src) (Claims.format d) k (if Claims.shape src = (16, 2) then x % 2 ^ 16 else x)

/-- What a conversion reads as one value: an integer, or the floating element that has its register alone where the result is an integer. -/
def Converts (d src : BitVec 4) : Prop := src.toNat ≤ 4 ∨ 8 ≤ src.toNat ∧ (d.toNat ≤ 4 → src = 8 ∨ src = 9)

theorem fcvtVal_eq {env : FEnv} {d src : BitVec 4} (h : Converts d src) (k x : Nat) : fcvtVal env d.toNat src.toNat k x = convertLane env d src k x := by
  simp only [fcvtVal, convertLane, elemFmt_eq]
  by_cases fromInt : src.toNat ≤ 4
  · rw [if_pos fromInt, if_pos fromInt]
  · obtain ⟨float, single⟩ := h.resolve_left fromInt
    rw [if_neg fromInt, if_neg fromInt]
    by_cases toInt : d.toNat ≤ 4
    · rw [if_pos toInt, if_pos toInt, if_neg]
      rcases single toInt with rfl | rfl <;> decide
    · rw [if_neg toInt, if_neg toInt]
      simp only [halves_iff float, bitsN, Nat.pow_zero, Nat.div_one]

/-- The source type of FCVT. -/
def sourceType (f : FmtV3) : BitVec 4 := f.b.extractLsb' 0 4

/-- What FCVT needs and does in a lane, as the rule gives it. -/
def convertOp (f : FmtV3) (g : Group) : LaneOp :=
  let env := Claims.environment g (f.m.extractLsb' 0 3).toNat
  { named := [(f.d.toNat, Claims.regs f.t), (f.a.toNat, Claims.regs (sourceType f))], reads := [(f.a.toNat, Claims.regs (sourceType f))], preds := []
    coins := if env.rm = 6 then 1 else 0
    run := fun l ws =>
      let r := convertLane env f.t (sourceType f) (Claims.coinOf (ws.getD 0 0)) (Claims.operand g (sourceType f) f.a.toNat l).toNat
      (Claims.laneWrite f.t f.d.toNat l (BitVec.ofNat 64 r.1), r.2)
    zero := fun l => Claims.laneWrite f.t f.d.toNat l 0 }

/-- The latency of FCVT. -/
def convertLat (f : FmtV3) : Nat := if f.t = 9 ∨ sourceType f = 9 then 6 else 4

theorem convertLat_eq (f : FmtV3) : (if f.t.toNat = 9 || f.b.toNat % 16 = 9 then 6 else 4) = convertLat f := by
  rw [source_eq, convertLat, sourceType]
  simp only [Bool.or_eq_true, decide_eq_true_eq, ← BitVec.toNat_inj]
  rfl

theorem execFcvt_eq {c : Ctl} {f : FmtV3} (s : State) (h : Converts f.t (sourceType f)) :
    execFcvt c f s = laneInstr c f.gd (some (convertLat f)) (convertOp f) s := by
  rw [execFcvt, ← convertLat_eq]
  refine laneInstr_congr fun g => ?_
  simp only [source_eq, ← sourceType.eq_def, fcvtVal_eq h, laneVal_eq, wrV_eq, tRegs_eq, mode_eq, convertOp]
  rfl

theorem execFcvt_of_lanes {s : State} {c : Ctl} {f : FmtV3} (h : Claims.Lanes s.me f.gd (convertOp f s.me).named (convertOp f s.me).reads [])
    (types : Converts f.t (sourceType f)) :
    Claims.LaneOutcome s c f.gd (some (convertLat f)) (convertOp f s.me).coins (convertOp f s.me).run (convertOp f s.me).zero (execFcvt c f s) := by
  rw [execFcvt_eq s types]
  exact laneInstr_of_lanes rfl h

/-! ## FPACK and FUNPK (R126) -/

theorem packAt_eq {t : BitVec 4} (h : 0xA ≤ t.toNat) (h' : t.toNat ≤ 0xE) (j : Nat) :
    packAt t.toNat j = (if (Claims.shape t).1 = 16 then 0 else 2 * (Claims.shape t).1 * j, (Claims.shape t).1) := by
  have cases : t = 0xA ∨ t = 0xB ∨ t = 0xC ∨ t = 0xD ∨ t = 0xE := by revert t; decide
  rcases cases with rfl | rfl | rfl | rfl | rfl <;> rfl

/-- Two values in a field of a word. -/
theorem packed_eq {w at' : Nat} (fits : at' + 2 * w ≤ 32) (d : W32) (x y : Nat) :
    BitVec.ofNat 32 (d.toNat - bitsN d.toNat at' (2 * w) * 2 ^ at' + (x % 2 ^ w + y % 2 ^ w * 2 ^ w) * 2 ^ at') =
      (d &&& ~~~(((BitVec.allOnes (w + w)).setWidth 32) <<< at')) ||| ((BitVec.ofNat w y ++ BitVec.ofNat w x).setWidth 32 <<< at') := by
  have both : x % 2 ^ w + y % 2 ^ w * 2 ^ w = (BitVec.ofNat w y ++ BitVec.ofNat w x).toNat % 2 ^ (2 * w) := by
    rw [Nat.two_mul, Nat.mod_eq_of_lt (BitVec.ofNat w y ++ BitVec.ofNat w x).isLt, BitVec.toNat_append, BitVec.toNat_ofNat, BitVec.toNat_ofNat,
      Nat.shiftLeft_eq, Nat.mul_comm, ← Nat.two_pow_add_eq_or_of_lt (Nat.mod_lt x (Nat.two_pow_pos w)), Nat.add_comm]
  rw [both]
  refine BitVec.eq_of_getLsbD_eq fun i hi => ?_
  rw [BitVec.getLsbD_ofNat, testBit_replaceField, BitVec.testBit_toNat, BitVec.testBit_toNat]
  simp only [BitVec.getLsbD_or, BitVec.getLsbD_and, BitVec.getLsbD_not, BitVec.getLsbD_shiftLeft, BitVec.getLsbD_setWidth, BitVec.getLsbD_allOnes]
  grind

/-- The second value of FPACK in a lane. -/
def packB (g : Group) (f : FmtV3) (l : Nat) : W32 := if f.m.getLsbD 3 then Claims.smallFloat 32 8 23 127 f.b.toInt else g.rv f.b.toNat l

/-- What FPACK needs and does in a lane, as the rule gives it. -/
def packOp (f : FmtV3) (g : Group) : LaneOp :=
  let sources := (f.a.toNat, 1) :: (if f.m.getLsbD 3 then [] else [(f.b.toNat, 1)])
  let env := Claims.environment g (Claims.prefixRnd g)
  let w := (Claims.shape f.t).1
  let at' := if w = 16 then 0 else 2 * w * (f.m.extractLsb' 0 3).toNat
  { named := (f.d.toNat, 1) :: sources, reads := sources ++ (if w = 16 then [] else [(f.d.toNat, 1)]), preds := []
    coins := if env.rm = 6 then 2 else 0
    run := fun l ws =>
      let x := fToF env fF32 (Claims.format f.t) (Claims.coinOf (ws.getD 0 0)) (g.rv f.a.toNat l).toNat
      let y := fToF env fF32 (Claims.format f.t) (Claims.coinOf (ws.getD 1 0)) (packB g f l).toNat
      let mask : W32 := ((BitVec.allOnes (w + w)).setWidth 32) <<< at'
      ([.v f.d.toNat l ((g.rv f.d.toNat l &&& ~~~mask) ||| ((BitVec.ofNat w y.1 ++ BitVec.ofNat w x.1).setWidth 32 <<< at')) false], x.2 ||| y.2)
    zero := fun l => [.v f.d.toNat l 0 false] }

theorem packB_toNat (g : Group) (f : FmtV3) (l : Nat) :
    (if f.m.getLsbD 3 then immElem 8 f.b else (g.rv f.b.toNat l).toNat) = (packB g f l).toNat := by
  rw [packB, apply_ite BitVec.toNat]
  exact congrArg (fun x => if f.m.getLsbD 3 = true then x else _) (immElem_float 8 (by simp) f.b)

theorem fillsRegister_iff {t : BitVec 4} (h : 0xA ≤ t.toNat) (h' : t.toNat ≤ 0xE) :
    (t.toNat = 0xA || t.toNat = 0xB) = decide ((Claims.shape t).1 = 16) := by
  revert t; decide

theorem execFpack_eq {c : Ctl} {f : FmtV3} (s : State) (h : 0xA ≤ f.t.toNat) (h' : f.t.toNat ≤ 0xE)
    (fits : (if (Claims.shape f.t).1 = 16 then 0 else 2 * (Claims.shape f.t).1 * (f.m.extractLsb' 0 3).toNat) + 2 * (Claims.shape f.t).1 ≤ 32) :
    execFpack c f s = laneInstr c f.gd (some 4) (packOp f) s := by
  rw [execFpack]
  refine laneInstr_congr fun g => ?_
  simp only [packAt_eq h h', packB_toNat, packed_eq fits, mode_eq, imm_eq, fillsRegister_iff h h', elemFmt_eq, packOp, decide_eq_true_eq]
  rfl

/-- What FUNPK needs and does in a lane, as the rule gives it. -/
def unpackOp (f : FmtV3) (g : Group) : LaneOp where
  named := [(f.d.toNat, 1), (f.a.toNat, 1)]
  reads := [(f.a.toNat, 1)]
  preds := []
  coins := 0
  run := fun l _ =>
    let r := fToF (Claims.environment g 0) (Claims.format f.t) fF32 0
      ((g.rv f.a.toNat l).extractLsb' ((Claims.shape f.t).1 * (f.m.extractLsb' 0 3).toNat) (Claims.shape f.t).1).toNat
    ([.v f.d.toNat l (BitVec.ofNat 32 r.1) false], r.2)
  zero := fun l => [.v f.d.toNat l 0 false]

theorem execFunpk_eq (c : Ctl) (f : FmtV3) (s : State) : execFunpk c f s = laneInstr c f.gd (some 4) (unpackOp f) s := by
  rw [execFunpk]
  refine laneInstr_congr fun g => ?_
  simp only [elem, elemW_eq, elemFmt_eq, mode_eq, bitsN_toNat, unpackOp]
  rfl

/-- Settles O14: by the operation of each instruction in a lane. -/
theorem floatingComparesConversionsAndPacks : Obligations.FloatingComparesConversionsAndPacks := by
  refine fun s c f => ⟨?fcmp, execFdot2_of_lanes, ?fcvt, ?fpack, ?funpk⟩
  case fcmp =>
    rw [← cmpRegs_eq]
    exact execFcmp_of_lanes
  case fcvt =>
    exact fun h types => execFcvt_of_lanes h (by unfold Converts sourceType; bv_omega)
  case fpack =>
    intro r2 env w at' h ge le fits
    rw [exec_fpack, execFpack_eq s ge le fits]
    exact laneInstr_of_lanes rfl h
  case funpk =>
    intro h ge le
    rw [exec_funpk, execFunpk_eq]
    exact laneInstr_of_lanes rfl h

end Sys2Proof.Machine
end

section
/-!
PROOFS. Special values (R128), minimum, maximum and order (R120, R121), for the four formats of the lanes.
-/
namespace Sys2Proof.Machine

/-- The formats of the lanes. -/
def laneFormats : List Fmt := [fF32, fF64, fF16, fBf16]

/-! ## What the encodings of a format hold (R33, R34) -/

section
variable {m : Fmt} (hm : m ∈ laneFormats) (daz : Bool)
include hm

theorem unpack_zero (sg : Bool) : unpack m daz (Claims.zeroBits m sg) = .num sg 0 (m.emin - m.mb) := by revert m daz sg; decide +kernel
theorem unpack_infinity (sg : Bool) : unpack m daz (Claims.infinity m sg) = .inf sg := by revert m daz sg; decide +kernel
theorem unpack_one (sg : Bool) : unpack m daz (Claims.powerOfTwo m sg 0) = .num sg (2 ^ m.mb) (-m.mb) := by revert m daz sg; decide +kernel
theorem unpack_quietNan : unpack m daz (Claims.quietNan m) = .nan false true (2 ^ (m.mb - 1)) := by revert m daz; decide +kernel

theorem mantissa_ne_zero : m.mb ≠ 0 := by revert m; decide
theorem canonNan_eq : m.canonNan = Claims.quietNan m := by revert m; decide +kernel
theorem oneBits_eq : oneBits m = Claims.powerOfTwo m false 0 := by revert m; decide +kernel
theorem half_eq : Claims.powerOfTwo m false 0 - 2 ^ m.mb = Claims.powerOfTwo m false (-1) := by revert m; decide +kernel

/-- Two is exact in every environment that rounds to nearest even. -/
theorem roundTo_two : ∀ daz ftz nanp sat, roundTo ⟨1, daz, ftz, nanp, sat⟩ m 0 false 1 1 = (Claims.powerOfTwo m false 1, 0) := by
  revert m
  decide +kernel

end

theorem infOf_eq (m : Fmt) (sg : Bool) : infOf m sg = Claims.infinity m sg := rfl
theorem zeroOf_eq (m : Fmt) (sg : Bool) : zeroOf m sg = Claims.zeroBits m sg := rfl

theorem one_add_zeroOf {m : Fmt} (sg : Bool) : oneBits m + zeroOf m sg = Claims.powerOfTwo m sg 0 := by
  rw [Nat.add_comm, oneBits, zeroOf, Claims.powerOfTwo, Int.add_zero, Int.toNat_natCast]
  rfl

/-! ## Special functions (R128) -/

section
variable {m : Fmt} (hm : m ∈ laneFormats) (env : FEnv) (k : Nat) (sg : Bool)
include hm

/-- An operand that is no NaN and no result: the canonical NaN, with IV. -/
theorem invalid_inf : invalid env m [.inf sg] = (Claims.quietNan m, 0x01) := by
  rw [← canonNan_eq hm]
  rfl

theorem xRcp_special : xRcp env m k (Claims.zeroBits m sg) = (Claims.infinity m sg, 0x02) ∧
    xRcp env m k (Claims.infinity m sg) = (Claims.zeroBits m sg, 0) := by
  simp [xRcp, unpack_zero hm, unpack_infinity hm, infOf_eq, zeroOf_eq, stDZ]

theorem xRsq_zero : xRsq env m (Claims.zeroBits m sg) = (Claims.infinity m sg, 0x02) := by
  simp [xRsq, unpack_zero hm, infOf_eq, stDZ]

theorem xRsq_infinity : xRsq env m (Claims.infinity m sg) = if sg then (Claims.quietNan m, 0x01) else (Claims.zeroBits m false, 0) := by
  simp [xRsq, unpack_infinity hm, invalid_inf hm, Claims.zeroBits]

theorem xSqrt_zero : xSqrt env m k (Claims.zeroBits m sg) = (Claims.zeroBits m sg, 0) := by
  simp [xSqrt, unpack_zero hm, zeroOf_eq]

theorem xSqrt_infinity : xSqrt env m k (Claims.infinity m sg) = if sg then (Claims.quietNan m, 0x01) else (Claims.infinity m false, 0) := by
  simp [xSqrt, unpack_infinity hm, invalid_inf hm, infOf_eq]

theorem xExp2_zero : xExp2 env m (Claims.zeroBits m sg) = (Claims.powerOfTwo m false 0, 0) := by
  simp [xExp2, unpack_zero hm, oneBits_eq hm]

theorem xExp2_infinity : xExp2 env m (Claims.infinity m sg) = (if sg then Claims.zeroBits m false else Claims.infinity m false, 0) := by
  simp [xExp2, unpack_infinity hm, infOf_eq, Claims.zeroBits]

/-- One is an integer, and the power of two that it gives is rounded. -/
theorem xExp2_one : xExp2 env m (Claims.powerOfTwo m false 0) = (Claims.powerOfTwo m false 1, 0) := by
  have two := roundTo_two hm env.daz env.ftz env.nanp env.sat
  simp [xExp2, unpack_one hm, rneOf, mantissa_ne_zero hm, two]

theorem xLog2_zero : xLog2 env m (Claims.zeroBits m sg) = (Claims.infinity m true, 0x02) := by
  simp [xLog2, unpack_zero hm, infOf_eq, stDZ]

theorem xLog2_infinity : xLog2 env m (Claims.infinity m sg) = if sg then (Claims.quietNan m, 0x01) else (Claims.infinity m false, 0) := by
  simp [xLog2, unpack_infinity hm, invalid_inf hm, infOf_eq]

/-- One is the power of two with exponent 0. -/
theorem xLog2_one : xLog2 env m (Claims.powerOfTwo m false 0) = (Claims.zeroBits m false, 0) := by
  simp [xLog2, unpack_one hm, Nat.log2_two_pow, Claims.zeroBits]

theorem xSin_special : xTrig false env m (Claims.zeroBits m sg) = (Claims.zeroBits m sg, 0) ∧
    xTrig false env m (Claims.infinity m sg) = (Claims.quietNan m, 0x01) := by
  simp [xTrig, unpack_zero hm, unpack_infinity hm, invalid_inf hm, zeroOf_eq]

theorem xCos_special : xTrig true env m (Claims.zeroBits m sg) = (Claims.powerOfTwo m false 0, 0) ∧
    xTrig true env m (Claims.infinity m sg) = (Claims.quietNan m, 0x01) := by
  simp [xTrig, unpack_zero hm, unpack_infinity hm, invalid_inf hm, oneBits_eq hm]

theorem xTanh_special : xTanh env m (Claims.zeroBits m sg) = (Claims.zeroBits m sg, 0) ∧
    xTanh env m (Claims.infinity m sg) = (Claims.powerOfTwo m sg 0, 0) := by
  simp [xTanh, unpack_zero hm, unpack_infinity hm, zeroOf_eq, ← one_add_zeroOf]

theorem xSig_zero : xSig env m (Claims.zeroBits m sg) = (Claims.powerOfTwo m false (-1), 0) := by
  simp [xSig, unpack_zero hm, oneBits_eq hm, half_eq hm]

theorem xSig_infinity : xSig env m (Claims.infinity m sg) = (if sg then Claims.zeroBits m false else Claims.powerOfTwo m false 0, 0) := by
  simp [xSig, unpack_infinity hm, oneBits_eq hm, Claims.zeroBits]

end

theorem mem_laneFormats {m : Fmt} (h : m = fF32 ∨ m = fF64 ∨ m = fF16 ∨ m = fBf16) : m ∈ laneFormats := by simpa [laneFormats] using h

/-- Settles O15: each function at each value. -/
theorem specialFunctionValues : Obligations.SpecialFunctionValues := by
  intro env m k formats
  have hm := mem_laneFormats formats
  refine ⟨fun sg => ⟨(xRcp_special hm env k sg).1, (xRcp_special hm env k sg).2, xRsq_zero hm env sg, xSqrt_zero hm env k sg, xExp2_zero hm env sg,
    xLog2_zero hm env sg, (xSin_special hm env sg).1, (xCos_special hm env sg).1, (xTanh_special hm env sg).1, xSig_zero hm env sg,
    (xSin_special hm env sg).2, (xCos_special hm env sg).2, (xTanh_special hm env sg).2⟩,
    xRsq_infinity hm env false, xRsq_infinity hm env true, xSqrt_infinity hm env k false, xSqrt_infinity hm env k true, xExp2_infinity hm env false,
    xExp2_infinity hm env true, xLog2_infinity hm env false, xLog2_infinity hm env true, xSig_infinity hm env false, xSig_infinity hm env true,
    xLog2_one hm env, xExp2_one hm env⟩

/-! ## Minimum and maximum (R120) -/

/-- The zeros compare as equal. -/
theorem fvLt_zeros (sg sg' : Bool) (e : Int) : fvLt (.num sg 0 e) (.num sg' 0 e) = false := by
  simp [fvLt, FV.dy, Dy.lt, Dy.negate, Dy.add]

/-- -0 alone is below another zero. -/
theorem fvBelow_zeros (sg sg' : Bool) (e : Int) : fvBelow (.num sg 0 e) (.num sg' 0 e) = (sg && !sg') := by
  simp [fvBelow, fvLt_zeros, FV.isZero, FV.neg]

section
variable {m : Fmt} (hm : m ∈ laneFormats) (env : FEnv)
include hm

/-- The smaller of two zeros is -0 where one of them is, the larger +0. -/
theorem fMinMax_zeros (isMax wins sg sg' : Bool) : fMinMax env m isMax wins (Claims.zeroBits m sg) (Claims.zeroBits m sg') =
    (Claims.zeroBits m (if isMax then sg && sg' else sg || sg'), 0) := by
  simp only [fMinMax, unpack_zero hm, fvBelow_zeros, keepBits, zeroOf_eq]
  cases isMax <;> cases sg <;> cases sg' <;> simp [snanStat, FV.isNan, FV.isSnan, FV.isZero, FV.neg]

/-- The quiet NaN stays as it is, with its payload or as the canonical one. -/
theorem quietTo_quietNan : quietTo m m false (2 ^ (m.mb - 1)) = Claims.quietNan m := by revert m; decide +kernel

theorem nanOut_quietNan (sg : Bool) (n : Nat) (e : Int) :
    nanOut env m [.nan false true (2 ^ (m.mb - 1)), .num sg n e] = (Claims.quietNan m, 0) ∧
      nanOut env m [.num sg n e, .nan false true (2 ^ (m.mb - 1))] = (Claims.quietNan m, 0) := by
  cases keeps : env.nanp <;>
    simp [nanOut, nanResult, snanStat, FV.isSnan, keeps, canonNan_eq hm, quietTo_quietNan hm]

/-- The number wins, or the NaN does. -/
theorem fMinMax_quietNan (isMax wins sg : Bool) :
    fMinMax env m isMax wins (Claims.quietNan m) (Claims.powerOfTwo m sg 0) = (if wins then Claims.quietNan m else Claims.powerOfTwo m sg 0, 0) ∧
      fMinMax env m isMax wins (Claims.powerOfTwo m sg 0) (Claims.quietNan m) = (if wins then Claims.quietNan m else Claims.powerOfTwo m sg 0, 0) := by
  simp only [fMinMax, unpack_quietNan hm, unpack_one hm, nanOut_quietNan hm, keepBits]
  cases wins <;> simp [FV.isNan, FV.isZero, FV.isSnan, snanStat]

/-! ## Comparison (R121) -/

theorem fCmp_zeros {cc : Nat} (hcc : cc < 8) (sg sg' : Bool) :
    (fCmp env m cc (Claims.zeroBits m sg) (Claims.zeroBits m sg')).1 = decide (cc = 0 ∨ cc = 3 ∨ cc = 5 ∨ cc = 7) := by
  simp only [fCmp, unpack_zero hm, fvLt_zeros, FV.isNan]
  interval_cases cc <;> rfl

/-- A quiet NaN is unordered, and invalid for the four orders. -/
theorem fCmp_quietNan {cc : Nat} (hcc : cc < 8) (sg : Bool) : fCmp env m cc (Claims.quietNan m) (Claims.powerOfTwo m sg 0) =
    (decide (cc = 1 ∨ cc = 6), if 2 ≤ cc ∧ cc ≤ 5 then 0x01 else 0) := by
  simp only [fCmp, unpack_quietNan hm, unpack_one hm, FV.isNan]
  interval_cases cc <;> rfl

theorem fCmp_infinity {cc : Nat} (hcc : cc < 8) :
    (fCmp env m cc (Claims.powerOfTwo m true 0) (Claims.infinity m false)).1 = decide (cc = 1 ∨ cc = 2 ∨ cc = 3 ∨ cc = 7) := by
  simp only [fCmp, unpack_infinity hm, unpack_one hm, fvLt, FV.isNan]
  interval_cases cc <;> rfl

end

/-- Settles O16: the zeros, the quiet NaN against one and minus one, and minus one against infinity. -/
theorem minimumMaximumAndOrder : Obligations.MinimumMaximumAndOrder := by
  intro env m formats
  have hm := mem_laneFormats formats
  refine ⟨fun wins => ⟨fMinMax_zeros hm env false wins false true, fMinMax_zeros hm env false wins true false,
      fMinMax_zeros hm env true wins true false, fMinMax_zeros hm env true wins false true⟩,
    fun isMax sg => ?_, fun cc hcc sg sg' => ⟨fCmp_zeros hm env hcc sg sg', fCmp_quietNan hm env hcc sg, fCmp_infinity hm env hcc⟩⟩
  obtain ⟨numberB, numberA⟩ := fMinMax_quietNan hm env isMax false sg
  obtain ⟨nanA, nanB⟩ := fMinMax_quietNan hm env isMax true sg
  exact ⟨numberB, numberA, nanA, nanB⟩

end Sys2Proof.Machine
end

section
/-!
PROOFS. Cross-lane moves, votes and matches (R130 to R133, R136, R137).
-/
namespace Sys2Proof.Machine

/-! ## The outcome (R130) -/

/-- A cross-lane instruction that no fault stops makes its writes and sets its status. -/
theorem crossInstr_of_run {s : State} {c : Ctl} {gd : BitVec 4} {dest reads : List (Nat × Nat)} {preds gregs : List Nat}
    {run : Group → List Nat → List RegWr × List (Nat × Stat)} (h : Claims.Crosses s.me gd dest reads preds gregs) {wr : List RegWr}
    {sts : List (Nat × Stat)} {status : Nat → BitVec 8} (ho : run s.me (Claims.crossLanes s.me gd) = (wr, sts))
    (hs : statWrs s.me sts = (Claims.crossLanes s.me gd).flatMap (fun l => Claims.statusOf s.me.fmt l (status l))) :
    Claims.CrossOutcome s c gd wr status (crossInstr c gd dest reads preds run s) := by
  have clean : srcBad s.me lanes reads = false := srcBad_of_clean fun l hl => h.reads l (List.mem_range.mp hl)
  rw [Claims.CrossOutcome, crossInstr]
  dsimp only
  rw [part'_eq_crossLanes, vRange_of_forall h.range, pGuardBad_of_clean h.guard, clean, predBad_of_clean h.preds]
  refine (orFault_ok rfl).trans ?_
  rw [ho, hs]
  by_cases none : Claims.crossLanes s.me gd = [] ∧ wr = []
  · rw [if_pos none, if_pos (by simpa using none), none.1, none.2]
    rfl
  · rw [if_neg none, if_neg (by simpa using none)]
    rfl

/-- One that sets no status. -/
theorem crossInstr_of_crosses {s : State} {c : Ctl} {gd : BitVec 4} {dest reads : List (Nat × Nat)} {preds gregs : List Nat}
    {run : Group → List Nat → List RegWr × List (Nat × Stat)} (h : Claims.Crosses s.me gd dest reads preds gregs) {wr : List RegWr}
    (ho : run s.me (Claims.crossLanes s.me gd) = (wr, [])) : Claims.CrossOutcome s c gd wr (fun _ => 0) (crossInstr c gd dest reads preds run s) :=
  crossInstr_of_run h ho (by simp [statWrs, Claims.statusOf])

/-! ## Masks and flags -/

theorem sum_shifted (p : Nat → Bool) (a n : Nat) : ((List.range' a n).map (fun l => if p l then 2 ^ l else 0)).sum =
    2 ^ a * (List.range' a n).foldr (fun l acc => (if p l then 1 else 0) + 2 * acc) 0 := by
  induction n generalizing a with
  | zero => rfl
  | succ n ih =>
    rw [List.range'_succ, List.map_cons, List.sum_cons, List.foldr_cons, ih, Nat.pow_succ, Nat.mul_add, Nat.mul_assoc]
    cases p a <;> simp

theorem maskBits_eq (p : Nat → Bool) : Claims.maskBits p = maskOf p := by
  rw [Claims.maskBits, List.range_eq_range', sum_shifted, Nat.pow_zero, Nat.one_mul, maskOf, List.range_eq_range']

/-- Bit 3 of a field negates the predicate that its low bits name. -/
theorem negates_eq (x : BitVec 8) : decide (x.toNat / 8 % 2 = 1) = x.getLsbD 3 := by revert x; decide
theorem shuffleMode_eq (f : FmtV3) : f.mode % 4 = (f.m.extractLsb' 0 2).toNat := by
  rw [FmtV3.mode]
  generalize f.m = m
  revert m
  decide
theorem shufflePred_eq (t : BitVec 4) : t.toNat % 8 = (t.extractLsb' 0 3).toNat := by revert t; decide
theorem moveRegs_eq (f : FmtV3) : moveRegs f = Claims.regs f.t := tRegs_eq f.t

/-! ## Shuffles, broadcasts and moves (R131, R132, R137) -/

theorem shufSource_eq (mode l : Nat) (b : W32) : shufSource mode l b.toInt = Claims.shuffleFrom mode l b := by
  match mode with
  | 0 | 1 | 2 => rfl
  | n + 3 => exact congrArg (fun x => (BitVec.ofNat 32 l ^^^ x).toInt) BitVec.ofInt_toInt

/-- What LSHF reads as b in a lane. -/
def shuffleB (g : Group) (f : FmtV3) (l : Nat) : W32 := if f.m.getLsbD 3 then f.b.signExtend 32 else g.rv f.b.toNat l

theorem shuffleB_toInt (g : Group) (f : FmtV3) (l : Nat) :
    (if f.m.getLsbD 3 then simm8 f.b else (g.rv f.b.toNat l).toInt) = (shuffleB g f l).toInt := by
  rw [shuffleB, apply_ite BitVec.toInt, BitVec.toInt_signExtend_of_le (by decide)]
  rfl

section
variable {s : State} {c : Ctl} {f : FmtV3}

theorem execLshf_of_crosses
    (h : Claims.Crosses s.me f.gd [(f.d.toNat, 1)] ((f.a.toNat, 1) :: (if f.m.getLsbD 3 then [] else [(f.b.toNat, 1)])) [] []) :
    Claims.CrossOutcome s c f.gd ((Claims.crossLanes s.me f.gd).flatMap (fun l =>
      let x := Claims.shuffleFrom (f.m.extractLsb' 0 2).toNat l (shuffleB s.me f l)
      let ok := decide (0 ≤ x ∧ x ≤ 31)
      .v f.d.toNat l (s.me.rv f.a.toNat (if ok then x.toNat else l)) false ::
        (if f.t.getLsbD 3 then [.p (f.t.extractLsb' 0 3).toNat l ok] else []))) (fun _ => 0) (execLshf c f s) := by
  rw [execLshf, imm_eq]
  refine crossInstr_of_crosses h ?_
  simp only [shuffleB_toInt, shufSource_eq, shuffleMode_eq, shufflePred_eq, guard_negates f.t, decide_eq_true_eq]

theorem execLbc_of_crosses (h : Claims.Crosses s.me f.gd [(f.d.toNat, Claims.regs f.t)]
      ((f.a.toNat, Claims.regs f.t) :: (if f.m.getLsbD 3 then [] else [(f.b.toNat, Claims.regs f.t)])) [] []) :
    Claims.CrossOutcome s c f.gd
      (let ls := Claims.crossLanes s.me f.gd
       let src := if f.m.getLsbD 3 then f.b.toNat % 32 else (s.me.rv f.b.toNat (ls.headD 0)).toNat % 32
       ls.flatMap (fun l => Claims.laneWrite f.t f.d.toNat l (Claims.operand s.me f.t f.a.toNat src))) (fun _ => 0) (execLbc c f s) := by
  rw [execLbc, moveRegs_eq, imm_eq]
  refine crossInstr_of_crosses h ?_
  cases Claims.crossLanes s.me f.gd with
  | nil => rfl
  | cons l ls => simp only [wrV_eq, laneVal_eq, BitVec.ofNat_toNat, BitVec.setWidth_eq, List.headD_cons]

theorem execVfromg_of_crosses (h : Claims.Crosses s.me f.gd [(f.d.toNat, Claims.regs f.t)] [] []
      (if Claims.regs f.t = 2 then [f.a.toNat, f.a.toNat + 1] else [f.a.toNat])) :
    Claims.CrossOutcome s c f.gd ((Claims.crossLanes s.me f.gd).flatMap (fun l => Claims.laneWrite f.t f.d.toNat l
      (if Claims.regs f.t = 2 then s.me.rgd f.a.toNat else (s.me.rg f.a.toNat).setWidth 64))) (fun _ => 0) (execVfromg c f s) := by
  have clean : (gRegs (wideT f.t.toNat) f.a).any s.me.gBad = false := any_gBad (by simpa only [gRegs, ← regs_eq_two_iff] using h.gregs)
  rw [execVfromg, clean, Bool.false_and, if_neg Bool.false_ne_true, moveRegs_eq]
  refine crossInstr_of_crosses h ?_
  simp only [wrV_eq, regs_eq_two_iff]
  cases wideT f.t.toNat <;> simp

theorem wrG_eq (t : BitVec 4) (d : Nat) (x : Nat) : wrG (wideT t.toNat) d x = Claims.groupWrite t d (BitVec.ofNat 64 x) := by
  rw [Claims.groupWrite]
  split
  · next h => rw [(regs_eq_two_iff t).mp h, wrG_true_ofNat]
  · next h =>
    rw [Bool.eq_false_iff.mpr (mt (regs_eq_two_iff t).mpr h), wrG, if_neg Bool.false_ne_true]
    congr 2
    exact BitVec.eq_of_toNat_eq (by simp)

theorem execVtog_of_crosses (h : Claims.Crosses s.me f.gd [] [(f.a.toNat, Claims.regs f.t)] [] []) :
    Claims.CrossOutcome s c f.gd (Claims.groupWrite f.t f.d.toNat (Claims.operand s.me f.t f.a.toNat (f.b.toNat % 32))) (fun _ => 0)
      (execVtog c f s) := by
  rw [execVtog, moveRegs_eq]
  refine crossInstr_of_crosses h ?_
  rw [wrG_eq, laneVal_eq, BitVec.ofNat_toNat, BitVec.setWidth_eq]

/-- The writes of the lowest lane, if there is one. -/
theorem execVtogFirst_of_crosses (h : Claims.Crosses s.me f.gd [] [(f.a.toNat, Claims.regs f.t)] [] []) {wr : List RegWr}
    (hwr : wr = (Claims.crossLanes s.me f.gd).head?.elim [] (fun l => Claims.groupWrite f.t f.d.toNat (Claims.operand s.me f.t f.a.toNat l))) :
    Claims.CrossOutcome s c f.gd wr (fun _ => 0) (execVtogFirst c f s) := by
  subst hwr
  rw [execVtogFirst, moveRegs_eq]
  refine crossInstr_of_crosses h ?_
  cases Claims.crossLanes s.me f.gd with
  | nil => rfl
  | cons l ls => simp only [wrG_eq, laneVal_eq, BitVec.ofNat_toNat, BitVec.setWidth_eq, List.head?_cons, Option.elim_some]

/-! ## Votes (R133) -/

theorem voteIn_eq (g : Group) (f : FmtV3) (l : Nat) : voteIn g f l = (g.rp (f.a.toNat % 8) l != f.a.getLsbD 3) := by rw [voteIn, negates_eq]

/-- A vote is a predicate of the lanes that take part. -/
theorem vote_of_crosses {r : List Bool → Bool} {v : Bool} (h : Claims.Crosses s.me f.gd [] [] [f.a.toNat % 8] [])
    (hv : r ((Claims.crossLanes s.me f.gd).map (voteIn s.me f)) = v) :
    Claims.CrossOutcome s c f.gd [.q (f.d.toNat % 8) v] (fun _ => 0) (vote c f s r) := crossInstr_of_crosses h (by rw [hv])

theorem votes_all (g : Group) (f : FmtV3) (ls : List Nat) :
    (ls.map (voteIn g f)).all id = decide (∀ l ∈ ls, (g.rp (f.a.toNat % 8) l != f.a.getLsbD 3) = true) := by
  simp [voteIn_eq, List.all_eq]

theorem votes_any (g : Group) (f : FmtV3) (ls : List Nat) :
    (ls.map (voteIn g f)).any id = decide (∃ l ∈ ls, (g.rp (f.a.toNat % 8) l != f.a.getLsbD 3) = true) := by
  simp [voteIn_eq, List.any_eq]

/-- All predicates are equal where all votes hold or none does. -/
theorem votes_uniform (g : Group) (f : FmtV3) (ls : List Nat) : ((ls.map (voteIn g f)).all id || (ls.map (voteIn g f)).all (! ·)) =
    decide (∀ l ∈ ls, ∀ k ∈ ls, g.rp (f.a.toNat % 8) l = g.rp (f.a.toNat % 8) k) := by
  have same (l k : Nat) : voteIn g f l = voteIn g f k ↔ g.rp (f.a.toNat % 8) l = g.rp (f.a.toNat % 8) k := by
    rw [voteIn, voteIn]
    generalize g.rp (f.a.toNat % 8) l = x, g.rp (f.a.toNat % 8) k = y, decide (f.a.toNat / 8 % 2 = 1) = flag
    revert x y flag
    decide
  rw [Bool.eq_iff_iff]
  simp only [← same, Bool.or_eq_true, List.all_map, List.all_eq_true, decide_eq_true_eq, Function.comp, id, Bool.not_eq_true']
  constructor
  · rintro (all | none) l hl k hk
    · rw [all l hl, all k hk]
    · rw [none l hl, none k hk]
  · intro equal
    cases ls with
    | nil => simp
    | cons a ls =>
      cases first : voteIn g f a with
      | true => exact .inl fun l hl => (equal l hl a List.mem_cons_self).trans first
      | false => exact .inr fun l hl => (equal l hl a List.mem_cons_self).trans first

theorem execLvoteBal_of_crosses (h : Claims.Crosses s.me f.gd [(f.d.toNat, 1)] [] [f.a.toNat % 8] []) :
    Claims.CrossOutcome s c f.gd ((Claims.crossLanes s.me f.gd).map (fun l => .v f.d.toNat l
      (Claims.maskBits (fun k => (Claims.crossLanes s.me f.gd).contains k && (s.me.rp (f.a.toNat % 8) k != f.a.getLsbD 3))) false)) (fun _ => 0)
      (execLvoteBal c f s) := crossInstr_of_crosses h (by simp only [voteIn_eq, maskBits_eq])

/-! ## Matching and compaction (R136) -/

theorem execLmatch_of_crosses (h : Claims.Crosses s.me f.gd [(f.d.toNat, Claims.regs f.t)] [(f.a.toNat, Claims.regs f.t)] [] []) :
    Claims.CrossOutcome s c f.gd ((Claims.crossLanes s.me f.gd).flatMap (fun l => Claims.laneWrite f.t f.d.toNat l
      ((Claims.maskBits (fun k => (Claims.crossLanes s.me f.gd).contains k &&
        Claims.operand s.me f.t f.a.toNat k == Claims.operand s.me f.t f.a.toNat l)).setWidth 64))) (fun _ => 0) (execLmatch c f s) := by
  have equal (x y : W64) : (x.toNat == y.toNat) = (x == y) := by rw [Bool.eq_iff_iff, beq_iff_eq, beq_iff_eq, BitVec.toNat_inj]
  rw [execLmatch, moveRegs_eq]
  refine crossInstr_of_crosses h ?_
  simp only [wrV_eq, laneVal_eq, equal, maskBits_eq, BitVec.ofNat_toNat]

/-- Two lists side by side: to each position of the first its element of the second, where there is one. -/
theorem flatMap_zip {A B C : Type} (r : A → B → List C) (xs : List A) (ys : List B) (n : Nat) :
    (xs.zip (ys.drop n)).flatMap (fun e => r e.1 e.2) = (xs.zipIdx n).flatMap (fun e => (ys[e.2]?).elim [] (r e.1)) := by
  induction xs generalizing n with
  | nil => rfl
  | cons x xs ih =>
    rw [List.zipIdx_cons, List.flatMap_cons, ← ih]
    by_cases within : n < ys.length
    · rw [List.drop_eq_getElem_cons within, List.getElem?_eq_getElem within]
      rfl
    · have past : ys.length ≤ n := Nat.le_of_not_lt within
      rw [List.drop_eq_nil_of_le past, List.drop_eq_nil_of_le (by omega), List.getElem?_eq_none past]
      simp

/-- The lanes whose predicate LCMPR selects. -/
def selected (g : Group) (f : FmtV3) : List Nat := (Claims.crossLanes g f.gd).filter (fun l => g.rp (f.b.toNat % 8) l != f.b.getLsbD 3)

theorem execLcmpr_of_crosses
    (h : Claims.Crosses s.me f.gd [(f.d.toNat, Claims.regs f.t)] [(f.a.toNat, Claims.regs f.t)] [f.b.toNat % 8] []) {wr : List RegWr}
    (hwr : wr = (Claims.crossLanes s.me f.gd).zipIdx.flatMap (fun e => ((selected s.me f)[e.2]?).elim []
      (fun k => Claims.laneWrite f.t f.d.toNat e.1 (Claims.operand s.me f.t f.a.toNat k)))) :
    Claims.CrossOutcome s c f.gd wr (fun _ => 0) (execLcmpr c f s) := by
  subst hwr
  rw [execLcmpr, moveRegs_eq]
  refine crossInstr_of_crosses h ?_
  simp only [wrV_eq, laneVal_eq, BitVec.ofNat_toNat, BitVec.setWidth_eq, negates_eq]
  rw [← flatMap_zip (fun l k => Claims.laneWrite f.t f.d.toNat l (Claims.operand s.me f.t f.a.toNat k)) _ (selected s.me f) 0]
  rfl

end

/-- Each cross-lane move, by its writes. -/
theorem move_of_crosses {s : State} {i : Instr} {m : Claims.LaneMove} (hm : Claims.moveOf s.me i = some m)
    (h : Claims.Crosses s.me m.f.gd m.dest m.reads m.preds m.gregs) :
    Claims.CrossOutcome s m.c m.f.gd (m.writes (Claims.crossLanes s.me m.f.gd)) (fun _ => 0) (exec i s) := by
  cases i
  all_goals cases hm
  case lshf c f => exact execLshf_of_crosses h
  case lbc c f => exact execLbc_of_crosses h
  case lvoteAll c f => exact vote_of_crosses (r := fun xs => xs.all id) h (votes_all s.me f _)
  case lvoteAny c f => exact vote_of_crosses (r := fun xs => xs.any id) h (votes_any s.me f _)
  case lvoteUni c f => exact vote_of_crosses (r := fun xs => xs.all id || xs.all (! ·)) h (votes_uniform s.me f _)
  case lvoteBal c f => exact execLvoteBal_of_crosses h
  case lmatch c f => exact execLmatch_of_crosses h
  case vfromg c f => exact execVfromg_of_crosses h
  case vtog c f => exact execVtog_of_crosses h
  case lcmpr c f =>
    refine execLcmpr_of_crosses h (congrArg (List.flatMap · _) (funext fun e => ?_))
    change (match (selected s.me f)[e.2]? with | some k => _ | none => _) = _
    cases (selected s.me f)[e.2]? <;> rfl
  case vtogFirst c f =>
    refine execVtogFirst_of_crosses h ?_
    change (match (Claims.crossLanes s.me f.gd).head? with | some l => _ | none => _) = _
    cases (Claims.crossLanes s.me f.gd).head? <;> rfl

/-- Settles O18: by the writes of each instruction. -/
theorem crossLaneMoves : Obligations.CrossLaneMoves := fun _ _ _ hm h => move_of_crosses hm h

end Sys2Proof.Machine
end

section
/-!
PROOFS. Reductions and scans (R134, R135, R50).
-/
namespace Sys2Proof.Machine

/-! ## Numbers that stand for words -/

/-- A number and its status stand for a word of a type: they agree in its element 0. -/
def StandsFor (t : BitVec 4) (x : Nat × Stat) (y : W64 × BitVec 8) : Prop := BitVec.ofNat (Claims.shape t).1 x.1 = y.1.setWidth _ ∧ x.2 = y.2

theorem bitN_mod (x : Nat) {i n : Nat} (h : i < n) : bitN (x % 2 ^ n) i = bitN x i := by
  simp only [bitN, ← Nat.testBit_eq_decide_div_mod_eq, beq_eq_decide, Nat.testBit_mod_two_pow, h, decide_true, Bool.true_and]

/-- The bits above a format's width are not read. -/
theorem unpack_mod {m : Fmt} {w : Nat} (h : m.eb + m.mb < w) (daz : Bool) (x : Nat) : unpack m daz (x % 2 ^ w) = unpack m daz x := by
  simp only [unpack, bitN_mod x h, bitsN_mod_two_pow (show m.mb + m.eb ≤ w by omega), bitsN_mod_two_pow (show 0 + m.mb ≤ w by omega)]

theorem readInt_mod (w : Nat) (sg : Bool) (x : Nat) : readInt w sg (x % 2 ^ w) = readInt w sg x := by
  rw [readInt, readInt, sgn, sgn, Nat.mod_mod]

/-- The smaller or larger of two numbers that are not rounded. -/
theorem fMinMax_mod {m : Fmt} {w : Nat} (h : m.eb + m.mb < w) (env : FEnv) (isMax wins : Bool) (x y : Nat) :
    (fMinMax env m isMax wins (x % 2 ^ w) (y % 2 ^ w)).1 % 2 ^ w = (fMinMax env m isMax wins x y).1 % 2 ^ w ∧
      (fMinMax env m isMax wins (x % 2 ^ w) (y % 2 ^ w)).2 = (fMinMax env m isMax wins x y).2 := by
  have kept (n : Nat) (v : FV) : keepBits m (n % 2 ^ w) v % 2 ^ w = keepBits m n v % 2 ^ w := by
    rw [keepBits, keepBits]
    split
    · rfl
    · exact Nat.mod_mod ..
  simp only [fMinMax, unpack_mod h]
  generalize unpack m env.daz x = a, unpack m env.daz y = b
  split
  · exact ⟨rfl, rfl⟩
  · split
    · exact ⟨kept .., rfl⟩
    · split
      · exact ⟨kept .., rfl⟩
      · refine ⟨?_, rfl⟩
        rw [apply_ite (· % 2 ^ w), apply_ite (· % 2 ^ w), kept, kept]

theorem format_lt_shape {t : BitVec 4} (h : t = 8 ∨ t = 9) : (Claims.format t).eb + (Claims.format t).mb < (Claims.shape t).1 := by
  rcases h with rfl | rfl <;> decide

theorem float_iff (t : BitVec 4) : (t.toNat = 8 || t.toNat = 9) = true ↔ t = 8 ∨ t = 9 := by revert t; decide

theorem StandsFor.toNat {t : BitVec 4} {x : Nat × Stat} {y : W64 × BitVec 8} (h : StandsFor t x y) :
    (y.1.setWidth (Claims.shape t).1).toNat = x.1 % 2 ^ (Claims.shape t).1 := by rw [← h.1, BitVec.toNat_ofNat]

theorem shape_le (t : BitVec 4) : (Claims.shape t).1 ≤ 64 := by revert t; decide

theorem standsFor_setWidth {t : BitVec 4} {n : Nat} {v : BitVec (Claims.shape t).1} {st : Stat} (h : BitVec.ofNat _ n = v) :
    StandsFor t (n, st) (v.setWidth 64, st) := ⟨by rw [h, BitVec.setWidth_setWidth_of_le _ (shape_le t), BitVec.setWidth_eq], rfl⟩

theorem standsFor_ofNat {t : BitVec 4} {n k : Nat} {st : Stat} (h : n % 2 ^ (Claims.shape t).1 = k % 2 ^ (Claims.shape t).1) :
    StandsFor t (n, st) (BitVec.ofNat 64 k, st) := by
  refine ⟨BitVec.eq_of_toNat_eq ?_, rfl⟩
  rw [BitVec.toNat_ofNat, h, BitVec.toNat_setWidth, BitVec.toNat_ofNat, Nat.mod_mod_of_dvd _ (Nat.pow_dvd_pow 2 (shape_le t))]

/-- The step on floating values. -/
theorem combine_float {g : Group} {op : Nat} {t : BitVec 4} (ht : t = 8 ∨ t = 9) {x y : Nat × Stat} {X Y : W64 × BitVec 8} (hx : StandsFor t x X)
    (hy : StandsFor t y Y) : StandsFor t (combine (fenv g 1) op t.toNat x y) (Claims.combineStep g op t X Y) := by
  have reads := unpack_mod (format_lt_shape ht)
  rw [combine, Claims.combineStep.eq_def]
  simp only [if_pos ht, if_pos ((float_iff t).mpr ht), hx.toNat, hy.toNat, elemFmt_eq, reads, fenv_eq, hx.2, hy.2]
  split
  · exact standsFor_ofNat rfl
  · obtain ⟨value, status⟩ := fMinMax_mod (format_lt_shape ht) (Claims.environment g 1) (op == 2) false x.1 y.1
    rw [status]
    exact standsFor_ofNat value.symm

/-- A choice among two numbers is that among their words, whichever way it is asked. -/
theorem ofNat_choice {w x y : Nat} {p q : Prop} [Decidable p] [Decidable q] (h : q ↔ ¬p) :
    BitVec.ofNat w (if p then y else x) = if q then BitVec.ofNat w x else BitVec.ofNat w y := by
  by_cases hp : p
  · rw [if_pos hp, if_neg (mt h.mp (not_not_intro hp))]
  · rw [if_neg hp, if_pos (h.mpr hp)]

/-- The step on integers and words. -/
theorem combine_integer {g : Group} {op : Nat} {t : BitVec 4} (ht : ¬(t = 8 ∨ t = 9)) {x y : Nat × Stat} {X Y : W64 × BitVec 8}
    (hx : StandsFor t x X) (hy : StandsFor t y Y) : StandsFor t (combine (fenv g 1) op t.toNat x y) (Claims.combineStep g op t X Y) := by
  have number {z : Nat × Stat} {Z : W64 × BitVec 8} (hz : StandsFor t z Z) :
      readInt (Claims.shape t).1 (Claims.signedType t) z.1 = Claims.num (Claims.signedType t) (Z.1.setWidth (Claims.shape t).1) := by
    rw [← readInt_toNat (shape_width_pos t), hz.toNat, readInt_mod]
  rw [combine, Claims.combineStep.eq_def]
  simp only [if_neg ht, if_neg (mt (float_iff t).mp ht), elemW_eq, elemSigned_eq, number hx, number hy, hx.2, hy.2]
  refine standsFor_setWidth ?_
  rw [← hx.1, ← hy.1]
  match op with
  | 0 => exact BitVec.eq_of_toNat_eq (by simp)
  | 1 => exact ofNat_choice (not_lt ..).symm
  | 2 => exact ofNat_choice (not_lt ..).symm
  | 3 => exact BitVec.ofNat_and
  | 4 => exact BitVec.ofNat_or
  | n + 5 => exact BitVec.ofNat_xor

/-- One step of a reduction or scan. -/
theorem combine_standsFor (g : Group) (op : Nat) (t : BitVec 4) {x y : Nat × Stat} {X Y : W64 × BitVec 8}
    (hx : StandsFor t x X) (hy : StandsFor t y Y) : StandsFor t (combine (fenv g 1) op t.toNat x y) (Claims.combineStep g op t X Y) := by
  by_cases ht : t = 8 ∨ t = 9
  · exact combine_float ht hx hy
  · exact combine_integer ht hx hy

/-! ## The tree (R50) -/

/-- Each value of a list has its counterpart. -/
def Matches {A B : Type} (r : A → B → Prop) (l : List A) (x : Nat → B) : Prop := ∀ i a, l[i]? = some a → r a (x i)

section
variable {A B : Type} {r : A → B → Prop} {op : A → A → A} {op' : B → B → B}
  (step : ∀ {a b a' b'}, r a a' → r b b' → r (op a b) (op' a' b'))

theorem treeLevel_length (op : A → A → A) (l : List A) : (treeLevel op l).length = (l.length + 1) / 2 := by
  induction l using treeLevel.induct with
  | case1 a b rest ih =>
    rw [treeLevel, List.length_cons, ih, List.length_cons, List.length_cons]
    omega
  | case2 l short =>
    match l with
    | [] | [_] => simp [treeLevel]
    | a :: b :: rest => exact absurd rfl (short a b rest)

include step

/-- One level of the tree. -/
theorem treeLevel_matches {l : List A} {x : Nat → B} (h : Matches r l x) :
    Matches r (treeLevel op l) (fun i => if 2 * i + 1 < l.length then op' (x (2 * i)) (x (2 * i + 1)) else x (2 * i)) := by
  induction l using treeLevel.induct generalizing x with
  | case1 a b rest ih =>
    intro i c hc
    cases i with
    | zero =>
      obtain rfl : op a b = c := by simpa [treeLevel] using hc
      exact step (h 0 a rfl) (h 1 b rfl)
    | succ i =>
      have later := ih (x := fun i => x (i + 2)) (fun j d hd => h (j + 2) d hd) i c (by simpa [treeLevel] using hc)
      have inside : 2 * (i + 1) + 1 < (a :: b :: rest).length ↔ 2 * i + 1 < rest.length := by
        simp only [List.length_cons]
        omega
      dsimp only
      rw [if_congr inside rfl rfl]
      exact later
  | case2 l short =>
    match l with
    | [] => exact fun i c hc => absurd hc (by simp [treeLevel])
    | [a] =>
      intro i c hc
      cases i with
      | zero => exact h 0 c hc
      | succ i => exact absurd hc (by simp [treeLevel])
    | a :: b :: rest => exact absurd rfl (short a b rest)

/-- The tree, with levels enough for its values. -/
theorem treeFold_matches (fuel : Nat) {l : List A} (enough : l.length ≤ 2 ^ fuel) (occupied : l ≠ []) (d : A) {x : Nat → B}
    (h : Matches r l x) : r ((treeFold op (fuel + 1) l).headD d) (Claims.treeOf op' fuel l.length x) := by
  induction fuel generalizing l x with
  | zero =>
    match l with
    | [] => exact absurd rfl occupied
    | [a] => exact h 0 a rfl
    | a :: b :: rest => exact absurd enough (by simp)
  | succ fuel ih =>
    match l with
    | [] => exact absurd rfl occupied
    | [a] => exact h 0 a rfl
    | a :: b :: rest =>
      have more : ¬(a :: b :: rest).length ≤ 1 := by simp
      rw [Claims.treeOf, if_neg more, ← treeLevel_length op]
      refine ih ?_ (by simp [treeLevel]) (treeLevel_matches step h)
      rw [treeLevel_length]
      omega

/-! ## The chain (R135) -/

end

/-- Each value of the chain. -/
theorem scanChain_matches {A : Type} {r : Nat × Stat → A → Prop} {op : Nat × Stat → Nat × Stat → Nat × Stat} {op' : A → A → A}
    (step : ∀ {a b a' b'}, r a a' → r b b' → r (op a b) (op' a' b')) {y : Nat × Stat} {y' : A} (hy : r y y') {xs : List Nat} {x : Nat → A}
    (hx : Matches (fun n => r (n, 0)) xs x) : Matches r (scanChain op y xs) (fun k => (List.range k).foldl (fun acc j => op' acc (x j)) y') := by
  induction xs generalizing y y' x with
  | nil =>
    intro k b hb
    cases k with
    | zero => exact (Option.some.inj hb) ▸ hy
    | succ k => exact absurd hb (by simp [scanChain])
  | cons n xs ih =>
    intro k b hb
    cases k with
    | zero => exact (Option.some.inj hb) ▸ hy
    | succ k =>
      dsimp only
      rw [List.range_succ_eq_map, List.foldl_cons, List.foldl_map]
      exact ih (step hy (hx 0 n rfl)) (fun j m hm => hx (j + 1) m hm) k b hb

/-! ## What the lanes hold and receive -/

/-- The types of reductions and scans fill their registers. -/
theorem shape_of_reduceTypes {op : Nat} {t : BitVec 4} (h : Claims.reduceTypes op t) : (Claims.shape t).1 = 32 * Claims.regs t := by
  have codes : t.toNat ≤ 4 ∨ t = 8 ∨ t = 9 := by
    rw [Claims.reduceTypes] at h
    bv_omega
  clear h
  revert t
  decide

/-- The writes of a lane are those of the bits that its registers hold. -/
theorem laneWrite_congr {t : BitVec 4} {x y : W64} (h : x.setWidth (32 * Claims.regs t) = y.setWidth (32 * Claims.regs t)) (d l : Nat) :
    Claims.laneWrite t d l x = Claims.laneWrite t d l y := by
  have lows : Claims.regs t = 1 ∨ Claims.regs t = 2 := by
    rw [Claims.regs]
    split <;> simp
  rcases lows with one | two
  · rw [one] at h
    rw [Claims.laneWrite, Claims.laneWrite, one, if_neg (by decide), if_neg (by decide), ← BitVec.setWidth_eq_extractLsb' (by decide),
      ← BitVec.setWidth_eq_extractLsb' (by decide), h]
  · rw [two, BitVec.setWidth_eq, BitVec.setWidth_eq] at h
    rw [h]

/-- The writes of a number are those of the word that it stands for. -/
theorem wrV_of_standsFor {op : Nat} {t : BitVec 4} (ht : Claims.reduceTypes op t) {x : Nat × Stat} {y : W64 × BitVec 8} (h : StandsFor t x y)
    (d l : Nat) : wrV (wideT t.toNat) d l x.1 = Claims.laneWrite t d l y.1 := by
  rw [wrV_eq]
  refine laneWrite_congr ?_ d l
  rw [← shape_of_reduceTypes ht, BitVec.setWidth_ofNat_of_le (shape_le t), h.1]

theorem standsFor_operand (g : Group) (t : BitVec 4) (r l : Nat) : StandsFor t (laneVal g t.toNat r l, 0) (Claims.operand g t r l, 0) := by
  refine ⟨?_, rfl⟩
  rw [laneVal_eq, BitVec.ofNat_toNat]

/-- What an exclusive scan gives the first lane. -/
theorem scanIdentity_standsFor (op : Nat) (t : BitVec 4) : StandsFor t (scanIdentity op t.toNat, 0) (Claims.identityOf op t, 0) := by
  have ones : BitVec.ofNat (Claims.shape t).1 (2 ^ (Claims.shape t).1 - 1) = BitVec.allOnes _ := BitVec.eq_of_toNat_eq (by
    rw [BitVec.toNat_ofNat, BitVec.toNat_allOnes, Nat.mod_eq_of_lt (Nat.sub_one_lt (Nat.two_pow_pos _).ne')])
  have largest : BitVec.ofNat (Claims.shape t).1 (2 ^ ((Claims.shape t).1 - 1) - 1) = BitVec.intMax _ := BitVec.eq_of_toNat_eq (by
    have fits : 2 ^ ((Claims.shape t).1 - 1) ≤ 2 ^ (Claims.shape t).1 := Nat.pow_le_pow_right (by decide) (Nat.sub_le ..)
    rw [BitVec.toNat_ofNat, BitVec.toNat_intMax, Nat.mod_eq_of_lt ((Nat.sub_one_lt (Nat.two_pow_pos _).ne').trans_le fits)])
  have least : BitVec.ofNat (Claims.shape t).1 (2 ^ ((Claims.shape t).1 - 1)) = BitVec.intMin _ := BitVec.eq_of_toNat_eq (by
    rw [BitVec.toNat_ofNat, BitVec.toNat_intMin])
  refine standsFor_setWidth ?_
  rw [scanIdentity, elemW_eq, elemFmt_eq, elemSigned_eq]
  match op with
  | 0 => rfl
  | 1 =>
    rw [if_neg (by decide), if_pos (by decide)]
    simp only [float_iff, infOf_eq]
    split_ifs with float signed
    · rfl
    · exact largest
    · exact ones
  | 2 =>
    rw [if_neg (by decide), if_pos (by decide)]
    simp only [float_iff, infOf_eq, show ¬(2 = 1) by decide, if_false]
    split_ifs with float signed
    · rfl
    · exact least
    · rfl
  | 3 => exact ones
  | n + 4 => rfl

/-! ## LRED (R134) -/

/-- The value of a lane that takes part, in its order. -/
def valueAt (g : Group) (f : FmtV3) (k : Nat) : W64 × BitVec 8 := (Claims.operand g f.t f.a.toNat ((Claims.crossLanes g f.gd).getD k 0), 0)

theorem values_match (g : Group) (f : FmtV3) : Matches (StandsFor f.t)
    ((Claims.crossLanes g f.gd).map (fun l => (laneVal g f.t.toNat f.a.toNat l, (0 : Stat)))) (valueAt g f) := by
  intro k x hx
  obtain ⟨l, hl, rfl⟩ := List.getElem?_map ▸ hx |> Option.map_eq_some_iff.mp
  rw [valueAt, List.getD_eq_getElem?_getD, hl]
  exact standsFor_operand g f.t f.a.toNat l

theorem crossLanes_length (g : Group) (gd : BitVec 4) : (Claims.crossLanes g gd).length ≤ 2 ^ 5 :=
  (List.length_filter_le ..).trans_eq List.length_range

/-- The reduction of the lanes that take part. -/
theorem reduced_standsFor (g : Group) (f : FmtV3) {op : Nat} (occupied : Claims.crossLanes g f.gd ≠ []) :
    StandsFor f.t ((treeFold (combine (fenv g 1) op f.t.toNat) 6
        ((Claims.crossLanes g f.gd).map (fun l => (laneVal g f.t.toNat f.a.toNat l, (0 : Stat))))).headD (0, 0))
      (Claims.treeOf (Claims.combineStep g op f.t) 5 (Claims.crossLanes g f.gd).length (valueAt g f)) := by
  have tree := treeFold_matches (combine_standsFor g op f.t) 5 (by rw [List.length_map]; exact crossLanes_length g f.gd)
    (mt List.map_eq_nil_iff.mp occupied) (0, 0) (values_match g f)
  rwa [List.length_map] at tree

theorem occupying_me (s : State) : (Claims.occupying s).me = s.me := rfl

section
variable {s : State} {c : Ctl} {f : FmtV3}

theorem execLred_of_crosses (h : Claims.Crosses s.me f.gd [(f.d.toNat, Claims.regs f.t)] [(f.a.toNat, Claims.regs f.t)] [] [])
    (ht : Claims.reduceTypes (f.m.extractLsb' 0 3).toNat f.t) :
    let r := Claims.treeOf (Claims.combineStep s.me (f.m.extractLsb' 0 3).toNat f.t) 5 (Claims.crossLanes s.me f.gd).length (valueAt s.me f)
    Claims.CrossOutcome (Claims.occupying s) c f.gd ((Claims.crossLanes s.me f.gd).flatMap (fun l => Claims.laneWrite f.t f.d.toNat l r.1))
      (fun _ => r.2) (execLred c f s) := by
  have plain : (f.mode == 6) = false := by
    rw [Claims.reduceTypes, ← mode_eq] at ht
    exact beq_eq_false_iff_ne.mpr (by omega)
  have value (l : Nat) (hl : l ∈ Claims.crossLanes s.me f.gd) := reduced_standsFor s.me f (op := f.mode) (List.ne_nil_of_mem hl)
  rw [← mode_eq] at ht ⊢
  simp only [execLred, plain, tRegs_eq, Bool.not_false, Bool.and_true, Bool.false_eq_true, if_false]
  refine crossInstr_of_run (s := Claims.occupying s) (by rwa [occupying_me]) (Prod.ext (List.flatMap_congr fun l hl => ?_) rfl) ?_
  · exact wrV_of_standsFor ht (value l hl) _ _
  · rw [statWrs_eq, List.flatMap_map]
    exact List.flatMap_congr fun l hl => by rw [← (value l hl).2]; rfl

/-- ARGMAX: the key of the largest number and its index in a lane. -/
def argMaxKey (g : Group) (f : FmtV3) (l : Nat) : Nat :=
  fKey (Claims.format f.t) ((g.rv f.a.toNat l).extractLsb' 0 16).toNat * 2 ^ 16 + (0xFFFF - ((g.rv f.b.toNat l).extractLsb' 0 16).toNat)

theorem argKey_eq (g : Group) (f : FmtV3) (l : Nat) : argKey f.t.toNat (g.rv f.a.toNat l).toNat (g.rv f.b.toNat l).toNat = argMaxKey g f l := by
  have index : (g.rv f.b.toNat l).toNat % 65536 = ((g.rv f.b.toNat l).extractLsb' 0 16).toNat := by
    rw [BitVec.extractLsb'_toNat, Nat.shiftRight_zero]
  rw [argKey, argMaxKey, elemFmt_eq, bitsN_toNat, index]
  rfl

theorem execLred_argMax_of_crosses (h : Claims.Crosses s.me f.gd [(f.d.toNat, 1)] [(f.a.toNat, 1), (f.b.toNat, 1)] [] [])
    (hm : (f.m.extractLsb' 0 3).toNat = 6) :
    Claims.CrossOutcome (Claims.occupying s) c f.gd ((Claims.crossLanes s.me f.gd).map (fun l =>
      .v f.d.toNat l (BitVec.ofNat 32 (((Claims.crossLanes s.me f.gd).map (argMaxKey s.me f)).foldl max 0)) false)) (fun _ => 0) (execLred c f s) := by
  have arg : (f.mode == 6) = true := by rw [mode_eq, hm]; rfl
  simp only [execLred, arg, argKey_eq, Bool.not_true, Bool.and_false, if_true]
  refine crossInstr_of_run (s := Claims.occupying s) (by rwa [occupying_me]) (Prod.ext (List.map_eq_flatMap ..).symm rfl) ?_
  rw [statWrs_eq, List.flatMap_map]

/-! ## LSCAN (R135) -/

/-- The chain of the lanes that take part, up to the k-th. -/
def chainAt (g : Group) (f : FmtV3) (op k : Nat) : W64 × BitVec 8 :=
  (List.range k).foldl (fun acc j => Claims.combineStep g op f.t acc (valueAt g f (j + 1))) (valueAt g f 0)

/-- What the k-th lane receives. -/
def scanAt (g : Group) (f : FmtV3) (op k : Nat) : W64 × BitVec 8 :=
  if f.b.getLsbD 0 then (if k = 0 then (Claims.identityOf op f.t, 0) else chainAt g f op (k - 1)) else chainAt g f op k

/-- The values of a first lane and those after it, and before them the identity where the scan is exclusive. -/
def scanned (g : Group) (f : FmtV3) (l : Nat) (ls : List Nat) : List (Nat × Stat) :=
  let ys := scanChain (combine (fenv g 1) f.mode f.t.toNat) (laneVal g f.t.toNat f.a.toNat l, 0) (ls.map (laneVal g f.t.toNat f.a.toNat))
  if f.b.toNat % 2 = 1 then (scanIdentity f.mode f.t.toNat, (0 : Stat)) :: ys else ys

theorem scanChain_length (op : Nat × Stat → Nat × Stat → Nat × Stat) (y : Nat × Stat) (xs : List Nat) :
    (scanChain op y xs).length = xs.length + 1 := by
  induction xs generalizing y with
  | nil => rfl
  | cons x xs ih => rw [scanChain, List.length_cons, ih, List.length_cons]

theorem scanned_length (g : Group) (f : FmtV3) (l : Nat) (ls : List Nat) : (l :: ls).length ≤ (scanned g f l ls).length := by
  rw [scanned]
  split <;> simp [scanChain_length]

theorem Matches.cons {A B : Type} {r : A → B → Prop} {a : A} {l : List A} {x : Nat → B} (head : r a (x 0))
    (tail : Matches r l (fun i => x (i + 1))) :
    Matches r (a :: l) x := fun i b hb => by
  cases i with
  | zero => exact (Option.some.inj hb) ▸ head
  | succ i => exact tail i b hb

theorem inclusive_iff (b : BitVec 8) : b.toNat % 2 = 1 ↔ b.getLsbD 0 = true := by revert b; decide

/-- The values of the model are those of the rule. -/
theorem scanned_matches {g : Group} {f : FmtV3} {l : Nat} {ls : List Nat} (hl : Claims.crossLanes g f.gd = l :: ls) :
    Matches (StandsFor f.t) (scanned g f l ls) (scanAt g f f.mode) := by
  have first : StandsFor f.t (laneVal g f.t.toNat f.a.toNat l, 0) (valueAt g f 0) := by
    rw [valueAt, hl]
    exact standsFor_operand g f.t f.a.toNat l
  have later : Matches (fun n => StandsFor f.t (n, 0)) (ls.map (laneVal g f.t.toNat f.a.toNat)) (fun j => valueAt g f (j + 1)) := by
    intro j x hx
    have member := values_match g f (j + 1) (x, 0)
    rw [hl, List.map_cons, List.getElem?_cons_succ, List.getElem?_map] at member
    rw [List.getElem?_map] at hx
    obtain ⟨k, hk, rfl⟩ := Option.map_eq_some_iff.mp hx
    exact member (by rw [hk]; rfl)
  have chain : Matches (StandsFor f.t) _ (chainAt g f f.mode) := scanChain_matches (combine_standsFor g f.mode f.t) first later
  simp only [scanned, inclusive_iff]
  split
  · next exclusive =>
    have tail : (fun k => scanAt g f f.mode (k + 1)) = chainAt g f f.mode := funext fun k => by
      rw [scanAt, if_pos exclusive, if_neg (Nat.succ_ne_zero k), Nat.add_sub_cancel]
    refine Matches.cons ?_ (tail ▸ chain)
    rw [scanAt, if_pos exclusive, if_pos rfl]
    exact scanIdentity_standsFor f.mode f.t
  · next inclusive =>
    have whole : scanAt g f f.mode = chainAt g f f.mode := funext fun k => by rw [scanAt, if_neg inclusive]
    exact whole ▸ chain

/-- To each element of a list its value, by its place. -/
theorem flatMap_zip_matches {A B D C : Type} {r : B → D → Prop} {ys : List B} {y : Nat → D} {xs : List A} (enough : xs.length ≤ ys.length)
    (h : Matches r ys y) {p : A → B → List C} {q : A → D → List C} (hpq : ∀ {a b d}, r b d → p a b = q a d) :
    (xs.zip ys).flatMap (fun e => p e.1 e.2) = xs.zipIdx.flatMap (fun e => q e.1 (y e.2)) := by
  rw [show ys = ys.drop 0 from rfl, flatMap_zip p xs ys 0]
  refine List.flatMap_congr fun e he => ?_
  have within : e.2 < ys.length := (List.mem_zipIdx' he).1.trans_le enough
  rw [List.getElem?_eq_getElem within]
  exact hpq (h e.2 _ (List.getElem?_eq_getElem within))

/-- Where no element occurs twice, its place is the first at which it stands. -/
theorem flatMap_zipIdx_idxOf {C : Type} {xs : List Nat} (once : xs.Nodup) (p : Nat → Nat → List C) :
    xs.zipIdx.flatMap (fun e => p e.1 e.2) = xs.flatMap (fun x => p x (xs.idxOf x)) := by
  have places : xs.zipIdx.flatMap (fun e => p e.1 e.2) = xs.zipIdx.flatMap (fun e => p e.1 (xs.idxOf e.1)) :=
    List.flatMap_congr fun e he => by
      obtain ⟨within, value⟩ := List.mem_zipIdx' he
      rw [value, once.idxOf_getElem]
  rw [places, ← List.flatMap_map (f := Prod.fst) (g := fun x => p x (xs.idxOf x)), List.zipIdx_map_fst]

theorem execLscan_of_crosses (h : Claims.Crosses s.me f.gd [(f.d.toNat, Claims.regs f.t)] [(f.a.toNat, Claims.regs f.t)] [] [])
    (ht : Claims.reduceTypes (f.m.extractLsb' 0 3).toNat f.t) :
    Claims.CrossOutcome (Claims.occupying s) c f.gd
      ((Claims.crossLanes s.me f.gd).zipIdx.flatMap (fun e => Claims.laneWrite f.t f.d.toNat e.1 (scanAt s.me f (f.m.extractLsb' 0 3).toNat e.2).1))
      (fun l => (scanAt s.me f (f.m.extractLsb' 0 3).toNat ((Claims.crossLanes s.me f.gd).idxOf l)).2) (execLscan c f s) := by
  have once : (Claims.crossLanes s.me f.gd).Nodup := List.nodup_range.filter _
  rw [← mode_eq] at ht ⊢
  simp only [execLscan, tRegs_eq]
  refine crossInstr_of_run (s := Claims.occupying s) (by rwa [occupying_me]) (Prod.ext ?writes rfl) ?status
  case writes =>
    dsimp only
    rw [occupying_me]
    cases hl : Claims.crossLanes s.me f.gd with
    | nil => rfl
    | cons l ls =>
      exact flatMap_zip_matches (p := fun l x => wrV (wideT f.t.toNat) f.d.toNat l x.1) (q := fun l y => Claims.laneWrite f.t f.d.toNat l y.1)
        (scanned_length s.me f l ls) (scanned_matches hl) fun hv => wrV_of_standsFor ht hv _ _
  case status =>
    rw [statWrs_eq, List.flatMap_map, occupying_me]
    dsimp only
    rw [← flatMap_zipIdx_idxOf once (fun l k => Claims.statusOf s.me.fmt l (scanAt s.me f f.mode k).2)]
    cases hl : Claims.crossLanes s.me f.gd with
    | nil => rfl
    | cons l ls =>
      exact flatMap_zip_matches (p := fun l x => Claims.statusOf s.me.fmt l x.2) (q := fun l y => Claims.statusOf s.me.fmt l y.2)
        (scanned_length s.me f l ls) (scanned_matches hl) fun hv => congrArg (Claims.statusOf s.me.fmt _) hv.2

end

/-- Settles O19: the numbers of the model stand for the words of the rule, along the tree and along the chain. -/
theorem crossLaneReductionsAndScans : Obligations.CrossLaneReductionsAndScans := fun _ _ _ =>
  ⟨fun h ht => ⟨execLred_of_crosses h ht, execLscan_of_crosses h ht⟩, fun h hm _ => execLred_argMax_of_crosses h hm⟩

end Sys2Proof.Machine
end

section
/-!
PROOFS. Transfers between groups of a block (R138).
-/
namespace Sys2Proof.Machine

/-! ## What a completion leaves of a group (R60) -/

theorem Group.apply1_pend_pc (g : Group) (w : RegWr) : (g.apply1 w).pend = g.pend ∧ (g.apply1 w).pc = g.pc := by
  cases w with
  | v | g => simp [Group.apply1]
  | p i l b =>
    rw [Group.apply1, Group.wp]
    split <;> exact ⟨rfl, rfl⟩
  | q i b =>
    rw [Group.apply1, Group.wq]
    split <;> exact ⟨rfl, rfl⟩
  | fmt | statClear | fstat => exact ⟨rfl, rfl⟩
  | stat l st t =>
    rw [Group.apply1, Group.raiseStat]
    split <;> exact ⟨rfl, rfl⟩

theorem Group.applyAll_pend_pc (g : Group) (ws : List RegWr) : (g.applyAll ws).pend = g.pend ∧ (g.applyAll ws).pc = g.pc := by
  induction ws generalizing g with
  | nil => exact ⟨rfl, rfl⟩
  | cons w ws ih =>
    obtain ⟨pend, pc⟩ := g.apply1_pend_pc w
    obtain ⟨pend', pc'⟩ := ih (g.apply1 w)
    exact ⟨pend'.trans pend, pc'.trans pc⟩

theorem Group.complete_pend_pc (g : Group) (p : Pend) : (g.complete p).pend = g.pend.filter (fun q => q.id != p.id) ∧ (g.complete p).pc = g.pc := by
  obtain ⟨pend, pc⟩ := Group.applyAll_pend_pc { g with pend := g.pend.filter (fun q => q.id != p.id) } p.wr
  obtain ⟨k, counted⟩ := (Group.applyAll { g with pend := g.pend.filter (fun q => q.id != p.id) } p.wr).kDec_eq p.setk
  rw [Group.complete, counted]
  exact ⟨pend, pc⟩

/-! ## Pairing -/

/-- The group of a send that is paired: its instruction completes. -/
def sent (id : Nat) (g : Group) : Group :=
  match g.pend.find? (fun p => p.id == id) with
  | some p => g.complete p
  | none => g

theorem sent_pc (id : Nat) (g : Group) : (sent id g).pc = g.pc := by
  rw [sent]
  split
  · exact (g.complete_pend_pc _).2
  · rfl

/-- What waits for another completion still waits. -/
theorem mem_sent_pend {id : Nat} {g : Group} {p : Pend} (hp : p ∈ g.pend) (other : p.id ≠ id) : p ∈ (sent id g).pend := by
  rw [sent]
  split
  · next q hq =>
    have found : q.id = id := by simpa using List.find?_some hq
    rw [(g.complete_pend_pc q).1, List.mem_filter]
    exact ⟨hp, by simpa [found] using other⟩
  · exact hp

/-- The registers that a receive is to get. -/
def received (snd rcv : XWait) : List RegWr :=
  snd.vals.filterMap (fun v => if laneIn rcv.mask v.2.1 then some (RegWr.v (rcv.base + v.1) v.2.1 v.2.2 false) else none)

theorem pairUp_eq (s : State) (b slot : Nat) (snd rcv : XWait) : pairUp s b slot snd rcv =
    ((s.modSlot b slot (fun l => l.filter (fun w => w.pend != snd.pend && w.pend != rcv.pend))).modGrp snd.g (sent snd.pend)).modGrp rcv.g
      (fun g => { g with pend := g.pend.map (fun p => if p.id = rcv.pend then { p with wr := received snd rcv } else p) }) := rfl

section
variable (s : State) (b slot : Nat) (snd rcv : XWait)

theorem modSlot_slot (u : List XWait → List XWait) : mget ((s.modSlot b slot u).blk b).xfer [] slot = u (mget (s.blk b).xfer [] slot) := by
  rw [State.modSlot, State.modBlk_blk_same]
  simp [mmod, mget, mget?_mput]

theorem pairUp_slot : mget ((pairUp s b slot snd rcv).blk b).xfer [] slot =
    (mget (s.blk b).xfer [] slot).filter (fun w => w.pend != snd.pend && w.pend != rcv.pend) := modSlot_slot s b slot _

theorem pairUp_me (own : rcv.g = s.cur) : (pairUp s b slot snd rcv).me = (pairUp s b slot snd rcv).grp rcv.g := by
  rw [own]
  rfl

/-- The group of the receive, before its registers are put to it. -/
theorem sent_grp : ((s.modSlot b slot (fun l => l.filter (fun w => w.pend != snd.pend && w.pend != rcv.pend))).modGrp snd.g (sent snd.pend)).grp rcv.g =
    if rcv.g = snd.g then sent snd.pend (s.grp rcv.g) else s.grp rcv.g := by
  split
  · next same =>
    rw [same, State.modGrp_grp_same]
    rfl
  · next other =>
    rw [State.modGrp_grp_ne (h := other)]
    rfl

theorem pairUp_pc : ((pairUp s b slot snd rcv).grp rcv.g).pc = (s.grp rcv.g).pc := by
  rw [pairUp_eq, State.modGrp_grp_same]
  dsimp only
  rw [sent_grp]
  split
  · exact sent_pc ..
  · rfl

/-- The receive is to get its registers. -/
theorem pairUp_pend {p : Pend} (hp : p ∈ (s.grp rcv.g).pend) (id : p.id = rcv.pend) (other : rcv.pend ≠ snd.pend) :
    { p with wr := received snd rcv } ∈ ((pairUp s b slot snd rcv).grp rcv.g).pend := by
  have kept : p ∈ (if rcv.g = snd.g then sent snd.pend (s.grp rcv.g) else s.grp rcv.g).pend := by
    split
    · exact mem_sent_pend hp (id ▸ other)
    · exact hp
  rw [pairUp_eq, State.modGrp_grp_same, sent_grp]
  exact List.mem_map.mpr ⟨p, kept, if_pos id⟩

end

/-! ## The issue of one side -/

section
variable (s : State) (c : Ctl)

/-- The completion of a side that waits. -/
def transferPend : Pend := ⟨s.nextId, none, c.setk.toNat, []⟩

theorem transferIssued_me : (Claims.transferIssued s c).me = { (s.issueHeld c).me with pend := (s.issueHeld c).me.pend ++ [transferPend s c] } :=
  (s.issueHeld c).modMe_me (fun g => { g with pend := g.pend ++ [transferPend s c] })

theorem transferIssued_pend : (Claims.transferIssued s c).me.pend = s.me.pend ++ [transferPend s c] := by
  obtain ⟨k, issued⟩ := s.issueHeld_me c
  rw [transferIssued_me, issued]

theorem transferIssued_pc : (Claims.transferIssued s c).me.pc = s.me.pc + 8 := by
  obtain ⟨k, issued⟩ := s.issueHeld_me c
  rw [transferIssued_me, issued]

theorem transferIssued_blk (b : Nat) : (Claims.transferIssued s c).blk b = s.blk b := rfl

/-- What has been issued before is still to complete. -/
theorem mem_transferIssued_pend {p : Pend} {k : Nat} (hp : p ∈ (s.grp k).pend) : p ∈ ((Claims.transferIssued s c).grp k).pend := by
  by_cases own : k = s.cur
  · subst own
    rw [show (Claims.transferIssued s c).grp s.cur = (Claims.transferIssued s c).me from rfl, transferIssued_pend]
    exact List.mem_append_left _ hp
  · have issued : (s.issueHeld c).grp k = s.grp k := State.modGrp_grp_ne (h := own) ..
    have other : (Claims.transferIssued s c).grp k = (s.issueHeld c).grp k :=
      (s.issueHeld c).modMe_grp_ne k (fun g => { g with pend := g.pend ++ [transferPend s c] }) own
    rwa [other, issued]

end

/-! ## The meeting (R138) -/

section
variable {s : State} {c : Ctl} {slot : Nat} {w o : XWait}

/-- With no instruction of the other kind at the head of the slot, the instruction joins it. -/
theorem transfer_joins (id : w.pend = s.nextId) (same : ∀ v rest, mget (s.blk (s.cur / 512)).xfer [] slot = v :: rest → v.send = w.send) :
    transfer c slot w s = .next ((Claims.transferIssued s c).modSlot (s.cur / 512) slot (· ++ [w])) := by
  have none : otherWaits s (blockOf s.cur) slot w.send = none := by
    rw [otherWaits]
    split
    · rfl
    · next v rest h => rw [if_pos (same v rest h)]
  rw [transfer]
  dsimp only
  rw [none, id]
  rfl

theorem otherWaits_of_head {rest : List XWait} (head : mget (s.blk (s.cur / 512)).xfer [] slot = o :: rest) (other : o.send ≠ w.send) :
    otherWaits s (blockOf s.cur) slot w.send = some o := by
  rw [otherWaits, show blockOf s.cur = s.cur / 512 from rfl, head]
  exact if_neg other

/-- The oldest waiting instruction is of the other kind and as long: the two are paired. -/
theorem transfer_pairs {rest : List XWait} (id : w.pend = s.nextId) (head : mget (s.blk (s.cur / 512)).xfer [] slot = o :: rest)
    (other : o.send ≠ w.send) (equal : o.n = w.n) : transfer c slot w s =
      .next (if w.send then pairUp (Claims.transferIssued s c) (s.cur / 512) slot w o else pairUp (Claims.transferIssued s c) (s.cur / 512) slot o w) := by
  rw [transfer]
  dsimp only
  rw [otherWaits_of_head head other, id]
  exact if_neg (not_not_intro equal)

/-- It is of another length. -/
theorem transfer_mismatch {rest : List XWait} (head : mget (s.blk (s.cur / 512)).xfer [] slot = o :: rest) (other : o.send ≠ w.send)
    (differ : o.n ≠ w.n) (probe : s.probe.on = false) :
    transfer c slot w s = .next (raise (faultPartner s (s.cur / 512) slot) (fi 0x17)) := by
  rw [transfer]
  dsimp only
  rw [otherWaits_of_head head other]
  exact (if_pos differ).trans (if_neg (by simp [probe]))

/-- The slot without the pair. -/
theorem slot_of_pair {rest : List XWait} {a b : Nat} (head : mget (s.blk (s.cur / 512)).xfer [] slot = o :: rest)
    (ids : o.pend = a ∨ o.pend = b) (later : ∀ x ∈ rest, x.pend ≠ a ∧ x.pend ≠ b) :
    (mget ((Claims.transferIssued s c).blk (s.cur / 512)).xfer [] slot).filter (fun x => x.pend != a && x.pend != b) = rest := by
  rw [transferIssued_blk, head, List.filter_cons_of_neg (by rcases ids with h | h <;> simp [h]), List.filter_eq_self]
  exact fun x hx => by simpa using later x hx

end

/-! ## What each side brings -/

/-- What XSEND puts to its slot. -/
def sendOf (s : State) (f : FmtV3) (n : Nat) : XWait :=
  ⟨s.cur, s.nextId, s.me.pc, n, true, f.a.toNat, 0xFFFFFFFF,
    (List.range n).flatMap (fun j => (List.range 32).map (fun l => (j, l, s.me.rv (f.a.toNat + j) l))), f.gd⟩

/-- What XRECV puts to its slot. -/
def recvOf (s : State) (f : FmtV3) (n : Nat) : XWait :=
  ⟨s.cur, s.nextId, s.me.pc, n, false, f.d.toNat, Claims.maskBits (Claims.active s.me f.gd), [], f.gd⟩

theorem maskOf_crossLanes (g : Group) (gd : BitVec 4) : maskOf (Claims.crossLanes g gd).contains = Claims.maskBits (Claims.active g gd) := by
  rw [maskBits_eq]
  refine BitVec.eq_of_getLsbD_eq fun l hl => ?_
  rw [getLsbD_maskOf _ hl, getLsbD_maskOf _ hl, Bool.eq_iff_iff, List.contains_iff_mem, Claims.crossLanes, List.mem_filter, List.mem_range]
  exact and_iff_right hl

section
variable {s : State} {c : Ctl} {f : FmtV3} {n : Nat} (hn : n = (f.m.extractLsb' 0 3).toNat + 1)
include hn

theorem execXsend_of_ok (range : f.a.toNat + n ≤ s.me.nv) (clean : ∀ l j, l < 32 → j < n → 32 * (f.a.toNat + j) + l ∉ s.me.badV) :
    execXsend c f s = transfer c (f.b.toNat % 16) (sendOf s f n) s := by
  have inside : vRange s.me [(f.a.toNat, n)] = true := vRange_of_forall (by simpa using range)
  have read : srcBad s.me lanes [(f.a.toNat, n)] = false := srcBad_of_clean (by
    rintro l hl r hr j hj
    obtain rfl := List.mem_singleton.mp hr
    exact clean l j (List.mem_range.mp hl) hj)
  simp only [execXsend, mode_eq, ← hn, inside, read]
  exact orFault_ok rfl

theorem execXrecv_of_ok (range : f.d.toNat + n ≤ s.me.nv) (acts : Claims.crossLanes s.me f.gd ≠ [])
    (guard : ∀ l, l < 32 → (s.me.am &&& ~~~s.me.xm).getLsbD l = true → 32 * (f.gd.toNat % 8) + l ∉ s.me.badP) :
    execXrecv c f s = transfer c (f.b.toNat % 16) (recvOf s f n) s := by
  have inside : vRange s.me [(f.d.toNat, n)] = true := vRange_of_forall (by simpa using range)
  simp only [execXrecv, mode_eq, ← hn, inside, pGuardBad_of_clean guard, part'_eq_crossLanes, maskOf_crossLanes]
  exact (orFault_ok rfl).trans (if_neg (by simpa using acts))

end

/-! ## What is received -/

theorem filterMap_ite {A B : Type} (p : A → Bool) (q : A → B) (xs : List A) :
    xs.filterMap (fun x => if p x then some (q x) else none) = (xs.filter p).map q := by
  rw [← List.filterMap_eq_filter, List.map_filterMap]
  refine List.filterMap_congr fun x _ => ?_
  cases h : p x <;> simp [Option.guard, h]

theorem received_sendOf (s : State) (f : FmtV3) (n : Nat) (w : XWait) : received (sendOf s f n) w =
    (List.range n).flatMap (fun j => ((List.range 32).filter (fun l => w.mask.getLsbD l)).map
      (fun l => .v (w.base + j) l (s.me.rv (f.a.toNat + j) l) false)) := by
  rw [received, sendOf, List.filterMap_flatMap]
  refine List.flatMap_congr fun j _ => ?_
  rw [List.filterMap_map]
  exact filterMap_ite (w.mask.getLsbD ·) (fun l => RegWr.v (w.base + j) l (s.me.rv (f.a.toNat + j) l) false) _

theorem laneIn_maskBits (p : Nat → Bool) (l : Nat) : laneIn (Claims.maskBits p) l = true ↔ p l = true ∧ l < 32 := by
  rw [maskBits_eq, laneIn]
  by_cases h : l < 32
  · rw [getLsbD_maskOf p h]
    exact (and_iff_left h).symm
  · rw [BitVec.getLsbD_of_ge _ l (Nat.le_of_not_lt h)]
    exact iff_of_false Bool.false_ne_true fun both => h both.2

theorem received_recvOf (s : State) (f : FmtV3) (n : Nat) (w : XWait) : received w (recvOf s f n) =
    w.vals.filterMap (fun v => if Claims.active s.me f.gd v.2.1 = true ∧ v.2.1 < 32 then some (.v (f.d.toNat + v.1) v.2.1 v.2.2 false) else none) := by
  simp only [received, recvOf, laneIn_maskBits]

/-- Settles O20: joining, pairing, and the fault of different lengths, for each side. -/
theorem transferSlotsPairInOrder : Obligations.TransferSlotsPairInOrder := by
  intro s c f slot n hslot hn g b queue send recv sendOk recvOk
  subst hslot
  have xsend (ok : sendOk) : exec (.xsend c f) s = transfer c (f.b.toNat % 16) (sendOf s f n) s :=
    (exec_xsend c f s).trans (execXsend_of_ok hn ok.1 ok.2)
  have xrecv (ok : recvOk) : exec (.xrecv c f) s = transfer c (f.b.toNat % 16) (recvOf s f n) s :=
    (exec_xrecv c f s).trans (execXrecv_of_ok hn ok.1 ok.2.1 ok.2.2)
  refine ⟨fun ok same => (xsend ok).trans (transfer_joins rfl same), fun ok same => (xrecv ok).trans (transfer_joins rfl same),
    fun w rest head equal earlier later => ⟨fun ok kind => ?_, fun ok kind => ?_⟩,
    fun w rest head differ probe => ⟨fun ok kind => ?_, fun ok kind => ?_⟩⟩
  case refine_1 =>
    have other : w.send ≠ (sendOf s f n).send := by rw [kind]; exact Bool.false_ne_true
    refine ⟨pairUp (Claims.transferIssued s c) b (f.b.toNat % 16) (sendOf s f n) w, (xsend ok).trans (transfer_pairs rfl head other equal), ?_, ?_⟩
    · rw [pairUp_slot]
      exact slot_of_pair head (.inr rfl) fun x hx => ⟨(later x hx).2, (later x hx).1⟩
    · rintro ⟨p, hp, id⟩
      exact ⟨_, pairUp_pend _ _ _ _ w (mem_transferIssued_pend s c hp) id (Nat.ne_of_lt earlier), id, received_sendOf s f n w⟩
  case refine_2 =>
    have other : w.send ≠ (recvOf s f n).send := by rw [kind]; exact Bool.false_ne_true.symm
    refine ⟨pairUp (Claims.transferIssued s c) b (f.b.toNat % 16) w (recvOf s f n), (xrecv ok).trans (transfer_pairs rfl head other equal), ?_, ?_, ?_⟩
    · rw [pairUp_slot]
      exact slot_of_pair head (.inl rfl) later
    · rw [pairUp_me (Claims.transferIssued s c) _ _ w (recvOf s f n) rfl, pairUp_pc]
      exact transferIssued_pc s c
    · have issued : transferPend s c ∈ (Claims.transferIssued s c).me.pend := by
        rw [transferIssued_pend]
        exact List.mem_append_right _ List.mem_cons_self
      rw [pairUp_me (Claims.transferIssued s c) _ _ w (recvOf s f n) rfl]
      exact fun _ => ⟨_, pairUp_pend (Claims.transferIssued s c) b _ w (recvOf s f n) issued rfl (Nat.ne_of_gt earlier), rfl, rfl,
        received_recvOf s f n w⟩
  case refine_3 =>
    have other : w.send ≠ (sendOf s f n).send := by rw [kind]; exact Bool.false_ne_true
    exact (xsend ok).trans (transfer_mismatch head other differ probe)
  case refine_4 =>
    have other : w.send ≠ (recvOf s f n).send := by rw [kind]; exact Bool.false_ne_true.symm
    exact (xrecv ok).trans (transfer_mismatch head other differ probe)

end Sys2Proof.Machine
end

section
/-!
PROOFS. Accesses of lanes to scratchpads that begin, or raise SCRATCH_RANGE (R149, R170, R171).
-/
namespace Sys2Proof.Machine

/-! ## One fault for all failing lanes (R29) -/

theorem laneFault_code {bad : List Bad} {code : Nat} (all : ∀ x ∈ bad, x.1 = code) (some : bad ≠ []) : ∃ r, laneFault bad = .some r ∧ r.code = code := by
  obtain ⟨b, bs, rfl⟩ := List.exists_cons_of_ne_nil some
  obtain ⟨head, tail⟩ := List.forall_mem_cons.mp all
  refine ⟨_, rfl, ?_⟩
  change bs.foldl (fun c x => min c x.1) b.1 = code
  rw [head]
  clear head some all
  induction bs with
  | nil => rfl
  | cons x bs ih =>
    obtain ⟨hx, hbs⟩ := List.forall_mem_cons.mp tail
    rw [List.foldl_cons, hx, Nat.min_self]
    exact ih hbs

/-! ## The bytes and the order of a store (R65, R170) -/

theorem take_registerBytes (g : Group) (r n size l : Nat) (h : size ≤ n) :
    (Claims.registerBytes g r n l).take size = Claims.registerBytes g r size l := by
  rw [Claims.registerBytes, ← List.map_take, List.take_range, Nat.min_eq_left h, Claims.registerBytes]

theorem storeBytes_eq (g : Group) (r size l : Nat) : storeBytes g r size l = Claims.registerBytes g r size l := by
  have enough : size ≤ 4 * sizeRegs size := by
    unfold sizeRegs
    omega
  rw [← take_registerBytes g r _ size l enough, ← regBytes_eq]
  rfl

theorem insRank_perm {A : Type} (rank : A → Nat) (x : A) (l : List A) : (insRank rank x l).Perm (x :: l) := by
  induction l with
  | nil => exact .refl _
  | cons y l ih =>
    rw [insRank]
    split
    · exact .refl _
    · exact (ih.cons y).trans (.swap x y l)

theorem insRanks_perm {A : Type} (rank : A → Nat) (l : List A) : (l.foldr (insRank rank) []).Perm l := by
  induction l with
  | nil => exact .refl _
  | cons x l ih => exact (insRank_perm rank x _).trans (ih.cons x)

theorem storeOrder_perm {A : Type} (s : State) (place lane : A → Nat) (l : List A) : (storeOrder s place lane l).Perm l := by
  unfold storeOrder
  split
  · exact insRanks_perm _ l
  · exact .refl _

/-- What single requests have in common whatever their lanes, the joined ones have as well. -/
theorem forall_foldr_joinReq {P : Req → Prop} (keeps : ∀ r ls, P r → P { r with lanes := ls }) {qs : List Req} (h : ∀ q ∈ qs, P q) :
    ∀ r ∈ qs.foldr joinReq [], P r := by
  induction qs with
  | nil => exact fun _ hr => absurd hr List.not_mem_nil
  | cons q qs ih =>
    obtain ⟨hq, hqs⟩ := List.forall_mem_cons.mp h
    have hrs := ih hqs
    rw [List.foldr_cons, joinReq]
    split
    · next r hr =>
      exact List.forall_mem_cons.mpr ⟨keeps r _ (hrs r (List.mem_of_find?_eq_some hr)), fun y hy => hrs y (List.mem_of_mem_filter hy)⟩
    · exact List.forall_mem_cons.mpr ⟨hq, hrs⟩

/-! ## Places of lanes (R149, R171) -/

/-- The bytes of a lane lie in the scratchpad of its place. -/
def PlaceInside (s : State) (size : Nat) (p : Nat × Nat × Int) : Prop := 0 ≤ p.2.2 ∧ p.2.2 + (size : Nat) ≤ (((s.blk p.1).loc p.2.1).sb : Nat)

/-- Where a lane performs: its number, its scratchpad and its offset, or none where R171 raises SCRATCH_RANGE. -/
def laneSpot (s : State) (cluster : Bool) (f : FmtM) (l : Nat) : Option (Nat × Nat × Nat) :=
  match Claims.scratchPlace s cluster f l with
  | some p => if 0 ≤ p.2.2 ∧ p.2.2 + (2 ^ f.sz.toNat : Nat) ≤ (((s.blk p.1).loc p.2.1).sb : Nat) then some (l, 16 * p.1 + p.2.1, p.2.2.toNat) else none
  | none => none

/-- A lane's address is a multiple of the access's size (R156). -/
def LaneAligned (s : State) (cluster : Bool) (f : FmtM) (l : Nat) : Prop :=
  if cluster then ((s.me.rv f.addr.toNat l).extractLsb' 0 24).toNat % 2 ^ f.sz.toNat = 0 else (s.me.rv f.addr.toNat l).toNat % 2 ^ f.sz.toNat = 0

theorem laneSpot_eq_some {s : State} {cluster : Bool} {f : FmtM} {l : Nat} {y : Nat × Nat × Nat} : laneSpot s cluster f l = some y ↔
    ∃ p, Claims.scratchPlace s cluster f l = some p ∧ PlaceInside s (2 ^ f.sz.toNat) p ∧ y = (l, 16 * p.1 + p.2.1, p.2.2.toNat) := by
  unfold laneSpot
  cases Claims.scratchPlace s cluster f l with
  | none => simp
  | some p => simp [PlaceInside, and_assoc, eq_comm]

theorem laneSpot_eq_none {s : State} {cluster : Bool} {f : FmtM} {l : Nat} : laneSpot s cluster f l = none ↔
    ∀ p, ¬ (Claims.scratchPlace s cluster f l = some p ∧ PlaceInside s (2 ^ f.sz.toNat) p) := by
  unfold laneSpot
  cases Claims.scratchPlace s cluster f l with
  | none => simp
  | some p => simp [PlaceInside]

theorem scratchPlace_eq (s : State) (cluster : Bool) (f : FmtM) (l : Nat) :
    let t := spTarget s s.me f.addr.toNat (f.off.toInt * (2 ^ f.sz.toNat : Nat)) cluster l
    Claims.scratchPlace s cluster f l = t.1.map (fun b => (b.1, b.2, t.2)) := by
  cases cluster with
  | false => rfl
  | true =>
    have high : (s.me.rv f.addr.toNat l).toNat / 2 ^ 28 ≠ 0 ↔ (s.me.rv f.addr.toNat l).extractLsb' 28 4 ≠ 0 := by
      have := (s.me.rv f.addr.toNat l).isLt
      rw [← BitVec.toNat_inj.ne, BitVec.extractLsb'_toNat, Nat.shiftRight_eq_div_pow]
      change _ ≠ 0 ↔ _ ≠ 0
      omega
    have low : ∀ lo n, bitsN (s.me.rv f.addr.toNat l).toNat lo n = ((s.me.rv f.addr.toNat l).extractLsb' lo n).toNat := fun lo n => by
      rw [BitVec.extractLsb'_toNat, Nat.shiftRight_eq_div_pow]
      rfl
    simp only [Claims.scratchPlace, spTarget, high, low, if_true]
    split <;> rfl

theorem spTarget_aligned {s : State} {cluster : Bool} {f : FmtM} {l : Nat} (h : LaneAligned s cluster f l) :
    (spTarget s s.me f.addr.toNat (f.off.toInt * (2 ^ f.sz.toNat : Nat)) cluster l).2 % ((2 ^ f.sz.toNat : Nat) : Int) = 0 := by
  cases cluster with
  | false =>
    change (((s.me.rv f.addr.toNat l).toNat : Int) + f.off.toInt * (2 ^ f.sz.toNat : Nat)) % _ = 0
    rw [Int.add_mul_emod_self_right]
    exact_mod_cast h
  | true =>
    change ((bitsN (s.me.rv f.addr.toNat l).toNat 0 24 : Nat) + f.off.toInt * (2 ^ f.sz.toNat : Nat)) % _ = 0
    have low : bitsN (s.me.rv f.addr.toNat l).toNat 0 24 % 2 ^ f.sz.toNat = 0 := by
      rw [bitsN, ← Nat.shiftRight_eq_div_pow, ← BitVec.extractLsb'_toNat]
      exact h
    rw [Int.add_mul_emod_self_right]
    exact_mod_cast low

/-- What an aligned lane that does not perform is reported with (R171). -/
def spotBad (s : State) (cluster : Bool) (f : FmtM) (l : Nat) : Bad :=
  (fcScratch, wrap 64 (spTarget s s.me f.addr.toNat (f.off.toInt * (2 ^ f.sz.toNat : Nat)) cluster l).2, l, 0)

/-- One lane of `spLanes`. -/
def checkSpot (s : State) (cluster : Bool) (f : FmtM) (acc : List (Nat × Nat × Nat) × List Bad) (l : Nat) : List (Nat × Nat × Nat) × List Bad :=
  match laneSpot s cluster f l with
  | some y => (acc.1 ++ [y], acc.2)
  | none => (acc.1, acc.2 ++ [spotBad s cluster f l])

theorem spLanes_of_aligned {s : State} {cluster : Bool} {f : FmtM} {ls : List Nat} (h : ∀ l ∈ ls, LaneAligned s cluster f l) :
    spLanes s f.addr.toNat (f.off.toInt * (2 ^ f.sz.toNat : Nat)) (2 ^ f.sz.toNat) cluster ls = ls.foldl (checkSpot s cluster f) ([], []) := by
  unfold spLanes
  refine List.foldl_ext _ _ _ fun acc l hl => ?_
  have place := scratchPlace_eq s cluster f l
  have aligned := spTarget_aligned (h l hl)
  unfold checkSpot spotBad laneSpot
  dsimp only at place ⊢
  rw [place, if_neg (not_not.mpr aligned)]
  generalize spTarget s s.me f.addr.toNat (f.off.toInt * (2 ^ f.sz.toNat : Nat)) cluster l = t at aligned
  obtain ⟨_ | b, off⟩ := t
  · rfl
  · have inside : (decide (off < 0) || !spInside ((s.blk b.1).loc b.2) off.toNat (2 ^ f.sz.toNat)) = true ↔
        ¬ (0 ≤ off ∧ off + (2 ^ f.sz.toNat : Nat) ≤ (((s.blk b.1).loc b.2).sb : Nat)) := by
      simp only [spInside, Bool.or_eq_true, decide_eq_true_eq, Bool.not_eq_true', decide_eq_false_iff_not]
      omega
    simp only [Option.map_some, inside, ite_not]
    split <;> rfl

theorem checkSpots_eq (s : State) (cluster : Bool) (f : FmtM) (ls : List Nat) (acc : List (Nat × Nat × Nat) × List Bad) :
    ls.foldl (checkSpot s cluster f) acc = (acc.1 ++ ls.filterMap (laneSpot s cluster f),
      acc.2 ++ (ls.filter (fun l => (laneSpot s cluster f l).isNone)).map (spotBad s cluster f)) := by
  induction ls generalizing acc with
  | nil => simp
  | cons l ls ih =>
    rw [List.foldl_cons, ih, checkSpot]
    cases h : laneSpot s cluster f l <;> simp [h]

/-! ## The access (R170) -/

/-- The lanes that perform, in the order in which they write. -/
def spots (s : State) (f : FmtM) (store cluster : Bool) : List (Nat × Nat × Nat) :=
  let ok := (Claims.crossLanes s.me f.gd).filterMap (laneSpot s cluster f)
  if store then storeOrder s (fun x => 2 ^ 32 * x.2.1 + x.2.2) (·.1) ok else ok

/-- What each lane brings: the bytes that a store writes. -/
def spotData (s : State) (f : FmtM) (store : Bool) (l : Nat) : List Byte :=
  if store then Claims.registerBytes s.me f.data.toNat (2 ^ f.sz.toNat) l else []

/-- The scratchpad access that begins. -/
def spotAccess (s : State) (c : Ctl) (f : FmtM) (store cluster : Bool) : Access :=
  { id := s.nextId, setk := c.setk.toNat, op := if store then .store else .load, space := .scratch, size := 2 ^ f.sz.toNat, dst := f.data.toNat, hint := 0,
    scope := 0, ord := 0, swz := f.swz.toNat,
    reqs := spReqs true (2 ^ f.sz.toNat) (spotData s f store) (spots s f store cluster) }

theorem exec_scratchOf {i : Instr} {c : Ctl} {f : FmtM} {store cluster : Bool} (h : Claims.scratchOf i = some (c, f, store, cluster)) (s : State) :
    exec i s = scratch c f (if store then .store else .load) cluster s := by
  unfold Claims.scratchOf at h
  split at h
  case h_5 => cases h
  all_goals
    cases h
    rfl

/-- The v-registers that are read (R170). -/
def spotReads (f : FmtM) (store : Bool) : List (Nat × Nat) := (f.addr.toNat, 1) :: (if store then [(f.data.toNat, Claims.wordsOf (2 ^ f.sz.toNat))] else [])

section
variable {s : State} {c : Ctl} {f : FmtM} {store cluster : Bool}
  (data : f.data.toNat + Claims.wordsOf (2 ^ f.sz.toNat) ≤ s.me.nv) (addr : f.addr.toNat + 1 ≤ s.me.nv)
  (aligned : ∀ l ∈ Claims.crossLanes s.me f.gd, LaneAligned s cluster f l)
include data addr aligned

/-- With registers in range and lanes aligned: the lanes outside, then the poison, then the access. -/
theorem scratch_eq : ∃ k, scratch c f (if store then .store else .load) cluster s =
      orFault s (faultList (laneFault (((Claims.crossLanes s.me f.gd).filter (fun l => (laneSpot s cluster f l).isNone)).map (spotBad s cluster f))) ++
        faultIf (pGuardBad s.me f.gd || srcBad s.me (Claims.crossLanes s.me f.gd) (spotReads f store)) fcUncorrectable) k ∧
    (Claims.crossLanes s.me f.gd ≠ [] → k s = .next (beginAccess c s (spotAccess s c f store cluster) [])) := by
  have range : vRange s.me [(f.data.toNat, sizeRegs (2 ^ f.sz.toNat)), (f.addr.toNat, 1)] = true := by
    simpa [vRange] using ⟨data, addr⟩
  have bytes : storeBytes s.me f.data.toNat (2 ^ f.sz.toNat) = Claims.registerBytes s.me f.data.toNat (2 ^ f.sz.toNat) := funext (storeBytes_eq s.me _ _)
  have lanes (some : Claims.crossLanes s.me f.gd ≠ []) : (Claims.crossLanes s.me f.gd).isEmpty = false := by simpa using some
  unfold scratch
  dsimp only
  rw [part'_eq_crossLanes, spLanes_of_aligned aligned, checkSpots_eq, range, bytes]
  cases store <;> exact ⟨_, rfl, fun some => if_neg (by rw [lanes some]; exact Bool.false_ne_true)⟩

theorem scratch_outside (out : ∃ l ∈ Claims.crossLanes s.me f.gd, laneSpot s cluster f l = none) :
    ∃ r : FaultInfo, scratch c f (if store then .store else .load) cluster s = .next (raise s r) ∧ r.code = 0x07 := by
  obtain ⟨l, hl, none⟩ := out
  have codes : ∀ x ∈ ((Claims.crossLanes s.me f.gd).filter (fun l => (laneSpot s cluster f l).isNone)).map (spotBad s cluster f), x.1 = fcScratch :=
    List.forall_mem_map.mpr fun _ _ => rfl
  obtain ⟨r, fault, code⟩ := laneFault_code codes (List.ne_nil_of_mem (List.mem_map_of_mem (List.mem_filter.mpr ⟨hl, by rw [none]; rfl⟩)))
  obtain ⟨k, run, -⟩ := scratch_eq (c := c) (store := store) data addr aligned
  rw [run, fault]
  obtain ⟨nil, -⟩ | ⟨x, hx, least, raised⟩ := orFault_spec s (faultList (some r) ++
      faultIf (pGuardBad s.me f.gd || srcBad s.me (Claims.crossLanes s.me f.gd) (spotReads f store)) fcUncorrectable) k
  · cases nil
  · refine ⟨x, raised, ?_⟩
    have le : x.code ≤ fcScratch := code ▸ least r (List.mem_cons_self ..)
    obtain hx | hx := List.mem_append.mp hx
    · rw [List.mem_singleton.mp hx, code]
      rfl
    · rw [faultIf] at hx
      split at hx
      · rw [List.mem_singleton.mp hx] at le
        exact absurd le (by decide)
      · cases hx

theorem scratch_begins (guard : pGuardBad s.me f.gd = false) (clean : srcBad s.me (Claims.crossLanes s.me f.gd) (spotReads f store) = false)
    (inside : ∀ l ∈ Claims.crossLanes s.me f.gd, laneSpot s cluster f l ≠ none) (some : Claims.crossLanes s.me f.gd ≠ []) :
    scratch c f (if store then .store else .load) cluster s = .next (beginAccess c s (spotAccess s c f store cluster) []) := by
  have all : (Claims.crossLanes s.me f.gd).filter (fun l => (laneSpot s cluster f l).isNone) = [] :=
    List.filter_eq_nil_iff.mpr fun l hl => by simpa using inside l hl
  obtain ⟨k, run, begins⟩ := scratch_eq (c := c) (store := store) data addr aligned
  rw [run, all, guard, clean]
  exact (orFault_ok rfl).trans (begins some)

end

/-! ## The lanes of its requests -/

/-- The request of one lane. -/
def spotReq (size : Nat) (data : Nat → List Byte) (y : Nat × Nat × Nat) : Req :=
  newReq y.2.1 (y.2.2 / 64) 0 size 0 0 [{ lane := y.1, va := y.2.2, pa := y.2.2, data := data y.1, bad := false }]

theorem spReqs_joined (size : Nat) (data : Nat → List Byte) (ok : List (Nat × Nat × Nat)) :
    Joined (ok.map (spotReq size data)) (spReqs true size data ok) := joined_foldr _

theorem spReqs_n (size : Nat) (data : Nat → List Byte) (ok : List (Nat × Nat × Nat)) : ∀ r ∈ spReqs true size data ok, r.n = size :=
  forall_foldr_joinReq (P := fun r => r.n = size) (fun _ _ h => h) fun q hq => by
    obtain ⟨y, -, rfl⟩ := List.mem_map.mp hq
    rfl

theorem mem_spots {s : State} {f : FmtM} {store cluster : Bool} {y : Nat × Nat × Nat} : y ∈ spots s f store cluster ↔
    ∃ l ∈ Claims.crossLanes s.me f.gd, laneSpot s cluster f l = some y := by
  rw [spots, ← List.mem_filterMap]
  cases store with
  | false => rfl
  | true => exact (storeOrder_perm s _ _ _).mem_iff

/-- Settles O22: the lanes that are aligned lie inside their scratchpads, or are reported together. -/
theorem scratchpadAccessesBegin : Obligations.ScratchpadAccessesBegin := by
  intro s i c f store cluster hi g ls size fits aligned data addr lanes
  rw [exec_scratchOf hi]
  refine ⟨fun ⟨l, hl, out⟩ => scratch_outside data addr lanes ⟨l, hl, laneSpot_eq_none.mpr out⟩, fun guard cleanAddr cleanData inside some => ?_⟩
  have clean : srcBad s.me ls (spotReads f store) = false := by
    refine srcBad_of_clean fun l hl => List.forall_mem_cons.mpr ⟨fun j hj => ?_, fun r hr => ?_⟩
    · obtain rfl : j = 0 := Nat.lt_one_iff.mp hj
      exact cleanAddr l hl
    · cases store with
      | false => cases hr
      | true => exact List.mem_singleton.mp hr ▸ cleanData rfl l hl
  have unguarded : Claims.Crosses s.me f.gd [] [] [] [] := ⟨by simp, guard, by simp, by simp, by simp⟩
  have spot {l : Nat} (hl : l ∈ ls) : ∃ y ∈ spots s f store cluster, y.1 = l := by
    obtain ⟨p, place, low, high⟩ := inside l hl
    exact ⟨_, mem_spots.mpr ⟨l, hl, laneSpot_eq_some.mpr ⟨p, place, ⟨low, high⟩, rfl⟩⟩, rfl⟩
  have joined := spReqs_joined size (spotData s f store) (spots s f store cluster)
  refine ⟨_, spotAccess s c f store cluster, scratch_begins data addr lanes (pGuardBad_of_crosses unguarded) clean (fun l hl none => ?_) some,
    rfl, rfl, rfl, rfl, rfl, rfl, rfl, rfl, fun l hl => ?_, fun r hr => ⟨?_, fun x hx => ?_⟩⟩
  · obtain ⟨p, hp⟩ := inside l hl
    exact laneSpot_eq_none.mp none p hp
  · obtain ⟨y, hy, rfl⟩ := spot hl
    obtain ⟨r, hr, hx⟩ := joined.complete _ (List.mem_map_of_mem hy) _ (List.mem_singleton.mpr rfl)
    exact ⟨r, hr, _, hx, rfl⟩
  · obtain ⟨q, hq, e⟩ := joined.stage r hr
    obtain ⟨y, -, rfl⟩ := List.mem_map.mp hq
    exact e
  · obtain ⟨q, hq, hxq, same⟩ := joined.sound r hr x hx
    obtain ⟨y, hy, rfl⟩ := List.mem_map.mp hq
    obtain rfl := List.mem_singleton.mp hxq
    obtain ⟨l, hl, hy⟩ := mem_spots.mp hy
    obtain ⟨p, place, ⟨low, high⟩, rfl⟩ := laneSpot_eq_some.mp hy
    exact ⟨hl, ⟨p, ⟨place, low, high⟩, (congrArg (·.1) same).symm, Int.toNat_of_nonneg low⟩, (congrArg (·.2.1) same).symm,
      spReqs_n size (spotData s f store) (spots s f store cluster) r hr, rfl⟩

end Sys2Proof.Machine
end

section
/-!
PROOFS. The dispatcher: the record it chooses, the block it places, and the groups that start (R10, R141, R148, R203, R229, R317, R352, R353).
-/
namespace Sys2Proof.Machine

/-! ## Records by age (R352) -/

/-- One record was not launched after another. -/
def NotAfter (x y : Nat × Kernel) : Prop := x.2.launchAt ≤ y.2.launchAt

theorem insRec_perm (x : Nat × Kernel) (l : List (Nat × Kernel)) : (insRec x l).Perm (x :: l) := by
  induction l with
  | nil => exact .refl _
  | cons y l ih =>
    rw [insRec]
    split
    · exact .refl _
    · exact (ih.cons y).trans (.swap x y l)

theorem insRec_pairwise (x : Nat × Kernel) {l : List (Nat × Kernel)} (h : l.Pairwise NotAfter) : (insRec x l).Pairwise NotAfter := by
  induction l with
  | nil => exact List.pairwise_singleton _ x
  | cons y l ih =>
    obtain ⟨first, rest⟩ := List.pairwise_cons.mp h
    rw [insRec]
    split
    · next younger =>
      have le : NotAfter x y := by
        simp only [Bool.or_eq_true, Bool.and_eq_true, decide_eq_true_eq] at younger
        unfold NotAfter
        omega
      exact List.pairwise_cons.mpr ⟨List.forall_mem_cons.mpr ⟨le, fun z hz => Nat.le_trans le (first z hz)⟩, h⟩
    · next older =>
      have le : NotAfter y x := by
        simp only [Bool.or_eq_true, Bool.and_eq_true, decide_eq_true_eq] at older
        unfold NotAfter
        omega
      refine List.pairwise_cons.mpr ⟨fun z hz => ?_, ih rest⟩
      exact List.forall_mem_cons.mpr ⟨le, first⟩ z ((insRec_perm x l).mem_iff.mp hz)

/-- The records of a list by age. -/
def byAge (l : List (Nat × Kernel)) : List (Nat × Kernel) := l.foldl (fun l x => insRec x l) []

theorem byAge_spec (l : List (Nat × Kernel)) : (∀ x, x ∈ byAge l ↔ x ∈ l) ∧ (byAge l).Pairwise NotAfter := by
  have fold : ∀ (l acc : List (Nat × Kernel)), acc.Pairwise NotAfter → (∀ x, x ∈ l.foldl (fun l x => insRec x l) acc ↔ x ∈ acc ∨ x ∈ l) ∧
      (l.foldl (fun l x => insRec x l) acc).Pairwise NotAfter := by
    intro l
    induction l with
    | nil => exact fun acc h => ⟨by simp, h⟩
    | cons y l ih =>
      intro acc h
      obtain ⟨mem, sorted⟩ := ih _ (insRec_pairwise y h)
      refine ⟨fun x => ?_, sorted⟩
      rw [List.foldl_cons, mem, (insRec_perm y acc).mem_iff, List.mem_cons, List.mem_cons]
      tauto
  obtain ⟨mem, sorted⟩ := fold l [] .nil
  exact ⟨fun x => (mem x).trans (by simp), sorted⟩

/-! ## The choice (R352) -/

/-- The lowest class among the eligible records of a die. -/
def lowestClass (s : State) (die : Nat) : Nat := (eligibleOn s die).foldl (fun m x => min m x.2.cls) 4

theorem foldl_min_le (l : List (Nat × Kernel)) (n : Nat) :
    l.foldl (fun m x => min m x.2.cls) n ≤ n ∧ ∀ e ∈ l, l.foldl (fun m x => min m x.2.cls) n ≤ e.2.cls := by
  induction l generalizing n with
  | nil => exact ⟨Nat.le_refl n, by simp⟩
  | cons x l ih =>
    obtain ⟨start, rest⟩ := ih (min n x.2.cls)
    have start : (x :: l).foldl (fun m x => min m x.2.cls) n ≤ min n x.2.cls := start
    exact ⟨by omega, List.forall_mem_cons.mpr ⟨by omega, rest⟩⟩

/-- The eligible records of a context of the lowest class, by age. -/
def candidates (s : State) (die cx : Nat) : List (Nat × Kernel) :=
  byAge ((eligibleOn s die).filter (fun x => x.2.cls == lowestClass s die && x.2.ctx == cx))

theorem mem_candidates {s : State} {die cx : Nat} {x : Nat × Kernel} :
    x ∈ candidates s die cx ↔ x ∈ eligibleOn s die ∧ x.2.cls = lowestClass s die ∧ x.2.ctx = cx := by
  rw [candidates, (byAge_spec _).1, List.mem_filter, Bool.and_eq_true, beq_iff_eq, beq_iff_eq]

/-- A command list runs in a channel of the die. -/
def listRuns (s : State) (die : Nat) : Bool :=
  (s.die die).chans.any (fun ch => match chanOp s die ch.1 with | some (_, o) => o.opc == 0xF4 | none => false)

/-- The records to choose from: while a command list runs, those without a memory tag come first. -/
def ranked (s : State) (die cx : Nat) : List (Nat × Kernel) :=
  if listRuns s die then (candidates s die cx).filter (fun x => x.2.memTag == 0) ++ (candidates s die cx).filter (fun x => x.2.memTag != 0)
  else candidates s die cx

theorem mem_of_mem_ranked {s : State} {die cx : Nat} {x : Nat × Kernel} (h : x ∈ ranked s die cx) : x ∈ candidates s die cx := by
  unfold ranked at h
  split at h
  · exact (List.mem_append.mp h).elim List.mem_of_mem_filter List.mem_of_mem_filter
  · exact h

/-- The record chosen is one of them, and the first, unless the first was passed over. -/
theorem choose_spec {s : State} {die cx r : Nat} {p : Option Nat} (h : choose s die cx = some (r, p)) :
    ∃ k, (r, k) ∈ ranked s die cx ∧ (p = none → ∃ rest, ranked s die cx = (r, k) :: rest) := by
  change (match ranked s die cx with
    | [] => none
    | r :: _ => if lowestClass s die ≠ 0 && r.2.pow > allowedPow (s.pkg (die / 2)).hdrm && r.2.byp < 8 then
        match (ranked s die cx).find? (fun x => x.2.pow ≤ allowedPow (s.pkg (die / 2)).hdrm) with
        | some x => some (x.1, some r.1)
        | none => some (r.1, none)
      else some (r.1, none)) = some (r, p) at h
  cases hl : ranked s die cx with
  | nil => rw [hl] at h; cases h
  | cons x rest =>
    rw [hl] at h
    dsimp only at h
    have first (e : some (x.1, none) = some (r, p)) : ∃ k, (r, k) ∈ x :: rest ∧ (p = none → ∃ tl, x :: rest = (r, k) :: tl) := by
      cases e
      exact ⟨x.2, List.mem_cons_self .., fun _ => ⟨rest, rfl⟩⟩
    split at h
    · split at h
      · next y found =>
        cases h
        exact ⟨y.2, List.mem_of_find?_eq_some found, fun e => by cases e⟩
      · exact first h
    · exact first h

theorem choiceRule_holds (s : State) : Claims.choiceRule s := by
  intro die cx r p h
  obtain ⟨k, mem, first⟩ := choose_spec h
  obtain ⟨eligible, cls, ctx⟩ := mem_candidates.mp (mem_of_mem_ranked mem)
  have lowest : ∀ e ∈ eligibleOn s die, lowestClass s die ≤ e.2.cls := (foldl_min_le _ 4).2
  refine ⟨k, eligible, ctx, fun e he => cls ▸ lowest e he, fun none idle e he ectx ecls => ?_⟩
  have runs : listRuns s die = false := by
    refine List.any_eq_false.mpr fun ch _ runs => ?_
    cases hop : chanOp s die ch.1 with
    | none => simp [hop] at runs
    | some x => exact idle ch.1 x.1 x.2 hop (by simpa [hop] using runs)
  obtain ⟨rest, ranks⟩ := first none
  have sorted : ((r, k) :: rest).Pairwise NotAfter := by
    rw [← ranks, ranked, runs, if_neg Bool.false_ne_true]
    exact (byAge_spec _).2
  have listed : e ∈ (r, k) :: rest := by
    rw [← ranks, ranked, runs, if_neg Bool.false_ne_true]
    exact mem_candidates.mpr ⟨he, ecls.trans cls, ectx⟩
  rcases List.mem_cons.mp listed with rfl | later
  · exact Nat.le_refl _
  · exact (List.pairwise_cons.mp sorted).1 e later

/-! ## A core taken for a block (R146, R148) -/

theorem takeCore_keeps (s : State) (det : Bool) (core : Nat) : Keeps s (takeCore s det core) := by
  unfold takeCore
  split
  · exact (keeps_invalidateL1 s core true _).trans (keeps_modCore _ core _)
  · exact keeps_invalidateL1 s core false _

theorem takeCore_mem (s : State) (det : Bool) (core : Nat) : (takeCore s det core).mem = s.mem := by
  unfold takeCore
  split <;> rfl

theorem mfilter_none {V : Type} {p : Nat → V → Bool} (h : ∀ n v, p n v = false) (m : FMap V) : mfilter p m = [] := by
  induction m with
  | nil => rfl
  | cons e m ih => rw [mfilter, h, ih]; rfl

theorem flushL1_l1 (s : State) (core : Nat) : ((flushL1 s core).core core).l1 = [] := by
  have lines := State.modCore_core_same s core (fun c => { c with l1 := mfilter (fun _ l => !(true && (true || l.sealedBy.isNone))) c.l1 })
  exact (congrArg Core.l1 lines).trans (mfilter_none (fun _ _ => rfl) _)

/-- Of an empty core no translation and no line is left. -/
theorem takeCore_empty {s : State} {core : Nat} (h : blocksOn s core = []) (det : Bool) :
    ((takeCore s det core).core core).tlb = [] ∧ ((takeCore s det core).core core).l1 = [] := by
  unfold takeCore
  rw [h]
  refine ⟨by simp, ?_⟩
  simp only [List.isEmpty_nil, if_true, State.modCore_core_same]
  exact flushL1_l1 s core

/-! ## Placing (R148, R352) -/

theorem countByp_eq (s : State) (r : Nat) (p : Option Nat) : ∃ ks, countByp s r p = { s with kernels := ks } := by
  cases p <;> exact ⟨_, rfl⟩

theorem countByp_krn (s : State) (r : Nat) (p : Option Nat) : (countByp s r p).krn r = { s.krn r with byp := 0 } := by
  cases p with
  | none => exact State.modKrn_krn_same ..
  | some q =>
    refine (State.modKrn_krn_same ..).trans ?_
    by_cases h : r = q
    · rw [h, State.modKrn_krn_same]
    · rw [State.modKrn_krn_ne (h := h) ..]

theorem countByp_passed (s : State) {r q : Nat} (h : q ≠ r) : (countByp s r (some q)).krn q = { s.krn q with byp := (s.krn q).byp + 1 } :=
  (State.modKrn_krn_ne (h := h) ..).trans (State.modKrn_krn_same ..)

/-- The block that is placed on one core. -/
def blockOn (s : State) (r core : Nat) : Block :=
  let k := s.krn r
  { ctx := k.ctx, kernel := r, lin := k.next, x := k.next % k.gx, y := k.next / k.gx % k.gy, z := k.next / k.gx / k.gy, cores := [core],
    cluster := none, crank := 0, stage := .placed, clearAt := s.clock + (k.scratch + 255) / 256, placedAt := s.clock,
    local' := [(0, { sb := k.sb (k.share (s.ctx k.ctx).det 0).length })] }

/-- The core is taken, the block is listed, and its kernel counts it. -/
def placedOn (s : State) (r core : Nat) : State :=
  let t := takeCore s (s.ctx (s.krn r).ctx).det core
  { t with nextId := s.nextId + 1, blocks := mput s.blocks s.nextId (blockOn s r core) }.modKrn r (fun k => { k with next := k.next + 1 })

/-- Of placing on one core only the kernel's queue, once its last block is placed, is not told by that. -/
theorem placeBlock_on (s : State) (r core : Nat) : ∃ cs, placeBlock s r [core] none 0 = { placedOn s r core with ctxs := cs } := by
  have keeps := takeCore_keeps s (s.ctx (s.krn r).ctx).det core
  unfold placeBlock placedOn blockOn
  dsimp only [List.foldl_cons, List.foldl_nil]
  rw [keeps.nextId, keeps.blocks, keeps.clock]
  split
  · exact ⟨_, rfl⟩
  · exact ⟨_, rfl⟩

theorem placedOn_krn (s : State) (r core q : Nat) :
    (placedOn s r core).krn q = if q = r then { s.krn q with next := (s.krn q).next + 1 } else s.krn q := by
  have keeps := takeCore_keeps s (s.ctx (s.krn r).ctx).det core
  unfold placedOn
  split
  · next h =>
    rw [h, State.modKrn_krn_same]
    exact congrArg (fun k : Kernel => { k with next := k.next + 1 }) (keeps.krn r)
  · next h => exact (State.modKrn_krn_ne (h := h) ..).trans (keeps.krn q)

theorem placedOn_blk (s : State) (r core : Nat) : (placedOn s r core).blk s.nextId = blockOn s r core := mget_mput_same ..

/-- The groups of a kernel of one core are one share (R228). -/
theorem share_length {k : Kernel} (h : k.span = 1) (det : Bool) : (k.share det 0).length = k.groups := by
  unfold Kernel.share
  split
  · exact List.length_range
  · simp [h]

/-- Where every after word can be read nothing is reported (R351). -/
theorem reportAfter_of_read {s : State} {cx : Nat} (h : ∀ e ∈ headsOf s cx, ∀ va, afterRes s e.2 ≠ .unread va) : reportAfter s cx = s := by
  refine foldl_self fun e he => ?_
  split
  · next va unread => exact absurd unread (h e he va)
  · rfl

theorem execBlockPlace_of_choice {s : State} {die cx core r : Nat} {p : Option Nat} (read : ∀ e ∈ headsOf s cx, ∀ va, afterRes s e.2 ≠ .unread va)
    (chosen : choose s die cx = some (r, p)) (span : (s.krn r).span = 1) (unsaved : savedOf s r = []) (here : dieOfCore core = die)
    (fits : fitsCore s core (s.krn r) (List.range (s.krn r).groups) = true) :
    exec (.blockPlace die cx core) s = .next (placeBlock (countByp s r p) r [core] none 0) := by
  rw [exec_blockPlace, execBlockPlace, reportAfter_of_read read, ite_self]
  simp [chosen, span, unsaved, here, fits]

/-- The block on one core stands placed, with memories that read zero (R148). -/
theorem placedAs_blockOn {s u : State} {r core : Nat} (h : u.blk s.nextId = blockOn s r core) :
    Claims.PlacedAs s u s.nextId r (s.krn r).next [core] none := by
  refine ⟨by rw [h]; rfl, by rw [h]; rfl, by rw [h]; rfl, by rw [h]; rfl, by rw [h]; rfl, by rw [h]; rfl, by rw [h]; rfl, by rw [h]; rfl, by rw [h]; rfl,
    fun rank a => ?_⟩
  rw [h]
  have empty : ((blockOn s r core).loc rank).sp = [] ∧ ((blockOn s r core).loc rank).acm = [] := by
    unfold Block.loc blockOn mget
    simp only [mget?]
    split <;> exact ⟨rfl, rfl⟩
  rw [empty.1, empty.2]
  exact ⟨rfl, rfl⟩

theorem blockOn_countByp (s : State) (r core : Nat) (p : Option Nat) : blockOn (countByp s r p) r core = blockOn s r core := by
  have krn := countByp_krn s r p
  obtain ⟨ks, counted⟩ := countByp_eq s r p
  unfold blockOn
  rw [krn, counted]
  rfl

theorem blocksPlaced_holds : Claims.blocksPlaced := by
  refine fun s => ⟨choiceRule_holds s, fun die cx core r p _ read chosen span unsaved here fits => ?_⟩
  obtain ⟨cs, placed⟩ := placeBlock_on (countByp s r p) r core
  obtain ⟨ks, counted⟩ := countByp_eq s r p
  have nextId : (countByp s r p).nextId = s.nextId := by rw [counted]
  have blk : (placedOn (countByp s r p) r core).blk s.nextId = blockOn s r core := by
    rw [← nextId, placedOn_blk, blockOn_countByp]
  have krn (q : Nat) := placedOn_krn (countByp s r p) r core q
  refine ⟨_, (execBlockPlace_of_choice read chosen span unsaved here fits).trans (congrArg _ placed), ?_, congrArg (· + 1) nextId, placedAs_blockOn blk, ?_,
    ?_, ?_, fun q hp hq => ?_, fun empty => ?_⟩
  · exact (takeCore_mem ..).trans (by rw [counted])
  · have sb : ((blockOn s r core).loc 0).sb = (s.krn r).scratch - 32 * (s.krn r).spd * (s.krn r).groups :=
      congrArg (s.krn r).sb (share_length span _)
    refine (congrArg (fun b => ((b.loc 0).sb : Int)) blk).trans ?_
    rw [sb]
    push_cast
    omega
  · exact (congrArg Kernel.next (krn r)).trans (by rw [if_pos rfl, countByp_krn])
  · exact (congrArg Kernel.byp (krn r)).trans (by rw [if_pos rfl, countByp_krn])
  · subst hp
    exact (congrArg Kernel.byp (krn q)).trans (by rw [if_neg hq, countByp_passed s hq])
  · exact takeCore_empty (by rw [counted]; exact empty) _

/-! ## Groups that start (R10, R203) -/

/-- Lane `l` of v0 holds `l`. -/
def withLaneIds (g : Group) : Group := lanes.foldl (fun g l => g.wv 0 l (BitVec.ofNat 32 l) false) g

theorem foldl_wv_eq (ls : List Nat) (f : Nat → W32) (g : Group) :
    ∃ v bad, ls.foldl (fun g l => g.wv 0 l (f l) false) g = { g with v := v, badV := bad } := by
  induction ls generalizing g with
  | nil => exact ⟨g.v, g.badV, rfl⟩
  | cons l ls ih =>
    obtain ⟨v, bad, h⟩ := ih (g.wv 0 l (f l) false)
    exact ⟨v, bad, h⟩

theorem foldl_wv_rv (ls : List Nat) (f : Nat → W32) (g : Group) (n k : Nat) :
    (ls.foldl (fun g l => g.wv 0 l (f l) false) g).rv n k = if 32 * n + k ∈ ls then f (32 * n + k) else g.rv n k := by
  induction ls generalizing g with
  | nil => simp
  | cons l ls ih =>
    rw [List.foldl_cons, ih]
    by_cases later : 32 * n + k ∈ ls
    · rw [if_pos later, if_pos (List.mem_cons_of_mem l later)]
    · rw [if_neg later]
      by_cases here : 32 * n + k = l
      · rw [if_pos (List.mem_cons.mpr (.inl here)), here]
        have same : (g.wv 0 l (f l) false).rv n k = (g.wv 0 l (f l) false).rv 0 l := by rw [Group.rv, Group.rv, here, Nat.mul_zero, Nat.zero_add]
        rw [same, Group.wv_rv_same]
      · rw [if_neg (by simp [here, later]), Group.wv_rv_ne (h := by omega)]

theorem withLaneIds_rv (g : Group) {l : Nat} (hl : l < 32) (n : Nat) : (withLaneIds g).rv n l = if n = 0 then BitVec.ofNat 32 l else g.rv n l := by
  rw [withLaneIds, foldl_wv_rv]
  simp only [lanes, List.mem_range]
  by_cases h : n = 0
  · rw [h, if_pos (by omega), if_pos rfl, Nat.mul_zero, Nat.zero_add]
  · rw [if_neg (by omega), if_neg h]

/-- A pair written half by half reads as the value. -/
theorem rgd_wg_wg (g : Group) (n : Nat) : ((g.wg 0 (BitVec.ofNat 32 n)).wg 1 (BitVec.ofNat 32 (n / 2 ^ 32))).rgd 0 = BitVec.ofNat 64 n := by
  rw [Group.rgd, Group.wg_rg_same, Group.wg_rg_ne (h := by decide), Group.wg_rg_same]
  refine BitVec.eq_of_toNat_eq ?_
  rw [BitVec.toNat_append, BitVec.toNat_ofNat, BitVec.toNat_ofNat, BitVec.toNat_ofNat,
    ← Nat.shiftLeft_add_eq_or_of_lt (Nat.mod_lt _ (by decide)), Nat.shiftLeft_eq]
  omega

/-- A new group before its registers are written. -/
def blankGroup (s : State) (b rank j part : Nat) : Group :=
  let bl := s.blk b
  let k := s.krn bl.kernel
  { ctx := bl.ctx, block := b, idx := j, rank := rank, part := part, slot := freeSlot s part, startAt := s.clock, stop := .running,
    pc := BitVec.ofNat 64 (if k.hasRoles then k.text + (k.roleOf j).entry else k.entry), nv := (k.roleOf j).vregs, gk := k.gk,
    gsid := BitVec.ofNat 32 (bl.lin * k.groups + j), fresh := s.clock, waitFrom := s.clock, qRound := (s.ctx bl.ctx).roundsDone }

theorem newGroup_eq (s : State) (b rank j part : Nat) : newGroup s b rank j part =
    let lr := (s.krn (s.blk b).kernel).lr + 64
    ((withLaneIds (blankGroup s b rank j part)).wg 0 (BitVec.ofNat 32 lr)).wg 1 (BitVec.ofNat 32 (lr / 2 ^ 32)) := rfl

/-- The values that R10 and R203 give a group of a block on one core, group `j` on partition `j` mod 8. -/
def FreshGroup (bl : Block) (k : Kernel) (core j : Nat) (x : Group) : Prop :=
  x.stop = .running ∧ x.ctx = bl.ctx ∧ x.idx = j ∧ x.part = 8 * core + j % 8 ∧ x.rank = 0 ∧
    x.nv = (k.roleOf j).vregs ∧ x.pc = BitVec.ofNat 64 (if k.hasRoles then k.text + (k.roleOf j).entry else k.entry) ∧
    (∀ l, l < 32 → x.rv 0 l = BitVec.ofNat 32 l ∧ ∀ n, n ≠ 0 → x.rv n l = 0) ∧ x.rgd 0 = BitVec.ofNat 64 (k.lr + 64) ∧ (∀ n, 2 ≤ n → x.rg n = 0) ∧
    (∀ i, i < 7 → x.pm i = 0) ∧ x.q = 0 ∧ (∀ i, x.kc i = 0) ∧ x.fmt = 0x21 ∧ x.am = 0xFFFFFFFF ∧ x.xm = 0 ∧ x.stack = [] ∧ x.trap = 0 ∧
    x.fstat = 0 ∧ x.fpc = 0 ∧ x.gk = k.gk ∧ x.gpos = 0 ∧ x.gsid = BitVec.ofNat 32 (bl.lin * k.groups + j)

theorem freshGroup_newGroup (s : State) (b core j : Nat) :
    FreshGroup (s.blk b) (s.krn (s.blk b).kernel) core j (newGroup s b 0 j (8 * core + j % 8)) := by
  rw [newGroup_eq]
  have rv := @withLaneIds_rv (blankGroup s b 0 j (8 * core + j % 8))
  obtain ⟨v, bad, h⟩ : ∃ v bad, withLaneIds (blankGroup s b 0 j (8 * core + j % 8)) = { blankGroup s b 0 j (8 * core + j % 8) with v := v, badV := bad } :=
    foldl_wv_eq ..
  rw [h] at rv ⊢
  refine ⟨rfl, rfl, rfl, rfl, rfl, rfl, rfl, fun l hl => ⟨(rv hl 0).trans (if_pos rfl), fun n hn => (rv hl n).trans (if_neg hn)⟩, rgd_wg_wg _ _, fun n hn => ?_,
    fun i hi => if_neg (Nat.ne_of_lt hi), rfl, fun i => rfl, rfl, rfl, rfl, rfl, rfl, rfl, rfl, rfl, rfl, rfl⟩
  dsimp only
  rw [Group.wg_rg_ne (h := by omega), Group.wg_rg_ne (h := by omega)]
  rfl

/-- The first `n` groups of a block start on one core. -/
def startGroups (s : State) (b core n : Nat) : State :=
  (List.range n).foldl (fun s j => s.setGrp (gkey b j) (newGroup s b 0 j (8 * core + j % 8))) s

theorem startGroups_spec (s : State) (b core n : Nat) : ∃ gs, startGroups s b core n = { s with groups := gs } ∧
    ∀ j, j < n → ∃ gs', mget? gs (gkey b j) = some (newGroup { s with groups := gs' } b 0 j (8 * core + j % 8)) := by
  induction n with
  | zero => exact ⟨s.groups, rfl, fun j hj => absurd hj (Nat.not_lt_zero j)⟩
  | succ n ih =>
    obtain ⟨gs, run, listed⟩ := ih
    refine ⟨mput gs (gkey b n) (newGroup { s with groups := gs } b 0 n (8 * core + n % 8)), ?_, fun j hj => ?_⟩
    · rw [startGroups, List.range_succ, List.foldl_append, ← startGroups, run]
      rfl
    · rw [mget?_mput]
      by_cases h : j = n
      · exact ⟨gs, by rw [h, if_pos rfl]⟩
      · obtain ⟨gs', hj'⟩ := listed j (by omega)
        exact ⟨gs', by rw [if_neg (by unfold gkey; omega), hj']⟩

/-- The groups `js` of a block start on one of its cores, on the partitions in turn. -/
def listShare (s : State) (b rank core : Nat) (js : List Nat) : State :=
  (List.range js.length).foldl (fun s i => s.setGrp (gkey b (js.getD i 0)) (newGroup s b rank (js.getD i 0) (8 * core + i % 8))) s

theorem startRank_eq (s : State) (b rank core : Nat) : startRank s b rank core =
    let t := listShare s b rank core ((s.krn (s.blk b).kernel).share (s.ctx (s.blk b).ctx).det rank)
    if (t.ctx (s.blk b).ctx).det then t.modCore core (fun c => { c with lq := 0 }) else t := by
  unfold startRank listShare
  dsimp only

theorem listShare_range (s : State) (b core n : Nat) : listShare s b 0 core (List.range n) = startGroups s b core n := by
  rw [listShare, List.length_range, startGroups]
  refine List.foldl_ext _ _ _ fun t i hi => ?_
  rw [List.getD_eq_getElem _ _ (by simpa using hi), List.getElem_range]

/-- On one core whose share is the first `n` groups these start, and in a DET context its LQ is 0 (R301). -/
theorem startRank_first {s : State} {b core n : Nat} (h : (s.krn (s.blk b).kernel).share (s.ctx (s.blk b).ctx).det 0 = List.range n) :
    ((s.ctx (s.blk b).ctx).det = true → ((startRank s b 0 core).core core).lq = 0) ∧ (startRank s b 0 core).starts = s.starts ∧
    ∀ j, j < n → ∃ gs, mget? (startRank s b 0 core).groups (gkey b j) = some (newGroup { s with groups := gs } b 0 j (8 * core + j % 8)) := by
  obtain ⟨gs, run, listed⟩ := startGroups_spec s b core n
  rw [startRank_eq, h, listShare_range, run]
  dsimp only
  split
  · exact ⟨fun _ => congrArg Core.lq (State.modCore_core_same ..), rfl, listed⟩
  · next plain => exact ⟨fun det => absurd det plain, rfl, listed⟩

/-! ## Blocks that start (R54, R148, R229, R317) -/

theorem keepStart_eq (s : State) (kn : Nat) : ∃ ss, keepStart s kn = { s with starts := ss } ∧
    (mget? ss kn = some s.snap ∨ ∃ x, mget? s.starts kn = some x ∧ mget? ss kn = some x) := by
  unfold keepStart
  cases h : mget? s.starts kn with
  | none => exact ⟨_, rfl, .inl (by rw [mget?_mput, if_pos rfl])⟩
  | some x => exact ⟨s.starts, rfl, .inr ⟨x, rfl, h⟩⟩

/-- What neither a write of a group nor a write of a core changes is the same after the groups of one core have started. -/
theorem startRank_keeps {B : Type} (r : State → B) (hg : ∀ (s : State) k x, r (s.setGrp k x) = r s) (hc : ∀ (s : State) c f, r (s.modCore c f) = r s)
    (s : State) (b rank core : Nat) : r (startRank s b rank core) = r s := by
  rw [startRank_eq]
  dsimp only
  split
  · rw [hc, listShare, foldl_keeps r fun s i => hg s _ _]
  · rw [listShare, foldl_keeps r fun s i => hg s _ _]

theorem startRank_mem (s : State) (b rank core : Nat) : (startRank s b rank core).mem = s.mem :=
  startRank_keeps State.mem (fun _ _ _ => rfl) (fun _ _ _ => rfl) s b rank core

theorem startRank_blocks (s : State) (b rank core : Nat) : (startRank s b rank core).blocks = s.blocks :=
  startRank_keeps State.blocks (fun _ _ _ => rfl) (fun _ _ _ => rfl) s b rank core

theorem startBlock_mem (s : State) (b : Nat) : (startBlock s b).mem = s.mem :=
  foldl_keeps State.mem (fun s r => startRank_mem s b r _) _ _

theorem startBlock_blocks (s : State) (b : Nat) : (startBlock s b).blocks = mput s.blocks b { s.blk b with stage := .running } :=
  foldl_keeps State.blocks (fun s r => startRank_blocks s b r _) _ _

theorem startBlock_stage (s : State) (b m : Nat) : ((startBlock s b).blk m).stage = if m = b then .running else (s.blk m).stage := by
  rw [State.blk, startBlock_blocks]
  by_cases h : m = b
  · rw [h, mget_mput_same, if_pos rfl]
  · rw [mget_mput_ne (h := h), if_neg h]
    rfl

/-- Of blocks that start in turn every one runs. -/
theorem startBlocks_running (bs : List Nat) (s : State) (m : Nat) (h : m ∈ bs ∨ (s.blk m).stage = .running) :
    ((bs.foldl startBlock s).blk m).stage = .running := by
  induction bs generalizing s with
  | nil => exact h.resolve_left List.not_mem_nil
  | cons b bs ih =>
    refine ih _ ?_
    rw [startBlock_stage]
    by_cases e : m = b
    · exact .inr (if_pos e)
    · rw [if_neg e]
      exact h.imp_left fun hm => (List.mem_cons.mp hm).resolve_left e

/-- The blocks that wait for the same clearing start, once that is over and no lower block waits. -/
theorem execBlockStart_of_ready {s : State} {b : Nat} (placed : (s.blk b).stage = .placed) (cleared : ∀ m ∈ together s b, (s.blk m).clearAt ≤ s.clock)
    (first : lowerWaits s (s.blk b) (together s b) = false) : exec (.blockStart b) s =
      .next (((together s b).filter (fun m => (s.blk m).stage == .placed)).foldl startBlock (keepStart s (s.blk b).kernel)) := by
  have waits : (together s b).any (fun m => decide (s.clock < (s.blk m).clearAt)) = false :=
    List.any_eq_false.mpr fun m hm => by simpa using cleared m hm
  rw [exec_blockStart, execBlockStart]
  simp [placed, waits, first]

theorem execBlockStart_of_uncleared {s : State} {b : Nat} (h : ∃ m ∈ together s b, s.clock < (s.blk m).clearAt) : exec (.blockStart b) s = .next s := by
  have waits : (together s b).any (fun m => decide (s.clock < (s.blk m).clearAt)) = true := by simpa using h
  rw [exec_blockStart, execBlockStart]
  simp [waits]

theorem execBlockStart_of_lower {s : State} {b : Nat} (h : lowerWaits s (s.blk b) (together s b) = true) : exec (.blockStart b) s = .next s := by
  rw [exec_blockStart, execBlockStart]
  simp [h]

theorem together_of_alone {s : State} {b : Nat} (h : (s.blk b).cluster = none) : together s b = [b] := by rw [together, h]
theorem together_of_cluster {s : State} {b c : Nat} (h : (s.blk b).cluster = some c) : together s b = (s.clu c).blocks := by rw [together, h]

/-- A block alone waits for a lower block of its kernel in a DET context (R317). -/
theorem lowerWaits_alone (s : State) (b : Nat) : lowerWaits s (s.blk b) [b] = true ↔ (s.ctx (s.blk b).ctx).det = true ∧
    ∃ e ∈ s.blocks, e.2.kernel = (s.blk b).kernel ∧ e.2.stage = .placed ∧ e.2.lin < (s.blk b).lin ∧ e.1 ≠ b := by
  simp only [lowerWaits, Bool.and_eq_true, List.any_eq_true, beq_iff_eq, decide_eq_true_eq, Bool.not_eq_true', List.contains_eq_mem,
    decide_eq_false_iff_not, List.mem_singleton, and_assoc]

/-- The block runs, before its groups start. -/
def withRunning (s : State) (b : Nat) : State := s.modBlk b (fun x => { x with stage := .running })

theorem withRunning_blk (s : State) (b : Nat) : (withRunning s b).blk b = { s.blk b with stage := .running } := State.modBlk_blk_same ..

/-- A block on one core whose groups are one share starts with all of them, and in a DET context its core's LQ is 0 (R10, R203, R301). -/
theorem startBlock_alone {s : State} {b core n : Nat} (cores : (s.blk b).cores = [core])
    (share : (s.krn (s.blk b).kernel).share (s.ctx (s.blk b).ctx).det 0 = List.range n) :
    ((s.ctx (s.blk b).ctx).det = true → ((startBlock s b).core core).lq = 0) ∧ (startBlock s b).starts = s.starts ∧
    ∀ j, j < n → ∃ x, mget? (startBlock s b).groups (gkey b j) = some x ∧ FreshGroup (s.blk b) (s.krn (s.blk b).kernel) core j x := by
  have blk := withRunning_blk s b
  have run : startBlock s b = startRank (withRunning s b) b 0 core := by
    unfold startBlock
    dsimp only
    rw [cores, List.length_singleton, List.range_one, List.foldl_cons, List.foldl_nil, List.getD_cons_zero, withRunning]
  obtain ⟨lq, starts, listed⟩ := startRank_first (s := withRunning s b) (core := core) (n := n) (by rw [blk]; exact share)
  rw [run]
  refine ⟨fun det => lq (by rw [blk]; exact det), starts, fun j hj => ?_⟩
  obtain ⟨gs, hx⟩ := listed j hj
  have values := freshGroup_newGroup { withRunning s b with groups := gs } b core j
  have same : ({ withRunning s b with groups := gs } : State).blk b = { s.blk b with stage := .running } := blk
  rw [same] at values
  exact ⟨_, hx, values⟩

theorem blocksStart_holds : Claims.blocksStart := by
  intro s b core placed alone cores k bl
  have mates := together_of_alone alone
  refine ⟨fun uncleared => execBlockStart_of_uncleared ⟨b, by simp [mates], uncleared⟩,
    fun det lower => execBlockStart_of_lower (by rw [mates]; exact (lowerWaits_alone s b).mpr ⟨det, lower⟩), fun cleared first share => ?_⟩
  have ready : lowerWaits s (s.blk b) (together s b) = false := by
    rw [mates, ← Bool.not_eq_true, lowerWaits_alone]
    rintro ⟨det, e, he, kernel, stage, lower, other⟩
    exact absurd (first det e he kernel stage other) (Nat.not_le_of_lt lower)
  have run := execBlockStart_of_ready placed (by simpa [mates] using cleared) ready
  obtain ⟨ss, kept, starts⟩ := keepStart_eq s (s.blk b).kernel
  rw [mates, List.filter_singleton, placed, kept, beq_self_eq_true, cond_true, List.foldl_cons, List.foldl_nil] at run
  obtain ⟨lq, same, groups⟩ := startBlock_alone (s := { s with starts := ss }) (b := b) cores share
  refine ⟨_, run, startBlock_mem .., (startBlock_stage ..).trans (if_pos rfl), lq, ?_, groups⟩
  exact same ▸ starts

theorem matesStart_holds : Claims.matesStart := by
  intro s b c placed cluster
  have mates := together_of_cluster cluster
  refine ⟨fun uncleared => execBlockStart_of_uncleared (by rw [mates]; exact uncleared), fun cleared plain => ?_⟩
  have ready : lowerWaits s (s.blk b) (together s b) = false := by rw [lowerWaits, plain, Bool.false_and]
  obtain ⟨ss, kept, -⟩ := keepStart_eq s (s.blk b).kernel
  refine ⟨_, execBlockStart_of_ready placed (by rw [mates]; exact cleared) ready, ?_, fun m hm stage => startBlocks_running _ _ m (.inl ?_)⟩
  · exact (foldl_keeps State.mem startBlock_mem _ _).trans (by rw [kept])
  · exact List.mem_filter.mpr ⟨mates ▸ hm, by rw [stage]; rfl⟩

/-- Settles O53: the choice and the placing, the start of a block alone, and the start of a cluster's blocks. -/
theorem blocksArePlacedAndStart : Obligations.BlocksArePlacedAndStart := ⟨blocksPlaced_holds, blocksStart_holds, matesStart_holds⟩

end Sys2Proof.Machine
end

section
/-!
PROOFS. A port that goes down while a package's operation waits for a message under a reservation on it (R26, R337, R379, R387).
-/
namespace Sys2Proof.Machine

/-- A WRSIG of the group 512 on core 0, which waits for the answer to message 9. -/
def waitingWrsig : EngOp :=
  { id := 5, opc := 0xF0, cls := 0, gid := 512, block := 1, rank := 0, ctx := 0, eng := 0, fn := 0, fmt := 0x21, frame := List.replicate 16 0, extra := [],
    st := 0, setk := 0, pc := 0, pos := 0, started := true, pieces := [], sent := [9], signalled := false, fail := none, units := 0 }

/-- A PUT under a reservation from die 0 to die 2. -/
def reservedPut : Msg :=
  { typ := 0x20, src := 0, dst := 2, cls := 3, hi := false, rsvd := true, last := true, ctx := 0, tid := 5, seq := none, addr := 2 ^ 43 + 0x10200, aux := 0,
    mask := 0, data := [1, 2, 3] }

/-- Port 2 has been retraining for 2 ms of 1,300 cycles per microsecond. The PUT takes it. The fault log of the operation's context lies at 0x1000 on an
uncached page, with 16 slots and no record. -/
def lostPutState : State :=
  { clock := 2600000, cur := 512, nextId := 10, packages := 2,
    mem := [(0x1008, 16)],
    ports := [(2, .retraining 0)],
    net := [(9, reservedPut)],
    groups := [(512, { block := 1, stop := .running, nv := 8 })],
    blocks := [(1, { stage := .running, cores := [0] })],
    ctxs := [(0, { log := 0x1000, grants := [(0, 0, 2 ^ 44)] })],
    cores := [(0, { tlb := [⟨0, 2 ^ 44, 0, true, true, 1, 0, 0⟩], copyQ := [waitingWrsig] })] }

/-- The first byte of memory at an address, once an event has happened. -/
def byteAfter (a : Nat) : Out → Option Byte
  | .next u => some (cget u.mem a)
  | _ => none

/-- The loss is recorded: the first slot of the fault log begins with LINK_DOWN (R337). -/
theorem portDown_records_loss : byteAfter 0x1040 (exec (.portDown 2) lostPutState) = some 0x15 := by decide +kernel

/-- Refutes O56: in `lostPutState` PORT_DOWN loses the PUT that an operation waits for, and the record of the operation in its context's fault log is
written to memory (R387): memory is not as before. -/
theorem not_errorsPowerAndLinks : ¬ Obligations.ErrorsPowerAndLinks := by
  rintro ⟨-, -, -, -, -, ports, -⟩
  obtain ⟨-, u, run, mem, -⟩ := ((ports lostPutState 2).2 0 rfl).2 (by decide)
  have recorded := portDown_records_loss
  rw [run, byteAfter, mem] at recorded
  exact absurd recorded (by decide)

end Sys2Proof.Machine
end
